-- ==== Sys2Proof/Word.lean ====
section
/-! DEFINITION. The machine words of the IHL-4T768 model: fixed-width bit vectors and the
sorted association list that every sparse store of the model is made of. -/

namespace Sys2Proof

/-- One byte. -/
abbrev Byte := BitVec 8
/-- A 16-bit half word. -/
abbrev Half := BitVec 16
/-- A 32-bit word: a scalar register, a counter, a 32-bit register. -/
abbrev Word := BitVec 32
/-- A 64-bit word: a BAR0 register, a time stamp. -/
abbrev DWord := BitVec 64
/-- A 32-byte descriptor, little-endian (R76): byte i is bits [8i+7:8i]. -/
abbrev Desc := BitVec 256
/-- A 64-byte memory line, little-endian: byte i is bits [8i+7:8i]. -/
abbrev Line := BitVec 512

/-- A sparse store: pairs of key and value with keys strictly rising, and no pair whose value is
what an unlisted key reads as. `Machine/Store.lean` holds its read and write. -/
abbrev Store (α : Type) := List (Nat × α)

end Sys2Proof
end

