-- ==== Sys2Proof/Machine/CommandTypes.lean ====
section
/-! DEFINITION. The types of the commands' operands: which unit a command names, and the choices a
command carries. -/

namespace Sys2Proof

/-- A gallery by tower and physical position index 13c + r (R39, R564). -/
structure GalId where
  tower : Fin 4
  pos : Fin 104
  deriving DecidableEq, Repr

/-- The five descriptor queues (Table 3-6). -/
inductive QueueId where
  | mx | vx0 | vx1 | stair | arc
  deriving DecidableEq, Repr

/-- What an access of the host addresses: BAR0, BAR4 beside its doorbells, or configuration space (R401, R398). -/
inductive BarSpace where
  | bar0 | bar4 | config
  deriving DecidableEq, Repr

/-- Who accesses, and where. -/
structure BarReq where
  who : Half
  space : BarSpace
  deriving DecidableEq, Repr

/-- A requester's access of an offset of BAR0, BAR4 or configuration space (R7). -/
structure BarAddr where
  req : BarReq
  off : BitVec 26
  deriving DecidableEq, Repr

/-- A path whose lanes R42 repairs: the data, command, strobe and token lanes of a vault bus (Table 2-3), the data and strobe lanes of one
direction of a service stair (Table 2-4) or of a bridge (Table 2-7), and the side-band lanes of either. -/
inductive LanePath where
  | vault (t : Fin 4) (v : Fin 104)
  | vaultCommand (t : Fin 4) (v : Fin 104)
  | vaultStrobe (t : Fin 4) (v : Fin 104)
  | vaultToken (t : Fin 4) (v : Fin 104)
  | stair (t : Fin 4) (h : Fin 4) (up : Bool)
  | stairStrobe (t : Fin 4) (h : Fin 4) (up : Bool)
  | stairSide (t : Fin 4) (h : Fin 4)
  | bridge (b : Fin 4) (forward : Bool)
  | bridgeStrobe (b : Fin 4) (forward : Bool)
  | bridgeSide (b : Fin 4)
  deriving DecidableEq, Repr

/-- Lanes of a path, its spares apart (Tables 2-3, 2-4, 2-7). -/
def LanePath.lanes : LanePath → Nat
  | .vault _ _ => 576
  | .vaultCommand _ _ => 24
  | .vaultStrobe _ _ => 18
  | .vaultToken _ _ => 1
  | .stair _ _ _ => 3456
  | .stairStrobe _ _ _ => 108
  | .stairSide _ _ => 16
  | .bridge _ _ => 4608
  | .bridgeStrobe _ _ => 144
  | .bridgeSide _ => 12

/-- Who asks a home slice for a line (Table 17-4, RKIND). -/
inductive Requester where
  | gallery (g : GalId)
  | stairTop (t : Fin 4)
  | chanter (g : GalId)
  | usher
  | bar2
  | link (l : Fin 5)
  deriving DecidableEq, Repr

/-- A line request: a read, or a write of the bytes a mask names (R233). -/
inductive LineOp where
  | read
  | write (mask : BitVec 64) (data : BitVec 512)
  deriving DecidableEq, Repr

/-- A chanter cluster CHC[v] of a tower, and so its vault (R321). -/
structure ClusterId where
  tower : Fin 4
  vault : Fin 104
  deriving DecidableEq, Repr

/-- A line that a pass of the self-test finds otherwise than was written (R352): its place in a vault, the pass (B: written through the top), and
the bits of its 72 symbols that came back wrong. -/
structure TestFault where
  vault : ClusterId
  layer : Fin 16
  bank : Fin 16
  row : Fin 8192
  col : Fin 64
  passB : Bool
  flips : BitVec 576
  deriving DecidableEq, Repr

/-- A chanter of a cluster. -/
structure ChanterId where
  cluster : ClusterId
  ch : Fin 32
  deriving DecidableEq, Repr

/-- An ATTN_QUERY: one that a link has brought, or one that the home sends for a row of a ticket, with the query vectors (R278). -/
inductive AttnSide where
  | receive (l : Fin 5)
  | send (ticket : Word) (layer : Fin 255) (tower : Fin 4) (chunk : Fin 64) (q : List Word)
  deriving DecidableEq, Repr

/-- What a lane brought of an alignment block (R441): the symbol time of its last marker symbol, if the marker was found; its lane word; and the symbols by which
the partner's clock ran ahead since the last one. -/
structure LaneAlign where
  marker : Option Nat
  word : BitVec 80
  drift : Int
  deriving DecidableEq, Repr

/-- An ANNEX_OPEN: one that a link has brought, or one that the home sends to move a full chunk of a ticket to a node (R277, R458). -/
inductive AnnexSide where
  | receive (l : Fin 5)
  | send (ticket : Word) (tower : Fin 4) (chunk : Fin 64) (node : Byte)
  deriving DecidableEq, Repr

/-- A word of a gallery's own storage (R86, R487): of a memory by byte address in it, of the accumulator window
(buf · 131072 + row · 128 + n), or of a vector core (a vector core's `bad` keys). -/
inductive GalCell where
  | spad (a : Fin 4194304)
  | imem (a : Fin 65536)
  | dmem (a : Fin 32768)
  | window (n : Fin 262144)
  | vreg (core : Fin 2) (n : Fin 66564)
  deriving DecidableEq, Repr

/-- An error that a gallery finds in a word it reads: beyond the word's code where `bad` says so. Parity corrects nothing. -/
structure GalUpset where
  cell : GalCell
  bad : Bool
  deriving DecidableEq, Repr

/-- A gallery that executes, with the errors that it finds in the words it reads (R86). -/
structure GalRun where
  gal : GalId
  errs : List GalUpset
  deriving DecidableEq, Repr

/-- A write of a gallery's GCTL.HALT: of 1, or with `clear` of 0 (R93). -/
structure HaltWrite where
  gal : GalId
  clear : Bool
  deriving DecidableEq, Repr

/-- A run of a gallery's service descriptor: a new one that the usher writes first, or the one that stands (R126, R128). -/
structure ServiceRun where
  gal : GalId
  svc : Option Desc
  deriving DecidableEq, Repr

/-- An error that a chanter finds in a word of its SRAM, by byte address (R323, R487). -/
structure SramUpset where
  addr : Fin 65536
  bad : Bool
  deriving DecidableEq, Repr

/-- A chanter that executes, with the errors that it finds in the words it reads (R323). -/
structure ChanterRun where
  chanter : ChanterId
  errs : List SramUpset
  deriving DecidableEq, Repr

/-- A burst on a bridge (R55): the tower it is bound for, its code words, and its CRC-32. -/
structure Burst where
  dest : Fin 4
  words : List (BitVec 576)
  crc : Word
  deriving DecidableEq, Repr

/-- What the board gives the module at power-on: the address strap (R578), and the level at which it holds TRST_N (R580). -/
structure Board where
  strap : Fin 8
  trst : Bool
  deriving DecidableEq, Repr

/-- What an uncorrectable error strikes in a slice's own storage (R493). -/
inductive SlicePart where
  | data | tag | pinBit
  deriving DecidableEq, Repr

/-- The PCIe events that perform a resync (R400). -/
inductive PcieEvent where
  | flr | hotReset | linkDown | d3hot | perst
  deriving DecidableEq, Repr

/-- The five parts of the generation (R587). -/
inductive Machine.Part where
  | ihl4t768 | ihl4t768i | ihl4t384 | ihl3t576 | ihl4t768l
  deriving DecidableEq, Repr

/-- What the fuse banks hold (Table 18-1). Galleries, reserve causes and footprints (with their layer) are named (tower, physical position), chanters
(tower, cluster number, chanter), row repairs (tower, position, layer, bank, row), bank baselines (tower, bank, µΩ); `layers` is the layer count of each
tower, `keys` the hashes of the fused keys. A bank that `base` does not name has a baseline of 0. -/
structure Machine.Fuses where
  part : Machine.Part
  layers : List Nat
  badGal : List (Nat × Nat)
  badBus : List (Nat × Nat)
  badSlice : List (Nat × Nat)
  badFoot : List (Nat × Nat × Nat)
  rowRep : List (Nat × Nat × Nat × Nat × Nat)
  badCh : List (Nat × Nat × Nat)
  badLanes : List (LanePath × Nat)
  base : List (Nat × Nat × Nat)
  keys : List (List Byte)
  keyrev : BitVec 4
  svnmin : Word
  deriving DecidableEq, Repr

/-- Where a matrix core stands when the Whistle's drain ends: the relative tile and row of its array descriptor, whether in that tile's load, and the row of its flush. -/
structure MxStand where
  gal : GalId
  tile : Fin 64
  row : Half
  inLoad : Bool
  flush : Fin 1025
  deriving DecidableEq, Repr

end Sys2Proof
end

