-- ==== Sys2Proof/Machine/SysState.lean ====
section
/-! DEFINITION. The state of power and temperature control, of retirement, of bring-up and the standby usher, of the pins and of the I3C
target (chapters Power, Thermal Control and the Energy Budget, Data Integrity and Fault Handling, Bring-up, Image Loading and Reset,
and Package, Signals and Board Requirements), outside their BAR0 registers. -/

namespace Sys2Proof.Machine

/-- What power and temperature control keeps. By tower: failed corridor cells, and whether ILIM throttling is on (R463). By bank (tower · 104 + position):
consecutive counted samples above 1.25 and above 3 times the model (R473), and one more than the time at which its recovery measurement began
(R474). By gallery: one more than the time at which its staging began, and whether NOTICE 0x0305 has been posted (R471). By sensor (tower ·
2048 + die · 104 + position): periods of disagreement in a row and of agreement in a row (R478), and the rows of Table 16-4 in force. By cluster: one more
than the BGMAX it had before the 95 °C action. `alarm` is the thermal-stop alarm, raised and not yet acted on (R479). -/
structure PowerState where
  corrFail : Store Nat
  ilimOn : Store Bool
  crack : Store (Nat × Nat)
  measuring : Store DWord
  staging : Store DWord
  stageTold : Store Bool
  differ : Store Nat
  agree : Store Nat
  acts : Store Nat
  bgSaved : Store Nat
  alarm : Bool
  deriving DecidableEq, Repr

/-- No cell failed, nothing measured, no action in force. -/
def PowerState.reset : PowerState :=
  { corrFail := [], ilimOn := [], crack := [], measuring := [], staging := [], stageTold := [], differ := [], agree := [], acts := [], bgSaved := [], alarm := false }

/-- A frame, or a whole bank, of a vault footprint (R499). -/
structure FrameId where
  tower : Nat
  pos : Nat
  layer : Nat
  bank : Nat
  f : Nat
  whole : Bool
  deriving DecidableEq, Repr

/-- A retirement that is due, and whether RETREQ asked for it (R501). -/
structure RetDue where
  frame : FrameId
  asked : Bool
  deriving DecidableEq, Repr

/-- A retirement entry in use (Table 17-5): its index in the tower's table, what it retires and where to. -/
structure RetEntry where
  index : Nat
  src : FrameId
  dst : FrameId
  active : Bool
  asked : Bool
  deriving DecidableEq, Repr

/-- Retirement as the usher and the vault controllers keep it beside the tables in memory: what is due; the entries in use; UE counts of frames; by vault·72 + group the
layers at which a lane group was retrained (R492); reserve frames that no retirement may take: fused bad, or given up for another; when CE counts were last halved. -/
structure RasState where
  due : List RetDue
  entries : List RetEntry
  ue : Store Nat
  groups : Store (List Nat)
  spent : List FrameId
  decayAt : DWord
  deriving DecidableEq, Repr

def RasState.reset : RasState := { due := [], entries := [], ue := [], groups := [], spent := [], decayAt := 0 }

/-- A receiver of the broadcast (R529, R530): what it is sent, the chunks it holds, whether it has answered this round, whether its digest
matched, and whether it is closed. -/
inductive Receiver where
  | gallery (k : Nat)
  | chanter (cl ch : Nat)
  | standby
  deriving DecidableEq, Repr

/-- Where a receiver stands. `data` are the section bytes it has, by place; `held` the chunks; `okAt` is one more than the time at which its digest matched. -/
structure RecvState where
  who : Receiver
  data : Store Byte
  held : List Nat
  writeBad : Bool
  answered : Bool
  asked : Bool
  okAt : DWord
  closed : Bool
  fenced : Bool
  deriving DecidableEq, Repr

/-- A failure of a bring-up step (Table 18-12): the tower, the code, and what FAIL gives as unit and detail. -/
structure StepFail where
  tower : Nat
  code : Nat
  unit : Nat
  detail : Nat
  deriving DecidableEq, Repr

/-- Bring-up: when the step that runs began and the failures it has met; which of steps 3 and 5 have been retried (R517); whether the module has been
sealed since the last cold or power-on reset (Table 18-7); the firmware image in force; whether a NOTICE of a thermal stop is due at the next seal (R480); when the last rail enable went out; register values that the usher firmware gives beside the settings (R527), by offset; the broadcast's receivers,
its round, and when its END headers went out; the lines that the self-test has reported, with their pass (R352). -/
structure BringState where
  began : DWord
  fails : List StepFail
  retried : List Nat
  everSealed : Bool
  image : List Byte
  hot : Bool
  enAt : DWord
  chosen : List (Nat × DWord)
  recv : List RecvState
  round : Nat
  endAt : DWord
  testLog : List TestFault
  deriving DecidableEq, Repr

def BringState.reset : BringState :=
  { began := 0, fails := [], retried := [], everSealed := false, image := [], hot := false, enAt := 0, chosen := [], recv := [], round := 0, endAt := 0, testLog := [] }

/-- The ushers: whether the standby is to take over (R538), and towers whose reset is due (R535). -/
structure HaState where
  takeover : Bool
  towerDue : List Nat
  deriving DecidableEq, Repr

def HaState.reset : HaState := { takeover := false, towerDue := [] }

/-- The pins and the I3C target (R574 to R583): enables and power-goods of the five main rails in order, the reset inputs held, THERMTRIP_N asserted (as a Bool), the level of TRST_N (R580), the strap, the
dynamic address, the read pointer, what the last read returned, and the interrupts sent and not yet acknowledged. -/
structure PinState where
  en : Nat
  pg : Nat
  coldHeld : Bool
  warmHeld : Bool
  thermTrip : Bool
  trst : Bool
  strap : Nat
  dynamic : Option (BitVec 7)
  pointer : Word
  readOut : Option DWord
  deriving DecidableEq, Repr

def PinState.reset : PinState :=
  { en := 0, pg := 0, coldHeld := false, warmHeld := false, thermTrip := false, trst := false, strap := 0, dynamic := none, pointer := 0, readOut := none }

/-- Pins, the I3C target and bring-up. `alerts` are the in-band interrupts that stand, in code order; `fwEntries` the entry table of
the chanter firmware in force (R348), `modelKeys` the model key hashes of its usher section (R525). -/
structure SysState where
  alerts : List Byte
  fwEntries : List Nat
  modelKeys : List (List Byte)
  power : PowerState
  ras : RasState
  bring : BringState
  ha : HaState
  pins : PinState
  deriving DecidableEq, Repr

def SysState.reset : SysState :=
  { alerts := [], fwEntries := [], modelKeys := [], power := PowerState.reset, ras := RasState.reset, bring := BringState.reset,
    ha := HaState.reset, pins := PinState.reset }

end Sys2Proof.Machine
end

