-- ==== Sys2Proof/Machine/HostState.lean ====
section
/-! DEFINITION. The state of the host interface outside its BAR0 registers (chapter Host Interface): ring indices of the driver,
kept completions, interrupts sent, and the commands that the usher has accepted and not yet carried out. -/

namespace Sys2Proof.Machine

/-- A completion before it is posted (Table 14-10): everything but PHASE, SEQ and EPOCH. `body` is bytes 16 to 60; `cmdSeq` the
sequence number of the command it answers, 0 for none. -/
structure Completion where
  type : Byte
  count : Nat
  cid : Half
  ticket : Word
  body : BitVec 360
  cmdSeq : BitVec 48
  deriving DecidableEq, Repr

/-- A completion ring as the module keeps it beside CQ[c].BASE and CFG: the driver's HEAD, the phase of the pass, the
completions it keeps in order (R410), and what R411 counts: entries since the last interrupt, one more than the
time of the first of them, and the interrupts due (`idue`) that have not been raised; BASE and size as ENABLE latched them (R406); one more than the time since which it is full, and whether the
NOTICE of that has been posted (R410). -/
structure CqState where
  head : Half
  phase : Bool
  kept : List Completion
  icount : Nat
  ifirst : DWord
  idue : Nat
  base : DWord
  log2n : Nat
  fullAt : DWord
  told : Bool
  deriving DecidableEq, Repr

/-- A ring no driver has enabled. -/
def CqState.reset : CqState := { head := 0, phase := true, kept := [], icount := 0, ifirst := 0, idue := 0, base := 0, log2n := 0, fullAt := 0, told := false }

/-- A submission ring as the module keeps it beside SQ[q].BASE, CFG and STAT: the doorbell value, and BASE and size as ENABLE latched them (R406). -/
structure SqState where
  tail : Half
  base : DWord
  log2n : Nat
  deriving DecidableEq, Repr

/-- A ring no driver has enabled. -/
def SqState.reset : SqState := { tail := 0, base := 0, log2n := 0 }

/-- A BAR2 access of one line, at its offset's line number, or a doorbell write, in order of arrival (R402, R404). `poison` says that the data came poisoned. -/
inductive BarOp where
  | read (line : Nat)
  | write (line : Nat) (mask : BitVec 64) (data : Line) (poison : Bool)
  | sqTail (q : Nat) (v : Word)
  | cqHead (q : Nat) (v : Word)
  deriving DecidableEq, Repr

/-- An access that waits: the time of its arrival and of its last try (R405). -/
structure BarWait where
  op : BarOp
  since : DWord
  last : DWord
  deriving DecidableEq, Repr

/-- How a BAR2 read completed (R405). -/
inductive BarAnswer where
  | data (d : Line)
  | poisoned
  | unsupported
  | abort
  deriving DecidableEq, Repr

/-- A command that the usher has accepted and that waits to take effect or to end (R415): its sequence number, SQ,
entry and payload, the buffers that its scatter list names (address, length), where its explicit mask map is kept (R417), whether a waiting FEED has appended its
tokens (R382), and whether it waits for the epoch to open (`late`, Table 11-18). -/
structure HostCmd where
  seq : BitVec 48
  sq : Byte
  entry : Line
  payload : List Byte
  bufs : List (Nat × Nat)
  map : Option Nat
  fed : Bool
  late : Bool
  deriving DecidableEq, Repr

/-- The host interface. `bar2Wait` are the BAR2 accesses and doorbells that wait, `bar2Out` how the last BAR2 read completed, `bar0Out` the data of the last BAR0 read, none where it
completed with Unsupported Request (R7), `aerPoison` that AER
has logged a poisoned TLP sent and `aerInternal` an uncorrectable internal error, non-fatal (R405); `pcie` is the width and rate the link trained to, `cfg` the
writable bits of configuration space by offset (R398), `msix` the dwords of the MSI-X table, `pba` 1 for each vector that is pending (R401), `interrupts` the vectors whose message
was sent (R411); `lastSeq` the last journal entry that names a ticket
(R421); `areas` the spill areas granted (address, length) and `taken` what spills hold of them;
`served` the commands taken from each SQ in this round (R408); `early` the notices that fell due before seal. -/
structure HostState where
  cq : Store CqState
  sq : Store SqState
  interrupts : List (BitVec 11)
  accepted : List HostCmd
  lastSeq : Store (BitVec 48)
  negotiated : Bool
  areas : List (Nat × Nat)
  taken : List (Nat × Nat)
  served : Store Nat
  early : List (Nat × Nat × Nat × Nat)
  bar2Wait : List BarWait
  bar2Out : Option BarAnswer
  bar0Out : Option DWord
  aerPoison : Bool
  aerInternal : Bool
  cfg : Store Word
  msix : Store Word
  pba : Store Nat
  pcie : Nat × Nat
  deriving DecidableEq, Repr

/-- Nothing enabled, nothing negotiated (R424, R432). DESIGN CHOICE: log entry 96. -/
def HostState.reset : HostState :=
  { cq := [], sq := [], interrupts := [], accepted := [], lastSeq := [], negotiated := false, areas := [], taken := [], served := [], early := [],
    bar2Wait := [], bar2Out := none, bar0Out := none, aerPoison := false, aerInternal := false, cfg := [], msix := [], pba := [], pcie := (16, 64) }

end Sys2Proof.Machine
end

