-- ==== Sys2Proof/Machine/UsherState.lean ====
section
/-! DEFINITION. What the usher keeps beside the structures it holds in module memory (chapters Attention and the KV Cache, Floor
Plans, The Cloakroom, and Data Integrity): where its structures lie, frames, slots, models, plans, tickets in work. -/

namespace Sys2Proof.Machine

/-- The addresses that the usher firmware chooses at a cold start (R360, R600): the cloakroom header and its copy's offset rule,
the tables and pools, the work areas of each tower (`work` holds the range lists of its jobs), its staging area of spill and recall (`stage`: base, bytes), and the
2 MiB frames of usher memory as (first frame, count), a frame being its address over 2 MiB. -/
structure Layout where
  header : Nat
  dt0 : Nat
  dt1 : Nat
  ssp0 : Nat
  ssp1 : Nat
  rows : List Nat
  result : List Nat
  shadow : List Nat
  work : List Nat
  stage : List (Nat × Nat)
  moves : Nat
  flips : Nat
  record : Nat
  rtabA : List Nat
  rtabB : List Nat
  owned : List (Nat × Nat)
  deriving DecidableEq, Repr

/-- No firmware has chosen anything. -/
def Layout.reset : Layout :=
  { header := 0, dt0 := 0, dt1 := 0, ssp0 := 0, ssp1 := 0, rows := [], result := [], shadow := [], work := [], stage := [], moves := 0, flips := 0,
    record := 0, rtabA := [], rtabB := [], owned := [] }

/-- What a KV frame holds (R267, R600): nothing, slots of a class (0 W, 1 N, 2 D), tables and logs, or a model's holding. -/
inductive FrameUse where
  | free
  | slots (cls : Nat)
  | blocks
  | held
  deriving DecidableEq, Repr

/-- A model index (R420): the image, where each weight section lies (SID, tower, base), the adapters' sections (base, length),
the SCRATCH and PSTORE area of each tower, the base of each region that a COPY has moved (tower · 16 + region), the frames
it holds, and the (SID, offset) of each 64 KiB whose reload is pending (R511). -/
structure ModelSlot where
  image : List Byte
  weights : List (Nat × Nat × Nat)
  adapters : Store (List (Nat × Nat))
  scratch : List Nat
  moved : Store Nat
  frames : List Nat
  reload : List (Nat × Nat)
  deriving DecidableEq, Repr

/-- An index that holds no model. -/
def ModelSlot.empty : ModelSlot := { image := [], weights := [], adapters := [], scratch := [], moved := [], frames := [], reload := [] }

/-- The host command that a completion answers (R422): its CID, ring, opcode and sequence number, and the SQ that it came from. -/
structure Ans where
  cid : Half
  cring : Nat
  opc : Nat
  seq : BitVec 48
  sq : Nat
  deriving DecidableEq, Repr

/-- A plan selection (R419) with its overrides applied, and the command it answers. -/
structure Selection where
  midx : Nat
  longp : Nat
  pfmin : Nat
  pfwait : Nat
  pfmax : Nat
  dplan : Nat
  pplan : Nat
  tplan : Nat
  tickets : List Word
  ans : Option Ans
  deriving DecidableEq, Repr

/-- Why a row is in a row table (R378). -/
inductive RowKind where
  | sample
  | prefill
  | recomp
  deriving DecidableEq, Repr

/-- A VALID row of a row table at its place r, the towers whose record of it was taken, and whether the row is done: its result
accepted, or the row removed unsampled. -/
structure RowInfo where
  r : Nat
  ticket : Word
  pos : Nat
  kind : RowKind
  seen : List Nat
  done : Bool
  deriving DecidableEq, Repr

/-- A row table (R303): its BATCH and its rows with padding; `lags` says for a logical gallery (tower · 96 + number) by how many steps its mailbox names the
table later than step BATCH; whether its results stand and whether its energy has been shared (R381). -/
structure RowTable where
  batch : Nat
  lags : List (Nat × Nat)
  nrows : Nat
  rows : List RowInfo
  accepted : Bool
  shared : Bool
  deriving DecidableEq, Repr

/-- An explicit mask map kept for a command's positions (R417): first and last position, and its address. -/
structure MaskMap where
  first : Nat
  last : Nat
  addr : Nat
  len : Nat
  deriving DecidableEq, Repr

/-- A page of a list: tower, chunk, layer, local head, kind, page of the chunk. -/
structure PageRef where
  t : Nat
  k : Nat
  layer : Nat
  j : Nat
  kind : Nat
  page : Nat
  deriving DecidableEq, Repr

/-- Where a spill goes (R388, R390): host memory or a peer's annex. -/
inductive SpillTo where
  | host (addr len : Nat) (area : Bool)
  | peer (node : Nat)
  deriving DecidableEq, Repr

/-- What a job that the usher issued serves (R349 to R351): a ticket's demotion, FORK, spill or recall, move n of the changeover, or the patrol of a vault. -/
inductive WorkFor where
  | demote (i : Nat)
  | fork (i : Nat)
  | move (n : Nat)
  | spill (i : Nat)
  | recall (i : Nat)
  | patrol (vk : Nat)
  deriving DecidableEq, Repr

/-- What a job does with its items: copies (source, destination, bytes), re-encodes pages (slot, new slot, entry address), sums the bytes (address, _, bytes), or
patrols its vault from vault offset (first component) on. -/
inductive WorkKind where
  | copy
  | demote
  | sum
  | patrol
  deriving DecidableEq, Repr

/-- A job of the usher: its JOBID, cluster, whether its record has been written to JOBIN, and the status of its completion record, once it has come. -/
structure Work where
  id : Nat
  cl : Nat
  kind : WorkKind
  why : WorkFor
  items : List (Nat × Nat × Nat)
  sent : Bool
  status : Option Nat
  deriving DecidableEq, Repr

/-- A spill or recall at work on its image, a window of the staging areas at a time (R390, R391): the pages done, the image offset reached, whether the CRC of the window
is being taken, the CRC so far, and whether everything has been sent. -/
structure Pack where
  done : Nat
  off : Nat
  sum : Bool
  crc : Nat
  sent : Bool
  deriving DecidableEq, Repr

/-- What the usher keeps of a ticket beside its descriptor. `posted` is the log index up to which TOKENS have been posted; `npos` NPOS while the KV is away; `ran`
the rows taken since it entered the running set; `preempt` acts at its next table boundary; `leave` says that a RELEASE waits for it; `kept` are the
pages that a demotion left hot (R387), `demAt` the time of the
last attempt; `lost` the positions to
recompute; `area` its range of a spill area and `imgLen` the length of its image; `annex` the annex that a peer granted its spill; `img` the pages of its image with their formats, under the head map for `imgMap` towers, `slots` the slots that its recall fills, `pack` where its spill or recall stands; `retSeq` the sequence number from which commands met it in RETIRING; `fork` the source that a FORKING ticket copies, and the command; `fresh` the lost page indices that still lack
fresh slots (R392), `rem` the remote chunks of a spilled ticket (tower, chunk, entry), `recallBad` that the target of a recall answered with an error. -/
structure TkAux where
  posted : Nat
  npos : Nat
  residue : Nat
  ran : Nat
  preempt : Bool
  leave : Bool
  release : List Ans
  kept : List PageRef
  demAt : DWord
  spill : Option SpillTo
  spillAns : List Ans
  area : Option (Nat × Nat)
  recallAns : List Ans
  recallAt : DWord
  lost : List Nat
  maps : List MaskMap
  fork : Option (Word × HostCmd)
  imgLen : Nat
  annex : Option Word
  img : List (PageRef × Nat)
  imgMap : Nat
  slots : List Nat
  pack : Option Pack
  retSeq : Nat
  fresh : List Nat
  rem : List (Nat × Nat × Nat)
  recallBad : Bool
  deriving DecidableEq, Repr

/-- Nothing in work. -/
def TkAux.empty : TkAux :=
  { posted := 0, npos := 0, residue := 0, ran := 0, preempt := false, leave := false, release := [], kept := [], demAt := 0,
    spill := none, spillAns := [], area := none, recallAns := [], recallAt := 0, lost := [], maps := [], fork := none, imgLen := 0, annex := none, img := [], imgMap := 0, slots := [], pack := none, retSeq := 0,
    fresh := [], rem := [], recallBad := false }

/-- The usher. Frames and slots are keyed by address over 2 MiB and by slot address; `blocks` holds the length of each table or log
block by address; `freeNext` is the first index never yet taken and `freeTail` the freed ones (R358); `stops` counts the tickets of
each stop-set record (R371). `plan` is the model index and plan id loaded, `prev` the plan of the same model before it, `want` the phase that a changeover goes to and `cause` whether one is due;
`grant` is G of the window that runs (R481), `grantHold` whether a warm reset keeps it; `since` is
when the epoch word last changed STATE. `moves` is the number of moves of the changeover, `rehung` what shared slots they copy where, `old` the superseded roots, `owed` the slots whose counts fall after MOVING (R314). `stepNet` sums, by step, the galleries closed and their net energy in pJ (R381). `ce` counts the CE records of a
frame (R499), `scan` the error-log records read, `faults` the last faults of galleries (R510). `mbox` lists the charges in µJ of
the steps whose mailbox is written and whose STEP has not retired (gallery key, step, charge). `lack` says that rows, a recovery or a recall lack frames, which the usher frees under R388. `works` are the jobs that the usher has issued and not yet answered, `jobSeq` the next JOBID,
`stager` the ticket that uses the staging areas. -/
structure UsherState where
  layout : Layout
  tabled : Bool
  frames : Store FrameUse
  slots : Store Nat
  blocks : Store Nat
  freeNext : Nat
  freeTail : List Nat
  aux : Store TkAux
  stops : Store Nat
  models : Store ModelSlot
  sel : Option Selection
  nextSel : Option Selection
  plan : Option (Nat × Nat)
  prev : Option (Nat × Nat)
  grant : Nat
  grantHold : Bool
  want : Nat
  cause : Bool
  since : DWord
  opened : DWord
  moves : Nat
  rehung : List (Nat × Nat)
  old : List Nat
  batch : Nat
  tables : List RowTable
  stepNet : Store (Nat × Nat)
  mbox : List (Nat × Nat × Nat)
  faulty : List (Nat × Nat)
  ce : Store Nat
  scan : Store Nat
  faults : List (Nat × DWord)
  rate : Nat
  metered : Nat
  msDone : Nat
  firstWin : Bool
  winStart : DWord
  policyV : Nat
  tdown : List Nat
  spilling : Bool
  lack : Bool
  works : List Work
  jobSeq : Nat
  stager : Option Nat
  owed : List Nat
  deriving DecidableEq, Repr

/-- The usher before it runs. -/
def UsherState.reset : UsherState :=
  { layout := Layout.reset, tabled := false, frames := [], slots := [], blocks := [], freeNext := 0, freeTail := [], aux := [], stops := [],
    models := [], sel := none, nextSel := none, plan := none, prev := none, grant := 0, grantHold := false, want := 1, cause := false, since := 0, opened := 0, moves := 0,
    rehung := [], old := [], batch := 0, tables := [], stepNet := [], mbox := [], faulty := [], ce := [], scan := [],
    faults := [], rate := 0, metered := 0, msDone := 0, firstWin := true, winStart := 0, policyV := 6, tdown := [], spilling := false, lack := false, works := [], jobSeq := 0, stager := none, owed := [] }

end Sys2Proof.Machine
end

