-- ==== Sys2Proof/Syntax.lean ====
section
/-! DEFINITION. The commands of the block: one constructor per row of the opcode table, with what the row leaves to whoever
sends it: the unit it acts on, data that comes from outside the module, and outcomes that the spec leaves to a sensor, a lane or a firmware. -/

namespace Sys2Proof

/-- A command. -/
inductive Instr where
  /-- REG64_LOW_HALF_READ (R7): A 32-bit read of the low half of a 64-bit BAR0 register latches the high half for that requester. -/
  | reg64LowHalfRead (req : BarReq) (off : BitVec 26) (wide : Bool)
  /-- BAR0_MISALIGNED_ACCESS (R7): A BAR0 access of the wrong size or alignment completes a read with Unsupported Request or drops a write. -/
  | bar0MisalignedAccess (off : BitVec 26) (size : Fin 4097) (write : Bool)
  /-- REGISTER_WRITE (R9): A write to a register that has no row of its own sets its RW fields, ignoring reserved or out-of-range values. -/
  | registerWrite (a : BarAddr) (wide : Bool) (v : DWord)
  /-- SCALAR_INSTRUCTION (R57): The scalar control core executes a base RV32IMC or Zicsr instruction. -/
  | scalarInstruction (x : GalRun)
  /-- MRET (R90): MRET returns from a trap and clears GCTL.TACT. -/
  | mret (g : GalId)
  /-- ISSUE (R62): ISSUE copies a 32-byte descriptor into a queue after checking its header. -/
  | issue (g : GalId) (rd rs1 : Fin 32) (q : Fin 8) (nb : Bool)
  /-- ISSUE_QUEUE_ROOM (R62): An ISSUE waiting on a full queue copies its descriptor once the queue has room. -/
  | issueQueueRoom (g : GalId)
  /-- FENCEQ (R64): FENCEQ waits until every earlier descriptor of the selected queues has completed. -/
  | fenceq (g : GalId) (rs1 : Fin 32)
  /-- FENCEQ_DRAINED (R64): A waiting FENCEQ retires when its selected queues have drained. -/
  | fenceqDrained (g : GalId)
  /-- STEP (R71): STEP marks the start of a floor-plan step, writes GSTEP and an event, and lets the Bellows charge the step. -/
  | step (g : GalId) (rs1 : Fin 32)
  /-- STEP_HOLD_RELEASE (R71): The usher releases a step hold and the held STEP retires, or it loads another stage. -/
  | stepHoldRelease (g : GalId)
  /-- EPOCH (R70): EPOCH writes the full current epoch to rd. -/
  | epoch (g : GalId) (rd : Fin 32)
  /-- WAITC (R65): WAITC with POLL = 0 waits until the counter reaches the target and returns its value. -/
  | waitc (g : GalId) (rd rs1 rs2 : Fin 32)
  /-- WAITC_POLL (R65): WAITC with POLL = 1 returns at once whether the counter condition is met. -/
  | waitcPoll (g : GalId) (rd rs1 rs2 : Fin 32)
  /-- WAITC_CONDITION_MET (R65): A waiting WAITC retires when its counter condition becomes met. -/
  | waitcConditionMet (g : GalId)
  /-- WAIT_TIMEOUT (R88): A WAITC, FENCEQ or ISSUE that waits longer than GWAITLIM raises the wait-timeout exception. -/
  | waitTimeout (g : GalId)
  /-- SIGC (R66): SIGC with SET = 0 adds a value to a local or remote sync counter. -/
  | sigc (g : GalId) (rs1 rs2 : Fin 32)
  /-- SIGC_SET (R66): SIGC with SET = 1 writes a value to a local sync counter. -/
  | sigcSet (g : GalId) (rs1 rs2 : Fin 32)
  /-- REMOTE_SIGNAL_RECEIVE (R67): A gallery receives a remote signal and adds it only if its epoch is current. -/
  | remoteSignalReceive (src dst : GalId)
  /-- MARK_PUSH (R69): MARK with POP = 0 pushes a range id onto the range-marker stack. -/
  | markPush (g : GalId) (rd rs1 : Fin 32)
  /-- MARK_POP (R69): MARK with POP = 1 removes the top range id from the stack. -/
  | markPop (g : GalId) (rd : Fin 32)
  /-- GCTL_HALT (R93): Writing GCTL.HALT stops the scalar core after the current instruction. -/
  | gctlHalt (x : HaltWrite)
  /-- GCTL_QRST (R91): Writing GCTL.QRST restarts a halted queue, discarding its descriptors without signals. -/
  | gctlQrst (g : GalId) (mask : Fin 32)
  /-- GFAULT_CLEAR (R91): Writing 1 to GFAULT.VALID clears the fault record and mip bit 16. -/
  | gfaultClear (g : GalId)
  /-- GCRED_WRITE (R194): A write of GCRED adds a count to a credit class accumulator for the current step. -/
  | gcredWrite (g : GalId) (v : Word)
  /-- DESCRIPTOR_START (R72): A queue starts its next descriptor in issue order once ordering and slot rules allow. -/
  | descriptorStart (x : GalRun) (q : QueueId)
  /-- DESCRIPTOR_COMPLETE (R73): A descriptor completes when its effects are visible and signals its completion counter if SIG = 1. -/
  | descriptorComplete (g : GalId) (q : QueueId)
  /-- NOP (R78): NOP completes at the head of its queue, after earlier descriptors on STAIR and ARC. -/
  | nop (g : GalId) (q : QueueId)
  /-- QWAIT (R79): QWAIT holds its queue until a counter condition is met. -/
  | qwait (g : GalId) (q : QueueId)
  /-- QWAIT_TIMEOUT (R79): A QWAIT not met within GWAITLIM ends in a queue fault with status 0x03. -/
  | qwaitTimeout (g : GalId) (q : QueueId)
  /-- CORE_PARITY_ERROR (R92): A parity error in the register file or a queue entry halts the core or queue as a machine check. -/
  | coreParityError (g : GalId) (q : Option QueueId)
  /-- USHER_MAILBOX_WRITE (R94): The usher writes a step mailbox half and adds 1 to CTR[63]. -/
  | usherMailboxWrite (g : GalId) (n : Word) (data : List Byte)
  /-- MX_LOAD (R108): MX.LOAD latches a packed tile into the array in 128 beats. -/
  | mxLoad (g : GalId)
  /-- MX_STREAM (R110): MX.STREAM enters rows through the loaded tile into the accumulator window. -/
  | mxStream (g : GalId)
  /-- MX_STREAMG (R113): MX.STREAMG streams rows chosen by an index list into the window. -/
  | mxStreamg (g : GalId)
  /-- MX_STREAMW (R114): MX.STREAMW streams rows and writes converted output rows straight to the scratchpad. -/
  | mxStreamw (g : GalId)
  /-- MX_KLOOP (R115): MX.KLOOP loads and streams each present tile of a tile run, accumulating in the window. -/
  | mxKloop (g : GalId)
  /-- MX_FLUSH (R116): MX.FLUSH converts window rows through a profile into the scratchpad, optionally adding. -/
  | mxFlush (g : GalId)
  /-- MX_CFG (R118): MX.CFG writes one of the four output profiles. -/
  | mxCfg (g : GalId)
  /-- MX_SAVE (R119): MX.SAVE writes window rows, profiles and the tile record to a save area. -/
  | mxSave (g : GalId)
  /-- MX_RESTORE (R119): MX.RESTORE restores what a save area names and reloads a recorded tile. -/
  | mxRestore (g : GalId)
  /-- MX_PREEMPTION_STOP (R125): Writing MXCTL.STOP requests a preemption stop of the matrix core. -/
  | mxPreemptionStop (g : GalId)
  /-- MX_STOP_DRAINED (R125): After a stop request the core drains entered rows, writes RESUME fields and sets STOPPED. -/
  | mxStopDrained (g : GalId) (tile : Fin 64) (row : Half) (inLoad : Bool) (flush : Fin 1025)
  /-- MX_GO (R126): Writing MXCTL.GO resumes stopped descriptors from their RESUME fields, reloading a displaced tile. -/
  | mxGo (g : GalId)
  /-- MX_SERVICE_RUN (R126): Writing MXCTL.SVC runs the descriptor in MXSVC while the core is stopped. -/
  | mxServiceRun (x : ServiceRun)
  /-- VMOV (R152): VMOV copies an operand to the destination. -/
  | vmov (g : GalId) (i : Fin 2)
  /-- VADD (R152): VADD adds two FP32 operands. -/
  | vadd (g : GalId) (i : Fin 2)
  /-- VSUB (R152): VSUB subtracts two FP32 operands. -/
  | vsub (g : GalId) (i : Fin 2)
  /-- VMUL (R152): VMUL multiplies two FP32 operands. -/
  | vmul (g : GalId) (i : Fin 2)
  /-- VFMA (R153): VFMA computes a × b + c rounded once. -/
  | vfma (g : GalId) (i : Fin 2)
  /-- VMAX (R153): VMAX takes the maximumNumber of two operands. -/
  | vmax (g : GalId) (i : Fin 2)
  /-- VMIN (R153): VMIN takes the minimumNumber of two operands. -/
  | vmin (g : GalId) (i : Fin 2)
  /-- VABS (R153): VABS clears the sign of an operand. -/
  | vabs (g : GalId) (i : Fin 2)
  /-- VNEG (R153): VNEG inverts the sign of an operand. -/
  | vneg (g : GalId) (i : Fin 2)
  /-- VCMP (R154): VCMP compares FP32 operands into a mask or tile bitmap. -/
  | vcmp (g : GalId) (i : Fin 2)
  /-- VCSEL (R154): VCSEL selects c or d by an FP32 relation. -/
  | vcsel (g : GalId) (i : Fin 2)
  /-- VSELB (R154): VSELB selects between operands by a bitmap. -/
  | vselb (g : GalId) (i : Fin 2)
  /-- VIOTA (R155): VIOTA writes IMM plus the column or row index. -/
  | viota (g : GalId) (i : Fin 2)
  /-- VCVT (R155): VCVT converts between FP32, I32, U32 and fixed-point pairs. -/
  | vcvt (g : GalId) (i : Fin 2)
  /-- VIADD (R155): VIADD adds integers modulo 2^32 or, with W64, 2^64. -/
  | viadd (g : GalId) (i : Fin 2)
  /-- VISUB (R152): VISUB subtracts integers modulo 2^32. -/
  | visub (g : GalId) (i : Fin 2)
  /-- VIMUL (R152): VIMUL writes the low 32 bits of an integer product. -/
  | vimul (g : GalId) (i : Fin 2)
  /-- VIAND (R152): VIAND computes bitwise AND. -/
  | viand (g : GalId) (i : Fin 2)
  /-- VIOR (R152): VIOR computes bitwise OR. -/
  | vior (g : GalId) (i : Fin 2)
  /-- VIXOR (R152): VIXOR computes bitwise XOR. -/
  | vixor (g : GalId) (i : Fin 2)
  /-- VISHL (R152): VISHL shifts left. -/
  | vishl (g : GalId) (i : Fin 2)
  /-- VISHR (R152): VISHR shifts right, logical or arithmetic. -/
  | vishr (g : GalId) (i : Fin 2)
  /-- VICMP (R154): VICMP compares integers into a mask or bitmap. -/
  | vicmp (g : GalId) (i : Fin 2)
  /-- VEXP (R156): VEXP computes e^x rounded once. -/
  | vexp (g : GalId) (i : Fin 2)
  /-- VEXP2 (R156): VEXP2 computes 2^x rounded once. -/
  | vexp2 (g : GalId) (i : Fin 2)
  /-- VLOG (R156): VLOG computes ln x rounded once. -/
  | vlog (g : GalId) (i : Fin 2)
  /-- VRCP (R156): VRCP computes 1/x rounded once. -/
  | vrcp (g : GalId) (i : Fin 2)
  /-- VRSQRT (R156): VRSQRT computes 1/sqrt(x) rounded once. -/
  | vrsqrt (g : GalId) (i : Fin 2)
  /-- VTANH (R156): VTANH computes tanh x rounded once. -/
  | vtanh (g : GalId) (i : Fin 2)
  /-- VSIGM (R156): VSIGM computes the logistic sigmoid rounded once. -/
  | vsigm (g : GalId) (i : Fin 2)
  /-- VSILU (R156): VSILU computes x/(1+e^-x) rounded once. -/
  | vsilu (g : GalId) (i : Fin 2)
  /-- VGELU (R156): VGELU computes x·Φ(x) in erf or tanh form. -/
  | vgelu (g : GalId) (i : Fin 2)
  /-- VROT (R157): VROT applies rotary position coding to a tile. -/
  | vrot (g : GalId) (i : Fin 2)
  /-- VRSUM (R158): VRSUM reduces by sum in fixed order, or exactly with EXACT. -/
  | vrsum (g : GalId) (i : Fin 2)
  /-- VRMAX (R158): VRMAX reduces by maximumNumber. -/
  | vrmax (g : GalId) (i : Fin 2)
  /-- VRMIN (R158): VRMIN reduces by minimumNumber. -/
  | vrmin (g : GalId) (i : Fin 2)
  /-- VRAMAX (R159): VRAMAX reduces to the argmax value and index. -/
  | vramax (g : GalId) (i : Fin 2)
  /-- VTOPK (R160): VTOPK builds or merges a ranked top-k candidate list. -/
  | vtopk (g : GalId) (i : Fin 2)
  /-- VSCAN (R161): VSCAN writes prefix sums along rows or columns. -/
  | vscan (g : GalId) (i : Fin 2)
  /-- VCOUNT (R162): VCOUNT histograms U32 bin ids. -/
  | vcount (g : GalId) (i : Fin 2)
  /-- VRANKB (R162): VRANKB writes each element's rank within its bin plus a base. -/
  | vrankb (g : GalId) (i : Fin 2)
  /-- VGATHER (R163): VGATHER reads rows by index into a tile or the scratchpad. -/
  | vgather (g : GalId) (i : Fin 2)
  /-- VSCATTER (R163): VSCATTER writes rows to indexed scratchpad rows. -/
  | vscatter (g : GalId) (i : Fin 2)
  /-- VGATHERE (R164): VGATHERE gathers single elements by index. -/
  | vgathere (g : GalId) (i : Fin 2)
  /-- MLOG (R152): MLOG combines mask registers by AND, OR, XOR or ANDN. -/
  | mlog (g : GalId) (i : Fin 2)
  /-- MLD (R152): MLD loads a mask register from the scratchpad. -/
  | mld (g : GalId) (i : Fin 2)
  /-- MST (R152): MST stores a mask register to the scratchpad. -/
  | mst (g : GalId) (i : Fin 2)
  /-- MPOPC (R152): MPOPC writes a mask's popcount to every element. -/
  | mpopc (g : GalId) (i : Fin 2)
  /-- VRAND (R165): VRAND computes a Philox-4x32-10 draw per lane. -/
  | vrand (g : GalId) (i : Fin 2)
  /-- VSAMP (R166): VSAMP draws one token per row from a candidate list. -/
  | vsamp (g : GalId) (i : Fin 2)
  /-- VSAVE (R171): VSAVE writes every vector register to a save area. -/
  | vsave (g : GalId) (i : Fin 2)
  /-- VRESTORE (R171): VRESTORE checks a save area and restores every vector register. -/
  | vrestore (g : GalId) (i : Fin 2)
  /-- RETENTION_WAKE (R189): A wake cause raises a retained domain, adds pending counter sums and resumes the WAITC. -/
  | retentionWake (g : GalId) (cause : Fin 7)
  /-- ARC_PUT (R211): ARC.PUT copies rows to another gallery's scratchpad on a channel. -/
  | arcPut (g : GalId)
  /-- ARC_MCAST (R212): ARC.MCAST copies blocks to every masked gallery of a rectangle. -/
  | arcMcast (g : GalId)
  /-- ARC_ISEND (R213): ARC.ISEND sends listed entries' segments to indexed destination slots. -/
  | arcIsend (g : GalId)
  /-- ARC_SIG (R214): ARC.SIG adds a value to a counter of a gallery in any tower. -/
  | arcSig (g : GalId)
  /-- ARC_MSG (R215): ARC.MSG sends messages to a gallery's message ring. -/
  | arcMsg (g : GalId)
  /-- ARC_TRANSFER_RECEIVE (R205): A destination checks a transfer's CRC and epoch, writes it and acknowledges, or rejects it. -/
  | arcTransferReceive (n : Nat) (crc : Half)
  /-- ARC_ACK_RECEIVE (R205): A source receives an acknowledgement and resends on a negative one, failing after three resends. -/
  | arcAckReceive (n : Nat)
  /-- INGRESS_DELIVERY_RESUME (R206): A held ingress transfer is delivered once the domain is at its VSTEP or the ring has room. -/
  | ingressDeliveryResume (g : GalId) (sched : Bool)
  /-- MSG_RING_HEAD_WRITE (R215): The stage advances GMRHEAD, freeing message ring entries. -/
  | msgRingHeadWrite (g : GalId) (head : Half)
  /-- MCAST_STALL (R218): A fork-hold copy held for 50 µs raises a multicast-stall event. -/
  | mcastStall (t : Fin 4) (p : Fin 104) (n : Nat)
  /-- GALLERY_FENCE (R220): Setting RCTL.FENCE closes a gallery's L port and discards traffic addressed to it. -/
  | galleryFence (g : GalId) (cause : Fin 256)
  /-- ST_LOAD (R242): ST.LOAD moves memory to the scratchpad with conversion and optional transpose. -/
  | stLoad (g : GalId)
  /-- ST_STORE (R242): ST.STORE moves the scratchpad to memory with conversion and optional transpose. -/
  | stStore (g : GalId)
  /-- ST_GATHER (R246): ST.GATHER reads listed pages and converts each into consecutive scratchpad rows. -/
  | stGather (g : GalId)
  /-- ST_SCATTER (R247): ST.SCATTER writes scratchpad rows to listed memory addresses. -/
  | stScatter (g : GalId)
  /-- ST_CMO_WRITEBACK (R248): ST.CMO operation 0 writes dirty lines of a range back. -/
  | stCmoWriteback (g : GalId)
  /-- ST_CMO_RELEASE_PINS (R248): ST.CMO operation 1 releases epoch pins over a range. -/
  | stCmoReleasePins (g : GalId)
  /-- ST_CMO_PREFETCH (R248): ST.CMO operation 2 prefetches a range into the cache. -/
  | stCmoPrefetch (g : GalId)
  /-- ST_CMO_PREFETCH_PIN (R248): ST.CMO operation 3 prefetches and pins a range. -/
  | stCmoPrefetchPin (g : GalId)
  /-- ST_CMO_FLUSH_INVALIDATE (R248): ST.CMO operation 4 writes back then invalidates unpinned lines. -/
  | stCmoFlushInvalidate (g : GalId)
  /-- SLICE_REQUEST (R233): A home slice serves a line request as hit or miss under its allocation hint. -/
  | sliceRequest (tag : Word) (line : BitVec 34) (op : LineOp) (ah : Fin 3) (who : Requester)
  /-- SLICE_FILL (R233): A line read from the vault fills the cache and answers waiting requests. -/
  | sliceFill (line : BitVec 34)
  /-- BACK_INVALIDATE (R238): A back-invalidate invalidates a cached line and discards a fill in flight. -/
  | backInvalidate (line : BitVec 34)
  /-- VAULT_REQUEST (R253): A vault controller serves a queued line request on the vault bus. -/
  | vaultRequest (t : Fin 4) (v : Fin 104) (n : Fin 128)
  /-- REFRESH (R255): The vault controller refreshes one bank row at the interval of its refresh code. -/
  | refresh (t : Fin 4) (v : Fin 104) (layer : Fin 16) (bank : Fin 16)
  /-- DELAY_LINE_CHECK (R254): Every 1 ms a replica delay line is compared with the time base to detect drift. -/
  | delayLineCheck (t : Fin 4) (v : Fin 104) (layer : Fin 16) (needed : Byte)
  /-- LANDING_RETRAIN (R254): A drifted landing is retrained in the next 5 µs idle window. -/
  | landingRetrain (t : Fin 4) (v : Fin 104) (layer : Fin 16) (needed : Byte)
  /-- LANE_FAIL_RETRAIN (R42): A lane failed in service is retrained alone in the next 1 µs idle window. -/
  | laneFailRetrain (p : LanePath) (lane : Fin 4608)
  /-- SELF_REFRESH_ENTRY (R258): Before a reset keeping DRAM, a slice drains, writes back and puts its layers in self-refresh. -/
  | selfRefreshEntry (t : Fin 4) (v : Fin 104)
  /-- SELF_REFRESH_WRITEBACK_TIMEOUT (R258): A slice not done writing back in 100 µs records SRLOST and proceeds. -/
  | selfRefreshWritebackTimeout (t : Fin 4) (v : Fin 104) (written : Nat)
  /-- SELF_REFRESH_EXIT (R258): On exit each landing is checked, retrained if drifted, and leaves self-refresh. -/
  | selfRefreshExit (t : Fin 4) (v : Fin 104) (needed : List Byte)
  /-- BRIDGE_BURST_RECEIVE (R55): A bridge endpoint checks a burst's CRC and requests replay on failure. -/
  | bridgeBurstReceive (b : Fin 4) (forward : Bool) (x : Burst)
  /-- BRIDGE_OUT_OF_SERVICE (R260): A bridge out of service has its requests completed or retried and traffic rerouted. -/
  | bridgeOutOfService (b : Fin 4)
  /-- STAIR_OUT_OF_SERVICE (R48): A service stair beyond repair is taken out of service and its traffic spread. -/
  | stairOutOfService (t h : Fin 4)
  /-- ATTN_QUERY (R278): A peer receives an ATTN_QUERY and computes chunk partials for its annex. -/
  | attnQuery (side : AttnSide)
  /-- ATTN_PARTIAL (R278): The home receives an ATTN_PARTIAL and merges its chunk partials. -/
  | attnPartial (l : Fin 5)
  /-- ATTN_PARTIAL_TIMEOUT (R279): A partial not received within 2 ms removes the row unsampled and recovers the chunk. -/
  | attnPartialTimeout (tag : DWord)
  /-- PHASE_POLICY_CHANGE (R300): The usher decides by phase policy to change over to the prefill or decode plan. -/
  | phasePolicyChange (phase : Fin 3)
  /-- CHANGEOVER_BEGIN (R309): The usher holds every gallery, stops writing mailboxes and enters CLOSING. -/
  | changeoverBegin
  /-- EPOCH_CLOSE (R309): When the outstanding count is zero and all are held, the usher writes the changeover record and enters MOVING. -/
  | epochClose (copies : List (Fin 16 × Fin 4))
  /-- CLOSING_TIMEOUT (R311): After 50 ms in CLOSING the usher fences busy galleries and abandons outstanding work. -/
  | closingTimeout
  /-- MOVE_FLIP (R314): When a move's copies are done the usher flips it and performs its post-flip action. -/
  | moveFlip (n : Nat)
  /-- MOVES_COMPLETE (R309): When every move is flipped or void the epoch word enters LOADING. -/
  | movesComplete
  /-- EPOCH_OPEN (R315): When every stage is loaded the usher raises EPOCH, loads maps and releases galleries. -/
  | epochOpen (lags : List (Fin 384 × Nat))
  /-- STEP_RESULTS_ACCEPT (R305): The usher accepts or discards a step's result records and logs sampled tokens. -/
  | stepResultsAccept (batch : Nat)
  /-- LDL (R326): LDL issues a whole-line read into a Q group. -/
  | ldl (x : ChanterId) (rd rs1 : Fin 32)
  /-- LDL_DATA_ARRIVAL (R326): A line read arrives and is written into its Q registers. -/
  | ldlDataArrival (x : ChanterId)
  /-- STL (R326): STL issues a whole-line write from a Q group. -/
  | stl (x : ChanterId) (rs1 rs2 : Fin 32)
  /-- LINE_OP_RETRY (R326): A line operation returning retry is reissued after 1 µs, up to three times. -/
  | lineOpRetry (x : ChanterId)
  /-- PCOPY (R328): PCOPY copies lines landing to landing without passing through the chanter. -/
  | pcopy (x : ChanterId) (rs1 rs2 : Fin 32)
  /-- FENCEL (R327): FENCEL waits for all line operations and returns their status. -/
  | fencel (x : ChanterId) (rd : Fin 32)
  /-- JDONE (R332): JDONE fences, ends the job with a result and releases its ranges. -/
  | jdone (x : ChanterId) (rs1 : Fin 32)
  /-- QSIMD_ADD (R329): SIMD add, lane by lane. -/
  | qsimdAdd (x : ChanterId) (w : Fin 8) (rd rs1 rs2 : Fin 32)
  /-- QSIMD_SUB (R329): SIMD subtract, lane by lane. -/
  | qsimdSub (x : ChanterId) (w : Fin 8) (rd rs1 rs2 : Fin 32)
  /-- QSIMD_MUL (R329): SIMD multiply, low half. -/
  | qsimdMul (x : ChanterId) (w : Fin 8) (rd rs1 rs2 : Fin 32)
  /-- QSIMD_SMIN (R329): SIMD signed minimum. -/
  | qsimdSmin (x : ChanterId) (w : Fin 8) (rd rs1 rs2 : Fin 32)
  /-- QSIMD_SMAX (R329): SIMD signed maximum. -/
  | qsimdSmax (x : ChanterId) (w : Fin 8) (rd rs1 rs2 : Fin 32)
  /-- QSIMD_UMIN (R329): SIMD unsigned minimum. -/
  | qsimdUmin (x : ChanterId) (w : Fin 8) (rd rs1 rs2 : Fin 32)
  /-- QSIMD_UMAX (R329): SIMD unsigned maximum. -/
  | qsimdUmax (x : ChanterId) (w : Fin 8) (rd rs1 rs2 : Fin 32)
  /-- QSIMD_AND (R329): SIMD bitwise AND. -/
  | qsimdAnd (x : ChanterId) (w : Fin 8) (rd rs1 rs2 : Fin 32)
  /-- QSIMD_OR (R329): SIMD bitwise OR. -/
  | qsimdOr (x : ChanterId) (w : Fin 8) (rd rs1 rs2 : Fin 32)
  /-- QSIMD_XOR (R329): SIMD bitwise XOR. -/
  | qsimdXor (x : ChanterId) (w : Fin 8) (rd rs1 rs2 : Fin 32)
  /-- QSIMD_SHL (R329): SIMD shift left. -/
  | qsimdShl (x : ChanterId) (w : Fin 8) (rd rs1 rs2 : Fin 32)
  /-- QSIMD_SHR (R329): SIMD logical shift right. -/
  | qsimdShr (x : ChanterId) (w : Fin 8) (rd rs1 rs2 : Fin 32)
  /-- QSIMD_SAR (R329): SIMD arithmetic shift right. -/
  | qsimdSar (x : ChanterId) (w : Fin 8) (rd rs1 rs2 : Fin 32)
  /-- QSIMD_EQ (R329): SIMD equality compare. -/
  | qsimdEq (x : ChanterId) (w : Fin 8) (rd rs1 rs2 : Fin 32)
  /-- QSIMD_PERMUTE (R329): SIMD byte permute. -/
  | qsimdPermute (x : ChanterId) (rd rs1 rs2 : Fin 32)
  /-- QSIMD_FADD (R329): SIMD FP32 add. -/
  | qsimdFadd (x : ChanterId) (rd rs1 rs2 : Fin 32)
  /-- QSIMD_FMUL (R329): SIMD FP32 multiply. -/
  | qsimdFmul (x : ChanterId) (rd rs1 rs2 : Fin 32)
  /-- QSIMD_FMA (R329): SIMD FP32 fused multiply-add. -/
  | qsimdFma (x : ChanterId) (rd rs1 rs2 : Fin 32)
  /-- QSIMD_FMAX (R329): SIMD FP32 maximumNumber. -/
  | qsimdFmax (x : ChanterId) (rd rs1 rs2 : Fin 32)
  /-- QINS (R329): QINS writes a scalar register into a Q lane. -/
  | qins (x : ChanterId) (lane : Fin 4) (rd rs1 : Fin 32)
  /-- QEXT (R329): QEXT reads a Q lane into a scalar register. -/
  | qext (x : ChanterId) (lane : Fin 4) (rd rs1 : Fin 32)
  /-- QCVT (R330): QCVT converts a block of 32 elements between formats. -/
  | qcvt (x : ChanterId) (rd rs1 rs2 : Fin 32)
  /-- QCRC (R331): QCRC continues a CRC-32C over a Q register. -/
  | qcrc (x : ChanterId) (rd rs1 rs2 : Fin 32)
  /-- QPGEN (R331): QPGEN writes a Philox pattern into a Q register. -/
  | qpgen (x : ChanterId) (rd rs1 rs2 : Fin 32)
  /-- JOB_ENQUEUE (R343): A write of JOBIN word 7 enqueues a job record, or drops it on a full queue. -/
  | jobEnqueue (x : ClusterId) (w7 : DWord)
  /-- JOB_START (R344): The dispatcher checks a queued job's epoch and record, declares its ranges and starts a chanter. -/
  | jobStart (x : ClusterId)
  /-- RANGES_DECLARED (R336): Vault controllers write back and hold allocation for a job's ranges, letting it start. -/
  | rangesDeclared (x : ChanterId)
  /-- JOB_CANCEL (R346): A write of CANCEL removes or stops a job with status 0x05. -/
  | jobCancel (x : ClusterId) (jobid : Word)
  /-- BOTTOM_BURST (R333): The bottom landing controller takes the token and drives a burst of up to 64 lines. -/
  | bottomBurst (x : ClusterId) (n : Fin 65)
  /-- TOKEN_HANDOFF (R333): At a burst boundary the holder passes the ownership token to the waiting end. -/
  | tokenHandoff (x : ClusterId)
  /-- HELD_READ_RELEASE (R339): A read held inside an OWN range is answered after the bottom burst ends. -/
  | heldReadRelease (x : ClusterId)
  /-- PATROL_PASS (R351): Periodic patrol reads every line of a vault and logs corrections. -/
  | patrolPass (x : ClusterId)
  /-- CHANTER_FALLBACK_START (R353): The usher drains a cluster and starts the fallback runtime for a logical position. -/
  | chanterFallbackStart (t : Fin 4) (col : Fin 8) (jobid : Word) (entry : Byte)
  /-- ADMIT (R374): ADMIT checks a new session, takes an index, writes log and descriptor, and returns the ticket. -/
  | admitCmd (sq : Fin 256) (good : Bool)
  /-- TICKET_BOUND (R365): An ADMITTED ticket whose root and frames are bound becomes RUNNABLE or PREFILL_PENDING. -/
  | ticketBound (w : Word)
  /-- PREFILL_DONE (R365): A settled ticket whose prompt is prefilled becomes RUNNABLE, or TOOL_WAIT if PARK waits. -/
  | prefillDone (w : Word)
  /-- RUNNING_SET_ADMIT (R377): The usher places the best settled RUNNABLE ticket in the running set. -/
  | runningSetAdmit (residue : Nat)
  /-- ROW_TABLE_FORM (R378): The usher forms a row table, allocates slots and writes its mailboxes under the energy admission test. -/
  | rowTableForm (lags : List (Fin 384 × Nat))
  /-- PRIORITY_PREEMPTION (R379): The usher returns a low-priority RUNNING ticket to RUNNABLE at its table boundary. -/
  | priorityPreemption
  /-- TICKET_ENERGY_SHARE (R381): When a step is closed, each ticket is charged its share of net energy. -/
  | ticketEnergyShare (batch : Nat)
  /-- DEMOTION_START (R387): A ticket parked past DEMAFTER gets demotion jobs for its hot full pages. -/
  | demotionStart (w : Word)
  /-- DEMOTION_END (R387): When the demotion jobs end the ticket becomes DEMOTED or stays in TOOL_WAIT. -/
  | demotionEnd (w : Word) (failed : List Nat)
  /-- USHER_SPILL_POLICY (R388): When free frames fall below SPLOW the usher spills parked tickets. -/
  | usherSpillPolicy
  /-- SPILL_COMMIT (R390): Once the image is written to the target, the ticket becomes SPILLED and its KV is freed. -/
  | spillCommit (w : Word)
  /-- RECALL_COMMIT (R391): Once a recalled image is checked and copied, the ticket is resident again and RECALLED is posted. -/
  | recallCommit (w : Word)
  /-- RECALL_FAIL (R391): A failed check or 50 ms without answer sends the ticket to RECOVERING. -/
  | recallFail (w : Word) (err : Bool)
  /-- FORK_TABLES_COPIED (R385): When a fork's copies are done the new ticket enters TOOL_WAIT or DEMOTED. -/
  | forkTablesCopied (w : Word)
  /-- RECOVERY_START (R392): An uncorrectable KV page or table line sends the ticket to RECOVERING and schedules RECOMP rows. -/
  | recoveryStart (w : Word)
  /-- RECOVERY_DONE (R392): When the last recomputed row completes the ticket returns to RSTATE. -/
  | recoveryDone (w : Word)
  /-- TICKET_LOST (R394): Both copies of a ticket's critical line unreadable end the ticket with DONE LOST. -/
  | ticketLost (w : Word)
  /-- RELEASE_COMPLETE (R395): When a releasing ticket's resources are freed, GEN rises and DONE RELEASED is posted. -/
  | releaseComplete (w : Word)
  /-- FEED (R382): FEED appends tokens and resumes a parked ticket. -/
  | feed (sq : Fin 256) (good : Bool)
  /-- RUN (R383): RUN resumes a parked ticket without new tokens. -/
  | run (sq : Fin 256) (good : Bool)
  /-- PARK (R384): PARK parks a ticket at its next table boundary and posts DONE PARKED. -/
  | park (sq : Fin 256)
  /-- FORK (R385): FORK creates a new ticket sharing the source's pages at a snapshot point. -/
  | fork (sq : Fin 256) (good : Bool)
  /-- RELEASE (R395): RELEASE cancels work in progress and retires the ticket. -/
  | release (sq : Fin 256)
  /-- SPILL (R418): SPILL starts spilling a parked ticket to host memory or a peer. -/
  | spill (sq : Fin 256)
  /-- RECALL (R391): RECALL starts bringing a spilled ticket back into module memory. -/
  | recall (sq : Fin 256)
  /-- QUERY (R421): QUERY writes a ticket's descriptor snapshot and optional log entries to host memory. -/
  | query (sq : Fin 256) (good : Bool)
  /-- MODEL_LOAD (R420): MODEL_LOAD reads, verifies and places a model image in a model index. -/
  | modelLoad (sq : Fin 256) (good : Bool)
  /-- ADAPTER_LOAD (R420): MODEL_LOAD with ADAPT = n places an adapter for a loaded model. -/
  | adapterLoad (sq : Fin 256) (good : Bool)
  /-- MODEL_UNLOAD (R420): MODEL_LOAD with UNLOAD = 1 removes a model or adapter not in use. -/
  | modelUnload (sq : Fin 256)
  /-- PLAN_SELECT (R419): PLAN_SELECT chooses plans and overrides for a model and starts a changeover. -/
  | planSelect (sq : Fin 256) (good : Bool)
  /-- BUDGET_SET (R481): BUDGET_SET sets the energy grant when the host is the grant source. -/
  | budgetSet (sq : Fin 256)
  /-- NEGOTIATE (R424): NEGOTIATE chooses the protocol version, features, notice ring and spill areas. -/
  | negotiate (sq : Fin 256) (good : Bool)
  /-- JOURNAL_READ (R429): JOURNAL_READ copies journal entries from a sequence number to host memory. -/
  | journalRead (sq : Fin 256) (good : Bool)
  /-- SQ_TAIL_DOORBELL (R407): A doorbell write of an SQ tail makes entries valid for fetch. -/
  | sqTailDoorbell (sq : Fin 256) (tail : Word)
  /-- CQ_HEAD_DOORBELL (R409): A doorbell write of a CQ head frees consumed completion entries. -/
  | cqHeadDoorbell (cq : Fin 256) (head : Word)
  /-- RING_ENABLE (R406): Setting a ring's ENABLE latches its base and size and resets its index. -/
  | ringEnable (cq : Bool) (ring : Fin 256) (cfg : DWord)
  /-- CQ_FULL_NOTICE (R410): A CQ full for 100 ms makes the usher post NOTICE 0x0701. -/
  | cqFullNotice (cq : Fin 256)
  /-- CQ_INTERRUPT (R411): A CQ raises its MSI-X vector when CCNT entries or CTIME µs are reached. -/
  | cqInterrupt (cq : Fin 256)
  /-- HIF_RUN_WRITE (R410): Writing HIF.CTL.RUN starts or stops fetching and posting of kept completions. -/
  | hifRunWrite (run : Bool)
  /-- RESYNC (R427): HIF.CTL.RESYNC stops fetching, disables every ring, aborts data commands and journals RESYNC. -/
  | resync
  /-- PCIE_RESET_EVENT (R400): After seal an FLR, hot reset, link down, D3hot entry or PERST# performs a resync. -/
  | pcieResetEvent (e : PcieEvent)
  /-- PCIE_LINK_DEGRADED (R398): A PCIe link trained narrower or slower posts NOTICE 0x0704. -/
  | pcieLinkDegraded (width : Fin 5) (rate : Fin 6)
  /-- BAR2_READ (R405): A BAR2 read reaches module memory through the aperture, with poison or error completions. -/
  | bar2Read (line : BitVec 30)
  /-- BAR2_WRITE (R403): A BAR2 write is performed only while APWEN = 1, otherwise dropped and counted. -/
  | bar2Write (line : BitVec 30) (mask : BitVec 64) (data : BitVec 512) (poison : Bool)
  /-- BAR2_RETRY (R405): A BAR2 request meeting retry is reissued every 1 µs and aborted after 1 ms. -/
  | bar2Retry
  /-- FEC_BLOCK_RECEIVE (R437): A link receiver corrects an FEC block, acts on its framing and passes its flits. -/
  | fecBlockReceive (l : Fin 5) (msg : BitVec 20560) (parity : BitVec 1200) (aligned : Bool)
  /-- LINK_LANE_FAIL (R438): A lane losing lock or exceeding the error ratio is reported by LANE_FAIL framing. -/
  | linkLaneFail (l : Fin 5) (lane : Fin 9)
  /-- SPARE_SWAP (R440): On receiving LANE_FAIL the transmitter moves the lane onto the spare at the next block. -/
  | spareSwap (l : Fin 5)
  /-- FAST_RETRAIN (R439): A second lane failure or stalled replay retrains the link to 4 lanes within 2 ms. -/
  | fastRetrain (l : Fin 5) (good : BitVec 9) (boot : Word) (ok : Bool)
  /-- ALIGNMENT_BLOCK_RECEIVE (R441): An alignment block deskews the lanes and adjusts the elastic buffer. -/
  | alignmentBlockReceive (l : Fin 5) (lanes : List LaneAlign)
  /-- TRAINING_FRAME_RECEIVE (R442): A training frame's control request is applied to the transmitter and answered. -/
  | trainingFrameReceive (l : Fin 5) (lane : Fin 9) (control status : Word) (crc : BitVec 16) (ready : Bool)
  /-- FLIT_RECEIVE (R444): A receiver accepts an in-order good flit or discards it and sets NAK. -/
  | flitReceive (l : Fin 5)
  /-- NAK_REPLAY (R444): On a NAK the transmitter resends from ACK + 1. -/
  | nakReplay (l : Fin 5)
  /-- REPLAY_TIMEOUT (R444): With no ACK progress for 4 µs the transmitter replays. -/
  | replayTimeout (l : Fin 5)
  /-- PUT (R447): A PUT writes data into an annex and answers DONE if asked. -/
  | put (l : Fin 5)
  /-- GET (R447): A GET reads an annex and answers with GETRESP. -/
  | get (l : Fin 5)
  /-- GETRESP (R446): A GETRESP returns data or a status to the requester. -/
  | getresp (l : Fin 5)
  /-- MSG (R448): A MSG is reserved in the message buffer and delivered whole to the usher. -/
  | msg (l : Fin 5)
  /-- ATOMIC (R449): ATOMIC adds an operand to an annex word and returns the old value. -/
  | atomic (l : Fin 5)
  /-- ATOMRESP (R449): An ATOMRESP returns the old value to the requester. -/
  | atomresp (l : Fin 5)
  /-- BARRIER (R450): A BARRIER arrival completes or is held for its id and generation. -/
  | barrier (l : Fin 5) (side : Option Byte)
  /-- DONE (R447): A DONE response ends a PUT or MSG at the requester. -/
  | done (l : Fin 5)
  /-- LINK_REQUEST_TIMEOUT (R451): A request unanswered for 10 ms ends locally with LINKDOWN. -/
  | linkRequestTimeout (l : Fin 5) (tag : Half)
  /-- LINK_DOWN (R453): A link goes down, ending outstanding transactions and dropping replay buffers. -/
  | linkDown (l : Fin 5) (good : Fin 4)
  /-- LINK_CTL_DOWN (R453): Writing LINK.CTL.DOWN takes the link down. -/
  | linkCtlDown (l : Fin 5)
  /-- LINK_CTL_RETRAIN (R439): Writing LINK.CTL.RETRAIN starts a full training. -/
  | linkCtlRetrain (l : Fin 5)
  /-- LINK_TRAINING (R454): A link trains through the orders of Table 15-8 and comes up. -/
  | linkTraining (l : Fin 5) (good112 good224 : BitVec 9)
  /-- LINK_RETRAIN_TIMER (R453): The usher attempts a full training of a down link every 1 s, or a degraded idle link daily. -/
  | linkRetrainTimer (l : Fin 5)
  /-- CAPABILITY_FLIT_RECEIVE (R455): A capability flit supplies the partner's versions, features and buffers. -/
  | capabilityFlitReceive (l : Fin 5)
  /-- LPIDLE_SHED (R456): A link idle for 100 µs sheds to 4 lanes under LPIDLE. -/
  | lpidleShed (l : Fin 5)
  /-- ANNEX_OPEN (R458): ANNEX_OPEN asks a partner to grant annex memory. -/
  | annexOpen (side : AnnexSide)
  /-- ANNEX_REPLY (R458): ANNEX_REPLY grants or refuses an annex. -/
  | annexReply (l : Fin 5)
  /-- ANNEX_CLOSE (R458): ANNEX_CLOSE frees an annex. -/
  | annexClose (l : Fin 5)
  /-- WEIGHT_ASK (R458): WEIGHT_ASK asks for a read-only annex of a model's weights. -/
  | weightAsk (l : Fin 5)
  /-- ILIM_THROTTLE (R463): A tower above its VSTK share for 100 µs has its gallery domains lowered one VSTEP. -/
  | ilimThrottle (t : Fin 4) (current : Nat)
  /-- VSET_CHANGE (R465): The usher sets a domain's VSET and the domain moves to the new voltage. -/
  | vsetChange (g : GalId) (v : Fin 16)
  /-- REG_CELL_FAIL (R468): One failed regulator cell lowers its domain to VSTEP 10 and caps it. -/
  | regCellFail (g : GalId) (cell : Fin 4)
  /-- SECOND_CELL_FAIL (R469): A second failed cell drops the domain to VSTEP 0, stops it and fences the gallery. -/
  | secondCellFail (g : GalId) (cell : Fin 4)
  /-- DOMAIN_SWITCH_ON (R470): The sequencer closes a domain's header groups in stages and raises it to VSET. -/
  | domainSwitchOn (g : GalId) (trips : Byte) (finished : Bool)
  /-- STAGING_TIMEOUT (R471): Staging unfinished after 1 ms posts NOTICE 0x0305. -/
  | stagingTimeout (g : GalId)
  /-- CURRENT_SAMPLE (R472): Every 1 ms each tower writes its domains' currents to the current ring. -/
  | currentSample (t : Fin 4) (recs : List (Half × Half × Half))
  /-- CRACK_ALARM (R473): A bank's drop exceeding its model for 10 samples classes it degraded or open. -/
  | crackAlarm (g : GalId) (drop share : Word)
  /-- RECOVERY_MEASUREMENT_DONE (R474): After 100 ms the live four-wire measurement updates the bank's record. -/
  | recoveryMeasurementDone (g : GalId) (ohms ratio : Half) (seg : Fin 18)
  /-- SENSOR_READ (R475): Every 1 ms the always-on controller reads every sensor and applies thermal actions. -/
  | sensorRead (t : Fin 4) (readings : List (Fin 19 × Fin 104 × Fin 4096))
  /-- COMPARATOR_TRIP (R475): An analog comparator trips when a sensor crosses 105 °C. -/
  | comparatorTrip (t : Fin 4) (die : Fin 19) (p : Fin 104)
  /-- LAYER_ESTIMATE (R477): Every 1 ms the controller estimates each DRAM layer's temperature per column. -/
  | layerEstimate (t : Fin 4) (p : Fin 104) (powers : List Nat)
  /-- THERMAL_STOP (R480): The thermal-stop alarm switches off galleries and enters self-refresh as a warm-reset entry. -/
  | thermalStop
  /-- THERMAL_RESUME (R480): Writing THERM.CTL.RESUME at or below 85 °C completes the warm reset. -/
  | thermalResume
  /-- BELLOWS_WINDOW_END (R484): At each 10 ms window end the ledger is trued up, VSETs adjusted and a new window granted. -/
  | bellowsWindowEnd (measured : List (GalId × Nat)) (values : List (Fin 91 × DWord))
  /-- LEDGER_METER (R482): At the end of each ms the metered energy is charged to the ledger. -/
  | ledgerMeter (uj : Nat)
  /-- GRANT_WRITE (R481): A write of BELLOWS.GRANT from the selected source sets the next window's grant. -/
  | grantWrite (i3c : Bool) (uj : Word)
  /-- SLICE_STORAGE_UE (R493): An uncorrectable error in a slice's data or tag invalidates, poisons or lists the line. -/
  | sliceStorageUe (t : Fin 4) (v : Fin 104) (set : Fin 10240) (way : Fin 16) (part : SlicePart)
  /-- ERROR_LOG_SCAN (R499): The usher reads each error log every 1 ms and updates frame counts, retiring under policy. -/
  | errorLogScan (t : Fin 4)
  /-- CE_DECAY (R499): Every DECAY hours the frame CE counts are halved. -/
  | ceDecay
  /-- RETREQ (R501): A write of RAS.RETREQ requests retirement of a frame or bank. -/
  | retreq (t : Fin 4) (v : Word)
  /-- RETIREMENT_START (R503): The usher writes a COPYING entry and starts moving a frame or bank to the reserve. -/
  | retirementStart (t : Fin 4)
  /-- RETIREMENT_MOVE_DONE (R503): When the last line is copied the entry becomes ACTIVE and the remap is loaded. -/
  | retirementMoveDone (t : Fin 4) (index : Fin 8192)
  /-- DIAG_WDATA (R508): Split-write of a line's data bytes, marking it raw. -/
  | diagWdata
  /-- DIAG_WCHECK (R508): Split-write of a line's check bytes, marking it raw. -/
  | diagWcheck
  /-- DIAG_WRAW (R508): Write of both data and check bytes as given, marking the line raw. -/
  | diagWraw
  /-- DIAG_READRAW (R508): Raw read of the stored bytes with the decoder's verdict and syndromes. -/
  | diagReadraw
  /-- GALLERY_FAULT (R510): The usher acts on a gallery trap or fault by restarting the step or fencing. -/
  | galleryFault
  /-- WEIGHT_UE (R511): An uncorrectable weight line is reloaded from a partner or the host. -/
  | weightUe (m : Fin 8) (sid off : Nat) (partner : Option (Fin 5))
  /-- TOWER_FENCE (R512): The usher fences a tower, changing over to a plan without it or parking tickets. -/
  | towerFence (t : Fin 4) (answers : Bool)
  /-- BRING_STEP_FUSES (R518): BRING.STEP 1 reads fuses, numbers layers and classes the power banks. -/
  | bringStepFuses (fuses : Machine.Fuses) (high : Option (Fin 5)) (unread mismatch : List (Fin 4)) (measured : List (GalId × Half × Half × Fin 18))
  /-- BRING_STEP_RAILS (R519): BRING.STEP 2 sequences the main rails and stages the corridor domains on. -/
  | bringStepRails (weak : List (Fin 4))
  /-- BRING_STEP_TRAIN (R520): BRING.STEP 3 trains vault buses, landings, ports, stairs, bridges and link lanes. -/
  | bringStepTrain (lanes : List (LanePath × Fin 4608)) (uncal : List (Fin 4 × Fin 104)) (bridges : List (Fin 4)) (codes : List (Fin 4 × Fin 104 × Fin 16 × Byte)) (links : List (Fin 5))
  /-- BRING_STEP_SELFTEST (R522): BRING.STEP 4 runs memory self-test and initialises the critical area and BAR2. -/
  | bringStepSelftest (lines : List TestFault) (badCode : List (Fin 4 × Fin 104)) (rtabA rtabB : List Nat)
  /-- BRING_STEP_IMAGE (R524): BRING.STEP 5 loads and verifies the firmware image from flash. -/
  | bringStepImage (flash : Option (List Byte × List Byte)) (layout : Machine.Layout) (chosen : List (Nat × DWord))
  /-- BRING_STEP_BROADCAST (R529): BRING.STEP 6 switches galleries on and broadcasts firmware. -/
  | bringStepBroadcast (late : List Machine.Receiver) (weak : List GalId) (started : Bool)
  /-- BRING_STEP_SEAL (R531): BRING.STEP 7 seals the module after a cold reset. -/
  | bringStepSeal
  /-- BRING_STEP_DONE (R516): A bring-up step ends done or failed when every tower has finished it. -/
  | bringStepDone
  /-- BRING_STEP_INVALID (R516): A BRING.STEP write out of order is ignored and sets STATUS.ERR. -/
  | bringStepInvalid (n : Fin 8)
  /-- CHUNK_RECEIVE (R529): A receiver writes a broadcast chunk and marks it in its bitmap. -/
  | chunkReceive (who : Machine.Receiver) (k : Nat) (restart bad writeBad : Bool) (wrong : List (Nat × Byte))
  /-- CHUNK_END_RECEIVE (R530): A receiver answers an END header with its digest and bitmap. -/
  | chunkEndReceive (who : Machine.Receiver) (pass : Bool)
  /-- BROADCAST_ROUND_END (R530): A broadcast round ends when all open receivers answered or 10 ms pass. -/
  | broadcastRoundEnd
  /-- RUNTIME_TEST_TIMEOUT (R528): A gallery without the pass word 5 ms after its digest matched is fenced. -/
  | runtimeTestTimeout (g : GalId)
  /-- POWER_ON_RESET (R532): VSVC rising resets everything but the fuses. -/
  | powerOnReset (board : Board)
  /-- COLDRST_N (R575): An assertion of COLDRST_N held 1 µs starts a cold reset. -/
  | coldrstN
  /-- WARMRST_N (R575): An assertion of WARMRST_N held 1 µs starts a warm reset. -/
  | warmrstN
  /-- PERST_N (R533): PERST# resets only the PCIe endpoint. -/
  | perstN
  /-- BRING_RESET_COLD (R532): BRING.RESET KIND 1 starts a cold reset. -/
  | bringResetCold (key : Half)
  /-- BRING_RESET_WARM (R534): BRING.RESET KIND 2 starts a warm reset. -/
  | bringResetWarm (key : Half)
  /-- BRING_RESET_TOWER (R535): BRING.RESET KIND 3 starts a tower reset through a changeover. -/
  | bringResetTower (key : Half) (t : Fin 4)
  /-- BRING_RESET_TAKEOVER (R538): BRING.RESET KIND 4 makes the standby usher take over. -/
  | bringResetTakeover (key : Half)
  /-- COLD_RESET (R532): A cold reset drops main-rail enables and resets all logic and DRAM contents. -/
  | coldReset
  /-- WARM_RESET (R534): A warm reset stops galleries, poisons raw lines, enters self-refresh and runs the warm bring-up. -/
  | warmReset
  /-- WARM_SEAL (R531): After a warm bring-up the usher recovers changeover and tickets and seals. -/
  | warmSeal
  /-- TOWER_RESET (R535): The usher resets one tower in MOVING and brings it back for the next epoch. -/
  | towerReset (t : Fin 4)
  /-- PARTITION_RESET (R536): Writing RST.PART.GO resets one unit of Table 18-9. -/
  | partitionReset (t : Fin 4) (host : Bool) (v : DWord)
  /-- BASE_DIE_QUIESCE (R537): A base-die reset first quiesces traffic, isolates bottom ports and then resets and retrains. -/
  | baseDieQuiesce (t : Fin 4)
  /-- HEARTBEAT_MISSED (R538): Ten missing heartbeats make the standby usher take over. -/
  | heartbeatMissed
  /-- USHER_TAKEOVER (R538): The standby usher holds the primary, closes the epoch, resyncs and replays the command store. -/
  | usherTakeover
  /-- PG_FAIL (R583): A main-rail power-good falling or a standby rail out of range starts a cold reset. -/
  | pgFail (rail : Option (Fin 5))
  /-- WHISTLE_REQ (R541): Writing DEBUG.WCTL.REQ requests the Whistle. -/
  | whistleReq
  /-- WHISTLE_N (R575): WHISTLE_N held 10 ns requests the Whistle. -/
  | whistleN
  /-- WHISTLE (R542): The Whistle stops every work-carrying stage at its next handshake boundary within 40 ns. -/
  | whistle (mx : List MxStand)
  /-- WHISTLE_RESUME (R546): Writing WCTL.RESUME releases every unit to continue with identical results. -/
  | whistleResume
  /-- JTAG_WHISTLE (R548): JTAG instruction WHISTLE requests the Whistle at Update-IR. -/
  | jtagWhistle
  /-- JTAG_RESUME (R548): JTAG instruction RESUME ends the Whistle. -/
  | jtagResume
  /-- JTAG_SCANSEL (R548): JTAG SCANSEL selects a scan record. -/
  | jtagScansel (v : Word)
  /-- JTAG_SCANOFF (R548): JTAG SCANOFF sets the scan offset. -/
  | jtagScanoff (v : DWord)
  /-- JTAG_SCANRD (R548): JTAG SCANRD reads 8 bytes of the record and advances the offset. -/
  | jtagScanrd
  /-- JTAG_SCANWR (R548): JTAG SCANWR writes 8 bytes of the record and advances the offset. -/
  | jtagScanwr (v : DWord)
  /-- JTAG_WSTAT (R548): JTAG WSTAT reads DEBUG.WSTAT. -/
  | jtagWstat
  /-- SCANWIN_ACCESS (R549): An access to DEBUG.SCANWIN reads or writes the selected scan record. -/
  | scanwinAccess (w : Fin 65536) (wide : Bool) (write : Option DWord)
  /-- DMA_COPY (R549): Writing DMACTL.GO copies scan record bytes into host memory. -/
  | dmaCopy
  /-- DMA_COPY_DONE (R549): The scan DMA copy ends and sets DMACTL.DONE. -/
  | dmaCopyDone (good : Bool)
  /-- WATCH_CAPTURE (R556): At a watched step the usher holds galleries, copies the tensor to the dump ring and releases. -/
  | watchCapture (i : Fin 64)
  /-- FATAL_ERROR (R558): On a fatal error the usher raises the Whistle, writes the crash annex and starts a warm reset. -/
  | fatalError (code : Half) (t : Fin 4) (source : Fin 3) (unit : Word) (detail : DWord)
  /-- ANXCTL_CLEAR (R559): Writing ANXCTL.CLEAR invalidates the crash annex. -/
  | anxctlClear
  /-- RNGCTL_CLR (R554): Writing RNGCTL.CLR clears every range counter set. -/
  | rngctlClr (g : GalId)
  /-- I3C_WRITE (R578): An I3C write sets the read pointer or writes an allowed register. -/
  | i3cWrite (off : Word) (data : Option (Bool × DWord))
  /-- I3C_READ (R578): An I3C read returns the register at the pointer and advances it. -/
  | i3cRead
  /-- I3C_DYNAMIC_ADDRESS (R578): SETDASA or ENTDAA assigns the I3C target a dynamic address. -/
  | i3cDynamicAddress (addr : BitVec 7)
  /-- IBI_ACKNOWLEDGE (R579): The controller's acknowledgement of an interrupt releases ALERT_N. -/
  | ibiAcknowledge
  /-- CHANTER_INSTRUCTION (R322): A chanter executes a base RV32IMC or Zicsr instruction, including MRET, CSR accesses and its traps. -/
  | chanterInstruction (x : ChanterRun)
  /-- PLL_LOCK (R572): The PLL fed by HREFCLK locks after power-on, starting the time base at 0 and letting PCIe and the links train. -/
  | pllLock
  /-- POWER_GOOD_RISE (R582): A main-rail power-good input rises and, after 10 µs debounce, the module asserts the next rail enable 200 µs later. -/
  | powerGoodRise (rail : Fin 5)
  /-- RESET_INPUT_RELEASE (R575): Release of COLDRST_N or WARMRST_N ends the held reset, and for WARMRST_N starts the warm bring-up of R534. -/
  | resetInputRelease (cold : Bool)
  /-- MSG_BUSY_RESEND (R448): A MSG answered with BUSY is sent again after 20 µs. -/
  | msgBusyResend (l : Fin 5) (tag : Half)
  /-- CORRIDOR_CELL_FAIL (R469): A corridor regulator cell fails, and the usher caps the corridor and every gallery domain of the die to what the working cells carry, or fences the tower. -/
  | corridorCellFail (t : Fin 4)
  deriving DecidableEq, Repr

end Sys2Proof
end

