-- ==== Sys2Proof/Config.lean ====
section
/-! DEFINITION. What the spec leaves open: every value below is a constant with no body, so nothing
can be proved of it but that it is the same for the same operands. Each is named in a log entry. -/

namespace Sys2Proof

/-- Whether a vector core's read of a scaled element above the largest finite FP32 value gives infinity: the conversion rounds under R138, and
no rule gives its OVF (R143; log entry 6). -/
opaque Config.readOverflows : Nat → Nat → Bool

/-- A scale or element code computed under an FP4/S16 tensor scale that is zero, negative, infinite or
NaN, for which R140 states no quotient (log entry 7). -/
opaque Config.badTensorScale : Word → Word → Nat

/-- Beats or slots of an instruction whose table gives only a bound: DIV and REM, the scratchpad window
(Table 3-1, R322; log entry 3). -/
opaque Config.freeBeats : Nat → Nat

/-- Beats of a gallery domain in a time in ns, the core waiting or halted, at a VSTEP (R57; log entry 3). -/
opaque Config.waitBeats : Nat → Nat → Nat

/-- The issue index that the stochastic draws of a service descriptor take: it has none (R126, R141; log
entry 9). -/
opaque Config.serviceDrawIndex : Nat → Nat

/-- An EXACT sum that passes 64 bits (R158 bounds it for 2^23 elements only; log entry 10). -/
opaque Config.exactSumOverflow : Nat → DWord

/-- Which of the STAIR descriptors in flight, of those that a command may run, ends next: they complete in any order (R72; log entry 72). The number is
taken modulo the descriptors there are. -/
opaque Config.stairOrder : Nat → Nat

/-- The index of an argmax over nothing, for which R159 names no winner (log entry 10). -/
opaque Config.emptyArgmaxIndex : Word → Word

/-- The fixed hash of a stripe's address bits [39:8] that selects a hold-filter counter, below 2^17; R337 does not
give it (log entry 11). -/
opaque Config.rangeHash : Nat → BitVec 17

/-- The code of the health NOTICE of R48, R52 and R259, which the spec posts without a code (log entry 14). -/
opaque Config.healthNotice : Nat → BitVec 8

/-- What a chapter leaves open of a NOTICE (R425): its severity (field 0), its unit (1) or its detail (2), by code and by what it is about
(log entry 24). -/
opaque Config.openNotice : Nat → Nat → Nat → BitVec 64

/-- The detail of NOTICE 0x0205, which names model index, section and 64 KiB offset in a form the spec does not give (R511; log entry 24). -/
opaque Config.weightDetail : Nat → Nat → Nat → BitVec 64

/-- The bytes of the chanters' boot ROM, which the spec does not list (R323; log entry 15). -/
opaque Config.chanterRom : Nat → Byte

/-- The tower, modulo the towers present, whose memory takes the pages of a layer that a prefill plan writes: the tower that runs the
layer's stage, which no field of the image tells the module (R276; log entry 20). -/
opaque Config.layerTower : Nat → Nat → Nat

/-- The usher's free choices among what it may take: a frame, a slot, a place for a table, a tower (R267, R358, R360, R600; log entry
19). The number is taken modulo the choices there are. DESIGN CHOICE: log entry 19. -/
opaque Config.usherPick : Nat → Nat

/-- The rate byte of NOTICE 0x0704 for a link that trained to 2.5 GT/s, which is no whole number (R601; log entry 22). -/
opaque Config.halfRate : Nat → BitVec 8

/-- The largest (`true`) and least value of an equaliser tap, in 1/80 of full swing, which the spec does not give (R442; log entry 23). -/
opaque Config.tapLimit : Nat → Bool → Int

/-- How far BOOTID moves at a power-on or cold reset beside the one by which it must (Table 15-9; log entry 25). -/
opaque Config.bootStep : Nat → Word

/-- A word of a scan record whose place the spec does not lay out: router, slice and usher records, a chanter's CSRs and Q registers; and of a
poisoned line (R547; log entry 31). -/
opaque Config.scanWord : Nat → Nat → Word

/-- Whether a failed lane of a vault's bus delivers a wrong bit, by the number of the line that crosses it and the lane (R41; log entry 109). -/
opaque Config.laneError : Nat → Nat → Bool

/-- The KIND of the error log record of a duplicated result with another token: Table 17-4 lists none (R305; log entry 113). -/
opaque Config.integrityKind : Byte

/-- The layers that a peer takes an annex's ticket to skip: an image does not say (R278, R389, R460; log entry 91). -/
opaque Config.annexSkip : Word → DWord

/-- The CRC-32 of a bridge's burst, for which R55 gives no polynomial (log entry 108). -/
opaque Config.burstCrc : List (BitVec 576) → Word

/-- The CRC-16 that an arcade transfer carries over its side-band fields and data: R198 and R205 name no polynomial (log entry 105). -/
opaque Config.transferCrc : List Nat → BitVec 16

/-- Which entry of the chanter firmware a job of a kind starts at, what its arguments are, and the value that its JDONE gives: a contract of the two
firmwares (R348, R345; log entry 52). -/
opaque Config.jobEntry : Nat → Nat
opaque Config.jobArg : Nat → BitVec 256
opaque Config.jobResult : Nat → Word

/-- Which stage of a model, by SID, is the attention stage of a KV head: no field of an image says (R299; log entry 18). -/
opaque Config.attnStage : Nat → Nat → Nat

/-- The counter that the self-test's pattern takes for a quarter of a line: R352 gives its key alone (log entry 136). -/
opaque Config.testCounter : Nat → Nat → Nat × Nat

/-- Which request a receiver in training makes of a lane's transmitter, by time, link and lane; and the state that a frame's PRBS13 starts from (R442; log entry 134). -/
opaque Config.tapRequest : DWord → Nat → Nat → Nat
opaque Config.prbsSeed : Nat → Nat → Nat

end Sys2Proof
end

