-- ==== Sys2Proof/Machine/Store.lean ====
section
/-! DEFINITION. Reading and writing a sparse store in its one canonical form, and the byte-order
helpers of multi-byte values (R5: little-endian throughout). -/

namespace Sys2Proof

/-- The value a store holds at key `k`; `d` says what an unlisted key reads as. -/
def Store.get {α : Type} (d : Nat → α) : Store α → Nat → α
  | [], k => d k
  | (j, v) :: m, k => if k = j then v else Store.get d m k

/-- Write `v` at key `k`, keeping the keys rising and listing nothing an unlisted key would read as. -/
def Store.put {α : Type} [DecidableEq α] (d : Nat → α) : Store α → Nat → α → Store α
  | [], k, v => if v = d k then [] else [(k, v)]
  | (j, w) :: m, k, v =>
    if k < j then (if v = d k then (j, w) :: m else (k, v) :: (j, w) :: m)
    else if k = j then (if v = d k then m else (k, v) :: m)
    else (j, w) :: Store.put d m k v

/-- Every key of the store is at least `lo`, the keys rise strictly, and no listed value is the
value an unlisted key reads as. -/
def Store.wfFrom {α : Type} [DecidableEq α] (d : Nat → α) : Nat → Store α → Bool
  | _, [] => true
  | lo, (j, v) :: m => decide (lo ≤ j) && decide (v ≠ d j) && Store.wfFrom d (j + 1) m

/-- The canonical form of a sparse store. -/
def Store.wf {α : Type} [DecidableEq α] (d : Nat → α) (m : Store α) : Bool := Store.wfFrom d 0 m

/-- Apply `f` to the value at key `k`. -/
def Store.modify {α : Type} [DecidableEq α] (d : Nat → α) (m : Store α) (k : Nat) (f : α → α) : Store α :=
  Store.put d m k (f (Store.get d m k))

/-- Drop every entry whose key is in `[lo, lo + n)`: those keys read as unlisted keys do. -/
def Store.clear {α : Type} (m : Store α) (lo n : Nat) : Store α :=
  m.filter fun e => !(decide (lo ≤ e.1) && decide (e.1 < lo + n))

/-- Byte memories read zero where nothing is listed (log entry 1). -/
def zeroByte : Nat → Byte := fun _ => 0

/-- A memory's canonical form. -/
def Memory.wf (m : Store Byte) : Bool := Store.wf zeroByte m

/-- One byte of a memory. -/
def Memory.byte (m : Store Byte) (a : Nat) : Byte := Store.get zeroByte m a

/-- Write one byte. -/
def Memory.setByte (m : Store Byte) (a : Nat) (b : Byte) : Store Byte := Store.put zeroByte m a b

/-- The `n` bytes at `a`, lowest address first. -/
def Memory.bytes (m : Store Byte) (a : Nat) : Nat → List Byte
  | 0 => []
  | n + 1 => Memory.byte m a :: Memory.bytes m (a + 1) n

/-- Write the bytes `bs` at `a`, `a + 1`, and so on. -/
def Memory.setBytes (m : Store Byte) (a : Nat) : List Byte → Store Byte
  | [] => m
  | b :: bs => Memory.setBytes (Memory.setByte m a b) (a + 1) bs

/-- The number that a little-endian byte string spells (R5). -/
def leVal : List Byte → Nat
  | [] => 0
  | b :: bs => b.toNat + 256 * leVal bs

/-- The `n` little-endian bytes of a number. -/
def leBytes : Nat → Nat → List Byte
  | 0, _ => []
  | n + 1, v => BitVec.ofNat 8 v :: leBytes n (v / 256)

/-- The `n`-byte little-endian number at `a`. -/
def Memory.num (m : Store Byte) (a n : Nat) : Nat := leVal (Memory.bytes m a n)

/-- Write the `n`-byte little-endian number `v` at `a`. -/
def Memory.setNum (m : Store Byte) (a n v : Nat) : Store Byte := Memory.setBytes m a (leBytes n v)

/-- Copy `n` bytes of `src` from `a` to `dst` at `b`; the source is read whole before the write. -/
def Memory.copy (src : Store Byte) (a : Nat) (dst : Store Byte) (b n : Nat) : Store Byte :=
  Memory.setBytes dst b (Memory.bytes src a n)

/-- The zeroed range of a memory. -/
def Memory.zero (m : Store Byte) (a n : Nat) : Store Byte := Store.clear m a n

/-- Bits `[lo + len - 1 : lo]` of a number (R4). -/
def field (x lo len : Nat) : Nat := x / 2 ^ lo % 2 ^ len

/-- Bit `i` of a number. -/
def bitOf (x i : Nat) : Bool := field x i 1 == 1

/-- A number with bits `[lo + len - 1 : lo]` replaced by the low bits of `v`. -/
def setField (x lo len v : Nat) : Nat :=
  x - field x lo len * 2 ^ lo + (v % 2 ^ len) * 2 ^ lo

/-- Bits of a number that are set, below bit n. -/
def popcount (n v : Nat) : Nat := ((List.range n).filter (bitOf v)).length

/-- A Bool as a number. -/
def b2n (b : Bool) : Nat := if b then 1 else 0

/-- A list with its element `i` replaced. -/
def listSet {α : Type} : List α → Nat → α → List α
  | [], _, _ => []
  | _ :: xs, 0, v => v :: xs
  | x :: xs, i + 1, v => x :: listSet xs i v

/-- Element `i` of a list, `d` past its end. -/
def listGet {α : Type} (d : α) : List α → Nat → α
  | [], _ => d
  | x :: _, 0 => x
  | _ :: xs, i + 1 => listGet d xs i

/-- The `n`-bit two's complement reading of a number. -/
def toSigned (n x : Nat) : Int :=
  let y := x % 2 ^ n
  if y < 2 ^ (n - 1) then (y : Int) else (y : Int) - (2 ^ n : Nat)

/-- An integer wrapped to `n` bits. -/
def wrapInt (n : Nat) (i : Int) : Nat := (i % ((2 ^ n : Nat) : Int)).toNat

/-- Add with saturation at the largest `n`-bit number. -/
def satAdd (n a b : Nat) : Nat := min (a + b) (2 ^ n - 1)

end Sys2Proof
end

