-- ==== Sys2Proof/Machine/Float.lean ====
section
/-! DEFINITION. Exact floating-point arithmetic (R129 to R131, R145, R153): values as exact dyadic
numbers, one rounding to a format's precision, and the FP32 operations built from the two. -/

namespace Sys2Proof

/-- What a floating-point code stands for: NaN, an infinity, or (−1)^neg × m × 2^e. -/
inductive FVal where
  | nan
  | inf (neg : Bool)
  | fin (neg : Bool) (m : Nat) (e : Int)
  deriving DecidableEq, Repr

/-- An exact signed dyadic number m × 2^e. -/
structure Dyad where
  m : Int
  e : Int
  deriving DecidableEq, Repr

/-- 2^e times a natural number, as a fraction of naturals. -/
def scale2 (m : Nat) (e : Int) : Nat × Nat :=
  if 0 ≤ e then (m * 2 ^ e.toNat, 1) else (m, 2 ^ (-e).toNat)

/-- ⌊log₂ (n / d)⌋ for positive n and d. -/
def floorLog2 (n d : Nat) : Int :=
  let a : Int := (n.log2 : Int) - (d.log2 : Int)
  let fits : Bool :=
    if 0 ≤ a then decide (d * 2 ^ a.toNat ≤ n) else decide (d ≤ n * 2 ^ (-a).toNat)
  if fits then a else a - 1

/-- How a magnitude between two representable neighbours is settled (R139). -/
inductive Rounding where
  | nearestEven
  | stochastic (draw : Nat)
  deriving DecidableEq, Repr

/-- The integer next to n / d that the rounding picks (R139). -/
def roundQuot (r : Rounding) (n d : Nat) : Nat :=
  let lo := n / d
  let rem := n % d
  match r with
  | .nearestEven =>
    if 2 * rem < d then lo
    else if d < 2 * rem then lo + 1
    else if lo % 2 = 0 then lo else lo + 1
  | .stochastic draw => if 65536 ≤ 65536 * rem / d + draw then lo + 1 else lo

/-- The code, without sign and with no upper limit on its exponent field, of n / d rounded once to
`mb` mantissa bits with exponent bias `bias`; subnormals are kept. -/
def roundCode (mb bias : Nat) (r : Rounding) (n d : Nat) : Nat :=
  if n = 0 then 0
  else
    let ex := floorLog2 n d
    let emin : Int := 1 - (bias : Int)
    let top := if emin ≤ ex then ex else emin
    let qe := top - (mb : Int)
    let k := if 0 ≤ qe then roundQuot r n (d * 2 ^ qe.toNat) else roundQuot r (n * 2 ^ (-qe).toNat) d
    if emin ≤ ex then ((ex + (bias : Int)).toNat * 2 ^ mb + k) - 2 ^ mb else k

/-- FP32 canonical NaN (Table 5-2). -/
def nan32 : Word := 0x7FC00000#32

/-- FP32 infinity of a sign. -/
def inf32 (neg : Bool) : Word := if neg then 0xFF800000#32 else 0x7F800000#32

/-- FP32 zero of a sign. -/
def zero32 (neg : Bool) : Word := if neg then 0x80000000#32 else 0#32

/-- A magnitude n / d rounded once to FP32 by round-to-nearest-even, infinity above the largest
finite value (R136, R145). -/
def rneMag (neg : Bool) (n d : Nat) : Word :=
  let c := roundCode 23 127 .nearestEven n d
  let c := min c 0x7F800000
  BitVec.ofNat 32 (c + b2n neg * 2 ^ 31)

/-- rne32 of an exact dyadic; an exact zero is +0.0. -/
def rne32 (x : Dyad) : Word :=
  let f := scale2 x.m.natAbs x.e
  rneMag (decide (x.m < 0)) f.1 f.2

/-- What an FP32 word stands for; every NaN is the one NaN (R131). -/
def fp32 (w : Word) : FVal :=
  let x := w.toNat
  let neg := bitOf x 31
  let ex := field x 23 8
  let m := field x 0 23
  if ex = 255 then (if m = 0 then .inf neg else .nan)
  else if ex = 0 then .fin neg m (-149)
  else .fin neg (2 ^ 23 + m) ((ex : Int) - 150)

/-- The exact dyadic of a finite value. -/
def Dyad.ofFin (neg : Bool) (m : Nat) (e : Int) : Dyad := ⟨if neg then -(m : Int) else (m : Int), e⟩

/-- Exact sum. -/
def Dyad.add (x y : Dyad) : Dyad :=
  if x.e ≤ y.e then ⟨x.m + y.m * ((2 ^ (y.e - x.e).toNat : Nat) : Int), x.e⟩
  else ⟨x.m * ((2 ^ (x.e - y.e).toNat : Nat) : Int) + y.m, y.e⟩

/-- Exact product. -/
def Dyad.mul (x y : Dyad) : Dyad := ⟨x.m * y.m, x.e + y.e⟩

/-- The exact dyadic zero. -/
def Dyad.zero : Dyad := ⟨0, 0⟩

/-- Sum of an exact finite product (sign, magnitude) and a value, rounded once; the IEEE 754 signs of
an exact zero. -/
def fAddFin (n1 : Bool) (m1 : Nat) (e1 : Int) (n2 : Bool) (m2 : Nat) (e2 : Int) : Word :=
  let s := Dyad.add (Dyad.ofFin n1 m1 e1) (Dyad.ofFin n2 m2 e2)
  if s.m = 0 then zero32 (n1 && n2 && m1 == 0 && m2 == 0) else rne32 s

/-- FP32 addition (R145). -/
def fAdd (a b : Word) : Word :=
  match fp32 a, fp32 b with
  | .nan, _ => nan32
  | _, .nan => nan32
  | .inf s, .inf t => if s = t then inf32 s else nan32
  | .inf s, .fin _ _ _ => inf32 s
  | .fin _ _ _, .inf t => inf32 t
  | .fin s m e, .fin t n f => fAddFin s m e t n f

/-- Sign flip that canonises NaN (R153: VNEG). -/
def fNeg (a : Word) : Word :=
  match fp32 a with
  | .nan => nan32
  | _ => a ^^^ 0x80000000#32

/-- Sign clear that canonises NaN (R153: VABS). -/
def fAbs (a : Word) : Word :=
  match fp32 a with
  | .nan => nan32
  | _ => a &&& 0x7FFFFFFF#32

/-- FP32 subtraction. -/
def fSub (a b : Word) : Word :=
  match fp32 b with
  | .nan => nan32
  | _ => fAdd a (b ^^^ 0x80000000#32)

/-- FP32 multiplication. -/
def fMul (a b : Word) : Word :=
  match fp32 a, fp32 b with
  | .nan, _ => nan32
  | _, .nan => nan32
  | .inf s, .inf t => inf32 (s != t)
  | .inf s, .fin t m _ => if m = 0 then nan32 else inf32 (s != t)
  | .fin s m _, .inf t => if m = 0 then nan32 else inf32 (s != t)
  | .fin s m e, .fin t n f =>
    let r := scale2 (m * n) (e + f)
    rneMag (s != t) r.1 r.2

/-- a × b + c rounded once (R153: VFMA). -/
def fFma (a b c : Word) : Word :=
  match fp32 a, fp32 b, fp32 c with
  | .nan, _, _ => nan32
  | _, .nan, _ => nan32
  | _, _, .nan => nan32
  | .fin s m e, .fin t n f, .fin u k g => fAddFin (s != t) (m * n) (e + f) u k g
  | .fin _ _ _, .fin _ _ _, .inf u => inf32 u
  | .inf s, .fin t m _, z => if m = 0 then nan32 else
      match z with
      | .inf u => if u = (s != t) then inf32 u else nan32
      | _ => inf32 (s != t)
  | .fin s m _, .inf t, z => if m = 0 then nan32 else
      match z with
      | .inf u => if u = (s != t) then inf32 u else nan32
      | _ => inf32 (s != t)
  | .inf s, .inf t, z =>
      match z with
      | .inf u => if u = (s != t) then inf32 u else nan32
      | _ => inf32 (s != t)

/-- An integer on which FP32 numbers that are not NaN order as their values do, with −0 just below
+0 (R153). -/
def fKey (a : Word) : Int :=
  let x := a.toNat
  if bitOf x 31 then -((x - 2 ^ 31 : Nat) : Int) - 1 else (x : Int)

/-- Whether a word is a NaN. -/
def isNaN32 (a : Word) : Bool := fp32 a == .nan

/-- maximumNumber (R153). -/
def fMax (a b : Word) : Word :=
  if isNaN32 a then (if isNaN32 b then nan32 else b)
  else if isNaN32 b then a
  else if fKey a < fKey b then b else a

/-- minimumNumber (R153). -/
def fMin (a b : Word) : Word :=
  if isNaN32 a then (if isNaN32 b then nan32 else b)
  else if isNaN32 b then a
  else if fKey b < fKey a then b else a

/-- The same key with −0 and +0 made equal (R154, R159). -/
def fKeyZ (a : Word) : Int := if fKey a = -1 then 0 else fKey a

/-- a < b as numbers; false when either is NaN. -/
def fLt (a b : Word) : Bool := !isNaN32 a && !isNaN32 b && decide (fKeyZ a < fKeyZ b)

/-- a ≤ b as numbers; false when either is NaN. -/
def fLe (a b : Word) : Bool := !isNaN32 a && !isNaN32 b && decide (fKeyZ a ≤ fKeyZ b)

/-- a = b as numbers; false when either is NaN. -/
def fEq (a b : Word) : Bool := !isNaN32 a && !isNaN32 b && decide (fKeyZ a = fKeyZ b)

/-- An integer rounded to FP32 (R155 kinds 1 and 2). -/
def fOfInt (i : Int) : Word := rne32 ⟨i, 0⟩

/-- FP32 to I32, round-to-nearest-even, saturating, NaN giving 0 (R155 kind 0). -/
def fToI32 (a : Word) : Word :=
  match fp32 a with
  | .nan => 0
  | .inf neg => if neg then 0x80000000#32 else 0x7FFFFFFF#32
  | .fin neg m e =>
    let f := scale2 m e
    let k : Int := (roundQuot .nearestEven f.1 f.2 : Nat)
    let v := if neg then -k else k
    if v < -(2 ^ 31) then 0x80000000#32
    else if 2 ^ 31 - 1 < v then 0x7FFFFFFF#32
    else BitVec.ofInt 32 v

end Sys2Proof
end

