-- ==== Sys2Proof/Machine/Formats.lean ====
section
/-! DEFINITION. The element formats, conversion and block scales of the number-format chapter
(R129 to R143), and the Philox generator of R165 that stochastic rounding draws from. -/

namespace Sys2Proof

/-- The format codes of Table 4-1 and Table 6-4. -/
inductive Fmt where
  | e4m3 | e5m2 | mxE4m3 | mxE5m2 | mxE3m2 | mxE2m3 | mxInt8 | int8 | mxE2m1 | fp4s16 | int4
  | bf16 | fp16 | f32 | u16 | w32
  deriving DecidableEq, Repr

/-- A format code as a format. -/
def Fmt.ofCode : Nat → Fmt
  | 0 => .e4m3 | 1 => .e5m2 | 2 => .mxE4m3 | 3 => .mxE5m2 | 4 => .mxE3m2 | 5 => .mxE2m3
  | 6 => .mxInt8 | 7 => .int8 | 8 => .mxE2m1 | 9 => .fp4s16 | 10 => .int4 | 11 => .bf16
  | 12 => .fp16 | 13 => .f32 | 14 => .u16 | _ => .w32

/-- Bits of one element (R135). -/
def Fmt.bits : Fmt → Nat
  | .mxE3m2 => 6 | .mxE2m3 => 6
  | .mxE2m1 => 4 | .fp4s16 => 4 | .int4 => 4
  | .bf16 => 16 | .fp16 => 16 | .u16 => 16
  | .f32 => 32 | .w32 => 32
  | _ => 8

/-- Elements that share a block scale; 0 for an unscaled format (R132, R133). -/
def Fmt.block : Fmt → Nat
  | .mxE4m3 => 32 | .mxE5m2 => 32 | .mxE3m2 => 32 | .mxE2m3 => 32 | .mxInt8 => 32 | .mxE2m1 => 32
  | .fp4s16 => 16
  | _ => 0

/-- Whether a format holds integers with no scale (R101, R138). -/
def Fmt.isInt : Fmt → Bool
  | .int8 => true | .int4 => true | _ => false

/-- The floating-point element shape: mantissa bits, bias, largest finite code, and whether the codes
above it are an infinity (`some true`), a NaN only (`some false`) or ordinary (`none`). -/
structure EShape where
  ebits : Nat
  mb : Nat
  bias : Nat
  top : Nat
  special : Option Bool
  deriving DecidableEq, Repr

/-- The element shape of a format (Table 5-1); none for the integer formats. -/
def Fmt.shape : Fmt → Option EShape
  | .f32 => some ⟨8, 23, 127, 0x7F7FFFFF, some true⟩
  | .bf16 => some ⟨8, 7, 127, 0x7F7F, some true⟩
  | .fp16 => some ⟨5, 10, 15, 0x7BFF, some true⟩
  | .e4m3 => some ⟨4, 3, 7, 0x7E, some false⟩
  | .mxE4m3 => some ⟨4, 3, 7, 0x7E, some false⟩
  | .e5m2 => some ⟨5, 2, 15, 0x7B, some true⟩
  | .mxE5m2 => some ⟨5, 2, 15, 0x7B, some true⟩
  | .mxE3m2 => some ⟨3, 2, 3, 0x1F, none⟩
  | .mxE2m3 => some ⟨2, 3, 1, 0x1F, none⟩
  | .mxE2m1 => some ⟨2, 1, 1, 0x7, none⟩
  | .fp4s16 => some ⟨2, 1, 1, 0x7, none⟩
  | _ => none

/-- The value an element code has (R129, R130); the block scale is not applied. -/
def Fmt.value (f : Fmt) (code : Nat) : FVal :=
  match f.shape with
  | some s =>
    let c := code % 2 ^ (s.ebits + s.mb + 1)
    let neg := bitOf c (s.ebits + s.mb)
    let mag := c % 2 ^ (s.ebits + s.mb)
    let ex := mag / 2 ^ s.mb
    let m := mag % 2 ^ s.mb
    if s.top < mag ∧ s.special ≠ none then
      (if s.special = some true ∧ m = 0 then .inf neg else .nan)
    else if ex = 0 then .fin neg m (1 - (s.bias : Int) - (s.mb : Int))
    else .fin neg (2 ^ s.mb + m) ((ex : Int) - (s.bias : Int) - (s.mb : Int))
  | none =>
    let n := if f = .int4 then 4 else 8
    match f with
    | .u16 => .fin false (code % 65536) 0
    | .w32 => .fin false (code % 2 ^ 32) 0
    | .mxInt8 => let i := toSigned 8 code; .fin (decide (i < 0)) i.natAbs (-6)
    | _ => let i := toSigned n code; .fin (decide (i < 0)) i.natAbs 0

/-- The block scale a scale byte has: E8M0, or UE5M3 for FP4/S16 (R132, R133). -/
def Fmt.scaleValue (f : Fmt) (x : Nat) : FVal :=
  if f = .fp4s16 then
    if x = 0xFF then .nan
    else if x / 8 = 0 then .fin false (x % 8) (-17)
    else .fin false (8 + x % 8) ((x / 8 : Nat) - 18)
  else if x = 0xFF then .nan else .fin false 1 ((x : Int) - 127)

/-- The exact product of two values, NaN for zero times infinity (R136). -/
def FVal.mul : FVal → FVal → FVal
  | .nan, _ => .nan
  | _, .nan => .nan
  | .inf s, .inf t => .inf (s != t)
  | .inf s, .fin t m _ => if m = 0 then .nan else .inf (s != t)
  | .fin s m _, .inf t => if m = 0 then .nan else .inf (s != t)
  | .fin s m e, .fin t n f => .fin (s != t) (m * n) (e + f)

/-- The exact sum of two values; an exact zero is positive (R136). -/
def FVal.add : FVal → FVal → FVal
  | .nan, _ => .nan
  | _, .nan => .nan
  | .inf s, .inf t => if s = t then .inf s else .nan
  | .inf s, .fin _ _ _ => .inf s
  | .fin _ _ _, .inf t => .inf t
  | .fin s m e, .fin t n f =>
    let d := Dyad.add (Dyad.ofFin s m e) (Dyad.ofFin t n f)
    .fin (decide (d.m < 0)) d.m.natAbs d.e

/-- rne32 of a value; an exact zero keeps its sign. -/
def FVal.rne32 : FVal → Word
  | .nan => nan32
  | .inf s => inf32 s
  | .fin s m e => let f := scale2 m e; rneMag s f.1 f.2

/-- The largest finite FP32 magnitude bounds an exact value (R143's conditions). -/
def FVal.fits32 : FVal → Bool
  | .fin _ m e => let f := scale2 m e; decide (f.1 ≤ (2 ^ 24 - 1) * 2 ^ 104 * f.2)
  | _ => true

/-- The canonical NaN of an element format (Table 5-2, R138 step 1); 0 where the format has none. -/
def Fmt.nanCode : Fmt → Nat
  | .f32 => 0x7FC00000 | .bf16 => 0x7FC0 | .fp16 => 0x7E00
  | .e4m3 => 0x7F | .mxE4m3 => 0x7F | .e5m2 => 0x7E | .mxE5m2 => 0x7E
  | _ => 0

/-- The code of an infinity or of an overflow (R138 steps 2 and 4): saturated with OVF = 0, infinity
or NaN with OVF = 1. The six- and four-bit elements always saturate. -/
def Fmt.overCode (f : Fmt) (ovf neg : Bool) : Nat :=
  match f.shape with
  | some s =>
    let sign := b2n neg * 2 ^ (s.ebits + s.mb)
    match ovf, s.special with
    | true, some true => s.top + 1 + sign
    | true, some false => f.nanCode
    | _, _ => s.top + sign
  | none =>
    match f with
    | .int4 => if neg then 8 else 7
    | .mxInt8 => if neg then 129 else 127
    | _ => if neg then 128 else 127

/-- convert for an exact magnitude n / d of sign neg (R138 steps 3 to 6). -/
def Fmt.convertMag (f : Fmt) (r : Rounding) (ovf ftz neg : Bool) (n d : Nat) : Nat :=
  match f.shape with
  | some s =>
    let c := roundCode s.mb s.bias r n d
    if s.top < c then f.overCode ovf neg
    else
      let c := if ftz && decide (c < 2 ^ s.mb) then 0 else c
      c + b2n neg * 2 ^ (s.ebits + s.mb)
  | none =>
    let w := if f = .int4 then 4 else 8
    let k := roundQuot r n d
    let lim := if f = .mxInt8 then 127 else if neg then 2 ^ (w - 1) else 2 ^ (w - 1) - 1
    let k := min k lim
    wrapInt w (if neg then -(k : Int) else (k : Int))

/-- convert(v, fmt, RND, OVF, FTZ) of R138 for an exact value. -/
def Fmt.convertVal (f : Fmt) (r : Rounding) (ovf ftz : Bool) (v : FVal) : Nat :=
  match v with
  | .nan => f.nanCode
  | .inf neg => f.overCode ovf neg
  | .fin neg m e => let q := scale2 m e; f.convertMag r ovf ftz neg q.1 q.2

/-- An element read into FP32 with its block scale applied (R149, R143). A product above the largest finite FP32 value rounds under R138, `ovf` being
its OVF. -/
def Fmt.toFp32 (f : Fmt) (ovf : Bool) (scale code : Nat) : Word :=
  match f with
  | .u16 => BitVec.ofNat 32 (code % 65536)
  | .w32 => BitVec.ofNat 32 code
  | _ =>
    if f.block = 0 then (f.value code).rne32
    else
      match f.scaleValue scale with
      | .nan => nan32
      | sv =>
        let v := FVal.mul sv (f.value code)
        if v.fits32 then v.rne32
        else BitVec.ofNat 32 (Fmt.f32.convertVal .nearestEven ovf false v)

/-- convert(v, fmt, RND, OVF, FTZ) of R138 for an FP32 word. U16 saturates the U32 word and W32 copies
it (Table 6-4). -/
def Fmt.convert (f : Fmt) (r : Rounding) (ovf ftz : Bool) (v : Word) : Nat :=
  match f with
  | .u16 => min v.toNat 0xFFFF
  | .w32 => v.toNat
  | _ => f.convertVal r ovf ftz (fp32 v)

/-- emax of R140. DEDUCED: log entry 66. -/
def Fmt.emax : Fmt → Int
  | .mxE4m3 => 8 | .mxE5m2 => 15 | .mxE3m2 => 4 | .mxE2m3 => 2 | .mxE2m1 => 2 | _ => 0

/-- The largest magnitude of a block as an FP32 word; none when the block holds a NaN or an infinity. -/
def blockMax : List Word → Option Word
  | [] => some 0
  | v :: vs =>
    match fp32 v, blockMax vs with
    | .fin _ _ _, some m => some (fMax (fAbs v) m)
    | _, _ => none

/-- Block scale and element codes of one block (R140); `t` is the FP4/S16 tensor scale and `draw`
gives each element's stochastic draw. A tensor scale that is not a positive finite number gives no
quotient the spec states: a free value (log entry 7). DEDUCED: log entry 66. -/
def Fmt.convertBlock (f : Fmt) (rnd : Nat → Rounding) (ovf ftz : Bool) (t : Word) (vs : List Word) :
    Nat × List Nat :=
  match blockMax vs with
  | none => (0xFF, vs.map fun _ => 0)
  | some m =>
    match fp32 m with
    | .fin _ mm me =>
      if mm = 0 then (0, vs.map fun _ => 0)
      else if f = .fp4s16 then
        match fp32 t with
        | .fin false tm te =>
          if tm = 0 then (Config.badTensorScale t m, vs.map fun v => Config.badTensorScale t v % 16)
          else
            -- s = m / (6 T)
            let a := scale2 mm (me - te)
            let c := min (roundCode 3 15 .nearestEven a.1 (a.2 * 6 * tm)) 0xFE
            let c := if c = 0 then 1 else c
            match f.scaleValue c with
            | .fin _ sm se =>
              (c, vs.zipIdx.map fun p =>
                match fp32 p.1 with
                | .fin neg vm ve =>
                  let q := scale2 vm (ve - te - se)
                  f.convertMag (rnd p.2) ovf ftz neg q.1 (q.2 * tm * sm)
                | _ => 0)
            | _ => (c, vs.map fun _ => 0)
        | _ => (Config.badTensorScale t m, vs.map fun v => Config.badTensorScale t v % 16)
      else
        let q := scale2 mm me
        let e := floorLog2 q.1 q.2 - f.emax
        let e := if e + 127 < 0 then -127 else if 254 < e + 127 then 127 else e
        ((e + 127).toNat, vs.zipIdx.map fun p =>
          match fp32 p.1 with
          | .fin neg vm ve =>
            let q := scale2 vm (ve - e + (if f = .mxInt8 then 6 else 0))
            f.convertMag (rnd p.2) ovf ftz neg q.1 q.2
          | _ => 0)
    | _ => (0xFF, vs.map fun _ => 0)

/-- One Philox round (R165). -/
def philoxRound (k0 k1 : Nat) (c : Nat × Nat × Nat × Nat) : Nat × Nat × Nat × Nat :=
  let p0 := 0xD2511F53 * c.1
  let p1 := 0xCD9E8D57 * c.2.2.1
  ((p1 / 2 ^ 32) ^^^ c.2.1 ^^^ k0, p1 % 2 ^ 32, (p0 / 2 ^ 32) ^^^ c.2.2.2 ^^^ k1, p0 % 2 ^ 32)

/-- The remaining rounds, the key stepped before each. -/
def philoxGo : Nat → Nat → Nat → Nat × Nat × Nat × Nat → Nat × Nat × Nat × Nat
  | 0, _, _, c => c
  | n + 1, k0, k1, c =>
    let k0 := (k0 + 0x9E3779B9) % 2 ^ 32
    let k1 := (k1 + 0xBB67AE85) % 2 ^ 32
    philoxGo n k0 k1 (philoxRound k0 k1 c)

/-- Philox-4x32-10 (R165): words 0 to 3. -/
def philox (k0 k1 c0 c1 c2 c3 : Nat) : List Nat :=
  let r := philoxGo 9 k0 k1 (philoxRound k0 k1 (c0, c1, c2, c3))
  [r.1, r.2.1, r.2.2.1, r.2.2.2]

/-- The 16-bit draw of element n of row j (R141). -/
def srDraw (key0 key1 j n issue c3 : Nat) : Nat :=
  field (listGet 0 (philox key0 key1 j (n / 8) issue c3) (n % 8 / 2)) (16 * (n % 2)) 16

end Sys2Proof
end

