-- ==== Sys2Proof/Machine/GalleryState.lean ====
section
/-! DEFINITION. The state of one gallery (chapters Gallery Programming Model, The Matrix Core, The
Vector Core, Sparsity, The Arcade): plain data, every field at its reset value in `Gallery.reset`. -/

namespace Sys2Proof.Machine

/-- A RISC-V machine-mode hart (R57, R322). `x` holds x1 to x31; x0 is never listed. -/
structure Hart where
  pc : Word
  x : Store Word
  mie : Bool
  mpie : Bool
  mieReg : Word
  mipReg : Word
  mtvec : Word
  mepc : Word
  mcause : Word
  mtval : Word
  mscratch : Word
  mcycle : DWord
  minstret : DWord
  deriving DecidableEq, Repr

/-- R60: pc 0, mstatus.MIE 1, mie 0x0001_0000. The other registers have no stated reset value and are
zero (log entry 2). -/
def Hart.reset : Hart :=
  { pc := 0, x := [], mie := true, mpie := false, mieReg := 0x00010000#32, mipReg := 0, mtvec := 0,
    mepc := 0, mcause := 0, mtval := 0, mscratch := 0, mcycle := 0, minstret := 0 }

/-- Where a queue entry stands: not started, started, its arcade transfers sent (with the first status that any
of them came back with), or ended with a status
(0 for success) that its completion has yet to report. DEDUCED: log entry 72. -/
inductive EntrySt where
  | waiting
  | running
  | sent (status : Nat)
  | ended (status : Nat)
  deriving DecidableEq, Repr

/-- One descriptor held by a queue: its stamped 32 bytes, its issue index, when it started (R62, R72, R79), and the target
mask that an ARC.MCAST read then (R212). -/
structure QEntry where
  desc : Desc
  index : Word
  st : EntrySt
  since : DWord
  mask : Nat
  deriving DecidableEq, Repr

/-- One queue: entries oldest first, the ISSUED and DONE counts, and whether it halted on a fault. -/
structure Queue where
  entries : List QEntry
  issued : Word
  done : Word
  halted : Bool
  deriving DecidableEq, Repr

/-- R60: empty and not halted. -/
def Queue.reset : Queue := { entries := [], issued := 0, done := 0, halted := false }

/-- What the scalar core waits for (R62, R64, R65, R71). -/
inductive Wait where
  | waitc (rd ctr : Nat) (target : Word)
  | issue (rd : Nat) (q : Nat) (addr : Word)
  | fenceq (mask : Nat)
  | step (n : Word)
  deriving DecidableEq, Repr

/-- The domain of a gallery: off, up at its VSTEP, or at retention voltage (R187, R189). -/
inductive DomState where
  | off
  | up
  | retained
  deriving DecidableEq, Repr

/-- One vector core (R144): tile words at t·16384 + r·128 + c, vector words at 65536 + v·128 + l, and
masks 0 to 3. `bad` lists words whose parity is wrong (masks at 66560 + m). -/
structure VCore where
  words : Store Word
  masks : Store (BitVec 128)
  bad : Store Bool
  opc : Byte
  perr : Bool
  deriving DecidableEq, Repr

/-- R144, R173: every register and VXSTAT at zero. -/
def VCore.reset : VCore := { words := [], masks := [], bad := [], opc := 0, perr := false }

/-- What the core records of a loaded tile (R108): format, SP24, column mask, source address. -/
structure TileRec where
  fmt : Nat
  sp24 : Bool
  cg : Byte
  src : Nat
  deriving DecidableEq, Repr

/-- The tile latched in the array (R108): its record and its packed bytes from 0. -/
structure Tile extends TileRec where
  cells : Store Byte
  deriving DecidableEq, Repr

/-- The matrix core (R99, R108, R118, R128). Window word (buf, row, n) is at buf·131072 + row·128 + n;
profile i is bytes 8 to 23 of the MX.CFG body that set it.
`stopTile` records the tile that was valid when the core stopped, and `resumed` that the stopped array descriptor
continues through the latched tile (R126); `stopAt` is when the core stopped. `stopReq` is the cause of a stop that is asked for
(Table 4-16), 0 for none. -/
structure MxCore where
  tile : Option Tile
  lastSrc : Nat
  window : Store Word
  wbad : Store Bool
  prof0 : BitVec 128
  prof1 : BitVec 128
  prof2 : BitVec 128
  prof3 : BitVec 128
  stopReq : Nat
  stopped : Bool
  cause : Nat
  displ : Bool
  stopTile : Option TileRec
  stopAt : DWord
  resumed : Bool
  resRow : Half
  resTile : BitVec 7
  resValid : Bool
  resOpc : Byte
  svc : Desc
  svcDone : Bool
  svcStat : Byte
  deriving DecidableEq, Repr

/-- R118: FP32, RND 0, OVF 0, FTZ 0, SCALE 1.0, no column vectors. -/
def MxCore.profReset (i : Nat) : BitVec 128 := BitVec.ofNat 128 (i + 0xD0 + 0x3F800000 * 2 ^ 32)

/-- R99, R118, R128. -/
def MxCore.reset : MxCore :=
  { tile := none, lastSrc := 0, window := [], wbad := [], prof0 := MxCore.profReset 0, prof1 := MxCore.profReset 1,
    prof2 := MxCore.profReset 2, prof3 := MxCore.profReset 3, stopReq := 0, stopped := false,
    cause := 0, displ := false, stopTile := none, stopAt := 0, resumed := false, resRow := 0, resTile := 0, resValid := false,
    resOpc := 0, svc := 0, svcDone := false, svcStat := 0 }

/-- One gallery, or a stage on chanter fallback (R222, R353): `shadow` says that the position's chanter cluster runs it. Data memory is keyed by the scalar core's
address; `spad` by scratchpad byte address (R83). `ecc` marks words with an uncorrectable error: a
scratchpad word at its address, an instruction-memory word at 0x1000000 + address, a data-memory word at
0x2000000 + address. `waitAt` is when the core last began to wait or was halted, and `dead` says that a parity error halted it (R92). -/
structure Gallery where
  dom : DomState
  shadow : Bool
  hart : Hart
  halt : Bool
  tact : Bool
  hold : Bool
  waiting : Option Wait
  waitAt : DWord
  dead : Bool
  waitlim : BitVec 24
  fault : Bool
  faultQ : Nat
  faultStat : Byte
  faultIdx : BitVec 20
  lgal : BitVec 7
  gstep : Word
  stepped : Bool
  imem : Store Byte
  dmem : Store Byte
  spad : Store Byte
  ecc : Store Bool
  ctr : Store Word
  queues : Store Queue
  marks : List Half
  srkey0 : Word
  srkey1 : Word
  mx : MxCore
  vx0 : VCore
  vx1 : VCore
  skip : Store Word
  gcred : Store Word
  retnArm : Bool
  retnLast : Bool
  retnSince : DWord
  pend : Store Word
  mring : BitVec 22
  mrhead : Half
  mrtail : Half
  swin : Store DWord
  stfaddr : BitVec 40
  stfStat : Byte
  stfValid : Bool
  rngsel : Store (BitVec 17)
  rng : Store DWord
  charge : Nat
  chargeVstep : Nat
  creditOpen : Bool
  carry : Nat
  chargeCarry : Nat
  winCharge : Int
  energies : Store Word
  credTab : Store Word
  stage : Nat
  restarts : Nat
  deriving DecidableEq, Repr

/-- A gallery after power-on: domain off, every register at the value its chapter's table gives, memories
with nothing listed. -/
def Gallery.reset : Gallery :=
  { dom := .off, shadow := false, hart := Hart.reset, halt := false, tact := false, hold := false, waiting := none, waitAt := 0, dead := false,
    waitlim := 0x002710#24, fault := false, faultQ := 0, faultStat := 0, faultIdx := 0, lgal := 0,
    gstep := 0, stepped := false, imem := [], dmem := [], spad := [], ecc := [], ctr := [],
    queues := [], marks := [], srkey0 := 0, srkey1 := 0, mx := MxCore.reset, vx0 := VCore.reset,
    vx1 := VCore.reset, skip := [], gcred := [], retnArm := false, retnLast := false, retnSince := 0, pend := [],
    mring := 0, mrhead := 0, mrtail := 0, swin := [], stfaddr := 0, stfStat := 0, stfValid := false, rngsel := [], rng := [],
    charge := 0, chargeVstep := 0, creditOpen := false, carry := 0,
    chargeCarry := 0, winCharge := 0, energies := [], credTab := [], stage := 0, restarts := 0 }

/-- What an arcade transfer carries to its destination (R205, R211 to R215): pieces at scratchpad addresses, a
message, or a signal. -/
inductive XferKind where
  | write (pieces : List (Nat × List Byte))
  | msg (data : List Byte)
  | sig (ctr : Nat) (val : Word)
  deriving DecidableEq, Repr

/-- Where an arcade transfer stands: on its way, held before the target's scratchpad (R190, R206), or with its
acknowledgement on its way back (good, bad CRC, refused with a status). -/
inductive XferSt where
  | flying
  | held
  | acked
  | nacked
  | refused (status : Nat)
  deriving DecidableEq, Repr

/-- One arcade transfer with its side-band fields (R198, R205). `src` is the source's physical gallery, `index` the issue index of
its ARC descriptor; the destination is logical; `flow` is the flow of a scheduled transfer; `rctr` is the remote completion
counter, if any. `seq` orders what is held at a gallery by arrival (R206). `fork` names the router in whose hold store a
multicast copy is kept, `since` when that began, and `told` that the usher has heard of it (R218). -/
structure Xfer where
  src : Nat
  index : Word
  dtower : Nat
  dgal : Nat
  sched : Bool
  mcast : Bool
  flow : Nat
  kind : XferKind
  rctr : Option Nat
  epoch : BitVec 24
  crc : Half
  resends : Nat
  st : XferSt
  seq : Nat
  fork : Option Nat
  since : DWord
  told : Bool
  deriving DecidableEq, Repr

/-- One flow record of an arcade schedule (Table 8-4); PATH, and DST or RECT with MASK, as the record has them. -/
structure FlowRec where
  flow : Nat
  mcast : Bool
  src : Nat
  res : Nat
  dst : Nat
  nmove : Nat
  rect : Nat
  path : Nat
  mask : Nat
  deriving DecidableEq, Repr

/-- A remote SIGC on its way (R67). -/
structure RSig where
  src : Nat
  dtower : Nat
  dgal : Nat
  ctr : Nat
  val : Word
  epoch : Word
  deriving DecidableEq, Repr

end Sys2Proof.Machine
end

