-- ==== Sys2Proof/Machine/RvDecode.lean ====
section
/-! DEFINITION. RV32IMC with Zicsr as R57 and R322 take it from the RISC-V specifications: the
instruction forms, the 32-bit decoder, the compressed decoder and the arithmetic of each operation. -/

namespace Sys2Proof

/-- Register-register and register-immediate arithmetic of RV32I and RV32M. -/
inductive RvAlu where
  | add | sub | sll | slt | sltu | xor | srl | sra | or | and
  | mul | mulh | mulhsu | mulhu | div | divu | rem | remu
  deriving DecidableEq, Repr

/-- Branch conditions. -/
inductive RvCond where
  | eq | ne | lt | ge | ltu | geu
  deriving DecidableEq, Repr

/-- Zicsr operations. -/
inductive RvCsr where
  | rw | rs | rc
  deriving DecidableEq, Repr

/-- A decoded base instruction. Register numbers are 0 to 31; immediates are sign-extended words. -/
inductive Rv where
  | lui (rd : Nat) (imm : Word)
  | auipc (rd : Nat) (imm : Word)
  | jal (rd : Nat) (off : Word)
  | jalr (rd rs1 : Nat) (off : Word)
  | branch (c : RvCond) (rs1 rs2 : Nat) (off : Word)
  | load (bytes : Nat) (signed : Bool) (rd rs1 : Nat) (off : Word)
  | store (bytes : Nat) (rs1 rs2 : Nat) (off : Word)
  | aluImm (op : RvAlu) (rd rs1 : Nat) (imm : Word)
  | alu (op : RvAlu) (rd rs1 rs2 : Nat)
  | fence
  | ecall | ebreak | mret | wfi
  | csr (op : RvCsr) (rd csr : Nat) (src : Nat) (imm : Bool)
  | custom (w : Word)
  deriving DecidableEq, Repr

/-- A sign-extended field of `len` bits. -/
def rvSext (len x : Nat) : Word := BitVec.ofInt 32 (toSigned len x)

/-- The 32-bit encodings of RV32IM, Zicsr and the machine-mode returns; custom-0, custom-1 and
custom-2 words are passed on whole (R61, R325). PRESUMED: log entry 94. -/
def rvDecode32 (w : Word) : Option Rv :=
  let x := w.toNat
  let rd := field x 7 5
  let f3 := field x 12 3
  let rs1 := field x 15 5
  let rs2 := field x 20 5
  let f7 := field x 25 7
  let immI := rvSext 12 (field x 20 12)
  let immS := rvSext 12 (field x 7 5 + field x 25 7 * 32)
  let immB := rvSext 13 (field x 8 4 * 2 + field x 25 6 * 32 + field x 7 1 * 2048 + field x 31 1 * 4096)
  let immU : Word := BitVec.ofNat 32 (field x 12 20 * 4096)
  let immJ := rvSext 21 (field x 21 10 * 2 + field x 20 1 * 2048 + field x 12 8 * 4096 + field x 31 1 * 1048576)
  match field x 0 7 with
  | 0b0110111 => some (.lui rd immU)
  | 0b0010111 => some (.auipc rd immU)
  | 0b1101111 => some (.jal rd immJ)
  | 0b1100111 => if f3 = 0 then some (.jalr rd rs1 immI) else none
  | 0b1100011 =>
    match f3 with
    | 0 => some (.branch .eq rs1 rs2 immB)
    | 1 => some (.branch .ne rs1 rs2 immB)
    | 4 => some (.branch .lt rs1 rs2 immB)
    | 5 => some (.branch .ge rs1 rs2 immB)
    | 6 => some (.branch .ltu rs1 rs2 immB)
    | 7 => some (.branch .geu rs1 rs2 immB)
    | _ => none
  | 0b0000011 =>
    match f3 with
    | 0 => some (.load 1 true rd rs1 immI)
    | 1 => some (.load 2 true rd rs1 immI)
    | 2 => some (.load 4 false rd rs1 immI)
    | 4 => some (.load 1 false rd rs1 immI)
    | 5 => some (.load 2 false rd rs1 immI)
    | _ => none
  | 0b0100011 =>
    match f3 with
    | 0 => some (.store 1 rs1 rs2 immS)
    | 1 => some (.store 2 rs1 rs2 immS)
    | 2 => some (.store 4 rs1 rs2 immS)
    | _ => none
  | 0b0010011 =>
    match f3 with
    | 0 => some (.aluImm .add rd rs1 immI)
    | 1 => if f7 = 0 then some (.aluImm .sll rd rs1 (BitVec.ofNat 32 rs2)) else none
    | 2 => some (.aluImm .slt rd rs1 immI)
    | 3 => some (.aluImm .sltu rd rs1 immI)
    | 4 => some (.aluImm .xor rd rs1 immI)
    | 5 =>
      if f7 = 0 then some (.aluImm .srl rd rs1 (BitVec.ofNat 32 rs2))
      else if f7 = 0b0100000 then some (.aluImm .sra rd rs1 (BitVec.ofNat 32 rs2)) else none
    | 6 => some (.aluImm .or rd rs1 immI)
    | _ => some (.aluImm .and rd rs1 immI)
  | 0b0110011 =>
    match f7, f3 with
    | 0, 0 => some (.alu .add rd rs1 rs2)
    | 0, 1 => some (.alu .sll rd rs1 rs2)
    | 0, 2 => some (.alu .slt rd rs1 rs2)
    | 0, 3 => some (.alu .sltu rd rs1 rs2)
    | 0, 4 => some (.alu .xor rd rs1 rs2)
    | 0, 5 => some (.alu .srl rd rs1 rs2)
    | 0, 6 => some (.alu .or rd rs1 rs2)
    | 0, 7 => some (.alu .and rd rs1 rs2)
    | 32, 0 => some (.alu .sub rd rs1 rs2)
    | 32, 5 => some (.alu .sra rd rs1 rs2)
    | 1, 0 => some (.alu .mul rd rs1 rs2)
    | 1, 1 => some (.alu .mulh rd rs1 rs2)
    | 1, 2 => some (.alu .mulhsu rd rs1 rs2)
    | 1, 3 => some (.alu .mulhu rd rs1 rs2)
    | 1, 4 => some (.alu .div rd rs1 rs2)
    | 1, 5 => some (.alu .divu rd rs1 rs2)
    | 1, 6 => some (.alu .rem rd rs1 rs2)
    | 1, 7 => some (.alu .remu rd rs1 rs2)
    | _, _ => none
  | 0b0001111 => if f3 = 0 then some .fence else none
  | 0b1110011 =>
    match f3 with
    | 0 =>
      if x = 0x00000073 then some .ecall
      else if x = 0x00100073 then some .ebreak
      else if x = 0x30200073 then some .mret
      else if x = 0x10500073 then some .wfi
      else none
    | 1 => some (.csr .rw rd (field x 20 12) rs1 false)
    | 2 => some (.csr .rs rd (field x 20 12) rs1 false)
    | 3 => some (.csr .rc rd (field x 20 12) rs1 false)
    | 5 => some (.csr .rw rd (field x 20 12) rs1 true)
    | 6 => some (.csr .rs rd (field x 20 12) rs1 true)
    | 7 => some (.csr .rc rd (field x 20 12) rs1 true)
    | _ => none
  | 0b0001011 => some (.custom w)
  | 0b0101011 => some (.custom w)
  | 0b1011011 => some (.custom w)
  | _ => none

/-- The 16-bit encodings of RV32C without floating point. Reserved encodings answer none; hints
are the register-zero forms of the instruction they hint with. PRESUMED: log entry 94. -/
def rvDecode16 (h : Half) : Option Rv :=
  let x := h.toNat
  let rd := field x 7 5
  let r2 := field x 2 5
  let rdP := field x 7 3 + 8
  let r2P := field x 2 3 + 8
  let imm6 := rvSext 6 (field x 2 5 + field x 12 1 * 32)
  let immJ := rvSext 12 (field x 3 3 * 2 + field x 11 1 * 16 + field x 2 1 * 32 + field x 7 1 * 64
    + field x 6 1 * 128 + field x 9 2 * 256 + field x 8 1 * 1024 + field x 12 1 * 2048)
  let immB := rvSext 9 (field x 3 2 * 2 + field x 10 2 * 8 + field x 2 1 * 32 + field x 5 2 * 64 + field x 12 1 * 256)
  let offW : Word := BitVec.ofNat 32 (field x 6 1 * 4 + field x 10 3 * 8 + field x 5 1 * 64)
  match field x 0 2, field x 13 3 with
  | 0, 0 =>
    let u := field x 6 1 * 4 + field x 5 1 * 8 + field x 11 2 * 16 + field x 7 4 * 64
    if u = 0 then none else some (.aluImm .add r2P 2 (BitVec.ofNat 32 u))
  | 0, 2 => some (.load 4 false r2P rdP offW)
  | 0, 6 => some (.store 4 rdP r2P offW)
  | 1, 0 => some (.aluImm .add rd rd imm6)
  | 1, 1 => some (.jal 1 immJ)
  | 1, 2 => some (.aluImm .add rd 0 imm6)
  | 1, 3 =>
    if rd = 2 then
      let i := rvSext 10 (field x 6 1 * 16 + field x 2 1 * 32 + field x 5 1 * 64 + field x 3 2 * 128 + field x 12 1 * 512)
      if i = 0 then none else some (.aluImm .add 2 2 i)
    else
      if imm6 = 0 then none else some (.lui rd (imm6 <<< 12))
  | 1, 4 =>
    match field x 10 2 with
    | 0 => if bitOf x 12 then none else some (.aluImm .srl rdP rdP (BitVec.ofNat 32 (field x 2 5)))
    | 1 => if bitOf x 12 then none else some (.aluImm .sra rdP rdP (BitVec.ofNat 32 (field x 2 5)))
    | 2 => some (.aluImm .and rdP rdP imm6)
    | _ =>
      if bitOf x 12 then none
      else match field x 5 2 with
        | 0 => some (.alu .sub rdP rdP r2P)
        | 1 => some (.alu .xor rdP rdP r2P)
        | 2 => some (.alu .or rdP rdP r2P)
        | _ => some (.alu .and rdP rdP r2P)
  | 1, 5 => some (.jal 0 immJ)
  | 1, 6 => some (.branch .eq rdP 0 immB)
  | 1, 7 => some (.branch .ne rdP 0 immB)
  | 2, 0 => if bitOf x 12 then none else some (.aluImm .sll rd rd (BitVec.ofNat 32 (field x 2 5)))
  | 2, 2 =>
    if rd = 0 then none
    else some (.load 4 false rd 2 (BitVec.ofNat 32 (field x 4 3 * 4 + field x 12 1 * 32 + field x 2 2 * 64)))
  | 2, 4 =>
    if bitOf x 12 then
      if r2 = 0 then (if rd = 0 then some .ebreak else some (.jalr 1 rd 0))
      else some (.alu .add rd rd r2)
    else
      if r2 = 0 then (if rd = 0 then none else some (.jalr 0 rd 0))
      else some (.alu .add rd 0 r2)
  | 2, 6 => some (.store 4 2 r2 (BitVec.ofNat 32 (field x 9 4 * 4 + field x 7 2 * 64)))
  | _, _ => none

/-- The result of an arithmetic operation. Division by zero and the overflowing quotient give the
values the RISC-V unprivileged specification fixes. -/
def rvAlu (op : RvAlu) (a b : Word) : Word :=
  match op with
  | .add => a + b
  | .sub => a - b
  | .sll => a <<< (b.toNat % 32)
  | .slt => if a.toInt < b.toInt then 1 else 0
  | .sltu => if a.toNat < b.toNat then 1 else 0
  | .xor => a ^^^ b
  | .srl => a >>> (b.toNat % 32)
  | .sra => BitVec.sshiftRight a (b.toNat % 32)
  | .or => a ||| b
  | .and => a &&& b
  | .mul => a * b
  | .mulh => BitVec.ofInt 32 ((a.toInt * b.toInt) / 2 ^ 32)
  | .mulhsu => BitVec.ofInt 32 ((a.toInt * (b.toNat : Int)) / 2 ^ 32)
  | .mulhu => BitVec.ofNat 32 ((a.toNat * b.toNat) / 2 ^ 32)
  | .div => if b = 0 then BitVec.ofNat 32 0xFFFFFFFF else BitVec.ofInt 32 (Int.tdiv a.toInt b.toInt)
  | .divu => if b = 0 then BitVec.ofNat 32 0xFFFFFFFF else BitVec.ofNat 32 (a.toNat / b.toNat)
  | .rem => if b = 0 then a else BitVec.ofInt 32 (Int.tmod a.toInt b.toInt)
  | .remu => if b = 0 then a else BitVec.ofNat 32 (a.toNat % b.toNat)

/-- Whether a branch is taken. -/
def rvCond (c : RvCond) (a b : Word) : Bool :=
  match c with
  | .eq => a == b
  | .ne => a != b
  | .lt => decide (a.toInt < b.toInt)
  | .ge => decide (b.toInt ≤ a.toInt)
  | .ltu => decide (a.toNat < b.toNat)
  | .geu => decide (b.toNat ≤ a.toNat)

/-- Beats or slots of an instruction (Table 3-1, R322); DIV and REM take a free number up to 34. -/
def rvCost (free : Nat) (i : Rv) (taken : Bool) : Nat :=
  match i with
  | .jal _ _ => 2
  | .jalr _ _ _ => 2
  | .branch _ _ _ _ => if taken then 2 else 1
  | .load _ _ _ _ _ => 2
  | .alu op _ _ _ =>
    match op with
    | .mul => 2
    | .mulh => 2
    | .mulhsu => 2
    | .mulhu => 2
    | .div => free % 34 + 1
    | .divu => free % 34 + 1
    | .rem => free % 34 + 1
    | .remu => free % 34 + 1
    | _ => 1
  | _ => 1

end Sys2Proof
end

