-- ==== Sys2Proof/Machine/Hart.lean ====
section
/-! DEFINITION. One machine-mode hart (R57, R322): registers, the standard CSRs, what one base
instruction asks of the unit around it, trap entry and MRET. -/

namespace Sys2Proof.Machine

/-- x0 reads as zero. -/
def Hart.get (h : Hart) (r : Nat) : Word := if r = 0 then 0 else Store.get (fun _ => 0) h.x r

/-- A write of x0 is discarded. -/
def Hart.set (h : Hart) (r : Nat) (v : Word) : Hart :=
  if r = 0 then h else { h with x := Store.put (fun _ => 0) h.x r v }

/-- The free number of beats of what the hart does next, where a table gives a bound only (log entry 3). -/
def Hart.freeBeats (h : Hart) : Nat := Config.freeBeats h.minstret.toNat

/-- Beats of the domain pass. -/
def Hart.pass (h : Hart) (n : Nat) : Hart := { h with mcycle := h.mcycle + BitVec.ofNat 64 n }

/-- An instruction retires: the next pc, minstret, and mcycle by its beats. -/
def Hart.retire (h : Hart) (npc : Word) (cost : Nat) : Hart :=
  { h.pass cost with pc := npc, minstret := h.minstret + 1 }

/-- What an instruction asks of the unit around the hart. -/
inductive RvAct where
  | done (h : Hart)
  | load (bytes : Nat) (signed : Bool) (rd : Nat) (addr : Word)
  | store (bytes : Nat) (addr : Word) (v : Word)
  | csr (op : RvCsr) (rd csr : Nat) (src : Word) (wr : Bool)
  | trap (cause tval : Word)
  | mret
  | custom (w : Word)

/-- Execute a decoded instruction of `len` bytes (R57). -/
def rvExec (h : Hart) (i : Rv) (len : Nat) : RvAct :=
  let next := h.pc + BitVec.ofNat 32 len
  let cost := rvCost h.freeBeats i
  match i with
  | .lui rd imm => .done ((h.set rd imm).retire next (cost false))
  | .auipc rd imm => .done ((h.set rd (h.pc + imm)).retire next (cost false))
  | .jal rd off => .done ((h.set rd next).retire (h.pc + off) (cost true))
  | .jalr rd rs1 off =>
    let t := (h.get rs1 + off) &&& 0xFFFFFFFE#32
    .done ((h.set rd next).retire t (cost true))
  | .branch c rs1 rs2 off =>
    let tk := rvCond c (h.get rs1) (h.get rs2)
    .done (h.retire (if tk then h.pc + off else next) (cost tk))
  | .load b sg rd rs1 off => .load b sg rd (h.get rs1 + off)
  | .store b rs1 rs2 off => .store b (h.get rs1 + off) (h.get rs2)
  | .aluImm op rd rs1 imm => .done ((h.set rd (rvAlu op (h.get rs1) imm)).retire next (cost false))
  | .alu op rd rs1 rs2 => .done ((h.set rd (rvAlu op (h.get rs1) (h.get rs2))).retire next (cost false))
  | .fence => .done (h.retire next 1)
  | .wfi => .done (h.retire next 1)
  | .ecall => .trap 11 0
  | .ebreak => .trap 3 h.pc
  | .mret => .mret
  | .csr op rd n src imm =>
    let v : Word := if imm then BitVec.ofNat 32 src else h.get src
    .csr op rd n v (op == .rw || src != 0)
  | .custom w => .custom w

/-- mstatus: MIE, MPIE, and MPP that only machine mode can hold. -/
def Hart.mstatus (h : Hart) : Word := BitVec.ofNat 32 (b2n h.mie * 8 + b2n h.mpie * 128 + 0x1800)

/-- misa of RV32IMC. -/
def misaRv32imc : Word := 0x40001104#32

/-- The standard CSRs of R57; none for a number the hart does not implement. DEDUCED: log entry 68. -/
def Hart.csrRead (h : Hart) (n : Nat) : Option Word :=
  match n with
  | 0x300 => some h.mstatus
  | 0x301 => some misaRv32imc
  | 0x304 => some h.mieReg
  | 0x305 => some h.mtvec
  | 0x340 => some h.mscratch
  | 0x341 => some h.mepc
  | 0x342 => some h.mcause
  | 0x343 => some h.mtval
  | 0x344 => some h.mipReg
  | 0xB00 => some (h.mcycle.setWidth 32)
  | 0xB02 => some (h.minstret.setWidth 32)
  | 0xB80 => some ((h.mcycle >>> 32).setWidth 32)
  | 0xB82 => some ((h.minstret >>> 32).setWidth 32)
  | _ => none

/-- A write of a standard CSR; misa and mip keep their values. DEDUCED: log entry 68. -/
def Hart.csrWrite (h : Hart) (n : Nat) (v : Word) : Hart :=
  let x := v.toNat
  match n with
  | 0x300 => { h with mie := bitOf x 3, mpie := bitOf x 7 }
  | 0x304 => { h with mieReg := v &&& 0x00010000#32 }
  | 0x305 => { h with mtvec := v &&& 0xFFFFFFFC#32 }
  | 0x340 => { h with mscratch := v }
  | 0x341 => { h with mepc := v &&& 0xFFFFFFFE#32 }
  | 0x342 => { h with mcause := v }
  | 0x343 => { h with mtval := v }
  | 0xB00 => { h with mcycle := BitVec.ofNat 64 (setField h.mcycle.toNat 0 32 x) }
  | 0xB02 => { h with minstret := BitVec.ofNat 64 (setField h.minstret.toNat 0 32 x) }
  | 0xB80 => { h with mcycle := BitVec.ofNat 64 (setField h.mcycle.toNat 32 32 x) }
  | 0xB82 => { h with minstret := BitVec.ofNat 64 (setField h.minstret.toNat 32 32 x) }
  | _ => h

/-- The value a Zicsr operation writes. -/
def csrNew (op : RvCsr) (old v : Word) : Word :=
  match op with
  | .rw => v
  | .rs => old ||| v
  | .rc => old &&& ~~~ v

/-- Trap entry of machine mode, direct vectoring (R87). -/
def Hart.trapEntry (h : Hart) (cause tval epc : Word) : Hart :=
  { h with mepc := epc &&& 0xFFFFFFFE#32, mcause := cause, mtval := tval, mpie := h.mie, mie := false, pc := h.mtvec }

/-- MRET (R90). -/
def Hart.mretTo (h : Hart) : Hart :=
  { (h.retire h.mepc 1) with mie := h.mpie, mpie := true }

/-- A loaded value as the register receives it. -/
def loadExtend (bytes : Nat) (signed : Bool) (v : Nat) : Word :=
  if signed then rvSext (8 * bytes) v else BitVec.ofNat 32 v

end Sys2Proof.Machine
end

