-- ==== Sys2Proof/Machine/RegMap.lean ====
section
/-! DEFINITION. The register map of BAR0 (chapter Register Map) and the fields of every register the
owning chapters' tables give (R4, R8, R9): offsets, widths, access codes, legal ranges, reset values. -/

namespace Sys2Proof.Machine

/-- The access codes of Table 0-3; RSV bits are simply no field. -/
inductive Acc where
  | ro | rw | w1c | w1s | wo | rwl
  deriving DecidableEq, Repr

/-- One register field: its place, its access code and the range of values it may be given. -/
structure RegField where
  lo : Nat
  len : Nat
  acc : Acc
  min : Nat
  max : Nat
  deriving DecidableEq, Repr

/-- A field whose every encoding is legal. -/
def fld (lo len : Nat) (acc : Acc) : RegField := ⟨lo, len, acc, 0, 2 ^ len - 1⟩

/-- A field with a range. -/
def fldR (lo len : Nat) (acc : Acc) (min max : Nat) : RegField := ⟨lo, len, acc, min, max⟩

/-- A register: its width in bits, its reset value without the fuse and image parts, its fields. -/
structure RegDef where
  width : Nat
  reset : Nat
  fields : List RegField
  deriving DecidableEq, Repr

/-! Block bases (Table 20-1, R563). -/

def Reg.bring : Nat := 0x00100000
def Reg.hif : Nat := 0x00200000
def Reg.power : Nat := 0x00300000
def Reg.therm : Nat := 0x00400000
def Reg.ras : Nat := 0x00500000
def Reg.debug : Nat := 0x00600000
def Reg.holmund : Nat := 0x00700000
/-- The window of TOWER[t]. -/
def Reg.tower (t : Nat) : Nat := 0x01000000 + t * 0x00400000

/-! Single registers that the operations name. -/

def Reg.id : Nat := 0
def Reg.jtagid : Nat := 8
def Reg.ver : Nat := 0x10
def Reg.cap (k : Nat) : Nat := 0x20 + 8 * k
def Reg.epoch : Nat := 0x40
def Reg.epcnt : Nat := 0x48
def Reg.clkcfg : Nat := 0x50
def Reg.tkcnt (s : Nat) : Nat := 0x80 + 4 * s
def Reg.kvfree (t : Nat) : Nat := 0xC0 + 4 * t
def Reg.rsvmem (t : Nat) : Nat := 0xD0 + 4 * t
def Reg.bringStep : Nat := 0x00100000
def Reg.bringCtl : Nat := 0x00100004
def Reg.bringStatus : Nat := 0x00100008
def Reg.bringFail : Nat := 0x00100010
def Reg.bringReset : Nat := 0x00100018
def Reg.bringFuse : Nat := 0x00100020
def Reg.bringKey (k i : Nat) : Nat := 0x00100100 + 0x30 * k + 8 * i
def Reg.hifCtl : Nat := 0x00200000
def Reg.hifStat : Nat := 0x00200008
def Reg.apbase : Nat := 0x00200010
def Reg.aperr : Nat := 0x00200018
def Reg.hifFeat : Nat := 0x00200020
def Reg.jbase : Nat := 0x00200028
def Reg.jhead : Nat := 0x00200030
def Reg.jtail : Nat := 0x00200038
def Reg.sqBase (q : Nat) : Nat := 0x00201000 + 0x20 * q
def Reg.sqCfg (q : Nat) : Nat := 0x00201008 + 0x20 * q
def Reg.sqStat (q : Nat) : Nat := 0x00201010 + 0x20 * q
def Reg.cqBase (c : Nat) : Nat := 0x00203000 + 0x10 * c
def Reg.cqCfg (c : Nat) : Nat := 0x00203008 + 0x10 * c
def Reg.ilim : Nat := 0x00300000
def Reg.vfloor : Nat := 0x00300004
def Reg.monctl : Nat := 0x00300008
def Reg.monbase : Nat := 0x00300010
def Reg.bellowsCtl : Nat := 0x00300100
def Reg.grant : Nat := 0x00300108
def Reg.ledger : Nat := 0x00300110
def Reg.bellowsStat : Nat := 0x00300118
def Reg.thermCtl : Nat := 0x00400000
def Reg.thermStat : Nat := 0x00400004
def Reg.policy : Nat := 0x00500000
def Reg.cwa : Nat := 0x00500008
def Reg.diagctl : Nat := 0x00500010
def Reg.diagaddr : Nat := 0x00500018
def Reg.diagdata (i : Nat) : Nat := 0x00500020 + 8 * i
def Reg.diagchk : Nat := 0x00500060
def Reg.diagsyn : Nat := 0x00500068
def Reg.diagcmd : Nat := 0x00500070
def Reg.diagres : Nat := 0x00500078
def Reg.wctl : Nat := 0x00600000
def Reg.wstat : Nat := 0x00600008
def Reg.time : Nat := 0x00600010
def Reg.scansel : Nat := 0x00600018
def Reg.scanoff : Nat := 0x00600020
def Reg.scanst : Nat := 0x00600028
def Reg.dmaaddr : Nat := 0x00600030
def Reg.dmalen : Nat := 0x00600038
def Reg.dmactl : Nat := 0x0060003C
def Reg.trig (k : Nat) : Nat := 0x00600040 + 8 * k
def Reg.twbase : Nat := 0x00600080
def Reg.twsize : Nat := 0x00600088
def Reg.twhead : Nat := 0x00600090
def Reg.twtail : Nat := 0x00600098
def Reg.twskip : Nat := 0x006000A0
def Reg.anxbase : Nat := 0x006000A8
def Reg.anxctl : Nat := 0x006000B0
def Reg.tw (i w : Nat) : Nat := 0x00600800 + 0x20 * i + 8 * w
def Reg.scanwin : Nat := 0x00610000
def Reg.node : Nat := 0x00700000
def Reg.annexcap : Nat := 0x00700004
def Reg.linkCtl (l : Nat) : Nat := 0x00700100 + 0x20 * l
def Reg.linkStat (l : Nat) : Nat := 0x00700108 + 0x20 * l
def Reg.linkErr (l : Nat) : Nat := 0x00700110 + 0x20 * l
def Reg.linkPartner (l : Nat) : Nat := 0x00700118 + 0x20 * l
def Reg.bank (t b : Nat) : Nat := Reg.tower t + 8 * b
def Reg.fuseSum (t : Nat) : Nat := Reg.tower t + 0x800
def Reg.rstPart (t : Nat) : Nat := Reg.tower t + 0x808
def Reg.stripe (t i : Nat) : Nat := Reg.tower t + 0x10000 + 4 * i
def Reg.vmap (t v : Nat) : Nat := Reg.tower t + 0x10200 + 4 * v
def Reg.gmap (t : Nat) : Nat := Reg.tower t + 0x20000
def Reg.rctl (t p : Nat) : Nat := Reg.tower t + 0x20100 + 8 * p
def Reg.framecnt (t : Nat) : Nat := Reg.tower t + 0x30000
def Reg.elbase (t : Nat) : Nat := Reg.tower t + 0x30008
def Reg.elidx (t : Nat) : Nat := Reg.tower t + 0x30010
def Reg.diagarea (t : Nat) : Nat := Reg.tower t + 0x30018
def Reg.retreq (t : Nat) : Nat := Reg.tower t + 0x30020
def Reg.retstat (t : Nat) : Nat := Reg.tower t + 0x30024
def Reg.dom (t d : Nat) : Nat := Reg.tower t + 0x40000 + 8 * d
def Reg.irbase (t : Nat) : Nat := Reg.tower t + 0x40800
def Reg.iridx (t : Nat) : Nat := Reg.tower t + 0x40808
def Reg.sensor (t s p : Nat) : Nat := Reg.tower t + 0x50000 + 4 * (104 * s + p)
def Reg.evbase (t : Nat) : Nat := Reg.tower t + 0x60000
def Reg.evmask (t : Nat) : Nat := Reg.tower t + 0x60008
def Reg.evdrop (t : Nat) : Nat := Reg.tower t + 0x6000C
def Reg.sliceStat (t s : Nat) : Nat := Reg.tower t + 0x80000 + 0x20 * s
def Reg.sliceHits (t s : Nat) : Nat := Reg.tower t + 0x80008 + 0x20 * s
def Reg.sliceMisses (t s : Nat) : Nat := Reg.tower t + 0x80010 + 0x20 * s
def Reg.vaultCtl (t v : Nat) : Nat := Reg.tower t + 0x90000 + 8 * v
def Reg.chcCtl (t v : Nat) : Nat := Reg.tower t + 0xA0000 + 0x100 * v
def Reg.chcStat (t v : Nat) : Nat := Reg.tower t + 0xA0008 + 0x100 * v
def Reg.jobin (t v i : Nat) : Nat := Reg.tower t + 0xA0010 + 0x100 * v + 8 * i
def Reg.cancel (t v : Nat) : Nat := Reg.tower t + 0xA0050 + 0x100 * v
def Reg.chcLines (t v : Nat) : Nat := Reg.tower t + 0xA0058 + 0x100 * v
def Reg.chcHold (t v : Nat) : Nat := Reg.tower t + 0xA0060 + 0x100 * v

/-- The whole register as one read-only field. -/
def roReg (width reset : Nat) : RegDef := ⟨width, reset, [fld 0 width .ro]⟩

/-- MOD (Table 20-2). -/
def regMod (o : Nat) : Option RegDef :=
  if o = 0 ∨ (0x20 ≤ o ∧ o < 0x40 ∧ o % 8 = 0) then some (roReg 64 0)
  else if o = 8 then some (roReg 32 0)
  else if o = 0x10 then some (roReg 64 0x01210200)
  else if o = 0x40 then some ⟨64, 0, [fld 0 32 .ro, fld 32 3 .ro, fld 48 16 .ro]⟩
  else if o = 0x48 then some (roReg 64 0)
  else if o = 0x50 then some ⟨64, 0x04000C080000EA60, [fld 0 32 .rw, fld 32 7 .rw, fld 40 7 .rw, fld 48 16 .rw]⟩
  else if 0x80 ≤ o ∧ o < 0xAC ∧ o % 4 = 0 then some ⟨32, if o = 0x80 then 0x100000 else 0, [fld 0 21 .ro]⟩
  else if 0xC0 ≤ o ∧ o < 0xE0 ∧ o % 4 = 0 then some ⟨32, 0, [fld 0 24 .ro]⟩
  else none

/-- BRING (Table 20-3). -/
def regBring (o : Nat) : Option RegDef :=
  if o = 0 then some ⟨32, 0, [fld 0 3 .wo]⟩
  else if o = 4 then some ⟨32, 2, [fld 0 1 .rwl, fld 1 1 .rwl, fld 2 1 .ro]⟩
  else if o = 8 then some ⟨64, 0, [fld 0 7 .ro, fld 7 1 .w1c, fld 8 20 .ro, fld 32 32 .ro]⟩
  else if o = 0x10 then some ⟨64, 0, [fld 0 10 .ro, fld 16 48 .ro]⟩
  else if o = 0x18 then some ⟨32, 0, [fld 0 3 .wo, fld 3 2 .wo, fld 16 16 .wo]⟩
  else if o = 0x20 then some ⟨64, 0, [fld 0 36 .ro]⟩
  else if 0x100 ≤ o ∧ o < 0x1C0 ∧ o % 8 = 0 then some (roReg 64 0)
  else none

/-- HIF (Table 20-4). -/
def regHif (o : Nat) : Option RegDef :=
  if o = 0 then some ⟨64, 0, [fld 0 1 .w1s, fld 1 1 .rw, fld 2 1 .rw]⟩
  else if o = 8 then some ⟨64, 0, [fld 0 1 .ro, fld 1 1 .w1c, fld 8 56 .ro]⟩
  else if o = 0x10 then some ⟨64, 0, [fld 0 4 .rw]⟩
  else if o = 0x18 then some ⟨64, 0, [fld 0 42 .ro, fld 63 1 .w1c]⟩
  else if o = 0x20 then some (roReg 64 0)
  else if o = 0x28 then some ⟨64, 0, [fld 0 40 .ro]⟩
  else if o = 0x30 ∨ o = 0x38 then some ⟨64, 1, [fld 0 48 .ro]⟩
  else if 0x1000 ≤ o ∧ o < 0x3000 then
    if o % 0x20 = 0 then some ⟨64, 0, [fld 6 58 .rw]⟩
    else if o % 0x20 = 8 then
      some ⟨64, 0x100, [fldR 0 5 .rw 0 16, fld 5 1 .rw, fld 6 1 .rw, fldR 8 8 .rw 1 255, fld 16 8 .rw]⟩
    else if o % 0x20 = 0x10 then some ⟨64, 0, [fld 0 18 .ro]⟩
    else none
  else if 0x3000 ≤ o ∧ o < 0x4000 then
    if o % 0x10 = 0 then some ⟨64, 0, [fld 6 58 .rw]⟩
    else if o % 0x10 = 8 then
      some ⟨64, 0, [fldR 0 5 .rw 0 16, fld 5 1 .rw, fld 6 1 .rw, fld 8 11 .rw, fld 24 8 .rw, fld 32 16 .rw, fld 48 16 .ro]⟩
    else none
  else none

/-- POWER and BELLOWS (Table 20-5). -/
def regPower (o : Nat) : Option RegDef :=
  if o = 0 then some ⟨32, 0x42E, [fld 0 16 .rw]⟩
  else if o = 4 then some ⟨32, 0, [fld 0 4 .rw]⟩
  else if o = 8 then some ⟨32, 0, [fld 0 1 .w1s]⟩
  else if o = 0x10 then some ⟨64, 0, [fld 0 40 .ro]⟩
  else if o = 0x100 then some ⟨64, 0, [fld 0 2 .ro]⟩
  else if o = 0x108 then some ⟨64, 0, [fld 0 32 .rw]⟩
  else if o = 0x110 then some (roReg 64 0)
  else if o = 0x118 then some ⟨64, 0, [fld 0 28 .ro, fld 32 32 .ro]⟩
  else none

/-- THERM (Table 20-5). -/
def regTherm (o : Nat) : Option RegDef :=
  if o = 0 then some ⟨32, 0, [fld 0 1 .w1s]⟩
  else if o = 4 then some ⟨32, 0, [fld 0 28 .ro]⟩
  else none

/-- RAS (Table 20-6). -/
def regRas (o : Nat) : Option RegDef :=
  if o = 0 then some ⟨64, 0x182001, [fld 0 1 .rw, fldR 8 8 .rw 1 255, fld 16 8 .rw]⟩
  else if o = 8 then some ⟨64, 0, [fld 0 40 .ro]⟩
  else if o = 0x10 then some ⟨32, 0, [fld 0 1 .rw, fld 1 2 .rw]⟩
  else if o = 0x18 then some ⟨64, 0, [fld 6 34 .rw]⟩
  else if 0x20 ≤ o ∧ o < 0x68 ∧ o % 8 = 0 then some ⟨64, 0, [fld 0 64 .rw]⟩
  else if o = 0x68 then some (roReg 64 0)
  else if o = 0x70 then some ⟨32, 0, [fld 0 3 .wo]⟩
  else if o = 0x78 then some ⟨64, 0xFFFFFF0000, [fld 0 10 .ro, fld 16 24 .ro]⟩
  else none

/-- DEBUG (Table 20-7); the SCANWIN range is no register. -/
def regDebug (o : Nat) : Option RegDef :=
  if o = 0 then some ⟨32, 0, [fld 0 1 .w1s, fld 1 1 .w1s]⟩
  else if o = 8 then some ⟨64, 0, [fld 0 10 .ro, fld 16 48 .ro]⟩
  else if o = 0x10 then some (roReg 64 0)
  else if o = 0x18 then some ⟨32, 0, [fld 0 2 .rw, fld 2 4 .rw, fld 6 10 .rw]⟩
  else if o = 0x20 then some ⟨64, 0, [fld 0 48 .rw]⟩
  else if o = 0x28 then some ⟨32, 0, [fld 0 3 .ro]⟩
  else if o = 0x30 then some ⟨64, 0, [fld 3 61 .rw]⟩
  else if o = 0x38 then some ⟨32, 0, [fld 0 32 .rw]⟩
  else if o = 0x3C then some ⟨32, 0, [fld 0 1 .w1s, fld 1 1 .ro]⟩
  else if 0x40 ≤ o ∧ o < 0x60 ∧ o % 8 = 0 then
    some ⟨64, 2 ^ 48, [fld 0 1 .rw, fldR 1 5 .rw 0 15, fld 6 2 .rw, fld 8 1 .rw, fld 9 9 .rw, fld 18 1 .rw, fld 32 16 .rw, fldR 48 16 .rw 1 65535]⟩
  else if o = 0x80 ∨ o = 0x88 ∨ o = 0xA8 then some ⟨64, 0, [fld 0 40 .ro]⟩
  else if o = 0x90 then some (roReg 64 0)
  else if o = 0x98 then some ⟨64, 0, [fld 0 64 .rw]⟩
  else if o = 0xA0 then some (roReg 32 0)
  else if o = 0xB0 then some ⟨32, 0x1C, [fld 0 1 .w1s, fld 1 1 .ro, fld 2 3 .rw]⟩
  else if 0x800 ≤ o ∧ o < 0x1000 ∧ o % 8 = 0 then
    match o / 8 % 4 with
    | 0 => some ⟨64, 0, [fld 0 1 .rw, fld 1 2 .rw, fld 3 1 .rw, fld 4 1 .rw, fld 5 1 .rw, fld 16 16 .rw, fldR 32 16 .rw 1 65535]⟩
    | 1 => some ⟨64, 0, [fld 0 32 .rw, fld 32 32 .rw]⟩
    | 2 => some ⟨64, 0, [fld 0 40 .rw, fldR 40 7 .rw 0 95, fld 47 2 .rw, fldR 49 4 .rw 1 15]⟩
    | _ => some ⟨64, 0, [fldR 0 32 .rw 0 0x10000000]⟩
  else none

/-- HOLMUND (Table 20-8). -/
def regHolmund (o : Nat) : Option RegDef :=
  if o = 0 then some ⟨32, 0, [fldR 0 8 .rwl 1 0xFE]⟩
  else if o = 4 then some ⟨32, 0, [fld 0 16 .rw]⟩
  else if 0x100 ≤ o ∧ o < 0x1A0 then
    match o % 0x20 with
    | 0 => some ⟨64, 0xFFFF0000, [fld 0 1 .rw, fld 1 1 .w1s, fld 2 1 .w1s, fldR 3 2 .rw 0 2, fld 16 16 .rw]⟩
    | 8 => some ⟨64, 0, [fld 0 5 .ro, fld 8 8 .ro, fld 16 9 .ro, fld 32 24 .ro]⟩
    | 0x10 => some (roReg 64 0)
    | 0x18 => some (roReg 64 0)
    | _ => none
  else none

/-- A tower window below its gallery pages (Table 20-9); `o` is the offset in the window. -/
def regTower (o : Nat) : Option RegDef :=
  if o < 0x340 ∧ o % 8 = 0 then some ⟨64, 0x300000000, [fld 0 39 .ro]⟩
  else if o = 0x800 then some ⟨64, 0, [fld 0 45 .ro]⟩
  else if o = 0x808 then some ⟨64, 0, [fldR 0 4 .rw 1 8, fld 4 7 .rw, fld 16 1 .w1s, fld 17 3 .ro]⟩
  else if 0x10000 ≤ o ∧ o < 0x10180 ∧ o % 4 = 0 then some ⟨32, 25 * ((o - 0x10000) / 4) % 96, [fld 0 7 .ro]⟩
  else if 0x10200 ≤ o ∧ o < 0x103A0 ∧ o % 4 = 0 then some ⟨32, 0, [fld 0 8 .ro]⟩
  else if o = 0x20000 then some ⟨64, 0xF0F0F0F0F0F0F0F0, [fld 0 64 .ro]⟩
  else if 0x20100 ≤ o ∧ o < 0x20440 ∧ o % 8 = 0 then some ⟨64, 0, [fld 0 1 .rw, fld 1 3 .ro, fld 8 10 .ro, fld 32 32 .ro]⟩
  else if o = 0x30000 then some ⟨64, 0, [fld 0 48 .ro]⟩
  else if o = 0x30008 ∨ o = 0x30018 then some ⟨64, 0, [fld 0 40 .ro]⟩
  else if o = 0x30010 then some ⟨64, 0, [fld 0 48 .ro]⟩
  else if o = 0x30020 then some ⟨32, 0, [fld 0 18 .wo]⟩
  else if o = 0x30024 then some ⟨32, 0, [fld 0 4 .ro]⟩
  else if 0x40000 ≤ o ∧ o < 0x40410 ∧ o % 8 = 0 then
    if o ≤ 0x40340 then some ⟨64, 0xF06, [fld 0 4 .rw, fld 4 24 .ro, fld 28 3 .ro, fld 32 16 .ro]⟩
    else some ⟨64, 0xF00, [fld 4 24 .ro, fld 28 3 .ro, fld 32 16 .ro]⟩
  else if o = 0x40800 then some ⟨64, 0, [fld 0 40 .ro]⟩
  else if o = 0x40808 then some (roReg 64 0)
  else if 0x50000 ≤ o ∧ o < 0x51EE0 ∧ o % 4 = 0 then some ⟨32, 0, [fld 0 28 .ro]⟩
  else if o = 0x60000 then some ⟨64, 0, [fld 0 40 .ro]⟩
  else if o = 0x60008 then some ⟨32, 0, [fld 0 16 .rw]⟩
  else if o = 0x6000C then some (roReg 32 0)
  else if 0x80000 ≤ o ∧ o < 0x80D00 then
    match o % 0x20 with
    | 0 => some ⟨64, 0, [fld 0 36 .ro, fld 36 12 .w1c, fld 48 16 .ro]⟩
    | 8 => some (roReg 64 0)
    | 0x10 => some (roReg 64 0)
    | _ => none
  else if 0x90000 ≤ o ∧ o < 0x90340 ∧ o % 8 = 0 then some ⟨64, 0x1000000000, [fld 0 32 .rw, fldR 32 5 .rw 1 16, fld 40 9 .ro]⟩
  else if 0xA0000 ≤ o ∧ o < 0xA6800 then
    match o % 0x100 with
    | 0 => some ⟨64, 0x80408, [fldR 0 6 .rw 0 32, fldR 8 5 .rw 1 16, fld 16 8 .rw, fld 32 1 .rw]⟩
    | 8 => some ⟨64, 0, [fld 0 52 .ro, fld 52 1 .w1c]⟩
    | 0x50 => some ⟨32, 0, [fld 0 32 .wo]⟩
    | 0x58 => some (roReg 64 0)
    | 0x60 => some ⟨64, 0, [fld 0 48 .ro]⟩
    | r => if 0x10 ≤ r ∧ r < 0x50 ∧ r % 8 = 0 then some ⟨64, 0, [fld 0 64 .wo]⟩ else none
  else none

/-- A gallery page (Table 20-10). The reset column is the gallery's own (Gallery.reset). -/
def regGallery (o : Nat) : Option RegDef :=
  if o = 0 then some ⟨32, 0, [fld 0 1 .w1s, fld 1 1 .ro, fld 2 1 .ro, fld 8 5 .w1s]⟩
  else if o = 4 then some ⟨32, 0x2710, [fld 0 24 .rw]⟩
  else if o = 8 then some ⟨32, 0, [fld 0 3 .ro, fld 3 1 .w1c, fld 4 28 .ro]⟩
  else if o = 0xC then some ⟨32, 0, [fld 0 16 .ro]⟩
  else if o = 0x10 then some (roReg 32 0)
  else if o = 0x14 then some (roReg 32 0)
  else if o = 0x18 ∨ o = 0x1C then some ⟨32, 0, [fld 0 32 .rw]⟩
  else if o = 0x20 then some ⟨32, 0, [fld 0 20 .ro]⟩
  else if o = 0x24 then some ⟨32, 0, [fld 0 22 .ro]⟩
  else if o = 0x28 then some (roReg 32 0)
  else if o = 0x2C then some ⟨32, 0, [fld 0 1 .w1s, fld 1 1 .w1s, fld 2 1 .w1s, fld 3 9 .ro]⟩
  else if o = 0x30 ∨ o = 0x34 then some ⟨32, 0, [fld 0 9 .ro, fld 9 1 .w1c]⟩
  else if o = 0x38 then some (roReg 32 0)
  else if o = 0x3C then some ⟨32, 0, [fld 0 16 .ro, fld 31 1 .w1c]⟩
  else if 0x40 ≤ o ∧ o < 0x58 ∧ o % 4 = 0 then some (roReg 32 0)
  else if o = 0x58 then some ⟨32, 0, [fld 0 1 .w1s]⟩
  else if 0x60 ≤ o ∧ o < 0x80 ∧ o % 4 = 0 then some ⟨32, 0, [fld 0 32 .rw]⟩
  else if 0x80 ≤ o ∧ o < 0xC0 ∧ o % 8 = 0 then some ⟨64, 0, [fld 0 1 .rw, fld 1 1 .rw, fld 16 24 .rw, fld 40 24 .rw]⟩
  else if 0xC0 ≤ o ∧ o < 0xFC ∧ o % 4 = 0 then some ⟨32, 0, [fld 0 16 .rw, fld 16 1 .rw]⟩
  else if 0x400 ≤ o ∧ o < 0x800 ∧ o % 8 = 0 then some (roReg 64 0)
  else none

/-- Which register, if any, begins at a BAR0 offset (R562). -/
def regAt (off : Nat) : Option RegDef :=
  if off < 0x00100000 then regMod off
  else if off < 0x00200000 then regBring (off - 0x00100000)
  else if off < 0x00300000 then regHif (off - 0x00200000)
  else if off < 0x00400000 then regPower (off - 0x00300000)
  else if off < 0x00500000 then regTherm (off - 0x00400000)
  else if off < 0x00600000 then regRas (off - 0x00500000)
  else if off < 0x00700000 then regDebug (off - 0x00600000)
  else if off < 0x00800000 then regHolmund (off - 0x00700000)
  else if off < 0x01000000 then none
  else if off < 0x02000000 then
    let w := (off - 0x01000000) % 0x00400000
    if w < 0x100000 then regTower w
    else if w < 0x160000 then regGallery (w % 0x1000)
    else if 0x200000 ≤ w ∧ w < 0x268000 then regGallery (w % 0x1000)
    else none
  else none

/-- The reset value of a register, without its fuse and image parts (chapter Register Map). -/
def regReset (off : Nat) : DWord :=
  match regAt off with
  | some d => BitVec.ofNat 64 d.reset
  | none => 0

/-- Whether an offset lies in a tower window, and in which tower (R563). -/
def towerOf (off : Nat) : Option Nat :=
  if 0x01000000 ≤ off ∧ off < 0x02000000 then some ((off - 0x01000000) / 0x00400000) else none

/-- No two-bit group of a refresh word is the reserved code 3 (Table 9-18). -/
def refLegal : Nat → Nat → Bool
  | 0, _ => true
  | n + 1, v => v % 4 != 3 && refLegal n (v / 4)

/-- Whether a field may take a value: its range, the reserved encodings of TRIG.UNIT (Table 19-5) and VAULT.CTL.REF (Table 9-18), and the multiples
of 8 and 64 that SCANOFF, DMALEN and a watch's LEN must be (Tables 19-12, 19-14). -/
def fieldLegal (off : Nat) (f : RegField) (v : Nat) : Bool :=
  if 0x00600040 ≤ off ∧ off < 0x00600060 ∧ f.lo = 9 then decide (v ≤ 424 ∨ v = 511)
  else
    match towerOf off with
    | some t =>
      if Reg.vaultCtl t 0 ≤ off ∧ off < Reg.vaultCtl t 104 ∧ f.lo = 0 then refLegal 16 v
      else decide (f.min ≤ v ∧ v ≤ f.max)
    | none =>
      if off = Reg.scanoff ∨ off = Reg.dmalen then v % 8 == 0
      else if 0x00600800 ≤ off ∧ off < 0x00601000 ∧ off % 0x20 = 0x18 then v % 64 == 0 && decide (v ≤ f.max)
      else decide (f.min ≤ v ∧ v ≤ f.max)

/-- One field after a write of `v` under bit mask `mask` (R7, R8, R9): a value the field may not take leaves
it as it was; `isSealed` closes RWL fields; W1S and WO fields keep nothing here, their effect being the
command of their own row. -/
def fieldWrite (off : Nat) (isSealed : Bool) (v mask : Nat) (acc : Nat) (f : RegField) : Nat :=
  let part := field mask f.lo f.len
  let cur := field acc f.lo f.len
  let nv := (field v f.lo f.len &&& part) ||| (cur &&& (2 ^ f.len - 1 - part))
  match f.acc with
  | .rw => if part ≠ 0 ∧ fieldLegal off f nv then setField acc f.lo f.len nv else acc
  | .rwl => if !isSealed && part != 0 && fieldLegal off f nv then setField acc f.lo f.len nv else acc
  | .w1c => if field v f.lo f.len &&& part ≠ 0 then setField acc f.lo f.len 0 else acc
  | _ => acc

/-- A register after a write (R8, R9). -/
def regWrite (off : Nat) (fields : List RegField) (isSealed : Bool) (old v mask : Nat) : Nat :=
  fields.foldl (fieldWrite off isSealed v mask) old

/-- What a read returns: WO fields and reserved bits read as zero (Table 0-3). -/
def regRead (fields : List RegField) (v : Nat) : Nat :=
  fields.foldl (fun acc f =>
    match f.acc with
    | .wo => acc
    | _ => setField acc f.lo f.len (field v f.lo f.len)) 0

/-- The pairs that R9 checks as written; a write that leaves one illegal is ignored as a whole. -/
def regPairOk (off v : Nat) : Bool :=
  if 0x00201000 ≤ off ∧ off < 0x00203000 ∧ off % 0x20 = 8 then !(bitOf v 5 && field v 0 5 == 0)
  else if 0x00203000 ≤ off ∧ off < 0x00204000 ∧ off % 0x10 = 8 then !(bitOf v 5 && field v 0 5 == 0)
  else if off = Reg.clkcfg then decide (field v 32 7 < field v 40 7)
  else true

end Sys2Proof.Machine
end

