-- ==== Sys2Proof/Machine/ChanterState.lean ====
section
/-! DEFINITION. The state of the chanter clusters (chapter Chanters: Processing at the Vault). -/

namespace Sys2Proof.Machine

/-- A declared range of a job (R336, R343). -/
structure JobRange where
  line : Nat
  n : Nat
  own : Bool
  deriving DecidableEq, Repr

/-- A job given to a chanter: its 64-byte record, its ranges, and whether it runs (its ranges being declared). -/
structure Job where
  record : Line
  ranges : List JobRange
  started : Bool
  deriving DecidableEq, Repr

/-- What a line operation does (R326, R328): a read into a Q group, a write, or the two halves of one copied line. -/
inductive ChKind where
  | read (q : Nat)
  | write (d : Line)
  | copyRead (dst : Nat)
  | copyWrite (d : Line)
  deriving DecidableEq, Repr

/-- Where a line operation stands: queued at the bottom landing controller of its line's home vault; answered retry
(R326); a read with its data (poisoned or not) or refused (bus error); or written, its back-invalidate sent. -/
inductive ChSt where
  | queued
  | retry
  | arrived (bad : Bool) (d : Line)
  | refused
  | written
  deriving DecidableEq, Repr

/-- One line operation of a chanter; `seq` is its place in the order of issue. -/
structure ChOp where
  seq : Nat
  line : Nat
  kind : ChKind
  tries : Nat
  st : ChSt
  deriving DecidableEq, Repr

/-- One chanter (R321 to R332, Table 12-4). `copies` are the lines of its PCOPYs that wait for a place among the 32
operations; `stat` is what FENCEL will report. -/
structure Chanter where
  hart : Hart
  tact : Bool
  q : Store (BitVec 128)
  sram : Store Byte
  ecc : Store Bool
  cseg : Byte
  csegd : Byte
  cpcnt : BitVec 13
  qcvtcfg : BitVec 11
  qctr : Word
  qkey0 : Word
  qkey1 : Word
  pgkey0 : Word
  pgkey1 : Word
  qscale : Byte
  ops : List ChOp
  copies : List (Nat × Nat)
  stat : BitVec 4
  job : Option Job
  deriving DecidableEq, Repr

/-- A chanter after reset: Q registers and CSRs at their reset values, no job (R325, Table 12-4). The hart's own
registers follow `Hart.reset` (log entry 2). -/
def Chanter.reset : Chanter :=
  { hart := Hart.reset, tact := false, q := [], sram := [], ecc := [], cseg := 0, csegd := 0, cpcnt := 1, qcvtcfg := 0, qctr := 0,
    qkey0 := 0, qkey1 := 0, pgkey0 := 0, pgkey1 := 0, qscale := 0, ops := [], copies := [], stat := 0, job := none }

/-- One cluster: its chanters, the words of JOBIN written so far, and the queued records. -/
structure Cluster where
  chanters : Store Chanter
  jobin : Store DWord
  queue : List Line
  deriving DecidableEq, Repr

/-- Nothing queued (R343). -/
def Cluster.reset : Cluster := { chanters := [], jobin := [], queue := [] }

end Sys2Proof.Machine
end

