-- ==== Sys2Proof/Machine/DebugState.lean ====
section
/-! DEFINITION. The state of the debug chapter: event staging, scan selection of the JTAG path, dump and
annex bookkeeping, and the reports that units send to the usher. -/

namespace Sys2Proof.Machine

/-- One event-ring entry (Table 19-6). -/
structure EventEntry where
  time : BitVec 56
  kind : Byte
  range : Half
  data : BitVec 48
  deriving DecidableEq, Repr

/-- What units report to the usher (R89, R91, R92, R218, R332, R345, R307, R450). Galleries and clusters are
named tower · 104 + position. -/
inductive UsherMsg where
  | trap (unit : Nat) (double : Bool) (lgal : Nat) (mcause mepc mtval gstep epoch : Word) (range : Half)
  | chanterTrap (cluster chanter : Nat) (double : Bool) (mcause mepc mtval epoch gstep : Word) (range : Nat)
  | queueFault (unit q status : Nat) (index : BitVec 20)
  | machineCheck (unit : Nat) (core : Bool) (q : Nat)
  | mcastStall (target fork src srcTower : Nat) (index : Word)
  | barrier (link id : Nat)
  | jobDone (cluster ch : Nat) (jobid epoch status result : Nat)
  deriving DecidableEq, Repr

/-- The scan path that JTAG keeps for itself (R549), the staged events (R552), and what else the debug
chapter holds outside BAR0 registers; `watched` are the watches that the hold that stands has served; `paused` is the time spent stopped by the Whistle, in ns (R544). -/
structure DebugState where
  stage : Store (List EventEntry)
  ringIdx : Store Nat
  jtagIr : Byte
  jtagSel : Word
  jtagOff : BitVec 48
  jtagOut : DWord
  whistleReq : Byte
  whistleHold : Bool
  dumpSeq : DWord
  scanDma : Bool
  watched : List Nat
  paused : DWord
  deriving DecidableEq, Repr

/-- Nothing staged, nothing selected, no request, no dump (R550, R557; JTAG's own registers have no
stated reset value and are zero, log entry 2). -/
def DebugState.reset : DebugState :=
  { stage := [], ringIdx := [], jtagIr := 0, jtagSel := 0, jtagOff := 0, jtagOut := 0,
    whistleReq := 0, whistleHold := false, dumpSeq := 0, scanDma := false, watched := [], paused := 0 }

end Sys2Proof.Machine
end

