-- ==== Sys2Proof/Machine/LinkState.lean ====
section
/-! DEFINITION. The state of the Holmund links (chapter Holmund Links): lanes and framing, flits and replay, transactions, barriers,
annexes, and the attention partials awaited from peers (R278, R279). -/

namespace Sys2Proof.Machine

/-- A transaction as its header and data lay it out (Tables 15-5, 15-6). Of one that a link brought: `rsv`, whether a field that Table 15-5
reserves is set; its place in the link's order of arrival; the flits that it holds in the receive buffer. -/
structure Txn where
  type : Nat
  ackreq : Bool
  ush : Bool
  tag : Half
  epoch : BitVec 24
  status : Nat
  offset : Nat
  annex : Word
  len : Nat
  arg : DWord
  data : List Byte
  rsv : Bool := false
  place : Nat := 0
  cells : Nat := 0
  deriving DecidableEq, Repr

/-- What one of the module's own requests serves: the opening of an annex or a PUT for a spill or a remote chunk of the ticket at an index,
a GET of a remote chunk that comes back, or of a recall's image, a WEIGHT_ASK to a node for a model, a GET of 64 KiB of a weight section of a model, an ATTN_QUERY,
or nothing further. -/
inductive LinkWhy where
  | spill (i : Nat)
  | chunk (i t k : Nat)
  | back (i t k at_ : Nat)
  | recall (i at_ : Nat)
  | ask (node m : Nat)
  | weight (m sid off : Nat)
  | attn (tag : DWord)
  | plain
  deriving DecidableEq, Repr

/-- An outstanding transaction (R451): when it was sent, and the time from which it is sent again after BUSY. -/
structure LinkReq where
  txn : Txn
  why : LinkWhy
  since : DWord
  again : Option DWord
  deriving DecidableEq, Repr

/-- A flit that has a sequence number (Table 15-3). -/
structure Flit where
  seq : BitVec 12
  vc : Nat
  sot : Bool
  eot : Bool
  payload : List Byte
  deriving DecidableEq, Repr

/-- What a link's transmitter has put on its lanes in one time: the symbols of a FEC or alignment block by lane (R436, R441), or the levels of a
training frame on one lane (R442). -/
inductive Sent where
  | symbols (lanes : List (Nat × List Nat))
  | levels (lane : Nat) (l : List Int)
  deriving DecidableEq, Repr

/-- One link. Lanes are those of one direction, 0 to 8. Transmitter: the taps of each lane (lane · 4 + tap, in 1/80 of full swing, c(0) taking the rest), its
status answer, `spare` the lane it carries on LANE[8], `fail` the lane that a LANE_FAIL has named, `quiet` only idle flits until
a NAK, the failed lane it reports (`lctl`). Receiver: the partner's map, READY and corrected symbols by lane, mismatched lane words in a row,
flits that await FLIT_RECEIVE (whether their block was corrected), the partial transaction of each channel, the whole ones in order. `fast` is
why a fast retrain is due (1 a lane, 2 stalled replay), `caps` and `capCount` the partner's last capability flit and how many good
ones came; `nakSeen` says that a NAK waits for its replay, `fullAt` the end of the last full training; `turn` counts the bulk flits sent since a message flit (R445), `msgDrop` that the message now arriving found no room.
What it sends: `again` flits at the end of the replay buffer are to be sent again, `bseq` blocks have gone since the last alignment block, `swapLeft` blocks
still tell of a swap, `txMask` the lanes that the partner's receiver passed, `ask` the module's control word on each lane in training, `wire` what has gone out, oldest first.
What it receives: `naked`, a NAK has been set since the last good flit; `rxAny`, a flit has been accepted; the flits held in each channel's
buffer and the credits due for those freed (R445); how many transactions have begun, and the place and the flits of each partial one; `skew`, the deskew of each lane, and
`slip`, the symbols that its elastic buffer holds beyond its middle. -/
structure LinkState where
  taps : Store Int
  status : Store Nat
  ready : Store Bool
  corr : Store Nat
  spare : Option Nat
  rxSpare : Option Nat
  lctl : Option Nat
  fail : Option Nat
  quiet : Bool
  mism : Store Nat
  rxFlits : List (BitVec 2048 × Bool)
  rxNext : BitVec 12
  rxNak : Bool
  part : Store (List Byte)
  inbox : Store (List Txn)
  txNext : BitVec 12
  credit : Store Nat
  replay : List Flit
  flits : Store (List Flit)
  stalls : Nat
  lastAck : DWord
  waiting : List (Txn × LinkWhy)
  out : List LinkReq
  nextTag : Half
  turn : Nat
  msgBytes : Nat
  msgDrop : Bool
  gens : Store Bool
  got : Store Bool
  sent : Store Bool
  malformed : Nat
  fast : Nat
  caps : List Byte
  capCount : Nat
  shed : Bool
  lastUse : DWord
  downAt : DWord
  nakSeen : Bool
  fullAt : DWord
  again : Nat
  bseq : Nat
  swapLeft : Nat
  txMask : Nat
  ask : Store Nat
  wire : List Sent
  naked : Bool
  rxAny : Bool
  held : Store Nat
  due : Store Nat
  arrived : Nat
  partAt : Store Nat
  partN : Store Nat
  skew : Store Nat
  slip : Store Int
  deriving DecidableEq, Repr

/-- A link that has never trained (R454). -/
def LinkState.reset : LinkState :=
  { taps := [], status := [], ready := [], corr := [], spare := none, rxSpare := none, lctl := none, fail := none, quiet := false,
    mism := [], rxFlits := [], rxNext := 0, rxNak := false, part := [], inbox := [], txNext := 0, credit := [], replay := [], flits := [],
    stalls := 0, lastAck := 0, waiting := [], out := [], nextTag := 0, turn := 0, msgBytes := 0, msgDrop := false, gens := [], got := [], sent := [], malformed := 0,
    fast := 0, caps := [], capCount := 0, shed := false, lastUse := 0, downAt := 0, nakSeen := false, fullAt := 0,
    again := 0, bseq := 0, swapLeft := 0, txMask := 511, ask := [], wire := [], naked := false, rxAny := false, held := [], due := [], arrived := 0,
    partAt := [], partN := [], skew := [], slip := [] }

/-- A link that begins anew: its trained taps, its counts and what it has sent stay. -/
def LinkState.anew (x : LinkState) : LinkState :=
  { LinkState.reset with taps := x.taps, fullAt := x.fullAt, malformed := x.malformed, wire := x.wire }

/-- An annex that the module has granted (R458): its owner's node and BOOTID, its memory, its purpose (1 spill, 2 remote chunk, 3 weights: the
ranges of module memory that it spells back to back). -/
structure Annex where
  id : Word
  node : Nat
  boot : Word
  purpose : Nat
  len : Nat
  pieces : List (Nat × Nat)
  deriving DecidableEq, Repr

/-- A chunk record of an ATTN_PARTIAL (Table 10-7): the chunk, and (M, L, O) of each query head. -/
structure ChunkRec where
  chunk : Nat
  heads : List (Word × Word × List Word)
  deriving DecidableEq, Repr

/-- An ATTN_QUERY of the home that awaits its answer (R279), and its chunk records once they have come (R278); `q` are the query vectors, 128 words for each head. -/
structure AttnWait where
  tag : DWord
  ticket : Word
  pos : Nat
  layer : Nat
  tower : Nat
  chunk : Nat
  since : DWord
  got : Option (List ChunkRec)
  q : List Word
  deriving DecidableEq, Repr

/-- The output of a row's layer in a tower with remote chunks, for each query head (R278, R286). -/
structure AttnOut where
  ticket : Word
  pos : Nat
  layer : Nat
  tower : Nat
  out : List (List Word)
  deriving DecidableEq, Repr

/-- A chunk of a ticket on its way back from a peer (R277): its image's length once the header has come, and the pieces that have come. -/
structure ChunkBack where
  i : Nat
  t : Nat
  k : Nat
  node : Nat
  annex : Word
  total : Nat
  pieces : List (Nat × List Byte)
  deriving DecidableEq, Repr

/-- A chunk of a ticket on its way to a peer (R277): ticket index, tower, chunk, node, and the annex once it is granted. -/
structure ChunkOut where
  i : Nat
  t : Nat
  k : Nat
  node : Nat
  annex : Option Word
  deriving DecidableEq, Repr

/-- All links; BOOTID of the module and of each node it has met; the annexes granted and the next id; the queries in wait; the
messages delivered to the usher (link, kind, payload); the pieces of recalled images that have come (ticket index, offset, bytes);
the chunks on their way to peers and back; the outputs that rows with remote chunks have; the WEIGHT_ASKs not yet answered and the weights annexes held (node, model index), (node, annex, model index). -/
structure Links where
  link : Store LinkState
  boot : Word
  met : Store (Option Word)
  annexes : List Annex
  nextAnnex : Word
  attn : List AttnWait
  msgs : List (Nat × Nat × List Byte)
  pieces : List (Nat × Nat × List Byte)
  chunks : List ChunkOut
  backs : List ChunkBack
  outs : List AttnOut
  asked : List (Nat × Nat)
  weights : List (Nat × Word × Nat)
  deriving DecidableEq, Repr

/-- Nothing met, nothing granted. DESIGN CHOICE: log entry 96. -/
def Links.reset : Links :=
  { link := [], boot := 0, met := [], annexes := [], nextAnnex := 1, attn := [], msgs := [], pieces := [], chunks := [], backs := [], outs := [], asked := [], weights := [] }

end Sys2Proof.Machine
end

