-- ==== Sys2Proof/Machine/MemoryState.lean ====
section
/-! DEFINITION. The state of the memory path (chapters The Memory Path, Tower Construction, and the line
states of Data Integrity): slices, vaults, landings, lanes and the answers they have given. -/

namespace Sys2Proof.Machine

/-- Who owns a pin (R236). -/
inductive PinOwner where
  | epoch
  | usher
  deriving DecidableEq, Repr

/-- One way of a slice's set (R233): the line it holds by module line number, whether its data is valid (a
pinned way may be invalid, R340), dirty, poisoned (R237), pinned, and the data. -/
structure CacheWay where
  line : Nat
  valid : Bool
  dirty : Bool
  poison : Bool
  pin : Option PinOwner
  data : Line
  deriving DecidableEq, Repr

/-- A line request that waits, and when it came: for a fill (R233), for an earlier request of its port to its slice (R231), or, marked
`own`, for a burst of the bottom to end (R339). -/
structure LineReq where
  tag : Nat
  who : Requester
  op : LineOp
  ah : Nat
  since : DWord
  own : Bool
  deriving DecidableEq, Repr

/-- A miss in flight (R233, R238): the line, the requests that wait for it, and what the vault has read (data,
poisoned), once it has. A back-invalidate discards what was read. -/
structure Fill where
  line : Nat
  waiting : List LineReq
  got : Option (Line × Bool)
  deriving DecidableEq, Repr

/-- A request in the queue of vault controller `vault` (R253): a line read, or a whole-line write with its poison; and since when it
waits. -/
structure VaultReq where
  vault : Nat
  line : Nat
  write : Option (Line × Bool)
  since : DWord
  deriving DecidableEq, Repr

/-- An answer given to a requester (R229): its tag, the data of a read, and the status: 0 good, 1 poisoned, 2 bus
error, 3 retry. -/
structure LineAns where
  tag : Nat
  status : Nat
  data : Line
  deriving DecidableEq, Repr

/-- A stale-list entry (R494): one line, or one set of a slice. -/
inductive StaleEntry where
  | line (l : Nat)
  | set (s : Nat)
  deriving DecidableEq, Repr

/-- The memory path. `ways` is keyed ((tower·104 + slice)·10240 + set)·16 + way and `plru` by the set; `chk` is, by
line, the stored check symbols XOR the encoding of the stored data (zero for a clean line, the poison pattern for a
poisoned one); `holdCnt` and `ownCnt` are the hold filters (R337) by vault·131072 + counter. Landings are keyed vault·16 + layer;
`trained` is the delay code of each. `corrCnt` lists, by landing·72 + group, which of the last 64 lines took a correction in
the group (R492). `bottomBus` says that the bottom holds the
bus of a vault (R333), `burstEnd` that it stands at the boundary after a burst. `openRow` is, by (vault·16 + layer)·16 + bank, one more than
the row that stands open, `slotWin` the 1 µs window of a vault in which `slotAll` lines crossed its bus, `slotBot` of them for the bottom (R256, R334), `busWrite` the direction of the top's transfers on a vault's bus and `busRun` how many lines have gone that way (R253).
`bridgeWin` holds the last 64 bursts received and `bridgeFwd` those forwarded to a bridge, by bridge·2 + direction (R55). `lineReads` numbers the
lines decoded and those stored over a bus with failed lanes. `tested` says that the self-test has written DRAM (R352). `logLast` is, by vault, one more than the time of the last error-log record (R498). -/
structure MemState where
  ways : Store (Option CacheWay)
  plru : Store (BitVec 15)
  chk : Store DWord
  raw : Store Bool
  staleList : Store (List StaleEntry)
  staleOver : Store Bool
  fills : List Fill
  held : List (Nat × LineReq)
  vq : List VaultReq
  answers : List LineAns
  backInv : List Nat
  holdCnt : Store Nat
  ownCnt : Store Nat
  refreshRow : Store (BitVec 13)
  trained : Store Byte
  drifted : Store Bool
  spares : Store Nat
  badLanes : Store (List Nat)
  bridgeOut : Store Bool
  stairOut : Store Bool
  bridgeSeq : Store Nat
  bridgeReplay : Store Bool
  bridgeWin : Store (List Burst)
  bridgeFwd : Store (List Burst)
  corrCnt : Store (List Bool)
  bottomBus : Store Bool
  burstEnd : Store Bool
  openRow : Store Nat
  busWrite : Store Bool
  busRun : Store Nat
  slotWin : Store Nat
  slotAll : Store Nat
  slotBot : Store Nat
  lineReads : Nat
  logLast : Store DWord
  tested : Bool
  deriving DecidableEq, Repr

/-- Every slice empty, every line clean, every lane good (R233, R494, R508, R532). -/
def MemState.reset : MemState :=
  { ways := [], plru := [], chk := [], raw := [], staleList := [], staleOver := [], fills := [], held := [], vq := [],
    answers := [], backInv := [], holdCnt := [], ownCnt := [], refreshRow := [], trained := [], drifted := [],
    spares := [], badLanes := [], bridgeOut := [], stairOut := [], bridgeSeq := [], bridgeReplay := [], bridgeWin := [], bridgeFwd := [], corrCnt := [],
    bottomBus := [], burstEnd := [], openRow := [], busWrite := [], busRun := [], slotWin := [], slotAll := [], slotBot := [], lineReads := 0, logLast := [], tested := false }

end Sys2Proof.Machine
end

