-- ==== Sys2Proof/Machine/State.lean ====
section
/-! DEFINITION. The whole state of the module and of its command queue, and its value at reset. -/

namespace Sys2Proof.Machine

/-- The module. Registers that no other field holds are in `regs` by BAR0 offset; `fuses` is what
the fuse banks hold, once bring-up step 1 has first read them; galleries by tower · 104 + physical position; `flows` is the arcade schedule in force by tower (R208). -/
structure Chip where
  part : Part
  now : DWord
  pllLocked : Bool
  free : Nat
  regs : Store DWord
  fuses : Option Fuses
  latch : Store (Option Word)
  gals : Store Gallery
  flight : List Xfer
  rsigs : List RSig
  flows : Store (List FlowRec)
  reports : List UsherMsg
  dram : Store Byte
  mem : MemState
  chc : Store Cluster
  opSeq : Nat
  hostMem : Store Byte
  host : HostState
  sys : SysState
  ush : UsherState
  lk : Links
  dbg : DebugState
  deriving DecidableEq, Repr

/-- The module right after VSVC rises (R532): every store empty, every field at its reset value. -/
def Chip.reset : Chip :=
  { part := .ihl4t768, now := 0, pllLocked := false, free := 0, regs := [], fuses := none, latch := [],
    gals := [], flight := [], rsigs := [], flows := [], reports := [], dram := [], mem := MemState.reset, chc := [], opSeq := 0, hostMem := [],
    host := HostState.reset, sys := SysState.reset, ush := UsherState.reset, lk := Links.reset,
    dbg := DebugState.reset }

/-- The block's state: the module, and the commands that wait, first in, first out. -/
structure State where
  pending : List Instr
  chip : Chip
  deriving DecidableEq, Repr

/-- The state after reset, with no command waiting. DESIGN CHOICE: log entry 34. -/
def State.reset : State := { pending := [], chip := Chip.reset }

/-- Reasons to stop with a fault: the spec gives this block none, every fault of the hardware being an
effect on its state. -/
inductive Fault where
  deriving DecidableEq, Repr

/-- Reasons to refuse a command. -/
inductive Refusal where
  /-- A command that has no meaning yet, by its mnemonic. Raised by dispatch alone; safe. -/
  | notModelled (mnemonic : String)
  deriving DecidableEq, Repr

end Sys2Proof.Machine
end

