-- ==== Sys2Proof/Machine/Ops.lean ====
section
/-! DEFINITION. The named operations every family shares: registers by BAR0 offset, galleries, memory,
the time base, free values, events and triggers, the Whistle request, and the energy ledger. -/

namespace Sys2Proof.Machine

/-- A command whose effect is a change of the module. -/
def State.onChip (s : State) (f : Chip → Chip) : Host.Outcome State Fault Refusal :=
  .next { s with chip := f s.chip }

/-- Galleries that nothing has touched are at reset. -/
def galDefault : Nat → Gallery := fun _ => Gallery.reset
/-- Counters, registers and words that nothing has written are zero. -/
def zeroWord : Nat → Word := fun _ => 0
def zeroDWord : Nat → DWord := fun _ => 0
def noMark : Nat → Bool := fun _ => false
def queueDefault : Nat → Queue := fun _ => Queue.reset

/-! ### Registers -/

/-- The stored content of the register at a BAR0 offset. -/
def Chip.rd (c : Chip) (off : Nat) : Nat := (Store.get regReset c.regs off).toNat

/-- Set the content of the register at a BAR0 offset. -/
def Chip.wr (c : Chip) (off v : Nat) : Chip :=
  { c with regs := Store.put regReset c.regs off (BitVec.ofNat 64 v) }

/-- No half is latched where nothing is listed. -/
def noLatch : Nat → Option Word := fun _ => none

/-- A write reaches a register: every latched half of it is let go (R7). -/
def Chip.unlatch (c : Chip) (off : Nat) : Chip := { c with latch := c.latch.filter fun e => e.1 % 2 ^ 26 != off }

/-- One field of a register. -/
def Chip.rdF (c : Chip) (off lo len : Nat) : Nat := field (c.rd off) lo len

/-- Set one field of a register. -/
def Chip.wrF (c : Chip) (off lo len v : Nat) : Chip := c.wr off (setField (c.rd off) lo len v)

/-- The usher or the hardware's policy writes a field of a register that requesters write too: a write that reaches it (R7, R566). -/
def Chip.ownWrF (c : Chip) (off lo len v : Nat) : Chip := (c.wrF off lo len v).unlatch off

/-- One bit of a register. -/
def Chip.bit (c : Chip) (off i : Nat) : Bool := bitOf (c.rd off) i

/-- Add to a counting field that saturates. -/
def Chip.bump (c : Chip) (off lo len n : Nat) : Chip := c.wrF off lo len (satAdd len (c.rdF off lo len) n)

/-! ### The part (R587, R569) -/

/-- The towers a part has. -/
def Part.towers : Part → Nat
  | .ihl3t576 => 3
  | _ => 4

/-- The DRAM layers a tower of the part has. -/
def Part.layers : Part → Nat
  | .ihl4t384 => 8
  | _ => 16

/-- User DRAM of each tower in GiB. -/
def Part.gib : Part → Nat
  | .ihl4t384 => 96
  | _ => 192

/-- Whether LINK[l] is present. -/
def Part.hasLink : Part → Nat → Bool
  | .ihl3t576, l => decide (l ≤ 3)
  | .ihl4t768l, l => decide (l ≤ 1)
  | _, l => decide (l ≤ 4)

/-- Whether BRIDGE[b] is present. -/
def Part.hasBridge : Part → Nat → Bool
  | .ihl3t576, b => b == 0 || b == 3
  | _, b => decide (b ≤ 3)

/-- Whether the adapter-training path is present. -/
def Part.hasTrain : Part → Bool
  | .ihl4t768i => false
  | _ => true

/-- MOD.ID.DEVICE (Table 20-13). -/
def Part.device : Part → Nat
  | .ihl4t768 => 0x4768
  | .ihl4t768i => 0x4769
  | .ihl4t384 => 0x4384
  | .ihl3t576 => 0x3576
  | .ihl4t768l => 0x476C

/-- MOD.CAP[0..3] (Tables 20-13, 20-14). -/
def Part.cap (p : Part) (k : Nat) : Nat :=
  match k with
  | 0 =>
    match p with
    | .ihl4t768 => 0x10FFFF
    | .ihl4t768i => 0x10DFFF
    | .ihl4t384 => 0x08FFFF
    | .ihl3t576 => 0x10EF97
    | .ihl4t768l => 0x10E3FF
  | 1 =>
    match p with
    | .ihl4t384 => 0x0060006004600360
    | .ihl3t576 => 0x000000C004C003C0
    | _ => 0x00C000C004C003C0
  | 2 => 0x0000081000400014
  | _ => 0x0007000F00033FFF

/-- Whether a tower is populated. -/
def Chip.hasTower (c : Chip) (t : Nat) : Bool := decide (t < c.part.towers)

/-! ### Time, free values, galleries -/

/-- The next free value's index, and the module with that index used up. DESIGN CHOICE: log entry 35. -/
def Chip.fresh (c : Chip) : Nat × Chip := (c.free, { c with free := c.free + 1 })

/-- The gallery at tower · 104 + physical position. -/
def Chip.gal (c : Chip) (k : Nat) : Gallery := Store.get galDefault c.gals k

/-- Put a gallery back. -/
def Chip.setGal (c : Chip) (k : Nat) (g : Gallery) : Chip :=
  { c with gals := Store.put galDefault c.gals k g }

/-- Change one gallery. -/
def Chip.onGal (c : Chip) (k : Nat) (f : Gallery → Gallery) : Chip := c.setGal k (f (c.gal k))

/-- The key of a gallery operand. -/
def galKey (g : GalId) : Nat := g.tower.val * 104 + g.pos.val

/-- EPOCH of the epoch word (Table 11-20), the current epoch of R70. -/
def Chip.epoch (c : Chip) : Word := BitVec.ofNat 32 (c.rdF Reg.epoch 0 32)

/-- STATE of the epoch word. -/
def Chip.epochState (c : Chip) : Nat := c.rdF Reg.epoch 32 3

/-- Time as the timers of programs, the usher and the links count it: the time base without the time spent stopped (R544). -/
def Chip.act (c : Chip) : DWord := c.now - c.dbg.paused

/-- The module stands in reset: COLDRST_N is held (R575). -/
def Chip.inReset (c : Chip) : Bool := c.sys.pins.coldHeld

/-- The module is sealed (Table 18-12). -/
def Chip.isSealed (c : Chip) : Bool := c.bit Reg.bringStatus 5

/-- The module stands stopped by the Whistle (R542). -/
def Chip.stopped (c : Chip) : Bool := c.bit Reg.wstat 0

/-- The module stands in thermal stop (R480). -/
def Chip.thermStopped (c : Chip) : Bool := c.bit Reg.thermStat 0

/-- Physical position index of logical gallery g of a tower under the map in force (R199, R201). -/
def Chip.physOf (c : Chip) (t g : Nat) : Nat :=
  let col := g / 12
  let l := g % 12
  let out := c.rdF (Reg.gmap t) (8 * col) 4
  13 * col + (if l < out then l else l + 1)

/-- Whether the logical gallery runs on chanter fallback (R199). -/
def Chip.onFallback (c : Chip) (t g : Nat) : Bool :=
  c.rdF (Reg.gmap t) (8 * (g / 12) + 4) 4 == c.physOf t g % 13

/-- The key of a logical gallery of a tower. -/
def Chip.logKey (c : Chip) (t g : Nat) : Nat := t * 104 + c.physOf t g

/-- RCTL.FENCE of the gallery at key k (R220). -/
def Chip.fenced (c : Chip) (k : Nat) : Bool := c.bit (Reg.rctl (k / 104) (k % 104)) 0

/-! ### Domains (Table 16-10) -/

/-- DOM of a gallery (tower · 104 + position), and of a tower's corridor. -/
def domReg (k : Nat) : Nat := Reg.dom (k / 104) (k % 104)
def corrReg (t : Nat) : Nat := Reg.dom t 104

/-- Failed cells of a gallery domain. -/
def Chip.cellsFailed (c : Chip) (k : Nat) : Nat := popcount 4 (c.rdF (domReg k) 16 4)

/-- CLASS of a bank (Table 2-6): 0 good, 1 degraded, 2 open, 3 not measured. -/
def Chip.bankClass (c : Chip) (k : Nat) : Nat := c.rdF (Reg.bank (k / 104) (k % 104)) 32 2

/-- A domain held at VSTEP 0 by the hardware: a second cell lost (R469), its bank open in service (R473), or a thermal drop (R476). -/
def Chip.domLow (c : Chip) (k : Nat) : Bool := decide (2 ≤ c.cellsFailed k) || c.bankClass k == 2 || c.bit (domReg k) 15

/-- STATE of a domain (Table 16-10): 0 off, 1 on, 2 retention, 3 staging, 4 fenced. -/
def Chip.domSt (c : Chip) (k : Nat) : Nat := c.rdF (domReg k) 12 3
def Chip.setDomSt (c : Chip) (k st : Nat) : Chip := c.wrF (domReg k) 12 3 st

/-- VCAP of a gallery domain and its cause (R466, Table 16-10). -/
def Chip.capOf (c : Chip) (k : Nat) : Nat × Nat :=
  let cell := if c.cellsFailed k = 0 then 15 else 10
  let bank := if c.bankClass k = 1 then 10 else 15
  let v := min (min cell bank) (c.rdF (corrReg (k / 104)) 8 4)
  (v, if v = 15 then 0 else if cell = v then 1 else if bank = v then 2 else 3)

/-- VCAP and the VSTEP in force of a gallery domain follow what limits them (R466). -/
def Chip.domRun (c : Chip) (k : Nat) : Chip :=
  let cap := c.capOf k
  let c := (c.wrF (domReg k) 8 4 cap.1).wrF (domReg k) 28 3 cap.2
  match c.domSt k with
  | 1 => c.wrF (domReg k) 4 4 (if c.domLow k then 0 else min (c.rdF (domReg k) 0 4) cap.1)
  | 4 => c.wrF (domReg k) 4 4 (if c.domLow k then 0 else min (c.rdF (domReg k) 0 4) cap.1)
  | 2 => c
  | _ => c.wrF (domReg k) 4 4 0

/-- The galleries of a tower whose domain is powered: one at retention voltage counts, with the VSTEP it stood at when it went there
(R27 says nothing of one). DESIGN CHOICE: log entry 100. -/
def Chip.poweredGals (c : Chip) (t : Nat) : List Nat := ((List.range 104).map (t * 104 + ·)).filter fun k => c.domSt k != 0

/-- The corridor takes the highest VSTEP among the powered galleries, never below 6, within its own cap (R27, R466). DEDUCED: log entry 41. DEDUCED: log entry 58. -/
def Chip.corridor (c : Chip) (t : Nat) : Chip :=
  if c.rdF (corrReg t) 12 3 = 0 then c
  else
    let v := (c.poweredGals t).foldl (fun m k => max m (c.rdF (domReg k) 4 4)) 6
    (c.wrF (corrReg t) 0 4 v).wrF (corrReg t) 4 4 (min v (c.rdF (corrReg t) 8 4))

/-- Domains change, and the corridors of their towers follow. -/
def Chip.domsRun (c : Chip) (ks : List Nat) : Chip :=
  let c := ks.foldl Chip.domRun c
  [0, 1, 2, 3].foldl (fun c t => if ks.any fun k => k / 104 == t then Chip.corridor c t else c) c

/-- VSET of some galleries is set: a write that lets a latched half of DOM go (R7). DEDUCED: log entry 56. -/
def Chip.setVsets (c : Chip) (l : List (Nat × Nat)) : Chip :=
  Chip.domsRun (l.foldl (fun c e => Chip.ownWrF c (domReg e.1) 0 4 e.2) c) (l.map (·.1))

/-! ### Module memory (R225) -/

/-- Bytes of user memory of each tower. -/
def Chip.towerBytes (c : Chip) : Nat := c.part.gib * 2 ^ 30

/-- Whether `n` bytes at a module address lie in the populated memory of one present tower. -/
def Chip.populated (c : Chip) (a n : Nat) : Bool :=
  decide (a + n ≤ 2 ^ 40) && c.hasTower (a / 2 ^ 38) && decide (a % 2 ^ 38 + n ≤ c.towerBytes)

/-! ### Events, triggers, the Whistle request -/

/-- A Whistle request with a cause bit (R541, Table 19-12): while stopped it only adds its cause; while a
bring-up step runs it waits; otherwise it stands until the Whistle acts on it. -/
def Chip.requestWhistle (c : Chip) (causeBit : Nat) : Chip :=
  if c.stopped then c.wrF Reg.wstat 2 8 (c.rdF Reg.wstat 2 8 ||| 2 ^ causeBit)
  else
    let c := if c.rdF Reg.bringStatus 3 2 = 1 then c.wrF Reg.wstat 1 1 1 else c
    { c with dbg := { c.dbg with whistleReq := c.dbg.whistleReq ||| BitVec.ofNat 8 (2 ^ causeBit) } }

/-- One trigger's comparison with an event (R553, Table 19-13). -/
def Chip.trigger (c : Chip) (t unit kind range k : Nat) : Chip :=
  let v := c.rd (Reg.trig k)
  if bitOf v 0 ∧ field v 1 5 = kind ∧ (bitOf v 8 ∨ field v 6 2 = t)
      ∧ (field v 9 9 = 0x1FF ∨ field v 9 9 = unit) ∧ (¬ bitOf v 18 ∨ field v 32 16 = range) then
    let n := field v 48 16 - 1
    if n = 0 then (c.wr (Reg.trig k) (setField (setField v 48 16 0) 0 1 0)).requestWhistle 3
    else c.wr (Reg.trig k) (setField v 48 16 n)
  else c

/-- Staged events are listed oldest first; nothing is staged where nothing is listed. -/
def noEvents : Nat → List EventEntry := fun _ => []

/-- A unit of a tower generates an event (R551 to R553): it is compared with the triggers, and unless its
kind is masked it enters the unit's staging buffer of 16 entries, or is dropped and counted. -/
def Chip.event (c : Chip) (t unit kind range data : Nat) : Chip :=
  let c := [0, 1, 2, 3].foldl (fun c k => c.trigger t unit kind range k) c
  if c.bit (Reg.evmask t) kind then c
  else
    let key := t * 512 + unit
    let q := Store.get noEvents c.dbg.stage key
    if q.length < 16 then
      let e : EventEntry := ⟨BitVec.ofNat 56 c.now.toNat, BitVec.ofNat 8 kind, BitVec.ofNat 16 range, BitVec.ofNat 48 data⟩
      { c with dbg := { c.dbg with stage := Store.put noEvents c.dbg.stage key (q ++ [e]) } }
    else c.bump (Reg.evdrop t) 0 32 1

/-- A report to the usher. -/
def Chip.report (c : Chip) (m : UsherMsg) : Chip := { c with reports := c.reports ++ [m] }

/-! ### The energy ledger (R196, R464, R482) -/

/-- VF of a VSTEP (Table 16-2), in 1/4,096. -/
def vfOf (v : Nat) : Nat :=
  listGet 6400 [2844, 3037, 3236, 3442, 3654, 3872, 4096, 4327, 4564, 4807, 5057, 5313, 5575, 5844, 6119, 6400] v

/-- The ledger L in µJ. -/
def Chip.ledger (c : Chip) : Int := toSigned 64 (c.rd Reg.ledger)

/-- Change the ledger; it runs only while the module is sealed (R482). -/
def Chip.ledgerAdd (c : Chip) (d : Int) : Chip :=
  if c.isSealed then c.wr Reg.ledger (wrapInt 64 (c.ledger + d)) else c

/-- The VSTEP in force of gallery domain k. -/
def Chip.vcur (c : Chip) (k : Nat) : Nat := c.rdF (Reg.dom (k / 104) (k % 104)) 4 4

/-- No step closed. -/
def noNet : Nat → Nat × Nat := fun _ => (0, 0)

/-- One µJ in the units in which charges and credits are exact: 1/4,096 pJ (R196, R482). -/
def microJoule : Nat := 4096000000

/-- The Bellows has closed a step of one gallery with a net energy in 1/4,096 pJ (R196, R381). -/
def Chip.closeStep (c : Chip) (n net : Nat) : Chip :=
  let x := Store.get noNet c.ush.stepNet n
  { c with ush := { c.ush with stepNet := Store.put noNet c.ush.stepNet n (x.1 + 1, x.2 + net) } }

/-- The credit of the open step of gallery k (R196) in 1/4,096 pJ, from its counts as they stand. -/
def Gallery.credit (g : Gallery) : Nat :=
  let cnt (i : Nat) := (Store.get zeroWord g.skip i).toNat
  let coef (i : Nat) := (Store.get zeroWord g.credTab i).toNat
  let dyn := coef 0 * cnt 0 + coef 1 * cnt 1 + coef 2 * cnt 2 + coef 3 * cnt 3 + coef 4 * cnt 4
    + (List.range 8).foldl (fun a i => a + coef (8 + i) * (Store.get zeroWord g.gcred i).toNat) 0
  min (dyn * vfOf g.chargeVstep + coef 5 * cnt 5 * 4096) g.charge

/-- The open step of gallery k, if it has one, is credited and closed (R196). Its counts stand until the next STEP retires (R193).
DEDUCED: log entry 69. -/
def Chip.stepCredit (c : Chip) (k : Nat) : Chip :=
  let g := c.gal k
  if g.creditOpen then
    let credit := g.credit
    let carry := g.carry + credit
    let c := c.setGal k { g with creditOpen := false, carry := carry % microJoule, winCharge := g.winCharge - credit }
    (c.closeStep g.gstep.toNat (g.charge - credit)).ledgerAdd (carry / microJoule : Nat)
  else c

/-- The charge of the step that gallery k's STEP begins (R71, R482): E[ECLASS] nJ of the stage, scaled to
the domain's VSTEP, with ECLASS from the step's mailbox half (R303). Fractions of 1 µJ carry. DEDUCED: log entry 69. -/
def Chip.stepCharge (c : Chip) (k : Nat) (n : Word) : Chip :=
  let g := c.gal k
  let eclass := Memory.num g.dmem (0x17000 + (n.toNat % 2) * 0x800 + 0x0C) 2
  let v := c.vcur k
  let x := (Store.get zeroWord g.energies eclass).toNat * 1000 * vfOf v
  let carry := g.chargeCarry + x
  let c := c.setGal k { g with charge := x, chargeVstep := v, creditOpen := true, chargeCarry := carry % microJoule, winCharge := g.winCharge + x }
  c.ledgerAdd (-((carry / microJoule : Nat) : Int))

end Sys2Proof.Machine
end

