-- ==== Sys2Proof/Machine/Gallery.lean ====
section
/-! DEFINITION. The scalar control core of a gallery (R57 to R96): its address map, its CSRs, traps,
the custom instructions, sync counters and the waits. -/

namespace Sys2Proof.Machine

/-! ### Queues as the scalar core sees them -/

/-- Number of a queue (Table 3-6). -/
def queueNum : QueueId → Nat
  | .mx => 0 | .vx0 => 1 | .vx1 => 2 | .stair => 3 | .arc => 4

/-- Depth of a queue (Table 3-6). -/
def queueDepth (q : Nat) : Nat := if q < 3 then 16 else 32

/-- Queue q of a gallery. -/
def Gallery.queue (g : Gallery) (q : Nat) : Queue := Store.get queueDefault g.queues q

/-- Put a queue back. -/
def Gallery.setQueue (g : Gallery) (q : Nat) (v : Queue) : Gallery :=
  { g with queues := Store.put queueDefault g.queues q v }

/-- Whether every queue of a mask is empty (R64). -/
def Gallery.drained (g : Gallery) (mask : Nat) : Bool :=
  (List.range 5).all fun q => !bitOf mask q || (g.queue q).entries.isEmpty

/-- Opcode byte of a descriptor. -/
def descOpc (d : Desc) : Nat := field d.toNat 0 8

/-- A field of a descriptor, by byte offset of its 32-bit word (R76). -/
def descF (d : Desc) (byte lo len : Nat) : Nat := field d.toNat (8 * byte + lo) len

/-- The five status bits and occupancies of GQSTAT (Table 3-15). -/
def Gallery.gqstat (g : Gallery) : Nat :=
  let h (q : Nat) := b2n (g.queue q).halted * 2 ^ q
  let n (q : Nat) := (g.queue q).entries.length
  h 0 + h 1 + h 2 + h 3 + h 4 + n 0 * 2 ^ 5 + n 1 * 2 ^ 10 + n 2 * 2 ^ 15 + n 3 * 2 ^ 20 + n 4 * 2 ^ 26

/-- GCTL as read (Table 3-11). -/
def Gallery.gctl (g : Gallery) : Nat := b2n g.halt + b2n g.tact * 2 + b2n g.hold * 4

/-- GFAULT as read (Table 3-13). -/
def Gallery.gfault (g : Gallery) : Nat :=
  g.faultQ + b2n g.fault * 8 + g.faultStat.toNat * 16 + g.faultIdx.toNat * 4096

/-- GID (Table 3-14) of the gallery at key k. -/
def Gallery.gid (g : Gallery) (k : Nat) : Nat :=
  let p := k % 104
  g.lgal.toNat + (p % 13) * 2 ^ 7 + (p / 13) * 2 ^ 11 + (k / 104) * 2 ^ 14

/-- The top of the range-marker stack (R69): 0 when empty. -/
def Gallery.topRange (g : Gallery) : Half := listGet 0 g.marks 0

/-! ### Counters (R80, R81, R188) -/

/-- A sync counter. -/
def Gallery.counter (g : Gallery) (i : Nat) : Word := Store.get zeroWord g.ctr i

/-- An increment that reaches a gallery: into the wake unit's pending sum while the domain is at
retention voltage (R188), into the counter otherwise, modulo 2^32. -/
def Gallery.addCtr (g : Gallery) (i : Nat) (v : Word) : Gallery :=
  if g.dom = .retained then { g with pend := Store.put zeroWord g.pend i (Store.get zeroWord g.pend i + v) }
  else { g with ctr := Store.put zeroWord g.ctr i (g.counter i + v) }

/-- The condition of R65: counter minus target, as a signed 32-bit number, is zero or more. The wake unit
counts its pending sums in (R188). -/
def Gallery.condMet (g : Gallery) (i : Nat) (target : Word) : Bool :=
  decide (0 ≤ (g.counter i + Store.get zeroWord g.pend i - target).toInt)

/-! ### Range counters (R554) -/

/-- Range selectors nothing has written are disabled. -/
def zeroSel : Nat → BitVec 17 := fun _ => 0

/-- The counter set that counts a range id: the lowest enabled one that names it, else set 15. -/
def Gallery.rngSet (g : Gallery) (id : Nat) : Nat :=
  match (List.range 15).find? fun k => let s := (Store.get zeroSel g.rngsel k).toNat; bitOf s 16 && s % 65536 == id with
  | some k => k
  | none => 15

/-- Add n to counter j of the set of a range id. -/
def Gallery.rngAdd (g : Gallery) (id j n : Nat) : Gallery :=
  let key := g.rngSet id * 8 + j
  { g with rng := Store.put zeroDWord g.rng key (Store.get zeroDWord g.rng key + BitVec.ofNat 64 n) }

/-- The beats of an instruction, charged to the top of the marker stack (R554). -/
def Gallery.rngBeats (g : Gallery) (cost : Nat) : Gallery := g.rngAdd g.topRange.toNat 0 cost

/-! ### Waits -/

/-- A wait of the scalar core ends after n beats of its domain, which enter mcycle (R57) and, unless it was a STEP hold, counter 1 of the
range at the top of the marker stack (R554). -/
def Gallery.endWait (g : Gallery) (n : Nat) (now : DWord) : Gallery :=
  let g := match g.waiting with
    | some (.step _) => g
    | none => g
    | some _ => g.rngAdd g.topRange.toNat 1 n
  { g with hart := g.hart.pass n, waitAt := now }

/-- Gallery k after the beats it has waited: a free number for the time and the VSTEP. DESIGN CHOICE: log entry 3. -/
def Chip.waited (c : Chip) (k : Nat) : Gallery :=
  let g := c.gal k
  g.endWait (Config.waitBeats (c.act - g.waitAt).toNat (c.vcur k)) c.act

/-- A wait of gallery k that began at `t` has lasted longer than GWAITLIM.LIMIT µs of the time base (R88); a LIMIT of 0 sets no limit,
and a preemption stop holds the timers. -/
def Chip.pastLimit (c : Chip) (k : Nat) (t : DWord) : Bool :=
  let g := c.gal k
  g.waitlim != 0 && !(g.mx.stopped && g.mx.cause == 1) && decide (g.waitlim.toNat * 1000 < (c.act - t).toNat)

/-- HALT is set: the core, if it does not wait, stands from now on. -/
def Gallery.haltAt (g : Gallery) (now : DWord) : Gallery :=
  { g with halt := true, waitAt := if g.halt || g.waiting.isSome then g.waitAt else now }

/-! ### Traps (R87 to R90) -/

/-- Gallery k as it takes a trap: a wait of its core is over, and the beats of the entry are counted. -/
def Chip.trapping (c : Chip) (k : Nat) : Gallery :=
  let g := if (c.gal k).waiting.isSome then c.waited k else c.gal k
  { g.rngBeats g.hart.freeBeats with hart := g.hart.pass g.hart.freeBeats }

/-- A trap of the scalar core of gallery k (R87, R89, R90): the record goes to the usher and the event
ring; the handler is entered, or with a trap already active the core halts. A wait it ends counts, and the entry takes a free number of
beats (log entry 3). -/
def Chip.galTrap (c : Chip) (k : Nat) (cause tval : Word) : Chip :=
  let g := c.trapping k
  let t := k / 104
  let p := k % 104
  let dbl := g.tact
  let g' : Gallery :=
    if dbl then { g with halt := true, waiting := none, waitAt := c.act }
    else { g with hart := g.hart.trapEntry cause tval g.hart.pc, tact := true, waiting := none }
  let c := (c.setGal k g').report (.trap k dbl g.lgal.toNat cause g.hart.pc tval g.gstep c.epoch g.topRange)
  let r := g.topRange.toNat
  let c := c.event t p 4 r (cause.toNat + b2n dbl * 2 ^ 32)
  let c := c.event t p 5 r (g.hart.pc.toNat + c.epoch.toNat % 65536 * 2 ^ 32)
  c.event t p 6 r (tval.toNat + g.gstep.toNat % 65536 * 2 ^ 32)

/-- The queue-fault interrupt is pending and enabled (R91). -/
def Gallery.irq (g : Gallery) : Bool :=
  g.hart.mie && bitOf g.hart.mieReg.toNat 16 && bitOf g.hart.mipReg.toNat 16

/-- The gallery can execute: its domain is up, or its position's cluster runs it (R353). -/
def Gallery.live (g : Gallery) : Bool := g.dom == .up || g.shadow

/-- The scalar core of gallery k executes: it is live, the module is not stopped, the core is
not halted, by HALT (R93) or by a parity error (R92). -/
def Chip.galRuns (c : Chip) (k : Nat) : Bool :=
  !c.stopped && (c.gal k).live && !(c.gal k).halt && !(c.gal k).dead

/-- Run `f` as the next instruction of the core: nothing while it waits or cannot run; an enabled
interrupt is taken first, a waiting instruction being given up with mepc at it (R91). -/
def Chip.galInstr (c : Chip) (k : Nat) (f : Chip → Chip) : Chip :=
  if c.galRuns k then
    if (c.gal k).irq then c.galTrap k 0x80000010#32 0
    else if (c.gal k).waiting.isSome then c else f c
  else c

/-- The instruction at pc retires with an optional register result. -/
def Gallery.retire (g : Gallery) (cost : Nat) : Gallery :=
  { (g.rngBeats cost) with hart := g.hart.retire (g.hart.pc + 4) cost, waiting := none }

/-- A register result, then retirement. -/
def Gallery.finish (g : Gallery) (rd : Nat) (v : Word) (cost : Nat) : Gallery :=
  { (g.rngBeats cost) with hart := (g.hart.set rd v).retire (g.hart.pc + 4) cost, waiting := none }

/-! ### CSRs (R93, and the tables of the other chapters) -/

/-- Restart the halted queues of a mask (R91): what they hold is discarded without signals and
counted in DONE. With queue 0 an array descriptor that was to continue through the latched tile (R126) is gone. -/
def Gallery.qrst (g : Gallery) (mask : Nat) : Gallery :=
  let g := if bitOf mask 0 && (g.queue 0).halted then { g with mx := { g.mx with resumed := false } } else g
  (List.range 5).foldl (fun g q =>
    let v := g.queue q
    if bitOf mask q && v.halted then
      g.setQueue q { v with entries := [], done := v.done + BitVec.ofNat 32 v.entries.length, halted := false }
    else g) g

/-- A write of 1 to GFAULT.VALID (R91, Table 3-13): the record and mip bit 16 clear. -/
def Gallery.faultClear (g : Gallery) : Gallery :=
  { g with fault := false, faultQ := 0, faultStat := 0, faultIdx := 0,
           hart := { g.hart with mipReg := g.hart.mipReg &&& 0xFFFEFFFF#32 } }

/-- A write of GCRED (R194). -/
def Gallery.gcredWrite (g : Gallery) (v : Nat) : Gallery :=
  if g.stepped then
    let i := field v 0 3
    { g with gcred := Store.put zeroWord g.gcred i (BitVec.ofNat 32 (satAdd 32 (Store.get zeroWord g.gcred i).toNat (field v 8 24))) }
  else g

/-- A descriptor of a queue is in flight: it has started and has not completed, nor halted its queue on a fault (R73, R91). DEDUCED: log entry 72. -/
def Queue.inFlight (v : Queue) (e : QEntry) : Bool := e.st != .waiting && (e.st == .running || !v.halted)

/-- Whether queue 0 has a flush, or an array descriptor, in flight (Table 4-16). -/
def Gallery.mxActive (g : Gallery) (flush : Bool) : Bool :=
  (g.queue 0).entries.any fun e => (g.queue 0).inFlight e && (decide (descOpc e.desc = 0x15) == flush) && decide (0x10 ≤ descOpc e.desc ∧ descOpc e.desc ≤ 0x15)

/-- MXSTAT (Table 4-16). -/
def Gallery.mxstat (g : Gallery) : Nat :=
  let m := g.mx
  (match m.tile with
    | some t => 1 + t.fmt * 2 + b2n t.sp24 * 32 + t.cg.toNat * 64
    | none => 0)
  + b2n m.stopped * 2 ^ 14 + m.cause * 2 ^ 15 + b2n m.displ * 2 ^ 17
  + b2n (g.mxActive true) * 2 ^ 18 + b2n (g.mxActive false) * 2 ^ 19

/-- VXSTAT of core i (Table 6-10). -/
def Gallery.vxstat (g : Gallery) (i : Nat) : Nat :=
  let v := if i = 0 then g.vx0 else g.vx1
  b2n ((g.queue (1 + i)).entries.any (g.queue (1 + i)).inFlight) + v.opc.toNat * 2 + b2n v.perr * 512

/-- The custom CSRs of the gallery; none for a number it does not implement. -/
def Gallery.csrRead (g : Gallery) (k n : Nat) : Option Word :=
  let w (x : Nat) : Option Word := some (BitVec.ofNat 32 x)
  match n with
  | 0xF14 => w (g.gid k)
  | 0x7C0 => w g.gctl
  | 0x7C1 => w g.waitlim.toNat
  | 0x7C2 => w g.gfault
  | 0x7C3 => some g.srkey0
  | 0x7C4 => some g.srkey1
  | 0x7C5 => w (b2n g.retnArm + b2n g.retnLast * 2)
  | 0x7C6 => w 0
  | 0x7C7 => w g.mring.toNat
  | 0x7C8 => w g.mrhead.toNat
  | 0x7C9 => w (g.vxstat 0)
  | 0x7CA => w (g.vxstat 1)
  | 0x7CB => w (g.stfaddr.toNat % 2 ^ 32)
  | 0x7CC => w (g.stfaddr.toNat / 2 ^ 32 + g.stfStat.toNat * 256 + b2n g.stfValid * 2 ^ 31)
  | 0xFC0 => w (g.gid k)
  | 0xFC1 => w g.gqstat
  | 0xFC2 => some g.gstep
  | 0xFC3 => w g.mxstat
  | 0xFC4 => w (match g.mx.tile with | some t => t.src | none => g.mx.lastSrc)
  | 0xFC5 => w (g.mx.resRow.toNat + g.mx.resTile.toNat * 2 ^ 16 + b2n g.mx.resValid * 2 ^ 23 + g.mx.resOpc.toNat * 2 ^ 24)
  | 0xFCE => w g.mrtail.toNat
  | _ => if 0xFC8 ≤ n ∧ n ≤ 0xFCD then some (Store.get zeroWord g.skip (n - 0xFC8)) else g.hart.csrRead n

/-- A write of a CSR by the program (Tables 3-11 to 3-13, 5-4, 6-10, 7-6, 8-9, 9-19). -/
def Gallery.csrWrite (g : Gallery) (now : DWord) (n : Nat) (v : Word) : Gallery :=
  let x := v.toNat
  match n with
  | 0x7C0 => (if bitOf x 0 then g.haltAt now else g).qrst (field x 8 5)
  | 0x7C1 => { g with waitlim := BitVec.ofNat 24 x }
  | 0x7C2 => if bitOf x 3 then g.faultClear else g
  | 0x7C3 => { g with srkey0 := v }
  | 0x7C4 => { g with srkey1 := v }
  | 0x7C5 => { g with retnArm := bitOf x 0 }
  | 0x7C6 => g.gcredWrite x
  | 0x7C7 =>
    let old := g.mring.toNat
    let l := if field x 0 4 ≤ 12 then field x 0 4 else field old 0 4
    { g with mring := BitVec.ofNat 22 (l + field x 7 15 * 128) }
  | 0x7C8 => { g with mrhead := BitVec.ofNat 16 x }
  | 0x7C9 => if bitOf x 9 then { g with vx0 := { g.vx0 with perr := false } } else g
  | 0x7CA => if bitOf x 9 then { g with vx1 := { g.vx1 with perr := false } } else g
  | 0x7CB => g
  | 0x7CC => if bitOf x 31 then { g with stfValid := false, stfaddr := 0, stfStat := 0 } else g
  | _ => { g with hart := g.hart.csrWrite n v }

/-! ### The address map (R59) -/

/-- Key of an uncorrectable-error mark: region base plus word address. -/
def eccKey (base a : Nat) : Nat := base + a / 4 * 4

/-- Whether any word of `n` bytes at `a` of a region is marked uncorrectable. DESIGN CHOICE: log entry 77. -/
def Gallery.eccBad (g : Gallery) (base a : Nat) : Nat → Bool
  | 0 => false
  | n + 1 => Store.get noMark g.ecc (eccKey base (a + n)) || g.eccBad base a n

/-- A load of the scalar core: the value, or the cause it traps with. An access that is misaligned and also outside every range is misaligned
(the rule gives no order), and an uncorrectable word of instruction memory is a load access fault as one of data memory is.
DESIGN CHOICE: log entry 101. -/
def Gallery.load (g : Gallery) (bytes a : Nat) : Except Nat Nat :=
  if a % bytes ≠ 0 then .error 4
  else if a < 0x10000 then
    if g.eccBad 0x1000000 a bytes then .error 5 else .ok (Memory.num g.imem a bytes)
  else if a < 0x18000 then
    if g.eccBad 0x2000000 a bytes then .error 5 else .ok (Memory.num g.dmem a bytes)
  else if 0x100000 ≤ a ∧ a < 0x500000 then
    if g.eccBad 0 (a - 0x100000) bytes then .error 5 else .ok (Memory.num g.spad (a - 0x100000) bytes)
  else if 0x800000 ≤ a ∧ a < 0x800100 ∧ bytes = 4 then .ok (g.counter ((a - 0x800000) / 4)).toNat
  else if 0x800100 ≤ a ∧ a < 0x800128 ∧ bytes = 4 then
    let q := g.queue ((a - 0x800100) / 8)
    .ok (if a % 8 = 0 then q.issued else q.done).toNat
  else .error 5

/-- Beats of a load (`wr` false) or store at an address (Table 3-1): through the scratchpad window a free number from 8 on, a load from
instruction or data memory 2, and 1 elsewhere. -/
def Gallery.accessBeats (g : Gallery) (wr : Bool) (a : Nat) : Nat :=
  if 0x100000 ≤ a ∧ a < 0x500000 then 8 + g.hart.freeBeats
  else if !wr && decide (a < 0x18000) then 2
  else 1

/-- A store of the scalar core: the gallery after it, or the cause it traps with. A whole-word store
replaces an uncorrectable word. -/
def Gallery.store (g : Gallery) (bytes a v : Nat) : Except Nat Gallery :=
  if a % bytes ≠ 0 then .error 6
  else if 0x10000 ≤ a ∧ a < 0x17000 then
    .ok { g with dmem := Memory.setNum g.dmem a bytes v,
                 ecc := if bytes = 4 then Store.put noMark g.ecc (eccKey 0x2000000 a) false else g.ecc }
  else if 0x100000 ≤ a ∧ a < 0x500000 then
    .ok { g with spad := Memory.setNum g.spad (a - 0x100000) bytes v,
                 ecc := if bytes = 4 then Store.put noMark g.ecc (eccKey 0 (a - 0x100000)) false else g.ecc }
  else .error 7

/-- The instruction at pc: its length and form; or the cause and mtval of the trap it raises. -/
def fetchRv (half : Nat → Option Nat) (pc : Nat) : Except (Nat × Nat) (Nat × Rv) :=
  match half pc with
  | none => .error (1, pc)
  | some lo =>
    if lo % 4 ≠ 3 then
      match rvDecode16 (BitVec.ofNat 16 lo) with
      | some i => .ok (2, i)
      | none => .error (2, lo)
    else
      match half (pc + 2) with
      | none => .error (1, pc + 2)
      | some hi =>
        match rvDecode32 (BitVec.ofNat 32 (lo + hi * 65536)) with
        | some i => .ok (4, i)
        | none => .error (2, lo + hi * 65536)

/-- A half word of instruction memory; none outside it or where it is uncorrectable. -/
def Gallery.fetchHalf (g : Gallery) (a : Nat) : Option Nat :=
  if a + 2 ≤ 0x10000 ∧ ¬ g.eccBad 0x1000000 a 2 then some (Memory.num g.imem a 2) else none

/-! ### Custom instructions (R61 to R71) -/

/-- Opcodes the owning chapters assign to each queue (Tables 3-8, 4-5, 6-5, 8-5, 9-4). -/
def opcodeValid (q opc : Nat) : Bool :=
  opc == 0 || opc == 1 ||
  (match q with
    | 0 => decide (0x10 ≤ opc ∧ opc ≤ 0x18)
    | 3 => decide (0x80 ≤ opc ∧ opc ≤ 0x84)
    | 4 => decide (0xA0 ≤ opc ∧ opc ≤ 0xA4)
    | _ => [0x30, 0x31, 0x32, 0x33, 0x34, 0x35, 0x36, 0x37, 0x38, 0x39, 0x3A, 0x3B, 0x3C, 0x3D, 0x40, 0x41, 0x42,
        0x43, 0x44, 0x45, 0x46, 0x47, 0x48, 0x50, 0x51, 0x52, 0x53, 0x54, 0x55, 0x56, 0x57, 0x58, 0x59, 0x60, 0x61,
        0x62, 0x63, 0x64, 0x65, 0x66, 0x67, 0x6C, 0x6D, 0x6E, 0x70, 0x71, 0x72, 0x73, 0x78, 0x79, 0x7E, 0x7F].contains opc)

/-- The 32 bytes at a scratchpad, data-memory or other address as one descriptor. -/
def descAt (m : Store Byte) (a : Nat) : Desc := BitVec.ofNat 256 (Memory.num m a 32)

/-- The reason an ISSUE is rejected (R63), if any; 1 queue, 5 address, 2 opcode, 3 header bit, 4 epoch. DEDUCED: log entry 65. -/
def issueReject (epoch : Word) (q addr : Nat) (d : Desc) : Option Nat :=
  if 5 ≤ q then some 1
  else if addr % 32 ≠ 0 ∨ addr < 0x10000 ∨ 0x17FE0 < addr then some 5
  else if !opcodeValid q (descOpc d) then some 2
  else if field d.toNat 13 3 ≠ 0 ∨ field d.toNat 22 2 ≠ 0 then some 3
  else if ¬ bitOf d.toNat 11 ∧ field d.toNat 40 24 ≠ epoch.toNat % 2 ^ 24 then some 4
  else none

/-- The header stamps of EPS and RGS (Table 3-7). -/
def stampDesc (epoch : Word) (top : Half) (d : Desc) : Desc :=
  let x := d.toNat
  let x := if bitOf x 11 then setField x 40 24 epoch.toNat else x
  let x := if bitOf x 12 then setField x 24 16 top.toNat else x
  BitVec.ofNat 256 x

/-- ISSUE (R62, R63). An uncorrectable word of the descriptor in data memory is a load access fault at the descriptor's address, an address
outside data memory leaves mtval[22:8] at its distance from 0x0001_0000 modulo 2^15, and an ISSUE turned away for NB = 1 takes the 4 beats
of one that is not. DESIGN CHOICE: log entry 101. DEDUCED: log entry 65. -/
def Chip.issue (c : Chip) (k rd q : Nat) (nb : Bool) (addr : Word) : Chip :=
  let g := c.gal k
  let a := addr.toNat
  let d := descAt g.dmem a
  match issueReject c.epoch q a d with
  | some r => c.galTrap k 24 (BitVec.ofNat 32 (r + q % 8 * 16 + (a - 0x10000) % 2 ^ 15 * 128 * 2))
  | none =>
    if g.eccBad 0x2000000 a 32 then c.galTrap k 5 addr
    else
      let v := g.queue q
      if v.entries.length < queueDepth q then
        let idx := v.issued &&& 0x7FFFFFFF#32
        let e : QEntry := { desc := stampDesc c.epoch g.topRange d, index := idx, st := .waiting, since := 0, mask := 0 }
        let g := g.setQueue q { v with entries := v.entries ++ [e], issued := v.issued + 1 }
        c.setGal k (g.finish rd idx 4)
      else if nb then c.setGal k (g.finish rd 0xFFFFFFFF#32 4)
      else c.setGal k { g with waiting := some (.issue rd q addr), waitAt := c.act }

/-- FENCEQ (R64). Bits [31:5] of rs1, which must be 0, are not looked at. DESIGN CHOICE: log entry 101. -/
def Chip.fenceq (c : Chip) (k : Nat) (mask : Word) : Chip :=
  let g := c.gal k
  if g.drained mask.toNat then c.setGal k (g.retire 1)
  else c.setGal k { g with waiting := some (.fenceq (mask.toNat % 32)), waitAt := c.act }

/-- STEP retires (R71): the credit of the step before, whose counts restart (R193), GSTEP, the event, the charge. DEDUCED: log entry 70. -/
def Chip.stepRetire (c : Chip) (k : Nat) (n : Word) : Chip :=
  let c := c.stepCredit k
  let c := c.onGal k fun g => { (g.retire 2) with gstep := n, stepped := true, skip := [], gcred := [] }
  let c := c.stepCharge k n
  c.event (k / 104) (k % 104) 3 (c.gal k).topRange.toNat (n.toNat + c.epoch.toNat % 65536 * 2 ^ 32)

/-- Whether the gallery stands held (R71): STEP waits under a hold and no descriptor is in flight. -/
def Gallery.standsHeld (g : Gallery) : Bool :=
  match g.waiting with
  | some (.step _) => g.hold && g.drained 31
  | _ => false

/-- A gallery that comes to stand held has its step credited (R196). -/
def Chip.heldCredit (c : Chip) (k : Nat) : Chip := if (c.gal k).standsHeld then c.stepCredit k else c

/-- STEP (R71): under a step hold it waits for every queue and then stands held. -/
def Chip.step (c : Chip) (k : Nat) (n : Word) : Chip :=
  if (c.gal k).hold then (c.onGal k fun g => { g with waiting := some (.step n), waitAt := c.act }).heldCredit k
  else c.stepRetire k n

/-- A STEP that waits retires once no hold stands and its queues have drained (R71); not on a core that a parity error halted (R92). -/
def Chip.stepResume (c : Chip) (k : Nat) : Chip :=
  let g := c.gal k
  match g.waiting with
  | some (.step n) => if !g.hold && g.drained 31 && g.live && !g.dead then (c.setGal k (c.waited k)).stepRetire k n else c
  | _ => c

/-- EPOCH (R70). -/
def Chip.epochInstr (c : Chip) (k rd : Nat) : Chip := c.onGal k fun g => g.finish rd c.epoch 1

/-- Retention entry (R187): the domain goes to retention voltage. -/
def Chip.retainEnter (c : Chip) (k : Nat) : Chip :=
  let t := k / 104
  let p := k % 104
  let c := c.onGal k fun g => { g with dom := .retained, retnLast := true, retnSince := c.now }
  let c := (c.wrF (Reg.rctl t p) 3 1 1).wrF (Reg.dom t p) 12 3 2
  c.event t p 9 (c.gal k).topRange.toNat 1

/-- WAITC (R65, R187). Bits [31:6] of rs1, which must be 0, are not looked at, and an unmet WAITC with POLL = 1 takes 1 beat.
DESIGN CHOICE: log entry 101. -/
def Chip.waitc (c : Chip) (k rd : Nat) (poll : Bool) (ctr : Nat) (target : Word) : Chip :=
  let g := c.gal k
  let met := g.condMet ctr target
  if poll then c.setGal k (g.finish rd (if met then 1 else 0) 1)
  else if met then
    let g := if g.retnArm then { g with retnArm := false, retnLast := false } else g
    c.setGal k (g.finish rd (g.counter ctr) 1)
  else
    let g' := { g with waiting := some (.waitc rd ctr target), waitAt := c.act }
    if g.retnArm then
      let c := c.setGal k { g' with retnArm := false, retnLast := false }
      if g.drained 31 && !g.hold then c.retainEnter k else c
    else c.setGal k g'

/-- The illegal targets of R67. -/
def badSignal (set : Bool) (target : Nat) : Bool :=
  let remote := bitOf target 6
  (remote && decide (95 < field target 8 7)) || (set && remote) || decide (60 ≤ field target 0 6)
    || bitOf target 7 || decide (field target 15 17 ≠ 0)

/-- SIGC (R66, R67). -/
def Chip.sigc (c : Chip) (k : Nat) (set : Bool) (target val : Word) : Chip :=
  let g := c.gal k
  let x := target.toNat
  let ctr := field x 0 6
  if badSignal set x then c.galTrap k 27 target
  else if set then
    c.setGal k { (g.retire 1) with ctr := Store.put zeroWord g.ctr ctr val }
  else if !bitOf x 6 || field x 8 7 == g.lgal.toNat then
    c.setGal k ((g.addCtr ctr val).retire 1)
  else
    let c := c.setGal k (g.retire 2)
    { c with rsigs := c.rsigs ++ [{ src := k, dtower := k / 104, dgal := field x 8 7, ctr := ctr, val := val, epoch := c.epoch }] }

/-- MARK push (R69). -/
def Chip.markPush (c : Chip) (k rd : Nat) (id : Word) : Chip :=
  let g := c.gal k
  if 8 ≤ g.marks.length then c.galTrap k 26 1
  else c.setGal k { (g.finish rd (g.topRange.setWidth 32) 1) with marks := id.setWidth 16 :: g.marks }

/-- MARK pop (R69). -/
def Chip.markPop (c : Chip) (k rd : Nat) : Chip :=
  let g := c.gal k
  match g.marks with
  | [] => c.galTrap k 26 2
  | m :: ms => c.setGal k { (g.finish rd (m.setWidth 32) 1) with marks := ms }

/-- MRET (R90): TACT clears. -/
def Chip.galMret (c : Chip) (k : Nat) : Chip :=
  c.onGal k fun g => { g with hart := g.hart.mretTo, tact := false }

/-- A custom-0 or custom-1 word (R61, Table 3-4); none for an illegal encoding. -/
def Chip.galCustom (c : Chip) (k : Nat) (w : Word) : Option Chip :=
  let x := w.toNat
  let g := c.gal k
  let rd := field x 7 5
  let f3 := field x 12 3
  let rs1 := field x 15 5
  let rs2 := field x 20 5
  let f7 := field x 25 7
  let a := g.hart.get rs1
  let b := g.hart.get rs2
  if field x 0 7 = 0x0B then
    match f3 with
    | 0 => if rs2 = 0 ∧ field f7 3 3 = 0 then some (c.issue k rd (field f7 0 3) (bitOf f7 6) a) else none
    | 1 => if rs2 = 0 ∧ rd = 0 ∧ f7 = 0 then some (c.fenceq k a) else none
    | 2 => if rs2 = 0 ∧ rd = 0 ∧ f7 = 0 then some (c.step k a) else none
    | 3 => if rs2 = 0 ∧ rs1 = 0 ∧ f7 = 0 then some (c.epochInstr k rd) else none
    | _ => none
  else if field x 0 7 = 0x2B then
    match f3 with
    | 0 => if f7 ≤ 1 then some (c.waitc k rd (f7 == 1) (a.toNat % 64) b) else none
    | 1 => if f7 ≤ 1 ∧ rd = 0 then some (c.sigc k (f7 == 1) a b) else none
    | 2 =>
      if rs2 = 0 ∧ f7 = 0 then some (c.markPush k rd a)
      else if rs2 = 0 ∧ f7 = 1 ∧ rs1 = 0 then some (c.markPop k rd)
      else none
    | _ => none
  else none

/-- One instruction at pc of the scalar core (R57, R59, R61, R93). -/
def Chip.scalarInstr (c : Chip) (k : Nat) : Chip :=
  let g := c.gal k
  let h := g.hart
  match fetchRv g.fetchHalf h.pc.toNat with
  | .error (cause, tval) => c.galTrap k (BitVec.ofNat 32 cause) (BitVec.ofNat 32 tval)
  | .ok (len, i) =>
    let bits := Memory.num g.imem h.pc.toNat len
    let illegal := c.galTrap k 2 (BitVec.ofNat 32 bits)
    let next := h.pc + BitVec.ofNat 32 len
    match rvExec h i len with
    | .done h' => c.setGal k { (g.rngAdd g.topRange.toNat 0 (h'.mcycle - h.mcycle).toNat) with hart := h' }
    | .load b sg rd a =>
      match g.load b a.toNat with
      | .error cause => c.galTrap k (BitVec.ofNat 32 cause) a
      | .ok v =>
        let cost := g.accessBeats false a.toNat
        c.setGal k { (g.rngBeats cost) with hart := (h.set rd (loadExtend b sg v)).retire next cost }
    | .store b a v =>
      match g.store b a.toNat (v.toNat % 2 ^ (8 * b)) with
      | .error cause => c.galTrap k (BitVec.ofNat 32 cause) a
      | .ok g' =>
        let cost := g.accessBeats true a.toNat
        c.setGal k { (g'.rngBeats cost) with hart := h.retire next cost }
    | .csr op rd n v wr =>
      match g.csrRead k n with
      | none => illegal
      | some old =>
        if wr && decide (0xC00 ≤ n) then illegal
        else
          let g := { (g.rngBeats 1) with hart := (h.set rd old).retire next 1 }
          let g := if wr then g.csrWrite c.act n (csrNew op old v) else g
          c.setGal k g
    | .trap cause tval => c.galTrap k cause tval
    | .mret => c.galMret k
    | .custom w =>
      match c.galCustom k w with
      | some c' => c'
      | none => illegal

/-! ### The waits and the events that end them -/

/-- A waiting ISSUE copies its descriptor once the queue has room (R62). -/
def Chip.issueRoom (c : Chip) (k : Nat) : Chip :=
  match (c.gal k).waiting with
  | some (.issue rd q addr) =>
    if ((c.gal k).queue q).entries.length < queueDepth q then
      (c.setGal k { c.waited k with waiting := none }).issue k rd q false addr
    else c
  | _ => c

/-- A waiting FENCEQ retires when its queues have drained (R64); so does a STEP that waits for them (R71). -/
def Chip.fenceqDrained (c : Chip) (k : Nat) : Chip :=
  match (c.gal k).waiting with
  | some (.fenceq mask) => if (c.gal k).drained mask then c.setGal k ((c.waited k).retire 1) else c
  | some (.step _) => c.stepResume k
  | _ => c

/-- A waiting WAITC retires when its condition is met (R65); the domain must be up. -/
def Chip.waitcMet (c : Chip) (k : Nat) : Chip :=
  let g := c.gal k
  match g.waiting with
  | some (.waitc rd ctr target) =>
    if g.condMet ctr target && g.live then c.setGal k ((c.waited k).finish rd (g.counter ctr) 1) else c
  | _ => c

/-- GRETNS of a gallery at a time: what it held, and the ns at retention voltage since, of which the fall takes 0.40 µs (Table 7-4; at other
VSTEPs than N it is taken the same: DESIGN CHOICE, log entry 102). -/
def Gallery.retnNs (g : Gallery) (now : DWord) : Nat :=
  let n := (Store.get zeroWord g.skip 5).toNat
  if g.dom = .retained then min (n + ((now - g.retnSince).toNat - 400)) (2 ^ 32 - 1) else n

/-- The domain leaves retention (R189): pending sums are added, the domain rises to the VSTEP the usher holds for it (R190). -/
def Chip.retainLeave (c : Chip) (k cause : Nat) : Chip :=
  let g := c.gal k
  if g.dom = .retained then
    let g := { g with dom := .up,
                      skip := Store.put zeroWord g.skip 5 (BitVec.ofNat 32 (g.retnNs c.now)),
                      ctr := g.pend.foldl (fun m e => Store.put zeroWord m e.1 (Store.get zeroWord m e.1 + e.2)) g.ctr,
                      pend := [] }
    let c := (c.setGal k g).wrF (Reg.rctl (k / 104) (k % 104)) 3 1 0
    let c := (c.setDomSt k (if c.fenced k then 4 else 1)).domsRun [k]
    c.event (k / 104) (k % 104) 9 g.topRange.toNat (cause * 256)
  else c

/-- The wait-timeout exception (R88): WAITC, ISSUE or FENCEQ has waited longer than GWAITLIM. A condition that holds counts as met (R65). -/
def Chip.waitTimeout (c : Chip) (k : Nat) : Chip :=
  let g := c.gal k
  if !c.pastLimit k g.waitAt then c
  else
    match g.waiting with
    | some (.waitc _ ctr target) =>
      if g.condMet ctr target then c.waitcMet k else c.galTrap k 25 (BitVec.ofNat 32 (ctr * 256))
    | some (.issue _ q _) =>
      if (g.queue q).entries.length < queueDepth q then c else c.galTrap k 25 (BitVec.ofNat 32 (1 + q * 256))
    | some (.fenceq mask) => if g.drained mask then c else c.galTrap k 25 2
    | _ => c

/-- A debug scan raises a retained gallery first (R189). -/
def Chip.scanRaise (c : Chip) (k : Nat) : Chip := if (c.gal k).dom = .retained then c.retainLeave k 4 else c

/-- A wake cause of R189 raises a retained gallery and resumes its WAITC; a wait limit that expired
raises the exception of R88. -/
def Chip.retentionWake (c : Chip) (k cause : Nat) : Chip :=
  if (c.gal k).dom = .retained then
    let c := c.retainLeave k cause
    match (if (c.gal k).dead then none else (c.gal k).waiting) with
    | some (.waitc _ ctr target) =>
      if (c.gal k).condMet ctr target then c.waitcMet k
      else if cause = 5 then c.waitTimeout k else c
    | _ => c
  else c

/-- The usher sets a step hold (R71): a retained gallery rises (R189). -/
def Chip.holdGal (c : Chip) (k : Nat) : Chip :=
  ((c.retentionWake k 3).onGal k fun g => { g with hold := true }).heldCredit k

/-- The usher releases a step hold: a STEP that stands held retires (R71). -/
def Chip.holdRelease (c : Chip) (k : Nat) : Chip := (c.onGal k fun g => { g with hold := false }).stepResume k

/-- The position of key k is a fallback row of its column's map (R199): its traffic goes to the fallback
stage's shadow (R222). -/
def Chip.isFallback (c : Chip) (k : Nat) : Bool :=
  let p := k % 104
  c.rdF (Reg.gmap (k / 104)) (8 * (p / 13) + 4) 4 == p % 13

/-- The L port of the gallery takes traffic: not fenced, switched on, and its stage loaded (R220, R221); a
fallback position takes it in its shadow (R222). -/
def Chip.lOpen (c : Chip) (k : Nat) : Bool :=
  (c.isFallback k || (!c.fenced k && (c.gal k).dom != .off)) && (c.gal k).stage != 0

/-- An item with these epoch bits is from another epoch, or comes while the epoch word stands at MOVING or
LOADING (R307). -/
def Chip.stale (c : Chip) (e24 : Nat) : Bool :=
  e24 != c.epoch.toNat % 2 ^ 24 || c.epochState == 3 || c.epochState == 4

/-- A gallery receives the oldest remote signal from `src` to it (R67, R68, R220, R307). -/
def Chip.rsigReceive (c : Chip) (src dst : Nat) : Chip :=
  let hit (s : RSig) : Bool := s.src == src && c.logKey s.dtower s.dgal == dst
  match c.rsigs.find? hit with
  | none => c
  | some s =>
    let c := { c with rsigs := c.rsigs.eraseP hit }
    if c.lOpen dst then
      if !c.stale (s.epoch.toNat % 2 ^ 24) then c.onGal dst fun g => g.addCtr s.ctr s.val
      else c.bump Reg.epcnt 0 32 1
    else c.bump (Reg.rctl (dst / 104) (dst % 104)) 32 32 1

/-- The usher writes the mailbox half of step n and counts it in CTR[63] (R94): once for each step, step 0's before any STEP has retired,
a later step's only after the step before it has. -/
def Chip.mailboxWrite (c : Chip) (k : Nat) (n : Word) (data : List Byte) : Chip :=
  let g := c.gal k
  if data.length ≤ 2048 && g.counter 63 + Store.get zeroWord g.pend 63 == n && (if n = 0 then !g.stepped else g.stepped && g.gstep + 1 == n) then
    (c.retentionWake k 3).onGal k fun g =>
      { g with dmem := Memory.setBytes g.dmem (0x17000 + n.toNat % 2 * 0x800) data }.addCtr 63 1
  else c

/-- A core parity error (R92): the core, or the queue that holds the bad entry, halts without the handler, and the usher is told of a
machine check. -/
def Chip.parityError (c : Chip) (k : Nat) (q : Option QueueId) : Chip :=
  match q with
  | none => (c.onGal k fun g => { g.haltAt c.act with dead := true }).report (.machineCheck k true 0)
  | some q => (c.onGal k fun g => g.setQueue (queueNum q) { g.queue (queueNum q) with halted := true }).report (.machineCheck k false (queueNum q))

end Sys2Proof.Machine
end

