-- ==== Sys2Proof/Machine/Operands.lean ====
section
/-! DEFINITION. Operands in the scratchpad: bytes with their error marks (R83, R86), packed elements
(R135), block scales, and the descriptor fields that name them. -/

namespace Sys2Proof.Machine

/-- Bytes of the scratchpad (R83). -/
def spadSize : Nat := 0x400000

/-- Whether a scratchpad word that overlaps `n` bytes at `a` is marked uncorrectable (R86). DESIGN CHOICE: log entry 77. -/
def Gallery.spadBad (g : Gallery) (a n : Nat) : Bool :=
  g.ecc.any fun e => e.2 && decide (e.1 < spadSize) && decide (a < e.1 + 4) && decide (e.1 < a + n)

/-- Write bytes to the scratchpad; a word written whole is no longer marked. -/
def Gallery.spadWrite (g : Gallery) (a : Nat) (bs : List Byte) : Gallery :=
  { g with spad := Memory.setBytes g.spad a bs,
           ecc := g.ecc.filter fun e => !(decide (a ≤ e.1) && decide (e.1 + 4 ≤ a + bs.length)) }

/-- Status of a read of `n` scratchpad bytes at `a`: 0x10 beyond 4 MiB, 0x02 uncorrectable. -/
def Gallery.spadReadStat (g : Gallery) (a n : Nat) : Nat :=
  if n ≠ 0 ∧ spadSize < a + n then 0x10 else if g.spadBad a n then 0x02 else 0

/-- Status of a write of `n` scratchpad bytes at `a`. -/
def spadWriteStat (a n : Nat) : Nat := if n ≠ 0 ∧ spadSize < a + n then 0x10 else 0

/-- Element `i` of `bits` bits each, packed little-endian from byte `base` (R135). -/
def elemAt (m : Store Byte) (base bits i : Nat) : Nat :=
  field (Memory.num m (base + i * bits / 8) (if bits ≤ 8 then 2 else bits / 8)) (i * bits % 8) bits

/-- Bytes of a row of n elements of `bits` bits. -/
def packBytes (bits n : Nat) : Nat := (n * bits + 7) / 8

/-- Element codes packed little-endian into bytes (R135). -/
def packElems (bits : Nat) (codes : List Nat) : List Byte :=
  leBytes (packBytes bits codes.length) (codes.foldr (fun c acc => c % 2 ^ bits + 2 ^ bits * acc) 0)

/-- A count rounded up to a multiple of m. -/
def roundUp (m n : Nat) : Nat := (n + m - 1) / m * m

/-- A stride field in units of 128 bytes; 0 means the row's byte count rounded up to 128 (Table 4-5). -/
def strideOf (s rowBytes : Nat) : Nat := if s = 0 then roundUp 128 rowBytes else s * 128

/-- Add to a skip counter (R193), saturating; the counters freeze while the gallery is stopped, held or
retained, where nothing runs that could call this. -/
def Gallery.skipAdd (g : Gallery) (i n : Nat) : Gallery :=
  { g with skip := Store.put zeroWord g.skip i (BitVec.ofNat 32 (satAdd 32 (Store.get zeroWord g.skip i).toNat n)) }

/-- The key of a row's stochastic draws (R141): queue number and bits [23:0] of the current epoch. -/
def srC3 (q : Nat) (epoch : Word) : Nat := q * 2 ^ 24 + epoch.toNat % 2 ^ 24

/-- The rounding of element n of output row j under RND (R139, R141). -/
def Gallery.rounding (g : Gallery) (rnd : Bool) (c3 issue j n : Nat) : Rounding :=
  if rnd then .stochastic (srDraw g.srkey0.toNat g.srkey1.toNat j n issue c3) else .nearestEven

/-- RANGE of a descriptor header (Table 3-7). -/
def descRange (d : Desc) : Nat := field d.toNat 24 16

/-- Replace a queue entry: the one with this issue index. -/
def Gallery.setEntry (g : Gallery) (q : Nat) (e : QEntry) : Gallery :=
  let v := g.queue q
  g.setQueue q { v with entries := v.entries.map fun x => if x.index == e.index then e else x }

/-- The first started and unfinished entry of a queue with an opcode that `p` takes. DEDUCED: log entry 72. -/
def Gallery.runningEntry (g : Gallery) (q : Nat) (p : Nat → Bool) : Option QEntry :=
  (g.queue q).entries.find? fun e => e.st == .running && p (descOpc e.desc)

/-- The entries of a queue that were issued before the one with this index. -/
def Gallery.earlier (g : Gallery) (q : Nat) (index : Word) : List QEntry :=
  (g.queue q).entries.takeWhile fun e => e.index != index

end Sys2Proof.Machine
end

