-- ==== Sys2Proof/Machine/Matrix.lean ====
section
/-! DEFINITION. The matrix core (R97 to R128): packed tiles, the array's arithmetic, streams, K-loops,
flushes through output profiles, save and restore, and stopping. -/

namespace Sys2Proof.Machine

/-! ### Formats and tiles (Tables 4-1 to 4-4) -/

/-- The class of a matrix format code: 8, 4 or 16 bits; 0 for a code that is no operand. -/
def mxClass (f : Nat) : Nat :=
  if f ≤ 7 then 8 else if f ≤ 10 then 4 else if f ≤ 12 then 16 else 0

/-- Whether a format code is an integer format (Table 4-1). -/
def mxInt (f : Nat) : Bool := f == 6 || f == 7 || f == 10

/-- Whether a format code may name an output format (Table 4-1). -/
def mxOut (f : Nat) : Bool := [0, 1, 7, 11, 12, 13].contains f

/-- R101: streamed and tile format share a class, and both or neither are integer. -/
def mxPairOk (af wf : Nat) : Bool := mxClass af == mxClass wf && mxInt af == mxInt wf

/-- Physical K-rows of a tile (Table 4-2). -/
def mxPhys (wf : Nat) : Nat := if mxClass wf = 4 then 256 else 128

/-- Logical K of a tile (Table 4-2). -/
def mxLogical (wf : Nat) (sp24 : Bool) : Nat := mxPhys wf * (if sp24 then 2 else 1)

/-- Element bytes of a packed tile (Table 4-3). -/
def tileElemBytes (wf : Nat) : Nat := mxPhys wf * 128 * (Fmt.ofCode wf).bits / 8

/-- Index bytes of a packed tile (Table 4-3). -/
def tileIndexBytes (wf : Nat) (sp24 : Bool) : Nat := if sp24 then mxPhys wf * 32 else 0

/-- Scale bytes of a packed tile (Table 4-3). -/
def tileScaleBytes (wf : Nat) (sp24 : Bool) : Nat :=
  let b := (Fmt.ofCode wf).block
  if b = 0 then 0 else mxLogical wf sp24 / b * 128

/-- Bytes of a packed tile (R103). -/
def tileBytes (wf : Nat) (sp24 : Bool) : Nat :=
  tileElemBytes wf + tileIndexBytes wf sp24 + tileScaleBytes wf sp24

/-- Bytes of a streamed row (Table 4-4). -/
def rowBytes (af : Nat) (sp24 : Bool) : Nat := mxLogical af sp24 * (Fmt.ofCode af).bits / 8

/-- Scale bytes of a streamed row (Table 4-4). -/
def rowScaleBytes (af : Nat) (sp24 : Bool) : Nat :=
  let b := (Fmt.ofCode af).block
  if b = 0 then 0 else mxLogical af sp24 / b

/-! ### The array (R97, R109, R135, R136) -/

/-- The logical K index of stored element p of column n (R102, R135). -/
def Tile.logicalK (t : Tile) (p n : Nat) : Nat :=
  if t.sp24 then 4 * (p / 2) + field (Memory.byte t.cells (tileElemBytes t.fmt + 32 * p + n / 4)).toNat (2 * (n % 4)) 2
  else p

/-- The weight stored at K-row p of column n. -/
def Tile.weight (t : Tile) (p n : Nat) : FVal :=
  (Fmt.ofCode t.fmt).value (elemAt t.cells 0 (Fmt.ofCode t.fmt).bits (p * 128 + n))

/-- The weight scale that covers logical K index k of column n; 1 without scales (R101, R134). -/
def Tile.scale (t : Tile) (k n : Nat) : FVal :=
  let f := Fmt.ofCode t.fmt
  if f.block = 0 then .fin false 1 0
  else f.scaleValue (Memory.byte t.cells (tileElemBytes t.fmt + tileIndexBytes t.fmt t.sp24 + 128 * (k / f.block) + n)).toNat

/-- A streamed row: its format, and where its elements and scales lie. -/
structure RowAt where
  fmt : Nat
  addr : Nat
  scales : Nat
  deriving DecidableEq, Repr

/-- Activation element k of a row. -/
def RowAt.elem (r : RowAt) (m : Store Byte) (k : Nat) : FVal :=
  (Fmt.ofCode r.fmt).value (elemAt m r.addr (Fmt.ofCode r.fmt).bits k)

/-- The block scale that covers element k of a row; 1 without scales. -/
def RowAt.scale (r : RowAt) (m : Store Byte) (k : Nat) : FVal :=
  let f := Fmt.ofCode r.fmt
  if f.block = 0 then .fin false 1 0 else f.scaleValue (Memory.byte m (r.scales + k / f.block)).toNat

/-- The exact sum of the products whose K-rows are p, p + 1, and so on for `n`; an empty sum is +0. -/
def mxSum (term : Nat → FVal) (p : Nat) : Nat → FVal
  | 0 => .fin false 0 0
  | n + 1 => FVal.add (term p) (mxSum term (p + 1) n)

/-- The float pass over the alignment units b, b + 1, and so on (R136): one rounding per unit. -/
def mxFloat (blk : Nat → FVal) (scale : Nat → FVal) (b : Nat) (p : Word) : Nat → Word
  | 0 => p
  | n + 1 => mxFloat blk scale (b + 1) (FVal.rne32 (FVal.add (fp32 p) (FVal.mul (blk b) (scale b)))) n

/-- Output column n of a streamed row through a tile, before accumulation (R136). -/
def mxPass (t : Tile) (r : RowAt) (m : Store Byte) (n : Nat) : Word :=
  let kl := mxLogical t.fmt t.sp24
  let prod (p : Nat) : FVal := FVal.mul (r.elem m (t.logicalK p n)) (t.weight p n)
  if mxInt t.fmt then
    let term (p : Nat) : FVal :=
      FVal.mul (prod p) (FVal.mul (r.scale m (t.logicalK p n)) (t.scale (t.logicalK p n) n))
    FVal.rne32 (mxSum term 0 (mxPhys t.fmt))
  else
    let u := if r.fmt = 9 ∨ t.fmt = 9 then 16 else 32
    let per := if t.sp24 then u / 2 else u
    mxFloat (fun b => mxSum prod (b * per) per) (fun b => FVal.mul (r.scale m (b * u)) (t.scale (b * u) n)) 0 0 (kl / u)

/-- The sum a row adds for column n: +0.0 in a gated group (R109). -/
def mxColumn (t : Tile) (r : RowAt) (m : Store Byte) (n : Nat) : Word :=
  if bitOf t.cg.toNat (n / 16) then mxPass t r m n else 0

/-- out = ACC ? rne32(window + p) : p (R110, R136). A gated group leaves the window as it is with ACC. -/
def mxAccum (t : Tile) (acc : Bool) (w p : Word) (n : Nat) : Word :=
  if acc then
    if bitOf t.cg.toNat (n / 16) then FVal.rne32 (FVal.add (fp32 w) (fp32 p)) else w
  else p

/-! ### The window (R99) -/

/-- Window word (buf, row, n); row counts on into BUF 1 under JOIN (R110). -/
def winKey (buf row n : Nat) : Nat := buf * 131072 + row * 128 + n

/-- The 128 words of a window row. -/
def MxCore.row (x : MxCore) (buf row : Nat) : List Word :=
  (List.range 128).map fun n => Store.get zeroWord x.window (winKey buf row n)

/-- Whether a word of the row has bad parity. -/
def MxCore.rowBad (x : MxCore) (buf row : Nat) : Bool :=
  x.wbad.any fun e => e.2 && decide (winKey buf row 0 ≤ e.1) && decide (e.1 < winKey buf row 128)

/-- Write a window row; its parity is good again. -/
def MxCore.setRow (x : MxCore) (buf row : Nat) (ws : List Word) : MxCore :=
  { x with window := ws.zipIdx.foldl (fun m p => Store.put zeroWord m (winKey buf row p.2) p.1) x.window,
           wbad := Store.clear x.wbad (winKey buf row 0) 128 }

/-- A row of +0.0. -/
def zeroRow : List Word := (List.range 128).map fun _ => 0

/-! ### Output profiles (R118) -/

/-- An output profile with its column vectors, as a flush or MX.STREAMW reads them at its start. -/
structure Profile where
  ofmt : Nat
  rnd : Bool
  ovf : Bool
  ftz : Bool
  scale : Word
  cs : Option (List Word)
  cb : Option (List Word)
  deriving DecidableEq, Repr

/-- The stored bytes of profile i. -/
def MxCore.prof (x : MxCore) (i : Nat) : BitVec 128 :=
  match i with
  | 0 => x.prof0 | 1 => x.prof1 | 2 => x.prof2 | _ => x.prof3

/-- Set profile i. -/
def MxCore.setProf (x : MxCore) (i : Nat) (v : BitVec 128) : MxCore :=
  match i with
  | 0 => { x with prof0 := v } | 1 => { x with prof1 := v } | 2 => { x with prof2 := v } | _ => { x with prof3 := v }

/-- The FP32 column vector at a scratchpad address. -/
def Gallery.columnVec (g : Gallery) (a : Nat) : List Word :=
  (List.range 128).map fun n => BitVec.ofNat 32 (Memory.num g.spad (a + 4 * n) 4)

/-- Profile i with its column vectors read; a status where they cannot be read. -/
def Gallery.profile (g : Gallery) (i : Nat) : Except Nat Profile :=
  let v := (g.mx.prof i).toNat
  let cse := bitOf v 11
  let cbe := bitOf v 12
  let csa := field v 64 22
  let cba := field v 96 22
  let st := if cse then g.spadReadStat csa 512 else 0
  let st := if st ≠ 0 then st else if cbe then g.spadReadStat cba 512 else 0
  if st ≠ 0 then .error st
  else .ok { ofmt := field v 4 4, rnd := bitOf v 8, ovf := bitOf v 9, ftz := bitOf v 10, scale := BitVec.ofNat 32 (field v 32 32),
             cs := if cse then some (g.columnVec csa) else none, cb := if cbe then some (g.columnVec cba) else none }

/-- The scaled and biased value of column n before conversion (R118). -/
def Profile.value (p : Profile) (w : Word) (n : Nat) : Word :=
  let v := fMul w p.scale
  let v := match p.cs with | some l => fMul v (listGet 0 l n) | none => v
  match p.cb with | some l => fAdd v (listGet 0 l n) | none => v

/-- Output bytes per element. -/
def Profile.bytes (p : Profile) : Nat := (Fmt.ofCode p.ofmt).bits / 8

/-- Row j of a descriptor converted through a profile (R118, R138, R141). -/
def Gallery.convertRow (g : Gallery) (p : Profile) (c3 issue j : Nat) (ws : List Word) : List Byte :=
  ws.zipIdx.flatMap fun e =>
    leBytes p.bytes ((Fmt.ofCode p.ofmt).convert (g.rounding p.rnd c3 issue j e.2) p.ovf p.ftz (p.value e.1 e.2))

/-! ### Body checks (R122) -/

/-- R128, R122: the checks of the format and address of a tile. -/
def tileFieldsBad (d : Desc) : Bool :=
  descF d 8 0 7 != 0 || mxClass (descF d 8 22 4) == 0 || descF d 8 27 5 != 0
    || (bitOf (descF d 8 26 1) 0 && mxClass (descF d 8 22 4) == 16)

/-- Bad fields shared by the streaming descriptors (Tables 4-7, 4-8). -/
def streamFieldsBad (d : Desc) : Bool :=
  let af := descF d 8 22 4
  descF d 8 0 7 != 0 || mxClass af == 0 || descF d 12 0 16 == 0 || descF d 12 31 1 != 0
    || (if (Fmt.ofCode af).block = 0 then descF d 16 0 22 != 0 else descF d 16 0 4 != 0)
    || descF d 28 16 16 != 0 || decide (descF d 12 0 16 ≤ descF d 28 0 16)

/-- Bad row-mask fields. -/
def rmaskBad (d : Desc) : Bool :=
  if descF d 8 29 1 = 1 then descF d 20 0 2 != 0 else descF d 20 0 22 != 0

/-- The checks of an MX body that can be made when the descriptor starts (R122): true is status 0x01. An MX.KLOOP whose TCUR is KT or more,
which the rule's list does not name, is one. DESIGN CHOICE: log entry 104. -/
def mxBodyBad (d : Desc) : Bool :=
  match descOpc d with
  | 0x10 => tileFieldsBad d || descF d 12 8 24 != 0 || descF d 16 0 32 != 0 || descF d 20 0 32 != 0
      || descF d 24 0 32 != 0 || descF d 28 0 32 != 0
  | 0x11 => streamFieldsBad d || descF d 8 30 2 != 0 || rmaskBad d || descF d 20 22 10 != 0 || descF d 24 0 32 != 0
      || (descF d 8 28 1 == 1 && descF d 8 27 1 == 1)
      || decide ((if descF d 8 28 1 = 1 then 2048 else 1024) < descF d 16 22 10 + descF d 12 0 16)
  | 0x12 => streamFieldsBad d || descF d 8 29 3 != 0 || descF d 20 0 2 != 0 || descF d 20 22 10 != 0 || descF d 24 0 32 != 0
      || (descF d 8 28 1 == 1 && descF d 8 27 1 == 1)
      || decide ((if descF d 8 28 1 = 1 then 2048 else 1024) < descF d 16 22 10 + descF d 12 0 16)
  | 0x13 => streamFieldsBad d || descF d 8 28 1 != 0 || rmaskBad d || descF d 24 0 7 != 0 || descF d 24 22 10 != 0
      || (if descF d 8 26 1 = 1 then decide (1024 < descF d 16 22 10 + descF d 12 0 16)
          else descF d 8 27 1 != 0 || descF d 16 22 10 != 0)
  | 0x14 =>
      let af := descF d 12 22 4
      let m := descF d 16 0 16
      let kt := descF d 20 16 7
      tileFieldsBad d || descF d 12 0 7 != 0 || mxClass af == 0 || !mxPairOk af (descF d 8 22 4)
      || descF d 12 29 3 != 0 || m == 0 || descF d 16 31 1 != 0 || descF d 20 15 1 != 0 || descF d 20 23 1 != 0
      || kt == 0 || decide (64 < kt + descF d 28 24 6) || decide (kt ≤ descF d 28 16 7) || decide (m ≤ descF d 28 0 16)
      || descF d 28 23 1 != 0 || descF d 28 30 2 != 0
      || (if (Fmt.ofCode af).block = 0 then descF d 24 0 22 != 0 else descF d 24 0 4 != 0)
      || (descF d 12 28 1 == 1 && descF d 12 27 1 == 1)
      || decide ((if descF d 12 28 1 = 1 then 2048 else 1024) < descF d 24 22 10 + m)
  | 0x15 => descF d 8 0 7 != 0 || descF d 8 26 6 != 0 || descF d 12 10 6 != 0 || descF d 12 27 5 != 0
      || descF d 12 16 11 == 0 || decide (1024 < descF d 12 0 10 + descF d 12 16 11) || descF d 16 15 17 != 0
      || descF d 20 0 32 != 0 || descF d 24 0 32 != 0 || descF d 28 11 21 != 0 || decide (descF d 12 16 11 ≤ descF d 28 0 11)
  | 0x16 => descF d 8 2 2 != 0 || !mxOut (descF d 8 4 4) || (descF d 8 4 4 == 7 && descF d 8 9 1 == 1)
      || descF d 8 13 19 != 0
      || (match fp32 (BitVec.ofNat 32 (descF d 12 0 32)) with | .fin _ _ _ => false | _ => true)
      || (if descF d 8 11 1 = 1 then descF d 16 0 7 != 0 else descF d 16 0 22 != 0) || descF d 16 22 10 != 0
      || (if descF d 8 12 1 = 1 then descF d 20 0 7 != 0 else descF d 20 0 22 != 0) || descF d 20 22 10 != 0
      || descF d 24 0 32 != 0 || descF d 28 0 32 != 0
  | 0x17 => descF d 8 0 7 != 0 || descF d 8 22 2 != 0 || descF d 8 28 4 != 0
      || descF d 12 11 5 != 0 || descF d 12 27 5 != 0
      || (if descF d 8 24 1 = 1 then descF d 12 0 11 == 0 || decide (1024 < descF d 12 0 11) else descF d 12 0 11 != 0)
      || (if descF d 8 25 1 = 1 then descF d 12 16 11 == 0 || decide (1024 < descF d 12 16 11) else descF d 12 16 11 != 0)
      || descF d 16 0 32 != 0 || descF d 20 0 32 != 0 || descF d 24 0 32 != 0 || descF d 28 0 32 != 0
  | 0x18 => descF d 8 0 7 != 0 || descF d 8 22 10 != 0 || descF d 12 0 32 != 0
      || descF d 16 0 32 != 0 || descF d 20 0 32 != 0 || descF d 24 0 32 != 0 || descF d 28 0 32 != 0
  | _ => true

/-! ### Running descriptors -/

/-- Where a descriptor ends: done, on a fault at a tile and row, or stopped before a tile and row. -/
inductive MxEnd where
  | done
  | fault (status tile row : Nat)
  | stopAt (tile row : Nat)
  deriving DecidableEq, Repr

/-- How far a stopped descriptor got: the tile in progress, the next row, and whether the stop came during
the tile's load (R125). -/
structure MxLimit where
  tile : Nat
  row : Nat
  inLoad : Bool
  deriving DecidableEq, Repr

/-- Latch a packed tile (R108) in 128 beats, charged to range id `rid` (R554). A fault leaves no valid tile. While the core is stopped the
tile that was valid is displaced (R126); DISPL is set where none was valid too. DESIGN CHOICE: log entry 119. -/
def Gallery.loadTile (g : Gallery) (rid : Nat) (r : TileRec) : Gallery × Nat :=
  let n := tileBytes r.fmt r.sp24
  let st := g.spadReadStat r.src n
  let g := { g with mx := { g.mx with lastSrc := r.src, displ := g.mx.displ || g.mx.stopped } }
  if st ≠ 0 then ({ g with mx := { g.mx with tile := none } }, st)
  else
    let cells := Memory.copy g.spad r.src [] 0 n
    let g := g.rngAdd rid 3 128
    ({ g with mx := { g.mx with tile := some { r with cells := cells } } }, 0)

/-- Run rows i, i + 1, and so on for `n`, to the first fault: its row and status. -/
def mxRows (f : Nat → Gallery → Except Nat Gallery) (i : Nat) (g : Gallery) : Nat → Gallery × Option (Nat × Nat)
  | 0 => (g, none)
  | n + 1 =>
    match f i g with
    | .error st => (g, some (i, st))
    | .ok g' => mxRows f (i + 1) g' n

/-- The fields a streaming row needs, whatever descriptor names them. -/
structure StreamCfg where
  af : Nat
  aaddr : Nat
  astride : Nat
  acc : Bool
  buf : Nat
  wrow : Nat
  rmask : Option Nat
  index : Option Nat
  scaleBase : Nat
  scaleStep : Nat
  range : Nat
  out : Option (Profile × Nat × Nat)
  deriving DecidableEq, Repr

/-- Whether row i is skipped (R112, R113), or the status of reading that; with an index list, which row
the activations come from. -/
def Gallery.rowSource (g : Gallery) (s : StreamCfg) (i : Nat) : Except Nat (Option Nat) :=
  match s.rmask, s.index with
  | some a, _ =>
    let st := g.spadReadStat (a + i / 8) 1
    if st ≠ 0 then .error st
    else if bitOf (Memory.byte g.spad (a + i / 8)).toNat (i % 8) then .ok none else .ok (some i)
  | none, some a =>
    let st := g.spadReadStat (a + 2 * i) 2
    if st ≠ 0 then .error st
    else
      let v := Memory.num g.spad (a + 2 * i) 2
      if v = 0xFFFF then .ok none else .ok (some v)
  | none, none => .ok (some i)

/-- One streamed row through the loaded tile (R110 to R114): `issue` and `c3` are the coordinates of
stochastic draws. -/
def Gallery.streamRow (t : Tile) (s : StreamCfg) (issue c3 i : Nat) (g : Gallery) : Except Nat Gallery :=
  match g.rowSource s i with
  | .error st => .error st
  | .ok none =>
    let g := g.skipAdd 0 1
    .ok (if s.out.isNone && !s.acc then { g with mx := g.mx.setRow s.buf (s.wrow + i) zeroRow } else g)
  | .ok (some v) =>
    let a := s.aaddr + v * s.astride
    let n := rowBytes s.af t.sp24
    let ns := rowScaleBytes s.af t.sp24
    let sa := s.scaleBase + v * s.scaleStep
    let beyond := if s.index.isSome then 0x11 else 0x10
    if spadSize < a + n ∨ (ns ≠ 0 ∧ spadSize < sa + ns) then .error beyond
    else if g.spadBad a n || (ns != 0 && g.spadBad sa ns) then .error 0x02
    else if s.acc && g.mx.rowBad s.buf (s.wrow + i) then .error 0x14
    else
      let r : RowAt := ⟨s.af, a, sa⟩
      let old := g.mx.row s.buf (s.wrow + i)
      let ws := old.zipIdx.map fun e => mxAccum t s.acc e.1 (mxColumn t r g.spad e.2) e.2
      let gated := (List.range 8).countP fun q => !bitOf t.cg.toNat q
      let g := g.rngAdd s.range 2 1
      let g := if gated = 0 then g else g.skipAdd 3 (gated * (if mxClass t.fmt = 16 then 4 else 1))
      match s.out with
      | none => .ok { g with mx := g.mx.setRow s.buf (s.wrow + i) ws }
      | some (p, oaddr, ostride) =>
        let o := oaddr + i * ostride
        if spadSize < o + 128 * p.bytes then .error 0x10
        else .ok (g.spadWrite o (g.convertRow p c3 issue i ws))

/-- The streaming fields of MX.STREAM, MX.STREAMG and MX.STREAMW. -/
def streamCfg (d : Desc) (sp24 : Bool) (out : Option (Profile × Nat × Nat)) : StreamCfg :=
  let af := descF d 8 22 4
  let opc := descOpc d
  { af := af, aaddr := descF d 8 0 22, astride := strideOf (descF d 12 16 15) (rowBytes af sp24),
    acc := descF d 8 26 1 == 1, buf := descF d 8 27 1, wrow := descF d 16 22 10,
    rmask := if opc ≠ 0x12 ∧ descF d 8 29 1 = 1 then some (descF d 20 0 22) else none,
    index := if opc = 0x12 then some (descF d 20 0 22) else none,
    scaleBase := descF d 16 0 22, scaleStep := rowScaleBytes af sp24,
    range := descRange d, out := out }

/-- The end of rows from..to of a tile, as a descriptor's end. -/
def rowsEnd (tile : Nat) (limit : Option MxLimit) (m : Nat) (r : Option (Nat × Nat)) : MxEnd :=
  match r with
  | some (row, st) => .fault st tile row
  | none =>
    match limit with
    | some l => if l.row < m then .stopAt tile l.row else .done
    | none => .done

/-- MX.STREAM, MX.STREAMG and MX.STREAMW from RESUME on (R110 to R114, R121). A resumed MX.STREAMW reads its profile and column vectors
again. DESIGN CHOICE: log entry 119. -/
def Gallery.mxStream (g : Gallery) (d : Desc) (issue c3 : Nat) (limit : Option MxLimit) : Gallery × MxEnd :=
  match g.mx.tile with
  | none => (g, .fault 0x12 0 0)
  | some t =>
    if !mxPairOk (descF d 8 22 4) t.fmt then (g, .fault 0x13 0 0)
    else
      let m := descF d 12 0 16
      let from_ := descF d 28 0 16
      let upTo := match limit with | some l => min l.row m | none => m
      let go (out : Option (Profile × Nat × Nat)) : Gallery × MxEnd :=
        let r := mxRows (Gallery.streamRow t (streamCfg d t.sp24 out) issue c3) from_ g (upTo - from_)
        (r.1, rowsEnd 0 limit m r.2)
      if descOpc d = 0x13 then
        match g.profile (descF d 8 30 2) with
        | .error st => (g, .fault st 0 from_)
        | .ok p => go (some (p, descF d 24 0 22, strideOf (descF d 20 22 10) (128 * p.bytes)))
      else go none

/-- The tile bitmap of a tile run (R104). -/
def Gallery.tileMap (g : Gallery) (waddr : Nat) : Nat := Memory.num g.spad waddr 8

/-- Present tiles of a run below tile t. -/
def tilesBelow (map t : Nat) : Nat := (List.range t).countP fun i => bitOf map i

/-- The streaming fields of MX.KLOOP for relative tile k (R115). -/
def kloopCfg (d : Desc) (k : Nat) (acc : Bool) : StreamCfg :=
  let af := descF d 12 22 4
  let sp24 := descF d 8 26 1 == 1
  let s := rowScaleBytes af sp24
  { af := af, aaddr := descF d 12 0 22 + k * descF d 20 0 15 * 128,
    astride := strideOf (descF d 16 16 15) (rowBytes af sp24), acc := acc, buf := descF d 12 27 1,
    wrow := descF d 24 22 10, rmask := none, index := none,
    scaleBase := descF d 24 0 22 + k * s, scaleStep := descF d 20 16 7 * s,
    range := descRange d, out := none }

/-- The record of relative tile k of an MX.KLOOP: an equivalent MX.LOAD (R115, Table 4-12). -/
def kloopTile (d : Desc) (map k : Nat) : TileRec :=
  let wf := descF d 8 22 4
  let sp24 := descF d 8 26 1 == 1
  { fmt := wf, sp24 := sp24, cg := BitVec.ofNat 8 (descF d 20 24 8),
    src := descF d 8 0 22 + 128 + tilesBelow map (descF d 28 24 6 + k) * tileBytes wf sp24 }

/-- Relative tiles k, k + 1, and so on for `n` of an MX.KLOOP (R115). `row` is the first row of the first
one, `latched` says that its tile is already in the array, `first` that no present tile came before it. -/
def Gallery.kloopTiles (d : Desc) (map issue c3 : Nat) (limit : Option MxLimit) (k row : Nat) (latched first : Bool)
    (g : Gallery) : Nat → Gallery × MxEnd
  | 0 =>
    let m := descF d 16 0 16
    if first && descF d 12 26 1 == 0 then
      (((List.range m).foldl (fun g i => { g with mx := g.mx.setRow (descF d 12 27 1) (descF d 24 22 10 + i) zeroRow }) g), .done)
    else (g, .done)
  | n + 1 =>
    let m := descF d 16 0 16
    if bitOf map (descF d 28 24 6 + k) then
      let stopHere := match limit with | some l => l.tile == k | none => false
      let inLoad := match limit with | some l => decide (l.tile < k) || (l.tile == k && l.inLoad) | none => false
      if inLoad then ({ g with mx := { g.mx with tile := none } }, .stopAt k 0)
      else
        let g1 := if latched then (g, 0) else g.loadTile (descRange d) (kloopTile d map k)
        if g1.2 ≠ 0 then (g1.1, .fault g1.2 k row)
        else
          match g1.1.mx.tile with
          | none => (g1.1, .fault 0x12 k row)
          | some t =>
            let acc := !first || descF d 12 26 1 == 1
            let lim := if stopHere then limit else none
            let upTo := match lim with | some l => min l.row m | none => m
            let r := mxRows (Gallery.streamRow t (kloopCfg d k acc) issue c3) row g1.1 (upTo - row)
            match r.2 with
            | some (i, st) => (r.1, .fault st k i)
            | none =>
              if upTo < m then (r.1, .stopAt k upTo)
              else Gallery.kloopTiles d map issue c3 limit (k + 1) 0 false false r.1 n
    else
      let g := (g.skipAdd 1 1).skipAdd 2 (m - row)
      Gallery.kloopTiles d map issue c3 limit (k + 1) 0 false first g n

/-- MX.KLOOP from TCUR and RESUME on (R115). A present tile before TCUR has already taken ACC. -/
def Gallery.mxKloop (g : Gallery) (d : Desc) (issue c3 : Nat) (limit : Option MxLimit) : Gallery × MxEnd :=
  let w := descF d 8 0 22
  let tc := descF d 28 16 7
  let row := descF d 28 0 16
  let st := g.spadReadStat w 128
  if st ≠ 0 then (g, .fault st tc row)
  else
    let map := g.tileMap w
    let kt0 := descF d 28 24 6
    let first := (List.range tc).all fun k => !bitOf map (kt0 + k)
    Gallery.kloopTiles d map issue c3 limit tc row g.mx.resumed first g (descF d 20 16 7 - tc)

/-- A stop position no earlier than where the descriptor stands; a tile already latched is not in load. -/
def clampLimit (d : Desc) (latched : Bool) (l : MxLimit) : MxLimit :=
  let tc := if descOpc d = 0x14 then descF d 28 16 7 else 0
  let row := descF d 28 0 16
  if l.tile < tc ∨ (l.tile = tc ∧ (l.row < row ∨ latched)) then ⟨tc, max row (if l.tile = tc then l.row else 0), l.inLoad && !latched⟩
  else l

/-- MX.LOAD (R108). -/
def Gallery.mxLoad (g : Gallery) (d : Desc) (limit : Option MxLimit) : Gallery × MxEnd :=
  match limit with
  | some _ => ({ g with mx := { g.mx with tile := none } }, .stopAt 0 0)
  | none =>
    let r := g.loadTile (descRange d) { fmt := descF d 8 22 4, sp24 := descF d 8 26 1 == 1, cg := BitVec.ofNat 8 (descF d 12 0 8), src := descF d 8 0 22 }
    (r.1, if r.2 = 0 then .done else .fault r.2 0 0)

/-- An array descriptor. -/
def Gallery.mxArray (g : Gallery) (d : Desc) (issue c3 : Nat) (limit : Option MxLimit) : Gallery × MxEnd :=
  match descOpc d with
  | 0x10 => g.mxLoad d limit
  | 0x14 => g.mxKloop d issue c3 limit
  | _ => g.mxStream d issue c3 limit

/-- One row of a flush (R116): j counts from ROW0. -/
def Gallery.flushRow (p : Profile) (d : Desc) (issue c3 j : Nat) (g : Gallery) : Except Nat Gallery :=
  let buf := descF d 8 24 1
  let row := descF d 12 0 10 + j
  let dst := descF d 8 0 22 + j * strideOf (descF d 16 0 15) (128 * p.bytes)
  if spadSize < dst + 128 * p.bytes then .error 0x10
  else if g.mx.rowBad buf row then .error 0x14
  else
    let bs := g.convertRow p c3 issue j (g.mx.row buf row)
    if descF d 8 25 1 = 1 then
      if g.spadBad dst 512 then .error 0x02
      else
        let sum := (List.range 128).flatMap fun n =>
          leBytes 4 (fAdd (BitVec.ofNat 32 (Memory.num g.spad (dst + 4 * n) 4)) (BitVec.ofNat 32 (leVal ((bs.drop (4 * n)).take 4)))).toNat
        .ok (g.spadWrite dst sum)
    else .ok (g.spadWrite dst bs)

/-- MX.FLUSH from RESUME on (R116, R124); `train` says the adapter-training path is present. An ADD flush
through a profile that is not FP32 has an illegal body (R116). A resumed flush reads its profile and column vectors again. DESIGN CHOICE: log
entry 119. -/
def Gallery.mxFlush (g : Gallery) (d : Desc) (issue c3 : Nat) (train : Bool) (limit : Option Nat) : Gallery × MxEnd :=
  let from_ := descF d 28 0 11
  let n := descF d 12 16 11
  let add := descF d 8 25 1 == 1
  if add && !train then (g, .fault 0x16 0 0)
  else
    match g.profile (descF d 8 22 2) with
    | .error st => (g, .fault st 0 from_)
    | .ok p =>
      if add && p.ofmt != 13 then (g, .fault 0x01 0 from_)
      else
        let upTo := match limit with | some l => max from_ (min l n) | none => n
        let r := mxRows (Gallery.flushRow p d issue c3) from_ g (upTo - from_)
        match r.2 with
        | some (j, st) => (r.1, .fault st 0 j)
        | none => (r.1, if upTo < n then .stopAt 0 upTo else .done)

/-- MX.CFG (R118). -/
def Gallery.mxCfg (g : Gallery) (d : Desc) : Gallery :=
  { g with mx := g.mx.setProf (descF d 8 0 2) (BitVec.ofNat 128 (field d.toNat 64 128)) }

/-- The tile record of a save area (Table 4-12): bytes 8 to 23 of the LOAD body. -/
def tileRecBytes (r : TileRec) : List Byte :=
  leBytes 4 (r.src + r.fmt * 2 ^ 22 + b2n r.sp24 * 2 ^ 26) ++ leBytes 4 r.cg.toNat ++ leBytes 8 0

/-- Rows 0 to n − 1 of a buffer as bytes. -/
def MxCore.rowsBytes (x : MxCore) (buf n : Nat) : List Byte :=
  (List.range n).flatMap fun r => (x.row buf r).flatMap fun w => leBytes 4 w.toNat

/-- MX.SAVE (R119): the tile record is written when TILE = 1 and a tile is valid, the profiles when PROF = 1; the rest of the area's head keeps
what it held. DESIGN CHOICE: log entry 104. Nothing is written on a fault (log entry 8). -/
def Gallery.mxSave (g : Gallery) (d : Desc) : Gallery × Nat :=
  let a := descF d 8 0 22
  let n0 := descF d 12 0 11
  let n1 := descF d 12 16 11
  let prof := descF d 8 26 1 == 1
  let rec_ := if descF d 8 27 1 = 1 then g.mx.tile else none
  if spadSize < a + 0x100 + (n0 + n1) * 512 then (g, 0x10)
  else if (List.range n0).any (fun r => g.mx.rowBad 0 r) || (List.range n1).any (fun r => g.mx.rowBad 1 r) then (g, 0x14)
  else
    let flags := 1 + b2n rec_.isSome * 2 ^ 8 + descF d 8 24 1 * 2 ^ 9 + descF d 8 25 1 * 2 ^ 10 + b2n prof * 2 ^ 11
    let g' := g.spadWrite a (leBytes 4 0x4D585356 ++ leBytes 4 flags ++ leBytes 4 (n0 + n1 * 2 ^ 16))
    let g' := match rec_ with | some t => g'.spadWrite (a + 0x10) (tileRecBytes t.toTileRec) | none => g'
    let g' := if prof then g'.spadWrite (a + 0x20) ([0, 1, 2, 3].flatMap fun i => leBytes 16 (g.mx.prof i).toNat) else g'
    (g'.spadWrite (a + 0x100) (g.mx.rowsBytes 0 n0 ++ g.mx.rowsBytes 1 n1), 0)

/-- Rows read back into a buffer from a save area. -/
def Gallery.restoreRows (g : Gallery) (a buf n : Nat) : Gallery :=
  (List.range n).foldl (fun g r =>
    { g with mx := g.mx.setRow buf r ((List.range 128).map fun c => BitVec.ofNat 32 (Memory.num g.spad (a + 512 * r + 4 * c) 4)) }) g

/-- MX.RESTORE (R119): the header, what it names, and the recorded tile. A header that no MX.SAVE writes
(row counts outside their range, a tile record no MX.LOAD could have) is an illegal body (log entry 8). Where the recorded tile's load faults, the rows and
profiles stay restored. DESIGN CHOICE: log entry 119. -/
def Gallery.mxRestore (g : Gallery) (d : Desc) : Gallery × Nat :=
  let a := descF d 8 0 22
  let st := g.spadReadStat a 0x100
  if st ≠ 0 then (g, st)
  else
    let w (o : Nat) : Nat := Memory.num g.spad (a + o) 4
    let f := w 4
    let n0 := field (w 8) 0 11
    let n1 := field (w 8) 16 11
    let tr := Memory.num g.spad (a + 0x10) 16
    let td : Desc := BitVec.ofNat 256 (0x10 + tr * 2 ^ 64)
    if w 0 ≠ 0x4D585356 ∨ field f 0 8 ≠ 1 then (g, 0x15)
    else if 1024 < n0 ∨ 1024 < n1 ∨ (bitOf f 9 ≠ decide (n0 ≠ 0)) ∨ (bitOf f 10 ≠ decide (n1 ≠ 0)) ∨ (bitOf f 8 ∧ mxBodyBad td) then (g, 0x01)
    else
      let st := g.spadReadStat (a + 0x100) ((n0 + n1) * 512)
      if st ≠ 0 then (g, st)
      else
        let g := (g.restoreRows (a + 0x100) 0 n0).restoreRows (a + 0x100 + n0 * 512) 1 n1
        let g := if bitOf f 11 then
            [0, 1, 2, 3].foldl (fun g i => { g with mx := g.mx.setProf i (BitVec.ofNat 128 (Memory.num g.spad (a + 0x20 + 16 * i) 16)) }) g
          else g
        if bitOf f 8 then
          g.loadTile (descRange d) { fmt := descF td 8 22 4, sp24 := descF td 8 26 1 == 1, cg := BitVec.ofNat 8 (descF td 12 0 8), src := descF td 8 0 22 }
        else (g, 0)

/-! ### Queue entries, stop and resume (R121, R125 to R127) -/

/-- A descriptor with its RESUME and TCUR fields set. -/
def setResume (d : Desc) (tile row : Nat) : Desc :=
  let x := setField d.toNat 224 (if descOpc d = 0x15 then 11 else 16) row
  BitVec.ofNat 256 (if descOpc d = 0x14 then setField x 240 7 tile else x)

/-- MXRES (Table 4-17). -/
def Gallery.setMxRes (g : Gallery) (opc tile row : Nat) : Gallery :=
  { g with mx := { g.mx with resRow := BitVec.ofNat 16 row, resTile := BitVec.ofNat 7 tile, resValid := true, resOpc := BitVec.ofNat 8 opc } }

/-- What the end of an array descriptor leaves in its queue entry (R125, R127). -/
def Gallery.arrayEnd (g : Gallery) (e : QEntry) : MxEnd → Gallery
  | .done => { g with mx := { g.mx with resumed := false } }.setEntry 0 { e with st := .ended 0 }
  | .fault st tile row =>
    (({ g with mx := { g.mx with resumed := false } }).setMxRes (descOpc e.desc) tile row).setEntry 0
      { e with desc := setResume e.desc tile row, st := .ended st }
  | .stopAt tile row =>
    (({ g with mx := { g.mx with resumed := g.mx.tile.isSome } }).setMxRes (descOpc e.desc) tile row).setEntry 0
      { e with desc := setResume e.desc tile row }

/-- What the end of a flush leaves in its queue entry (R125, R127). -/
def Gallery.flushEnd (g : Gallery) (e : QEntry) : MxEnd → Gallery
  | .done => g.setEntry 0 { e with st := .ended 0 }
  | .fault st _ row => g.setEntry 0 { e with desc := setResume e.desc 0 row, st := .ended st }
  | .stopAt _ row => g.setEntry 0 { e with desc := setResume e.desc 0 row }

/-- First window row and row count that a stream or K-loop writes or reads in a buffer, counted over both. -/
def arrayRows (d : Desc) : Option (Nat × Nat) :=
  match descOpc d with
  | 0x14 => some (descF d 12 27 1 * 1024 + descF d 24 22 10, descF d 16 0 16)
  | 0x13 => if descF d 8 26 1 = 1 then some (descF d 8 27 1 * 1024 + descF d 16 22 10, descF d 12 0 16) else none
  | 0x11 => some (descF d 8 27 1 * 1024 + descF d 16 22 10, descF d 12 0 16)
  | 0x12 => some (descF d 8 27 1 * 1024 + descF d 16 22 10, descF d 12 0 16)
  | _ => none

/-- The window rows a flush reads. -/
def flushRows (d : Desc) : Nat × Nat := (descF d 8 24 1 * 1024 + descF d 12 0 10, descF d 12 16 11)

/-- Whether two row ranges meet. -/
def rangesMeet (a b : Nat × Nat) : Bool := decide (a.1 < b.1 + b.2) && decide (b.1 < a.1 + a.2)

/-- The column vectors that a conversion through profile i reads (R118). -/
def MxCore.columnReads (x : MxCore) (i : Nat) : List (Nat × Nat) :=
  let v := (x.prof i).toNat
  (if bitOf v 11 then [(field v 64 22, 512)] else []) ++ (if bitOf v 12 then [(field v 96 22, 512)] else [])

/-- The scratchpad bytes, as (address, count), that the tile loads of an MX.KLOOP may read: its tile map and its tiles. -/
def kloopLoads (d : Desc) : Nat × Nat := (descF d 8 0 22, 128 + 64 * tileBytes (descF d 8 22 4) (descF d 8 26 1 == 1))

/-- The scratchpad bytes, as (address, count), that an array descriptor or a flush may read, its column vectors apart, the tile it streams
through being 2:4 or not. Every row that MX.STREAMG may name counts. -/
def mxReads (d : Desc) (sp24 : Bool) : List (Nat × Nat) :=
  let m := descF d 12 0 16
  let rows (af addr stride n : Nat) (s24 : Bool) : Nat × Nat := (addr, n * strideOf stride (rowBytes af s24) + rowBytes af s24)
  match descOpc d with
  | 0x10 => [(descF d 8 0 22, tileBytes (descF d 8 22 4) (descF d 8 26 1 == 1))]
  | 0x14 =>
    let s24 := descF d 8 26 1 == 1
    let af := descF d 12 22 4
    let kt := descF d 20 16 7
    let r := rows af (descF d 12 0 22) (descF d 16 16 15) (descF d 16 0 16) s24
    [kloopLoads d, (r.1, r.2 + kt * descF d 20 0 15 * 128), (descF d 24 0 22, descF d 16 0 16 * kt * rowScaleBytes af s24)]
  | 0x15 => if descF d 8 25 1 = 1 then [(descF d 8 0 22, descF d 12 16 11 * strideOf (descF d 16 0 15) 512)] else []
  | 0x12 =>
    let af := descF d 8 22 4
    [rows af (descF d 8 0 22) (descF d 12 16 15) 65535 sp24, (descF d 16 0 22, 65536 * rowScaleBytes af sp24), (descF d 20 0 22, 2 * m)]
  | _ =>
    let af := descF d 8 22 4
    [rows af (descF d 8 0 22) (descF d 12 16 15) m sp24, (descF d 16 0 22, m * rowScaleBytes af sp24)]
      ++ (if descF d 8 29 1 = 1 then [(descF d 20 0 22, m / 8 + 1)] else [])

/-- The scratchpad bytes that an MX.FLUSH or MX.STREAMW may write, its output at most 4 bytes an element. -/
def mxWrites (d : Desc) (obytes : Nat) : List (Nat × Nat) :=
  match descOpc d with
  | 0x13 => [(descF d 24 0 22, descF d 12 0 16 * strideOf (descF d 20 22 10) (128 * obytes) + 512)]
  | 0x15 => [(descF d 8 0 22, descF d 12 16 11 * strideOf (descF d 16 0 15) (128 * obytes) + 512)]
  | _ => []

/-- The profile that an MX.FLUSH or MX.STREAMW names. -/
def mxProf (d : Desc) : Nat := if descOpc d = 0x15 then descF d 8 22 2 else descF d 8 30 2

/-- Output bytes an element of the profile that an MX.FLUSH or MX.STREAMW names. -/
def Gallery.outBytes (g : Gallery) (d : Desc) : Nat := (Fmt.ofCode (field (g.mx.prof (mxProf d)).toNat 4 4)).bits / 8

/-- The scratchpad bytes that descriptor `d` may read or write. -/
def Gallery.mxTouches (g : Gallery) (d : Desc) : List (Nat × Nat) :=
  let sp24 := match g.mx.tile with | some t => t.sp24 | none => false
  mxReads d sp24 ++ mxWrites d (g.outBytes d) ++ (if descOpc d = 0x13 ∨ descOpc d = 0x15 then g.mx.columnReads (mxProf d) else [])

/-- Descriptor `d` reads or writes scratchpad bytes that the earlier descriptor `x` of the queue has still to write (R75). -/
def Gallery.mxFollows (g : Gallery) (d x : Desc) : Bool :=
  (g.mxTouches d).any fun r => (mxWrites x (g.outBytes x)).any (rangesMeet r)

/-- An array descriptor waits for an earlier flush that has rows of its window still to read (R121), or bytes that it reads still to
write (R75). -/
def Gallery.arrayWaits (g : Gallery) (e : QEntry) : Bool :=
  (g.earlier 0 e.index).any fun x => x.st == .running && descOpc x.desc == 0x15 &&
    ((match arrayRows e.desc with | none => false | some r => rangesMeet r (flushRows x.desc)) || g.mxFollows e.desc x.desc)

/-- A flush waits until every earlier stream into its buffer has drained (R121), and for an earlier MX.STREAMW whose bytes it touches
(R75). -/
def Gallery.flushWaits (g : Gallery) (e : QEntry) : Bool :=
  let buf := descF e.desc 8 24 1
  (g.earlier 0 e.index).any fun x =>
    x.st == .running &&
    ((match arrayRows x.desc with
      | none => false
      | some r => rangesMeet r (buf * 1024, 1024) && descOpc x.desc != 0x13) || g.mxFollows e.desc x.desc)

/-- The loads of an MX.KLOOP wait for an earlier flush that has bytes they read still to write (R75). -/
def Gallery.loadWaits (g : Gallery) (e : QEntry) : Bool :=
  (g.earlier 0 e.index).any fun x => x.st == .running && descOpc x.desc == 0x15 &&
    (mxWrites x.desc (g.outBytes x.desc)).any (rangesMeet (kloopLoads e.desc))

/-- What an MX.KLOOP does while its rows wait for a flush: the load of its next present tile, which does not wait (R121), whole or up to a
stop. Its queue entry then stands at the first row through that tile. -/
def Gallery.kloopAhead (g : Gallery) (c3 : Nat) (e : QEntry) (limit : Option MxLimit) : Option Gallery :=
  let d := e.desc
  let tc := descF d 28 16 7
  let map := g.tileMap (descF d 8 0 22)
  if descOpc d ≠ 0x14 ∨ g.loadWaits e then none
  else
    ((List.range (descF d 20 16 7)).find? fun k => decide (tc ≤ k) && bitOf map (descF d 28 24 6 + k)).map fun k =>
      let inLoad := match limit with | some l => l.inLoad && decide (l.tile ≤ k) && !g.mx.resumed | none => false
      let r := g.mxKloop d e.index.toNat c3 (some ⟨k, if k = tc then descF d 28 0 16 else 0, inLoad⟩)
      match limit, r.2 with
      | none, .stopAt t w => { r.1 with mx := { r.1.mx with resumed := true } }.setEntry 0 { e with desc := setResume d t w }
      | _, x => r.1.arrayEnd e x

/-- Run the array descriptor in flight, whole or up to a stop. One that waits for a flush when the core stops stays where it stands, which
MXRES tells (R125). -/
def Gallery.runArray (g : Gallery) (c3 : Nat) (p : Nat → Bool) (limit : Option MxLimit) : Gallery :=
  match g.runningEntry 0 p with
  | none => g
  | some e =>
    if g.arrayWaits e then
      match g.kloopAhead c3 e limit with
      | some g => g
      | none => if limit.isSome then
        g.setMxRes (descOpc e.desc) (if descOpc e.desc = 0x14 then descF e.desc 28 16 7 else 0) (if descOpc e.desc = 0x10 then 0 else descF e.desc 28 0 16)
      else g
    else
      let r := g.mxArray e.desc e.index.toNat c3 (limit.map (clampLimit e.desc g.mx.resumed))
      r.1.arrayEnd e r.2

/-- Run the flush in flight, whole or up to a stop. -/
def Gallery.runFlush (g : Gallery) (c3 : Nat) (train : Bool) (limit : Option Nat) : Gallery :=
  match g.runningEntry 0 (· == 0x15) with
  | none => g
  | some e =>
    if g.flushWaits e then g
    else
      let r := g.mxFlush e.desc e.index.toNat c3 train limit
      r.1.flushEnd e r.2

/-- Run an exclusive descriptor in flight. -/
def Gallery.runExclusive (g : Gallery) (opc : Nat) (f : Gallery → Desc → Gallery × Nat) : Gallery :=
  match g.runningEntry 0 (· == opc) with
  | none => g
  | some e => let r := f g e.desc; r.1.setEntry 0 { e with st := .ended r.2 }

/-- Stop the core for a cause (R125, Table 4-16). DEDUCED: log entry 73. -/
def Gallery.mxStop (g : Gallery) (now : DWord) (cause : Nat) : Gallery :=
  { g with mx := { g.mx with stopReq := 0, stopped := true, cause := cause, displ := false, stopAt := now,
                             stopTile := g.mx.tile.map fun t => t.toTileRec } }

/-- A stop of the array is asked for (R125): 1 by MXCTL.STOP, 3 by a power event, which a request of the first kind does not displace. -/
def Gallery.mxAsk (g : Gallery) (cause : Nat) : Gallery :=
  if g.mx.stopped then g else { g with mx := { g.mx with stopReq := max g.mx.stopReq cause } }

/-- When a wait that began at `t` began, as its timer counts that stood since `stop` (R125). -/
def timerResume (now stop t : DWord) : DWord := t + (now - (if t < stop then stop else t))

/-- After a preemption stop the GWAITLIM timers of the scalar core and of the QWAITs in flight go on from where they stood (R125). -/
def Gallery.timersResume (g : Gallery) (now : DWord) : Gallery :=
  if g.mx.cause = 1 then
    let q (v : Queue) : Queue := { v with entries := v.entries.map fun e => { e with since := timerResume now g.mx.stopAt e.since } }
    { g with waitAt := timerResume now g.mx.stopAt g.waitAt, queues := g.queues.map fun e => (e.1, q e.2) }
  else g

/-- MXCTL.GO (R126): STOPPED clears; a displaced tile is reloaded from the source recorded at the stop, and where that faults the stopped
array descriptor ends with the load's status. DEDUCED: log entry 73. With no tile valid at the stop nothing is reloaded, and the tile of a service
descriptor stays. DESIGN CHOICE: log entry 119. -/
def Gallery.mxGo (g : Gallery) (now : DWord) : Gallery :=
  if g.mx.stopped then
    let m := g.mx
    let g := { g.timersResume now with mx := { m with stopped := false, cause := 0, displ := false, stopTile := none } }
    match m.displ, m.stopTile with
    | true, some r =>
      let x := g.loadTile g.topRange.toNat r
      match x.2, x.1.runningEntry 0 (fun o => decide (0x10 ≤ o ∧ o ≤ 0x14)) with
      | 0, _ => x.1
      | st, some e => x.1.arrayEnd e (.fault st (if descOpc e.desc = 0x14 then descF e.desc 28 16 7 else 0) (if descOpc e.desc = 0x10 then 0 else descF e.desc 28 0 16))
      | _, none => x.1
    | _, _ => g
  else g

/-- The descriptor in MXSVC (R126, Tables 4-18, 4-19): any MX opcode but QWAIT; NOP and every opcode the
chapter assigns run, others end with an illegal body. A faulting array descriptor writes MXRES. DESIGN CHOICE: log entry 119. -/
def Gallery.mxService (g : Gallery) (issue c3 : Nat) (train : Bool) : Gallery :=
  if g.mx.stopped then
    let d := g.mx.svc
    let opc := descOpc d
    let hadTile := g.mx.resumed
    let fin (r : Gallery × Nat) : Gallery :=
      { r.1 with mx := { r.1.mx with svcDone := true, svcStat := BitVec.ofNat 8 r.2, resumed := hadTile } }
    let code (r : Gallery × MxEnd) : Gallery × Nat :=
      match r.2 with | .fault st t row => (r.1.setMxRes opc t row, st) | _ => (r.1, 0)
    let codeF (r : Gallery × MxEnd) : Gallery × Nat :=
      match r.2 with | .fault st _ _ => (r.1, st) | _ => (r.1, 0)
    if opc = 0 then fin (g, if field d.toNat 64 192 = 0 then 0 else 1)
    else if mxBodyBad d then fin (g, 1)
    else
      let g := { g with mx := { g.mx with resumed := false } }
      match opc with
      | 0x15 => fin (codeF (g.mxFlush d issue c3 train none))
      | 0x16 => fin (g.mxCfg d, 0)
      | 0x17 => fin (g.mxSave d)
      | 0x18 => fin (g.mxRestore d)
      | _ => fin (code (g.mxArray d issue c3 none))
  else g

end Sys2Proof.Machine
end

