-- ==== Sys2Proof/Machine/LineCode.lean ====
section
/-! DEFINITION. The line code (R488 to R490): the field GF(2⁸), the encoder with the address folded in,
syndromes, and the decoder's verdict. -/

namespace Sys2Proof

/-- Multiplication by x in GF(2⁸) with x⁸ + x⁴ + x³ + x² + 1 (R488). -/
def gfX (a : Nat) : Nat := if a < 128 then 2 * a else (2 * a) ^^^ 0x11D

/-- Multiplication in GF(2⁸), over the low `n` bits of `b`. -/
def gfMulGo : Nat → Nat → Nat → Nat
  | 0, _, _ => 0
  | n + 1, a, b => (if b % 2 = 1 then a else 0) ^^^ gfMulGo n (gfX a) (b / 2)

/-- Multiplication in GF(2⁸). -/
def gfMul (a b : Nat) : Nat := gfMulGo 8 a b

/-- α^n, α = 0x02. -/
def gfPow : Nat → Nat
  | 0 => 1
  | n + 1 => gfX (gfPow n)

/-- The inverse: a^254. -/
def gfInv (a : Nat) : Nat :=
  let a2 := gfMul a a
  let a4 := gfMul a2 a2
  let a8 := gfMul a4 a4
  let a16 := gfMul a8 a8
  let a32 := gfMul a16 a16
  let a64 := gfMul a32 a32
  let a128 := gfMul a64 a64
  gfMul a2 (gfMul a4 (gfMul a8 (gfMul a16 (gfMul a32 (gfMul a64 a128)))))

/-- Coefficients of (x + α^i) times a polynomial, lowest first. -/
def gfTimesRoot (i : Nat) (p : List Nat) : List Nat :=
  List.zipWith (· ^^^ ·) (0 :: p) ((p.map (gfMul (gfPow i))) ++ [0])

/-- g(x) = (x + α⁰) … (x + α⁷), lowest coefficient first (R488). -/
def rsGen : List Nat := [0, 1, 2, 3, 4, 5, 6, 7].foldl (fun p i => gfTimesRoot i p) [1]

/-- One step of the division by g(x): the remainder so far and the next message symbol. -/
def rsStep (rem : List Nat) (m : Nat) : List Nat :=
  let fb := listGet 0 rem 7 ^^^ m
  List.zipWith (· ^^^ ·) (0 :: rem.take 7) ((rsGen.take 8).map (gfMul fb))

/-- x⁸ · m(x) mod g(x) for message symbols highest first. -/
def rsRem (msg : List Nat) : List Nat := msg.foldl rsStep [0, 0, 0, 0, 0, 0, 0, 0]

/-- The address symbols a(0) to a(4) of module address A (R488). -/
def rsAddr (a : Nat) : List Nat :=
  [field a 6 8, field a 14 8, field a 22 8, field a 30 8, field a 38 2]

/-- The 8 check symbols of a line's data at a module address, symbol 0 first. -/
def rsEncode (a : Nat) (data : List Nat) : List Nat := rsRem (data ++ rsAddr a).reverse

/-- Syndrome S(i) of check symbols that differ from the encoding by `delta` (R489): the code is linear. -/
def rsSyndrome (delta : List Nat) (i : Nat) : Nat :=
  delta.zipIdx.foldl (fun s e => s ^^^ gfMul e.1 (gfPow (i * e.2))) 0

/-- The poison pattern, symbol 0 first (R490). -/
def poisonPattern : List Nat := [0x50, 0x4F, 0x49, 0x53, 0x4F, 0x4E, 0x45, 0x44]

/-- Berlekamp-Massey over syndromes: the locator and its length. State: C, B, L, m, b. -/
def bmGo (s : List Nat) : Nat → Nat → List Nat → List Nat → Nat → Nat → Nat → List Nat × Nat
  | 0, _, c, _, l, _, _ => (c, l)
  | k + 1, n, c, b, l, m, bd =>
    let d := (List.range l).foldl (fun acc i => acc ^^^ gfMul (listGet 0 c (i + 1)) (listGet 0 s (n - i - 1))) (listGet 0 s n)
    if d = 0 then bmGo s k (n + 1) c b l (m + 1) bd
    else
      let q := gfMul d (gfInv bd)
      let sh := (List.range 9).map fun i => listGet 0 c i ^^^ (if m ≤ i then gfMul q (listGet 0 b (i - m)) else 0)
      if 2 * l ≤ n then bmGo s k (n + 1) sh c (n + 1 - l) 1 d
      else bmGo s k (n + 1) sh b l (m + 1) bd

/-- A polynomial at x, lowest coefficient first. -/
def gfEval (p : List Nat) (x : Nat) : Nat := p.foldr (fun c acc => c ^^^ gfMul x acc) 0

/-- The verdicts of R489, numbered as DIAGRES reports them. -/
inductive Verdict where
  | clean
  | ce (positions : List Nat)
  | ue
  | addr
  | poison
  deriving DecidableEq, Repr

/-- The decoder's verdict from the 8 syndromes (R489), in the order of its table. -/
def rsVerdict (s : List Nat) : Verdict :=
  if s.all (· == 0) then .clean
  else if s = (List.range 8).map (rsSyndrome poisonPattern) then .poison
  else
    let r := bmGo s 8 0 [1] [1] 0 1 1
    let pos := (List.range 77).filter fun j => gfEval r.1 (gfPow (255 - j)) == 0
    if r.2 ≤ 3 ∧ pos.length = r.2 then
      if pos.any (fun j => decide (72 ≤ j)) then .addr else .ce pos
    else .ue

/-- The value that was added at an error position (Forney's rule for a code whose first root is α⁰), from the syndromes and
the locator. -/
def rsMagnitude (s loc : List Nat) (j : Nat) : Nat :=
  let x := gfPow j
  let xi := gfPow (255 - j)
  let omega := (List.range 8).map fun n =>
    (List.range (n + 1)).foldl (fun a i => a ^^^ gfMul (listGet 0 s i) (listGet 0 loc (n - i))) 0
  let deriv := gfEval ((List.range 8).map fun i => if i % 2 = 0 then listGet 0 loc (i + 1) else 0) xi
  gfMul x (gfMul (gfEval omega xi) (gfInv deriv))

/-- The errors that a CE verdict corrects, position and value. -/
def rsErrors (s : List Nat) : List (Nat × Nat) :=
  match rsVerdict s with
  | .ce pos => let loc := (bmGo s 8 0 [1] [1] 0 1 1).1; pos.map fun j => (j, rsMagnitude s loc j)
  | _ => []

end Sys2Proof
end

