-- ==== Sys2Proof/Machine/Routes.lean ====
section
/-! DEFINITION. The ways of the arcade and of the base network (R47, R48, R197 to R204, R217, R259, R260): router
ports, logical moves, the paths of transfers, the stairs and bridges that requests between towers take. -/

namespace Sys2Proof.Machine

/-! ### Router ports (Table 8-1) -/

/-- The ports of a router, in the order of their codes. -/
inductive Port where
  | n | e | s | w | n2 | s2 | ne | se | sw | nw | l
  deriving DecidableEq, Repr

/-- Code of a port. -/
def Port.code : Port → Nat
  | .n => 0 | .e => 1 | .s => 2 | .w => 3 | .n2 => 4 | .s2 => 5 | .ne => 6 | .se => 7 | .sw => 8 | .nw => 9 | .l => 10

/-- The physical position that a port of the router at (column, row) leads to; L leads to the router's own gallery.
None where the port would lead off the die: it is absent (R197). -/
def Port.leads (p : Port) (at_ : Nat × Nat) : Option (Nat × Nat) :=
  let go (dc dr : Int) : Option (Nat × Nat) :=
    let c := (at_.1 : Int) + dc
    let r := (at_.2 : Int) + dr
    if 0 ≤ c ∧ c < 8 ∧ 0 ≤ r ∧ r < 13 then some (c.toNat, r.toNat) else none
  match p with
  | .n => go 0 1 | .e => go 1 0 | .s => go 0 (-1) | .w => go (-1) 0 | .n2 => go 0 2 | .s2 => go 0 (-2)
  | .ne => go 1 1 | .se => go 1 (-1) | .sw => go (-1) (-1) | .nw => go (-1) 1 | .l => go 0 0

/-- The port of the next router by which a transfer that left by this port enters it. -/
def Port.opposite : Port → Port
  | .n => .s | .e => .w | .s => .n | .w => .e | .n2 => .s2 | .s2 => .n2 | .ne => .sw | .se => .nw | .sw => .ne | .nw => .se | .l => .l

/-! ### Logical moves (R199, R200) -/

/-- Physical row of logical row l in a column whose out row is `out` (R199). -/
def physRow (out l : Nat) : Nat := if l < out then l else l + 1

/-- One logical move from (column, row): 0 E, 1 W, 2 N, 3 S; none leaves the grid. -/
def gridMove (p : Nat × Nat) (d : Nat) : Option (Nat × Nat) :=
  match d with
  | 0 => if p.1 < 7 then some (p.1 + 1, p.2) else none
  | 1 => if 0 < p.1 then some (p.1 - 1, p.2) else none
  | 2 => if p.2 < 11 then some (p.1, p.2 + 1) else none
  | _ => if 0 < p.2 then some (p.1, p.2 - 1) else none

/-- The physical port of a logical move under the out rows of the columns (Table 8-2). -/
def movePort (out : Nat → Nat) (p : Nat × Nat) (d : Nat) : Option Port :=
  match gridMove p d with
  | none => none
  | some q =>
    let r := physRow (out p.1) p.2
    let r' := physRow (out q.1) q.2
    match d with
    | 0 => some (if r' = r then .e else if r' = r + 1 then .ne else .se)
    | 1 => some (if r' = r then .w else if r' = r + 1 then .nw else .sw)
    | 2 => some (if r' = r + 1 then .n else .n2)
    | _ => some (if r = r' + 1 then .s else .s2)

/-- Out rows of a tower's columns in the map in force. -/
def Chip.outRow (c : Chip) (t col : Nat) : Nat := c.rdF (Reg.gmap t) (8 * col) 4

/-- A hop: the router by its physical position, and the port by which the transfer leaves it. -/
abbrev Hop := (Nat × Nat) × Port

/-! ### Paths within a tower (R203, R217) -/

/-- The row part: E or W to column `dst`, row l. -/
def rowHops (out : Nat → Nat) (l dst : Nat) : Nat → Nat → List Hop
  | 0, _ => []
  | f + 1, col =>
    if col = dst then []
    else
      let d := if col < dst then 0 else 1
      match movePort out (col, l) d with
      | none => []
      | some p => ((col, physRow (out col) l), p) :: rowHops out l dst f (if col < dst then col + 1 else col - 1)

/-- The column part: N or S to row `dst`. A unicast goes two logical rows at once by N2 or S2 while at least two remain and the
out row lies outside the next two physical rows (R203). -/
def colHops (out : Nat → Nat) (unicast : Bool) (col dst : Nat) : Nat → Nat → List Hop
  | 0, _ => []
  | f + 1, l =>
    if l = dst then []
    else
      let o := out col
      let r := physRow o l
      let up := decide (l < dst)
      let two := unicast && (if up then decide (l + 2 ≤ dst) && o != r + 1 && o != r + 2 else decide (dst + 2 ≤ l) && r != o + 1 && r != o + 2)
      let n := if two then 2 else 1
      match (if two then some (if up then Port.n2 else .s2) else movePort out (col, l) (if up then 2 else 3)) with
      | none => []
      | some p => ((col, r), p) :: colHops out unicast col dst f (if up then l + n else l - n)

/-- The path from one logical position to another: dimension order for a dynamic unicast (R203), one row a hop for a copy of a
multicast (R217). -/
def gridPath (out : Nat → Nat) (unicast : Bool) (src dst : Nat × Nat) : List Hop :=
  rowHops out src.2 dst.1 8 src.1 ++ colHops out unicast dst.1 dst.2 12 src.2

/-- The path of a schedule's unicast (R208): its moves, each translated by R200. -/
def flowHops (out : Nat → Nat) (path : Nat) : Nat → Nat → Nat × Nat → List Hop
  | 0, _, _ => []
  | n + 1, i, p =>
    match movePort out p (field path (2 * i) 2), gridMove p (field path (2 * i) 2) with
    | some x, some q => ((p.1, physRow (out p.1) p.2), x) :: flowHops out path n (i + 1) q
    | _, _ => []

/-- Logical (column, row) of a logical gallery. -/
def gridOf (g : Nat) : Nat × Nat := (g / 12, g % 12)

/-! ### Stairs (R47, R48, R204, R259) -/

/-- The stair of an arcade transfer to a logical column (Table 8-3). -/
def arcStair (col : Nat) : Nat := listGet 0 [3, 3, 2, 2, 0, 0, 1, 1] col

/-- The edge router that a stair meets in a gallery's own column or row (Table 8-3). -/
def edgeOf (stair : Nat) (p : Nat × Nat) : Nat × Nat :=
  match stair with
  | 0 => (p.1, 11)
  | 1 => (7, p.2)
  | 2 => (p.1, 0)
  | _ => (0, p.2)

/-- The stair of a memory transfer, by its line (R47, R259). -/
def lineStair (l : Nat) : Nat := field l 0 2 ^^^ field l 2 2 ^^^ field l 4 2 ^^^ field l 6 2

/-- Whether a service stair is in service. -/
def Chip.stairUp (c : Chip) (t h : Nat) : Bool := !Store.get noMark c.mem.stairOut (t * 4 + h)

/-- The stair that carries what falls to stair h: h itself, or the next one of those that remain. DESIGN CHOICE: log entry 106. -/
def Chip.stairFor (c : Chip) (t h : Nat) : Option Nat := ([h, h + 1, h + 2, h + 3].map (· % 4)).find? fun x => c.stairUp t x

/-! ### Bridges (Table 9-13) -/

/-- The towers that a bridge joins. -/
def bridgeEnds (b : Nat) : Nat × Nat := listGet (0, 1) [(0, 1), (1, 3), (3, 2), (2, 0)] b

/-- The next tower on the ring 0–1–3–2–0, one way or the other. -/
def ringStep (fwd : Bool) (t : Nat) : Nat := listGet 0 (if fwd then [1, 3, 0, 2] else [2, 0, 3, 1]) t

/-- The towers entered on one way round the ring, the last being `b`. -/
def ringWay (fwd : Bool) (b : Nat) : Nat → Nat → List Nat
  | 0, _ => []
  | n + 1, a => if a = b then [] else ringStep fwd a :: ringWay fwd b n (ringStep fwd a)

/-- The bridge between two neighbours of the ring. -/
def bridgeOf (a b : Nat) : Option Nat := (List.range 4).find? fun i => bridgeEnds i == (a, b) || bridgeEnds i == (b, a)

/-- Whether every bridge of a way is present and in service. -/
def Chip.wayUp (c : Chip) : Nat → List Nat → Bool
  | _, [] => true
  | a, b :: t =>
    (match bridgeOf a b with
      | some i => c.part.hasBridge i && !Store.get noMark c.mem.bridgeOut i
      | none => false) && c.wayUp b t

/-- The towers that a request from tower a to tower b enters, for a line (Table 9-13): the bridge between neighbours; for a diagonal
the lower-numbered middle tower where A[8] ⊕ A[16] = 0; the other way round where a bridge of the route is absent or out of
service. None where no way is left. -/
def Chip.bridgeRoute (c : Chip) (a b l : Nat) : Option (List Nat) :=
  let f := ringWay true b 3 a
  let r := ringWay false b 3 a
  let lower := decide (listGet 0 f 0 < listGet 0 r 0)
  let first := if f.length = r.length then (bitOf l 2 == bitOf l 10) == lower else decide (f.length < r.length)
  let ways := if first then [f, r] else [r, f]
  ways.find? fun w => c.wayUp a w

/-- The base dies that a request from tower a for a line crosses: those of its bridge route, with its own; none within a tower. -/
def Chip.crossed (c : Chip) (a l : Nat) : List Nat :=
  let b := l / 2 ^ 32
  if a = b then [] else a :: ((c.bridgeRoute a b l).getD [b])

/-! ### The way of a line request (R229, R259) -/

/-- The tower whose base die carries a link (Table 1-2). -/
def linkTower (l : Nat) : Nat := listGet 0 [0, 1, 1, 2, 3] l

/-- The tower where a requester stands. The usher and the PCIe endpoint stand on TOWER[0]. -/
def reqTower : Requester → Nat
  | .gallery g => g.tower.val
  | .stairTop t => t.val
  | .chanter g => g.tower.val
  | .usher => 0
  | .bar2 => 0
  | .link l => linkTower l.val

/-- A requester that reaches the concourse of its own tower without a stair. -/
def reqAbove : Requester → Bool
  | .gallery _ => true
  | .chanter _ => true
  | _ => false

/-- The port by which a request for a line enters the home tower's concourse (R229, R231): a gallery's own port, or the top of the
stair that the line's address picks. -/
def Chip.reqPort (c : Chip) (w : Requester) (l : Nat) : Nat :=
  let b := l / 2 ^ 32
  match w with
  | .gallery g => if g.tower.val = b then b * 108 + g.pos.val else b * 108 + 104 + (c.stairFor b (lineStair l)).getD (lineStair l)
  | _ => b * 108 + 104 + (c.stairFor b (lineStair l)).getD (lineStair l)

/-- A way is left from a requester to the home slice of a line: its bridges, and a stair wherever the request climbs or goes down. -/
def Chip.wayLeft (c : Chip) (w : Requester) (l : Nat) : Bool :=
  let a := reqTower w
  let b := l / 2 ^ 32
  if a = b then reqAbove w || (c.stairFor b (lineStair l)).isSome
  else (c.bridgeRoute a b l).isSome && (c.stairFor b (lineStair l)).isSome && (!reqAbove w || (c.stairFor a (lineStair l)).isSome)

/-- A request from tower a for a line crosses bridge i. -/
def Chip.usesBridge (c : Chip) (i a l : Nat) : Bool :=
  let way := c.crossed a l
  (way.zip way.tail).any fun e => bridgeOf e.1 e.2 == some i

end Sys2Proof.Machine
end

