-- ==== Sys2Proof/Machine/Memory.lean ====
section
/-! DEFINITION. The memory path below the stair engine (R224 to R239, R253 to R258, R487 to R498): address
interleave, home slices, the vault's decoder and its error log, and the memory accesses that every unit shares. -/

namespace Sys2Proof.Machine

/-! ### Where a line lives (R224 to R228) -/

/-- Tower of a line (its module address is 64 times its number). -/
def lineTower (l : Nat) : Nat := l / 2 ^ 32

/-- Stripe group of a line's local address. -/
def lineGroup (l : Nat) : Nat := l % 2 ^ 32 / 4 / 96

/-- The rotation of a stripe group (R226). -/
def groupRot (g : Nat) : Nat := (37 * field g 0 7 + 11 * field g 7 7 + 5 * field g 14 9) % 96

/-- Logical vault of a line (R226, R227). -/
def lineVault (l : Nat) : Nat := 25 * ((l % 2 ^ 32 / 4 % 96 + groupRot (lineGroup l)) % 96) % 96

/-- Vault line number L (R228). -/
def lineNum (l : Nat) : Nat := lineGroup l * 4 + l % 4

/-- The line of a tower that has vault line number `n` in logical vault `v`: the inverse of R226. -/
def lineAt (t v n : Nat) : Nat :=
  let g := n / 4
  let j := (73 * v + 96 - groupRot g) % 96
  t * 2 ^ 32 + (96 * g + j) * 4 + n % 4

/-- Key of a vault or slice: tower · 104 + number. -/
def vaultKey (t v : Nat) : Nat := t * 104 + v

/-- Key of a line's home vault. -/
def lineHome (l : Nat) : Nat := vaultKey (lineTower l) (lineVault l)

/-- Layer, bank and row of a line (Table 9-2). -/
def Chip.linePlace (c : Chip) (l : Nat) : Nat × Nat × Nat :=
  let g := lineGroup l
  match c.part with
  | .ihl4t384 => (field g 0 3, field g 3 4, field g 9 13)
  | _ => (field g 0 4, field g 4 4, field g 10 13)

/-- Column of a line in its row, in lines (Table 9-2): 4 times the stripe's place in the row, and the line within the stripe. -/
def Chip.lineColumn (c : Chip) (l : Nat) : Nat :=
  4 * (match c.part with | .ihl4t384 => field (lineGroup l) 7 2 | _ => field (lineGroup l) 8 2) + l % 4

/-- Physical position of a logical vault (Table 9-16). DEDUCED: log entry 63. -/
def Chip.vaultPos (c : Chip) (k : Nat) : Nat := c.rdF (Reg.vmap (k / 104) (k % 104)) 0 7

/-! ### Frames and retired lines (R239, R499, R500) -/

/-- The key of a frame; of a bank, that of its frame 0. -/
def FrameId.key (x : FrameId) : Nat := (((x.tower * 128 + x.pos) * 16 + x.layer) * 16 + x.bank) * 4 + x.f

/-- Frames of a bank that an id covers. -/
def FrameId.frames (x : FrameId) : List Nat := if x.whole then [0, 1, 2, 3] else [x.f]

/-- Two ids of one bank. -/
def FrameId.sameBank (x y : FrameId) : Bool := x.tower == y.tower && x.pos == y.pos && x.layer == y.layer && x.bank == y.bank

/-- Two ids that share a frame. -/
def FrameId.meets (x y : FrameId) : Bool := x.sameBank y && x.frames.any y.frames.contains

/-- The frame in which a line of the module lies. -/
def Chip.frameOf (c : Chip) (l : Nat) : FrameId :=
  let p := c.linePlace l
  { tower := lineTower l, pos := c.vaultPos (lineHome l), layer := p.1, bank := p.2.1, f := p.2.2 / 2048, whole := false }

/-- The vault controller that drives the DRAM of a line, and layer, bank and row there: the reserve's where an ACTIVE retirement
entry covers the line, its home vault's otherwise (R239). -/
def Chip.lineSite (c : Chip) (l : Nat) : Nat × Nat × Nat × Nat :=
  let p := c.linePlace l
  let t := lineTower l
  match c.sys.ras.entries.find? fun e => e.active && e.src.meets (c.frameOf l) with
  | some e =>
    let v := ((List.range 8).map (· + 96)).find? fun v => c.vaultPos (vaultKey t v) == e.dst.pos
    (vaultKey t (v.getD 96), e.dst.layer, e.dst.bank, if e.dst.whole then p.2.2 else e.dst.f * 2048 + p.2.2 % 2048)
  | none => (lineHome l, p)

/-! ### The cache (R233, R235, R236) -/

/-- Ways nothing has filled are empty. -/
def noWay : Nat → Option CacheWay := fun _ => none
def zeroPlru : Nat → BitVec 15 := fun _ => 0
def zeroNat : Nat → Nat := fun _ => 0
def zeroBytes : Nat → Byte := fun _ => 0

/-- Key of the set of a line. -/
def setKey (l : Nat) : Nat := lineHome l * 10240 + lineNum l % 10240

/-- A way of the cache. -/
def Chip.way (c : Chip) (k : Nat) : Option CacheWay := Store.get noWay c.mem.ways k

/-- Whether a way holds valid dirty data, and whether it is pinned. -/
def wayDirty (w : Option CacheWay) : Bool := match w with | some x => x.valid && x.dirty | none => false
def wayPinned (w : Option CacheWay) : Bool := match w with | some x => x.pin.isSome | none => false

/-- Change a way; SLICE.STAT.PINNED and DIRTY follow. -/
def Chip.setWay (c : Chip) (k : Nat) (w : Option CacheWay) : Chip :=
  let o := c.way k
  let sk := k / 163840
  let r := Reg.sliceStat (sk / 104) (sk % 104)
  let c := { c with mem := { c.mem with ways := Store.put noWay c.mem.ways k w } }
  let c := c.wrF r 0 18 (c.rdF r 0 18 + b2n (wayPinned w) - b2n (wayPinned o))
  c.wrF r 18 18 (c.rdF r 18 18 + b2n (wayDirty w) - b2n (wayDirty o))

/-- The way that holds a line, if any. -/
def Chip.findWay (c : Chip) (l : Nat) : Option Nat :=
  ((List.range 16).map fun w => setKey l * 16 + w).find? fun k =>
    match c.way k with | some x => x.line == l | none => false

/-- The nodes of the replacement tree on the path to way `w`, with the direction to it (1 right). PRESUMED: log entry 79. -/
def plruPath (w : Nat) : List (Nat × Bool) :=
  [(0, bitOf w 3), (1 + w / 8, bitOf w 2), (3 + w / 4, bitOf w 1), (7 + w / 2, bitOf w 0)]

/-- Point the tree away from (an access), or at (an insertion as least recent), way `w`. PRESUMED: log entry 79. -/
def plruSet (b : BitVec 15) (w : Nat) (at_ : Bool) : BitVec 15 :=
  BitVec.ofNat 15 ((plruPath w).foldl (fun x e => setField x e.1 1 (b2n (e.2 == at_))) b.toNat)

/-- The way that the tree points at among those that `ok` allows. -/
def plruVictim (b : BitVec 15) (ok : Nat → Bool) : Nat :=
  let anyIn (lo n : Nat) : Bool := (List.range n).any fun i => ok (lo + i)
  let go (node lo half : Nat) : Nat :=
    let right := bitOf b.toNat node
    if right then (if anyIn (lo + half) half then lo + half else lo)
    else (if anyIn lo half then lo else lo + half)
  let a := go 0 0 8
  let b' := go (1 + a / 8) a 4
  let d := go (3 + b' / 4) b' 2
  go (7 + d / 2) d 1

/-- Note an access to a way in its set's replacement state. -/
def Chip.touch (c : Chip) (k : Nat) (at_ : Bool) : Chip :=
  { c with mem := { c.mem with plru := Store.modify zeroPlru c.mem.plru (k / 16) fun b => plruSet b (k % 16) at_ } }

/-- The bytes of a line under a byte mask replaced (R233). -/
def mergeLine (mask : BitVec 64) (old new : Line) : Line :=
  BitVec.ofNat 512 ((List.range 64).foldr (fun i acc =>
    field (if bitOf mask.toNat i then new.toNat else old.toNat) (8 * i) 8 + acc * 256) 0)

/-- The mask of a whole line. -/
def wholeMask : BitVec 64 := BitVec.ofNat 64 (2 ^ 64 - 1)

/-! ### DRAM lines and their code (R487 to R491) -/

/-- The self-test's pattern of a line (R352, R331): four QPGEN blocks under the key of its vault's physical position. DEDUCED: log entry 137. -/
def Chip.testPattern (c : Chip) (l : Nat) : Line :=
  BitVec.ofNat 512 ((List.range 4).foldr (fun q acc =>
    let n := Config.testCounter l q
    (philox 0x54455354 (c.vaultPos (lineHome l)) n.1 n.2 0 0).foldr (fun w a => w % 2 ^ 32 + 2 ^ 32 * a) acc) 0)

/-- What a line holds before it is first written: in a descriptor table the TICKET that index i will carry, GEN 1 (R357, R363); else the complement of
the self-test's pattern, which its pass B has left (R352); zeros before that. `dram` lists what a byte holds XOR this. -/
def Chip.blank (c : Chip) (l : Nat) : Line :=
  let y := c.ush.layout
  let at_ (base : Nat) : Option Nat :=
    if base ≤ l * 64 ∧ l * 64 < base + 2 ^ 27 ∧ (l * 64 - base) % 128 = 0 then some ((l * 64 - base) / 128) else none
  let table (base : Nat) : Bool := decide (base ≤ l * 64 ∧ l * 64 < base + 2 ^ 27)
  if c.ush.tabled && (table y.dt0 || table y.dt1) then
    match at_ y.dt0, at_ y.dt1 with
    | some i, _ => BitVec.ofNat 512 (2 ^ 20 + i)
    | none, some i => BitVec.ofNat 512 (2 ^ 20 + i)
    | none, none => 0
  else if c.mem.tested then ~~~ c.testPattern l else 0

/-- The stage on chanter fallback in whose shadow a module address lies (R222, R353), and the byte there: the shadows of a tower's columns stand one after another,
each the 4 MiB scratchpad and 128 KiB by the addresses of Table 3-2. DESIGN CHOICE: log entry 124. -/
def Chip.shadowOf (c : Chip) (a : Nat) : Option (Nat × Nat) :=
  let t := a / 2 ^ 38
  match c.ush.layout.shadow[t]? with
  | none => none
  | some b =>
    if b ≤ a ∧ a < b + 8 * 0x420000 then
      (((List.range 13).map fun i => t * 104 + 13 * ((a - b) / 0x420000) + i).find? fun k => (c.gal k).shadow).map fun k => (k, (a - b) % 0x420000)
    else none

/-- Where the shadow of a position's column begins. -/
def Chip.shadowBase (c : Chip) (k : Nat) : Nat := listGet 0 c.ush.layout.shadow (k / 104) + k % 104 / 13 * 0x420000

/-- A byte of a fallback stage's shadow: its scratchpad, then instruction memory, data memory and step mailbox. -/
def Gallery.shadowByte (g : Gallery) (o : Nat) : Byte :=
  if o < 0x400000 then Memory.byte g.spad o
  else if o < 0x410000 then Memory.byte g.imem (o - 0x400000)
  else if o < 0x418000 then Memory.byte g.dmem (o - 0x400000) else 0

/-- The 64 data bytes stored for a line: a fallback stage's memories are the lines of its shadow. -/
def Chip.dramData (c : Chip) (l : Nat) : Line :=
  match c.shadowOf (l * 64) with
  | some (k, o) => let g := c.gal k; BitVec.ofNat 512 (leVal ((List.range 64).map fun i => g.shadowByte (o + i)))
  | none => BitVec.ofNat 512 (Memory.num c.dram (l * 64) 64) ^^^ c.blank l

/-- The stored check symbols of a line XOR the encoding of its stored data. -/
def Chip.lineDelta (c : Chip) (l : Nat) : List Nat :=
  let d := (Store.get zeroDWord c.mem.chk l).toNat
  (List.range 8).map fun i => field d (8 * i) 8

/-- The poison pattern as the stored difference of a poisoned line (R490). -/
def poisonDelta : DWord := BitVec.ofNat 64 (leVal (poisonPattern.map fun n => BitVec.ofNat 8 n))

/-- The data of a line with errors taken out, or put in: a position among the 72 symbols, and what is added there. -/
def addErrors (d : Line) (errs : List (Nat × Nat)) : Line :=
  errs.foldl (fun (d : Line) e => if 8 ≤ e.1 ∧ e.1 < 72 then d ^^^ (BitVec.ofNat 512 e.2 <<< (8 * (e.1 - 8))) else d) d

/-- The syndromes of a stored line that crosses the bus with errors on its 72 symbols (R489): the code is linear. -/
def Chip.lineSyndromes (c : Chip) (l : Nat) (errs : List Nat) : List Nat :=
  (List.range 8).map fun i => rsSyndrome (c.lineDelta l) i ^^^ rsSyndrome errs i

def noLanes : Nat → List Nat := fun _ => []

/-- What the failed lanes of a vault's bus put on the 72 symbols of a line that crosses it (R41): what a failed lane delivers is free.
DESIGN CHOICE: log entry 109. -/
def Chip.laneErrors (c : Chip) (l : Nat) : List Nat :=
  let bad := Store.get noLanes c.mem.badLanes (c.lineSite l).1
  if bad.isEmpty then []
  else (List.range 72).map fun g => ((bad.filter fun b => b / 8 == g && Config.laneError c.mem.lineReads b).map fun b => 2 ^ (b % 8)).sum

/-- Errors on the symbols of a line, by position. -/
def errPlaces (errs : List Nat) : List (Nat × Nat) := errs.zipIdx.map fun e => (e.2, e.1)

/-- What errors on the 72 symbols of a line add to its stored difference: those on its check symbols, and the encoding of those on its data. -/
def storedDelta (errs : List Nat) : DWord :=
  if errs.isEmpty then 0 else BitVec.ofNat 64 (leVal ((List.zipWith (· ^^^ ·) (errs.take 8) (rsEncode 0 (errs.drop 8))).map fun n => BitVec.ofNat 8 n))

/-- A stored line as it crosses the bus to a decoder (R41, R489): the decoder's verdict, and the data, corrected where they can be. -/
def Chip.lineSeen (c : Chip) (l : Nat) : Verdict × Line :=
  let errs := c.laneErrors l
  let seen := addErrors (c.dramData l) (errPlaces errs)
  if errs.isEmpty ∧ Store.get zeroDWord c.mem.chk l = 0 then (.clean, seen)
  else
    let syn := c.lineSyndromes l errs
    match rsVerdict syn with
    | .ce pos => (.ce pos, addErrors seen (rsErrors syn))
    | v => (v, seen)

/-- Requests that have read the line see a write of it: fills hold the new data. -/
def Chip.forward (c : Chip) (l : Nat) (d : Line) (poison : Bool) : Chip :=
  let fwd (f : Fill) : Fill := if f.line = l ∧ f.got.isSome then { f with got := some (d, poison) } else f
  { c with mem := { c.mem with fills := c.mem.fills.map fwd, vq := c.mem.vq.filter fun q => !(q.line == l && q.write.isSome) } }

/-- Write a whole line to DRAM under a fresh encoding, poisoned or not; the raw mark goes (R488, R490, R508). It crosses the bus, whose failed lanes
leave their errors in what is stored (R41). Requests that wait for the line see it, and an older queued write of it is superseded. -/
def Chip.dramWrite (c : Chip) (l : Nat) (d : Line) (poison : Bool) : Chip :=
  let errs := c.laneErrors l
  let c := c.forward l d poison
  { c with dram := Memory.setNum c.dram (l * 64) 64 (addErrors d (errPlaces errs) ^^^ c.blank l).toNat,
           mem := { c.mem with chk := Store.put zeroDWord c.mem.chk l ((if poison then poisonDelta else 0) ^^^ storedDelta errs),
                               raw := Store.put noMark c.mem.raw l false, lineReads := c.mem.lineReads + b2n (!errs.isEmpty) } }

/-- The requests that a vault controller holds. -/
def Chip.queueOf (c : Chip) (vk : Nat) : List VaultReq := c.mem.vq.filter fun q => q.vault == vk

/-- The vault controller of a line takes another request: it holds fewer than 128 (R253). -/
def Chip.vaultRoom (c : Chip) (l : Nat) : Bool := decide ((c.queueOf (c.lineSite l).1).length < 128)

/-- Give a vault controller a whole line to write (R253). A request that brings one about waits until there is room (`Chip.canServe`); the merge of an
error-log record alone, where there is none, is written at once. DESIGN CHOICE: log entry 110. -/
def Chip.vaultWrite (c : Chip) (l : Nat) (d : Line) (poison : Bool) : Chip :=
  if c.vaultRoom l then
    let c := c.forward l d poison
    { c with mem := { c.mem with vq := c.mem.vq ++ [⟨(c.lineSite l).1, l, some (d, poison), c.act⟩] } }
  else c.dramWrite l d poison

/-- The write of a line that waits in a vault controller's queue. -/
def Chip.queuedWrite (c : Chip) (l : Nat) : Option (Line × Bool) :=
  match c.mem.vq.find? fun q => q.line == l && q.write.isSome with
  | some q => q.write
  | none => none

/-- What the vault holds of a line, as its decoder gives it: a queued write, else the stored data, corrected where they can be. -/
def Chip.vaultData (c : Chip) (l : Nat) : Line :=
  match c.queuedWrite l with
  | some w => w.1
  | none => (c.lineSeen l).2

/-- Whether what the vault holds of a line reads poisoned or uncorrectable (R237, R489, R508). -/
def Chip.vaultBad (c : Chip) (l : Nat) : Bool :=
  match c.queuedWrite l with
  | some w => w.2
  | none => Store.get noMark c.mem.raw l || (match (c.lineSeen l).1 with | .clean => false | .ce _ => false | _ => true)

/-! ### Ways of the home slice (R233 to R238) -/

/-- Evict a way: a dirty line goes back to its vault controller with its poison (R237). -/
def Chip.evict (c : Chip) (k : Nat) : Chip :=
  match c.way k with
  | some w => let c := if w.valid && w.dirty then c.vaultWrite w.line w.data w.poison else c
              c.setWay k none
  | none => c

/-- Pinned ways of a line's set. -/
def Chip.setPins (c : Chip) (l : Nat) : Nat :=
  ((List.range 16).filter fun w => wayPinned (c.way (setKey l * 16 + w))).length

/-- The way that a line which is not present will take: an empty one, else the victim of the tree among unpinned ways. -/
def Chip.victim (c : Chip) (l : Nat) : Nat :=
  let base := setKey l * 16
  match (List.range 16).find? fun w => (c.way (base + w)).isNone with
  | some w => base + w
  | none => base + plruVictim (Store.get zeroPlru c.mem.plru (setKey l)) fun w => !wayPinned (c.way (base + w))

/-- A way for a line that is not present: what it held is evicted. -/
def Chip.allocate (c : Chip) (l : Nat) : Chip × Nat := (c.evict (c.victim l), c.victim l)

/-- The line that must be written back before a line can be filled. -/
def Chip.dirtyVictim (c : Chip) (l : Nat) : Option Nat :=
  if (c.findWay l).isSome then none
  else match c.way (c.victim l) with | some w => if w.valid && w.dirty then some w.line else none | none => none

/-- Pin a way for an owner; a set that already holds 12 pinned lines refuses and counts (R236). -/
def Chip.pinWay (c : Chip) (k : Nat) (o : PinOwner) : Chip :=
  match c.way k with
  | some w =>
    if w.pin.isSome then c
    else if 12 ≤ c.setPins w.line then
      let sk := k / 163840
      c.bump (Reg.sliceStat (sk / 104) (sk % 104)) 36 12 1
    else c.setWay k (some { w with pin := some o })
  | none => c

/-- Who a pin belongs to (R236). -/
def pinOwnerOf (w : Requester) : PinOwner := match w with | .usher => .usher | _ => .epoch

/-- Pin a way where the hint says so. -/
def Chip.pinFor (c : Chip) (k ah : Nat) (who : Requester) : Chip := if ah = 2 then c.pinWay k (pinOwnerOf who) else c

/-- Fill a line into the cache: into its own pinned way, or an allocated one. -/
def Chip.fillWay (c : Chip) (l : Nat) (d : Line) (dirty poison : Bool) : Chip × Nat :=
  match c.findWay l with
  | some k =>
    match c.way k with
    | some w => (c.setWay k (some { w with valid := true, dirty := dirty, poison := poison, data := d }), k)
    | none => (c, k)
  | none =>
    let (c, k) := c.allocate l
    (c.setWay k (some { line := l, valid := true, dirty := dirty, poison := poison, pin := none, data := d }), k)

/-- Fills without data whose vault read is not queued are issued to vault controller `vk` again, as far as it has room (R238, R253). -/
def Chip.reissue (c : Chip) (vk : Nat) : Chip :=
  let due := c.mem.fills.filter fun f => (c.lineSite f.line).1 == vk && f.got.isNone && !c.mem.vq.any fun q => q.line == f.line && q.write.isNone
  { c with mem := { c.mem with vq := c.mem.vq ++ (due.take (128 - (c.queueOf vk).length)).map fun f => (⟨vk, f.line, none, c.act⟩ : VaultReq) } }

/-- A line invalidated by a back-invalidate: its way goes, or stays pinned and invalid (R238, R340); what a fill in
flight has read is discarded. -/
def Chip.backInvalidate (c : Chip) (l : Nat) : Chip :=
  let drop (f : Fill) : Fill := if f.line = l then { f with got := none } else f
  let c := ({ c with mem := { c.mem with backInv := c.mem.backInv.filter (· != l), fills := c.mem.fills.map drop } } : Chip).reissue (c.lineSite l).1
  match c.findWay l with
  | some k =>
    match c.way k with
    | some w =>
      if w.pin.isSome then c.setWay k (some { w with valid := false, dirty := false, poison := false }) else c.setWay k none
    | none => c
  | none => c

/-- A back-invalidate of a line that is on its way acts before the request that comes after it (R238). -/
def Chip.backFirst (c : Chip) (l : Nat) : Chip := if c.mem.backInv.contains l then c.backInvalidate l else c

/-- Count a request at the home slice. -/
def Chip.countHit (c : Chip) (l : Nat) (hit : Bool) : Chip :=
  let k := lineHome l
  let r := if hit then Reg.sliceHits (k / 104) (k % 104) else Reg.sliceMisses (k / 104) (k % 104)
  c.wr r (c.rd r + 1)

/-- The valid way that holds a line. -/
def Chip.hitWay (c : Chip) (l : Nat) : Option (Nat × CacheWay) :=
  match c.findWay l with
  | some k => match c.way k with | some w => if w.valid then some (k, w) else none | none => none
  | none => none

/-! ### Declared ranges (R337, R338) -/

/-- Hold-filter counter of a line's stripe at its home vault. -/
def holdKey (l : Nat) : Nat := lineHome l * 131072 + (Config.rangeHash (l / 4)).toNat

/-- The line is inside a declared range: the job of a fallback runtime has its shadow (R353). -/
def Chip.inRange (c : Chip) (l : Nat) : Bool := Store.get zeroNat c.mem.holdCnt (holdKey l) != 0 || (c.shadowOf (l * 64)).isSome

/-- The line is inside an OWN range. -/
def Chip.inOwn (c : Chip) (l : Nat) : Bool := Store.get zeroNat c.mem.ownCnt (holdKey l) != 0

/-! ### Serving a request at the home slice (R225, R233, R235 to R238, R338) -/

/-- The vault controllers that a line needs are out of self-refresh: its home's, and the reserve's where the line is retired. -/
def Chip.vaultAwake (c : Chip) (l : Nat) : Bool :=
  let r := (c.lineSite l).1
  !c.bit (Reg.vaultCtl (lineTower l) (lineVault l)) 48 && !c.bit (Reg.vaultCtl (r / 104) (r % 104)) 48

/-- The status a line request meets before its slice looks it up: 2 for an unpopulated address or absent tower (R225), 3
while its vault is in self-refresh or no way to its tower is left (R48, R258, R259), 0 otherwise. DESIGN CHOICE: log entry 106. -/
def Chip.pathStatus (c : Chip) (l : Nat) (who : Requester) : Nat :=
  if !c.populated (l * 64) 64 then 2
  else if !c.vaultAwake l || !c.wayLeft who l then 3
  else 0

/-- A read that hits: recency, but for STREAM; a pin; its status and data. -/
def Chip.hitRead (c : Chip) (k : Nat) (w : CacheWay) (ah : Nat) (who : Requester) : Chip × Nat × Line :=
  (((if ah = 1 then c else c.touch k false).pinFor k ah who), b2n w.poison, w.data)

/-- A write that hits way k of line l: inside a declared range it is written through and leaves nothing dirty (R338). A whole-line STREAM write leaves
recency alone; a part-line one is as NORMAL (Table 9-3). -/
def Chip.hitWrite (c : Chip) (l k : Nat) (w : CacheWay) (mask : BitVec 64) (d : Line) (ah : Nat) (who : Requester) : Chip :=
  let nd := mergeLine mask w.data d
  let np := w.poison && mask != wholeMask
  let held := c.inRange l
  let c := c.setWay k (some { w with data := nd, poison := np, dirty := !held })
  let c := if held then c.vaultWrite l nd np else c
  (if ah = 1 && mask == wholeMask then c else c.touch k false).pinFor k ah who

/-- A write of merged data after a miss: around the cache for a whole line as STREAM, and in a declared range where no way is kept for the line;
else into a way, as least recent for a part line as STREAM. -/
def Chip.missWrite (c : Chip) (l : Nat) (whole : Bool) (nd : Line) (np : Bool) (ah : Nat) (who : Requester) : Chip :=
  let held := c.inRange l
  let c := if held then c.vaultWrite l nd np else c
  if held && (c.findWay l).isNone then c
  else if whole && ah == 1 then (if held then c else c.vaultWrite l nd np)
  else
    let (c, k) := c.fillWay l nd (!held) np
    (c.touch k (ah == 1)).pinFor k ah who

/-- The merge of an error-log record at its home slice: the line is taken as the vault holds it, without a record of its own. DESIGN CHOICE: log entry 12. -/
def Chip.logMerge (c : Chip) (l : Nat) (mask : BitVec 64) (d : Line) : Chip :=
  let c := c.backFirst l
  match c.hitWay l with
  | some (k, w) => (c.countHit l true).hitWrite l k w mask d 0 .usher
  | none => (c.countHit l false).missWrite l false (mergeLine mask (c.vaultData l) d) (c.vaultBad l) 0 .usher

/-! ### Accesses of the module's own units

A unit that keeps its structures in memory (the usher, the always-on controller, event units) sends its writes to the home slices as NORMAL
requests of TOWER[0]'s base die. What it reads is what the slices would answer. DESIGN CHOICE: log entry 12. -/

/-- The bytes `bs`, which lie in line `l` from byte `o`, as a line request: its mask and data. -/
def byteMask (o : Nat) (bs : List Byte) : BitVec 64 := BitVec.ofNat 64 ((2 ^ bs.length - 1) * 2 ^ o)
def byteLine (o : Nat) (bs : List Byte) : Line := BitVec.ofNat 512 (leVal bs * 2 ^ (8 * o))

/-- What a reader of the line gets from the slice or the vault: its data, and whether it is poisoned (R234, R237). -/
def Chip.lineData (c : Chip) (l : Nat) : Line :=
  match (if c.mem.backInv.contains l then none else c.hitWay l) with
  | some (_, w) => w.data
  | none => c.vaultData l
def Chip.linePoisoned (c : Chip) (l : Nat) : Bool :=
  match (if c.mem.backInv.contains l then none else c.hitWay l) with
  | some (_, w) => w.poison
  | none => c.vaultBad l

/-- A write that no request can carry now (its vault in self-refresh, or no way left): the unit repeats it until it is taken, and the model puts it
where it will be. DESIGN CHOICE: log entry 12. -/
def Chip.pokeNow (c : Chip) (l : Nat) (mask : BitVec 64) (d : Line) : Chip :=
  let nd := mergeLine mask (c.lineData l) d
  let np := c.linePoisoned l && mask != wholeMask
  let c := c.backFirst l
  let c := match c.hitWay l with
    | some (k, w) => c.setWay k (some { w with data := nd, poison := np, dirty := false })
    | none => c
  c.dramWrite l nd np

/-- Write the bytes `bs`, which lie in line `l` from byte `o`. An unpopulated address takes nothing (R225). -/
def Chip.pokeBy (write : Chip → Nat → BitVec 64 → Line → Chip) (c : Chip) (l o : Nat) (bs : List Byte) : Chip :=
  match c.pathStatus l .usher with
  | 0 => write c l (byteMask o bs) (byteLine o bs)
  | 2 => c
  | _ => c.pokeNow l (byteMask o bs) (byteLine o bs)

/-- Write bytes at a module address, line by line; `n` bounds the lines. -/
def Chip.pokeGo (write : Chip → Nat → BitVec 64 → Line → Chip) (c : Chip) : Nat → Nat → List Byte → Chip
  | 0, _, _ => c
  | n + 1, a, bs =>
    if bs.isEmpty then c
    else
      let k := 64 - a % 64
      Chip.pokeGo write (c.pokeBy write (a / 64) (a % 64) (bs.take k)) n (a + k) (bs.drop k)

/-- Bytes of module memory, line by line. -/
def Chip.memBytesGo (c : Chip) : Nat → Nat → Nat → List Byte
  | 0, _, _ => []
  | f + 1, a, n =>
    if n = 0 then []
    else
      let k := min n (64 - a % 64)
      leBytes k (field (c.lineData (a / 64)).toNat (8 * (a % 64)) (8 * k)) ++ Chip.memBytesGo c f (a + k) (n - k)

/-- The `n` bytes of module memory at `a`. -/
def Chip.memBytes (c : Chip) (a n : Nat) : List Byte := c.memBytesGo (n / 64 + 2) a n

/-- Read a little-endian number of module memory. -/
def Chip.memNum (c : Chip) (a n : Nat) : Nat := leVal (c.memBytes a n)

/-- Whether any line of a range reads poisoned. -/
def Chip.memPoisoned (c : Chip) (a n : Nat) : Bool :=
  (List.range ((a % 64 + n + 63) / 64)).any fun i => c.linePoisoned (a / 64 + i)

/-- Poison a line by a whole-line write through its vault controller (R490, R494): no copy of it stays in the slice. -/
def Chip.poisonLine (c : Chip) (l : Nat) : Chip :=
  match c.findWay l with
  | some k => (c.setWay k none).dramWrite l (c.lineData l) true
  | none => c.dramWrite l (c.lineData l) true

/-! ### The error log (R498) -/

/-- RKIND and RNUM of a requester (Table 17-4). -/
def requesterCode (c : Chip) (w : Option Requester) : Nat :=
  match w with
  | some (.gallery g) => (c.gal (galKey g)).lgal.toNat * 256
  | some (.stairTop _) => 1
  | some (.chanter g) => 2 + g.pos.val * 256
  | some .usher => 3
  | some .bar2 => 4
  | some (.link l) => 5 + l.val * 256
  | none => 6

/-- The write of a log record: the line that it merges into is read without a record of its own. DESIGN CHOICE: log entry 12. -/
def Chip.logWrite (c : Chip) (a : Nat) (bs : List Byte) : Chip :=
  c.pokeGo Chip.logMerge (bs.length / 64 + 2) a bs

/-- The kinds of record of an uncorrectable error (Table 17-4). -/
def ueKind (kind : Nat) : Bool := kind == 2 || kind == 3 || kind == 4 || kind == 5 || kind == 7 || kind == 8

/-- Write one record to the tower's error log; a unit writes at most one each µs (R498). `place` is layer, bank, row. An uncorrectable error that no BAR2 request has met is
an internal error in AER (R405). DEDUCED: log entries 60 and 131. -/
def Chip.errLog (c : Chip) (t unit line ppos : Nat) (place : Nat × Nat × Nat) (kind src : Nat) (syms : List Nat)
    (who : Option Requester) : Chip :=
  let c := if ueKind kind && who != some .bar2 then { c with host := { c.host with aerInternal := true } } else c
  let last := (Store.get zeroDWord c.mem.logLast unit).toNat
  let now := c.now.toNat
  if last = 0 ∨ last - 1 + 1000 ≤ now then
    let n := c.rdF (Reg.elidx t) 0 32
    let w1 := line % 2 ^ 34 + ppos * 2 ^ 34 + place.1 * 2 ^ 41 + place.2.1 * 2 ^ 45 + place.2.2 * 2 ^ 49
    let rec_ := leBytes 8 now ++ leBytes 8 w1 ++ [BitVec.ofNat 8 kind, BitVec.ofNat 8 src, BitVec.ofNat 8 syms.length, 0]
      ++ ((List.range 3).map fun i => BitVec.ofNat 8 (listGet 0xFF syms i)) ++ [0] ++ leBytes 2 (requesterCode c who) ++ leBytes 2 0
      ++ leBytes 4 (c.epoch.toNat % 2 ^ 24)
    let c := { c with mem := { c.mem with logLast := Store.put zeroDWord c.mem.logLast unit (BitVec.ofNat 64 (now + 1)) } }
    let c := c.logWrite (c.rdF (Reg.elbase t) 0 40 + 32 * (n % 65536)) rec_
    c.wrF (Reg.elidx t) 0 32 (n + 1)
  else c.bump (Reg.elidx t) 32 16 1

/-- A line-error record of the home vault of a line. -/
def Chip.lineLog (c : Chip) (l kind src : Nat) (syms : List Nat) (who : Option Requester) : Chip :=
  let k := lineHome l
  c.errLog (lineTower l) k l (c.vaultPos k) (c.linePlace l) kind src syms who

/-! ### Lanes (R40 to R42, R46, R55) -/

/-- Key of a path. -/
def pathKey : LanePath → Nat
  | .vault t v => vaultKey t.val v.val
  | .vaultCommand t v => 3000 + vaultKey t.val v.val
  | .vaultStrobe t v => 4000 + vaultKey t.val v.val
  | .vaultToken t v => 5000 + vaultKey t.val v.val
  | .stair t h up => 1000 + (t.val * 4 + h.val) * 2 + b2n up
  | .stairStrobe t h up => 6000 + (t.val * 4 + h.val) * 2 + b2n up
  | .stairSide t h => 7000 + t.val * 4 + h.val
  | .bridge b f => 2000 + b.val * 2 + b2n f
  | .bridgeStrobe b f => 8000 + b.val * 2 + b2n f
  | .bridgeSide b => 9000 + b.val

/-- Which spares of a path serve a lane, and how many there are: on a vault bus the one beside its nine groups, two for its command lanes, 32 for the data of a
direction of a stair or bridge; none for strobes, the token and side-band lanes. -/
def spareOf (p : LanePath) (lane : Nat) : Nat × Nat :=
  match p with
  | .vault _ _ => (lane / 72, 1)
  | .vaultCommand _ _ => (0, 2)
  | .stair _ _ _ => (0, 32)
  | .bridge _ _ => (0, 32)
  | _ => (0, 0)

/-- Whether a failed lane finds a free spare of its path (R42). -/
def Chip.spareFree (c : Chip) (p : LanePath) (lane : Nat) : Bool :=
  decide (Store.get zeroNat c.mem.spares (pathKey p * 16 + (spareOf p lane).1) < (spareOf p lane).2)

/-- A failed lane is mapped onto a free spare of its path, or is left on the code (R42). -/
def Chip.mapLane (c : Chip) (p : LanePath) (lane : Nat) : Chip :=
  let key := pathKey p * 16 + (spareOf p lane).1
  let bad := Store.get noLanes c.mem.badLanes (pathKey p)
  if c.spareFree p lane then
    { c with mem := { c.mem with spares := Store.modify zeroNat c.mem.spares key (· + 1),
                                 badLanes := Store.put noLanes c.mem.badLanes (pathKey p) (bad.filter (· != lane)) } }
  else
    { c with mem := { c.mem with badLanes := Store.put noLanes c.mem.badLanes (pathKey p) (if bad.contains lane then bad else bad ++ [lane]) } }

/-! ### The vault's reads (R489 to R492) -/

/-- No correction noted. -/
def noCorr : Nat → List Bool := fun _ => []

/-- Retrain the lanes of a group that R492 takes as failed, and log it: those known to have failed, else its first. DESIGN CHOICE: log entry 109. -/
def Chip.groupRetrain (c : Chip) (l group : Nat) : Chip :=
  let vk := (c.lineSite l).1
  let p : LanePath := .vault (Fin.ofNat 4 (vk / 104)) (Fin.ofNat 104 (vk % 104))
  let bad := (Store.get noLanes c.mem.badLanes vk).filter fun b => b / 8 == group
  let c := (if bad.isEmpty then [8 * group] else bad).foldl (fun c b => c.mapLane p b) c
  c.lineLog l 9 0 [group] none

/-- Note which groups a decoded line took corrections in (R492); with 16 of 64 at one landing a group is retrained. -/
def Chip.noteCorr (c : Chip) (l : Nat) (syms : List Nat) : Chip :=
  let s := c.lineSite l
  let base := (s.1 * 16 + s.2.1) * 72
  let known := (c.mem.corrCnt.map (·.1)).filter fun k => decide (base ≤ k ∧ k < base + 72)
  let keys := known ++ ((syms.map (base + ·)).filter fun k => !known.contains k)
  keys.foldl (fun c k =>
    let h := ((syms.contains (k - base)) :: Store.get noCorr c.mem.corrCnt k).take 64
    let many := decide (16 ≤ (h.filter id).length)
    let c := { c with mem := { c.mem with corrCnt := Store.put noCorr c.mem.corrCnt k (if many || !h.any id then [] else h) } }
    if many then c.groupRetrain l (k - base) else c) c

/-- Read a stored line through a decoder, over the bus: whether it is poisoned or uncorrectable, its data, and the module with the
verdict logged (R489, R498, R508). `src` is the log's SRC; only the top decoder's corrections count for R492. -/
def Chip.decodeRead (c : Chip) (l src : Nat) (who : Option Requester) : Chip × Bool × Line :=
  let s := c.lineSeen l
  let c := { c with mem := { c.mem with lineReads := c.mem.lineReads + 1 } }
  if Store.get noMark c.mem.raw l then (c.lineLog l 5 src [] who, true, s.2)
  else
    let note (c : Chip) (pos : List Nat) : Chip := if src = 0 then c.noteCorr l pos else c
    match s.1 with
    | .clean => (note c [], false, s.2)
    | .ce pos => (note (c.lineLog l 1 src pos who) pos, false, s.2)
    | .ue => (c.lineLog l 2 src [] who, true, s.2)
    | .addr => (c.lineLog l 3 src [] who, true, s.2)
    | .poison => (c.lineLog l 4 src [] who, true, s.2)

/-- Read a line from the vault for the top: a queued write of it is seen (R231), else DRAM through the top decoder. -/
def Chip.vaultRead (c : Chip) (l src : Nat) (who : Option Requester) : Chip × Bool × Line :=
  match c.queuedWrite l with
  | some (d, p) => (c, p, d)
  | none => c.decodeRead l src who

/-! ### Line requests at a home slice, one by one (R229 to R233) -/

/-- Give an answer. -/
def Chip.answer (c : Chip) (tag status : Nat) (d : Line) : Chip :=
  { c with mem := { c.mem with answers := c.mem.answers ++ [⟨tag, status, d⟩] } }

/-- Whether a request needs no read of the vault: it hits, or it writes a whole line. -/
def Chip.noFetch (c : Chip) (r : LineReq) (l : Nat) : Bool :=
  (c.hitWay l).isSome || (match r.op with | .write m _ => m == wholeMask | .read => false)

/-- Serve such a request at its slice and answer it. -/
def Chip.serveNow (c : Chip) (r : LineReq) (l : Nat) : Chip :=
  match c.hitWay l, r.op with
  | some (k, w), .read => let x := (c.countHit l true).hitRead k w r.ah r.who; x.1.answer r.tag x.2.1 x.2.2
  | some (k, w), .write m d => ((c.countHit l true).hitWrite l k w m d r.ah r.who).answer r.tag 0 0
  | none, .read => c
  | none, .write _ d => ((c.countHit l false).missWrite l true d false r.ah r.who).answer r.tag 0 0

/-- A read of the line is under way for a fill. -/
def Chip.filling (c : Chip) (l : Nat) : Bool := c.mem.fills.any fun f => f.line == l

/-- Start a fill of a line, for the requests `ws`, in the queue of the vault controller that holds it. -/
def Chip.startFill (c : Chip) (l : Nat) (ws : List LineReq) : Chip :=
  { c with mem := { c.mem with fills := c.mem.fills ++ [⟨l, ws, none⟩], vq := c.mem.vq ++ [⟨(c.lineSite l).1, l, none, c.act⟩] } }

/-- A line can be filled: the controllers of a dirty line that it displaces, and its own where the line is written through, have room. -/
def Chip.fillRoom (c : Chip) (l : Nat) : Bool :=
  (match c.dirtyVictim l with | some m => c.vaultRoom m | none => true) && (!c.inRange l || c.vaultRoom l)

/-- A line request in its turn at its home slice (R229, R233): answered at once, or put on a fill, where it counts as one miss. -/
def Chip.sliceServe (c : Chip) (r : LineReq) (l : Nat) : Chip :=
  let c := c.backFirst l
  if c.filling l then
    let add (f : Fill) : Fill := if f.line = l then { f with waiting := f.waiting ++ [r] } else f
    let c := c.countHit l false
    { c with mem := { c.mem with fills := c.mem.fills.map add } }
  else if c.noFetch r l then c.serveNow r l
  else (c.countHit l false).startFill l [r]

/-- A request of the same port to the same slice, among `ahead` or on a fill, is not answered yet (R231). -/
def Chip.portBusy (c : Chip) (ahead : List (Nat × LineReq)) (r : LineReq) (l : Nat) : Bool :=
  let same (x : LineReq) (m : Nat) : Bool := lineHome m == lineHome l && c.reqPort x.who m == c.reqPort r.who l
  ahead.any (fun h => same h.2 h.1) || c.mem.fills.any fun f => f.waiting.any fun x => same x f.line

/-- A read inside an OWN range waits while the bottom holds the bus and until the burst's back-invalidates are accepted (R339). -/
def Chip.ownHeld (c : Chip) (r : LineReq) (l : Nat) : Bool :=
  (match r.op with | .read => true | _ => false) && c.inOwn l
    && (Store.get noMark c.mem.bottomBus (lineHome l) || c.mem.backInv.any fun m => lineHome m == lineHome l)

/-- Its slice can take a request: a fill of its line is under way, or the vault controllers that it will give something to have room. -/
def Chip.canServe (c : Chip) (r : LineReq) (l : Nat) : Bool :=
  c.filling l || (match (c.hitWay l).isSome, r.op with
    | true, .read => true
    | true, .write _ _ => !c.inRange l || c.vaultRoom l
    | false, .read => c.vaultRoom l
    | false, .write m _ => if m == wholeMask then c.fillRoom l && (r.ah != 1 || c.vaultRoom l) else c.vaultRoom l)

/-- A request waits at its slice. One that waits for its turn alone has its line read meanwhile, if it will need it. -/
def Chip.holdReq (c : Chip) (r : LineReq) (l : Nat) (own : Bool) : Chip :=
  let c := { c with mem := { c.mem with held := c.mem.held ++ [(l, { r with own := own })] } }
  if !own && !c.filling l && !c.noFetch r l && c.vaultRoom l && !(c.inRange l) then c.startFill l [] else c

/-- A request reaches the head of its port's order: it is held for a burst, waits for room, or is served. `ahead` are the requests that wait. -/
def Chip.takeTurn (c : Chip) (ahead : List (Nat × LineReq)) (r : LineReq) (l : Nat) : Chip :=
  if c.portBusy ahead r l then c.holdReq r l false
  else if c.ownHeld r l then c.holdReq r l true
  else if c.canServe r l then c.sliceServe r l
  else c.holdReq r l false

/-- Requests that wait at a slice for their turn are taken in order, until none can be (R231). -/
def Chip.serveHeld (c : Chip) (sk : Nat) : Chip :=
  let c0 := { c with mem := { c.mem with held := [] } }
  c.mem.held.foldl (fun c h =>
    if lineHome h.1 != sk || h.2.own then { c with mem := { c.mem with held := c.mem.held ++ [h] } }
    else c.takeTurn c.mem.held h.2 h.1) c0

/-- Serve one request that waited on a fill, from what the vault read, or from the way that one before it has filled. -/
def Chip.serveFill (l : Nat) (q : Chip × Bool × Line) (r : LineReq) : Chip × Bool × Line :=
  let (c, p, d) := q
  match c.hitWay l, r.op with
  | some (k, w), .read => let x := c.hitRead k w r.ah r.who; (x.1.answer r.tag x.2.1 x.2.2, p, d)
  | some (k, w), .write m x => ((c.hitWrite l k w m x r.ah r.who).answer r.tag 0 0, p, d)
  | none, .read =>
    let c :=
      if r.ah = 1 ∨ (c.inRange l ∧ (c.findWay l).isNone) then c
      else
        let (c, k) := c.fillWay l d false p
        (c.touch k false).pinFor k r.ah r.who
    (c.answer r.tag (b2n p) d, p, d)
  | none, .write m x =>
    let nd := mergeLine m d x
    let np := p && m != wholeMask
    ((c.missWrite l (m == wholeMask) nd np r.ah r.who).answer r.tag 0 0, np, nd)

/-- A line read from the vault fills the cache and answers what waited on it (R233, R235, R237), once what it displaces has room; what waited for its
turn behind them follows. A line that was read ahead of its request's turn waits for it. -/
def Chip.sliceFill (c : Chip) (line : Nat) : Chip :=
  match c.mem.fills.find? fun f => f.line == line with
  | some ⟨l, ws, some (d, p)⟩ =>
    if (ws.isEmpty && c.mem.held.any fun h => h.1 == l) || !c.fillRoom l then c
    else
      let c := { c with mem := { c.mem with fills := c.mem.fills.filter fun f => f.line != l } }
      ((ws.foldl (Chip.serveFill l) (c, p, d)).1).serveHeld (lineHome l)
  | _ => c

/-- The oldest read that a slice holds for a burst is released, once the burst has ended and its back-invalidates are accepted (R339); HOLD counts it
and keeps the longest hold (Table 12-12). -/
def Chip.heldRelease (c : Chip) (vk : Nat) : Chip :=
  let busy := Store.get noMark c.mem.bottomBus vk && !Store.get noMark c.mem.burstEnd vk
  match c.mem.held.find? fun h => h.2.own && lineHome h.1 == vk with
  | none => c
  | some h =>
    if busy || c.mem.backInv.any (fun l => lineHome l == vk) || !c.canServe h.2 h.1 then c
    else
      let r := Reg.chcHold (vk / 104) (vk % 104)
      let ns := (c.now - h.2.since).toNat
      let c := { c with mem := { c.mem with held := c.mem.held.erase h } }
      let c := (c.bump r 0 32 1).wrF r 32 16 (max (c.rdF r 32 16) (min ns 0xFFFF))
      (c.sliceServe h.2 h.1).serveHeld vk

/-! ### The order of a vault controller (R253, R256) -/

/-- The key of the bank of a line in its vault's DRAM, and one more than its row. -/
def Chip.bankRow (c : Chip) (l : Nat) : Nat × Nat :=
  let s := c.lineSite l
  ((s.1 * 16 + s.2.1) * 16 + s.2.2.1, s.2.2.2 + 1)

/-- The row of a line stands open. -/
def Chip.rowOpen (c : Chip) (l : Nat) : Bool := Store.get zeroNat c.mem.openRow (c.bankRow l).1 == (c.bankRow l).2

/-- The requests of a queue that no earlier one for the same line stands before (R231). -/
def inLineOrder : List VaultReq → List VaultReq → List VaultReq
  | _, [] => []
  | before, q :: qs => (if before.any fun e => e.line == q.line then [] else [q]) ++ inLineOrder (before ++ [q]) qs

/-- What a vault controller may serve next: one direction until it has no request left, 64 lines have gone, or the other has waited 2 µs; in it,
requests to an open row before others. DESIGN CHOICE: log entry 110. -/
def Chip.vaultNext (c : Chip) (vk : Nat) : List VaultReq :=
  let ready := inLineOrder [] (c.queueOf vk)
  let dir := Store.get noMark c.mem.busWrite vk
  let (mine, other) := (ready.filter fun q => q.write.isSome == dir, ready.filter fun q => q.write.isSome != dir)
  let turn := !other.isEmpty && (mine.isEmpty || decide (64 ≤ Store.get zeroNat c.mem.busRun vk)
    || other.any fun q => decide (q.since.toNat + 2000 ≤ c.act.toNat))
  let set := if turn then other else mine
  let hot := set.filter fun q => c.rowOpen q.line
  if hot.isEmpty then set else hot

/-- The number of the 1 µs window that runs, and the transfer slots of a vault's bus in it (R40, R256): 4 × 10⁹ lines a second. -/
def Chip.slotWindow (c : Chip) : Nat := c.now.toNat / 1000
def busSlots : Nat := 4000

/-- The slots that a vault's bus has given in this window: to both ends, and to the bottom. -/
def Chip.slotsUsed (c : Chip) (vk : Nat) : Nat × Nat :=
  if Store.get zeroNat c.mem.slotWin vk = c.slotWindow then (Store.get zeroNat c.mem.slotAll vk, Store.get zeroNat c.mem.slotBot vk) else (0, 0)

/-- n lines cross a vault's bus in this window. -/
def Chip.slotsTake (c : Chip) (vk n : Nat) (bottom : Bool) : Chip :=
  let u := c.slotsUsed vk
  { c with mem := { c.mem with slotWin := Store.put zeroNat c.mem.slotWin vk c.slotWindow, slotAll := Store.put zeroNat c.mem.slotAll vk (u.1 + n),
                               slotBot := Store.put zeroNat c.mem.slotBot vk (if bottom then u.2 + n else u.2) } }

/-- The slots of this window that VAULT[v].CTL.THR still leaves to both ends together (R256). -/
def Chip.slotsLeft (c : Chip) (vk : Nat) : Nat := busSlots * c.rdF (Reg.vaultCtl (vk / 104) (vk % 104)) 32 5 / 16 - (c.slotsUsed vk).1

/-- The controller has moved a line: the bus's direction and run, and the bank's row, which stays open while a request to it waits. -/
def Chip.vaultMoved (c : Chip) (vk : Nat) (q : VaultReq) : Chip :=
  let w := q.write.isSome
  let run := if Store.get noMark c.mem.busWrite vk == w then Store.get zeroNat c.mem.busRun vk + 1 else 1
  let b := c.bankRow q.line
  let wanted := (c.queueOf vk).any fun e => c.bankRow e.line == b
  let c := c.slotsTake vk 1 false
  { c with mem := { c.mem with busWrite := Store.put noMark c.mem.busWrite vk w, busRun := Store.put zeroNat c.mem.busRun vk run,
                               openRow := Store.put zeroNat c.mem.openRow b.1 (if wanted then b.2 else 0) } }

/-- A vault controller serves one of its queued requests. -/
def Chip.vaultServe (c : Chip) (vk : Nat) (q : VaultReq) : Chip :=
  let c := (({ c with mem := { c.mem with vq := c.mem.vq.erase q } } : Chip).vaultMoved vk q).reissue vk
  match q.write with
  | some w => (c.dramWrite q.line w.1 w.2).serveHeld (lineHome q.line)
  | none =>
    let who := match c.mem.fills.find? fun f => f.line == q.line with
      | some f => f.waiting.head?.map (·.who)
      | none => none
    let (c, p, d) := c.vaultRead q.line 0 who
    let got (f : Fill) : Fill := if f.line = q.line then { f with got := some (d, p) } else f
    ({ c with mem := { c.mem with fills := c.mem.fills.map got } } : Chip).serveHeld (lineHome q.line)

/-- The layers of a vault are in self-refresh. -/
def Chip.vaultAsleep (c : Chip) (vk : Nat) : Bool := c.bit (Reg.vaultCtl (vk / 104) (vk % 104)) 48

/-- The token stands at the top of a vault's bus (R333). -/
def Chip.topTakes (c : Chip) (vk : Nat) : Chip :=
  { c with mem := { c.mem with bottomBus := Store.put noMark c.mem.bottomBus vk false, burstEnd := Store.put noMark c.mem.burstEnd vk false } }

/-! ### Requests that a command carries through (R229, R231, R253)

A command that needs a line's answer sends its request as any other, behind what its port has sent before it, and the memory path runs until the answer is there:
bursts of the bottom end, the vault controllers move what their order gives them, fills come in. DESIGN CHOICE: log entry 95. -/

/-- The next line that a vault controller's order gives it is moved; at a boundary of the bottom's bursts the token comes to the top, which waits (R334). -/
def Chip.vaultTurn (c : Chip) (vk : Nat) : Chip :=
  if c.vaultAsleep vk then c
  else
    let c := c.topTakes vk
    match c.vaultNext vk with
    | q :: _ => c.vaultServe vk q
    | [] => c

/-- The vault controllers that what waits at a slice needs. -/
def Chip.waitedVaults (c : Chip) (sk : Nat) : List Nat :=
  let ls := (c.mem.fills.filter fun f => lineHome f.line == sk).map (·.line) ++ (c.mem.held.filter fun h => lineHome h.1 == sk).map (·.1)
  (ls ++ ls.filterMap c.dirtyVictim).map fun l => (c.lineSite l).1

/-- What waits at a slice goes one move on. -/
def Chip.pathStep (c : Chip) (sk : Nat) : Chip :=
  match c.mem.fills.find? fun f => lineHome f.line == sk && f.got.isSome && c.fillRoom f.line && !(f.waiting.isEmpty && c.mem.held.any fun h => h.1 == f.line) with
  | some f => c.sliceFill f.line
  | none =>
    let vs := c.waitedVaults sk
    match c.mem.vq.find? fun q => vs.contains q.vault && !c.vaultAsleep q.vault with
    | some q => c.vaultTurn q.vault
    | none =>
      let due := c.mem.backInv.filter fun l => lineHome l == sk
      ((due.foldl Chip.backInvalidate c).topTakes sk).heldRelease sk

/-- The tag of a request that its command carries through; those of SLICE_REQUEST are words. -/
def ownTag : Nat := 2 ^ 32

/-- The memory path runs until the request of `ownTag` at a slice has its answer. One that nothing can answer is withdrawn with retry. -/
def Chip.pathRun (sk : Nat) : Nat → Chip → Chip × Nat × Line
  | 0, c =>
    ({ c with mem := { c.mem with held := c.mem.held.filter fun h => h.2.tag != ownTag,
                                  fills := c.mem.fills.map fun f => { f with waiting := f.waiting.filter fun r => r.tag != ownTag } } }, 3, 0)
  | n + 1, c =>
    match c.mem.answers.find? fun a => a.tag == ownTag with
    | some a => ({ c with mem := { c.mem with answers := c.mem.answers.erase a } }, a.status, a.data)
    | none => Chip.pathRun sk n (c.pathStep sk)

/-- A line request of a command: its status and data (R229). -/
def Chip.lineAsk (c : Chip) (l : Nat) (op : LineOp) (ah : Nat) (who : Requester) : Chip × Nat × Line :=
  match c.pathStatus l who with
  | 0 =>
    let c := (c.takeTurn c.mem.held ⟨ownTag, who, op, ah, c.now, false⟩ l).serveHeld (lineHome l)
    Chip.pathRun (lineHome l) (3 * (c.mem.vq.length + 2 * c.mem.fills.length + 3 * c.mem.held.length) + 8) c
  | e => (c, e, 0)

/-- A read served at the home slice (R233, R235 to R238). Status 1 is poisoned. -/
def Chip.sliceRead (c : Chip) (l ah : Nat) (who : Requester) : Chip × Nat × Line := c.lineAsk l .read ah who

/-- A write served at the home slice (R233, R235 to R238): a partial write of a missing line fetches it. -/
def Chip.sliceWrite (c : Chip) (l : Nat) (mask : BitVec 64) (d : Line) (ah : Nat) (who : Requester) : Chip × Nat :=
  let r := c.lineAsk l (.write mask d) ah who
  (r.1, r.2.1)

/-- Queued writes of the lines that `p` picks go to DRAM, each controller in its order; `n` bounds the lines moved. -/
def Chip.vaultRun (p : Nat → Bool) : Nat → Chip → Chip
  | 0, c => c
  | n + 1, c =>
    match c.mem.vq.find? fun q => q.write.isSome && p q.line && !c.vaultAsleep q.vault with
    | some q => Chip.vaultRun p n (c.vaultTurn q.vault)
    | none => c

/-- Queued writes of the lines that `p` picks are performed. -/
def Chip.flushQueued (c : Chip) (p : Nat → Bool) : Chip := Chip.vaultRun p (c.mem.vq.length + c.mem.fills.length) c

/-- Write bytes to module memory, as requests of `who`. -/
def Chip.memWriteAs (who : Requester) (c : Chip) (a : Nat) (bs : List Byte) : Chip :=
  c.pokeGo (fun c l m d => (c.sliceWrite l m d 0 who).1) (bs.length / 64 + 2) a bs

/-- Write bytes to module memory, as the usher's requests. -/
def Chip.memWrite (c : Chip) (a : Nat) (bs : List Byte) : Chip := Chip.memWriteAs .usher c a bs

/-- Write a little-endian number to module memory. -/
def Chip.memWriteNum (c : Chip) (a n v : Nat) : Chip := c.memWrite a (leBytes n v)

/-- A unit moves data: n bytes at a module address, read line by line through the home slices as requests of `who` (R229, R235); whether
a line was poisoned, or met another status than 0. `f` bounds the lines. -/
def Chip.fetchGo (who : Requester) (ah : Nat) : Nat → Nat → Nat → Chip → Chip × Bool × List Byte
  | 0, _, _, c => (c, false, [])
  | f + 1, a, n, c =>
    if n = 0 then (c, false, [])
    else
      let k := min n (64 - a % 64)
      let r := c.sliceRead (a / 64) ah who
      let d := if r.2.1 ≤ 1 then r.2.2 else c.lineData (a / 64)
      let q := Chip.fetchGo who ah f (a + k) (n - k) r.1
      (q.1, r.2.1 != 0 || q.2.1, leBytes k (field d.toNat (8 * (a % 64)) (8 * k)) ++ q.2.2)

/-- The n bytes of module memory at a, read by the usher's own requests. -/
def Chip.memFetch (c : Chip) (a n : Nat) : Chip × List Byte :=
  let r := Chip.fetchGo .usher 0 (n / 64 + 2) a n c
  (r.1, r.2.2)

/-- A unit has read n bytes at a. -/
def Chip.memTouchAs (who : Requester) (c : Chip) (a n : Nat) : Chip := (Chip.fetchGo who 0 (n / 64 + 2) a n c).1

/-- The usher has read n bytes at a. -/
def Chip.memTouch (c : Chip) (a n : Nat) : Chip := (c.memFetch a n).1

/-- The usher copies n bytes from one line-aligned address to another, read and written by its own requests; the copy of a poisoned line is poisoned, so
that no bad data loses its status (R505). DESIGN CHOICE: log entry 12. -/
def Chip.copyMem (c : Chip) (src dst n : Nat) : Chip :=
  let bad := (List.range (n / 64)).filter fun i => c.linePoisoned (src / 64 + i)
  let r := c.memFetch src n
  bad.foldl (fun c i => Chip.poisonLine c (dst / 64 + i)) (r.1.memWrite dst r.2)

/-- A vault controller that holds 128 requests moves one, so that it can take another (R253). -/
def Chip.makeRoom (c : Chip) (l : Nat) : Chip := if c.vaultRoom l then c else c.vaultTurn (c.lineSite l).1

/-- Give the dirty line of a way to its vault controller and keep it clean (R248, R258, R336). -/
def Chip.cleanWay (c : Chip) (k : Nat) : Chip :=
  match c.way k with
  | some w => if w.valid && w.dirty then ((c.makeRoom w.line).vaultWrite w.line w.data w.poison).setWay k (some { w with dirty := false }) else c
  | none => c

/-- The keys of the ways of a slice that hold something. -/
def Chip.sliceWays (c : Chip) (sk : Nat) : List Nat :=
  (c.mem.ways.filter fun e => decide (sk * 163840 ≤ e.1 ∧ e.1 < (sk + 1) * 163840)).map (·.1)

/-- Every slice releases every epoch pin (R236). -/
def Chip.releaseEpochPins (c : Chip) : Chip :=
  (c.mem.ways.map (·.1)).foldl (fun c k =>
    match c.way k with
    | some w => if w.pin = some .epoch then c.setWay k (if w.valid then some { w with pin := none } else none) else c
    | none => c) c

/-! ### Self-refresh (R258, R494, R509) -/

def noStale : Nat → List StaleEntry := fun _ => []

/-- Add an entry to a slice's stale list of 8,192; beyond it the overflow flag is set (R494). -/
def Chip.addStale (c : Chip) (sk : Nat) (e : StaleEntry) : Chip :=
  let l := Store.get noStale c.mem.staleList sk
  if l.length < 8192 then { c with mem := { c.mem with staleList := Store.put noStale c.mem.staleList sk (l ++ [e]) } }
  else { c with mem := { c.mem with staleOver := Store.put noMark c.mem.staleOver sk true } }

/-- The dirty ways of a slice. -/
def Chip.dirtyWays (c : Chip) (sk : Nat) : List Nat := (c.sliceWays sk).filter fun k => wayDirty (c.way k)

/-- The raw lines of a vault take the poison pattern (R509). -/
def Chip.rawToPoison (c : Chip) (vk : Nat) : Chip :=
  ((c.mem.raw.filter fun e => e.2 && lineHome e.1 == vk).map (·.1)).foldl (fun c l => c.dramWrite l (c.dramData l) true) c

/-- Requests of a slice that have not completed return retry status (R258 step 1). -/
def Chip.drainSlice (c : Chip) (sk : Nat) : Chip :=
  let here (l : Nat) : Bool := lineHome l == sk || (c.lineSite l).1 == sk
  let ans := (c.mem.fills.filter fun f => here f.line).flatMap fun f => f.waiting.map fun r => (⟨r.tag, 3, 0⟩ : LineAns)
  let held := (c.mem.held.filter fun h => lineHome h.1 == sk).map fun h => (⟨h.2.tag, 3, 0⟩ : LineAns)
  let c := c.flushQueued here
  { c with mem := { c.mem with fills := c.mem.fills.filter fun f => !here f.line,
                               held := c.mem.held.filter fun h => lineHome h.1 != sk,
                               vq := c.mem.vq.filter fun q => !here q.line,
                               answers := c.mem.answers ++ ans ++ held } }

/-- The cache of a slice is discarded by the reset (Table 9-12 order 4). -/
def Chip.dropSlice (c : Chip) (sk : Nat) : Chip :=
  let c := (c.sliceWays sk).foldl (fun c k => c.setWay k none) c
  { c with mem := { c.mem with plru := Store.clear c.mem.plru (sk * 10240) 10240 } }

/-- Self-refresh entry of a slice and its vault for a reset (Table 9-12 orders 1 to 4): what `limit` allows of the dirty lines is
written back; the rest are counted in SRLOST and listed as stale. Epoch and usher pins play no part. The bus's token comes to the top (R335), and the
cache is discarded. -/
def Chip.selfRefreshEnter (c : Chip) (t v : Nat) (limit : Option Nat) : Chip :=
  let sk := vaultKey t v
  let c := c.drainSlice sk
  let dirty := c.dirtyWays sk
  let n := match limit with | some n => n | none => dirty.length
  let c := ((dirty.take n).foldl Chip.cleanWay c).flushQueued fun l => lineHome l == sk || (c.lineSite l).1 == sk
  let lost := dirty.drop n
  let c := c.wrF (Reg.sliceStat t v) 49 15 (min lost.length 0x7FFF)
  let c := lost.foldl (fun c k => match c.way k with | some w => c.addStale sk (.line w.line) | none => c) c
  let c := ((c.rawToPoison sk).topTakes sk).wrF (Reg.vaultCtl t v) 48 1 1
  ({ c with mem := { c.mem with openRow := Store.clear c.mem.openRow (sk * 256) 256 } } : Chip).dropSlice sk

/-! ### Landings (R254) -/

/-- Retrain a landing to the code it needs. -/
def Chip.retrainLanding (c : Chip) (t v layer : Nat) (needed : Byte) : Chip :=
  let k := vaultKey t v * 16 + layer
  let c := { c with mem := { c.mem with trained := Store.put zeroBytes c.mem.trained k needed, drifted := Store.put noMark c.mem.drifted k false } }
  c.bump (Reg.vaultCtl t v) 40 8 1

/-- Whether the code a landing needs differs from its trained one by more than 8 steps. -/
def Chip.landingDrift (c : Chip) (t v layer : Nat) (needed : Byte) : Bool :=
  let tr := (Store.get zeroBytes c.mem.trained (vaultKey t v * 16 + layer)).toNat
  decide (tr + 8 < needed.toNat ∨ needed.toNat + 8 < tr)

/-- Self-refresh exit of a vault (Table 9-12 order 5): each landing is checked and retrained where it drifted. -/
def Chip.selfRefreshLeave (c : Chip) (t v : Nat) (needed : List Byte) : Chip :=
  let c := (needed.take c.part.layers).zipIdx.foldl (fun c e => if c.landingDrift t v e.2 e.1 then c.retrainLanding t v e.2 e.1 else c) c
  c.wrF (Reg.vaultCtl t v) 48 1 0

end Sys2Proof.Machine
end

