-- ==== Sys2Proof/Machine/Scalar.lean ====
section
/-! DEFINITION. The commands of chapter Gallery Programming Model that the scalar control core and its
registers take (R57 to R94): one meaning per command, over the operations of `Gallery.lean`. -/

namespace Sys2Proof.Machine

/-- An effect of a work-carrying stage: none while the Whistle holds the module (R542). DESIGN CHOICE: log entry 4. -/
def State.onLive (s : State) (f : Chip → Chip) : Host.Outcome State Fault Refusal :=
  s.onChip fun c => if c.stopped then c else f c

/-- An instruction at pc of the scalar core of gallery g. DESIGN CHOICE: log entry 4. -/
def State.onInstr (s : State) (g : GalId) (f : Chip → Nat → Chip) : Host.Outcome State Fault Refusal :=
  s.onChip fun c => c.galInstr (galKey g) fun c => f c (galKey g)

/-- What ends a wait of the scalar core of gallery g (R62, R64, R65): the instruction that waits is finished where HALT is set (R93), not
where a parity error halted the core (R92). -/
def State.onWait (s : State) (g : GalId) (f : Chip → Nat → Chip) : Host.Outcome State Fault Refusal :=
  s.onChip fun c => let k := galKey g; if !c.stopped && (c.gal k).live && !(c.gal k).dead then f c k else c

/-- Scalar register r of gallery k. -/
def Chip.xreg (c : Chip) (k : Nat) (r : Fin 32) : Word := (c.gal k).hart.get r.val

/-- A record of a gallery in its tower's error log (R498). -/
def Chip.galLog (c : Chip) (g : GalId) (kind src : Nat) : Chip :=
  c.errLog g.tower.val (416 + galKey g) 0 g.pos.val (0, 0, 0) kind src [] (some (.gallery g))

/-- An error that gallery g finds in a word it reads (R86, R487, R498): one that the code corrects is logged; one that it does not is logged
and marks the word for what reads it. DESIGN CHOICE: log entry 77. -/
def Chip.upset (g : GalId) (c : Chip) (u : GalUpset) : Chip :=
  let k := galKey g
  let mem (src key : Nat) : Chip :=
    if u.bad then (c.onGal k fun x => { x with ecc := Store.put noMark x.ecc key true }).galLog g 7 src else c.galLog g 6 src
  match u.cell with
  | .spad a => mem 5 (eccKey 0 a.val)
  | .imem a => mem 6 (eccKey 0x1000000 a.val)
  | .dmem a => mem 6 (eccKey 0x2000000 a.val)
  | .window n => (c.onGal k fun x => { x with mx := { x.mx with wbad := Store.put noMark x.mx.wbad n.val true } }).galLog g 8 9
  | .vreg i n =>
    let put (v : VCore) : VCore := { v with bad := Store.put noMark v.bad n.val true }
    (c.onGal k fun x => if i = 0 then { x with vx0 := put x.vx0 } else { x with vx1 := put x.vx1 }).galLog g 8 9

/-- SCALAR_INSTRUCTION: the instruction in instruction memory at pc (R57), with the errors that it finds in what it reads (R86). -/
def execScalarInstruction (x : GalRun) (s : State) : Host.Outcome State Fault Refusal :=
  s.onInstr x.gal fun c k => (x.errs.foldl (Chip.upset x.gal) c).scalarInstr k

/-- MRET (R90). -/
def execMret (g : GalId) (s : State) : Host.Outcome State Fault Refusal :=
  s.onInstr g fun c k => c.galMret k

/-- ISSUE rd, q, nb, (rs1) (R62, R63). -/
def execIssue (g : GalId) (rd rs1 : Fin 32) (q : Fin 8) (nb : Bool) (s : State) : Host.Outcome State Fault Refusal :=
  s.onInstr g fun c k => c.issue k rd.val q.val nb (c.xreg k rs1)

/-- A waiting ISSUE finds room (R62). -/
def execIssueQueueRoom (g : GalId) (s : State) : Host.Outcome State Fault Refusal :=
  s.onWait g fun c k => c.issueRoom k

/-- FENCEQ rs1 (R64). -/
def execFenceq (g : GalId) (rs1 : Fin 32) (s : State) : Host.Outcome State Fault Refusal :=
  s.onInstr g fun c k => c.fenceq k (c.xreg k rs1)

/-- A waiting FENCEQ finds its queues drained (R64); so does a STEP, released from a hold, that waits for its queues (R71). -/
def execFenceqDrained (g : GalId) (s : State) : Host.Outcome State Fault Refusal :=
  s.onWait g fun c k => c.fenceqDrained k

/-- STEP rs1 (R71). -/
def execStep (g : GalId) (rs1 : Fin 32) (s : State) : Host.Outcome State Fault Refusal :=
  s.onInstr g fun c k => c.step k (c.xreg k rs1)

/-- The usher releases a step hold (R71); the loading of another stage is EPOCH_OPEN's. -/
def execStepHoldRelease (g : GalId) (s : State) : Host.Outcome State Fault Refusal :=
  s.onLive fun c => c.holdRelease (galKey g)

/-- EPOCH rd (R70). -/
def execEpoch (g : GalId) (rd : Fin 32) (s : State) : Host.Outcome State Fault Refusal :=
  s.onInstr g fun c k => c.epochInstr k rd.val

/-- WAITC rd, rs1, rs2 with POLL = 0 (R65). -/
def execWaitc (g : GalId) (rd rs1 rs2 : Fin 32) (s : State) : Host.Outcome State Fault Refusal :=
  s.onInstr g fun c k => c.waitc k rd.val false ((c.xreg k rs1).toNat % 64) (c.xreg k rs2)

/-- WAITC rd, rs1, rs2 with POLL = 1 (R65). -/
def execWaitcPoll (g : GalId) (rd rs1 rs2 : Fin 32) (s : State) : Host.Outcome State Fault Refusal :=
  s.onInstr g fun c k => c.waitc k rd.val true ((c.xreg k rs1).toNat % 64) (c.xreg k rs2)

/-- A waiting WAITC finds its condition met (R65). -/
def execWaitcConditionMet (g : GalId) (s : State) : Host.Outcome State Fault Refusal :=
  s.onWait g fun c k => c.waitcMet k

/-- A wait of the scalar core passes GWAITLIM (R88). -/
def execWaitTimeout (g : GalId) (s : State) : Host.Outcome State Fault Refusal :=
  s.onWait g fun c k => c.waitTimeout k

/-- SIGC rs1, rs2 with SET = 0 (R66, R67). -/
def execSigc (g : GalId) (rs1 rs2 : Fin 32) (s : State) : Host.Outcome State Fault Refusal :=
  s.onInstr g fun c k => c.sigc k false (c.xreg k rs1) (c.xreg k rs2)

/-- SIGC rs1, rs2 with SET = 1 (R66). -/
def execSigcSet (g : GalId) (rs1 rs2 : Fin 32) (s : State) : Host.Outcome State Fault Refusal :=
  s.onInstr g fun c k => c.sigc k true (c.xreg k rs1) (c.xreg k rs2)

/-- The oldest remote signal from one gallery arrives at another (R67, R68). -/
def execRemoteSignalReceive (src dst : GalId) (s : State) : Host.Outcome State Fault Refusal :=
  s.onLive fun c => c.rsigReceive (galKey src) (galKey dst)

/-- MARK rd, rs1 with POP = 0 (R69). -/
def execMarkPush (g : GalId) (rd rs1 : Fin 32) (s : State) : Host.Outcome State Fault Refusal :=
  s.onInstr g fun c k => c.markPush k rd.val (c.xreg k rs1)

/-- MARK rd with POP = 1 (R69). -/
def execMarkPop (g : GalId) (rd : Fin 32) (s : State) : Host.Outcome State Fault Refusal :=
  s.onInstr g fun c k => c.markPop k rd.val

/-- Gallery k is switched on, or its position's cluster runs it (R353). DEDUCED: log entry 48. -/
def Chip.galOnline (c : Chip) (k : Nat) : Bool := (c.gal k).dom != .off || (c.gal k).shadow

/-- A write of a register of gallery g, by its program or through its page: none where it is off (R564), none while the Whistle holds the module. DEDUCED: log entry 48. -/
def State.onGalReg (s : State) (g : GalId) (f : Gallery → Gallery) : Host.Outcome State Fault Refusal :=
  s.onLive fun c => if c.galOnline (galKey g) then c.onGal (galKey g) f else c

/-- The usher clears HALT: the beats the core stood for count in mcycle. A core that a parity error halted stays halted until its stage is
loaded again or its gallery reset (R92). DESIGN CHOICE: log entry 103. -/
def Chip.haltClear (c : Chip) (k : Nat) : Chip :=
  let g := c.gal k
  if g.halt && !g.dead then c.setGal k { (if g.waiting.isSome then g else c.waited k) with halt := false } else c

/-- GCTL_HALT (R93): a write of 1 to GCTL.HALT; with `clear`, the usher clears it. -/
def execGctlHalt (x : HaltWrite) (s : State) : Host.Outcome State Fault Refusal :=
  s.onLive fun c =>
    let k := galKey x.gal
    if !c.galOnline k then c else if x.clear then c.haltClear k else c.onGal k fun g => g.haltAt c.act

/-- A write of GCTL.QRST (R91); a gallery whose queues it empties may come to stand held (R196). -/
def execGctlQrst (g : GalId) (mask : Fin 32) (s : State) : Host.Outcome State Fault Refusal :=
  s.onLive fun c =>
    let k := galKey g
    if !c.galOnline k then c else (c.onGal k fun g => g.qrst mask.val).heldCredit k

/-- A write of 1 to GFAULT.VALID (R91). -/
def execGfaultClear (g : GalId) (s : State) : Host.Outcome State Fault Refusal :=
  s.onGalReg g Gallery.faultClear

/-- A write of GCRED (R194). -/
def execGcredWrite (g : GalId) (v : Word) (s : State) : Host.Outcome State Fault Refusal :=
  s.onGalReg g fun g => g.gcredWrite v.toNat

/-- A parity error in the register file, or in an entry of a queue (R92), and its log record (R498). -/
def execCoreParityError (g : GalId) (q : Option QueueId) (s : State) : Host.Outcome State Fault Refusal :=
  s.onLive fun c => if c.galOnline (galKey g) then (c.parityError (galKey g) q).galLog g 8 9 else c

/-- The usher writes step n's mailbox half and counts it in CTR[63] (R94). -/
def execUsherMailboxWrite (g : GalId) (n : Word) (data : List Byte) (s : State) : Host.Outcome State Fault Refusal :=
  s.onLive fun c => if 2 ≤ c.epochState ∧ c.epochState ≤ 4 then c else c.mailboxWrite (galKey g) n data

end Sys2Proof.Machine
end

