-- ==== Sys2Proof/Machine/MatrixCommands.lean ====
section
/-! DEFINITION. The commands of chapter The Matrix Core: each descriptor's run, once its queue has started
it, and the preemption stop, the resume and the service descriptor. -/

namespace Sys2Proof.Machine

/-- Queue q of gallery k executes: the domain is up, the queue is not halted, the module is not stopped,
and for the matrix queue the core is not stopped (R125, R542). -/
def Chip.queueRuns (c : Chip) (k q : Nat) : Bool :=
  !c.stopped && (c.gal k).live && !((c.gal k).queue q).halted && !(q == 0 && (c.gal k).mx.stopped)

/-- An effect of a descriptor in flight on queue q of gallery g. -/
def State.onQueue (s : State) (g : GalId) (q : Nat) (f : Chip → Nat → Chip) : Host.Outcome State Fault Refusal :=
  s.onChip fun c => if c.queueRuns (galKey g) q then f c (galKey g) else c

/-- Run the array descriptor in flight if it has this opcode. -/
def Chip.mxRun (c : Chip) (k opc : Nat) : Chip :=
  c.onGal k fun g => g.runArray (srC3 0 c.epoch) (· == opc) none

/-- MX.LOAD (R108, R109). -/
def execMxLoad (g : GalId) (s : State) : Host.Outcome State Fault Refusal :=
  s.onQueue g 0 fun c k => c.mxRun k 0x10

/-- MX.STREAM (R110 to R112). -/
def execMxStream (g : GalId) (s : State) : Host.Outcome State Fault Refusal :=
  s.onQueue g 0 fun c k => c.mxRun k 0x11

/-- MX.STREAMG (R113). -/
def execMxStreamg (g : GalId) (s : State) : Host.Outcome State Fault Refusal :=
  s.onQueue g 0 fun c k => c.mxRun k 0x12

/-- MX.STREAMW (R114). -/
def execMxStreamw (g : GalId) (s : State) : Host.Outcome State Fault Refusal :=
  s.onQueue g 0 fun c k => c.mxRun k 0x13

/-- MX.KLOOP (R115). -/
def execMxKloop (g : GalId) (s : State) : Host.Outcome State Fault Refusal :=
  s.onQueue g 0 fun c k => c.mxRun k 0x14

/-- MX.FLUSH (R116, R124). -/
def execMxFlush (g : GalId) (s : State) : Host.Outcome State Fault Refusal :=
  s.onQueue g 0 fun c k => c.onGal k fun g => g.runFlush (srC3 0 c.epoch) c.part.hasTrain none

/-- MX.CFG (R118). -/
def execMxCfg (g : GalId) (s : State) : Host.Outcome State Fault Refusal :=
  s.onQueue g 0 fun c k => c.onGal k fun g => g.runExclusive 0x16 fun g d => (g.mxCfg d, 0)

/-- MX.SAVE (R119). -/
def execMxSave (g : GalId) (s : State) : Host.Outcome State Fault Refusal :=
  s.onQueue g 0 fun c k => c.onGal k fun g => g.runExclusive 0x17 Gallery.mxSave

/-- MX.RESTORE (R119). -/
def execMxRestore (g : GalId) (s : State) : Host.Outcome State Fault Refusal :=
  s.onQueue g 0 fun c k => c.onGal k fun g => g.runExclusive 0x18 Gallery.mxRestore

/-- A write of 1 to MXCTL.STOP (R125, Table 4-18). -/
def execMxPreemptionStop (g : GalId) (s : State) : Host.Outcome State Fault Refusal :=
  s.onGalReg g fun g => g.mxAsk 1

/-- The core has drained after a stop request (R125): the array descriptor in flight got to row `row` of
relative tile `tile`, during that tile's load if `inLoad`, and the flush in flight to row `flush`. A halted queue has nothing to drain. -/
def execMxStopDrained (g : GalId) (tile : Fin 64) (row : Half) (inLoad : Bool) (flush : Fin 1025) (s : State) :
    Host.Outcome State Fault Refusal :=
  s.onLive fun c =>
    let k := galKey g
    let x := c.gal k
    if !x.live || x.mx.stopped || x.mx.stopReq == 0 then c
    else
      let c3 := srC3 0 c.epoch
      let y := if (x.queue 0).halted then x
        else (x.runArray c3 (fun o => decide (0x10 ≤ o ∧ o ≤ 0x14)) (some ⟨tile.val, row.toNat, inLoad⟩)).runFlush c3 c.part.hasTrain (some flush.val)
      c.setGal k (y.mxStop c.act x.mx.stopReq)

/-- A write of 1 to MXCTL.GO (R126). -/
def execMxGo (g : GalId) (s : State) : Host.Outcome State Fault Refusal :=
  s.onLive fun c => let k := galKey g; if c.galOnline k then c.onGal k fun g => g.mxGo c.act else c

/-- A write of 1 to MXCTL.SVC (R126, Table 4-18), the usher having written MXSVC before where `svc` gives the descriptor (R128): SVCDONE
restarts with the run. The service descriptor has no issue index, so its stochastic draws are taken at a free one (log entry 9). -/
def execMxServiceRun (x : ServiceRun) (s : State) : Host.Outcome State Fault Refusal :=
  s.onLive fun c =>
    let k := galKey x.gal
    let n := c.fresh
    if !c.galOnline k then c
    else
      (match x.svc with | some d => n.2.onGal k fun g => { g with mx := { g.mx with svc := d } } | none => n.2).onGal k fun g =>
        g.mxService (Config.serviceDrawIndex n.1) (srC3 0 c.epoch) c.part.hasTrain

end Sys2Proof.Machine
end

