-- ==== Sys2Proof/Machine/SpecialFn.lean ====
section
/-! DEFINITION. The special functions of R156 and R157: the exact value rounded once to FP32. A value
is enclosed between two fixed-point bounds; when both bounds round to one FP32 word, that word is the
exact value rounded once, and otherwise the bounds are computed again at twice the precision. -/

namespace Sys2Proof

/-- Quotient rounded down, or up. -/
def divR (up : Bool) (a b : Nat) : Nat := if up then (a + b - 1) / b else a / b

/-- Product of two fixed-point numbers of `p` fraction bits. -/
def mulFix (up : Bool) (p a b : Nat) : Nat := divR up (a * b) (2 ^ p)

/-- Bounds of a magnitude: lo × 2^e ≤ value ≤ hi × 2^e. -/
structure Bounds where
  lo : Nat
  hi : Nat
  e : Int
  deriving DecidableEq, Repr

/-- A magnitude m × 2^e of sign neg rounded to FP32. -/
def rneFix (neg : Bool) (m : Nat) (e : Int) : Word := let f := scale2 m e; rneMag neg f.1 f.2

/-- The rounding of an enclosed magnitude, at doubling precision. -/
def zivRound (neg : Bool) (bounds : Nat → Bounds) : Nat → Nat → Word
  | 0, p => let b := bounds p; rneFix neg b.lo b.e
  | n + 1, p =>
    let b := bounds p
    let x := rneFix neg b.lo b.e
    if x = rneFix neg b.hi b.e then x else zivRound neg bounds n (2 * p)

/-- Σ t^(2k+1) / (2k+1), rounded down or up; `pow` is t^(2k+1). -/
def atanhGo (up : Bool) (p t2 : Nat) : Nat → Nat → Nat → Nat → Nat
  | 0, _, pow, acc => if up then acc + pow + 1 else acc
  | n + 1, k, pow, acc =>
    atanhGo up p t2 n (k + 1) (mulFix up p pow t2) (acc + divR up pow (2 * k + 1))

/-- atanh of num / den ≤ 1/3. -/
def atanhFix (up : Bool) (p num den : Nat) : Nat :=
  let t := divR up (num * 2 ^ p) den
  atanhGo up p (mulFix up p t t) (p / 3 + 4) 0 t 0

/-- ln 2 = 2 atanh(1/3). -/
def ln2Fix (up : Bool) (p : Nat) : Nat := 2 * atanhFix up p 1 3

/-- Σ r^j / j!, rounded down or up, for 0 ≤ r < 1. -/
def expGo (up : Bool) (p r : Nat) : Nat → Nat → Nat → Nat → Nat
  | 0, _, term, acc => if up then acc + 2 * term + 1 else acc
  | n + 1, j, term, acc => expGo up p r n (j + 1) (divR up (term * r) (2 ^ p * (j + 1))) (acc + term)

/-- e^x for lo ≤ x × 2^p ≤ hi. -/
def expBounds (p : Nat) (lo hi : Int) : Bounds :=
  let l : Int := ln2Fix false p
  let u : Int := ln2Fix true p
  let n := lo / u
  let rlo := lo - n * (if 0 ≤ n then u else l)
  let rhi := hi - n * (if 0 ≤ n then l else u)
  let one : Nat := 2 ^ p
  let a : Nat := if rlo < 0 then ((one : Int) + rlo).toNat else expGo false p rlo.toNat (p / 2 + 8) 0 one 0
  ⟨a, expGo true p rhi.toNat (p / 2 + 8) 0 one 0, n - (p : Int)⟩

/-- An exact dyadic magnitude as fixed point; exact when e ≥ −p. -/
def fixOf (p m : Nat) (e : Int) : Nat := let f := scale2 m (e + p); f.1 / f.2

/-- ⌊√n⌋, one result bit at a time. -/
def isqrtGo (n : Nat) : Nat → Nat → Nat
  | 0, r => r
  | b + 1, r => let q := r + 2 ^ b; isqrtGo n b (if q * q ≤ n then q else r)

/-- ⌊√n⌋. -/
def isqrt (n : Nat) : Nat := isqrtGo n (n.log2 / 2 + 1) 0

/-- Σ (−1)^k / ((2k+1) n^(2k+1)) as an integer near the exact sum. -/
def atanInvGo (n2 : Nat) : Nat → Nat → Nat → Int → Int
  | 0, _, _, acc => acc
  | f + 1, k, pow, acc =>
    let t : Int := (pow / (2 * k + 1) : Nat)
    atanInvGo n2 f (k + 1) (pow / n2) (if k % 2 = 0 then acc + t else acc - t)

/-- π by Machin's formula, rounded down or up. -/
def piFix (up : Bool) (p : Nat) : Nat :=
  let k := p / 4 + 4
  let a := atanInvGo 25 k 0 (2 ^ p / 5) 0
  let b := atanInvGo (239 * 239) k 0 (2 ^ p / 239) 0
  let c := 16 * a - 4 * b
  let err : Int := 64 * ((k : Int) + 4)
  (if up then c + err else c - err).toNat

/-- e^x rounded once (R156). -/
def fExp (x : Word) : Word :=
  match fp32 x with
  | .nan => nan32
  | .inf neg => if neg then 0 else inf32 false
  | .fin neg m e =>
    let f := scale2 m e
    if m < 2 ^ 23 then 0x3F800000#32
    else if 128 * f.2 ≤ f.1 then (if neg then 0 else inf32 false)
    else zivRound false (fun p =>
      let v : Int := fixOf p m e
      let v := if neg then -v else v
      expBounds p v v) 3 192

/-- 2^x rounded once. -/
def fExp2 (x : Word) : Word :=
  match fp32 x with
  | .nan => nan32
  | .inf neg => if neg then 0 else inf32 false
  | .fin neg m e =>
    let f := scale2 m e
    if m < 2 ^ 23 then 0x3F800000#32
    else if 256 * f.2 ≤ f.1 then (if neg then 0 else inf32 false)
    else if f.1 % f.2 = 0 then
      let k : Int := (f.1 / f.2 : Nat)
      rne32 ⟨1, if neg then -k else k⟩
    else zivRound false (fun p =>
      let v : Int := fixOf p m e
      let v := if neg then -v else v
      let n := v / (2 ^ p : Nat)
      let r := (v - n * (2 ^ p : Nat)).toNat
      let b := expBounds p (mulFix false p r (ln2Fix false p)) (mulFix true p r (ln2Fix true p))
      ⟨b.lo, b.hi, b.e + n⟩) 3 192

/-- ln x rounded once. -/
def fLog (x : Word) : Word :=
  match fp32 x with
  | .nan => nan32
  | .inf neg => if neg then nan32 else inf32 false
  | .fin neg m e =>
    if m < 2 ^ 23 then inf32 true
    else if neg then nan32
    else if x = 0x3F800000#32 then 0
    else
      let k := e + 23
      zivRound (decide (k < 0)) (fun p =>
        let l : Int := ln2Fix false p
        let u : Int := ln2Fix true p
        let a : Int := 2 * atanhFix false p (m - 2 ^ 23) (m + 2 ^ 23)
        let b : Int := 2 * atanhFix true p (m - 2 ^ 23) (m + 2 ^ 23)
        let lo := (if 0 ≤ k then k * l else k * u) + a
        let hi := (if 0 ≤ k then k * u else k * l) + b
        if k < 0 then ⟨(-hi).toNat, (-lo).toNat, -(p : Int)⟩ else ⟨lo.toNat, hi.toNat, -(p : Int)⟩) 3 192

/-- 1 / x rounded once. -/
def fRcp (x : Word) : Word :=
  match fp32 x with
  | .nan => nan32
  | .inf neg => zero32 neg
  | .fin neg m e =>
    if m < 2 ^ 23 then inf32 neg
    else let f := scale2 1 (-e); rneMag neg f.1 (f.2 * m)

/-- 1 / √x rounded once. -/
def fRsqrt (x : Word) : Word :=
  match fp32 x with
  | .nan => nan32
  | .inf neg => if neg then nan32 else 0
  | .fin neg m e =>
    if m < 2 ^ 23 then inf32 neg
    else if neg then nan32
    else
      let m2 := if e % 2 = 0 then m else 2 * m
      let e2 := if e % 2 = 0 then e else e - 1
      let q := isqrt (2 ^ 160 / m2)
      rneFix false (2 * q + (if q * q * m2 = 2 ^ 160 then 0 else 1)) (-(e2 / 2) - 81)

/-- tanh x rounded once. Below 2^−13 the exact value lies within a quarter ulp of x, and from 10 up
within a quarter ulp of 1. -/
def fTanh (x : Word) : Word :=
  match fp32 x with
  | .nan => nan32
  | .inf neg => if neg then 0xBF800000#32 else 0x3F800000#32
  | .fin neg m e =>
    let f := scale2 m e
    if m < 2 ^ 23 then zero32 neg
    else if f.1 * 8192 < f.2 then x
    else if 10 * f.2 ≤ f.1 then (if neg then 0xBF800000#32 else 0x3F800000#32)
    else zivRound neg (fun p =>
      let v : Int := (2 * fixOf p m e : Nat)
      let b := expBounds p v v
      let one := 2 ^ p
      let lo := fixOf p b.lo b.e
      let hi := fixOf p b.hi b.e + 1
      ⟨(lo - one) * one / (lo + one), divR true ((hi - one) * one) (hi + one), -(p : Int)⟩) 3 192

/-- Bounds of 1 / (1 + e^−y) where y has magnitude in [lo, hi] × 2^−p and sign neg. -/
def sigmBounds (p : Nat) (neg : Bool) (lo hi : Nat) : Bounds :=
  let b := expBounds p (-(hi : Int)) (-(lo : Int))
  let s := (-b.e).toNat
  if neg then ⟨b.lo * 2 ^ s / (2 ^ s + b.lo), divR true (b.hi * 2 ^ s) (2 ^ s + b.hi), -(s : Int)⟩
  else ⟨2 ^ (s + p) / (2 ^ s + b.hi), divR true (2 ^ (s + p)) (2 ^ s + b.lo), -(p : Int)⟩

/-- The logistic sigmoid rounded once. -/
def fSigm (x : Word) : Word :=
  match fp32 x with
  | .nan => nan32
  | .inf neg => if neg then 0 else 0x3F800000#32
  | .fin neg m e =>
    let f := scale2 m e
    if m < 2 ^ 23 then 0x3F000000#32
    else if 256 * f.2 ≤ f.1 then (if neg then 0 else 0x3F800000#32)
    else zivRound false (fun p => sigmBounds p neg (fixOf p m e) (fixOf p m e)) 3 192

/-- x / (1 + e^−x) rounded once; −inf gives −0 (Table 6-6). -/
def fSilu (x : Word) : Word :=
  match fp32 x with
  | .nan => nan32
  | .inf neg => if neg then zero32 true else inf32 false
  | .fin neg m e =>
    let f := scale2 m e
    if m < 2 ^ 23 then zero32 neg
    else if 256 * f.2 ≤ f.1 then (if neg then zero32 true else x)
    else zivRound neg (fun p =>
      let b := sigmBounds p neg (fixOf p m e) (fixOf p m e)
      ⟨b.lo * m, b.hi * m, b.e + e⟩) 3 192

/-- Σ x^(2n+1) / (2n+1)!!, rounded down or up. -/
def erfGo (up : Bool) (p x2 : Nat) : Nat → Nat → Nat → Nat → Nat
  | 0, _, term, acc => if up then acc + term + 1 else acc
  | n + 1, k, term, acc => erfGo up p x2 n (k + 1) (divR up (term * x2) (2 ^ p * (2 * k + 3))) (acc + term)

/-- x·Φ(x) in erf form rounded once. -/
def fGeluErf (x : Word) : Word :=
  match fp32 x with
  | .nan => nan32
  | .inf neg => if neg then zero32 true else inf32 false
  | .fin neg m e =>
    let f := scale2 m e
    if m < 2 ^ 23 then zero32 neg
    else if 20 * f.2 ≤ f.1 then (if neg then zero32 true else x)
    else zivRound neg (fun p =>
      let v := fixOf p m e
      let x2lo := mulFix false p v v
      let x2hi := mulFix true p v v
      let slo := erfGo false p x2lo (2 * p) 0 v 0
      let shi := erfGo true p x2hi (2 * p) 0 v 0
      let ex := expBounds p (-(x2hi : Int) / 2 - 1) (-(x2lo : Int) / 2 + 1)
      let elo := fixOf p ex.lo ex.e
      let ehi := fixOf p ex.hi ex.e + 1
      let clo := isqrt (2 ^ (3 * p) / (2 * piFix true p))
      let chi := isqrt (2 ^ (3 * p) / (2 * piFix false p)) + 1
      let dlo := mulFix false p (mulFix false p slo elo) clo
      let dhi := mulFix true p (mulFix true p shi ehi) chi
      let half := 2 ^ (p - 1)
      if neg then ⟨(half - dhi) * m, (half - dlo) * m, e - (p : Int)⟩
      else ⟨(half + dlo) * m, (half + dhi) * m, e - (p : Int)⟩) 2 768

/-- x·Φ(x) in tanh form rounded once: ½(1 + tanh u) is the sigmoid of 2u. -/
def fGeluTanh (x : Word) : Word :=
  match fp32 x with
  | .nan => nan32
  | .inf neg => if neg then zero32 true else inf32 false
  | .fin neg m e =>
    let f := scale2 m e
    if m < 2 ^ 23 then zero32 neg
    else if 20 * f.2 ≤ f.1 then (if neg then zero32 true else x)
    else zivRound neg (fun p =>
      let v := fixOf p m e
      let inLo := (1000000 * v + 44715 * mulFix false p v (mulFix false p v v)) / 1000000
      let inHi := divR true (1000000 * v + 44715 * mulFix true p v (mulFix true p v v)) 1000000
      let clo := isqrt (2 * 2 ^ (3 * p) / piFix true p)
      let chi := isqrt (2 * 2 ^ (3 * p) / piFix false p) + 1
      let b := sigmBounds p neg (2 * mulFix false p inLo clo) (2 * mulFix true p inHi chi)
      ⟨b.lo * m, b.hi * m, b.e + e⟩) 3 192

/-- Alternating Taylor sum of sine (k odd start) or cosine; `n` is the order of the current term. -/
def trigGo (p r2 : Nat) : Nat → Nat → Nat → Bool → Int → Int
  | 0, _, _, _, acc => acc
  | f + 1, n, term, neg, acc =>
    trigGo p r2 f (n + 2) (term * r2 / (2 ^ p * ((n + 1) * (n + 2)))) (!neg)
      (if neg then acc - (term : Int) else acc + (term : Int))

/-- Bounds of sin r or cos r for lo ≤ r × 2^p ≤ hi < 2 × 2^p. -/
def trigBounds (p lo hi : Nat) (cosine : Bool) : Bounds :=
  let k := p / 4 + 24
  let r2 := mulFix false p lo lo
  let s := if cosine then trigGo p r2 k 0 (2 ^ p) false 0 else trigGo p r2 k 1 lo false 0
  let err : Int := 8 * ((k : Int) + 4) + ((hi : Int) - (lo : Int))
  ⟨(s - err).toNat, (s + err).toNat, -(p : Int)⟩

/-- sin φ or cos φ rounded once, with exact argument reduction (R157). -/
def fTrig (cosine : Bool) (x : Word) : Word :=
  match fp32 x with
  | .nan => nan32
  | .inf _ => nan32
  | .fin neg m e =>
    let f := scale2 m e
    if f.1 * 8192 < f.2 then (if cosine then 0x3F800000#32 else x)
    else
      -- the quadrant is fixed once, at a precision where no FP32 argument is ambiguous
      let quad (p : Nat) : Nat := 2 * fixOf (p + 160) m e / piFix true (p + 160)
      let n := quad 192
      let useCos := cosine != decide (n % 2 = 1)
      let flip := if cosine then decide (n % 4 = 1 ∨ n % 4 = 2) else decide (2 ≤ n % 4)
      zivRound (flip != (!cosine && neg)) (fun p =>
        let q := p + 160
        let v := 2 * fixOf q m e
        let lo := (v - n * piFix true q) / 2
        let hi := divR true (v - n * piFix false q) 2
        let b := trigBounds q lo hi useCos
        b) 3 192

end Sys2Proof
end

