-- ==== Sys2Proof/Machine/Vector.lean ====
section
/-! DEFINITION. The vector cores (R144 to R173): registers, operand specifiers, shapes and predicates,
scratchpad rows in every format, and the body checks. -/

namespace Sys2Proof.Machine

/-! ### Registers (R144) -/

/-- Vector core i of a gallery. -/
def Gallery.vx (g : Gallery) (i : Nat) : VCore := if i = 0 then g.vx0 else g.vx1

/-- Put a vector core back. -/
def Gallery.setVx (g : Gallery) (i : Nat) (v : VCore) : Gallery :=
  if i = 0 then { g with vx0 := v } else { g with vx1 := v }

/-- Key of tile word T[t][r][c]. -/
def tileKey (t r c : Nat) : Nat := t * 16384 + r * 128 + c

/-- Key of element l of vector register v. -/
def vecKey (v l : Nat) : Nat := 65536 + v * 128 + l

/-- Masks read zero where nothing is listed. -/
def zeroMask : Nat → BitVec 128 := fun _ => 0

/-- A register word. -/
def VCore.word (v : VCore) (k : Nat) : Word := Store.get zeroWord v.words k

/-- Write a register word; its parity is good again. -/
def VCore.setWord (v : VCore) (k : Nat) (w : Word) : VCore :=
  { v with words := Store.put zeroWord v.words k w, bad := Store.put noMark v.bad k false }

/-- 128 consecutive register words. -/
def VCore.line (v : VCore) (k : Nat) : List Word := (List.range 128).map fun c => v.word (k + c)

/-- Whether a word of `n` from key k has bad parity. -/
def VCore.lineBad (v : VCore) (k n : Nat) : Bool :=
  v.bad.any fun e => e.2 && decide (k ≤ e.1) && decide (e.1 < k + n)

/-- Mask register m. -/
def VCore.mask (v : VCore) (m : Nat) : BitVec 128 := Store.get zeroMask v.masks m

/-- Write mask register m. -/
def VCore.setMask (v : VCore) (m : Nat) (b : BitVec 128) : VCore :=
  { v with masks := Store.put zeroMask v.masks m b, bad := Store.put noMark v.bad (66560 + m) false }

/-! ### Descriptor fields (Table 6-2) -/

/-- A VX descriptor with the core that runs it and its draw coordinates (R141). -/
structure VxRun where
  core : Nat
  d : Desc
  issue : Nat
  c3 : Nat
  deriving DecidableEq, Repr

def VxRun.dst (x : VxRun) : Nat := descF x.d 8 0 4
def VxRun.sa (x : VxRun) : Nat := descF x.d 8 4 4
def VxRun.sb (x : VxRun) : Nat := descF x.d 8 8 4
def VxRun.sc (x : VxRun) : Nat := descF x.d 8 12 4
def VxRun.xa (x : VxRun) : Bool := descF x.d 8 16 1 == 1
def VxRun.xb (x : VxRun) : Bool := descF x.d 8 17 1 == 1
def VxRun.xc (x : VxRun) : Bool := descF x.d 8 18 1 == 1
def VxRun.vec (x : VxRun) : Bool := descF x.d 8 19 1 == 1
def VxRun.pm (x : VxRun) : Nat := descF x.d 8 20 2
def VxRun.pe (x : VxRun) : Bool := descF x.d 8 22 1 == 1
def VxRun.prow (x : VxRun) : Bool := descF x.d 8 23 1 == 1
def VxRun.mod (x : VxRun) : Nat := descF x.d 8 24 8
def VxRun.imm (x : VxRun) : Word := BitVec.ofNat 32 (descF x.d 12 0 32)
def VxRun.spa (x : VxRun) : Nat := descF x.d 16 0 22
def VxRun.sstr (x : VxRun) : Nat := descF x.d 16 22 10
def VxRun.spd (x : VxRun) : Nat := descF x.d 20 0 22
def VxRun.dstr (x : VxRun) : Nat := descF x.d 20 22 10
def VxRun.sfmt (x : VxRun) : Nat := descF x.d 24 0 4
def VxRun.dfmt (x : VxRun) : Nat := descF x.d 24 4 4
def VxRun.rnd (x : VxRun) : Bool := descF x.d 24 8 1 == 1
def VxRun.ovf (x : VxRun) : Bool := descF x.d 24 9 1 == 1
def VxRun.ftz (x : VxRun) : Bool := descF x.d 24 10 1 == 1
def VxRun.osc (x : VxRun) : Bool := descF x.d 24 11 1 == 1
def VxRun.sca (x : VxRun) : Nat := descF x.d 28 0 22

/-- Bytes of a row of 128 elements (Table 6-4). -/
def vxRowBytes (f : Nat) : Nat := 128 * (Fmt.ofCode f).bits / 8

/-- Scale bytes of a row of 128 elements (Table 6-4). -/
def vxScaleBytes (f : Nat) : Nat :=
  let b := (Fmt.ofCode f).block
  if b = 0 then 0 else 128 / b

/-! ### Predicates (R151) -/

/-- The predicate of the descriptor, or a parity error in the mask it names. -/
def Gallery.vxPred (g : Gallery) (x : VxRun) : Except Nat (BitVec 128) :=
  if x.pe then
    if Store.get noMark (g.vx x.core).bad (66560 + x.pm) then .error 0x12 else .ok ((g.vx x.core).mask x.pm)
  else .ok 0

/-- Lane c takes part under a lane predicate. -/
def VxRun.laneOn (x : VxRun) (p : BitVec 128) (c : Nat) : Bool := !x.pe || x.prow || p.getLsbD c

/-- Row r takes part under a row predicate. -/
def VxRun.rowOn (x : VxRun) (p : BitVec 128) (r : Nat) : Bool := !x.pe || !x.prow || p.getLsbD r

/-! ### Reading operands (R147 to R149) -/

/-- Row elements of a scratchpad operand at `a`, scales at `sa`, in SFMT, multiplied by IMM under OSC. The
word formats 0xE and 0xF are no FP32 values and are not multiplied. A product above the largest finite FP32 value becomes
that value or infinity. DESIGN CHOICE: log entry 6. -/
def Gallery.vxRowAt (g : Gallery) (x : VxRun) (a sa : Nat) (beyond : Nat) : Except Nat (List Word) :=
  let n := vxRowBytes x.sfmt
  let ns := vxScaleBytes x.sfmt
  if spadSize < a + n ∨ (ns ≠ 0 ∧ spadSize < sa + ns) then .error beyond
  else if g.spadBad a n || (ns != 0 && g.spadBad sa ns) then .error 0x02
  else
    let f := Fmt.ofCode x.sfmt
    .ok <| (List.range 128).map fun c =>
      let scale := if f.block = 0 then 0 else (Memory.byte g.spad (sa + c / f.block)).toNat
      let w := f.toFp32 (Config.readOverflows scale (elemAt g.spad a f.bits c)) scale (elemAt g.spad a f.bits c)
      if x.osc && decide (x.sfmt < 0xE) then fMul w x.imm else w

/-- Row r of a source operand. -/
def Gallery.vxSource (g : Gallery) (x : VxRun) (spec : Nat) (col : Bool) (r : Nat) : Except Nat (List Word) :=
  let v := g.vx x.core
  if spec < 4 then
    if v.lineBad (tileKey spec r 0) 128 then .error 0x12 else .ok (v.line (tileKey spec r 0))
  else if spec < 0xC then
    let k := vecKey (spec - 4) 0
    if col && !x.vec then
      if v.lineBad (k + r) 1 then .error 0x12 else .ok ((List.range 128).map fun _ => v.word (k + r))
    else if v.lineBad k 128 then .error 0x12 else .ok (v.line k)
  else if spec = 0xC then .ok ((List.range 128).map fun _ => x.imm)
  else if spec = 0xD then
    g.vxRowAt x (x.spa + r * strideOf x.sstr (vxRowBytes x.sfmt)) (x.sca + r * vxScaleBytes x.sfmt) 0x10
  else .ok ((List.range 128).map fun _ => 0)

/-! ### Writing results (R138, R140, R149, R151) -/

/-- The codes of a scaled row and its scale bytes, block by block (R140). -/
def Gallery.vxBlocks (g : Gallery) (x : VxRun) (r : Nat) (f : Fmt) : Nat → Nat → List Word → List Nat × List Nat
  | 0, _, _ => ([], [])
  | n + 1, b, ws =>
    let blk := f.convertBlock (fun i => g.rounding x.rnd x.c3 x.issue r (b * f.block + i)) x.ovf x.ftz x.imm (ws.take f.block)
    let rest := g.vxBlocks x r f n (b + 1) (ws.drop f.block)
    (blk.1 :: rest.1, blk.2 ++ rest.2)

/-- Row r to the scratchpad at `a`, scales at `sa`, in DFMT; an element that is `none` keeps its bytes. -/
def Gallery.vxRowPut (g : Gallery) (x : VxRun) (r a sa beyond : Nat) (ws : List (Option Word)) : Except Nat Gallery :=
  let f := Fmt.ofCode x.dfmt
  let n := vxRowBytes x.dfmt
  let ns := vxScaleBytes x.dfmt
  if spadSize < a + n ∨ (ns ≠ 0 ∧ spadSize < sa + ns) then .error beyond
  else if f.block = 0 then
    let codes := ws.zipIdx.map fun e =>
      match e.1 with
      | some w => f.convert (g.rounding x.rnd x.c3 x.issue r e.2) x.ovf x.ftz w
      | none => elemAt g.spad a f.bits e.2
    .ok (g.spadWrite a (packElems f.bits codes))
  else
    let q := g.vxBlocks x r f (128 / f.block) 0 (ws.map fun w => w.getD 0)
    .ok ((g.spadWrite a (packElems f.bits q.2)).spadWrite sa (q.1.map (BitVec.ofNat 8)))

/-- Register words from key k; `none` keeps the old word. -/
def Gallery.vxPutLine (g : Gallery) (x : VxRun) (k : Nat) (ws : List (Option Word)) : Gallery :=
  g.setVx x.core (ws.zipIdx.foldl (fun v e => match e.1 with | some w => v.setWord (k + e.2) w | none => v) (g.vx x.core))

/-- Row r of the destination under the lane predicate p. -/
def Gallery.vxDest (g : Gallery) (x : VxRun) (p : BitVec 128) (r : Nat) (ws : List (Option Word)) : Except Nat Gallery :=
  let ws := ws.zipIdx.map fun e => if x.laneOn p e.2 then e.1 else none
  if x.dst < 4 then .ok (g.vxPutLine x (tileKey x.dst r 0) ws)
  else if x.dst < 0xC then .ok (g.vxPutLine x (vecKey (x.dst - 4) 0) ws)
  else g.vxRowPut x r (x.spd + r * strideOf x.dstr (vxRowBytes x.dfmt)) (x.sca + r * vxScaleBytes x.dfmt) 0x10 ws

/-- One element of a vector register. -/
def Gallery.vxPutElem (g : Gallery) (x : VxRun) (v l : Nat) (w : Word) : Gallery :=
  g.setVx x.core ((g.vx x.core).setWord (vecKey v l) w)

/-! ### Running rows -/

/-- How many rows the shape has (R148). -/
def VxRun.rows (x : VxRun) : Nat := if x.vec then 1 else 128

/-- Run a row function over the shape's rows to the first fault; rows that a row predicate excludes are
counted in GSKVROW (R151, R193). -/
def vxEachRow (x : VxRun) (p : BitVec 128) (f : Nat → Gallery → Except Nat Gallery) (g : Gallery) : Gallery × Nat :=
  let step (r : Nat) (g : Gallery) : Except Nat Gallery :=
    if x.vec || x.rowOn p r then f r g else .ok (g.skipAdd 4 1)
  let q := mxRows step 0 g x.rows
  (q.1, match q.2 with | some e => e.2 | none => 0)

/-- A descriptor's whole effect: its predicate, then what it does. -/
def Gallery.vxWith (g : Gallery) (x : VxRun) (f : BitVec 128 → Gallery × Nat) : Gallery × Nat :=
  match g.vxPred x with
  | .error st => (g, st)
  | .ok p => f p

/-- An elementwise operation of three sources; `none` leaves the destination element (R148, R151). -/
def Gallery.vxLanes (g : Gallery) (x : VxRun) (na nb nc : Bool) (f : Nat → Nat → Word → Word → Word → Option Word) :
    Gallery × Nat :=
  g.vxWith x fun p => vxEachRow x p (fun r g =>
    let src (use : Bool) (spec : Nat) (col : Bool) : Except Nat (List Word) :=
      if use then g.vxSource x spec col r else .ok ((List.range 128).map fun _ => 0)
    match src na x.sa x.xa, src nb x.sb x.xb, src nc x.sc x.xc with
    | .error st, _, _ => .error st
    | _, .error st, _ => .error st
    | _, _, .error st => .error st
    | .ok a, .ok b, .ok c =>
      g.vxDest x p r ((List.range 128).map fun i => f r i (listGet 0 a i) (listGet 0 b i) (listGet 0 c i))) g

/-! ### Body checks (R172) -/

/-- A specifier a source may have: registers, IMM or the scratchpad; a tile only in tile shape. -/
def srcOk (vec : Bool) (spec : Nat) : Bool := decide (spec ≤ 0xD) && !(vec && decide (spec < 4))

/-- A specifier a destination may have: a tile or the scratchpad in tile shape, a vector register or the
scratchpad in vector shape. -/
def dstOk (vec : Bool) (spec : Nat) : Bool :=
  spec == 0xD || (if vec then decide (4 ≤ spec ∧ spec < 0xC) else decide (spec < 4))

/-- Whether a specifier names a vector register. -/
def isVec (spec : Nat) : Bool := decide (4 ≤ spec ∧ spec < 0xC)

/-- An X bit may be 1 only for a vector register in tile shape (R148). -/
def xOk (vec : Bool) (spec : Nat) (b : Bool) : Bool := !b || (!vec && isVec spec)

/-- Whether a format code is scaled. -/
def vxScaled (f : Nat) : Bool := (Fmt.ofCode f).block != 0

/-- The specifiers, shapes and MOD bits an opcode allows (Table 6-5, R147 to R166). DEDUCED: log entry 71. -/
def vxShapeOk (x : VxRun) : Bool :=
  let lanes (n : Nat) : Bool :=
    (decide (n < 1) || (srcOk x.vec x.sa && xOk x.vec x.sa x.xa)) && (decide (n < 2) || (srcOk x.vec x.sb && xOk x.vec x.sb x.xb))
    && (decide (n < 3) || (srcOk x.vec x.sc && xOk x.vec x.sc x.xc))
  let opt (spec : Nat) (b : Bool) : Bool := (spec == 0xF && !b) || (srcOk x.vec spec && xOk x.vec spec b)
  let red : Bool := (if x.vec then srcOk true x.sa else decide (x.sa < 4 ∨ x.sa = 0xD)) && !x.xa && isVec x.dst
  let even (spec : Nat) : Bool := isVec spec && spec % 2 == 0
  let noShape : Bool := !x.vec && !x.xa && !x.xb && !x.xc
  match descOpc x.d with
  | 0x30 => lanes 1 && dstOk x.vec x.dst && x.mod == 0
  | 0x31 | 0x32 | 0x33 | 0x35 | 0x36 | 0x41 | 0x42 | 0x43 | 0x44 | 0x45 | 0x46 => lanes 2 && dstOk x.vec x.dst && x.mod == 0
  | 0x34 => lanes 3 && dstOk x.vec x.dst && x.mod == 0
  | 0x37 | 0x38 => lanes 1 && dstOk x.vec x.dst && x.mod == 0
  | 0x39 => lanes 2 && (!x.vec || decide (x.dst < 4)) && decide (x.mod < 8)
  | 0x48 => lanes 2 && (!x.vec || decide (x.dst < 4)) && decide (x.mod < 16) && decide (x.mod % 8 < 6)
  | 0x3A => lanes 3 && dstOk x.vec x.dst && x.dst != 0xD && decide (x.mod < 8)
  | 0x3B => lanes 2 && dstOk x.vec x.dst && x.mod == 0
  | 0x3C => dstOk x.vec x.dst && decide (x.mod < 4)
  | 0x3D =>
    if x.mod = 3 then x.vec && even x.sa && !x.xa && dstOk true x.dst else lanes 1 && dstOk x.vec x.dst && decide (x.mod < 3)
  | 0x40 =>
    if x.mod = 1 then x.vec && even x.dst && even x.sa && even x.sb && !x.xa && !x.xb
    else lanes 2 && dstOk x.vec x.dst && x.mod == 0
  | 0x47 => lanes 2 && dstOk x.vec x.dst && decide (x.mod < 2)
  | 0x50 | 0x51 | 0x52 | 0x53 | 0x54 | 0x55 | 0x56 | 0x57 =>
    lanes 1 && opt x.sb x.xb && opt x.sc x.xc && dstOk x.vec x.dst && x.mod == 0
  | 0x58 => lanes 1 && opt x.sb x.xb && opt x.sc x.xc && dstOk x.vec x.dst && decide (x.mod < 2)
  | 0x59 => !x.vec && decide (x.sa < 4 ∨ x.sa = 0xD) && !x.xa && isVec x.sb && isVec x.sc && dstOk false x.dst && decide (x.mod < 2)
  | 0x60 => red && x.mod % 32 == 0 && (!bitOf x.mod 5 || even x.dst)
  | 0x61 | 0x62 => red && x.mod % 64 == 0
  | 0x63 => red && x.mod % 64 == 0 && x.dst != 0xB
  | 0x64 =>
    lanes 1 && (if x.vec then isVec x.dst else decide (x.dst < 4))
    && x.dst != x.sa && decide (1 ≤ x.mod % 16 ∧ x.mod % 16 ≤ 8) && !bitOf x.mod 4
    && !(bitOf x.mod 5 && bitOf x.mod 7) && (descF x.d 24 15 1 == 0 || (isVec x.sb && x.sb != 0xB))
  | 0x65 => lanes 1 && dstOk x.vec x.dst && !bitOf x.mod 2
      && field x.mod 3 4 == 0
  | 0x66 => red && (x.mod == 0 || x.mod == 0x40)
  | 0x67 => lanes 1 && dstOk x.vec x.dst && isVec x.sb && !x.xb && decide (x.mod < 2)
  | 0x6C => !x.vec && isVec x.sa && dstOk false x.dst && x.mod == 0
  | 0x6D => !x.vec && isVec x.sa && decide (x.sb < 4 ∨ x.sb = 0xD) && !x.xb && x.mod == 0
  | 0x6E => lanes 1 && dstOk x.vec x.dst && x.mod == 0 && [0, 1, 7, 11, 12, 13, 14, 15].contains x.sfmt
  | 0x70 => noShape && decide (x.dst < 4) && decide (x.sa < 4) && decide (x.sb < 4) && decide (x.mod < 4)
  | 0x71 => noShape && decide (x.dst < 4) && x.mod == 0
  | 0x72 => noShape && decide (x.sa < 4) && x.mod == 0
  | 0x73 => noShape && decide (x.sa < 4) && isVec x.dst && x.mod == 0
  | 0x78 => x.vec && lanes 3 && dstOk true x.dst && decide (x.mod < 8)
  | 0x79 => !x.vec && decide (x.sa < 4 ∨ x.sa = 0xD) && !x.xa && isVec x.sb && isVec x.sc && isVec x.dst && x.dst != 0xB
      && decide (1 ≤ x.mod ∧ x.mod ≤ 8)
  | 0x7E | 0x7F => noShape && x.mod == 0
  | _ => false

/-- Which sources the opcode reads from the scratchpad, as a bit for rows in SFMT. -/
def vxReadsSpad (x : VxRun) : Bool :=
  let opc := descOpc x.d
  if opc = 0x6C ∨ opc = 0x6E then true
  else if opc = 0x6D then x.sb == 0xD
  else if 0x70 ≤ opc ∧ opc ≤ 0x73 ∨ opc = 0x7E ∨ opc = 0x7F ∨ opc = 0x3C then false
  else x.sa == 0xD || (x.sb == 0xD && ! [0x30, 0x37, 0x38, 0x3D, 0x59, 0x60, 0x61, 0x62, 0x63, 0x64, 0x65, 0x66, 0x67, 0x79].contains opc)
    || (x.sc == 0xD && [0x34, 0x3A, 0x50, 0x51, 0x52, 0x53, 0x54, 0x55, 0x56, 0x57, 0x58, 0x78].contains opc)

/-- Whether the opcode writes rows in DFMT to the scratchpad. -/
def vxWritesSpad (x : VxRun) : Bool :=
  let opc := descOpc x.d
  if opc = 0x6D then true
  else if opc = 0x39 ∨ opc = 0x48 ∨ 0x70 ≤ opc ∧ opc ≤ 0x73 ∨ opc = 0x7E ∨ opc = 0x7F then false
  else x.dst == 0xD

/-- How many of SA, SB and SC, in order, the operation's row of Table 6-5 uses; VTOPK uses SB under EXCL only
(R160). -/
def vxSourcesUsed (x : VxRun) : Nat :=
  match descOpc x.d with
  | 0x30 | 0x37 | 0x38 | 0x3D | 0x60 | 0x61 | 0x62 | 0x63 | 0x65 | 0x66 | 0x6C | 0x6E | 0x72 | 0x73 => 1
  | 0x34 | 0x3A | 0x50 | 0x51 | 0x52 | 0x53 | 0x54 | 0x55 | 0x56 | 0x57 | 0x58 | 0x59 | 0x78 | 0x79 => 3
  | 0x3C | 0x71 | 0x7E | 0x7F => 0
  | 0x64 => if descF x.d 24 15 1 = 1 then 2 else 1
  | _ => 2

/-- Whether the operation's row of Table 6-5 gives IMM a role (R150). -/
def vxImmUsed (x : VxRun) : Bool :=
  let n := vxSourcesUsed x
  let opc := descOpc x.d
  (decide (1 ≤ n) && x.sa == 0xC) || (decide (2 ≤ n) && x.sb == 0xC) || (decide (3 ≤ n) && x.sc == 0xC)
  || (vxReadsSpad x && x.osc) || (vxWritesSpad x && x.dfmt == 9)
  || [0x3C, 0x63, 0x64, 0x66, 0x67, 0x78].contains opc

/-- A field that the operation does not use is not zero (R146). An unused source may also be 0xF, none
(Table 6-3). DEDUCED: log entry 71. -/
def vxUnusedSet (x : VxRun) : Bool :=
  let opc := descOpc x.d
  let n := vxSourcesUsed x
  let rd := vxReadsSpad x
  let wr := vxWritesSpad x
  let bitmap := (opc == 0x39 || opc == 0x48) && !x.vec
  let off (spec : Nat) (b : Bool) : Bool := (spec != 0 && spec != 0xF) || b
  let noDst := bitmap || opc == 0x6D || opc == 0x72 || opc == 0x7E || opc == 0x7F
  let scaled := (rd && vxScaled x.sfmt) || (wr && vxScaled x.dfmt) || opc == 0x3B
  (decide (n < 1) && off x.sa x.xa) || (decide (n < 2) && off x.sb x.xb) || (decide (n < 3) && off x.sc x.xc)
  || (noDst && x.dst != 0 && (x.dst != 0xD || opc == 0x7F))
  || (!rd && opc != 0x71 && opc != 0x7F && x.spa != 0)
  || ((!rd || (opc == 0x6E && x.sa != 0xD)) && x.sstr != 0) || (!rd && (x.sfmt != 0 || x.osc))
  || (!wr && !bitmap && opc != 0x72 && opc != 0x7E && x.spd != 0)
  || (!wr && (x.dstr != 0 || x.dfmt != 0 || x.rnd || x.ovf || x.ftz))
  || (!scaled && x.sca != 0) || (!vxImmUsed x && x.imm != 0)
  || ([0x70, 0x71, 0x72, 0x7E, 0x7F].contains opc && (x.pe || x.prow || x.pm != 0)) || (opc == 0x73 && x.prow)

/-- The checks of R172 that end a VX descriptor with status 0x01 when it starts. DEDUCED: log entry 71. -/
def vxBodyBad (d : Desc) : Bool :=
  let x : VxRun := ⟨0, d, 0, 0⟩
  let opc := descOpc d
  let rd := vxReadsSpad x
  let wr := vxWritesSpad x
  let dBits := (Fmt.ofCode x.dfmt).bits
  !vxShapeOk x || vxUnusedSet x
  || (if opc = 0x64 then descF d 24 19 13 != 0 else descF d 24 12 20 != 0) || descF d 28 22 10 != 0
  || (rd && x.spa % 128 != 0) || (wr && x.spd % 128 != 0)
  || (rd && wr && vxScaled x.sfmt && vxScaled x.dfmt)
  || (((rd && vxScaled x.sfmt) || (wr && vxScaled x.dfmt) || opc == 0x3B) && x.sca % 16 != 0)
  || ((opc == 0x39 || opc == 0x48) && !x.vec && x.spd % 16 != 0)
  || (opc == 0x71 && x.spa % 16 != 0) || (opc == 0x72 && x.spd % 16 != 0)
  || (opc == 0x7E && x.spd % 128 != 0) || (opc == 0x7F && x.spa % 128 != 0)
  || (wr && x.ovf && [6, 7, 10, 14, 15].contains x.dfmt)
  || (x.prow && x.vec)
  || (x.pe && !x.prow && wr && (vxScaled x.dfmt || decide (dBits < 8)))

end Sys2Proof.Machine
end

