-- ==== Sys2Proof/Machine/Arcade.lean ====
section
/-! DEFINITION. The arcade (R197 to R223): descriptors of the arcade engine, transfers in flight, their
delivery, acknowledgement and resending, message rings and fencing. -/

namespace Sys2Proof.Machine

/-! ### Body checks (R216) -/

/-- The checks of R216 that end an ARC descriptor with status 0x01 when it starts; `tower` is the sender's. -/
def arcBodyBad (tower : Nat) (d : Desc) : Bool :=
  match descOpc d with
  | 0xA0 =>
    let sch := descF d 8 31 1
    let rb := descF d 16 0 12
    let nr := descF d 16 12 16
    descF d 8 0 7 != 0 || decide (95 < descF d 8 24 7) || descF d 12 0 7 != 0 || descF d 12 22 10 != 0
    || descF d 16 28 4 != 0 || rb == 0 || decide (2048 < rb) || nr == 0 || decide (32768 < nr) || decide (32768 < rb * nr)
    || descF d 20 15 1 != 0 || descF d 20 31 1 != 0 || descF d 24 12 4 != 0 || descF d 24 23 9 != 0 || descF d 28 0 32 != 0
    || (sch == 0 && descF d 24 0 12 != 0) || (sch == 1 && descF d 8 22 2 != tower)
    || (descF d 24 22 1 == 1 && decide (59 < descF d 24 16 6))
  | 0xA1 =>
    let nb := descF d 16 0 16
    descF d 8 0 7 != 0 || descF d 8 22 9 != 0 || descF d 12 0 7 != 0 || descF d 12 22 10 != 0
    || nb == 0 || decide (32768 < nb) || descF d 16 28 4 != 0 || descF d 20 0 4 != 0
    || decide (descF d 20 25 3 < descF d 20 22 3) || decide (descF d 24 0 4 < descF d 20 28 4) || decide (11 < descF d 24 0 4)
    || descF d 24 4 12 != 0 || descF d 24 23 9 != 0 || descF d 28 0 32 != 0
    || (descF d 8 31 1 == 0 && descF d 16 16 12 != 0)
    || (descF d 24 22 1 == 1 && decide (59 < descF d 24 16 6))
  | 0xA2 =>
    let n := descF d 12 0 16
    let s := descF d 16 22 4
    descF d 8 0 2 != 0 || descF d 8 22 10 != 0 || n == 0 || decide (16384 < n) || descF d 12 16 16 != 0
    || descF d 16 0 4 != 0 || s == 0 || decide (8 < s) || descF d 16 26 6 != 0
    || descF d 20 0 32 != 0 || descF d 24 0 32 != 0 || descF d 28 0 32 != 0
  | 0xA3 =>
    decide (59 < descF d 8 0 6) || descF d 8 6 1 != 0 || decide (95 < descF d 8 7 7) || descF d 8 16 16 != 0
    || descF d 16 0 32 != 0 || descF d 20 0 32 != 0 || descF d 24 0 32 != 0 || descF d 28 0 32 != 0
  | 0xA4 =>
    let n := descF d 12 0 9
    descF d 8 0 7 != 0 || decide (95 < descF d 8 24 7) || descF d 8 31 1 != 0 || n == 0 || decide (256 < n)
    || descF d 12 9 7 != 0 || descF d 12 23 9 != 0 || (descF d 12 22 1 == 1 && decide (59 < descF d 12 16 6))
    || descF d 16 0 32 != 0 || descF d 20 0 32 != 0 || descF d 24 0 32 != 0 || descF d 28 0 32 != 0
  | _ => true

/-! ### Sending (R211 to R215) -/

/-- The 128-byte block of a scratchpad at `a`. -/
def Gallery.block (g : Gallery) (a : Nat) : List Byte := Memory.bytes g.spad a 128

/-- The gallery's own logical position. -/
def Gallery.logical (g : Gallery) : Nat := g.lgal.toNat

/-- What the CRC-16 of a transfer is taken over. DESIGN CHOICE: log entry 105. -/
def xferCrc (dtower dgal flow epoch : Nat) (kind : XferKind) : Half :=
  Config.transferCrc (dtower :: dgal :: flow :: epoch :: match kind with
    | .write ps => ps.flatMap fun p => p.1 :: p.2.map BitVec.toNat
    | .msg d => d.map BitVec.toNat
    | .sig ctr v => [ctr, v.toNat])

/-- A transfer of a descriptor to one gallery: its channel, by the flow of a scheduled one, and its side-band fields (R198). -/
def mkXfer (k : Nat) (e : QEntry) (dtower dgal : Nat) (flow : Option Nat) (mcast : Bool) (rctr : Option Nat) (kind : XferKind) : Xfer :=
  let ep := field e.desc.toNat 40 24
  { src := k, index := e.index, dtower := dtower, dgal := dgal, sched := flow.isSome, mcast := mcast, flow := flow.getD 0, kind := kind,
    rctr := rctr, epoch := BitVec.ofNat 24 ep, crc := xferCrc dtower dgal (flow.getD 0) ep kind, resends := 0, st := .flying,
    seq := 0, fork := none, since := 0, told := false }

/-- Set the state of queue entry e of gallery k. -/
def Chip.setArc (c : Chip) (k : Nat) (e : QEntry) (st : EntrySt) : Chip :=
  c.onGal k fun g => g.setEntry 4 { e with st := st }

/-- Data bytes of a transfer (R554). -/
def xferBytes (x : Xfer) : Nat :=
  match x.kind with
  | .write ps => (ps.map fun p => p.2.length).foldl (· + ·) 0
  | .msg d => d.length
  | .sig _ _ => 0

/-- Send transfers for entry e; a descriptor with none ends at once, with `status`. -/
def Chip.arcSend (c : Chip) (k : Nat) (e : QEntry) (status : Nat) (xs : List Xfer) : Chip :=
  if xs.isEmpty then c.setArc k e (.ended status)
  else
    let n := (xs.map xferBytes).foldl (· + ·) 0
    let c := c.onGal k fun g => g.rngAdd (descRange e.desc) 7 n
    { (c.setArc k e (.sent status)) with flight := c.flight ++ xs }

/-- The flow record an ARC descriptor names. -/
def Chip.flowRec (c : Chip) (k flow : Nat) : Option FlowRec :=
  (Store.get (fun _ => []) c.flows (k / 104)).find? fun f => f.flow == flow

/-- RSIG and RCTR at a body offset. -/
def rctrOf (d : Desc) (byte : Nat) : Option Nat := if descF d byte 22 1 = 1 then some (descF d byte 16 6) else none

/-- ARC.PUT (R211). -/
def Chip.arcPut (c : Chip) (k : Nat) (e : QEntry) : Chip :=
  let d := e.desc
  let g := c.gal k
  let rb := descF d 16 0 12
  let nr := descF d 16 12 16
  let sstr := strideOf (descF d 20 0 15) (rb * 128)
  let dstr := strideOf (descF d 20 16 15) (rb * 128)
  let sa := descF d 8 0 22
  let da := descF d 12 0 22
  let dt := descF d 8 22 2
  let dg := descF d 8 24 7
  let sch := descF d 8 31 1 == 1
  let flowOk := match c.flowRec k (descF d 24 0 12) with
    | some f => !f.mcast && f.src == g.logical && f.dst == dg
    | none => false
  if spadSize < sa + (nr - 1) * sstr + rb * 128 ∨ spadSize < da + (nr - 1) * dstr + rb * 128 then c.setArc k e (.ended 0x10)
  else if sch && !flowOk then c.setArc k e (.ended 0x12)
  else if !c.hasTower dt then c.setArc k e (.ended 0x13)
  else if (List.range nr).any fun i => g.spadBad (sa + i * sstr) (rb * 128) then c.setArc k e (.ended 0x02)
  else
    c.arcSend k e 0 <| (List.range nr).flatMap fun i => (List.range rb).map fun b =>
      mkXfer k e dt dg (if sch then some (descF d 24 0 12) else none) false (rctrOf d 24) (.write [(da + i * dstr + 128 * b, g.block (sa + i * sstr + 128 * b))])

/-- Whether logical gallery t lies in the rectangle of an ARC.MCAST. -/
def inRect (c0 c1 r0 r1 t : Nat) : Bool :=
  decide (c0 ≤ t / 12) && decide (t / 12 ≤ c1) && decide (r0 ≤ t % 12) && decide (t % 12 ≤ r1)

/-- The target mask of an ARC.MCAST as its start reads it, or the status that ends it: one that sets the source's own bit or a bit of
[127:96] breaks R212 (R216). -/
def Gallery.mcastMask (g : Gallery) (d : Desc) : Except Nat Nat :=
  let ma := descF d 20 0 22
  let mask := Memory.num g.spad ma 16
  if spadSize < ma + 16 then .error 0x10
  else if g.spadBad ma 16 then .error 0x02
  else if field mask 96 32 ≠ 0 ∨ bitOf mask g.logical then .error 0x01
  else .ok mask

/-- The targets of an ARC.MCAST that read this mask: its bits within the rectangle (R212). -/
def mcastSet (d : Desc) (mask : Nat) : List Nat :=
  (List.range 96).filter fun t => bitOf mask t && inRect (descF d 20 22 3) (descF d 20 25 3) (descF d 20 28 4) (descF d 24 0 4) t

/-- ARC.MCAST (R212). -/
def Chip.arcMcast (c : Chip) (k : Nat) (e : QEntry) : Chip :=
  let d := e.desc
  let g := c.gal k
  let nb := descF d 16 0 16
  let sa := descF d 8 0 22
  let da := descF d 12 0 22
  let sch := descF d 8 31 1 == 1
  let fl := descF d 16 16 12
  let rect := descF d 20 22 3 + descF d 20 25 3 * 8 + descF d 20 28 4 * 64 + descF d 24 0 4 * 1024
  if spadSize < sa + nb * 128 ∨ spadSize < da + nb * 128 then c.setArc k e (.ended 0x10)
  else
    let ts := mcastSet d e.mask
    let flowOk := match c.flowRec k fl with
      | some f => f.mcast && f.src == g.logical && f.rect == rect && f.mask == e.mask
      | none => false
    if sch && !flowOk then c.setArc k e (.ended 0x12)
    else if !ts.isEmpty && g.spadBad sa (nb * 128) then c.setArc k e (.ended 0x02)
    else
      c.arcSend k e 0 <| (List.range nb).flatMap fun b => ts.map fun t =>
        mkXfer k e (k / 104) t (if sch then some fl else none) true (rctrOf d 24) (.write [(da + 128 * b, g.block (sa + 128 * b))])

/-- The bytes of one ISEND entry with their destinations, one pair per byte, in order, or a status
(R213, Table 8-8). An entry with reserved bits, LEN 0 or REP 0 ends with 0x01. DESIGN CHOICE: log entry 122. -/
def Gallery.isendBytes (g : Gallery) (ta slot srow : Nat) : Nat → Except Nat (List (Nat × Byte))
  | 0 => .ok []
  | s + 1 =>
    match g.isendBytes ta slot srow s with
    | .error st => .error st
    | .ok before =>
      let w (i lo len : Nat) : Nat := field (Memory.num g.spad (ta + 16 * s + 4 * i) 4) lo len
      let len := w 0 20 12
      let rep := w 1 20 6
      if len = 0 ∨ rep = 0 ∨ w 1 26 6 ≠ 0 then .error 0x01
      else
        let src (p : Nat) : Nat := 4 * (w 0 0 20 + srow * w 2 0 20 + p * w 2 20 12)
        let dst (p : Nat) : Nat := 4 * (w 1 0 20 + slot * w 3 0 20 + p * w 3 20 12)
        if (List.range rep).any fun p => decide (spadSize < dst p + 4 * len) then .error 0x11
        else if (List.range rep).any fun p => decide (spadSize < src p + 4 * len) then .error 0x10
        else if (List.range rep).any fun p => g.spadBad (src p) (4 * len) then .error 0x02
        else
          .ok (before ++ (List.range rep).flatMap fun p =>
            (Memory.bytes g.spad (src p) (4 * len)).zipIdx.map fun b => (dst p + b.2, b.1))

/-- Cut a byte stream into transfers of 128 bytes (R213). -/
def cut128 : Nat → List (Nat × Byte) → List (List (Nat × Byte))
  | 0, _ => []
  | n + 1, l => if l.isEmpty then [] else l.take 128 :: cut128 n (l.drop 128)

/-- Entries of an ISEND list from entry i on: their transfers, and the status that ends the descriptor. -/
def Chip.isendEntries (c : Chip) (k : Nat) (e : QEntry) (i : Nat) : Nat → List Xfer × Nat
  | 0 => ([], 0)
  | n + 1 =>
    let d := e.desc
    let g := c.gal k
    let la := descF d 8 0 22 + 4 * i
    if g.spadBad la 4 then ([], 0x02)
    else
      let v := Memory.num g.spad la 4
      let dg := field v 0 7
      if dg = 0x7F then c.isendEntries k e (i + 1) n
      else if bitOf v 7 then ([], 0x01)
      else if 95 < dg then ([], 0x11)
      else
        match g.isendBytes (descF d 16 0 22) (field v 8 12) (field v 20 12) (descF d 16 22 4) with
        | .error st => ([], st)
        | .ok bs =>
          let xs := (cut128 (bs.length / 128 + 1) bs).map fun b =>
            mkXfer k e (k / 104) dg none false none (.write (b.map fun q => (q.1, [q.2])))
          let rest := c.isendEntries k e (i + 1) n
          (xs ++ rest.1, rest.2)

/-- ARC.ISEND (R213): entries before a faulting one are sent. -/
def Chip.arcIsend (c : Chip) (k : Nat) (e : QEntry) : Chip :=
  let d := e.desc
  let g := c.gal k
  let n := descF d 12 0 16
  let ta := descF d 16 0 22
  let s := descF d 16 22 4
  if spadSize < descF d 8 0 22 + 4 * n ∨ spadSize < ta + 16 * s then c.setArc k e (.ended 0x10)
  else if g.spadBad ta (16 * s) then c.setArc k e (.ended 0x02)
  else
    let r := c.isendEntries k e 0 n
    c.arcSend k e r.2 r.1

/-- ARC.SIG (R214). DEDUCED: log entry 74. -/
def Chip.arcSig (c : Chip) (k : Nat) (e : QEntry) : Chip :=
  let d := e.desc
  let dt := descF d 8 14 2
  if !c.hasTower dt then c.setArc k e (.ended 0x13)
  else c.arcSend k e 0 [mkXfer k e dt (descF d 8 7 7) none false none (.sig (descF d 8 0 6) (BitVec.ofNat 32 (descF d 12 0 32)))]

/-- ARC.MSG (R215). DEDUCED: log entry 74. -/
def Chip.arcMsg (c : Chip) (k : Nat) (e : QEntry) : Chip :=
  let d := e.desc
  let g := c.gal k
  let sa := descF d 8 0 22
  let n := descF d 12 0 9
  if spadSize < sa + 128 * n then c.setArc k e (.ended 0x10)
  else if !c.hasTower (descF d 8 22 2) then c.setArc k e (.ended 0x13)
  else if g.spadBad sa (128 * n) then c.setArc k e (.ended 0x02)
  else
    c.arcSend k e 0 <| (List.range n).map fun i =>
      mkXfer k e (descF d 8 22 2) (descF d 8 24 7) none false (rctrOf d 12) (.msg (g.block (sa + 128 * i)))

/-- Run the ARC descriptor in flight that has this opcode. -/
def Chip.arcRun (c : Chip) (k opc : Nat) (f : Chip → Nat → QEntry → Chip) : Chip :=
  match (c.gal k).runningEntry 4 (· == opc) with
  | none => c
  | some e => f c k e

/-! ### Delivery (R190, R205, R206, R215) -/

/-- The key of a transfer's destination under the map in force. -/
def Chip.xferDst (c : Chip) (x : Xfer) : Nat := c.logKey x.dtower x.dgal

/-- The logical position at which a transfer enters the grid of its destination's tower: its source's; for another tower the edge router
that its stair meets (R204, Table 8-3); for a fallback stage the edge router of the nearer of the east and west stairs (R222). -/
def Chip.xferFrom (c : Chip) (x : Xfer) : Nat × Nat :=
  let s := gridOf (c.gal x.src).logical
  let d := gridOf x.dgal
  if x.src / 104 ≠ x.dtower then edgeOf ((c.stairFor x.dtower (arcStair d.1)).getD (arcStair d.1)) d
  else if c.isFallback x.src then edgeOf (if s.1 < 4 then 3 else 1) s
  else s

/-- The hops of a transfer in its own tower, where it leaves it: to the edge router of the stair that its destination's column names, in its own
column or row (R204). -/
def Chip.xferOut (c : Chip) (x : Xfer) : List Hop :=
  let s := gridOf (c.gal x.src).logical
  if x.src / 104 = x.dtower then [] else gridPath (c.outRow (x.src / 104)) true s (edgeOf (arcStair (gridOf x.dgal).1) s)

/-- The hops of a transfer in its destination's tower (R203, R207, R208, R217); for a fallback position then those along the row to the edge
router of the nearer of the east and west stairs (R222). -/
def Chip.xferHops (c : Chip) (x : Xfer) : List Hop :=
  let out := c.outRow x.dtower
  let s := c.xferFrom x
  let d := gridOf x.dgal
  let way :=
    if x.sched && !x.mcast then match c.flowRec x.src x.flow with | some f => flowHops out f.path f.nmove 0 s | none => []
    else gridPath out (!x.mcast) s d
  if c.isFallback (c.xferDst x) then way ++ gridPath out true d (edgeOf (if d.1 < 4 then 3 else 1) d) else way

/-- The port by which a transfer enters its destination's router; L where it comes from that router's own gallery or stair top. -/
def Chip.entryPort (c : Chip) (x : Xfer) : Port :=
  match (c.xferHops x).getLast? with
  | some h => h.2.opposite
  | none => .l

/-- A transfer to another tower finds stairs and bridges in service (R48, R204, R259). -/
def Chip.wayOpen (c : Chip) (x : Xfer) : Bool :=
  let a := x.src / 104
  let h := arcStair (gridOf x.dgal).1
  a == x.dtower || ((c.stairFor a h).isSome && (c.stairFor x.dtower h).isSome && (c.bridgeRoute a x.dtower 0).isSome)
/-- Replace transfer n. -/
def Chip.setXfer (c : Chip) (n : Nat) (x : Xfer) : Chip := { c with flight := listSet c.flight n x }

/-- The gallery's message ring is full (R215). -/
def Gallery.ringFull (g : Gallery) : Bool :=
  (g.mrtail - g.mrhead).toNat == 2 ^ field g.mring.toNat 0 4

/-- Whether a delivery must wait: the domain is not up, or a message finds a full ring (R190, R206). A
fallback stage's shadow is always there, and a signal's increment goes to the wake unit (R188). -/
def Chip.mustHold (c : Chip) (k : Nat) (x : Xfer) : Bool :=
  let g := c.gal k
  match x.kind with
  | .sig _ _ => false
  | .msg _ => (g.dom != .up && !c.isFallback k) || (field g.mring.toNat 0 4 != 0 && g.ringFull)
  | .write _ => g.dom != .up && !c.isFallback k

/-- Whether another transfer of the same descriptor to the same gallery is still unwritten (R211); `xferDone` takes the signal from the rest
where one is never written. -/
def Chip.moreToWrite (c : Chip) (n : Nat) (x : Xfer) : Bool :=
  c.flight.zipIdx.any fun e => e.2 != n && e.1.src == x.src && e.1.index == x.index && e.1.dtower == x.dtower
    && e.1.dgal == x.dgal && e.1.st != .acked

/-- The lines of a fallback position's shadow that pieces of a delivery touch. -/
def Chip.shadowLines (c : Chip) (k : Nat) (ps : List (Nat × List Byte)) : List Nat :=
  let b := c.shadowBase k
  (ps.flatMap fun p => (List.range (((b + p.1) % 64 + p.2.length + 63) / 64)).map fun i => (b + p.1) / 64 + i).eraseDups

/-- The home slices accept what a delivery has put into a fallback position's shadow, sent from the stair of its tower (R222). -/
def Chip.shadowSend (t : Fin 4) (ls : List Nat) (c : Chip) : Chip :=
  ls.foldl (fun c l => (c.sliceWrite l wholeMask (c.dramData l) 1 (.stairTop t)).1) c

/-- What a transfer puts into a gallery's scratchpad. -/
def Chip.xferPieces (c : Chip) (k : Nat) (x : Xfer) : List (Nat × List Byte) :=
  let g := c.gal k
  match x.kind with
  | .sig _ _ => []
  | .msg data => [((field g.mring.toNat 7 15 * 128 + g.mrtail.toNat % 2 ^ field g.mring.toNat 0 4 * 128) % spadSize, data)]
  | .write ps => ps

/-- Write transfer n at gallery k and acknowledge it (R205): a stale one is discarded with a positive
acknowledgement (R307). A message's signal follows each message, a write's the last transfer (R211, R215). A ring that would pass the end
of the scratchpad wraps there. DESIGN CHOICE: log entry 122. -/
def Chip.deliverAt (c : Chip) (n k : Nat) (x : Xfer) : Chip :=
  if c.stale x.epoch.toNat then (c.bump Reg.epcnt 0 32 1).setXfer n { x with st := .acked }
  else
    match x.kind with
    | .sig ctr val => (c.onGal k fun g => g.addCtr ctr val).setXfer n { x with st := .acked }
    | .msg data =>
      let g := c.gal k
      let l := field g.mring.toNat 0 4
      if l = 0 then c.setXfer n { x with st := .refused 0x14 }
      else
        let base := field g.mring.toNat 7 15 * 128
        let g := g.spadWrite ((base + g.mrtail.toNat % 2 ^ l * 128) % spadSize) data
        let g := { g with mrtail := g.mrtail + 1 }
        let g := match x.rctr with | some r => g.addCtr r 1 | none => g
        (c.setGal k g).setXfer n { x with st := .acked }
    | .write ps =>
      let g := ps.foldl (fun g p => g.spadWrite p.1 p.2) (c.gal k)
      let g := match x.rctr with | some r => if c.moreToWrite n x then g else g.addCtr r 1 | none => g
      (c.setGal k g).setXfer n { x with st := .acked }

/-- Deliver transfer n at position k. At a fallback position it goes down into the shadow, and is acknowledged when the home slices accept the write (R222); while
one cannot take it, it waits. -/
def Chip.deliver (c : Chip) (n k : Nat) (x : Xfer) : Chip :=
  if !c.isFallback k then c.deliverAt n k x
  else
    let ls := if c.ush.layout.shadow.isEmpty || c.stale x.epoch.toNat then [] else c.shadowLines k (c.xferPieces k x)
    let t : Fin 4 := Fin.ofNat 4 (k / 104)
    if ls.any fun l => c.pathStatus l (.stairTop t) != 0 then c else Chip.shadowSend t ls (c.deliverAt n k x)

/-- Refuse transfer n at a closed L port (R220, R221): a signal is discarded and counted. -/
def Chip.refuse (c : Chip) (n k : Nat) (x : Xfer) : Chip :=
  let c := match x.kind with
    | .sig _ _ => c.bump (Reg.rctl (k / 104) (k % 104)) 32 32 1
    | _ => c
  c.setXfer n { x with st := .refused 0x13 }

/-- Whether two transfers of one descriptor name a common destination byte (R213). -/
def Xfer.meets (x y : Xfer) : Bool :=
  match x.kind, y.kind with
  | .write ps, .write qs =>
    x.index == y.index && ps.any fun p => qs.any fun q => decide (p.1 < q.1 + q.2.length ∧ q.1 < p.1 + p.2.length)
  | _, _ => false

/-- Two transfers take one way: the same source and destination, on the same channel and flow (R203, R207). -/
def Xfer.sameWay (x y : Xfer) : Bool :=
  y.src == x.src && y.dtower == x.dtower && y.dgal == x.dgal && y.sched == x.sched && y.flow == x.flow

/-- Whether an earlier transfer on the same way is still to come as far as this one (R203, R207), or has yet to be sent again and names a byte that
this one names (R213). DEDUCED: log entry 107. -/
def Chip.overtakes (c : Chip) (n : Nat) (x : Xfer) : Bool :=
  (c.flight.take n).any fun y => x.sameWay y && ((y.st == .flying && y.fork.isNone) || (y.st == .nacked && y.meets x))

/-- Whether an earlier copy on the same way waits in a fork's hold store (R218). -/
def Chip.behindHeld (c : Chip) (n : Nat) (x : Xfer) : Bool :=
  (c.flight.take n).any fun y => x.sameWay y && y.st == .flying && y.fork.isSome

/-- What is held for gallery k on a channel. -/
def Chip.heldAt (c : Chip) (k : Nat) (sched : Bool) : List Xfer :=
  c.flight.filter fun y => y.st == .held && y.sched == sched && c.xferDst y == k

/-- Whether a transfer of gallery k must wait: by R190 or for the ring, behind the dynamic ingress queue, or behind its own flow (R206, R207). -/
def Chip.mustWait (c : Chip) (k : Nat) (x : Xfer) : Bool :=
  c.mustHold k x || (c.heldAt k x.sched).any fun y => !x.sched || (y.src == x.src && y.flow == x.flow)

/-- Whether gallery k has a place for a transfer that waits: one of the 8 of its dynamic ingress queue while its domain is up, or of the 8
L-bound buffers of the port by which it comes (R206, Example 8-1); for a scheduled one, one of its flow's RES entries (R207). -/
def Chip.canTake (c : Chip) (k : Nat) (x : Xfer) : Bool :=
  let q := c.heldAt k x.sched
  if x.sched then
    decide ((q.filter fun y => y.src == x.src && y.flow == x.flow).length < (match c.flowRec x.src x.flow with | some f => f.res | none => 8))
  else
    let room := if (c.gal k).dom = .up then 8 else 0
    decide (q.length < room)
      || decide ((q.filter fun y => decide (room ≤ q.countP fun z => z.seq < y.seq) && c.entryPort y == c.entryPort x).length < 8)

/-- Its destination's open port cannot take transfer n: it has no place, or earlier copies wait at a fork before it (R206, R218). -/
def Chip.blocked (c : Chip) (n : Nat) (x : Xfer) : Bool :=
  let k := c.xferDst x
  c.lOpen k && (c.behindHeld n x || (c.mustWait k x && !c.canTake k x))

/-! ### Multicast forks (R217, R218) -/

/-- The logical positions that a copy passes, from the source to its target: along the row, then along the column (R217). -/
def treePath (src dst : Nat × Nat) : List (Nat × Nat) :=
  let line (a b : Nat) : List Nat := (List.range (max (b - a) (a - b))).map fun i => if a ≤ b then a + i else a - i
  (line src.1 dst.1).map (fun x => (x, src.2)) ++ (line src.2 dst.2).map (fun y => (dst.1, y)) ++ [dst]

/-- The branches that leave a position of the tree, each by the next position; the position itself stands for its L port. -/
def treeBranches (src : Nat × Nat) (ts : List (Nat × Nat)) (p : Nat × Nat) : List (Nat × Nat) :=
  (ts.filterMap fun t =>
    let w := treePath src t
    (w.findIdx? (· == p)).map fun i => (w[i + 1]?).getD p).eraseDups

/-- The last position on the way to a target from which more than one branch leaves. -/
def forkOf (src : Nat × Nat) (ts : List (Nat × Nat)) (dst : Nat × Nat) : Option (Nat × Nat) :=
  (treePath src dst).reverse.find? fun p => decide (2 ≤ (treeBranches src ts p).length)

/-- The fork of a multicast copy, as a logical position: its descriptor's targets form the tree. -/
def Chip.forkPos (c : Chip) (x : Xfer) : Option (Nat × Nat) :=
  if x.mcast && !x.sched then
    match ((c.gal x.src).queue 4).entries.find? fun e => e.index == x.index with
    | some e => forkOf (gridOf (c.gal x.src).logical) ((mcastSet e.desc e.mask).map gridOf) (gridOf x.dgal)
    | none => none
  else none

/-- The key of the router at a logical position of a tower. -/
def Chip.routerAt (c : Chip) (t : Nat) (p : Nat × Nat) : Nat := t * 104 + 13 * p.1 + physRow (c.outRow t p.1) p.2

/-- Hold-store entries of a fork router in use (R218, Table 8-12). -/
def Chip.forkHeld (c : Chip) (f : Nat) : Nat := c.flight.countP fun x => x.st == .flying && x.fork == some f

/-- A transfer that its destination cannot take stays upstream: a copy of a dynamic multicast in the hold store of its fork, if one of the 512
entries is free (R206, R218). -/
def Chip.backPressure (c : Chip) (n : Nat) (x : Xfer) : Chip :=
  match c.forkPos x with
  | none => c
  | some p =>
    let f := c.routerAt x.dtower p
    if x.fork.isNone && decide (c.forkHeld f < 512) then c.setXfer n { x with fork := some f, since := c.act, told := false } else c

/-- A copy of the same multicast transfer waits for a hold entry at a full fork router on the way: the fork has not accepted the transfer (R218). -/
def Chip.forkFull (c : Chip) (n : Nat) (x : Xfer) : Bool :=
  x.mcast && !x.sched && c.flight.zipIdx.any fun e =>
    let y := e.1
    e.2 != n && y.src == x.src && y.index == x.index && y.kind == x.kind && y.st == .flying && y.fork.isNone
      && c.blocked e.2 y
      && match c.forkPos y with
        | some p => decide (512 ≤ c.forkHeld (c.routerAt y.dtower p)) && (treePath (gridOf (c.gal x.src).logical) (gridOf x.dgal)).contains p
        | none => false

/-! ### Reception (R205, R206) -/

/-- The place of the next arrival among those held. -/
def Chip.nextSeq (c : Chip) : Nat := (c.flight.map (·.seq)).foldl max 0 + 1

/-- Transfer n reaches its destination, which computes a CRC-16 over it (R205, R206). A transfer to a fallback position is turned onto the
dynamic channel (R222). The CRC is judged before the port. DESIGN CHOICE: log entry 122. -/
def Chip.xferReceive (c : Chip) (n : Nat) (crc : Half) : Chip :=
  match c.flight[n]? with
  | none => c
  | some y =>
    let k := c.xferDst y
    if y.st ≠ .flying ∨ c.overtakes n y ∨ !c.wayOpen y ∨ c.forkFull n y then c
    else
      let x := { y with fork := none, sched := y.sched && !c.isFallback k }
      if c.blocked n x then c.backPressure n y
      else if crc ≠ x.crc then c.setXfer n { x with st := .nacked }
      else if !c.lOpen k then c.refuse n k x
      else if c.mustWait k x then c.setXfer n { x with st := .held, seq := c.nextSeq }
      else c.deliver n k x

/-- The earliest arrival among those held for gallery k on a channel, by its place in flight. -/
def Chip.headHeld (c : Chip) (k : Nat) (sched : Bool) : Option Nat :=
  let q := c.heldAt k sched
  c.flight.findIdx? fun y => y.st == .held && y.sched == sched && c.xferDst y == k && q.all fun z => decide (y.seq ≤ z.seq)

/-- The head of what gallery k holds on a channel is delivered once it need not wait (R190, R206). -/
def Chip.ingressResume (c : Chip) (k : Nat) (sched : Bool) : Chip :=
  match c.headHeld k sched with
  | none => c
  | some n =>
    match c.flight[n]? with
    | none => c
    | some x =>
      if !c.lOpen k then c.refuse n k x
      else if c.mustHold k x then c
      else c.deliver n k x

/-! ### Acknowledgement (R205) -/

/-- Whether a transfer's signal waits for every transfer of its descriptor to the same gallery, and so is lost with one of them (R211). -/
def Xfer.shares (x y : Xfer) : Bool :=
  x.src == y.src && x.index == y.index && x.dtower == y.dtower && x.dgal == y.dgal && (match y.kind with | .write _ => true | _ => false)

/-- Transfer n leaves the flight. One that was not written takes the completion signal of its destination with it (R211). -/
def Chip.xferGone (c : Chip) (n : Nat) (x : Xfer) : Chip :=
  let rest := c.flight.eraseIdx n
  { c with flight := if x.st = .acked then rest else rest.map fun y => if x.shares y then { y with rctr := none } else y }

/-- Transfer n leaves the flight with a status; the last one ends its descriptor (R205, R218). -/
def Chip.xferDone (c : Chip) (n : Nat) (x : Xfer) (status : Nat) : Chip :=
  let c := c.xferGone n x
  match ((c.gal x.src).queue 4).entries.find? fun e => e.index == x.index with
  | none => c
  | some e =>
    match e.st with
    | .sent st =>
      let st := if st = 0 then status else st
      if c.flight.any fun y => y.src == x.src && y.index == x.index then c.setArc x.src e (.sent st)
      else c.setArc x.src e (.ended st)
    | _ => c

/-- Transfers leave the flight with no status for their source. One of them that was not written takes the completion signal of its destination with
it (R211). -/
def Chip.dropXfers (c : Chip) (p : Xfer → Bool) : Chip :=
  let lost := c.flight.filter fun x => p x && x.st != .acked
  { c with flight := (c.flight.filter fun x => !p x).map fun y => if lost.any fun x => x.shares y then { y with rctr := none } else y }

/-- An acknowledgement of transfer x is on its way to gallery k. -/
def Xfer.answers (x : Xfer) (k : Nat) : Bool := x.src == k && (match x.st with | .acked | .nacked | .refused _ => true | _ => false)

/-- The acknowledgement of transfer n reaches its source (R205): resent up to three times; a source whose L port is closed discards
it (R220, R221). -/
def Chip.ackReceive (c : Chip) (n : Nat) : Chip :=
  match c.flight[n]? with
  | none => c
  | some x =>
    if x.answers x.src && !c.lOpen x.src then c.xferGone n x
    else
      match x.st with
      | .acked => c.xferDone n x 0
      | .refused st => c.xferDone n x st
      | .nacked => if x.resends < 3 then c.setXfer n { x with st := .flying, resends := x.resends + 1 } else c.xferDone n x 0x05
      | _ => c

/-! ### Fencing (R220) and the stall event (R218) -/

/-- What is held for gallery k, in its queue, its buffers or a fork's hold store, is refused (R218, R220). -/
def Chip.refuseHeld (c : Chip) (k : Nat) : Nat → Chip
  | 0 => c
  | n + 1 =>
    let c := c.refuseHeld k n
    match c.flight[n]? with
    | some x => if (x.st == .held || (x.st == .flying && x.fork.isSome)) && c.xferDst x == k then c.refuse n k x else c
    | none => c

/-- Set RCTL.FENCE of gallery k for a cause of Table 19-7, kind 10 (R220); a domain that is on reads as fenced (Table 16-10). -/
def Chip.fenceGallery (c : Chip) (k cause : Nat) : Chip :=
  let c := (c.ownWrF (Reg.rctl (k / 104) (k % 104)) 0 1 1).event (k / 104) (104 + k % 104) 10 0 (1 + cause * 256)
  let c := if c.rdF (domReg k) 12 3 = 1 then c.wrF (domReg k) 12 3 4 else c
  (c.refuseHeld k c.flight.length).dropXfers fun x => x.answers k

/-- A multicast copy has been held 50 µs at a fork router (R218): event kind 8 and the report to the usher, once. -/
def Chip.mcastStall (c : Chip) (fork n : Nat) : Chip :=
  match c.flight[n]? with
  | none => c
  | some x =>
    if x.st == .flying && x.fork == some fork && !x.told && decide (50000 ≤ (c.act - x.since).toNat) then
      let c := (c.setXfer n { x with told := true }).report (.mcastStall (c.xferDst x) (fork % 104) (x.src % 104) (x.src / 104) x.index)
      c.event (fork / 104) (104 + fork % 104) 8 0 (x.dgal + (fork % 104) * 2 ^ 7 + (c.gal x.src).logical * 2 ^ 14 + (x.src / 104) * 2 ^ 21 + x.index.toNat % 2 ^ 20 * 2 ^ 23)
    else c

end Sys2Proof.Machine
end

