-- ==== Sys2Proof/Machine/ArcadeCommands.lean ====
section
/-! DEFINITION. The commands of chapter The Arcade, and the wake from retention. -/

namespace Sys2Proof.Machine

/-- ARC.PUT (R211). -/
def execArcPut (g : GalId) (s : State) : Host.Outcome State Fault Refusal :=
  s.onQueue g 4 fun c k => c.arcRun k 0xA0 Chip.arcPut

/-- ARC.MCAST (R212, R217). -/
def execArcMcast (g : GalId) (s : State) : Host.Outcome State Fault Refusal :=
  s.onQueue g 4 fun c k => c.arcRun k 0xA1 Chip.arcMcast

/-- ARC.ISEND (R213). -/
def execArcIsend (g : GalId) (s : State) : Host.Outcome State Fault Refusal :=
  s.onQueue g 4 fun c k => c.arcRun k 0xA2 Chip.arcIsend

/-- ARC.SIG (R214). -/
def execArcSig (g : GalId) (s : State) : Host.Outcome State Fault Refusal :=
  s.onQueue g 4 fun c k => c.arcRun k 0xA3 Chip.arcSig

/-- ARC.MSG (R215). -/
def execArcMsg (g : GalId) (s : State) : Host.Outcome State Fault Refusal :=
  s.onQueue g 4 fun c k => c.arcRun k 0xA4 Chip.arcMsg

/-- Transfer n in flight reaches its destination, which computes `crc` over it (R205, R206, R307). DESIGN CHOICE: log entry 105. -/
def execArcTransferReceive (n : Nat) (crc : Half) (s : State) : Host.Outcome State Fault Refusal :=
  s.onLive fun c => c.xferReceive n crc

/-- The acknowledgement of transfer n reaches its source (R205). -/
def execArcAckReceive (n : Nat) (s : State) : Host.Outcome State Fault Refusal :=
  s.onLive fun c => c.ackReceive n

/-- A held delivery of gallery g resumes, scheduled or dynamic (R190, R206). -/
def execIngressDeliveryResume (g : GalId) (sched : Bool) (s : State) : Host.Outcome State Fault Refusal :=
  s.onLive fun c => c.ingressResume (galKey g) sched

/-- A write of GMRHEAD (R215). -/
def execMsgRingHeadWrite (g : GalId) (head : Half) (s : State) : Host.Outcome State Fault Refusal :=
  s.onGalReg g fun g => { g with mrhead := head }

/-- Transfer n, a copy of a multicast, has been held for 50 µs in the hold store of a fork router (R218). -/
def execMcastStall (t : Fin 4) (p : Fin 104) (n : Nat) (s : State) : Host.Outcome State Fault Refusal :=
  s.onLive fun c => c.mcastStall (galKey ⟨t, p⟩) n

/-- Whether a wake cause holds (R189, numbered as Table 19-7, kind 9): the condition met, a delivery held, the wait limit passed; the usher and
the debug paths may ask at any time, and a partition reset raises the domain itself. -/
def Chip.wakeHolds (c : Chip) (k cause : Nat) : Bool :=
  let g := c.gal k
  match cause with
  | 1 => match g.waiting with | some (.waitc _ ctr target) => g.condMet ctr target | _ => false
  | 2 => c.flight.any fun y => y.st == .held && c.xferDst y == k
  | 3 => true
  | 4 => true
  | 5 => c.pastLimit k g.waitAt
  | _ => false

/-- A wake cause of R189 raises a retained gallery. -/
def execRetentionWake (g : GalId) (cause : Fin 7) (s : State) : Host.Outcome State Fault Refusal :=
  s.onLive fun c => if c.wakeHolds (galKey g) cause.val then c.retentionWake (galKey g) cause.val else c

end Sys2Proof.Machine
end

