-- ==== Sys2Proof/Machine/Crypto.lean ====
section
/-! DEFINITION. The digest and the signature of images (R525, R526): SHA-384 and ECDSA over P-384 as FIPS 180-4 and FIPS 186-5
define them, which the spec names and does not print (PRESUMED, log entry 16). -/

namespace Sys2Proof.Machine

/-- The largest r below 2^n with r^e at most x. -/
def rootBits (e x : Nat) : Nat → Nat → Nat
  | 0, r => r
  | n + 1, r => if (r + 2 ^ n) ^ e ≤ x then rootBits e x n (r + 2 ^ n) else rootBits e x n r

/-- The first `n` primes at or above `p`; `f` bounds the search. -/
def primesFrom : Nat → Nat → Nat → List Nat
  | 0, _, _ => []
  | f + 1, n, p =>
    if n = 0 then []
    else if p ≥ 2 ∧ (List.range p).all (fun d => d < 2 || p % d != 0) then p :: primesFrom f (n - 1) (p + 1)
    else primesFrom f n (p + 1)

/-- The 80 primes of the round constants. -/
def shaPrimes : List Nat := primesFrom 412 80 2

/-- Round constants: 64 bits of the fractional parts of cube roots. -/
def shaK : List DWord := shaPrimes.map fun p => BitVec.ofNat 64 (rootBits 3 (p * 2 ^ 192) 68 0)

/-- Initial value of SHA-384: 64 bits of the fractional parts of the square roots of the ninth to sixteenth primes. -/
def shaInit : List DWord := ((shaPrimes.drop 8).take 8).map fun p => BitVec.ofNat 64 (rootBits 2 (p * 2 ^ 128) 68 0)

def shaS0 (x : DWord) : DWord := x.rotateRight 1 ^^^ x.rotateRight 8 ^^^ (x >>> 7)
def shaS1 (x : DWord) : DWord := x.rotateRight 19 ^^^ x.rotateRight 61 ^^^ (x >>> 6)
def shaB0 (x : DWord) : DWord := x.rotateRight 28 ^^^ x.rotateRight 34 ^^^ x.rotateRight 39
def shaB1 (x : DWord) : DWord := x.rotateRight 14 ^^^ x.rotateRight 18 ^^^ x.rotateRight 41

/-- The message schedule: the last 16 words (newest first), and what it has given. -/
def shaExpand : Nat → List DWord → List DWord
  | 0, w => w
  | n + 1, w => shaExpand n ((shaS1 (listGet 0 w 1) + listGet 0 w 6 + shaS0 (listGet 0 w 14) + listGet 0 w 15) :: w)

/-- One round on the eight working words. -/
def shaRound (h : List DWord) (kw : DWord × DWord) : List DWord :=
  let x (i : Nat) := listGet 0 h i
  let t1 := x 7 + shaB1 (x 4) + ((x 4 &&& x 5) ^^^ (~~~ (x 4) &&& x 6)) + kw.1 + kw.2
  let t2 := shaB0 (x 0) + ((x 0 &&& x 1) ^^^ (x 0 &&& x 2) ^^^ (x 1 &&& x 2))
  [t1 + t2, x 0, x 1, x 2, x 3 + t1, x 4, x 5, x 6]

/-- A big-endian number of bytes, and its bytes. -/
def beVal (bs : List Byte) : Nat := leVal bs.reverse
def beBytes (n v : Nat) : List Byte := (leBytes n v).reverse

/-- The words of a block, newest first. -/
def shaWords : Nat → List Byte → List DWord → List DWord
  | 0, _, acc => acc
  | n + 1, bs, acc => shaWords n (bs.drop 8) (BitVec.ofNat 64 (beVal (bs.take 8)) :: acc)

/-- Compress the blocks of a padded message. -/
def shaBlocks : Nat → List Byte → List DWord → List DWord
  | 0, _, h => h
  | n + 1, bs, h =>
    let w := (shaExpand 64 (shaWords 16 (bs.take 128) [])).reverse
    let g := (shaK.zip w).foldl shaRound h
    shaBlocks n (bs.drop 128) ((h.zip g).map fun x => x.1 + x.2)

/-- SHA-384 of a byte string, in the order of R5. -/
def sha384 (m : List Byte) : List Byte :=
  let n := m.length
  let pad := (239 - n % 128) % 128
  let p := m ++ [0x80] ++ (List.replicate pad 0) ++ beBytes 16 (8 * n)
  ((shaBlocks (p.length / 128) p shaInit).take 6).foldl (fun acc w => acc ++ beBytes 8 w.toNat) []

/-! ### P-384 -/

def p384P : Nat := 2 ^ 384 - 2 ^ 128 - 2 ^ 96 + 2 ^ 32 - 1
def p384N : Nat := 0xFFFFFFFFFFFFFFFFFFFFFFFFFFFFFFFFFFFFFFFFFFFFFFFFC7634D81F4372DDF581A0DB248B0A77AECEC196ACCC52973
def p384B : Nat := 0xB3312FA7E23EE7E4988E056BE3F82D19181D9C6EFE8141120314088F5013875AC656398D8A2ED19D2A85C8EDD3EC2AEF
def p384G : Nat × Nat :=
  (0xAA87CA22BE8B05378EB1C71EF320AD746E1D3B628BA79B9859F741E082542A385502F25DBF55296C3A545E3872760AB7,
   0x3617DE4A96262C6F5D9E98BF9292DC29F8F41DBD289A147CE9DA3113B5F0B8C00A60B1CE1D7E819D7A431D7C90EA0E5F)

/-- x^e mod m; `n` bounds the bits of e. -/
def powMod (m : Nat) : Nat → Nat → Nat → Nat
  | 0, _, _ => 1
  | n + 1, x, e =>
    let h := powMod m n (x * x % m) (e / 2)
    if e % 2 = 1 then h * x % m else h

/-- The inverse modulo a prime. -/
def invMod (m x : Nat) : Nat := powMod m 384 (x % m) (m - 2)

/-- Whether affine coordinates lie on the curve. -/
def onP384 (q : Nat × Nat) : Bool :=
  decide (q.1 < p384P ∧ q.2 < p384P) && q.2 * q.2 % p384P == (q.1 * q.1 * q.1 + (p384P - 3) * q.1 + p384B) % p384P

/-- The sum of two points; none is the point at infinity. -/
def ecAdd (a b : Option (Nat × Nat)) : Option (Nat × Nat) :=
  match a, b with
  | none, q => q
  | p, none => p
  | some p, some q =>
    if p.1 = q.1 ∧ (p.2 + q.2) % p384P = 0 then none
    else
      let l := if p = q then (3 * p.1 * p.1 + (p384P - 3)) * invMod p384P (2 * p.2) % p384P
        else (q.2 + p384P - p.2) * invMod p384P (q.1 + p384P - p.1) % p384P
      let x := (l * l + 2 * p384P - p.1 - q.1) % p384P
      some (x, (l * (p.1 + p384P - x) + p384P - p.2) % p384P)

/-- A multiple of a point, bit by bit; `n` bounds the bits. -/
def ecMul : Nat → Nat → Option (Nat × Nat) → Option (Nat × Nat)
  | 0, _, _ => none
  | n + 1, k, p =>
    let r := ecMul n (k / 2) (ecAdd p p)
    if k % 2 = 1 then ecAdd r p else r

/-- Whether (r, s) is a signature of a digest under a public key: X, then Y, big-endian. -/
def ecdsaOk (pub digest sig : List Byte) : Bool :=
  let q := (beVal (pub.take 48), beVal ((pub.drop 48).take 48))
  let r := beVal (sig.take 48)
  let s := beVal ((sig.drop 48).take 48)
  let e := beVal (digest.take 48)
  if onP384 q ∧ 0 < r ∧ r < p384N ∧ 0 < s ∧ s < p384N then
    let w := invMod p384N s
    match ecAdd (ecMul 384 (e * w % p384N) (some p384G)) (ecMul 384 (r * w % p384N) (some q)) with
    | none => false
    | some x => x.1 % p384N == r
  else false

end Sys2Proof.Machine
end

