-- ==== Sys2Proof/Machine/Journal.lean ====
section
/-! DEFINITION. What the usher writes for the host and for itself: critical words (R495, R496), the journal (R428 to R431),
completions (R409, R410, R422, R423) and notices (R425). -/

namespace Sys2Proof.Machine

/-! ### Critical words (R495, R496) -/

/-- Copy `i` of the critical word at an offset. DEDUCED: log entry 86. -/
def Chip.critAddr (c : Chip) (off i : Nat) : Nat := c.rdF Reg.cwa 0 40 + 256 * i + off

/-- Write a critical word: copies 0, 1, 2 in order. DEDUCED: log entry 54. -/
def Chip.critWrite (c : Chip) (off v : Nat) : Chip :=
  [0, 1, 2].foldl (fun c i => c.memWriteNum (c.critAddr off i) 8 v) c

/-- Whether copy i of a critical word reads with good status. -/
def Chip.critOk (c : Chip) (off i : Nat) : Bool := !c.linePoisoned (c.critAddr off i / 64)

/-- The value that at least two readable copies hold (R496). -/
def Chip.critValue (c : Chip) (off : Nat) : Option Nat :=
  let v (i : Nat) : Option Nat := if c.critOk off i then some (c.memNum (c.critAddr off i) 8) else none
  match v 0, v 1, v 2 with
  | some a, some b, some d => if a = b ∨ a = d then some a else if b = d then some b else none
  | some a, some b, none => if a = b then some a else none
  | some a, none, some b => if a = b then some a else none
  | none, some a, some b => if a = b then some a else none
  | _, _, _ => none

/-- The usher's read of a critical word: disagreeing copies are rewritten before it completes (R496). -/
def Chip.critRead (c : Chip) (off : Nat) : Chip × Option Nat :=
  let c := [0, 1, 2].foldl (fun c i => Chip.memTouch c (c.critAddr off i) 8) c
  match c.critValue off with
  | none => (c, none)
  | some v =>
    ([0, 1, 2].foldl (fun c i =>
      if c.critOk off i ∧ c.memNum (c.critAddr off i) 8 = v then c
      else
        let l := c.critAddr off i / 64
        let c := if c.critOk off i then c else c.memWriteNum (64 * l) 64 (c.lineData l).toNat
        c.memWriteNum (c.critAddr off i) 8 v) c, some v)

/-! ### The journal (R428) -/

def zeroSeq : Nat → BitVec 48 := fun _ => 0

/-- Append an entry: its common fields and its body from byte 24, then the tail (R428, R430). The head advances over the
oldest entry when the ring is full. -/
def Chip.journal (c : Chip) (kind : Nat) (ticket : Word) (body : List Byte) : Chip :=
  let s := c.rdF Reg.jtail 0 48
  let e := leBytes 6 s ++ [BitVec.ofNat 8 kind, 0] ++ leBytes 4 ticket.toNat ++ leBytes 3 (c.epoch.toNat % 2 ^ 24) ++ [0]
    ++ leBytes 8 c.now.toNat ++ body ++ (List.range (40 - body.length)).map fun _ => 0
  let c := c.memWrite (c.rdF Reg.jbase 0 40 + 64 * (s % 2 ^ 20)) e
  let c := (c.critWrite 0x18 (s + 1)).wrF Reg.jtail 0 48 (s + 1)
  let h := c.rdF Reg.jhead 0 48
  let c := if h + 2 ^ 20 < s + 1 then (c.critWrite 0x10 (h + 1)).wrF Reg.jhead 0 48 (h + 1) else c
  if ticket = 0 then c
  else { c with host := { c.host with lastSeq := Store.put zeroSeq c.host.lastSeq ticket.toNat (BitVec.ofNat 48 s) } }

/-! ### Completions (R409, R410, R422) -/

def cqDefault : Nat → CqState := fun _ => CqState.reset

/-- A completion ring. -/
def Chip.cq (c : Chip) (q : Nat) : CqState := Store.get cqDefault c.host.cq q

/-- Put a completion ring back. -/
def Chip.setCq (c : Chip) (q : Nat) (v : CqState) : Chip :=
  { c with host := { c.host with cq := Store.put cqDefault c.host.cq q v } }

/-- ENABLE, size and TAIL of CQ q. -/
def Chip.cqEnabled (c : Chip) (q : Nat) : Bool := decide (q < 256) && c.bit (Reg.cqCfg q) 5
def Chip.cqSize (c : Chip) (q : Nat) : Nat := 2 ^ (c.cq q).log2n
def Chip.cqTail (c : Chip) (q : Nat) : Nat := c.rdF (Reg.cqCfg q) 48 16

/-- The ring is full (R409), or RUN keeps it as full (R410); while the module is stopped the endpoint posts nothing (R544). -/
def Chip.cqFull (c : Chip) (q : Nat) : Bool :=
  !c.bit Reg.hifCtl 1 || c.stopped || (c.cqTail q + 1) % c.cqSize q == (c.cq q).head.toNat

/-- Whether a completion has a journal entry (R423). -/
def Completion.journalled (m : Completion) : Bool := m.type != 1#8

/-- The POST entry of a completion (Table 14-15). -/
def Completion.postBody (m : Completion) (unposted : Bool) (q idx : Nat) : List Byte :=
  let b := m.body.toNat
  let t := m.type.toNat
  let x36 := if t = 3 then field b 32 8 else if t = 2 then field b 32 8 else if t = 7 ∨ t = 6 then field b 0 8 else 0
  let x37 := if t = 3 then field b 40 8 else if t = 6 then field b 8 8 else 0
  [m.type, BitVec.ofNat 8 (b2n unposted)] ++ leBytes 2 q ++ leBytes 2 idx ++ leBytes 2 m.cid.toNat
    ++ leBytes 4 (if t = 2 ∨ t = 3 then field b 0 32 else 0) ++ [BitVec.ofNat 8 x36, BitVec.ofNat 8 x37, 0, 0] ++ leBytes 6 m.cmdSeq.toNat

/-- Write a completion at TAIL: its journal entry first (R423), then the 64 bytes in one write with PHASE (R409). The CCNT-th entry since the last interrupt makes one due
(R411). -/
def Chip.postNow (c : Chip) (q : Nat) (m : Completion) : Chip :=
  let idx := c.cqTail q
  let own := c.rdF Reg.jtail 0 48
  let c := if m.journalled then c.journal 2 m.ticket (m.postBody false q idx) else c
  let seq := if m.cmdSeq ≠ 0 then m.cmdSeq.toNat
    else if m.journalled then own else (Store.get zeroSeq c.host.lastSeq m.ticket.toNat).toNat
  let r := c.cq q
  let e := [m.type, BitVec.ofNat 8 (b2n r.phase + m.count % 16 * 16)] ++ leBytes 2 m.cid.toNat ++ leBytes 4 m.ticket.toNat
    ++ leBytes 6 seq ++ [0, 0] ++ leBytes 45 m.body.toNat ++ leBytes 3 (c.epoch.toNat % 2 ^ 24)
  let nt := (idx + 1) % c.cqSize q
  let c := { c with hostMem := Memory.setBytes c.hostMem (r.base.toNat + 64 * idx) e }
  let c := c.wrF (Reg.cqCfg q) 48 16 nt
  let n := r.icount + 1
  let due := c.bit (Reg.cqCfg q) 6 && decide (c.rdF (Reg.cqCfg q) 24 8 ≤ n)
  c.setCq q { r with phase := if nt = 0 then !r.phase else r.phase, icount := if due then 0 else n,
                     ifirst := if due then 0 else if r.icount = 0 then c.now + 1 else r.ifirst,
                     idue := r.idue + b2n due,
                     fullAt := if (nt + 1) % 2 ^ r.log2n = r.head.toNat then c.act + 1 else 0 }

/-- A completion falls due for CQ q: journalled unposted where the ring is disabled, a TOKENS one being dropped (R427); kept in
order behind a full ring (R410); posted otherwise. DEDUCED: log entry 85. -/
def Chip.post (c : Chip) (q : Nat) (m : Completion) : Chip :=
  if !c.cqEnabled q then if m.journalled then c.journal 2 m.ticket (m.postBody true q 0) else c
  else if c.cqFull q || !(c.cq q).kept.isEmpty then c.setCq q { c.cq q with kept := (c.cq q).kept ++ [m] }
  else c.postNow q m

/-- Post kept completions in order while the ring has room; `n` bounds them. -/
def Chip.postKept (c : Chip) (q : Nat) : Nat → Chip
  | 0 => c
  | n + 1 =>
    match (c.cq q).kept with
    | [] => c
    | m :: ms =>
      if c.cqEnabled q && !c.cqFull q then
        Chip.postKept ((c.setCq q { c.cq q with kept := ms }).postNow q m) q n
      else c

/-- A completion body from its bytes, 16 first. -/
def complBody (bs : List Byte) : BitVec 360 := BitVec.ofNat 360 (leVal bs)

/-! ### Notices (R425) -/

/-- Severity, unit and detail of a NOTICE where its chapter states none (log entry 24). -/
def openSev (code n : Nat) : Nat := (Config.openNotice code 0 n).toNat % 3
def openUnit (code n : Nat) : Nat := (Config.openNotice code 1 n).toNat % 2 ^ 32
def openDetail (code n : Nat) : Nat := (Config.openNotice code 2 n).toNat

/-- Post a module-wide NOTICE: its journal entry, and a completion to the notice ring. DEDUCED: log entry 85. -/
def Chip.noticeNow (c : Chip) (code sev unit detail : Nat) : Chip :=
  let body := leBytes 2 code ++ [BitVec.ofNat 8 sev, 0] ++ leBytes 4 unit ++ leBytes 8 detail
  let c := c.journal 5 0 body
  c.post (c.rdF Reg.hifStat 8 8) { type := 6, count := 0, cid := 0xFFFF, ticket := 0, body := complBody body, cmdSeq := 0 }

/-- Insert an alert cause in code order; a cause that stands is not doubled. DEDUCED: log entry 43. -/
def insertAlert (x : Byte) : List Byte → List Byte
  | [] => [x]
  | y :: ys => if x = y then y :: ys else if x.toNat < y.toNat then x :: y :: ys else y :: insertAlert x ys

/-- An I3C alert cause is raised: it stands until its interrupt is acknowledged (R579). DEDUCED: log entry 43. -/
def Chip.alert (c : Chip) (cause : Nat) : Chip :=
  { c with sys := { c.sys with alerts := insertAlert (BitVec.ofNat 8 cause) c.sys.alerts } }

/-- A NOTICE of the usher: before seal it waits for the seal; one of severity 2 is an alert cause (R579). -/
def Chip.notice (c : Chip) (code sev unit detail : Nat) : Chip :=
  if c.isSealed then
    let c := c.noticeNow code sev unit detail
    if sev = 2 then c.alert 4 else c
  else { c with host := { c.host with early := c.host.early ++ [(code, sev, unit, detail)] } }

/-- A NOTICE that the spec posts without a code, and says no more of (R32, R48, R52, R259, R391, R392): `i` tells them apart, `page` is the chapter's byte. DEDUCED: log entry 63. -/
def Chip.healthNote (c : Chip) (page i n : Nat) : Chip :=
  let code := page * 256 + (Config.healthNotice i).toNat
  c.notice code (openSev code n) (openUnit code n) (openDetail code n)

/-- The notices that fell due before seal are posted after it. -/
def Chip.postEarly (c : Chip) : Chip :=
  let l := c.host.early
  l.foldl (fun c n => c.notice n.1 n.2.1 n.2.2.1 n.2.2.2) { c with host := { c.host with early := [] } }

end Sys2Proof.Machine
end

