-- ==== Sys2Proof/Machine/Stair.lean ====
section
/-! DEFINITION. The stair engine (R240 to R251): windows, line accesses, conversion on the way, and the effect of each
STAIR descriptor with its faults. -/

namespace Sys2Proof.Machine

/-! ### Body checks (R251) -/

/-- A format code of the stair: 0xE and 0xF belong to the vector core only (R149; log entry 13). -/
def stFmtOk (f : Nat) : Bool := decide (f ≤ 0xD)

/-- A row of n elements fits the format: whole blocks of a scaled format, whole bytes of a packed one (R242). -/
def stLenOk (f n : Nat) : Bool :=
  let x := Fmt.ofCode f
  (x.block == 0 || n % x.block == 0) && n * x.bits % 8 == 0

/-- A scale array address is 0 for an unscaled format. -/
def stScaleOk (f a : Nat) : Bool := vxScaled f || a == 0

/-- The checks of R251 that end a STAIR descriptor with status 0x01 when it starts. -/
def stairBodyBad (d : Desc) : Bool :=
  match descOpc d with
  | 0x80 => moveBad true
  | 0x81 => moveBad false
  | 0x82 => listBad || descF d 12 16 4 == 9
  | 0x83 => listBad || descF d 20 0 11 != 1 || descF d 28 0 11 != 0
  | 0x84 =>
    descF d 8 0 6 != 0 || decide (4 < descF d 8 40 3) || descF d 8 43 21 != 0 || descF d 16 0 40 == 0 || descF d 16 0 6 != 0
    || descF d 16 40 24 != 0 || descF d 24 0 32 != 0 || descF d 28 0 32 != 0
  | _ => true
where
  moveBad (load : Bool) : Bool :=
    let mf := descF d 8 40 4
    let sf := descF d 8 44 4
    let shx := descF d 8 53 1 == 1
    let trn := descF d 8 50 1 == 1
    let src := if load then mf else sf
    let dst := if load then sf else mf
    descF d 8 54 10 != 0 || !stFmtOk mf || !stFmtOk sf || descF d 8 48 2 == 3 || descF d 8 0 4 != 0
    || descF d 16 0 7 != 0 || descF d 28 22 10 != 0 || descF d 28 0 4 != 0 || !stScaleOk sf (descF d 28 0 22)
    || (dst == 9 && src != 9) || (trn && (mf == 9 || sf == 9))
    || (if shx then descF d 20 0 6 != 0 || descF d 20 22 10 != 0 || descF d 24 0 32 != 0
        else vxScaled mf || descF d 20 0 16 == 0 || descF d 20 16 16 == 0
          || (!trn && !(stLenOk mf (descF d 20 16 16) && stLenOk sf (descF d 20 16 16))))
  listBad : Bool :=
    let n := descF d 12 0 13
    let f := descF d 12 16 4
    descF d 8 0 3 != 0 || descF d 8 22 10 != 0 || n == 0 || decide (4096 < n) || descF d 12 13 3 != 0 || !stFmtOk f
    || descF d 12 20 2 == 3 || descF d 12 22 10 != 0 || descF d 16 0 7 != 0
    || descF d 20 0 11 == 0 || decide (1024 < descF d 20 0 11) || descF d 20 11 5 != 0
    || descF d 20 16 13 == 0 || decide (4096 < descF d 20 16 13) || descF d 20 29 3 != 0
    || !stLenOk f (descF d 20 16 13) || descF d 24 22 10 != 0 || !stScaleOk f (descF d 24 0 22) || descF d 28 11 21 != 0

/-! ### Windows (R250) and line accesses -/

/-- Unset windows are disabled. -/
def noSwin : Nat → DWord := fun _ => 0

/-- Whether one enabled window grants every byte of an access. -/
def Gallery.swinOk (g : Gallery) (a n : Nat) (wr : Bool) : Bool :=
  (List.range 8).any fun i =>
    let w := (Store.get noSwin g.swin i).toNat
    let base := field w 16 24 * 65536
    bitOf w (b2n wr) && decide (base ≤ a) && decide (a + n ≤ base + field w 40 24 * 65536)

/-- The status an access of a stair descriptor meets before it is sent: 0x11, 0x12, or 0. -/
def Chip.stGate (c : Chip) (k a n : Nat) (wr : Bool) : Nat :=
  if !c.populated a n then 0x11 else if !(c.gal k).swinOk a n wr then 0x12 else 0

/-- The stair status of a line request's answer. -/
def stStatus (e : Nat) : Nat := match e with | 0 => 0 | 1 => 0x15 | 2 => 0x11 | _ => 0x16

/-- The gallery at key k as a requester. -/
def stWho (k : Nat) : Requester := .gallery ⟨Fin.ofNat 4 (k / 104), Fin.ofNat 104 k⟩

/-- A fault: its status and the faulting address. DEDUCED: log entry 78. -/
abbrev StFault := Nat × Nat

/-- Read n bytes of memory line by line, `f` bounding the lines. -/
def Chip.stReadGo (k ah : Nat) : Nat → Nat → Nat → Chip → Chip × Except StFault (List Byte)
  | 0, _, _, c => (c, .ok [])
  | f + 1, a, n, c =>
    if n = 0 then (c, .ok [])
    else
      let m := min n (64 - a % 64)
      match c.stGate k a m false with
      | 0 =>
        let (c, e, d) := c.sliceRead (a / 64) ah (stWho k)
        if e = 0 then
          let (c, r) := Chip.stReadGo k ah f (a + m) (n - m) c
          (c, r.map fun bs => leBytes m (field d.toNat (8 * (a % 64)) (8 * m)) ++ bs)
        else (c, .error (stStatus e, a))
      | st => (c, .error (st, a))

/-- Read n bytes of module memory for gallery k under an allocation hint; the bytes are counted for the range (R554). -/
def Chip.stRead (c : Chip) (k rid ah a n : Nat) : Chip × Except StFault (List Byte) :=
  let (c, r) := Chip.stReadGo k ah (n / 64 + 2) a n c
  match r with
  | .ok bs => (c.onGal k fun g => g.rngAdd rid 5 bs.length, .ok bs)
  | .error e => (c, .error e)

/-- Write bytes to memory line by line. -/
def Chip.stWriteGo (k ah : Nat) : Nat → Nat → List Byte → Chip → Chip × Option StFault
  | 0, _, _, c => (c, none)
  | f + 1, a, bs, c =>
    if bs.isEmpty then (c, none)
    else
      let m := min bs.length (64 - a % 64)
      match c.stGate k a m true with
      | 0 =>
        let sh := a % 64
        let (c, e) := c.sliceWrite (a / 64) (BitVec.ofNat 64 ((2 ^ m - 1) * 2 ^ sh)) (BitVec.ofNat 512 (leVal (bs.take m) * 2 ^ (8 * sh))) ah (stWho k)
        if e = 0 then Chip.stWriteGo k ah f (a + m) (bs.drop m) c else (c, some (stStatus e, a))
      | st => (c, some (st, a))

/-- Write bytes to module memory for gallery k; the bytes are counted for the range (R554). -/
def Chip.stWrite (c : Chip) (k rid ah a : Nat) (bs : List Byte) : Chip × Option StFault :=
  let (c, r) := Chip.stWriteGo k ah (bs.length / 64 + 2) a bs c
  match r with
  | none => (c.onGal k fun g => g.rngAdd rid 6 bs.length, none)
  | e => (c, e)

/-- Run steps i, i + 1, … to the first fault. -/
def Chip.stEach (f : Nat → Chip → Chip × Option StFault) (i : Nat) (c : Chip) : Nat → Chip × Option StFault
  | 0 => (c, none)
  | n + 1 =>
    match f i c with
    | (c, none) => Chip.stEach f (i + 1) c n
    | r => r

/-- Bytes of the scratchpad of gallery k, or the fault of reading them. -/
def Chip.stSpad (c : Chip) (k a n : Nat) : Except StFault (List Byte) :=
  match (c.gal k).spadReadStat a n with
  | 0 => .ok (Memory.bytes (c.gal k).spad a n)
  | e => .error (e, a)

/-- Bytes into the scratchpad of gallery k. -/
def Chip.stSpadPut (c : Chip) (k a : Nat) (bs : List Byte) : Chip × Option StFault :=
  match spadWriteStat a bs.length with
  | 0 => (c.onGal k fun g => g.spadWrite a bs, none)
  | e => (c, some (e, a))

/-! ### Conversion (R244) -/

/-- The element codes packed in bytes. -/
def unpack (bits n : Nat) (bs : List Byte) : List Nat :=
  let x := leVal bs
  (List.range n).map fun i => field x (i * bits) bits

/-- An element format without its block scale, for R244's exact copy. -/
def mxTwin (src dst : Nat) : Bool := (src == 0 && dst == 2) || (src == 1 && dst == 3)

/-- Codes and block scales of one destination block from FP32 words. -/
def stBlocks (f : Fmt) (rnd : Nat → Rounding) (ovf ftz : Bool) : Nat → Nat → List Word → List Nat × List Nat
  | 0, _, _ => ([], [])
  | n + 1, b, ws =>
    let q := f.convertBlock (fun i => rnd (b * f.block + i)) ovf ftz 0 (ws.take f.block)
    let r := stBlocks f rnd ovf ftz n (b + 1) (ws.drop f.block)
    (q.2 ++ r.1, q.1 :: r.2)

/-- FP32 words into a format: codes, and scales of a scaled one. -/
def stNarrow (dst : Nat) (rnd : Nat → Rounding) (ovf ftz : Bool) (ws : List Word) : List Nat × List Nat :=
  let f := Fmt.ofCode dst
  if f.block = 0 then (ws.zipIdx.map fun e => f.convert (rnd e.2) ovf ftz e.1, [])
  else stBlocks f rnd ovf ftz (ws.length / f.block) 0 ws

/-- Codes with their scales widened to FP32 (R143, R244). -/
def stWiden (src : Nat) (ovf : Bool) (codes scales : List Nat) : List Word :=
  let f := Fmt.ofCode src
  codes.zipIdx.map fun e => f.toFp32 ovf (if f.block = 0 then 0 else listGet 0 scales (e.2 / f.block)) e.1

/-- Elements converted once each, by the scale rules of R244: element codes and block scales of the destination. A NaN under a kept scale becomes
the code 0 in an element format without NaN. DESIGN CHOICE: log entry 120. -/
def stElems (src dst : Nat) (rnd : Nat → Rounding) (ovf ftz : Bool) (codes scales : List Nat) : List Nat × List Nat :=
  let s := Fmt.ofCode src
  let f := Fmt.ofCode dst
  if mxTwin src dst then (codes, (List.range (codes.length / f.block)).map fun _ => 0x7F)
  else if s.block ≠ 0 ∧ s.block = f.block then
    let lift (v : FVal) : FVal := if f = .mxInt8 then (match v with | .fin n m e => .fin n m (e + 6) | x => x) else v
    (codes.zipIdx.map fun e => f.convertVal (rnd e.2) ovf ftz (lift (s.value e.1)), scales)
  else stNarrow dst rnd ovf ftz (stWiden src ovf codes scales)

/-- One row of n elements as the stair converts it (R244): bytes unchanged between equal formats. -/
def stConvert (src dst : Nat) (rnd : Nat → Rounding) (ftz : Bool) (codes scales : List Nat) : List Nat × List Nat :=
  if src = dst then (codes, scales) else stElems src dst rnd false ftz codes scales

/-- Scale bytes of a row of n elements. -/
def stScaleBytes (f n : Nat) : Nat := if vxScaled f then n / (Fmt.ofCode f).block else 0

/-- The bytes of codes in a format. -/
def stPack (f : Nat) (codes : List Nat) : List Byte := packElems (Fmt.ofCode f).bits codes

/-! ### ST.LOAD and ST.STORE (R242 to R245) -/

/-- A move's shape: rows of n elements, where each row and its scales lie in memory. -/
structure StShape where
  rows : Nat
  elems : Nat
  addr : Nat → Nat
  scale : Nat → Nat

/-- A base plus a signed stride times an index, as a memory address; one outside the address space is unpopulated. -/
def stOff (base : Nat) (terms : List (Int × Nat)) : Nat :=
  let x := terms.foldl (fun a t => a + t.1 * (t.2 : Int)) (base : Int)
  if 0 ≤ x then x.toNat else 2 ^ 40

/-- The shape of a move: its body's, or its shape record's (R243). -/
def Chip.stShape (c : Chip) (k : Nat) (d : Desc) : Except StFault StShape :=
  let ma := descF d 8 0 40
  let mf := descF d 8 40 4
  let sf := descF d 8 44 4
  let trn := descF d 8 50 1 == 1
  let trnOk (r e : Nat) : Bool := !trn || (r % 128 == 0 && e % 128 == 0)
  if descF d 8 53 1 = 0 then
    let r := descF d 20 0 16
    let e := descF d 20 16 16
    if trnOk r e then .ok ⟨r, e, fun i => ma + i * descF d 24 0 32, fun _ => 0⟩ else .error (0x14, ma)
  else
    let sh := descF d 20 0 22
    match c.stSpad k sh 64 with
    | .error e => .error e
    | .ok bs =>
      let x := leVal bs
      let d0 := field x 0 16
      let n1 := field x 16 16
      let n2 := field x 32 16
      let n3 := field x 48 16
      let ms (i : Nat) : Int := toSigned 48 (field x (64 * i) 48)
      let mss (i : Nat) : Int := toSigned 32 (field x (320 + 32 * (i - 1)) 32)
      let sc := field x 256 40
      let bad := d0 == 0 || n1 == 0 || n2 == 0 || n3 == 0 || decide (65535 < n1 * n2 * n3)
        || field x 112 16 != 0 || field x 176 16 != 0 || field x 240 16 != 0 || field x 296 24 != 0 || field x 416 96 != 0
        || (!vxScaled mf && sc != 0) || !stLenOk mf d0 || !(trn || stLenOk sf d0)
        || (trn && (n2 != 1 || n3 != 1)) || !trnOk (n1 * n2 * n3) d0
      let i1 (r : Nat) := r % n1
      let i2 (r : Nat) := r / n1 % n2
      let i3 (r : Nat) := r / n1 / n2
      let adr (r : Nat) := stOff ma [(ms 1, i1 r), (ms 2, i2 r), (ms 3, i3 r)]
      let rb := packBytes (Fmt.ofCode mf).bits d0
      if bad then .error (0x14, sh)
      else if (List.range (n1 * n2 * n3)).any fun r => adr r / 2 ^ 38 != (adr r + rb - 1) / 2 ^ 38 then .error (0x14, sh)
      else .ok ⟨n1 * n2 * n3, d0, adr, fun r => stOff sc [(mss 1, i1 r), (mss 2, i2 r), (mss 3, i3 r)]⟩

/-- What a move needs at every row. -/
structure StMove where
  k : Nat
  rid : Nat
  ah : Nat
  mf : Nat
  sf : Nat
  ftz : Bool
  sp : Nat
  sstr : Nat
  sca : Nat
  rnd : Gallery → Nat → Nat → Rounding

/-- The fields of a move. -/
def stMove (k : Nat) (e : QEntry) (c3 : Nat) : StMove :=
  let d := e.desc
  { k := k, rid := descRange d, ah := descF d 8 48 2, mf := descF d 8 40 4, sf := descF d 8 44 4, ftz := descF d 8 52 1 == 1,
    sp := descF d 16 0 22, sstr := descF d 16 22 10, sca := descF d 28 0 22,
    rnd := fun g j n => g.rounding (descF d 8 51 1 == 1) c3 e.index.toNat j n }

/-- Read a piece of a memory row: element codes from element `e0`, and their scales. -/
def Chip.stMemRow (c : Chip) (m : StMove) (s : StShape) (r e0 n : Nat) : Chip × Except StFault (List Nat × List Nat) :=
  let f := Fmt.ofCode m.mf
  match c.stRead m.k m.rid m.ah (s.addr r + e0 * f.bits / 8) (packBytes f.bits n) with
  | (c, .error e) => (c, .error e)
  | (c, .ok bs) =>
    if vxScaled m.mf then
      match c.stRead m.k m.rid m.ah (s.scale r + e0 / f.block) (stScaleBytes m.mf n) with
      | (c, .error e) => (c, .error e)
      | (c, .ok sc) => (c, .ok (unpack f.bits n bs, sc.map (·.toNat)))
    else (c, .ok (unpack f.bits n bs, []))

/-- Write a piece of a memory row. -/
def Chip.stMemPut (c : Chip) (m : StMove) (s : StShape) (r e0 : Nat) (q : List Nat × List Nat) : Chip × Option StFault :=
  let f := Fmt.ofCode m.mf
  match c.stWrite m.k m.rid m.ah (s.addr r + e0 * f.bits / 8) (stPack m.mf q.1) with
  | (c, none) =>
    if vxScaled m.mf then c.stWrite m.k m.rid m.ah (s.scale r + e0 / f.block) (q.2.map (BitVec.ofNat 8)) else (c, none)
  | r => r

/-- Address of a scratchpad row of `len` elements, from element `e0`, and of its scales. -/
def StMove.spadAt (m : StMove) (len r e0 : Nat) : Nat × Nat :=
  let f := Fmt.ofCode m.sf
  (m.sp + r * strideOf m.sstr (packBytes f.bits len) + e0 * f.bits / 8,
   m.sca + r * stScaleBytes m.sf len + (if f.block = 0 then 0 else e0 / f.block))

/-- Whether a scratchpad row and its scales lie within 4 MiB. -/
def StMove.spadFits (m : StMove) (len r : Nat) : Bool :=
  let a := m.spadAt len r 0
  decide (a.1 + packBytes (Fmt.ofCode m.sf).bits len ≤ spadSize) && decide (a.2 + stScaleBytes m.sf len ≤ spadSize)

/-- Read a piece of a scratchpad row. -/
def Chip.stSpadRow (c : Chip) (m : StMove) (len r e0 n : Nat) : Except StFault (List Nat × List Nat) :=
  let f := Fmt.ofCode m.sf
  let a := m.spadAt len r e0
  match c.stSpad m.k a.1 (packBytes f.bits n) with
  | .error e => .error e
  | .ok bs =>
    match c.stSpad m.k a.2 (stScaleBytes m.sf n) with
    | .error e => .error e
    | .ok sc => .ok (unpack f.bits n bs, sc.map (·.toNat))

/-- Write a piece of a scratchpad row. -/
def Chip.stSpadRowPut (c : Chip) (m : StMove) (len r e0 : Nat) (q : List Nat × List Nat) : Chip × Option StFault :=
  let a := m.spadAt len r e0
  match c.stSpadPut m.k a.1 (stPack m.sf q.1) with
  | (c, none) => c.stSpadPut m.k a.2 (q.2.map (BitVec.ofNat 8))
  | r => r

/-- One row of an ST.LOAD without transposition. -/
def Chip.stLoadRow (m : StMove) (s : StShape) (r : Nat) (c : Chip) : Chip × Option StFault :=
  if m.spadFits s.elems r then
    match c.stMemRow m s r 0 s.elems with
    | (c, .error e) => (c, some e)
    | (c, .ok q) => c.stSpadRowPut m s.elems r 0 (stConvert m.mf m.sf (m.rnd (c.gal m.k) r) m.ftz q.1 q.2)
  else (c, some (0x10, (m.spadAt s.elems r 0).1))

/-- One row of an ST.STORE without transposition. -/
def Chip.stStoreRow (m : StMove) (s : StShape) (r : Nat) (c : Chip) : Chip × Option StFault :=
  if m.spadFits s.elems r then
    match c.stSpadRow m s.elems r 0 s.elems with
    | .error e => (c, some e)
    | .ok q => c.stMemPut m s r 0 (stConvert m.sf m.mf (m.rnd (c.gal m.k) r) m.ftz q.1 q.2)
  else (c, some (0x10, (m.spadAt s.elems r 0).1))

/-- Column i of rows of element codes or words. -/
def column {α : Type} (z : α) (rows : List (List α)) (i : Nat) : List α := rows.map fun r => listGet z r i

/-- The rows read so far of a block, to the first fault. -/
def Chip.gather {α : Type} (f : Nat → Chip → Chip × Except StFault α) (i : Nat) (c : Chip) : Nat → Chip × Except StFault (List α)
  | 0 => (c, .ok [])
  | n + 1 =>
    match f i c with
    | (c, .error e) => (c, .error e)
    | (c, .ok x) =>
      match Chip.gather f (i + 1) c n with
      | (c, .error e) => (c, .error e)
      | (c, .ok xs) => (c, .ok (x :: xs))

/-- The transposed block's row: codes moved unchanged, or elements converted afresh (R245). -/
def stTurn (src dst : Nat) (rnd : Nat → Rounding) (ftz : Bool) (rows : List (List Nat × List Nat)) (i : Nat) : List Nat × List Nat :=
  if src = dst ∧ ¬ vxScaled src then (column 0 (rows.map (·.1)) i, [])
  else stNarrow dst rnd false ftz (column 0 (rows.map fun q => stWiden src false q.1 q.2) i)

/-- The blocks of a transposed load that fill 128 scratchpad rows: memory columns `128·cb` on of every memory row. Their rows are written whole and in order, so
that of two that overlap the later one remains (R245, R249). DEDUCED: log entry 78. -/
def Chip.stLoadBand (m : StMove) (s : StShape) (cb : Nat) (c : Chip) : Chip × Option StFault :=
  match Chip.gather (fun i c => c.stMemRow m s i (cb * 128) 128) 0 c s.rows with
  | (c, .error e) => (c, some e)
  | (c, .ok rows) =>
    Chip.stEach (fun i c =>
      let row := cb * 128 + i
      if m.spadFits s.rows row then c.stSpadRowPut m s.rows row 0 (stTurn m.mf m.sf (m.rnd (c.gal m.k) row) m.ftz rows i)
      else (c, some (0x10, (m.spadAt s.rows row 0).1))) 0 c 128

/-- The blocks of a transposed store that fill 128 memory rows from `128·rb` on: memory rows are the scratchpad's columns. -/
def Chip.stStoreBand (m : StMove) (s : StShape) (rb : Nat) (c : Chip) : Chip × Option StFault :=
  let read (row : Nat) (c : Chip) : Chip × Except StFault (List Nat × List Nat) :=
    if m.spadFits s.rows row then (c, c.stSpadRow m s.rows row (rb * 128) 128) else (c, .error (0x10, (m.spadAt s.rows row 0).1))
  match Chip.gather read 0 c s.elems with
  | (c, .error e) => (c, some e)
  | (c, .ok rows) =>
    Chip.stEach (fun i c =>
      c.stMemPut m s (rb * 128 + i) 0 (stTurn m.sf m.mf (fun e => m.rnd (c.gal m.k) e (rb * 128 + i)) m.ftz rows i)) 0 c 128

/-- The first faulting access is recorded (R251, Table 9-20), and the descriptor ends with its status. DEDUCED: log entry 78. -/
def Chip.stEnd (c : Chip) (k : Nat) (e : QEntry) (r : Option StFault) : Chip :=
  c.onGal k fun g =>
    let g := g.setEntry 3 { e with st := .ended (match r with | some f => f.1 | none => 0) }
    match r with
    | some f => if g.stfValid then g else { g with stfValid := true, stfStat := BitVec.ofNat 8 f.1, stfaddr := BitVec.ofNat 40 f.2 }
    | none => g

/-- ST.LOAD, ST.STORE (R242 to R245, R249). -/
def Chip.stMoveRun (load : Bool) (c : Chip) (k : Nat) (e : QEntry) : Chip :=
  let m := stMove k e (srC3 3 c.epoch)
  match c.stShape k e.desc with
  | .error f => c.stEnd k e (some f)
  | .ok s =>
    let (c, r) :=
      if descF e.desc 8 50 1 = 1 then
        (if load then Chip.stEach (Chip.stLoadBand m s) 0 c (s.elems / 128) else Chip.stEach (Chip.stStoreBand m s) 0 c (s.rows / 128))
      else Chip.stEach (if load then Chip.stLoadRow m s else Chip.stStoreRow m s) 0 c s.rows
    c.stEnd k e r

/-! ### ST.GATHER and ST.SCATTER (R246, R247) -/

/-- A list descriptor as a move of rows between entry pages and scratchpad rows; conversions round to nearest. -/
def listMove (k : Nat) (e : QEntry) (fmt : Nat) : StMove :=
  let d := e.desc
  { k := k, rid := descRange d, ah := descF d 12 20 2, mf := fmt, sf := descF d 12 16 4, ftz := false,
    sp := descF d 16 0 22, sstr := descF d 16 22 10, sca := descF d 24 0 22, rnd := fun _ _ _ => .nearestEven }

/-- A gather entry that R246 and Table 9-9 forbid. -/
def gatherBad (df elems x : Nat) : Bool :=
  field x 45 19 != 0 || (!bitOf x 44 &&
    (decide (0xC < field x 40 4) || (field x 40 4 == 9 && vxScaled df) || field x 0 7 != 0 || !stLenOk (field x 40 4) elems))

/-- One gather entry delivered to scratchpad rows from `row0`. -/
def Chip.stGatherEntry (e : QEntry) (k x row0 rows : Nat) (c : Chip) : Chip × Option StFault :=
  let el := descF e.desc 20 16 13
  let pr := descF e.desc 20 0 11
  let m := listMove k e (field x 40 4)
  let a := field x 0 40
  let b := packBytes (Fmt.ofCode m.mf).bits el
  let sb := stScaleBytes m.mf el
  let s : StShape := ⟨rows, el, fun i => a + i * b, fun i => a + pr * b + i * sb⟩
  Chip.stEach (fun i c =>
    if m.spadFits el (row0 + i) then
      match c.stMemRow m s i 0 el with
      | (c, .error f) => (c, some f)
      | (c, .ok q) => c.stSpadRowPut m el (row0 + i) 0 (stConvert m.mf m.sf (m.rnd (c.gal k) 0) false q.1 q.2)
    else (c, some (0x10, (m.spadAt el (row0 + i) 0).1))) 0 c rows

/-- ST.GATHER (R246). -/
def Chip.stGather (c : Chip) (k : Nat) (e : QEntry) : Chip :=
  let d := e.desc
  let la := descF d 8 0 22
  let n := descF d 12 0 13
  let pr := descF d 20 0 11
  let last := descF d 28 0 11
  match c.stSpad k la (8 * n) with
  | .error f => c.stEnd k e (some f)
  | .ok _ =>
    let (c, r) := Chip.stEach (fun i c =>
      let x := Memory.num (c.gal k).spad (la + 8 * i) 8
      if gatherBad (descF d 12 16 4) (descF d 20 16 13) x then (c, some (0x13, la + 8 * i))
      else if bitOf x 44 then (c, none)
      else c.stGatherEntry e k x (i * pr) (if i + 1 = n ∧ last ≠ 0 then last else pr)) 0 c n
    c.stEnd k e r

/-- A scatter entry that R247 and Table 9-9 forbid. -/
def scatterBad (sf elems x : Nat) : Bool :=
  field x 45 19 != 0 || field x 104 24 != 0 || (!bitOf x 44 &&
    (decide (0xD < field x 40 4) || (field x 40 4 == 9 && sf != 9) || field x 0 4 != 0 || !stLenOk (field x 40 4) elems))

/-- ST.SCATTER (R247, R249). -/
def Chip.stScatter (c : Chip) (k : Nat) (e : QEntry) : Chip :=
  let d := e.desc
  let la := descF d 8 0 22
  let n := descF d 12 0 13
  let el := descF d 20 16 13
  match c.stSpad k la (16 * n) with
  | .error f => c.stEnd k e (some f)
  | .ok _ =>
    let (c, r) := Chip.stEach (fun i c =>
      let x := Memory.num (c.gal k).spad (la + 16 * i) 16
      if scatterBad (descF d 12 16 4) el x then (c, some (0x13, la + 16 * i))
      else if bitOf x 44 then (c, none)
      else
        let m := listMove k e (field x 40 4)
        let s : StShape := ⟨n, el, fun _ => field x 0 40, fun _ => field x 64 40⟩
        Chip.stStoreRow m s i c) 0 c n
    c.stEnd k e r

/-! ### ST.CMO (R248) -/

/-- One line of an ST.CMO. A range that meets the gap between two tower windows ends there with
0x11. DESIGN CHOICE: log entry 123. -/
def Chip.cmoLine (op k l : Nat) (c : Chip) : Chip × Option StFault :=
  match c.stGate k (l * 64) 64 (op == 0 || op == 1 || op == 4) with
  | 0 =>
    match c.pathStatus l (stWho k) with
    | 0 =>
      match op with
      | 2 => ((c.sliceRead l 0 (stWho k)).1, none)
      | 3 => ((c.sliceRead l 2 (stWho k)).1, none)
      | _ =>
        match c.findWay l with
        | none => (c, none)
        | some w =>
          if op = 1 then
            match c.way w with
            | some x => (if x.pin = some .epoch then c.setWay w (if x.valid then some { x with pin := none } else none) else c, none)
            | none => (c, none)
          else
            let c := c.cleanWay w
            (if op = 4 && !wayPinned (c.way w) then c.setWay w none else c, none)
    | s => (c, some (stStatus s, l * 64))
  | st => (c, some (st, l * 64))

/-- ST.CMO with operation `op` (R248): a descriptor of another operation is not this command's. -/
def Chip.stCmo (op : Nat) (c : Chip) (k : Nat) (e : QEntry) : Chip :=
  let d := e.desc
  let l := descF d 8 0 40 / 64
  let (c, r) := Chip.stEach (fun i c => c.cmoLine op k (l + i)) 0 c (descF d 16 0 40 / 64)
  c.stEnd k e r

/-- The descriptor in flight that a command of the stair runs: any of those that it may (R72). DEDUCED: log entry 72. -/
def Chip.stairEntry (c : Chip) (k : Nat) (p : Desc → Bool) : Option QEntry :=
  match ((c.gal k).queue 3).entries.filter fun e => e.st == .running && p e.desc with
  | [e] => some e
  | l => l[Config.stairOrder c.act.toNat % l.length]?

/-- Run the first descriptor in flight on queue 3 of gallery k that `p` takes. -/
def Chip.stairRun (c : Chip) (k : Nat) (p : Desc → Bool) (f : Chip → Nat → QEntry → Chip) : Chip :=
  match c.stairEntry k p with
  | some e => f c k e
  | none => c

end Sys2Proof.Machine
end

