-- ==== Sys2Proof/Machine/Chanter.lean ====
section
/-! DEFINITION. The chanter clusters (R321 to R355): one chanter's instructions, its line operations, jobs and declared
ranges, and the bottom end of a vault bus. -/

namespace Sys2Proof.Machine

/-! ### Clusters and chanters -/

def clusterDefault : Nat → Cluster := fun _ => Cluster.reset
def chanterDefault : Nat → Chanter := fun _ => Chanter.reset
def zeroQ : Nat → BitVec 128 := fun _ => 0

/-- The cluster CHC[v] of tower t, keyed as its vault is. -/
def Chip.cluster (c : Chip) (k : Nat) : Cluster := Store.get clusterDefault c.chc k

/-- A chanter of a cluster. -/
def Cluster.chanter (x : Cluster) (i : Nat) : Chanter := Store.get chanterDefault x.chanters i

/-- Chanters of a cluster that a job has been given to. -/
def Cluster.busy (x : Cluster) : Nat := (x.chanters.filter fun e => match e.2.job with | some j => j.started | none => false).length

/-- Put a cluster back; CHC.STAT follows. -/
def Chip.setCluster (c : Chip) (k : Nat) (x : Cluster) : Chip :=
  let r := Reg.chcStat (k / 104) (k % 104)
  ({ c with chc := Store.put clusterDefault c.chc k x }).wr r (setField (setField (c.rd r) 38 6 x.busy) 44 7 x.queue.length)

/-- Chanter i of cluster k. -/
def Chip.chanter (c : Chip) (k i : Nat) : Chanter := (c.cluster k).chanter i

/-- Put a chanter back. -/
def Chip.setChanter (c : Chip) (k i : Nat) (x : Chanter) : Chip :=
  let v := c.cluster k
  c.setCluster k { v with chanters := Store.put chanterDefault v.chanters i x }

/-- Change a chanter. -/
def Chip.onChanter (c : Chip) (k i : Nat) (f : Chanter → Chanter) : Chip := c.setChanter k i (f (c.chanter k i))

/-- Physical position of a cluster. -/
def Chip.clusterPos (c : Chip) (k : Nat) : Nat := c.vaultPos k

/-! ### Job records (Table 12-6) -/

def Job.id (j : Job) : Nat := field j.record.toNat 0 32
def Job.epoch (j : Job) : Nat := field j.record.toNat 32 24
def recUsh (r : Line) : Bool := bitOf r.toNat 56
def recBg (r : Line) : Bool := bitOf r.toNat 57
def recRaw (r : Line) : Bool := bitOf r.toNat 58
def recId (r : Line) : Nat := field r.toNat 0 32
def recEpoch (r : Line) : Nat := field r.toNat 32 24
def recEntry (r : Line) : Nat := field r.toNat 64 8
def recTarget (r : Line) : Nat := field r.toNat 72 8
def recN (r : Line) : Nat := field r.toNat 80 16
def recList (r : Line) : Nat := field r.toNat 128 40

/-- A record that breaks Table 12-6. -/
def Chip.recBad (c : Chip) (r : Line) : Bool :=
  let x := r.toNat
  field x 59 5 != 0 || decide (c.sys.fwEntries.length ≤ recEntry r) || (decide (31 < recTarget r) && recTarget r != 0xFF)
  || decide (256 < recN r) || field x 96 32 != 0 || field x 168 24 != 0 || recList r % 64 != 0
  || (recN r == 0 && recList r != 0) || (recRaw r && recN r != 0) || field x 448 64 != 0

/-- A range entry (R343); none where it breaks the form, crosses a tower window, or is not populated. -/
def Chip.rangeOf (c : Chip) (x : Nat) : Option JobRange :=
  let l := field x 0 34
  let n := field x 34 22
  let m := field x 56 2
  if n = 0 ∨ m = 0 ∨ m = 3 ∨ field x 58 6 ≠ 0 ∨ !c.populated (l * 64) (n * 64) then none else some ⟨l, n, m == 2⟩

/-- The ranges of a record, if every entry is sound and readable. -/
def Chip.rangesOf (c : Chip) (r : Line) : Option (List JobRange) :=
  let n := recN r
  if n ≠ 0 ∧ (!c.populated (recList r) (8 * n) ∨ c.memPoisoned (recList r) (8 * n)) then none
  else (List.range n).foldr (fun i acc =>
    match acc, c.rangeOf (c.memNum (recList r + 8 * i) 8) with
    | some l, some x => some (x :: l)
    | _, _ => none) (some [])

/-! ### Declared ranges (R336, R337) -/

/-- The lines that stand for the stripes of a range: the first line of each. -/
def JobRange.stripes (r : JobRange) : List Nat :=
  (List.range ((r.line % 4 + r.n + 3) / 4)).map fun i => (r.line / 4 + i) * 4

/-- Raise the hold counters of a range. -/
def Chip.declare (c : Chip) (r : JobRange) : Chip :=
  r.stripes.foldl (fun c l =>
    let k := holdKey l
    { c with mem := { c.mem with holdCnt := Store.modify zeroNat c.mem.holdCnt k (· + 1),
                                 ownCnt := if r.own then Store.modify zeroNat c.mem.ownCnt k (· + 1) else c.mem.ownCnt } }) c

/-- Lower the hold counters of a range. -/
def Chip.release (c : Chip) (r : JobRange) : Chip :=
  r.stripes.foldl (fun c l =>
    let k := holdKey l
    { c with mem := { c.mem with holdCnt := Store.modify zeroNat c.mem.holdCnt k (· - 1),
                                 ownCnt := if r.own then Store.modify zeroNat c.mem.ownCnt k (· - 1) else c.mem.ownCnt } }) c

/-- Whether every hold counter stands at 15 or below (R337). -/
def Chip.holdsFit (c : Chip) : Bool := c.mem.holdCnt.all fun e => decide (e.2 ≤ 15)

/-- Every dirty line of a range that a slice holds is written back and stays clean, pinned if it was (R336). -/
def Chip.cleanRange (c : Chip) (r : JobRange) : Chip :=
  let c := c.flushQueued fun l => decide (r.line ≤ l ∧ l < r.line + r.n)
  (c.mem.ways.map (·.1)).foldl (fun c k =>
    match c.way k with
    | some w => if r.line ≤ w.line ∧ w.line < r.line + r.n then c.cleanWay k else c
    | none => c) c

/-! ### Starting and ending jobs (R344 to R347) -/

/-- Chanter i of cluster k can take a job: not fused bad, idle. -/
def Chip.chFree (c : Chip) (k i : Nat) : Bool :=
  decide (i < 32) && !bitOf (c.rdF (Reg.chcStat (k / 104) (k % 104)) 0 32) i && (c.chanter k i).job.isNone

/-- A job's start or end in the event ring (Table 19-7). -/
def Chip.jobEvent (c : Chip) (k i : Nat) (start : Bool) (status id : Nat) : Chip :=
  c.event (k / 104) (208 + k % 104) 13 0 (b2n start + i * 2 + status * 64 + id * 2 ^ 14)

/-- The usher notes the completion record of a job that it issued itself. -/
def Chip.workEnded (c : Chip) (k id status : Nat) : Chip :=
  let mark (w : Work) : Work := if w.id = id ∧ w.cl = k ∧ w.sent ∧ w.status.isNone then { w with status := some status } else w
  { c with ush := { c.ush with works := c.ush.works.map mark } }

/-- The completion record of a job (R345). -/
def Chip.jobReport (c : Chip) (k i : Nat) (r : Line) (status result : Nat) : Chip :=
  ((c.workEnded k (recId r) status).report (.jobDone (k / 104 * 104 + c.clusterPos k) i (recId r) (recEpoch r) status result)).jobEvent k i false status (recId r)

/-- A running or declaring job of chanter i ends: its operations complete or are dropped whole, its ranges are released, the
chanter is idle (R332, R346, R347). -/
def Chip.jobEnd (c : Chip) (k i status result : Nat) : Chip :=
  match (c.chanter k i).job with
  | none => c
  | some j =>
    let c := if j.started then j.ranges.foldl Chip.release c else c
    let c := c.onChanter k i fun x => { x with job := none, ops := [], copies := [] }
    c.jobReport k i j.record status result

/-- The declared job of chanter i starts (R344): the record at 0xFF00, CSRs at their reset values, pc at the entry. -/
def Chip.jobRun (c : Chip) (k i : Nat) (j : Job) : Chip :=
  let x := c.chanter k i
  let x' : Chanter :=
    { Chanter.reset with
      hart := { x.hart with pc := BitVec.ofNat 32 (listGet 0 c.sys.fwEntries (recEntry j.record)) }
      q := x.q, ecc := x.ecc
      sram := Memory.setBytes x.sram 0xFF00 (leBytes 64 j.record.toNat)
      job := some { j with started := true } }
  (c.setChanter k i x').jobEvent k i true 0 j.id

/-- The dispatcher takes the record at the head of the queue (R343, R344). -/
def Chip.jobStart (c : Chip) (k : Nat) : Chip :=
  let v := c.cluster k
  match v.queue with
  | [] => c
  | r :: rest =>
    if c.rdF (Reg.chcCtl (k / 104) (k % 104)) 32 1 = 1 then c
    else
      let drop := c.setCluster k { v with queue := rest }
      let bgRunning := (v.chanters.filter fun e => match e.2.job with | some j => recBg j.record | none => false).length
      if !recUsh r && c.stale (recEpoch r) then (drop.bump Reg.epcnt 0 32 1).jobReport k 0 r 2 0
      else
        match (if c.recBad r then none else c.rangesOf r) with
        | none => drop.jobReport k 0 r 3 0
        | some rs =>
          if recBg r ∧ c.rdF (Reg.chcCtl (k / 104) (k % 104)) 0 6 ≤ bgRunning then c
          else
            let pick := if recTarget r = 0xFF then (List.range 32).find? (c.chFree k) else some (recTarget r)
            match pick with
            | none => c
            | some i =>
              if c.chFree k i then
                let j : Job := ⟨r, rs, false⟩
                if rs.isEmpty then drop.jobRun k i j else drop.onChanter k i fun x => { x with job := some j }
              else c

/-- Every vault controller has written back and holds allocation: the job of chanter i starts; a declaration that would
raise a counter above 15 is withdrawn (R336, R337). -/
def Chip.rangesDeclared (c : Chip) (k i : Nat) : Chip :=
  match (c.chanter k i).job with
  | some j =>
    if j.started then c
    else
      let d := j.ranges.foldl Chip.declare (j.ranges.foldl Chip.cleanRange c)
      if d.holdsFit then d.jobRun k i j else c
  | none => c

/-- Every job of a cluster ends with status 0x01 (R347); queued records too. DEDUCED: log entry 84. -/
def Chip.abortJobs (c : Chip) (k : Nat) : Chip :=
  let c := (List.range 32).foldl (fun c i => c.jobEnd k i 1 0) c
  let q := (c.cluster k).queue
  let c := c.setCluster k { c.cluster k with queue := [] }
  q.foldl (fun c r => c.jobReport k 0 r 1 0) c

/-! ### Line operations (R324, R326 to R328, R342) -/

/-- A line that the vault of cluster k holds, in its user or its reserve footprint (R239, R342). -/
def Chip.ownLine (c : Chip) (k line : Nat) : Bool := lineHome line == k || (c.lineSite line).1 == k

/-- Whether a job of cluster k may use a line (R342): inside a declared range, an OWN one to write; a RAW job the lines of its own cluster's vault, to
write only while bring-up's self-test runs. -/
def Chip.mayUse (c : Chip) (j : Job) (k line : Nat) (wr : Bool) : Bool :=
  if recRaw j.record then c.ownLine k line && (!wr || c.rdF Reg.bringStatus 0 5 == 12)
  else j.ranges.any fun r => (r.own || !wr) && decide (r.line ≤ line ∧ line < r.line + r.n)

/-- A way from cluster k's tower to the landing controller of a line (R324): its own base network, or bridges by a route of Table 9-13. -/
def Chip.chWay (c : Chip) (k line : Nat) : Bool := lineTower line == k / 104 || (c.bridgeRoute (k / 104) (lineTower line) line).isSome

/-- Whether a written line's back-invalidate has been accepted (R327). -/
def Chip.opDone (c : Chip) (o : ChOp) : Bool := match o.st with | .written => !c.mem.backInv.contains o.line | _ => false

/-- Whether an operation of this kind writes. -/
def ChKind.writes : ChKind → Bool
  | .write _ => true
  | .copyWrite _ => true
  | _ => false

/-- The kind belongs to a PCOPY. -/
def ChKind.isCopy : ChKind → Bool
  | .copyRead _ => true
  | .copyWrite _ => true
  | _ => false

/-- Note a status bit for FENCEL: [0] retries, [1] uncorrectable, [2] bus error, and [3] when a PCOPY failed. -/
def Chanter.note (x : Chanter) (kind : ChKind) (bit : Nat) : Chanter :=
  { x with stat := x.stat ||| BitVec.ofNat 4 (2 ^ bit + (if kind.isCopy then 8 else 0)) }

/-- An operation that sets out: to the landing controller of its line, or, where no way is left, to an answer of retry (R324, R326). -/
def Chip.opSent (c : Chip) (k : Nat) (o : ChOp) : ChOp := { o with st := if c.chWay k o.line then .queued else .retry }

/-- Put an operation in flight: refused at once where the line is unpopulated or undeclared (R225, R342). -/
def Chip.opIssue (c : Chip) (k i line : Nat) (kind : ChKind) : Chip :=
  let x := c.chanter k i
  let ok := c.populated (line * 64) 64 && (match x.job with | some j => c.mayUse j k line kind.writes | none => false)
  let st : ChSt := if !ok then .refused else .queued
  let c := { c with opSeq := c.opSeq + 1 }
  match st, kind with
  | .refused, .read q => c.setChanter k i { x with ops := x.ops ++ [⟨c.opSeq, line, .read q, 0, .refused⟩] }
  | .refused, _ => c.setChanter k i (x.note kind 2)
  | _, _ => c.setChanter k i { x with ops := x.ops ++ [c.opSent k ⟨c.opSeq, line, kind, 0, st⟩] }

/-- Drop completed writes, and let waiting copy lines take free places among the 32 (R328); `n` bounds them. -/
def Chip.opFill (c : Chip) (k i : Nat) : Nat → Chip
  | 0 => c
  | n + 1 =>
    let c := c.onChanter k i fun x => { x with ops := x.ops.filter fun o => !c.opDone o }
    let x := c.chanter k i
    match x.copies with
    | [] => c
    | (s, d) :: rest =>
      if x.ops.length < 32 then Chip.opFill ((c.setChanter k i { x with copies := rest }).opIssue k i s (.copyRead d)) k i n else c

/-- Every waiting copy line that finds a place is issued. -/
def Chip.copiesOn (c : Chip) (k i : Nat) : Chip := c.opFill k i ((c.chanter k i).copies.length + 1)

/-- Whether a chanter has nothing in flight (R327). DEDUCED: log entry 81. -/
def Chip.chDrained (c : Chip) (k i : Nat) : Bool :=
  let x := c.chanter k i
  x.copies.isEmpty && x.ops.all fun o => c.opDone o

/-- Replace the operation with this sequence number. -/
def Chanter.setOp (x : Chanter) (o : ChOp) : Chanter := { x with ops := x.ops.map fun y => if y.seq = o.seq then o else y }

/-- Take an operation away. -/
def Chanter.dropOp (x : Chanter) (o : ChOp) : Chanter := { x with ops := x.ops.filter fun y => y.seq != o.seq }

/-- An earlier operation of the chanter on the same line is still to take effect, but for those that wait beside it at its landing controller: one
that waits to be sent again, or a copy that will write the line (R326). -/
def Chanter.opAhead (x : Chanter) (o : ChOp) : Bool :=
  x.ops.any fun y => decide (y.seq < o.seq) && ((y.st == .retry && y.line == o.line) || ((y.st == .queued || y.st == .retry) && y.kind == .copyRead o.line))

/-- The queued operations of a vault's bottom landing controller that may be performed, with their cluster and chanter. -/
def Chip.bottomOps (c : Chip) (vk : Nat) : List (Nat × Nat × ChOp) :=
  c.chc.flatMap fun e => e.2.chanters.flatMap fun f =>
    (f.2.ops.filter fun o => o.st == .queued && lineHome o.line == vk && !f.2.opAhead o).map fun o => (e.1, f.1, o)

/-- The oldest operation of a list. DEDUCED: log entry 80. -/
def oldestOp : List (Nat × Nat × ChOp) → Option (Nat × Nat × ChOp)
  | [] => none
  | x :: xs => match oldestOp xs with | some y => if y.2.2.seq < x.2.2.seq then some y else some x | none => some x

/-- Count lines that a bottom moved on a vault (Table 12-12). -/
def Chip.countLines (c : Chip) (vk n : Nat) (wr : Bool) : Chip :=
  c.bump (Reg.chcLines (vk / 104) (vk % 104)) (if wr then 32 else 0) 32 n

/-- A line read at a bottom landing for a chanter of cluster k: whether it is poisoned or uncorrectable, and its data (R489). -/
def Chip.bottomRead (c : Chip) (k vk l : Nat) : Chip × Bool × Line :=
  let r := c.decodeRead l 1 (some (.chanter ⟨Fin.ofNat 4 (k / 104), Fin.ofNat 104 (c.clusterPos k)⟩))
  (r.1.countLines vk 1 false, r.2)

/-- A line written at a bottom landing (R340); its back-invalidate is the caller's. -/
def Chip.bottomWrite (c : Chip) (vk l : Nat) (d : Line) : Chip := (c.dramWrite l d false).countLines vk 1 true

/-- Perform one operation at the landing (R326, R328, R340). A copied line goes from its source's landing controller straight to its destination's.
DEDUCED: log entry 80. -/
def Chip.bottomDo (c : Chip) (vk : Nat) (e : Nat × Nat × ChOp) : Chip :=
  let (k, i, o) := e
  let c := c.slotsTake vk 1 true
  match o.kind with
  | .read _ =>
    let (c, bad, d) := c.bottomRead k vk o.line
    c.onChanter k i fun x => x.setOp { o with st := .arrived bad d }
  | .copyRead dst =>
    let (c, bad, d) := c.bottomRead k vk o.line
    if bad then (c.onChanter k i fun x => (x.dropOp o).note o.kind 1).copiesOn k i
    else if c.populated (dst * 64) 64 && (match (c.chanter k i).job with | some j => c.mayUse j k dst true | none => false) then
      c.onChanter k i fun x => x.setOp (c.opSent k ⟨o.seq, dst, .copyWrite d, 0, .queued⟩)
    else (c.onChanter k i fun x => (x.dropOp o).note o.kind 2).copiesOn k i
  | .write d => wr c k i o d
  | .copyWrite d => wr c k i o d
where
  wr (c : Chip) (k i : Nat) (o : ChOp) (d : Line) : Chip :=
    let c := c.bottomWrite vk o.line d
    let c := { c with mem := { c.mem with backInv := if c.mem.backInv.contains o.line then c.mem.backInv else c.mem.backInv ++ [o.line] } }
    c.onChanter k i fun x => x.setOp { o with st := .written }

/-- A burst of at most n lines, all in one direction (R333). -/
def Chip.burstGo (c : Chip) (vk : Nat) (wr : Bool) : Nat → Chip
  | 0 => c
  | n + 1 =>
    match oldestOp (c.bottomOps vk) with
    | some e => if e.2.2.kind.writes = wr then Chip.burstGo (c.bottomDo vk e) vk wr n else c
    | none => c

/-- The top has requests waiting for the bus (R334). -/
def Chip.topWaits (c : Chip) (vk : Nat) : Bool :=
  !(c.queueOf vk).isEmpty || c.mem.held.any fun h => h.2.own && lineHome h.1 == vk

/-- The bottom port of a vault works: not isolated (R335), the vault out of self-refresh. -/
def Chip.bottomOpen (c : Chip) (vk : Nat) : Bool :=
  !c.bit (Reg.chcStat (vk / 104) (vk % 104)) 51 && !c.bit (Reg.vaultCtl (vk / 104) (vk % 104)) 48

/-- The lines that the bottom may still move in this 1 µs window: what THR leaves to both ends, and while the top waits what CSHARE leaves of its
sixteenths (R256, R334). -/
def Chip.bottomRoom (c : Chip) (vk : Nat) : Nat :=
  if c.topWaits vk then
    min (c.slotsLeft vk) (busSlots * c.rdF (Reg.chcCtl (vk / 104) (vk % 104)) 8 5 / 16 - (c.slotsUsed vk).2)
  else c.slotsLeft vk

/-- The bottom takes a burst (R333, R334): it holds the token and is not at a boundary where the top waits, or takes it while the
top has nothing waiting. -/
def Chip.bottomBurst (c : Chip) (vk n : Nat) : Chip :=
  let n := min n (c.bottomRoom vk)
  let held := Store.get noMark c.mem.bottomBus vk
  let atEnd := Store.get noMark c.mem.burstEnd vk
  let may := if held then !(atEnd && c.topWaits vk) else !c.topWaits vk
  match oldestOp (c.bottomOps vk) with
  | some e =>
    if may && c.bottomOpen vk && n != 0 then
      let c := { c with mem := { c.mem with bottomBus := Store.put noMark c.mem.bottomBus vk true, burstEnd := Store.put noMark c.mem.burstEnd vk true } }
      c.burstGo vk e.2.2.kind.writes (min n 64)
    else c
  | none => c

/-- The bottom abandons the burst that it has pending, at most n operations in one direction: they return retry (R43). -/
def Chip.abandonBurst (c : Chip) (vk : Nat) (wr : Bool) : Nat → Chip
  | 0 => c
  | n + 1 =>
    match oldestOp (c.bottomOps vk) with
    | some (k, i, o) => if o.kind.writes = wr then Chip.abandonBurst (c.onChanter k i fun x => x.setOp { o with st := .retry }) vk wr n else c
    | none => c

/-- The token's vias of a bus differ at a burst boundary: the top counts as the holder, and the bottom abandons its burst (R43). -/
def Chip.tokenSplit (c : Chip) (vk : Nat) : Chip :=
  let c := { c with mem := { c.mem with bottomBus := Store.put noMark c.mem.bottomBus vk false, burstEnd := Store.put noMark c.mem.burstEnd vk false } }
  match oldestOp (c.bottomOps vk) with
  | some e => c.abandonBurst vk e.2.2.kind.writes 64
  | none => c

/-- The token changes hands at a boundary where the other end waits (R333). -/
def Chip.tokenHandoff (c : Chip) (vk : Nat) : Chip :=
  let held := Store.get noMark c.mem.bottomBus vk
  let set (b : Bool) : Chip :=
    { c with mem := { c.mem with bottomBus := Store.put noMark c.mem.bottomBus vk b, burstEnd := Store.put noMark c.mem.burstEnd vk false } }
  if held then (if c.topWaits vk then set false else c)
  else if !(c.bottomOps vk).isEmpty && c.bottomOpen vk then set true else c

/-- A read's data reaches its chanter: an unusable line leaves the group at zero and is noted (R326). -/
def Chip.readArrive (c : Chip) (k i : Nat) : Chip :=
  let x := c.chanter k i
  let here (o : ChOp) : Bool := match o.st with | .arrived _ _ => true | .refused => true | _ => false
  match x.ops.find? here with
  | none => c
  | some o =>
    let qn := match o.kind with | .read q => q | _ => 0
    let put (x : Chanter) (d : Line) : Chanter :=
      { x with q := (List.range 4).foldl (fun m j => Store.put zeroQ m (qn + j) (BitVec.ofNat 128 (field d.toNat (128 * j) 128))) x.q }
    let x := x.dropOp o
    let x := match o.st with
      | .arrived false d => put x d
      | .arrived true _ => (put x 0).note o.kind 1
      | _ => (put x 0).note o.kind 2
    (c.setChanter k i x).copiesOn k i

/-- An operation whose retries are exhausted ends: an LDL leaves its Q group at zero (R326). -/
def Chip.opGiveUp (c : Chip) (k i : Nat) (o : ChOp) : Chip :=
  (c.onChanter k i fun x =>
    let x := (x.dropOp o).note o.kind 0
    match o.kind with
    | .read q => { x with q := (List.range 4).foldl (fun m j => Store.put zeroQ m (q + j) 0) x.q }
    | _ => x).copiesOn k i

/-- An operation that returned retry is reissued, up to three times; then it ends (R326). -/
def Chip.opRetry (c : Chip) (k i : Nat) : Chip :=
  let x := c.chanter k i
  match x.ops.find? fun o => o.st == .retry with
  | none => c
  | some o =>
    if o.tries < 3 then
      c.setChanter k i (x.setOp { c.opSent k o with tries := o.tries + 1 })
    else c.opGiveUp k i o

/-- The operations of a chanter in flight complete (R346), in their order: each is performed, or ends where no way to its line is left; then the data of
its reads arrives. -/
def Chip.opsComplete (c : Chip) (k i : Nat) : Nat → Chip
  | 0 => c
  | n + 1 =>
    match (c.chanter k i).ops.find? fun o => o.st == .queued || o.st == .retry with
    | some o =>
      if c.chWay k o.line then Chip.opsComplete (c.bottomDo (lineHome o.line) (k, i, o)) k i n
      else Chip.opsComplete (c.opGiveUp k i o) k i n
    | none =>
      if (c.chanter k i).ops.any fun o => (match o.st with | .arrived _ _ => true | .refused => true | _ => false) then Chip.opsComplete (c.readArrive k i) k i n
      else c

/-- Cancel the job with this id (R346). -/
def Chip.jobCancel (c : Chip) (k id : Nat) : Chip :=
  let v := c.cluster k
  match v.queue.find? fun r => recId r == id with
  | some r => (c.setCluster k { v with queue := v.queue.erase r }).jobReport k 0 r 5 0
  | none =>
    match (List.range 32).find? fun i => match (v.chanter i).job with | some j => j.id == id | none => false with
    | some i => ((c.onChanter k i fun x => { x with copies := [] }).opsComplete k i 128).jobEnd k i 5 0
    | none => c

/-! ### Instructions (R322 to R332) -/

/-- A trap of a chanter: the handler, or with a trap active the end of the job (R332). The step and the range id of its record are those of
a stage that the cluster runs (R222); any other chanter has none: 0. DEDUCED: log entry 126. -/
def Chip.chTrap (c : Chip) (k i : Nat) (cause tval : Word) : Chip :=
  let x := c.chanter k i
  let t := k / 104
  let p := k % 104
  let g := c.gal (t * 104 + c.clusterPos k)
  let c := c.report (.chanterTrap (t * 104 + c.clusterPos k) i x.tact cause x.hart.pc tval c.epoch (if g.shadow then g.gstep else 0)
    (if g.shadow then g.topRange.toNat else 0))
  let c := c.event t (208 + p) 4 0 (cause.toNat + b2n x.tact * 2 ^ 32 + i * 2 ^ 33)
  let c := c.event t (208 + p) 5 0 (x.hart.pc.toNat + c.epoch.toNat % 65536 * 2 ^ 32)
  let c := c.event t (208 + p) 6 0 tval.toNat
  if x.tact then c.jobEnd k i 4 cause.toNat
  else c.setChanter k i { x with hart := x.hart.trapEntry cause tval x.hart.pc, tact := true }

/-- Chanter i of cluster k executes: it runs a job and the module is not stopped. -/
def Chip.chRuns (c : Chip) (k i : Nat) : Bool :=
  !c.stopped && (match (c.chanter k i).job with | some j => j.started | none => false)

/-- Chanter i of cluster k has no job, and its fuses allow it one. -/
def Chip.chIdle (c : Chip) (k i : Nat) : Bool :=
  !c.stopped && (c.chanter k i).job.isNone && !bitOf (c.rdF (Reg.chcStat (k / 104) (k % 104)) 0 32) i

/-- A Q register. -/
def Chanter.qreg (x : Chanter) (n : Nat) : BitVec 128 := Store.get zeroQ x.q n

/-- Q registers that an LDL in flight will write. -/
def Chanter.qBusy (x : Chanter) (n : Nat) : Bool :=
  x.ops.any fun o => match o.kind with | .read q => decide (q ≤ n ∧ n < q + 4) | _ => false

/-- CHID (Table 12-4). -/
def Chip.chid (c : Chip) (k i : Nat) : Nat := i + c.clusterPos k * 32 + k / 104 * 4096

/-- CSRs of a chanter (Table 12-4); none for a number it does not implement. -/
def Chip.chCsrRead (c : Chip) (k i n : Nat) : Option Word :=
  let x := c.chanter k i
  let w (v : Nat) : Option Word := some (BitVec.ofNat 32 v)
  match n with
  | 0xF14 => w (c.chid k i)
  | 0xFE1 => w (c.chid k i)
  | 0x7E0 => w x.cseg.toNat
  | 0x7E1 => w x.csegd.toNat
  | 0x7E2 => w x.cpcnt.toNat
  | 0x7E3 => w x.qcvtcfg.toNat
  | 0x7E4 => some x.qctr
  | 0x7E5 => some x.qkey0
  | 0x7E6 => some x.qkey1
  | 0x7E7 => some x.pgkey0
  | 0x7E8 => some x.pgkey1
  | 0xFE0 => w x.qscale.toNat
  | _ => x.hart.csrRead n

/-- A write of a chanter's CSR; CPCNT keeps its value against one outside 1 to 4,096. DEDUCED: log entry 82. -/
def Chanter.csrWrite (x : Chanter) (n : Nat) (v : Word) : Chanter :=
  match n with
  | 0x7E0 => { x with cseg := v.setWidth 8 }
  | 0x7E1 => { x with csegd := v.setWidth 8 }
  | 0x7E2 => if v.toNat % 8192 = 0 ∨ 4096 < v.toNat % 8192 then x else { x with cpcnt := v.setWidth 13 }
  | 0x7E3 => { x with qcvtcfg := v.setWidth 11 }
  | 0x7E4 => { x with qctr := v }
  | 0x7E5 => { x with qkey0 := v }
  | 0x7E6 => { x with qkey1 := v }
  | 0x7E7 => { x with pgkey0 := v }
  | 0x7E8 => { x with pgkey1 := v }
  | _ => { x with hart := x.hart.csrWrite n v }

/-- Whether a local word of n bytes at a is uncorrectable. -/
def Chanter.eccBad (x : Chanter) (a n : Nat) : Bool := x.ecc.any fun e => e.2 && decide (a < e.1 + 4 ∧ e.1 < a + n)

/-- A half word as a chanter fetches it (Table 12-1). -/
def Chanter.fetchHalf (x : Chanter) (a : Nat) : Option Nat :=
  if a + 2 ≤ 0xE000 then if x.eccBad a 2 then none else some (Memory.num x.sram a 2)
  else if 0x10000 ≤ a ∧ a + 2 ≤ 0x11000 then some ((Config.chanterRom (a - 0x10000)).toNat + 256 * (Config.chanterRom (a - 0xFFFF)).toNat)
  else none

/-- A load of a chanter: the value and its slots, or the cause it traps with. -/
def Chip.chLoad (c : Chip) (k i bytes a : Nat) : Except Nat (Nat × Nat) :=
  let x := c.chanter k i
  if a % bytes ≠ 0 then .error 4
  else if a < 0xFF40 then if x.eccBad a bytes then .error 5 else .ok (Memory.num x.sram a bytes, 2)
  else if 0x10000 ≤ a ∧ a < 0x11000 then
    .ok (leVal ((List.range bytes).map fun j => Config.chanterRom (a - 0x10000 + j)), 1)
  else if 0x01000000 ≤ a ∧ a < 0x01200000 ∧ (a - 0x01000000) % 65536 < 0xE000 ∧ bytes = 4 then
    let p := c.chanter k ((a - 0x01000000) / 65536)
    let o := (a - 0x01000000) % 65536
    if p.eccBad o 4 then .error 5 else .ok (Memory.num p.sram o 4, 6)
  else .error 5

/-- A store of a chanter, with its slots, or the cause it traps with. -/
def Chip.chStore (c : Chip) (k i bytes a v : Nat) : Except Nat (Chip × Nat) :=
  let put (p o : Nat) : Chip := c.onChanter k p fun y =>
    { y with sram := Memory.setNum y.sram o bytes v, ecc := if bytes = 4 then Store.put noMark y.ecc o false else y.ecc }
  if a % bytes ≠ 0 then .error 6
  else if a < 0xFF00 then .ok (put i a, 1)
  else if 0x01000000 ≤ a ∧ a < 0x01200000 ∧ (a - 0x01000000) % 65536 < 0xE000 ∧ bytes = 4 then
    .ok (put ((a - 0x01000000) / 65536) ((a - 0x01000000) % 65536), 6)
  else .error 7

/-- Lanes of a Q register, and a Q register from lanes. -/
def qLanes (w : Nat) (v : BitVec 128) : List Nat := (List.range (128 / w)).map fun j => field v.toNat (w * j) w
def qOf (w : Nat) (l : List Nat) : BitVec 128 := BitVec.ofNat 128 (l.foldr (fun x acc => x % 2 ^ w + 2 ^ w * acc) 0)

/-- One integer lane of R329; none for a reserved operation. -/
def simdInt (w op a b : Nat) : Option Nat :=
  let sa := toSigned w a
  let sb := toSigned w b
  match op with
  | 0x00 => some ((a + b) % 2 ^ w)
  | 0x01 => some ((a + 2 ^ w - b) % 2 ^ w)
  | 0x02 => some (a * b % 2 ^ w)
  | 0x03 => some (if sa ≤ sb then a else b)
  | 0x04 => some (if sa ≤ sb then b else a)
  | 0x05 => some (min a b)
  | 0x06 => some (max a b)
  | 0x07 => some (a &&& b)
  | 0x08 => some (a ||| b)
  | 0x09 => some (a ^^^ b)
  | 0x0A => some (a * 2 ^ (b % w) % 2 ^ w)
  | 0x0B => some (a / 2 ^ (b % w))
  | 0x0C => some (wrapInt w (sa / (2 ^ (b % w) : Nat)))
  | 0x0D => some (if a = b then 2 ^ w - 1 else 0)
  | _ => none

/-- A SIMD operation on whole registers (R329); none for an illegal combination. -/
def simdOp (width op : Nat) (a b d : BitVec 128) : Option (BitVec 128) :=
  let w := 8 * 2 ^ width
  let fp (f : Word → Word → Word → Word) : Option (BitVec 128) :=
    some (qOf 32 ((List.range 4).map fun j =>
      let g (v : BitVec 128) : Word := BitVec.ofNat 32 (field v.toNat (32 * j) 32)
      (f (g a) (g b) (g d)).toNat))
  if width = 3 then
    match op with
    | 0x10 => fp fun x y _ => fAdd x y
    | 0x11 => fp fun x y _ => fMul x y
    | 0x12 => fp fun x y z => fFma x y z
    | 0x13 => fp fun x y _ => fMax x y
    | _ => none
  else if width < 3 then
    if op = 0x20 then
      if width = 0 then some (qOf 8 ((qLanes 8 b).map fun n => field a.toNat (8 * (n % 16)) 8)) else none
    else if (simdInt w op 0 0).isSome then
      some (qOf w (List.zipWith (fun x y => (simdInt w op x y).getD 0) (qLanes w a) (qLanes w b)))
    else none
  else none

/-- CRC-32C of bytes, continued from a value (R331). -/
def crc32c (seed : Nat) (bs : List Byte) : Nat :=
  bs.foldl (fun c b =>
    [0, 1, 2, 3, 4, 5, 6, 7].foldl (fun c _ => if c % 2 = 1 then (c / 2) ^^^ 0x82F63B78 else c / 2) (c ^^^ b.toNat)) seed

/-- Registers of a block of 32 elements of a format (R330). -/
def qcvtRegs (f : Nat) : Nat := (32 * (Fmt.ofCode f).bits + 127) / 128

/-- Whether QCVTCFG and the register groups are legal (R330). -/
def qcvtOk (sf df rd rs1 : Nat) (ovf : Bool) : Bool :=
  decide (sf ≤ 0xD) && sf != 9 && decide (df ≤ 0xD) && df != 9 && !(ovf && (Fmt.ofCode df).isInt)
  && rd % qcvtRegs df == 0 && rs1 % qcvtRegs sf == 0

/-- QCVT (R330). -/
def Chanter.qcvt (x : Chanter) (rd rs1 : Nat) (scale : Nat) (jobid epoch : Nat) : Chanter :=
  let cfg := x.qcvtcfg.toNat
  let sf := field cfg 0 4
  let df := field cfg 4 4
  let src := (List.range (qcvtRegs sf)).foldr (fun j acc => (x.qreg (rs1 + j)).toNat + 2 ^ 128 * acc) 0
  let sb := (Fmt.ofCode sf).bits
  let codes := (List.range 32).map fun n => field src (n * sb) sb
  let rnd (n : Nat) : Rounding :=
    if bitOf cfg 8 then .stochastic (srDraw x.qkey0.toNat x.qkey1.toNat x.qctr.toNat n jobid (5 * 2 ^ 24 + epoch)) else .nearestEven
  let r := stElems sf df rnd (bitOf cfg 9) (bitOf cfg 10) codes [scale]
  let db := (Fmt.ofCode df).bits
  let out := r.1.foldr (fun c acc => c % 2 ^ db + 2 ^ db * acc) 0
  let put (m : Store (BitVec 128)) (j : Nat) : Store (BitVec 128) :=
    let old := (Store.get zeroQ m (rd + j)).toNat
    let bits := min 128 (32 * db - 128 * j)
    Store.put zeroQ m (rd + j) (BitVec.ofNat 128 (setField old 0 bits (field out (128 * j) bits)))
  { x with q := (List.range (qcvtRegs df)).foldl put x.q, qctr := x.qctr + 1,
           qscale := BitVec.ofNat 8 (match r.2 with | s :: _ => s | [] => 0x7F) }

/-- The instruction at pc retires with its slots. -/
def Chanter.done (x : Chanter) (slots : Nat) : Chanter := { x with hart := x.hart.retire (x.hart.pc + 4) slots }

/-- A scalar result, then retirement. -/
def Chanter.doneX (x : Chanter) (rd : Nat) (v : Word) (slots : Nat) : Chanter :=
  { x with hart := (x.hart.set rd v).retire (x.hart.pc + 4) slots }

/-- A Q result, then retirement. -/
def Chanter.doneQ (x : Chanter) (rd : Nat) (v : BitVec 128) (slots : Nat) : Chanter :=
  ({ x with q := Store.put zeroQ x.q rd v }).done slots

/-- A line address: CSEG or CSEGD over a scalar register. -/
def lineAddr (seg : Byte) (r : Word) : Nat := seg.toNat * 2 ^ 32 + r.toNat

/-- A word of the chanter extension (R325, Table 12-2): none where it is illegal, the same module where it must wait. DEDUCED: log entry 81. DEDUCED: log entry 82. -/
def Chip.chCustom (c : Chip) (k i : Nat) (w : Word) : Option Chip :=
  let n := w.toNat
  let x := c.chanter k i
  let rd := field n 7 5
  let f3 := field n 12 3
  let r1 := field n 15 5
  let r2 := field n 20 5
  let f7 := field n 25 7
  let a := x.hart.get r1
  let b := x.hart.get r2
  let op := field n 0 7
  let put (x : Chanter) : Option Chip := some (c.setChanter k i x)
  let c' := c.copiesOn k i
  let full := decide (32 ≤ (c'.chanter k i).ops.length)
  if op = 0x0B ∧ f7 = 0 then
    match f3 with
    | 0 =>
      if r2 ≠ 0 ∨ rd % 4 ≠ 0 then none
      else if a.toNat % 64 ≠ 0 then some (c.chTrap k i 4 a)
      else if full ∨ (List.range 4).any (fun j => x.qBusy (rd + j)) then some c
      else some ((c'.opIssue k i (lineAddr x.cseg a / 64) (.read rd)).onChanter k i fun x => x.done 1)
    | 1 =>
      if rd ≠ 0 ∨ r2 % 4 ≠ 0 then none
      else if a.toNat % 64 ≠ 0 then some (c.chTrap k i 6 a)
      else if full ∨ (List.range 4).any (fun j => x.qBusy (r2 + j)) then some c
      else
        let d := (List.range 4).foldr (fun j acc => (x.qreg (r2 + j)).toNat + 2 ^ 128 * acc) 0
        some ((c'.opIssue k i (lineAddr x.cseg a / 64) (.write (BitVec.ofNat 512 d))).onChanter k i fun x => x.done 1)
    | 2 =>
      if rd ≠ 0 then none
      else if a.toNat % 64 ≠ 0 then some (c.chTrap k i 4 a)
      else if b.toNat % 64 ≠ 0 then some (c.chTrap k i 6 b)
      else
        let s := lineAddr x.cseg a / 64
        let d := lineAddr x.csegd b / 64
        let cnt := x.cpcnt.toNat
        let crosses (l : Nat) : Bool := lineTower l != lineTower (l + cnt - 1)
        let x := x.done 1
        if crosses s || crosses d then put (x.note (.copyRead 0) 2)
        else some ((c'.setChanter k i { x with copies := x.copies ++ (List.range cnt).map fun j => (s + j, d + j) }).copiesOn k i)
    | 3 =>
      if r1 ≠ 0 ∨ r2 ≠ 0 then none
      else if c'.chDrained k i then some (c'.onChanter k i fun x => { (x.doneX rd (x.stat.setWidth 32) 1) with stat := 0, ops := [] })
      else some c'
    | 4 => if rd ≠ 0 ∨ r2 ≠ 0 then none else if c'.chDrained k i then some ((c'.onChanter k i fun x => x.done 1).jobEnd k i 0 a.toNat) else some c'
    | _ => none
  else if op = 0x2B then
    match simdOp f3 f7 (x.qreg r1) (x.qreg r2) (x.qreg rd) with
    | none => none
    | some v => if x.qBusy r1 || x.qBusy r2 || x.qBusy rd then some c else put (x.doneQ rd v (if f3 = 3 then 2 else 1))
  else if op = 0x5B then
    match f3 with
    | 0 =>
      if r2 ≠ 0 ∨ 3 < f7 then none
      else if x.qBusy rd then some c
      else put (x.doneQ rd (BitVec.ofNat 128 (setField (x.qreg rd).toNat (32 * f7) 32 a.toNat)) 1)
    | 1 =>
      if r2 ≠ 0 ∨ 3 < f7 then none
      else if x.qBusy r1 then some c
      else put (x.doneX rd (BitVec.ofNat 32 (field (x.qreg r1).toNat (32 * f7) 32)) 1)
    | 2 =>
      let cfg := x.qcvtcfg.toNat
      if f7 ≠ 0 ∨ !qcvtOk (field cfg 0 4) (field cfg 4 4) rd r1 (bitOf cfg 9) then none
      else if (List.range 8).any (fun j => (decide (j < qcvtRegs (field cfg 0 4)) && x.qBusy (r1 + j)) || (decide (j < qcvtRegs (field cfg 4 4)) && x.qBusy (rd + j))) then some c
      else
        let je := match x.job with | some j => (j.id, j.epoch) | none => (0, 0)
        put ((x.qcvt rd r1 (b.toNat % 256) je.1 je.2).done 4)
    | 3 =>
      if f7 ≠ 0 then none
      else if x.qBusy r2 then some c
      else put (x.doneX rd (BitVec.ofNat 32 (crc32c a.toNat (leBytes 16 (x.qreg r2).toNat))) 2)
    | 4 =>
      if f7 ≠ 0 then none
      else if x.qBusy rd then some c
      else put (x.doneQ rd (qOf 32 (philox x.pgkey0.toNat x.pgkey1.toNat a.toNat b.toNat 0 0)) 2)
    | _ => none
  else none

/-- A word of the extension at pc; an illegal one, and any outside a job, raises the illegal-instruction exception with the word in mtval (R325). -/
def Chip.chWord (c : Chip) (k i : Nat) (w : Word) : Chip :=
  match (if c.chRuns k i then c.chCustom k i w else none) with
  | some c' => c'
  | none => c.chTrap k i 2 w

/-- The 32-bit word of Table 3-3's format. -/
def rWord (op rd f3 rs1 rs2 f7 : Nat) : Word :=
  BitVec.ofNat 32 (op + rd * 2 ^ 7 + f3 * 2 ^ 12 + rs1 * 2 ^ 15 + rs2 * 2 ^ 20 + f7 * 2 ^ 25)

/-- The instruction in memory at pc of a chanter (R322, R323). -/
def Chip.chInstr (c : Chip) (k i : Nat) : Chip :=
  let x := c.chanter k i
  let h := x.hart
  match fetchRv x.fetchHalf h.pc.toNat with
  | .error (cause, tval) => c.chTrap k i (BitVec.ofNat 32 cause) (BitVec.ofNat 32 tval)
  | .ok (len, ins) =>
    let half (a : Nat) : Nat := (x.fetchHalf a).getD 0
    let illegal := c.chTrap k i 2 (BitVec.ofNat 32 (half h.pc.toNat + (if len = 4 then half (h.pc.toNat + 2) * 65536 else 0)))
    let next := h.pc + BitVec.ofNat 32 len
    match rvExec h ins len with
    | .done h' => c.setChanter k i { x with hart := h' }
    | .load b sg rd a =>
      match c.chLoad k i b a.toNat with
      | .error cause => c.chTrap k i (BitVec.ofNat 32 cause) a
      | .ok (v, slots) => c.setChanter k i { x with hart := (h.set rd (loadExtend b sg v)).retire next slots }
    | .store b a v =>
      match c.chStore k i b a.toNat (v.toNat % 2 ^ (8 * b)) with
      | .error cause => c.chTrap k i (BitVec.ofNat 32 cause) a
      | .ok (c', slots) => c'.onChanter k i fun y => { y with hart := h.retire next slots }
    | .csr op rd n v wr =>
      match c.chCsrRead k i n with
      | none => illegal
      | some old =>
        if wr && decide (0xC00 ≤ n) then illegal
        else
          let x := { x with hart := (h.set rd old).retire next 1 }
          c.setChanter k i (if wr then x.csrWrite n (csrNew op old v) else x)
    | .trap cause tval => c.chTrap k i cause tval
    | .mret => c.setChanter k i { x with hart := h.mretTo, tact := false }
    | .custom w => c.chWord k i w

end Sys2Proof.Machine
end

