-- ==== Sys2Proof/Machine/Image.lean ====
section
/-! DEFINITION. Images and what the usher checks of them (R178, R209, R290 to R299, R525 to R527), and the readers of the model
record, the head map, the attention record, floor plans and stages. -/

namespace Sys2Proof.Machine

/-! ### Reading an image -/

/-- The `n`-byte number at an offset of an image. -/
def imN (im : List Byte) (off n : Nat) : Nat := leVal ((im.drop off).take n)

/-- Bytes of an image. -/
def imB (im : List Byte) (off n : Nat) : List Byte := (im.drop off).take n

/-- Whether `n` bytes at an offset are zero. -/
def imZero (im : List Byte) (off n : Nat) : Bool := imN im off n == 0

/-- A section entry (Table 11-2). -/
structure Sect where
  type : Nat
  sid : Nat
  off : Nat
  len : Nat
  palign : Nat
  deriving DecidableEq, Repr

/-- The section table of an image (R290). -/
def imSects (im : List Byte) : List Sect :=
  (List.range (min (imN im 8 4) 4096)).map fun i =>
    let o := imN im 24 8 + 32 * i
    { type := imN im o 2, sid := imN im (o + 4) 4, off := imN im (o + 8) 8, len := imN im (o + 16) 8, palign := imN im (o + 24) 1 }

/-- Firmware section types and model section types (Table 11-3). -/
def fwType (t : Nat) : Bool := t == 1 || t == 2 || t == 3
def modelType (t : Nat) : Bool := (0x10 ≤ t && t ≤ 0x14) || (0x20 ≤ t && t ≤ 0x23)

/-- Whether two byte ranges overlap. -/
def overlap (a n b m : Nat) : Bool := decide (0 < n ∧ 0 < m ∧ a < b + m ∧ b < a + n)

/-- Whether some pair of a list stands in a relation. -/
def anyPair {α : Type} (r : α → α → Bool) : List α → Bool
  | [] => false
  | x :: xs => xs.any (r x) || anyPair r xs

/-- The number of the first condition of R291 that an image of a kind breaks on a part (bit of PARTS). -/
def imageBad (im : List Byte) (kind part : Nat) : Option Nat :=
  let n := imN im 8 4
  let len := imN im 16 8
  let tab := imN im 24 8
  let ss := imSects im
  let resBad := ss.any (fun s => !(fwType s.type || modelType s.type))
    || (List.range (min n 4096)).any fun i => !(imZero im (tab + 32 * i + 2) 2 && imZero im (tab + 32 * i + 25) 7)
  if imN im 0 4 ≠ 0x474D4849 ∨ imN im 4 2 ≠ 1 ∨ imN im 6 1 ≠ kind ∨ !imZero im 7 1 ∨ n = 0 ∨ 4096 < n ∨ 2 ^ 5 ≤ imN im 12 4
      ∨ !imZero im 40 24 ∨ resBad then some 1
  else if ss.any fun s => if kind = 1 then !fwType s.type else !modelType s.type then some 2
  else if anyPair (fun a b => a.type == b.type && a.sid == b.sid) ss then some 3
  else if len < tab + 32 * n ∨ ss.any fun s => decide (len < s.off + s.len) then some 4
  else if anyPair (fun a b => overlap a.off a.len b.off b.len) ss
      ∨ (ss.any fun s => overlap s.off s.len 0 64 || overlap s.off s.len tab (32 * n) || s.off % 64 != 0) ∨ tab % 64 ≠ 0
      ∨ tab < 64 then some 5
  else if !bitOf (imN im 12 4) part then some 6
  else none

/-- The PARTS bit of a part (Table 11-1). -/
def Part.bitNo : Part → Nat
  | .ihl4t768 => 0
  | .ihl4t768i => 1
  | .ihl4t384 => 2
  | .ihl3t576 => 3
  | .ihl4t768l => 4

/-- Where the signature block of an image stands (R525). -/
def sigAt (im : List Byte) : Nat := (imN im 16 8 + 63) / 64 * 64

/-- The number of the first check of R526, from 1 to 5, that an image fails. `keys` gives the hash of each key index; a zero model-key
hash is an unused key. -/
def sigBad (im : List Byte) (firmware : Bool) (keys : Nat → List Byte) (keyrev svnmin : Nat) : Option Nat :=
  let o := sigAt im
  let idx := imN im (o + 6) 1
  let pub := imB im (o + 64) 96
  if imN im o 4 ≠ 0x4E474953 ∨ imN im (o + 4) 2 ≠ 1 ∨ !imZero im (o + 7) 1 ∨ !imZero im (o + 12) 52 ∨ (if firmware then 4 else 8) ≤ idx then
    some 1
  else if sha384 pub ≠ keys idx ∨ (4 ≤ idx ∧ leVal (keys idx) = 0) then some 2
  else if idx < 4 ∧ bitOf keyrev idx then some 3
  else if imN im (o + 8) 4 < svnmin then some 4
  else if !ecdsaOk pub (sha384 (im.take (imN im 16 8) ++ imB im o 64)) (imB im (o + 160) 96) then some 5
  else none

/-- A section of a type and SID. -/
def imSect (im : List Byte) (type sid : Nat) : Option Sect := (imSects im).find? fun s => s.type == type && s.sid == sid

/-- The sections of a type. -/
def imOf (im : List Byte) (type : Nat) : List Sect := (imSects im).filter fun s => s.type == type

/-- The contents of the one section of a type; empty where there is none. -/
def imOne (im : List Byte) (type : Nat) : List Byte :=
  match imOf im type with
  | s :: _ => imB im s.off s.len
  | [] => []

/-! ### The model (R292 to R294) -/

/-- The model record, head map of a tower count, and attention record of an image. -/
def modelRec (im : List Byte) : List Byte := imOne im 0x10
def headMap (im : List Byte) (towers : Nat) : List Byte := imB (imOne im 0x13) (if towers = 3 then 64 else 0) 64
def attnRec (im : List Byte) : List Byte := imOne im 0x14

def mdlId (im : List Byte) : Nat := imN (modelRec im) 4 4
def mdlLayers (im : List Byte) : Nat := imN (modelRec im) 8 1
def mdlHeads (im : List Byte) : Nat := imN (modelRec im) 9 1
def mdlVocab (im : List Byte) : Nat := imN (modelRec im) 16 4
def mdlSkip (im : List Byte) : Nat := imN (modelRec im) 24 8
def mdlChunk (im : List Byte) : Nat := imN (modelRec im) 48 4

/-- KV heads that a tower owns under the map (R269, R293). -/
def headsOf (im : List Byte) (towers t : Nat) : Nat :=
  ((List.range (mdlHeads im)).filter fun k => imN (headMap im towers) k 1 % 4 == t).length

/-- R292. -/
def modelRecOk (im : List Byte) : Bool :=
  let r := modelRec im
  r.length == 128 && imN r 0 4 == 0x4C444F4D && decide (1 ≤ mdlLayers im) && decide (1 ≤ mdlHeads im ∧ mdlHeads im ≤ 60)
    && decide (1 ≤ imN r 10 1 ∧ imN r 10 1 ≤ 32) && imZero r 11 1 && decide (1 ≤ mdlVocab im ∧ mdlVocab im ≤ 2 ^ 24) && imZero r 20 4
    && decide (1 ≤ mdlChunk im ∧ mdlChunk im ≤ 4096) && imZero r 56 72

/-- A head map is not provided: all 0xFF (R293). -/
def headMapNone (im : List Byte) (towers : Nat) : Bool := (headMap im towers).all fun b => b == 0xFF

/-- A head map in order (R293). -/
def headMapOk (im : List Byte) (towers : Nat) : Bool :=
  let m := headMap im towers
  m.length == 64
    && (List.range 64).all fun k =>
      let b := imN m k 1
      if mdlHeads im ≤ k then b == 0xFF
      else decide (b < 64 ∧ b % 4 < towers ∧ b / 4 < headsOf im towers (b % 4) ∧ headsOf im towers (b % 4) ≤ 15)
        && (List.range k).all fun j => imN m j 1 != b

/-- An FP32 word is finite and positive. -/
def finitePos (w : Nat) : Bool := decide (0 < w ∧ w < 0x7F800000)

/-- The matrix key format that a hot format gives: E4M3 or E5M2 elements, or BF16; an MXFP4 hot format names its element by MKFE (R284). -/
def mkfOf (fmt mkfe : Nat) : Nat := if fmt = 8 then mkfe else fmt

/-- Every hot format that a record allows reaches the model's one matrix key format (R284). DEDUCED: log entry 112. -/
def mkfOk (r : List Byte) : Bool :=
  let hot := [0, 1, 8, 0xB].zipIdx.filterMap fun e => if bitOf (imN r 0 1) e.2 then some (mkfOf e.1 (imN r 1 1)) else none
  hot.all fun m => hot.head? == some m

/-- R294. -/
def attnRecOk (im : List Byte) : Bool :=
  let r := attnRec im
  r.length == 16 + 16 * mdlLayers im && decide (1 ≤ imN r 0 1 ∧ imN r 0 1 < 16) && decide (imN r 1 1 ≤ 1) && mkfOk r
    && imN r 2 1 == mdlLayers im && imZero r 3 13
    && (List.range (mdlLayers im)).all fun l =>
      let o := 16 + 16 * l
      imZero r (o + 1) 3 && imZero r (o + 12) 4 && finitePos (imN r (o + 8) 4)
        && (match imN r o 1 with
            | 0 => imZero r (o + 4) 4
            | 1 => decide (1 ≤ imN r (o + 4) 4 ∧ imN r (o + 4) 4 ≤ 524288)
            | _ => false)

/-- Whether the attention record allows a hot format (a code of Table 10-1; R274, R294). -/
def hotAllowed (im : List Byte) (fmt : Nat) : Bool :=
  let m := imN (attnRec im) 0 1
  (fmt == 0 && bitOf m 0) || (fmt == 1 && bitOf m 1) || (fmt == 8 && bitOf m 2) || (fmt == 0xB && bitOf m 3)

/-! ### Weight sparsity records (R177, R178) -/

/-- The weight section that a record's runs lie in: the one whose SID is the tensor id, else the first (log entry 17). -/
def tensorSect (im : List Byte) (id : Nat) : List Byte :=
  match imSect im 0x11 id with
  | some s => imB im s.off s.len
  | none => imOne im 0x11


/-- One record against the runs it names (R178). -/
def sparsityOk (im r : List Byte) : Bool :=
  let w := tensorSect im (imN r 0 4)
  let x := imN r 4 4
  let wf := field x 0 4
  let sp := bitOf x 4
  let kt := field x 8 12
  let nt := field x 20 12
  let nk := (kt + 63) / 64
  let run (j : Nat) := imN w (imN r 8 8 + 8 * j) 8
  let runs := List.range (nt * nk)
  let tiles (j : Nat) := min 64 (kt - 64 * (j % nk))
  field x 5 3 == 0 && imZero r 24 8 && decide (1 ≤ kt ∧ 1 ≤ nt) && mxClass wf != 0 && !(sp && mxClass wf == 16)
    && (runs.all fun j =>
      let bm := imN w (run j) 8
      let size := 128 + popcount 64 bm * tileBytes wf sp
      decide (run j + size ≤ w.length) && decide (bm < 2 ^ tiles j)
        && (j + 1 == nt * nk || run (j + 1) == run j + size))
    && (runs.foldl (fun a j => a + popcount 64 (imN w (run j) 8)) 0) == imN r 16 4

/-- Every weight sparsity record of an image. -/
def sparsitiesOk (im : List Byte) : Bool :=
  let s := imOne im 0x12
  s.length % 32 == 0 && (List.range (s.length / 32)).all fun i => sparsityOk im (imB s (32 * i) 32)

/-! ### Arcade schedules (R208, R209) -/

/-- A flow record (Table 8-4). -/
def flowRec (b : List Byte) : FlowRec :=
  let a := imN b 0 4
  let x := imN b 4 4
  { flow := field a 0 12, mcast := bitOf a 12, src := field a 16 7, res := field a 24 4, dst := field x 0 7, nmove := field x 7 5,
    rect := field x 0 14, path := imN b 8 6, mask := imN b 8 12 }

/-- The flow records of a schedule section. -/
def flowRecs (s : List Byte) : List FlowRec := (List.range (imN s 6 2)).map fun i => flowRec (imB s (16 + 32 * i) 32)

/-- The routers that a unicast path enters after its source, with the move that enters each; none leaves the grid. -/
def pathWalk (path : Nat) : Nat → Nat → Nat × Nat → Option (List ((Nat × Nat) × Nat))
  | 0, _, _ => some []
  | n + 1, i, p =>
    match gridMove p (field path (2 * i) 2) with
    | none => none
    | some q =>
      match pathWalk path n (i + 1) q with
      | none => none
      | some w => some ((q, field path (2 * i) 2) :: w)

/-- The routers of the multicast tree of R217 with the move that enters each; 4 is the source's own port. -/
def treeWalk (src mask : Nat) : List ((Nat × Nat) × Nat) :=
  let c0 := src / 12
  let r0 := src % 12
  let has (c : Nat) := (List.range 12).any fun l => bitOf mask (12 * c + l)
  let east := (List.range 8).any fun c => decide (c0 < c) && has c
  let cols := List.range 8
  let rowE := if east then cols.filter fun c => decide (c0 < c) && (cols.any fun d => decide (c ≤ d) && has d) else []
  let rowW := cols.filter fun c => decide (c < c0) && (cols.any fun d => decide (d ≤ c) && has d)
  let col (c : Nat) : List ((Nat × Nat) × Nat) :=
    ((List.range 12).filter fun l => decide (r0 < l) && ((List.range 12).any fun m => decide (l ≤ m) && bitOf mask (12 * c + m))).map
        (fun l => ((c, l), 2))
      ++ ((List.range 12).filter fun l => decide (l < r0) && ((List.range 12).any fun m => decide (m ≤ l) && bitOf mask (12 * c + m))).map
        fun l => ((c, l), 3)
  [((c0, r0), 4)] ++ rowE.map (fun c => ((c, r0), 0)) ++ rowW.map (fun c => ((c, r0), 1))
    ++ (cols.filter has).foldl (fun a c => a ++ col c) []

/-- The routers that a flow crosses with the port it enters each by. -/
def flowPorts (f : FlowRec) : List ((Nat × Nat) × Nat) :=
  if f.mcast then treeWalk f.src f.mask
  else ((f.src / 12, f.src % 12), 4) :: (pathWalk f.path f.nmove 0 (f.src / 12, f.src % 12)).getD []

/-- One flow record by itself (R209). -/
def flowOk (b : List Byte) : Bool :=
  let f := flowRec b
  let a := imN b 0 4
  let x := imN b 4 4
  let c0 := field f.rect 0 3
  let c1 := field f.rect 3 3
  let q0 := field f.rect 6 4
  let q1 := field f.rect 10 4
  decide (f.flow ≤ 4094 ∧ f.src < 96 ∧ 1 ≤ f.res ∧ f.res ≤ 8) && field a 13 3 == 0 && field a 23 1 == 0 && field a 28 4 == 0
    && (if f.mcast then
        decide (x < 2 ^ 14 ∧ c0 ≤ c1 ∧ q0 ≤ q1 ∧ q1 ≤ 11) && imZero b 20 12 && !bitOf f.mask f.src
          && (List.range 96).all fun g => !bitOf f.mask g || decide (c0 ≤ g / 12 ∧ g / 12 ≤ c1 ∧ q0 ≤ g % 12 ∧ g % 12 ≤ q1)
      else
        decide (x < 2 ^ 12 ∧ 1 ≤ f.nmove ∧ f.nmove ≤ 24 ∧ f.dst < 96) && imZero b 14 18
          && (match pathWalk f.path f.nmove 0 (f.src / 12, f.src % 12) with
              | none => false
              | some w => (match w.getLast? with | some p => p.1 == (f.dst / 12, f.dst % 12) | none => false)))

/-- R209. -/
def scheduleOk (s : List Byte) : Bool :=
  let fs := flowRecs s
  let ports := fs.map fun f => (f.res, flowPorts f)
  let routers := (List.range 96).map fun g => (g / 12, g % 12)
  imN s 0 4 == 0x48435341 && imN s 4 2 == 1 && decide (imN s 6 2 ≤ 4095) && imZero s 8 8 && s.length == 16 + 32 * imN s 6 2
    && ((List.range (imN s 6 2)).all fun i => flowOk (imB s (16 + 32 * i) 32))
    && !anyPair (fun (a b : FlowRec) => a.flow == b.flow) fs
    && routers.all fun r =>
      decide ((ports.filter fun p => p.2.any fun q => q.1 == r).length ≤ 64)
        && (List.range 5).all fun d => decide ((ports.foldl (fun a p => if p.2.contains (r, d) then a + p.1 else a) 0) ≤ 16)

/-! ### Floor plans and stages (R295 to R299) -/

/-- The sections of a model image's floor plans, and the plan of an id. -/
def imPlans (im : List Byte) : List (List Byte) := (imOf im 0x20).map fun s => imB im s.off s.len
def imPlan (im : List Byte) (id : Nat) : Option (List Byte) := (imPlans im).find? fun p => imN p 4 2 == id

def plPhase (p : List Byte) : Nat := imN p 6 1
def plTrain (p : List Byte) : Bool := bitOf (imN p 7 1) 0
def plTowers (p : List Byte) : Nat := imN p 8 1
def plPipe (p : List Byte) : Nat := imN p 9 1
def plMaxRows (p : List Byte) : Nat := imN p 10 2
def plUses (p : List Byte) (t : Nat) : Bool := bitOf (plTowers p) t
def plSched (p : List Byte) (t : Nat) : Nat := imN p (12 + 4 * t) 4
def plStair (p : List Byte) (t : Nat) : Nat := imN p (28 + 4 * t) 4
def plRegion (p : List Byte) (r : Nat) : List Byte := imB p (128 + 16 * (r - 1)) 16
def plStage (p : List Byte) (t g : Nat) : Nat := imN p (384 + 4 * (96 * t + g)) 4

/-- The number of towers that a plan names (R299). -/
def plCount (p : List Byte) : Nat := popcount 4 (plTowers p)

/-- Whether the plan is usable on a part: it names no absent tower (R299). -/
def planUsable (part : Part) (p : List Byte) : Bool := (List.range 4).all fun t => !plUses p t || decide (t < part.towers)

/-- The contents of a stage section. -/
def stageOf (im : List Byte) (sid : Nat) : Option (List Byte) := (imSect im 0x21 sid).map fun s => imB im s.off s.len

/-- The logical galleries that a plan gives a stage: (tower, logical gallery, SID). -/
def planPlaces (p : List Byte) : List (Nat × Nat × Nat) :=
  ((List.range 384).filter fun k => plUses p (k / 96) && plStage p (k / 96) (k % 96) != 0xFFFFFFFF).map fun k =>
    (k / 96, k % 96, plStage p (k / 96) (k % 96))

/-- Round up to a multiple of 64. -/
def up64 (n : Nat) : Nat := (n + 63) / 64 * 64

/-- Offsets of the parts of a stage section (Table 11-9). -/
def stCode (s : List Byte) : Nat := up64 (128 + 4 * imN s 20 4)
def stData (s : List Byte) : Nat := up64 (stCode s + imN s 4 4)
def stRes (s : List Byte) : Nat := up64 (stData s + imN s 8 4)
def stParam (s : List Byte) : Nat := up64 (stRes s + 32 * imN s 12 4)
def stReloc (s : List Byte) : Nat := up64 (stParam s + 8 * imN s 16 4)
def stEnergy (s : List Byte) (k : Nat) : Nat := imN s (128 + 4 * k) 4

/-- KIND of region r of a plan; 0 for region 0. -/
def regionKind (p : List Byte) (r : Nat) : Nat := if 1 ≤ r ∧ r ≤ 15 then imN (plRegion p r) 0 1 else 0

/-- A region entry (Table 11-8). -/
def regionOk (im p : List Byte) (r : Nat) : Bool :=
  let e := plRegion p r
  let k := imN e 0 1
  let size := imN e 8 8
  decide (k ≤ 8) && (decide (imN e 1 1 < 4) || imN e 1 1 == 0xFF || k == 0) && imZero e 2 2
    && (if k = 1 then (imSect im 0x11 (imN e 4 4)).isSome && size == 0
        else imZero e 4 4 && (if k = 4 ∨ k = 5 then size % 65536 == 0 && (k != 5 || plTrain p) else size == 0))

/-- A resident entry against the plan's regions (R302): an ST.LOAD with SHX 0 from a bound region. -/
def residentOk (p : List Byte) (d : List Byte) : Bool :=
  imN d 0 1 == 0x80 && !bitOf (imN d 8 8) 53 && regionKind p (field (imN d 8 8) 36 4) != 0

/-- A stage section as a plan places it. -/
def stageOk (p s : List Byte) : Bool :=
  imN s 0 4 == 0x47545453 && imN s 4 4 % 4 == 0 && decide (imN s 4 4 ≤ 65536 ∧ imN s 8 4 ≤ 28672 ∧ imN s 12 4 ≤ 1024 ∧ imN s 16 4 ≤ 224)
    && decide (1 ≤ imN s 20 4 ∧ imN s 20 4 ≤ 16 ∧ imN s 24 4 < 2 ^ 24 ∧ imN s 28 1 ≤ 1) && imZero s 29 3 && imZero s 96 32
    && decide (stReloc s + (imN s 16 4 + 1) / 2 ≤ s.length)
    && ((List.range (imN s 12 4)).all fun i => residentOk p (imB s (stRes s + 32 * i) 32))
    && (List.range (imN s 16 4)).all fun i =>
      let code := field (imN s (stReloc s + i / 2) 1) (4 * (i % 2)) 4
      code == 0 || regionKind p code != 0

/-- Bytes of a region, for R298's bound: a weight section; at most a tower's memory for its frame pool, whose extent the module knows
(Chip.heapWindowsOk); four row tables or result areas (log entry 21); a shadow scratchpad for each column; SIZE; the ticket descriptors. DEDUCED: log entry 114. -/
def regionSize (im p : List Byte) (r : Nat) : Nat :=
  let e := plRegion p r
  match imN e 0 1 with
  | 1 => match imSect im 0x11 (imN e 4 4) with | some s => s.len | none => 0
  | 2 => 2 ^ 38
  | 3 => 4 * 0x40000
  | 6 => 4 * 0x10000
  | 7 => 8 * 0x420000
  | 8 => 2 ^ 20 * 128
  | _ => imN e 8 8

/-- A window entry of a stair plan (Table 11-10). -/
def windowOk (im p w : List Byte) : Bool :=
  let b := imN w 0 1
  let r := field b 4 4
  let size := imN w 4 4
  let off := imN w 8 8
  field b 2 2 == 0 && imZero w 1 3 && decide (off < 2 ^ 40) && off % 65536 == 0
    && (if r = 0 then size == 0
        else regionKind p r != 0 && !(bitOf b 1 && regionKind p r == 8) && decide (off + size * 65536 ≤ regionSize im p r))

/-- A stair plan section under a plan. -/
def stairPlanOk (im p s : List Byte) : Bool :=
  s.length == 12288 && (List.range 768).all fun i => windowOk im p (imB s (16 * i) 16)

/-- Entry 8g + i of a stair plan section for logical gallery g. -/
def stairWindow (s : List Byte) (g i : Nat) : List Byte := imB s (16 * (8 * g + i)) 16

/-- Whether a window of a logical gallery grants the read of n bytes at an offset of a region. -/
def windowGrants (s : List Byte) (g reg a n : Nat) : Bool :=
  (List.range 8).any fun i =>
    let w := stairWindow s g i
    bitOf (imN w 0 1) 0 && field (imN w 0 1) 4 4 == reg && decide (imN w 8 8 ≤ a ∧ a + n ≤ imN w 8 8 + imN w 4 4 * 65536)

/-- The windows of a logical gallery grant every memory row that a resident entry reads (R250, R302). -/
def residentGranted (s : List Byte) (g : Nat) (d : List Byte) : Bool :=
  let x := imN d 8 8
  let n := (imN d 22 2 * (Fmt.ofCode (field x 40 4)).bits + 7) / 8
  (List.range (imN d 20 2)).all fun i => windowGrants s g (field x 36 4) (field x 0 36 + i * imN d 24 4) n

/-- Every resident entry of every stage that a plan places is granted its reads. -/
def residentsGranted (im p : List Byte) : Bool :=
  (planPlaces p).all fun x =>
    match stageOf im x.2.2, imSect im 0x23 (plStair p x.1) with
    | some s, some q =>
      (List.range (imN s 12 4)).all fun i => residentGranted (imB im q.off q.len) x.2.1 (imB s (stRes s + 32 * i) 32)
    | _, _ => false

/-- No gallery outside KV head k's tower runs that head's attention stage (R299). Which stage that is, no field of the image says. DESIGN CHOICE: log entry 18. -/
def headStageOk (im p : List Byte) (n k : Nat) : Bool :=
  let t := imN (headMap im n) k 1 % 4
  (planPlaces p).all fun x => x.1 == t || x.2.2 != Config.attnStage (mdlId im) k

/-- R299's checks of one floor plan. -/
def planOk (part : Part) (im p : List Byte) : Bool :=
  let stages := (planPlaces p).map fun x => stageOf im x.2.2
  let n := plCount p
  p.length == 1920 && imN p 0 4 == 0x4E414C50 && decide (plPhase p ≤ 2 ∧ imN p 7 1 ≤ 1 ∧ 1 ≤ plTowers p ∧ plTowers p < 16)
    && decide (1 ≤ plPipe p ∧ plPipe p ≤ 4 ∧ 1 ≤ plMaxRows p ∧ plMaxRows p ≤ 4096) && imZero p 44 84 && imZero p 368 16
    && ((List.range 15).all fun i => regionOk im p (i + 1))
    && ((List.range 4).all fun t => !plUses p t
        || ((plSched p t == 0xFFFFFFFF || (match imSect im 0x22 (plSched p t) with | some s => scheduleOk (imB im s.off s.len) | none => false))
          && (match imSect im 0x23 (plStair p t) with | some s => stairPlanOk im p (imB im s.off s.len) | none => false)))
    && (stages.all fun s => match s with | some s => stageOk p s | none => false) && residentsGranted im p
    && !anyPair (fun a b => match a, b with | some x, some y => imN x 20 4 != imN y 20 4 | _, _ => false) stages
    && (!plTrain p || part.hasTrain)
    && (plPhase p != 1 || (decide (3 ≤ n) && headMapOk im n
        && (List.range (mdlHeads im)).all fun k => plUses p (imN (headMap im n) k 1 % 4) && headStageOk im p n k))

/-- The checks of a model image beyond R291 (R178, R292 to R299); whether it fits is asked where it is placed. -/
def modelOk (part : Part) (im : List Byte) : Bool :=
  let plans := imPlans im
  let one (t : Nat) := (imOf im t).length == 1
  let r := modelRec im
  let dplan := imN r 52 2
  let pplan := imN r 54 2
  one 0x10 && one 0x12 && one 0x13 && one 0x14 && decide (1 ≤ (imOf im 0x11).length) && decide (1 ≤ plans.length ∧ plans.length ≤ 16)
    && modelRecOk im && headMapOk im part.towers
    && ([3, 4].all fun n => headMapNone im n || headMapOk im n) && attnRecOk im && sparsitiesOk im
    && ((imOf im 0x11).all fun s => decide (6 ≤ s.palign ∧ s.palign ≤ 21))
    && !anyPair (fun a b => imN a 4 2 == imN b 4 2) plans && plans.all (planOk part im)
    && (match imPlan im dplan with | some p => plPhase p == 1 | none => false)
    && (pplan == 0xFFFF || (match imPlan im pplan with | some p => plPhase p == 0 | none => false))
    && plans.any fun p => plPhase p == 1 && planUsable part p

/-- An adapter image (R420): a model record and weight sections alone. -/
def adapterOk (im : List Byte) : Bool :=
  (imOf im 0x10).length == 1 && decide (1 ≤ (imOf im 0x11).length) && (imSects im).all (fun s => s.type == 0x10 || s.type == 0x11)
    && modelRecOk im && (imOf im 0x11).all fun s => decide (6 ≤ s.palign ∧ s.palign ≤ 21)

end Sys2Proof.Machine
end

