-- ==== Sys2Proof/Machine/Cloakroom.lean ====
section
/-! DEFINITION. The usher's structures in module memory: frames and slots (R267, R600), ticket descriptors (R360 to R363), token
logs (R367 to R369), page tables (R269 to R271) and stop sets (R371). -/

namespace Sys2Proof.Machine

/-- Change the usher's own state. -/
def Chip.onUsh (c : Chip) (f : UsherState → UsherState) : Chip := { c with ush := f c.ush }

/-! ### Frames (R267, R600) -/

def noUse : Nat → FrameUse := fun _ => .free

/-- A free choice below n. DESIGN CHOICE: log entry 19. -/
def Chip.pick (c : Chip) (n : Nat) : Nat × Chip := (Config.usherPick c.free % n, { c with free := c.free + 1 })

/-- Present towers that the usher has not fenced (R512). -/
def Chip.workTowers (c : Chip) : List Nat := (List.range 4).filter fun t => c.hasTower t && !c.ush.tdown.contains t

/-- The tower count whose head map the usher goes by (R293, R512): with a tower fenced, that for three. -/
def Chip.nTow (c : Chip) : Nat := if c.ush.tdown.isEmpty then c.part.towers else 3

/-- The memory that the image gives the usher's fixed structures (R600), by address and length: the critical area, the crash annex, the journal, the monitor records and the
dump ring, and in each tower its error log, current ring, event rings and diagnostic area, and the copies of its retirement table. What no register places yet is nowhere. -/
def Chip.usherAreas (c : Chip) : List (Nat × Nat) :=
  ([(c.rdF Reg.cwa 0 40, 0x6000), (c.rd Reg.anxbase, 2 ^ 31), (c.rdF Reg.jbase 0 40, 2 ^ 26), (c.rdF Reg.monbase 0 40, 256 * 91), (c.rd Reg.twbase, c.rd Reg.twsize)]
    ++ ((List.range 4).filter c.hasTower).flatMap fun t =>
      [(c.rdF (Reg.elbase t) 0 40, 2 ^ 21), (c.rdF (Reg.irbase t) 0 40, 1040 * 1024), (c.rdF (Reg.evbase t) 0 40, 2 ^ 21), (c.rdF (Reg.diagarea t) 0 40, 2 ^ 21),
       (listGet 0 c.ush.layout.rtabA t, 64 + 16 * 8192), (listGet 0 c.ush.layout.rtabB t, 64 + 16 * 8192)]).filter fun a => a.1 != 0

/-- Whether a 2 MiB frame belongs to a tower's KV pool: populated, and no frame of usher memory (R600). DEDUCED: log entry 86. -/
def Chip.inPool (c : Chip) (f : Nat) : Bool :=
  c.hasTower (f / 2 ^ 17) && !c.ush.tdown.contains (f / 2 ^ 17) && decide ((f % 2 ^ 17 + 1) * 2 ^ 21 ≤ c.towerBytes) 
    && !c.usherAreas.any (fun a => overlap a.1 a.2 (f * 2 ^ 21) (2 ^ 21)) && !c.ush.layout.owned.any fun r => decide (r.1 ≤ f ∧ f < r.1 + r.2)

/-- What a frame holds. -/
def Chip.frameUse (c : Chip) (f : Nat) : FrameUse := Store.get noUse c.ush.frames f

/-- Set what a frame holds; MOD.KVFREE follows. -/
def Chip.setFrame (c : Chip) (f : Nat) (u : FrameUse) : Chip :=
  let t := f / 2 ^ 17
  let n := c.rdF (Reg.kvfree t) 0 24
  let n := match c.frameUse f, u with
    | .free, .free => n
    | .free, _ => n - 1
    | _, .free => n + 1
    | _, _ => n
  (c.onUsh fun x => { x with frames := Store.put noUse x.frames f u }).wrF (Reg.kvfree t) 0 24 n

/-- A frame of the free pool. -/
def Chip.frameFree (c : Chip) (f : Nat) : Bool := c.inPool f && c.frameUse f == .free

/-- The first of `k` free frames in a row among `n` frames of tower t from `f` on, going round. -/
def Chip.freeRun (c : Chip) (t k : Nat) : Nat → Nat → Option Nat
  | 0, _ => none
  | n + 1, f =>
    let g := t * 2 ^ 17 + f % 2 ^ 17
    if (List.range k).all fun i => (g + i) / 2 ^ 17 == t && c.frameFree (g + i) then some g else c.freeRun t k n (f + 1)

/-- Take `k` free frames in a row of tower t for a use. -/
def Chip.takeFrames (c : Chip) (t k : Nat) (u : FrameUse) : Option (Chip × Nat) :=
  let (p, c) := c.pick (2 ^ 17)
  match c.freeRun t k (2 ^ 17) p with
  | none => none
  | some g => some ((List.range k).foldl (fun c i => c.setFrame (g + i) u) c, g)

/-! ### KV slots (Tables 10-1, 10-2) -/

def pageBytes (fmt : Nat) : Nat := if fmt = 8 then 8704 else if fmt = 0xB then 32768 else 16384
def slotClass (fmt : Nat) : Nat := if fmt = 8 then 1 else if fmt = 0xB then 2 else 0
def slotBytes (cls : Nat) : Nat := listGet 0 [16384, 8704, 32768] cls
def slotsPerFrame (cls : Nat) : Nat := listGet 0 [128, 240, 64] cls

/-- Reference count of a slot by address. -/
def Chip.slotRef (c : Chip) (a : Nat) : Nat := Store.get zeroNat c.ush.slots a

/-- The free slots of a frame of a class. -/
def Chip.freeSlots (c : Chip) (f cls : Nat) : List Nat :=
  ((List.range (slotsPerFrame cls)).map fun k => f * 2 ^ 21 + k * slotBytes cls).filter fun a => c.slotRef a == 0

/-- A new slot of a class in tower t, its count 1 (R267): from a frame of the class with a free slot, else from a free frame. -/
def Chip.takeSlot (c : Chip) (t cls : Nat) : Option (Chip × Nat) :=
  let part := (c.ush.frames.filter fun e => e.1 / 2 ^ 17 == t && e.2 == .slots cls && !(c.freeSlots e.1 cls).isEmpty).map (·.1)
  let r : Option (Chip × Nat) :=
    if part.isEmpty then c.takeFrames t 1 (.slots cls)
    else
      let (p, c) := c.pick part.length
      some (c, listGet 0 part p)
  match r with
  | none => none
  | some (c, f) =>
    let l := c.freeSlots f cls
    let (p, c) := c.pick l.length
    let a := listGet 0 l p
    some (c.onUsh fun x => { x with slots := Store.put zeroNat x.slots a 1 }, a)

/-- One reference more, or less; a slot whose count reaches 0 is free, and so is a frame with no slot in use. -/
def Chip.slotInc (c : Chip) (a : Nat) : Chip := c.onUsh fun x => { x with slots := Store.put zeroNat x.slots a (c.slotRef a + 1) }
def Chip.slotDrop (c : Chip) (a : Nat) : Chip :=
  let c := c.onUsh fun x => { x with slots := Store.put zeroNat x.slots a (c.slotRef a - 1) }
  let f := a / 2 ^ 21
  if c.ush.slots.any fun e => e.1 / 2 ^ 21 == f then c else c.setFrame f .free

/-- A table reaches a slot no more: its count falls now, or in MOVING once every move of the changeover has flipped or been voided (R314). -/
def Chip.slotDec (c : Chip) (a : Nat) : Chip :=
  if c.epochState = 3 then c.onUsh fun u => { u with owed := u.owed ++ [a] } else c.slotDrop a

/-- The counts that a changeover held up fall. -/
def Chip.payOwed (c : Chip) : Chip := c.ush.owed.foldl Chip.slotDrop (c.onUsh fun u => { u with owed := [] })

/-! ### Blocks of tables, logs, maps and annexes -/

/-- The places in a frame of blocks where n bytes fit, aligned. -/
def Chip.gaps (c : Chip) (f n align : Nat) : List Nat :=
  let bs := c.ush.blocks.filter fun e => overlap e.1 e.2 (f * 2 ^ 21) (2 ^ 21)
  let cand := (f * 2 ^ 21) :: bs.map fun e => (e.1 + e.2 + align - 1) / align * align
  cand.filter fun a => decide (f * 2 ^ 21 ≤ a ∧ a + n ≤ (f + 1) * 2 ^ 21) && bs.all fun e => !overlap e.1 e.2 a n

/-- A block of n bytes in tower t. -/
def Chip.takeBlock (c : Chip) (t n align : Nat) : Option (Chip × Nat) :=
  let fit := (c.ush.frames.filter fun e => e.1 / 2 ^ 17 == t && e.2 == .blocks).foldl (fun l e => l ++ c.gaps e.1 n align) []
  let r : Option (Chip × Nat) :=
    if fit.isEmpty then (c.takeFrames t ((n + 2 ^ 21 - 1) / 2 ^ 21) .blocks).map fun r => (r.1, r.2 * 2 ^ 21)
    else
      let (p, c) := c.pick fit.length
      some (c, listGet 0 fit p)
  r.map fun r => (r.1.onUsh fun x => { x with blocks := Store.put zeroNat x.blocks r.2 n }, r.2)

/-- Free a block, and each of its frames that no block overlaps any more. -/
def Chip.freeBlock (c : Chip) (a : Nat) : Chip :=
  let n := Store.get zeroNat c.ush.blocks a
  if n = 0 then c
  else
    let c := c.onUsh fun x => { x with blocks := Store.put zeroNat x.blocks a 0 }
    (List.range ((a % 2 ^ 21 + n + 2 ^ 21 - 1) / 2 ^ 21)).foldl (fun c i =>
      let f := a / 2 ^ 21 + i
      if c.ush.blocks.any fun e => overlap e.1 e.2 (f * 2 ^ 21) (2 ^ 21) then c else c.setFrame f .free) c

/-! ### Ticket descriptors (R360 to R363) -/

/-- Address of line 0 or 1 of a descriptor's copy. -/
def Chip.tkAddr (c : Chip) (copy i : Nat) : Nat := (if copy = 0 then c.ush.layout.dt0 else c.ush.layout.dt1) + 128 * i

/-- Read n bytes of a descriptor at an offset: copy 0, or copy 1 where the line of copy 0 is uncorrectable. -/
def Chip.tk (c : Chip) (i off n : Nat) : Nat :=
  let a := c.tkAddr 0 i + off
  if c.linePoisoned (a / 64) then c.memNum (c.tkAddr 1 i + off) n else c.memNum a n

/-- Write bytes of one descriptor line: the whole line into copy 0, then into copy 1 (R361). -/
def Chip.tkPut (c : Chip) (i off n v : Nat) : Chip :=
  let base := off / 64 * 64
  let line := leBytes 64 (setField (c.tk i base 64) (8 * (off % 64)) (8 * n) v)
  (c.memWrite (c.tkAddr 0 i + base) line).memWrite (c.tkAddr 1 i + base) line

/-- The fields of Table 13-2. -/
def Chip.tkTicket (c : Chip) (i : Nat) : Nat := c.tk i 0 4
def Chip.tkState (c : Chip) (i : Nat) : Nat := c.tk i 4 1 % 16
def Chip.tkRstate (c : Chip) (i : Nat) : Nat := c.tk i 4 1 / 16
def Chip.tkFlag (c : Chip) (i b : Nat) : Bool := bitOf (c.tk i 5 1) b
def Chip.setFlag (c : Chip) (i b : Nat) (v : Bool) : Chip := c.tkPut i 5 1 (setField (c.tk i 5 1) b 1 (b2n v))
def Chip.tkPrio (c : Chip) (i : Nat) : Nat := c.tk i 6 1 % 8
def Chip.tkSpol (c : Chip) (i : Nat) : Nat := field (c.tk i 6 1) 3 2
def Chip.tkHot (c : Chip) (i : Nat) : Nat := c.tk i 7 1
def Chip.tkModel (c : Chip) (i : Nat) : Nat := c.tk i 8 1
def Chip.tkTcoal (c : Chip) (i : Nat) : Nat := c.tk i 0xA 1 % 16
def Chip.tkCring (c : Chip) (i : Nat) : Nat := c.tk i 0xC 2
def Chip.tkNtok (c : Chip) (i : Nat) : Nat := c.tk i 0x10 4
def Chip.tkRoot (c : Chip) (i : Nat) : Nat := c.tk i 0x20 5
def Chip.tkSince (c : Chip) (i : Nat) : Nat := c.tk i 0x28 8

/-- The word that names the ticket of index i now. -/
def Chip.tkWord (c : Chip) (i : Nat) : Word := BitVec.ofNat 32 (c.tkTicket i)

/-- The index of a live ticket (R359). -/
def Chip.liveIdx (c : Chip) (w : Word) : Option Nat :=
  let i := w.toNat % 2 ^ 20
  if c.tkTicket i = w.toNat ∧ c.tkState i ≠ 0 then some i else none

/-- What the usher keeps beside the descriptor. -/
def noAux : Nat → TkAux := fun _ => TkAux.empty
def Chip.aux (c : Chip) (i : Nat) : TkAux := Store.get noAux c.ush.aux i
def Chip.setAux (c : Chip) (i : Nat) (f : TkAux → TkAux) : Chip :=
  c.onUsh fun x => { x with aux := Store.put noAux x.aux i (f (c.aux i)) }

/-- NPOS of the page-table root; as kept while the KV is away. -/
def Chip.npos (c : Chip) (i : Nat) : Nat := if c.tkRoot i = 0 then (c.aux i).npos else c.memNum (c.tkRoot i + 8) 4

/-- Write NPOS (R269). -/
def Chip.setNpos (c : Chip) (i n : Nat) : Chip := if c.tkRoot i = 0 then c else c.memWriteNum (c.tkRoot i + 8) 4 n

/-- Move a count between two states of MOD.TKCNT. -/
def Chip.tkCount (c : Chip) (old new : Nat) : Chip :=
  let c := c.wrF (Reg.tkcnt old) 0 21 (c.rdF (Reg.tkcnt old) 0 21 - 1)
  c.wrF (Reg.tkcnt new) 0 21 (c.rdF (Reg.tkcnt new) 0 21 + 1)

/-- Change STATE (R365): STATE and TSTATE in one line, the journal entry and the counts. `put` makes the changes to the first line
that go with it. -/
def Chip.setStateWith (c : Chip) (i new : Nat) (seq : BitVec 48) (put : Nat → Nat) : Chip :=
  let old := c.tkState i
  let line := put (setField (setField (c.tk i 0 64) 32 4 new) (8 * 0x28) 64 c.now.toNat)
  let c := c.tkPut i 0 64 line
  let c := c.tkCount old new
  let body := [BitVec.ofNat 8 old, BitVec.ofNat 8 new, BitVec.ofNat 8 (c.tk i 0xB 1), 0] ++ leBytes 4 (c.tkNtok i)
    ++ leBytes 4 (c.npos i) ++ leBytes 4 0 ++ leBytes 6 seq.toNat
  c.journal 3 (c.tkWord i) body

/-- Change STATE and nothing else of the line. -/
def Chip.setState (c : Chip) (i new : Nat) (seq : BitVec 48) : Chip := c.setStateWith i new seq id

/-- RSTATE put in a first line. -/
def putRstate (r line : Nat) : Nat := setField line 36 4 r

/-! ### Token logs (R367 to R369) -/

/-- Address of copy A or B of the segment of log entry p; 0 for none. -/
def Chip.segAddr (c : Chip) (i copy p : Nat) : Nat :=
  let d0 := c.tk i 0x60 5
  let d := if c.linePoisoned (d0 / 64 + p / 16384 / 4) then c.tk i 0x68 5 else d0
  c.memNum (d + 16 * (p / 16384) + 8 * copy) 5

/-- Log entry p (R368): copy A, or copy B where A does not decode. -/
def Chip.logEntry (c : Chip) (i p : Nat) : Nat :=
  let a := c.segAddr i 0 p + 4 * (p % 16384)
  if c.linePoisoned (a / 64) then c.memNum (c.segAddr i 1 p + 4 * (p % 16384)) 4 else c.memNum a 4

/-- Two towers for the copies of a block. -/
def Chip.pickTowers (c : Chip) : (Nat × Nat) × Chip :=
  let l := c.workTowers
  let n := l.length
  let (a, c) := c.pick n
  let (b, c) := c.pick (n - 1)
  ((listGet 0 l a, listGet 0 l ((a + 1 + b) % n)), c)

/-- A block in each of two towers. -/
def Chip.takeTwo (c : Chip) (n align : Nat) : Option (Chip × Nat × Nat) :=
  let (ts, c) := c.pickTowers
  match c.takeBlock ts.1 n align with
  | none => none
  | some (c, a) =>
    match c.takeBlock ts.2 n align with
    | none => none
    | some (c, b) => some (c, a, b)

/-- Whether position p of a ticket lies on the decode path (R370): the token that follows it was sampled. -/
def Chip.onDecodePath (c : Chip) (i p : Nat) : Bool := bitOf (c.logEntry i (p + 1)) 24

/-- Write log entry p into copy A, then copy B; a segment is taken when its first entry is written. None where no frame is free. -/
def Chip.logPut (c : Chip) (i p v : Nat) : Option Chip :=
  let r : Option Chip :=
    if c.segAddr i 0 p ≠ 0 then some c
    else
      (c.takeTwo 65536 64).map fun r =>
        [c.tk i 0x60 5, c.tk i 0x68 5].foldl (fun c d => (c.memWriteNum (d + 16 * (p / 16384)) 8 r.2.1).memWriteNum (d + 16 * (p / 16384) + 8) 8 r.2.2) r.1
  r.map fun c => (c.memWriteNum (c.segAddr i 0 p + 4 * (p % 16384)) 4 v).memWriteNum (c.segAddr i 1 p + 4 * (p % 16384)) 4 v

/-- Append tokens to the log, then advance NTOK (R369). -/
def Chip.logAppend (c : Chip) (i : Nat) : List Nat → Option Chip
  | [] => some c
  | v :: vs =>
    match c.logPut i (c.tkNtok i) v with
    | none => none
    | some c => Chip.logAppend (c.tkPut i 0x10 4 (c.tkNtok i + 1)) i vs

/-! ### Page tables (R269 to R271) -/

/-- HT and the tower directory of tower t under a root. -/
def Chip.tdir (c : Chip) (root t : Nat) : Nat := c.memNum (root + 16 + 8 * t) 8
def Chip.rootHt (c : Chip) (root t : Nat) : Nat := field (c.tdir root t) 40 4
def Chip.rootLayers (c : Chip) (root : Nat) : Nat := c.memNum (root + 6) 1

/-- CBLK[k] of tower t under a root. -/
def Chip.cblk (c : Chip) (root t k : Nat) : Nat := c.memNum (field (c.tdir root t) 0 40 + 8 * k) 8

/-- A page-table entry of SKIP = 1. -/
def skipEntry : Nat := 2 ^ 44

/-- Address of the entry of a page; none where the chunk has no block here. -/
def Chip.entryAddr (c : Chip) (root : Nat) (r : PageRef) : Option Nat :=
  let b := c.cblk root r.t r.k
  if bitOf b 63 ∨ field b 0 40 = 0 then none
  else some (field b 0 40 + ((r.layer * c.rootHt root r.t + r.j) * 2 + r.kind) * 512 + 8 * r.page)

/-- Every page list of a page index of a model under a root, in canonical order (R389). -/
def Chip.listRefs (c : Chip) (root t k page : Nat) : List PageRef :=
  (List.range (c.rootLayers root)).foldl (fun l y =>
    (List.range (c.rootHt root t)).foldl (fun l j => l ++ [⟨t, k, y, j, 0, page⟩, ⟨t, k, y, j, 1, page⟩]) l) []

/-- The page references of the lists of one tower and chunk, in canonical order: layers, heads, kinds, pages. -/
def Chip.chunkRefs (c : Chip) (root t k : Nat) : List PageRef :=
  (List.range (c.rootLayers root)).foldl (fun l y =>
    (List.range (c.rootHt root t)).foldl (fun l j =>
      l ++ (List.range 128).map fun p => ⟨t, k, y, j, p / 64, p % 64⟩) l) []

/-- The entries of a root that name a page: reference, entry address, value; canonical order (R389). -/
def Chip.pagesOf (c : Chip) (root : Nat) : List (PageRef × Nat × Nat) :=
  if root = 0 then []
  else
    (List.range 4).foldl (fun l t =>
      if c.rootHt root t = 0 then l
      else (List.range 64).foldl (fun l k =>
        if bitOf (c.cblk root t k) 63 ∨ field (c.cblk root t k) 0 40 = 0 then l
        else l ++ (c.chunkRefs root t k).filterMap fun r =>
          match c.entryAddr root r with
          | none => none
          | some a => if bitOf (c.memNum a 8) 44 then none else some (r, a, c.memNum a 8)) l) []

/-- The remote chunks of a root: tower, chunk, entry. -/
def Chip.remotesOf (c : Chip) (root : Nat) : List (Nat × Nat × Nat) :=
  if root = 0 then []
  else ((List.range 256).map fun x => (x / 64, x % 64)).filterMap fun x =>
    if c.rootHt root x.1 ≠ 0 ∧ bitOf (c.cblk root x.1 x.2) 63 then some (x.1, x.2, c.cblk root x.1 x.2) else none

/-- A root in TOWER[0] for a number of layers with its tower directories, of `heads t` KV heads in tower t, and no chunk (R269, R270). -/
def Chip.newRootOf (c : Chip) (layers npos : Nat) (heads : Nat → Nat) : Option (Chip × Nat) :=
  match c.takeBlock 0 64 64 with
  | none => none
  | some (c, root) =>
    let c := c.memWrite root (leBytes 4 0x5450564B ++ leBytes 2 1 ++ [BitVec.ofNat 8 layers, 0] ++ leBytes 4 npos ++ leBytes 52 0)
    (List.range c.part.towers).foldl (fun r t =>
      match r with
      | none => none
      | some (c, root) =>
        let ht := heads t
        if ht = 0 then some (c, root)
        else
          match Chip.takeBlock c t 512 512 with
          | none => none
          | some (c, d) => some ((Chip.memWrite c d (leBytes 512 0)).memWriteNum (root + 16 + 8 * t) 8 (d + ht * 2 ^ 40), root)) (some (c, root))

/-- A root under a model's head map (R375). -/
def Chip.newRoot (c : Chip) (im : List Byte) (npos : Nat) : Option (Chip × Nat) := c.newRootOf (mdlLayers im) npos (headsOf im c.nTow)

/-- The tower count whose head map a root follows: with a tower fenced (R512), tables built before name it still. -/
def Chip.rootMap (c : Chip) (im : List Byte) (root : Nat) : Nat :=
  if (List.range 4).all fun t => c.rootHt root t == headsOf im c.part.towers t then c.part.towers else 3

/-- A page of a KV head under another head map. -/
def moveRef (im : List Byte) (n m : Nat) (r : PageRef) : PageRef :=
  if n = m then r
  else
    match (List.range (mdlHeads im)).find? fun k => imN (headMap im n) k 1 == r.t + 4 * r.j with
    | some k => let b := imN (headMap im m) k 1; { r with t := b % 4, j := b / 4 % 16 }
    | none => r

/-- The chunk block of a tower and chunk, taken with every entry skipped where there is none (R270, R271). -/
def Chip.needChunk (c : Chip) (root t k : Nat) : Option Chip :=
  if c.cblk root t k ≠ 0 then some c
  else
    let n := c.rootLayers root * c.rootHt root t * 1024
    (c.takeBlock t n 1024).map fun r =>
      (r.1.memWrite r.2 ((List.range (n / 8)).foldl (fun l _ => leBytes 8 skipEntry ++ l) [])).memWriteNum
        (field (c.tdir root t) 0 40 + 8 * k) 8 r.2

/-- Write a page-table entry. -/
def Chip.putEntry (c : Chip) (a slot fmt : Nat) : Chip := c.memWriteNum a 8 (slot + fmt * 2 ^ 40)

/-- Copy a page between slots. -/
def Chip.copyPage (c : Chip) (src dst fmt : Nat) : Chip := c.copyMem src dst (pageBytes fmt)

/-- The lists of every tower at a chunk. -/
def Chip.refsAt (c : Chip) (root k page lskip : Nat) : List PageRef :=
  (List.range 4).foldl (fun l t => if c.rootHt root t = 0 then l else
    l ++ ((c.listRefs root t k page).filter fun r => !(decide (r.layer < 64) && bitOf lskip r.layer))) []

/-- Make one page ready for writing (R273, R386): a slot in the hot format where it has none, a copy of its own where the slot is
shared. None where a tower lacks frames. -/
def Chip.readyPage (c : Chip) (root hot : Nat) (r : PageRef) : Option Chip :=
  match c.needChunk root r.t r.k with
  | none => none
  | some c =>
    match c.entryAddr root r with
    | none => some c
    | some a =>
      let e := c.memNum a 8
      if bitOf e 44 then (c.takeSlot r.t (slotClass hot)).map fun x => x.1.putEntry a x.2 hot
      else if c.slotRef (field e 0 40) > 1 then
        let fmt := field e 40 4
        (c.takeSlot r.t (slotClass fmt)).map fun x => ((x.1.copyPage (field e 0 40) x.2 fmt).putEntry a x.2 fmt).slotDec (field e 0 40)
      else some c

/-- Make every page that a ticket's position writes ready; none where a tower lacks frames. -/
def Chip.readyPos (c : Chip) (i pos : Nat) : Option Chip :=
  let root := c.tkRoot i
  (c.refsAt root (pos / 8192) (pos % 8192 / 128) (c.tk i 0x50 8)).foldl (fun c r =>
    match c with
    | none => none
    | some c => Chip.readyPage c root (c.tkHot i) r) (some c)

/-- A position's row would take a new slot: some page of it has none, or shares its slot (R273, R386). -/
def Chip.needsSlot (c : Chip) (i pos : Nat) : Bool :=
  let root := c.tkRoot i
  (c.refsAt root (pos / 8192) (pos % 8192 / 128) (c.tk i 0x50 8)).any fun r =>
    match c.entryAddr root r with
    | none => true
    | some a => bitOf (c.memNum a 8) 44 || decide (1 < c.slotRef (field (c.memNum a 8) 0 40))

/-- Drop every slot reference of a root, and its tables. -/
def Chip.dropTables (c : Chip) (root : Nat) : Chip :=
  if root = 0 then c
  else
    let c' := (c.pagesOf root).foldl (fun c e => c.slotDec (field e.2.2 0 40)) c
    let c' := (List.range 4).foldl (fun c' t =>
      if c.rootHt root t = 0 then c'
      else
        let c' := (List.range 64).foldl (fun c' k => if bitOf (c.cblk root t k) 63 then c' else Chip.freeBlock c' (field (c.cblk root t k) 0 40)) c'
        Chip.freeBlock c' (field (c.tdir root t) 0 40)) c'
    c'.freeBlock root

/-! ### Stop sets (R371) -/

/-- Address of a stop-set record; copy 1 where a line of copy 0 is uncorrectable. -/
def Chip.stopAddr (c : Chip) (copy n : Nat) : Nat := (if copy = 0 then c.ush.layout.ssp0 else c.ush.layout.ssp1) + 384 * n

/-- A number of a stop-set record. -/
def Chip.stopNum (c : Chip) (n off len : Nat) : Nat :=
  let a := c.stopAddr 0 n + off
  if c.linePoisoned (a / 64) then c.memNum (c.stopAddr 1 n + off) len else c.memNum a len

/-- Whether a stop-set record is well formed: its counts, lengths, tokens below VOCAB and reserved fields. -/
def stopSetOk (vocab : Nat) (b : List Byte) : Bool :=
  b.length == 384 && decide (imN b 0 1 ≤ 16 ∧ imN b 1 1 ≤ 4) && imZero b 2 14 && imZero b 0x160 32
    && ((List.range (imN b 0 1)).all fun k => decide (imN b (0x10 + 4 * k) 4 < vocab))
    && (List.range (imN b 1 1)).all fun k =>
      let n := imN b (0x50 + 4 * k) 4
      decide (1 ≤ n ∧ n ≤ 16) && (List.range n).all fun j => decide (imN b (0x60 + 64 * k + 4 * j) 4 < vocab)

/-- Take a reference on the record of a content: the one that holds it, else a free one (R371). None where the pool is full. -/
def Chip.takeStop (c : Chip) (b : List Byte) : Option (Chip × Nat) :=
  match c.ush.stops.find? fun e => c.stopNum e.1 0 384 == leVal b with
  | some e => some (c.onUsh fun x => { x with stops := Store.put zeroNat x.stops e.1 (e.2 + 1) }, e.1)
  | none =>
    match (List.range 65535).find? fun n => Store.get zeroNat c.ush.stops n == 0 with
    | none => none
    | some n =>
      let c := (c.memWrite (c.stopAddr 0 n) b).memWrite (c.stopAddr 1 n) b
      some (c.onUsh fun x => { x with stops := Store.put zeroNat x.stops n 1 }, n)

/-- Drop a reference on a stop-set record; 0xFFFF names none. -/
def Chip.dropStop (c : Chip) (n : Nat) : Chip :=
  if n = 0xFFFF then c else c.onUsh fun x => { x with stops := Store.put zeroNat x.stops n (Store.get zeroNat x.stops n - 1) }

/-- Take one more reference on a stop-set record. -/
def Chip.shareStop (c : Chip) (n : Nat) : Chip :=
  if n = 0xFFFF then c else c.onUsh fun x => { x with stops := Store.put zeroNat x.stops n (Store.get zeroNat x.stops n + 1) }

/-! ### Twin copies (R361, R367) -/

/-- The usher reads copy a. A line of one copy that is uncorrectable is rewritten from the other: of copy a, and with `both` of copy b too. -/
def Chip.mendTwin (c : Chip) (a b n : Nat) (both : Bool) : Chip :=
  let c := c.memTouch a n
  (List.range ((n + 63) / 64)).foldl (fun c k =>
    let x := a / 64 + k
    let y := b / 64 + k
    if Chip.linePoisoned c x && !c.linePoisoned y then c.memWrite (64 * x) (c.memBytes (64 * y) 64)
    else if both && c.linePoisoned y && !c.linePoisoned x then c.memWrite (64 * y) (c.memBytes (64 * x) 64)
    else c) c

/-- What the usher repairs as it reads a ticket's descriptor, stop set, log directory and log. -/
def Chip.mend (c : Chip) (i : Nat) : Chip :=
  let c := c.mendTwin (c.tkAddr 0 i) (c.tkAddr 1 i) 128 false
  let n := c.tk i 0xE 2
  let c := if n = 0xFFFF then c else c.mendTwin (c.stopAddr 0 n) (c.stopAddr 1 n) 384 false
  let c := c.mendTwin (c.tk i 0x60 5) (c.tk i 0x68 5) 512 true
  (List.range ((c.tkNtok i + 16383) / 16384)).foldl (fun c s =>
    Chip.mendTwin c (c.segAddr i 0 (16384 * s)) (c.segAddr i 1 (16384 * s)) (4 * min 16384 (c.tkNtok i - 16384 * s)) true) c

/-- After a warm reset copy 0 stands where it decodes, and copy 1 where it does not: the other copy follows (R361). -/
def Chip.twinSync (c : Chip) (a b n : Nat) : Chip :=
  (List.range ((n + 63) / 64)).foldl (fun c k =>
    let x := a / 64 + k
    let y := b / 64 + k
    if Chip.linePoisoned c x then (if c.linePoisoned y then c else c.memWrite (64 * x) (c.memBytes (64 * y) 64))
    else if c.linePoisoned y || c.memBytes (64 * x) 64 != c.memBytes (64 * y) 64 then c.memWrite (64 * y) (c.memBytes (64 * x) 64)
    else c) c

/-! ### Indices (R357, R358) -/

/-- Take the free index at the head of the list. -/
def Chip.takeIndex (c : Chip) : Option (Chip × Nat) :=
  if c.ush.freeNext < 2 ^ 20 then some (c.onUsh fun x => { x with freeNext := x.freeNext + 1 }, c.ush.freeNext)
  else
    match c.ush.freeTail with
    | [] => none
    | i :: l => some (c.onUsh fun x => { x with freeTail := l }, i)

/-- The value that the next allocation of an index carries: GEN + 1, 1 after 4,095. -/
def nextTicket (t : Nat) : Nat :=
  let g := t / 2 ^ 20
  (if g = 4095 then 1 else g + 1) * 2 ^ 20 + t % 2 ^ 20

/-- The log blocks of a ticket are freed. -/
def Chip.dropLog (c : Chip) (i : Nat) : Chip :=
  let segs := (List.range 32).foldl (fun l s => l ++ [c.segAddr i 0 (16384 * s), c.segAddr i 1 (16384 * s)]) []
  let c' := segs.foldl (fun c' a => if a = 0 then c' else Chip.freeBlock c' a) c
  (c'.freeBlock (c.tk i 0x60 5)).freeBlock (c.tk i 0x68 5)

end Sys2Proof.Machine
end

