-- ==== Sys2Proof/Machine/LinkCode.lean ====
section
/-! DEFINITION. What a Holmund link puts on its lanes and takes from them: the FEC code and the map of its symbols to lanes (R436, R437), block
framing (R440), alignment blocks (R441), training frames (R442) and flits (R443). -/

namespace Sys2Proof.Machine

/-! ### Codes -/

/-- CRC-16 of bits in the order sent: polynomial 0x1021, initial value 0xFFFF (R440, R442). -/
def crc16 (bits : List Bool) : Nat :=
  bits.foldl (fun s b =>
    let t := s * 2 % 2 ^ 16
    if bitOf s 15 != b then t ^^^ 0x1021 else t) 0xFFFF

/-- The low n bits of a number, bit 0 first. -/
def lowBits (v n : Nat) : List Bool := (List.range n).map fun i => bitOf v i

/-- CRC-32 of IEEE 802.3 (R443). DEDUCED: log entry 93. -/
def crc32 (bs : List Byte) : Nat :=
  2 ^ 32 - 1 - bs.foldl (fun s b =>
    (List.range 8).foldl (fun s _ => if s % 2 = 1 then s / 2 ^^^ 0xEDB88320 else s / 2) (s ^^^ b.toNat)) (2 ^ 32 - 1)

/-- Multiplication by x in GF(2¹⁰) with x¹⁰ + x³ + 1, the field of RS(544,514) in IEEE 802.3. PRESUMED: log entry 133. -/
def fecX (a : Nat) : Nat := if a < 512 then 2 * a else (2 * a) ^^^ 0x409

/-- Multiplication in GF(2¹⁰), over the low `n` bits of `b`. -/
def fecMulGo : Nat → Nat → Nat → Nat
  | 0, _, _ => 0
  | n + 1, a, b => (if b % 2 = 1 then a else 0) ^^^ fecMulGo n (fecX a) (b / 2)

def fecMul (a b : Nat) : Nat := fecMulGo 10 a b

/-- α^n, α = 2. -/
def fecPow : Nat → Nat
  | 0 => 1
  | n + 1 => fecX (fecPow n)

/-- The inverse a^1022, the product of a^2, a^4, … a^512. -/
def fecInv (a : Nat) : Nat := ((List.range 9).foldl (fun (r : Nat × Nat) _ => let s := fecMul r.1 r.1; (s, fecMul r.2 s)) (a, 1)).2

/-- g(x) = (x + α⁰) … (x + α²⁹), lowest coefficient first. PRESUMED: log entry 133. -/
def fecGen : List Nat :=
  (List.range 30).foldl (fun p i => List.zipWith (· ^^^ ·) (0 :: p) ((p.map (fecMul (fecPow i))) ++ [0])) [1]

/-- The 30 parity symbols of a codeword's 514 message symbols, each first in the order sent. -/
def fecParity (msg : List Nat) : List Nat :=
  let g := fecGen.take 30
  (msg.foldl (fun rem m =>
    let fb := listGet 0 rem 29 ^^^ m
    List.zipWith (· ^^^ ·) (0 :: rem.take 29) (g.map (fecMul fb))) (List.replicate 30 0)).reverse

/-- A polynomial at x, lowest coefficient first. -/
def fecEval (p : List Nat) (x : Nat) : Nat := p.foldr (fun c acc => c ^^^ fecMul x acc) 0

/-- The syndromes of a received codeword, in the order sent. -/
def fecSyndromes (w : List Nat) : List Nat := (List.range 30).map fun i => let r := fecPow i; w.foldl (fun a s => fecMul a r ^^^ s) 0

/-- Berlekamp-Massey over the syndromes: the locator and its length. -/
def fecLocator (s : List Nat) : Nat → Nat → List Nat → List Nat → Nat → Nat → Nat → List Nat × Nat
  | 0, _, c, _, l, _, _ => (c, l)
  | k + 1, n, c, b, l, m, bd =>
    let d := (List.range l).foldl (fun acc i => acc ^^^ fecMul (listGet 0 c (i + 1)) (listGet 0 s (n - i - 1))) (listGet 0 s n)
    if d = 0 then fecLocator s k (n + 1) c b l (m + 1) bd
    else
      let q := fecMul d (fecInv bd)
      let sh := (List.range 31).map fun i => listGet 0 c i ^^^ (if m ≤ i then fecMul q (listGet 0 b (i - m)) else 0)
      if 2 * l ≤ n then fecLocator s k (n + 1) sh c (n + 1 - l) 1 d
      else fecLocator s k (n + 1) sh b l (m + 1) bd

/-- The value added at the symbol of coefficient j, by Forney's rule for a code whose first root is α⁰. -/
def fecMagnitude (s loc : List Nat) (j : Nat) : Nat :=
  let xi := fecPow (1023 - j)
  let omega := (List.range 30).map fun n =>
    (List.range (n + 1)).foldl (fun a i => a ^^^ fecMul (listGet 0 s i) (listGet 0 loc (n - i))) 0
  let deriv := fecEval ((List.range 30).map fun i => if i % 2 = 0 then listGet 0 loc (i + 1) else 0) xi
  fecMul (fecPow j) (fecMul (fecEval omega xi) (fecInv deriv))

/-- The errors of a received codeword of 544 symbols in the order sent, position and value; none where it cannot be corrected (R437). -/
def fecErrors (w : List Nat) : Option (List (Nat × Nat)) :=
  let s := fecSyndromes w
  if s.all (· == 0) then some []
  else
    let r := fecLocator s 30 0 [1] [1] 0 1 1
    let pos := (List.range 544).filter fun j => fecEval r.1 (fecPow (1023 - j)) == 0
    if r.2 ≤ 15 ∧ pos.length = r.2 then some (pos.map fun j => (543 - j, fecMagnitude s r.1 j)) else none

/-! ### Blocks (R436, R437, R440) -/

/-- The 2,176 symbols of a block in the order sent, from its message: symbol k belongs to codeword k mod 4. -/
def blockSymbols (msg : Nat) : List Nat :=
  let par := (List.range 4).map fun w => fecParity ((List.range 514).map fun j => field msg (10 * (4 * j + w)) 10)
  (List.range 2056).map (fun k => field msg (10 * k) 10) ++ (List.range 120).map fun k => listGet 0 (listGet [] par (k % 4)) (k / 4)

/-- The lane of symbol k over the active lanes. -/
def symbolLane (lanes : List Nat) (k : Nat) : Nat := listGet 0 lanes (k / 4 % lanes.length)

/-- The symbols of a block by lane. -/
def blockLanes (lanes : List Nat) (syms : List Nat) : List (Nat × List Nat) :=
  lanes.zipIdx.map fun e => (e.1, (List.range (2176 / lanes.length)).map fun j => listGet 0 syms (4 * (lanes.length * (j / 4) + e.2) + j % 4))

/-- A received block: its symbols in the order sent as a number; the errors of each codeword. -/
def blockErrors (v : Nat) : List (Option (List (Nat × Nat))) :=
  (List.range 4).map fun w =>
    (fecErrors ((List.range 544).map fun j => field v (10 * (4 * j + w)) 10)).map fun es => es.map fun e => (4 * e.1 + w, e.2)

/-- The message of a received block, its errors put right; whether every codeword could be; and the corrected symbols (R437). -/
def blockDecode (v : Nat) : Nat × Bool × List Nat :=
  let es := blockErrors v
  let all := es.foldr (fun e l => e.getD [] ++ l) []
  (all.foldl (fun v e => v ^^^ e.2 * 2 ^ (10 * e.1)) v % 2 ^ 20560, es.all Option.isSome, all.map Prod.fst)

/-- Block framing with its FCRC (Table 15-15). -/
def blockFraming (bseq lctl lane smap w4 : Nat) : Nat :=
  let v := 0x5C3A + bseq * 2 ^ 16 + lctl * 2 ^ 24 + lane * 2 ^ 28 + smap * 2 ^ 32 + w4 * 2 ^ 36
  v + crc16 (lowBits v 64) * 2 ^ 64

/-! ### Alignment blocks (R441) -/

/-- A symbol of a lane word. -/
def laneSymbol (n : Nat) : Nat := n + (15 - n) * 16 + 2 * 256

/-- The lane word of a lane in an alignment block: 8 symbols. -/
def laneWord (n : Nat) : BitVec 80 := BitVec.ofNat 80 ((List.range 8).foldl (fun v i => v + laneSymbol n * 2 ^ (10 * i)) 0)

/-- What a lane sends in an alignment block at a width: marker, lane word, filler. -/
def alignSymbols (w n : Nat) : List Nat :=
  (List.range 16).map (fun i => if i % 2 = 0 then 0x3E0 else 0x01F) ++ List.replicate 8 (laneSymbol n)
    ++ (List.range (2176 / w - 24)).map fun i => if i % 2 = 0 then 0x155 else 0x2AA

/-! ### Training frames (R442) -/

/-- PRBS13, x¹³ + x¹² + x² + x + 1: n PAM4 symbols from a state, two bits each, Gray-coded. PRESUMED: log entry 133. -/
def prbs13 : Nat → Nat → List Int
  | 0, _ => []
  | n + 1, s =>
    let next (s : Nat) : Nat := 2 * s % 2 ^ 13 + b2n (bitOf s 12 != (bitOf s 11 != (bitOf s 1 != bitOf s 0)))
    let s1 := next s
    let s2 := next s1
    (if bitOf s1 0 then (if bitOf s2 0 then 1 else 3) else (if bitOf s2 0 then -1 else -3)) :: prbs13 n s2

/-- The 4,096 levels of a training frame: marker, the control and status words with their CRC-16, PRBS13. -/
def trainFrame (control status seed : Nat) : List Int :=
  let v := control + status * 2 ^ 32
  List.replicate 16 3 ++ List.replicate 16 (-3)
    ++ (lowBits (v + crc16 (lowBits v 64) * 2 ^ 64) 80).foldr (fun b l => (if b then [3, -3] else [-3, 3]) ++ l) []
    ++ prbs13 3904 seed

/-! ### Flits (R443) -/

/-- A flit of Table 15-3 with its CRC; the payload is filled with zeros. -/
def flitBits (seq vc : Nat) (sot eot : Bool) (ack : Nat) (nak av : Bool) (cred : List Nat) (payload : List Byte) (idle train : Bool) : BitVec 2048 :=
  let v := seq + vc * 2 ^ 12 + b2n sot * 2 ^ 14 + b2n eot * 2 ^ 15 + ack * 2 ^ 16 + b2n nak * 2 ^ 28 + b2n av * 2 ^ 29
    + (List.range 4).foldl (fun a k => a + listGet 0 cred k * 2 ^ (32 + 8 * k)) 0
    + payload.length * 2 ^ 64 + b2n idle * 2 ^ 72 + b2n train * 2 ^ 73 + leVal payload * 2 ^ 96
  BitVec.ofNat 2048 (v + crc32 (leBytes 252 v) * 2 ^ 2016)

end Sys2Proof.Machine
end

