-- ==== Sys2Proof/Machine/LinkOps.lean ====
section
/-! DEFINITION. The transport of the Holmund links (R436 to R448): transactions to flits and back, replay, credits, and the module's own
requests. -/

namespace Sys2Proof.Machine

def noLink : Nat → LinkState := fun _ => LinkState.reset

/-- A link, and a change of it. -/
def Chip.link (c : Chip) (l : Nat) : LinkState := Store.get noLink c.lk.link l
def Chip.setLink (c : Chip) (l : Nat) (x : LinkState) : Chip := { c with lk := { c.lk with link := Store.put noLink c.lk.link l x } }
def Chip.onLink (c : Chip) (l : Nat) (f : LinkState → LinkState) : Chip := c.setLink l (f (c.link l))

/-- STATE of LINK[l].STAT; whether the link is up; the partner's node; the version chosen (major · 16 + minor); a feature chosen. -/
def Chip.linkSt (c : Chip) (l : Nat) : Nat := c.rdF (Reg.linkStat l) 0 3
def Chip.linkUp (c : Chip) (l : Nat) : Bool := c.linkSt l == 2 || c.linkSt l == 3
def Chip.linkNode (c : Chip) (l : Nat) : Nat := c.rdF (Reg.linkStat l) 32 8
def Chip.linkVer (c : Chip) (l : Nat) : Nat := c.rdF (Reg.linkStat l) 8 8
def Chip.linkFeat (c : Chip) (l i : Nat) : Bool := bitOf (c.rdF (Reg.linkStat l) 40 16) i

/-- The links in service to a node. -/
def Chip.linksTo (c : Chip) (node : Nat) : List Nat := (List.range 5).filter fun l => c.linkUp l && c.linkNode l == node

/-! ### Flits (R443 to R446) -/

/-- The channel of a transaction type (Table 15-6). -/
def txnVc (type : Nat) : Nat := if type = 1 ∨ type = 3 then 0 else if type = 4 then 1 else if type = 7 then 3 else 2

/-- Whether a transaction awaits an answer. -/
def Txn.answered (t : Txn) : Bool := t.type == 2 || t.type == 4 || t.type == 5 || (t.type == 1 && t.ackreq)

/-- The header of a transaction (Table 15-5). -/
def Txn.header (t : Txn) : List Byte :=
  [BitVec.ofNat 8 t.type, BitVec.ofNat 8 (b2n t.ackreq + 2 * b2n t.ush)] ++ leBytes 2 t.tag.toNat ++ leBytes 3 t.epoch.toNat
    ++ [BitVec.ofNat 8 t.status] ++ leBytes 8 t.offset ++ leBytes 4 t.annex.toNat ++ leBytes 4 t.len ++ leBytes 8 t.arg.toNat

/-- Whether a type is one of a request, which carries a TAG that an answer names (Table 15-6). -/
def txnAsks (type : Nat) : Bool := type == 1 || type == 2 || type == 4 || type == 5

/-- Whether a header sets what Table 15-5 reserves for its type: reserved bits, ANNEX of a MSG or BARRIER, STATUS of a request, ARG where it is 0. -/
def headerRsv (bs : List Byte) : Bool :=
  let type := imN bs 0 1
  let arg := if type = 4 then imN bs 26 6 else if type = 5 then (if imN bs 20 4 = 8 then 0 else imN bs 28 4) else if type = 6 then 0
    else if type = 7 then imN bs 25 7 / 2 else imN bs 24 8
  imN bs 1 1 / 4 != 0 || imN bs 13 3 != 0 || ((type == 4 || type == 7) && imN bs 16 4 != 0) || ((txnAsks type || type == 7) && imN bs 7 1 != 0) || arg != 0

/-- A transaction from its bytes. -/
def txnOf (bs : List Byte) : Txn :=
  { rsv := headerRsv bs,
    type := imN bs 0 1, ackreq := bitOf (imN bs 1 1) 0, ush := bitOf (imN bs 1 1) 1, tag := BitVec.ofNat 16 (imN bs 2 2),
    epoch := BitVec.ofNat 24 (imN bs 4 3), status := imN bs 7 1, offset := imN bs 8 5, annex := BitVec.ofNat 32 (imN bs 16 4),
    len := imN bs 20 4, arg := BitVec.ofNat 64 (imN bs 24 8), data := bs.drop 32 }

/-- Cut bytes into flit payloads of 240; `n` bounds them. -/
def cutFlits (vc : Nat) (first : Bool) : Nat → List Byte → List Flit
  | 0, _ => []
  | n + 1, bs =>
    let rest := bs.drop 240
    ⟨0, vc, first, rest.isEmpty, bs.take 240⟩ :: (if rest.isEmpty then [] else cutFlits vc false n rest)

/-- Flits of a transaction. -/
def Txn.flits (t : Txn) : List Flit :=
  let bs := t.header ++ t.data
  cutFlits (txnVc t.type) true (bs.length / 240 + 1) bs

def noFlits : Nat → List Flit := fun _ => []
def noTxns : Nat → List Txn := fun _ => []

/-- The receive buffer of a channel in flits (Table 15-4). -/
def vcBuffer (v : Nat) : Nat := listGet 0 [1024, 512, 128, 32] v

/-- The channel whose flit is sent next: sync, control, then message and bulk in the ratio 1 to 3 (R445). -/
def LinkState.nextVc (x : LinkState) : Option Nat :=
  let ready (v : Nat) : Bool := !(Store.get noFlits x.flits v).isEmpty && Store.get zeroNat x.credit v != 0
  if ready 3 then some 3 else if ready 2 then some 2
  else if ready 0 && ready 1 then some (if x.turn < 3 then 0 else 1)
  else if ready 0 then some 0 else if ready 1 then some 1 else none

/-- The flit that the transmitter sends next: one to be sent again from ACK + 1 on, else a new one that credit and the replay buffer allow (R444, R445). -/
def LinkState.takeFlit (now : DWord) (x : LinkState) : Option (LinkState × Flit) :=
  if x.quiet then none
  else
    match x.replay.drop (x.replay.length - x.again) with
    | f :: _ => some ({ x with again := x.again - 1, lastUse := now }, f)
    | [] =>
      if 2048 ≤ x.replay.length then none
      else
        match x.nextVc with
        | none => none
        | some v =>
          match Store.get noFlits x.flits v with
          | [] => none
          | f :: fs =>
            let f := { f with seq := x.txNext }
            some ({ x with flits := Store.put noFlits x.flits v fs, credit := Store.put zeroNat x.credit v (Store.get zeroNat x.credit v - 1),
                           replay := x.replay ++ [f], txNext := x.txNext + 1, lastUse := now,
                           lastAck := if x.replay.isEmpty then now else x.lastAck,
                           turn := if v = 0 then x.turn + 1 else if v = 1 then 0 else x.turn }, f)

/-- The flit as it goes out: with the ACK and NAK as they stand and the credits due, which are thereby given (Table 15-3). DEDUCED: log entry 135. -/
def LinkState.putFlit (x : LinkState) (f : Flit) (idle : Bool) : LinkState × BitVec 2048 :=
  let cred := (List.range 4).map fun v => min 255 (Store.get zeroNat x.due v)
  ({ x with rxNak := false, due := (List.range 4).foldl (fun m v => Store.put zeroNat m v (Store.get zeroNat x.due v - listGet 0 cred v)) x.due },
   flitBits f.seq.toNat f.vc f.sot f.eot (x.rxNext - 1).toNat x.rxNak (x.rxAny || x.rxNak) cred f.payload idle false)

/-- The ten flits of a block: those to be sent, and idle flits (R443). -/
def LinkState.blockFlits (now : DWord) (x : LinkState) : LinkState × Nat :=
  (List.range 10).foldl (fun r i =>
    let q := match LinkState.takeFlit now r.1 with
      | some y => y.1.putFlit y.2 false
      | none => r.1.putFlit ⟨0, 0, false, false, []⟩ true
    (q.1, r.2 + q.2.toNat * 2 ^ (2048 * i))) (x, 0)

/-- The framing of the next block (R440): a failed lane is reported in every block, a swap in 16, the moved lane in each. -/
def LinkState.framingOut (x : LinkState) (lanes : List Nat) : Nat :=
  let told := match x.lctl with
    | some n => (1, n)
    | none => if x.swapLeft = 0 then (0, 0) else (2, x.spare.getD 0)
  blockFraming x.bseq told.1 told.2 (x.spare.getD 15) (b2n (lanes.length == 4))

/-- Put a block of ten flits on the active lanes, and after 256 an alignment block on them and the spare (R436, R441). -/
def LinkState.putBlock (lanes : List Nat) (flits : Nat) (x : LinkState) : LinkState :=
  let out := Sent.symbols (blockLanes lanes (blockSymbols (x.framingOut lanes + flits * 2 ^ 80)))
  let x := { x with wire := x.wire ++ [out], swapLeft := x.swapLeft - 1, bseq := x.bseq + 1 }
  if x.bseq < 256 then x
  else
    let all := lanes.filter (fun n => n != 8) ++ [8]
    { x with bseq := 0, wire := x.wire ++ [.symbols (all.map fun n => (n, alignSymbols lanes.length (if n = 8 then x.spare.getD 8 else n)))] }

/-- One block time of the transmitter. -/
def LinkState.sendBlock (now : DWord) (lanes : List Nat) (x : LinkState) : LinkState :=
  let r := LinkState.blockFlits now x
  r.1.putBlock lanes r.2

/-- Whether a flit that is no idle flit can go. -/
def LinkState.canSend (x : LinkState) : Bool := (LinkState.takeFlit 0 x).isSome

/-- Send the flits that credit and the replay buffer allow, in blocks; `n` bounds them. -/
def LinkState.sendFlits (now : DWord) (lanes : List Nat) : Nat → LinkState → LinkState
  | 0, x => x
  | n + 1, x => if x.canSend then LinkState.sendFlits now lanes n (LinkState.sendBlock now lanes x) else x

/-- Flits that wait to be sent. -/
def LinkState.flitCount (x : LinkState) : Nat := x.flits.foldl (fun a e => a + e.2.length) 0

/-- Back to 8 lanes at new traffic (Table 15-11, LPIDLE). -/
def Chip.unshed (c : Chip) (l : Nat) : Chip :=
  if (c.link l).shed then (c.wrF (Reg.linkStat l) 0 3 2).onLink l fun x => { x with shed := false } else c

/-- The active lanes of a direction (R436): at 8 lanes the lane that the spare carries is LANE[8]; at 4 lanes the lowest-numbered good ones. -/
def activeLanes (four : Bool) (mask : Nat) (spare : Option Nat) : List Nat :=
  if four then ((List.range 9).filter fun i => bitOf mask i).take 4 else (List.range 8).map fun i => if spare = some i then 8 else i

/-- The active lanes of the transmitter, and of the receiver. -/
def Chip.txLanes (c : Chip) (l : Nat) : List Nat := let x := c.link l; activeLanes (c.linkSt l == 3) x.txMask x.spare
def Chip.rxLanes (c : Chip) (l : Nat) : List Nat := activeLanes (c.linkSt l == 3) (c.rdF (Reg.linkStat l) 16 9) (c.link l).rxSpare

/-- A link sends what it may; none while the module is stopped (R542). -/
def Chip.pumpFlits (c : Chip) (l : Nat) : Chip :=
  if !c.linkUp l || c.stopped || !(c.link l).canSend then c
  else
    let c := c.unshed l
    c.onLink l fun x => LinkState.sendFlits c.act (c.txLanes l) (x.flitCount + x.again) x

/-- A block time of a link that is up: its transmitter sends a block, of idle flits where nothing else waits (R436, R443). DESIGN CHOICE: log entry 134. -/
def Chip.blockTime (c : Chip) (l : Nat) : Chip :=
  if !c.linkUp l || c.stopped then c else c.onLink l fun x => LinkState.sendBlock c.act (c.txLanes l) x

/-- Queue a transaction's flits. -/
def LinkState.queueTxn (x : LinkState) (t : Txn) : LinkState :=
  { x with flits := Store.put noFlits x.flits (txnVc t.type) (Store.get noFlits x.flits (txnVc t.type) ++ t.flits) }

/-- A tag that no outstanding request of the link has, the next in turn. -/
def LinkState.freeTag (x : LinkState) : Nat → Half → Half
  | 0, t => t
  | n + 1, t => if x.out.any fun r => r.txn.tag == t then LinkState.freeTag x n (t + 1) else t

/-- Start requests that wait, at most 1,024 being outstanding (R451); `n` bounds them. -/
def LinkState.startReqs (now : DWord) : Nat → LinkState → LinkState
  | 0, x => x
  | n + 1, x =>
    match x.waiting with
    | [] => x
    | (t, w) :: ws =>
      if 1024 ≤ x.out.length then x
      else
        let tag := x.freeTag 1025 x.nextTag
        let t := { t with tag := tag }
        let r : LinkReq := { txn := t, why := w, since := now, again := none }
        let x := { x with waiting := ws, nextTag := tag + 1, out := if t.answered then x.out ++ [r] else x.out }
        LinkState.startReqs now n (x.queueTxn t)

/-- A link starts the requests and sends the flits it may. -/
def Chip.pump (c : Chip) (l : Nat) : Chip :=
  if c.linkUp l && !c.stopped then (c.onLink l fun x => LinkState.startReqs c.act x.waiting.length x).pumpFlits l else c

/-- A request of the module on a link. -/
def Chip.request (c : Chip) (l : Nat) (t : Txn) (w : LinkWhy) : Chip := (c.onLink l fun x => { x with waiting := x.waiting ++ [(t, w)] }).pump l

/-- An answer on a link. -/
def Chip.respond (c : Chip) (l : Nat) (t : Txn) : Chip := if c.linkUp l then (c.onLink l fun x => x.queueTxn t).pumpFlits l else c

/-- An empty transaction of a type, of the epoch now. -/
def Chip.txn (c : Chip) (type : Nat) (ush : Bool) : Txn :=
  { type := type, ackreq := type == 1, ush := ush, tag := 0, epoch := BitVec.ofNat 24 c.epoch.toNat, status := 0, offset := 0, annex := 0, len := 0, arg := 0, data := [] }

/-- An answer of a type to a transaction: its tag, epoch and mark echoed (R452). -/
def Txn.answer (t : Txn) (type status : Nat) : Txn :=
  { t with type := type, status := status, ackreq := false, offset := 0, annex := 0, len := 0, arg := 0, data := [],
           rsv := false, place := 0, cells := 0 }

/-- A MSG of a kind. -/
def Chip.sendMsg (c : Chip) (l kind : Nat) (ush : Bool) (w : LinkWhy) (data : List Byte) : Chip :=
  c.request l { c.txn 4 ush with len := data.length, arg := BitVec.ofNat 64 kind, data := data } w

/-- PUT and GET bytes at most (Table 15-6). -/
def Chip.bulkMax (c : Chip) (l : Nat) : Nat := if c.linkVer l < 0x20 then 16384 else 65536

/-- Divide n bytes in pieces of a size: (offset, length). -/
def cutRange (size : Nat) : Nat → Nat → Nat → List (Nat × Nat)
  | 0, _, _ => []
  | f + 1, off, n => if n = 0 then [] else (off, min size n) :: cutRange size f (off + min size n) (n - min size n)

/-- The link that carries a piece of a bulk transfer to a node (R434). -/
def Chip.bulkLink (c : Chip) (node off : Nat) : Option Nat :=
  match c.linksTo node with
  | [] => none
  | ls => some (listGet 0 ls (off / 65536 % ls.length))

/-- Who asks module memory for what a bulk transfer with a node carries at an offset: its link, through the stair tops of that link's tower (R433). -/
def Chip.linkFor (c : Chip) (node off : Nat) : Requester :=
  match c.bulkLink node off with
  | some l => .link (Fin.ofNat 5 l)
  | none => .usher

/-- Bulk pieces to a node: the size is what every link in service to it allows. -/
def Chip.bulkPieces (c : Chip) (node n : Nat) : List (Nat × Nat) :=
  let size := (c.linksTo node).foldl (fun a l => min a (c.bulkMax l)) 65536
  cutRange size (n / size + 1) 0 n

/-- PUT bytes to an annex of a node from an offset on. A last piece is filled with zeros to a multiple of 64 (Table 15-6). -/
def Chip.putAll (c : Chip) (node : Nat) (annex : Word) (w : LinkWhy) (off : Nat) (bs : List Byte) : Chip :=
  (c.bulkPieces node bs.length).foldl (fun c p =>
    match Chip.bulkLink c node (off + p.1) with
    | none => c
    | some l =>
      let n := (p.2 + 63) / 64 * 64
      let d := (bs.drop p.1).take p.2
      Chip.request c l { c.txn 1 true with offset := off + p.1, annex := annex, len := n, data := d ++ leBytes (n - d.length) 0 } w) c

/-- GET n bytes from an annex of a node; `why` says what each piece serves. -/
def Chip.getAll (c : Chip) (node : Nat) (annex : Word) (why : Nat → LinkWhy) (n : Nat) : Chip :=
  (c.bulkPieces node n).foldl (fun c p =>
    match Chip.bulkLink c node p.1 with
    | none => c
    | some l => Chip.request c l { c.txn 2 true with offset := p.1, annex := annex, len := (p.2 + 63) / 64 * 64 } (why p.1)) c

/-- Close an annex at a node (R458). -/
def Chip.closeAnnex (c : Chip) (node : Nat) (annex : Word) : Chip :=
  match c.linksTo node with
  | [] => c
  | l :: _ => c.sendMsg l 3 true .plain (leBytes 4 annex.toNat)

/-- The weights annexes held for a model are closed (R511). -/
def Chip.weightsDone (c : Chip) (m : Nat) : Chip :=
  let c := (c.lk.weights.filter fun w => w.2.2 == m).foldl (fun c w => Chip.closeAnnex c w.1 w.2.1) c
  { c with lk := { c.lk with weights := c.lk.weights.filter fun w => w.2.2 != m } }

/-- The links drop every request that a condition picks. -/
def Chip.dropReqs (c : Chip) (f : LinkWhy → Bool) : Chip :=
  (List.range 5).foldl (fun c l => if c.link l = LinkState.reset then c else
    c.onLink l fun x => { x with out := x.out.filter fun r => !f r.why, waiting := x.waiting.filter fun r => !f r.2 }) c

/-! ### Annexes granted (R458) -/

/-- Take n frames for an annex, of tower t whenever it has them. -/
def Chip.annexFrames (c : Chip) (t : Nat) : Nat → List Nat → Option (Chip × List Nat)
  | 0, l => some (c, l)
  | n + 1, l =>
    match ([t] ++ (List.range c.part.towers).filter fun u => u != t).foldl (fun r u =>
      match r with | some x => some x | none => Chip.takeFrames c u 1 .held) none with
    | none => none
    | some (c, f) => Chip.annexFrames c t n (l ++ [f])

/-- Bytes granted to all partners. -/
def Chip.annexTotal (c : Chip) : Nat := (c.lk.annexes.filter fun a => a.purpose != 3).foldl (fun n a => n + a.len) 0

/-- Free an annex that the module granted: its frames join the pool. -/
def Chip.freeAnnex (c : Chip) (a : Annex) : Chip :=
  let c' := if a.purpose = 3 then c else a.pieces.foldl (fun c' p => Chip.setFrame c' (p.1 / 2 ^ 21) .free) c
  { c' with lk := { c'.lk with annexes := c'.lk.annexes.filter fun b => b.id != a.id } }

/-- Module address of byte o of an annex. -/
def annexAddr : List (Nat × Nat) → Nat → Option Nat
  | [], _ => none
  | (a, n) :: ps, o => if o < n then some (a + o) else annexAddr ps (o - n)

/-- The bytes of an annex at an offset, in line pieces; a length is a multiple of what its pieces keep whole. -/
def Chip.annexBytes (c : Chip) (a : Annex) (o n : Nat) : List Byte :=
  ((List.range (n / 4 + 1)).foldr (fun i l => (match annexAddr a.pieces (o + 4 * i) with | some x => c.memBytes x 4 | none => leBytes 4 0) ++ l) []).take n

/-- Whether a line of a range of an annex is poisoned. -/
def Chip.annexBad (c : Chip) (a : Annex) (o n : Nat) : Bool :=
  (List.range ((n + 63) / 64 + 1)).any fun i => match annexAddr a.pieces (o + min (64 * i) (n - 1)) with | some x => c.linePoisoned (x / 64) | none => false

end Sys2Proof.Machine
end

