-- ==== Sys2Proof/Machine/Works.lean ====
section
/-! DEFINITION. The jobs that the usher issues to chanters of itself (R343, R349 to R351): demotion, FORK, the changeover's moves, spill and recall, and patrol. What
the chanter firmware does in a job is the contract of the two firmwares; here a job that runs does what its rule says when the command that waits for its end comes.
DEDUCED: log entry 52. -/

namespace Sys2Proof.Machine

/-! ### Issuing -/

/-- Word 7 of JOBIN is written: the record joins the cluster's queue, or is dropped where that is full (R343). -/
def Chip.enqueueJob (c : Chip) (k : Nat) (w7 : DWord) : Chip :=
  let v := c.cluster k
  if 64 ≤ v.queue.length then c.wrF (Reg.chcStat (k / 104) (k % 104)) 52 1 1
  else
    let r := (List.range 7).foldr (fun i acc => (Store.get zeroDWord v.jobin i).toNat + 2 ^ 64 * acc) w7.toNat
    c.setCluster k { v with queue := v.queue ++ [BitVec.ofNat 512 r] }

/-- A range entry (Table 12-6): mode 1 READ, 2 OWN. -/
def rangeWord (a n mode : Nat) : Nat := a / 64 + (n + 63) / 64 * 2 ^ 34 + mode * 2 ^ 56

/-- Bytes of the slot at an address, by the class of its frame. -/
def Chip.slotLen (c : Chip) (a : Nat) : Nat := match c.frameUse (a / 2 ^ 21) with | .slots cls => slotBytes cls | _ => 16384

/-- The ranges of a job (R349, R350): what it reads is READ, what it writes OWN. A patrol declares none. -/
def Chip.workRanges (c : Chip) (w : Work) : List Nat :=
  match w.kind with
  | .copy => w.items.flatMap fun x => [rangeWord x.1 x.2.2 1, rangeWord x.2.1 x.2.2 2]
  | .sum => w.items.map fun x => rangeWord x.1 x.2.2 1
  | .demote => (w.items.flatMap fun x => [rangeWord x.1 (c.slotLen x.1) 1, rangeWord x.2.1 (pageBytes 8) 2])
      ++ (w.items.take 1).map fun x => rangeWord (x.2.2 / 512 * 512) 512 2
  | .patrol => []

/-- The number of a kind of job, by which the firmwares name an entry. -/
def WorkKind.code : WorkKind → Nat
  | .copy => 0
  | .demote => 1
  | .sum => 2
  | .patrol => 3

/-- The record of a job with its range list at an address (Table 12-6): usher traffic; background for a demotion (R387), RAW for a patrol (R351). -/
def Chip.workRecord (c : Chip) (w : Work) (n rlist : Nat) : Nat :=
  w.id % 2 ^ 32 + c.epoch.toNat % 2 ^ 24 * 2 ^ 32 + 2 ^ 56 + (if w.kind = .demote then 2 ^ 57 else 0) + (if w.kind = .patrol then 2 ^ 58 else 0)
    + Config.jobEntry w.kind.code % max 1 c.sys.fwEntries.length % 256 * 2 ^ 64 + 0xFF * 2 ^ 72 + n * 2 ^ 80 + (if n = 0 then 0 else rlist * 2 ^ 128)
    + (Config.jobArg w.id).toNat * 2 ^ 192

/-- Write a job's range list and its record to JOBIN (R343). -/
def Chip.sendWork (c : Chip) (w : Work) : Chip :=
  let rs := c.workRanges w
  let a := listGet 0 c.ush.layout.work (w.cl / 104) + 2048 * (w.id % 65536)
  let c := if rs.isEmpty then c else c.memWrite a (rs.foldr (fun x l => leBytes 8 x ++ l) [])
  let r := c.workRecord w rs.length a
  let v := c.cluster w.cl
  let c := c.setCluster w.cl { v with jobin := (List.range 7).foldl (fun m i => Store.put zeroDWord m i (BitVec.ofNat 64 (field r (64 * i) 64))) v.jobin }
  (c.enqueueJob w.cl (BitVec.ofNat 64 (field r 448 64))).onUsh fun u =>
    { u with works := u.works.map fun x => if x.id = w.id then { x with sent := true } else x }

/-- The jobs not yet written to JOBIN are, as far as the queues of their clusters have room. -/
def Chip.sendWorks (c : Chip) : Chip :=
  c.ush.works.foldl (fun c w => if w.sent || decide (64 ≤ (c.cluster w.cl).queue.length) then c else Chip.sendWork c w) c

/-- Whether a cluster can be given a job: it has a chanter, is not isolated (R335) and not drained (R353). -/
def Chip.clusterTakes (c : Chip) (k : Nat) : Bool :=
  ((List.range 32).any fun i => !bitOf (c.rdF (Reg.chcStat (k / 104) (k % 104)) 0 32) i) && !c.bit (Reg.chcStat (k / 104) (k % 104)) 51
    && !c.bit (Reg.chcCtl (k / 104) (k % 104)) 32

/-- The cluster that the usher gives a job on tower t's memory: a free choice among that tower's, or where it has none among all. DESIGN CHOICE: log entry 19. -/
def Chip.workCluster (c : Chip) (t : Nat) : Nat × Chip :=
  let of (ts : List Nat) : List Nat := (ts.flatMap fun u => (List.range 96).map (u * 104 + ·)).filter c.clusterTakes
  let l := if (of [t]).isEmpty then of c.workTowers else of [t]
  let (p, c) := c.pick l.length
  (listGet (t * 104) l p, c)

/-- A job at a cluster joins those that the usher has issued. -/
def Chip.addWorkAt (c : Chip) (k : Nat) (kind : WorkKind) (why : WorkFor) (items : List (Nat × Nat × Nat)) : Chip :=
  c.onUsh fun u => { u with jobSeq := (u.jobSeq + 1) % 2 ^ 32, works := u.works ++ [⟨u.jobSeq, k, kind, why, items, false, none⟩] }

/-- A job on tower t's memory. -/
def Chip.addWork (c : Chip) (t : Nat) (kind : WorkKind) (why : WorkFor) (items : List (Nat × Nat × Nat)) : Chip :=
  let r := c.workCluster t
  r.2.addWorkAt r.1 kind why items

/-- Parts of at most n of a list; `f` bounds them. -/
def chunksOf (n : Nat) : Nat → List (Nat × Nat × Nat) → List (List (Nat × Nat × Nat))
  | 0, _ => []
  | f + 1, l => if l.isEmpty then [] else l.take n :: chunksOf n f (l.drop n)

/-- Copies as jobs, by the tower that they read, at most 128 a job: it has at most 256 ranges (R343). -/
def Chip.addCopies (c : Chip) (why : WorkFor) (items : List (Nat × Nat × Nat)) : Chip :=
  (List.range 4).foldl (fun c t =>
    let l := items.filter fun x => x.1 / 2 ^ 38 == t
    (chunksOf 128 (l.length + 1) l).foldl (fun c x => Chip.addWork c t .copy why x) c) c

/-! ### What a job does (R349, R350) -/

/-- A line copied by a job of cluster k, written and back-invalidated. The copy of a line that cannot be read is poisoned, so that no bad data loses its status
(R505). DESIGN CHOICE: log entry 139. -/
def Chip.jobLine (c : Chip) (k src dst : Nat) : Chip :=
  let r := c.bottomRead k (lineHome src) src
  if r.2.1 then r.1.poisonLine dst else (r.1.bottomWrite (lineHome dst) dst r.2.2).backInvalidate dst

/-- A range copied. -/
def Chip.jobCopy (k : Nat) (c : Chip) (x : Nat × Nat × Nat) : Chip :=
  (List.range (x.2.2 / 64)).foldl (fun c j => Chip.jobLine c k (x.1 / 64 + j) (x.2.1 / 64 + j)) c

/-- Lines read by a job: whether all could be, and their bytes. -/
def Chip.jobRead (k l : Nat) : Nat → Chip → Chip × Bool × List Byte
  | 0, c => (c, true, [])
  | n + 1, c =>
    let r := c.bottomRead k (lineHome l) l
    let q := Chip.jobRead k (l + 1) n r.1
    (q.1, !r.2.1 && q.2.1, leBytes 64 r.2.2.toNat ++ q.2.2)

/-- Bytes written by a job in whole lines. -/
def Chip.jobWrite (c : Chip) (a : Nat) (bs : List Byte) : Chip :=
  (List.range (bs.length / 64)).foldl (fun c j =>
    (Chip.bottomWrite c (lineHome (a / 64 + j)) (a / 64 + j) (BitVec.ofNat 512 (leVal ((bs.drop (64 * j)).take 64)))).backInvalidate (a / 64 + j)) c

/-- A full page re-encoded to MXFP4 (R274): its bytes; none where a scale code would pass 0xFC. -/
def demotePage (fmt : Nat) (bs : List Byte) : Option (List Byte) :=
  let f := Fmt.ofCode fmt
  let row (r : Nat) := stConvert fmt 8 (fun _ => .nearestEven) false (unpack f.bits 128 ((bs.drop (r * 16 * f.bits)).take (16 * f.bits))) []
  let rows := (List.range 128).map row
  if rows.all fun x => x.2.all fun s => decide (s ≤ 0xFC) then
    some ((rows.foldr (fun x l => stPack 8 x.1 ++ l) []) ++ (rows.foldr (fun x l => x.2.map (BitVec.ofNat 8) ++ l) []))
  else none

/-- A page demoted (R349): re-encoded into its new slot, then its entry rewritten in its line. One that cannot be read or re-encoded keeps its entry. -/
def Chip.jobDemote (k : Nat) (c : Chip) (x : Nat × Nat × Nat) : Chip :=
  let l := x.2.2 / 64
  let e := c.bottomRead k (lineHome l) l
  let v := field e.2.2.toNat (8 * (x.2.2 % 64)) 64
  let r := Chip.jobRead k (x.1 / 64) (pageBytes (field v 40 4) / 64) e.1
  if e.2.1 ∨ !r.2.1 ∨ field v 0 40 ≠ x.1 then r.1
  else
    match demotePage (field v 40 4) r.2.2 with
    | none => r.1
    | some bs =>
      let c := r.1.jobWrite x.2.1 bs
      let e := c.bottomRead k (lineHome l) l
      (e.1.bottomWrite (lineHome l) l (BitVec.ofNat 512 (setField e.2.2.toNat (8 * (x.2.2 % 64)) 64 (x.2.1 + 8 * 2 ^ 40)))).backInvalidate l

/-- What a job does from its start to its JDONE. What was written over its ranges before it started has reached the vaults (R336). -/
def Chip.workDo (c : Chip) (w : Work) : Chip :=
  let rs := c.workRanges w
  let c := c.flushQueued fun l => rs.any fun r => decide (field r 0 34 ≤ l ∧ l < field r 0 34 + field r 34 22)
  match w.kind with
  | .copy => w.items.foldl (Chip.jobCopy w.cl) c
  | .demote => w.items.foldl (Chip.jobDemote w.cl) c
  | .sum => w.items.foldl (fun c x => (Chip.jobRead w.cl (x.1 / 64) (x.2.2 / 64) c).1) c
  | .patrol => c

/-! ### The course of the usher's jobs -/

/-- The chanter that runs a job. -/
def Chip.workRuns (c : Chip) (w : Work) : Option Nat :=
  (List.range 32).find? fun i => match (c.chanter w.cl i).job with | some j => j.started && j.id == w.id | none => false

/-- The usher's jobs that a condition picks. -/
def Chip.worksOf (c : Chip) (p : Work → Bool) : List Work := c.ush.works.filter p

/-- The jobs that a condition picks end: none while one of them neither runs nor has ended. Those that run do their work and end with status 0x00, but for those
at the places `failed`, which trap twice (0x04). With the module, whether every one of them ended with 0x00. -/
def Chip.worksEnd (c : Chip) (p : Work → Bool) (failed : List Nat) : Option (Chip × Bool) :=
  let ws := c.worksOf p
  if !ws.all fun w => w.status.isSome || (w.sent && (c.workRuns w).isSome) then none
  else
    let c := ws.zipIdx.foldl (fun c e =>
      match (if e.1.status.isSome then none else Chip.workRuns c e.1) with
      | none => c
      | some i =>
        if failed.contains e.2 then c.jobEnd e.1.cl i 4 (Config.jobResult e.1.id).toNat
        else (c.workDo e.1).jobEnd e.1.cl i 0 (Config.jobResult e.1.id).toNat) c
    some (c.sendWorks, (c.worksOf p).all fun w => w.status == some 0)

/-- The jobs that a condition picks, of those that ended with another status than 0x00, are issued again. -/
def Chip.worksAgain (c : Chip) (p : Work → Bool) : Chip :=
  ((c.worksOf p).foldl (fun c w =>
    if w.status.isNone ∨ w.status = some 0 then c
    else
      let r := Chip.workCluster c (w.cl / 104)
      r.2.onUsh fun u => { u with jobSeq := (u.jobSeq + 1) % 2 ^ 32, works := u.works.map fun x =>
        if x.id = w.id then { x with id := u.jobSeq, cl := r.1, sent := false, status := none } else x }) c).sendWorks

/-- The jobs that a condition picks are answered for, and forgotten. -/
def Chip.worksGone (c : Chip) (p : Work → Bool) : Chip := c.onUsh fun u => { u with works := u.works.filter fun w => !p w }

/-- The jobs that a condition picks are cancelled (R346). -/
def Chip.worksDrop (c : Chip) (p : Work → Bool) : Chip :=
  ((c.worksOf p).foldl (fun c w => if w.sent && w.status.isNone then c.jobCancel w.cl w.id else c) c).worksGone p

/-- A job serves something. -/
def Work.is (f : WorkFor) (w : Work) : Bool := w.why == f

/-! ### Patrol (R351) -/

/-- The place of a line in the order of a patrol: by vault offset. -/
def patrolKey (l : Nat) : Nat := lineNum l * 128 + lineHome l % 104

/-- The lines of a vault, user and reserve footprints alike, that a patrol may have something to report of, from a place on: over a bus without failed lanes
those whose code or raw mark is not clean. -/
def Chip.patrolLines (c : Chip) (vk cur : Nat) : List Nat :=
  let odd := c.mem.chk.map (·.1) ++ ((c.mem.raw.filter (·.2)).map (·.1)).filter fun l => Store.get zeroDWord c.mem.chk l == 0
  let all : List Nat := (List.range 96).flatMap fun v => (List.range (c.towerBytes / 64 / 96)).map (lineAt (vk / 104) v)
  let l := if (Store.get noLanes c.mem.badLanes vk).isEmpty then odd else all
  (l.filter fun l => c.ownLine vk l && decide (cur ≤ patrolKey l)).mergeSort fun a b => decide (patrolKey a ≤ patrolKey b)

/-- Lines read in order up to and with the first that is reported: the place after it, none at the end. -/
def Chip.patrolGo (vk : Nat) : List Nat → Chip → Chip × Option Nat
  | [], c => (c, none)
  | l :: ls, c =>
    if (c.lineSeen l).1 = .clean ∧ !Store.get noMark c.mem.raw l then
      Chip.patrolGo vk ls { c with mem := { c.mem with lineReads := c.mem.lineReads + 1 } }
    else ((c.decodeRead l 2 (some (.chanter ⟨Fin.ofNat 4 (vk / 104), Fin.ofNat 104 (c.clusterPos vk)⟩))).1, some (patrolKey l + 1))

/-- A patrol pass: the job is issued; once it runs it goes on. -/
def Chip.patrolPass (c : Chip) (vk : Nat) : Chip :=
  let p := Work.is (.patrol vk)
  match c.worksOf p with
  | [] => (c.addWorkAt vk .patrol (.patrol vk) [(0, 0, 0)]).sendWorks
  | w :: _ =>
    if w.status.isSome then ((c.worksGone p).addWorkAt vk .patrol (.patrol vk) w.items).sendWorks
    else
      match c.workRuns w with
      | none => c
      | some i =>
        let cur := w.items.foldl (fun _ x => x.1) 0
        let r := Chip.patrolGo vk (c.patrolLines vk cur) c
        match r.2 with
        | some n => (r.1.countLines vk (n / 128 - cur / 128) false).onUsh fun u =>
            { u with works := u.works.map fun x => if x.id = w.id then { x with items := [(n, 0, 0)] } else x }
        | none => (((r.1.countLines vk (c.towerBytes / 64 / 96 - cur / 128) false).jobEnd vk i 0 (Config.jobResult w.id).toNat).worksGone p).sendWorks

end Sys2Proof.Machine
end

