-- ==== Sys2Proof/Machine/Sessions.lean ====
section
/-! DEFINITION. What the usher does with tickets (chapter The Cloakroom and Session Life): completions, tokens, stops and parks,
demotion, spill and recall, recovery and release. -/

namespace Sys2Proof.Machine

/-! ### Accepted commands (Table 14-5) -/

/-- n bytes of an entry at a byte offset. -/
def entryN (e : Line) (off n : Nat) : Nat := field e.toNat (8 * off) (8 * n)

def entryOpc (e : Line) : Nat := entryN e 0 1
def entryCid (e : Line) : Nat := entryN e 4 2
def entryCring (e : Line) : Nat := entryN e 6 2
def entryTicket (e : Line) : Word := BitVec.ofNat 32 (entryN e 8 4)

/-- What a command's completion answers. -/
def HostCmd.ans (m : HostCmd) : Ans := ⟨BitVec.ofNat 16 (entryCid m.entry), entryCring m.entry, entryOpc m.entry, m.seq, m.sq.toNat⟩

/-- The first accepted command of an opcode for a ticket that has not taken effect. -/
def Chip.waitingCmd (c : Chip) (w : Word) (opc : Nat) : Option HostCmd :=
  c.host.accepted.find? fun m => entryOpc m.entry == opc && entryTicket m.entry == w

/-- An accepted command has taken effect. -/
def Chip.cmdTaken (c : Chip) (m : HostCmd) : Chip :=
  { c with host := { c.host with accepted := c.host.accepted.filter fun x => x.seq != m.seq } }

/-! ### Completions of a ticket (R422, Table 14-11) -/

/-- A completion that answers a command, or one that no command asked for, on its ring. -/
def Chip.postFor (c : Chip) (ring : Nat) (ans : Option Ans) (type count : Nat) (ticket : Word) (body : List Byte) : Chip :=
  let m : Completion := { type := BitVec.ofNat 8 type, count := count, cid := (ans.map (·.cid)).getD 0xFFFF, ticket := ticket,
                          body := complBody body, cmdSeq := (ans.map (·.seq)).getD 0 }
  c.post ((ans.map (·.cring)).getD ring) m

/-- The body of a DONE (Table 14-11). -/
def doneBody (ntok reason status opc tag energy : Nat) (result : List Byte) : List Byte :=
  leBytes 4 ntok ++ [BitVec.ofNat 8 reason, BitVec.ofNat 8 status, BitVec.ofNat 8 opc, 0] ++ leBytes 8 tag ++ leBytes 8 energy ++ result

/-- DONE of a ticket. -/
def Chip.postDone (c : Chip) (i reason status : Nat) (ans : Option Ans) : Chip :=
  c.postFor (c.tkCring i) ans 3 0 (c.tkWord i)
    (doneBody (c.tkNtok i) reason status 0 (c.tk i 0x70 8) (c.tk i 0x58 8) [])

/-- The protocol's major version (R426). -/
def Chip.v2 (c : Chip) : Bool := decide (0x200 ≤ c.rdF Reg.hifStat 16 16)

/-- SPILLED and RECALLED completions: under protocol 1.x the event is only journalled (R426). -/
def Chip.postMove (c : Chip) (i type : Nat) (ans : Option Ans) (body : List Byte) : Chip :=
  if c.v2 then c.postFor (c.tkCring i) ans type 0 (c.tkWord i) body
  else
    let m : Completion := { type := BitVec.ofNat 8 type, count := 0, cid := 0xFFFF, ticket := c.tkWord i, body := complBody body, cmdSeq := 0 }
    c.journal 2 m.ticket (m.postBody true (c.tkCring i) 0)

/-- The TOKENS completion of `n` log entries from the first not yet posted (R373). -/
def Chip.postTokens (c : Chip) (i n : Nat) : Chip :=
  let p := (c.aux i).posted
  let toks := (List.range n).foldr (fun k l => leBytes 3 (c.logEntry i (p + k) % 2 ^ 24) ++ l) []
  let c := c.postFor (c.tkCring i) none 1 n (c.tkWord i) (leBytes 4 p ++ toks)
  c.setAux i fun x => { x with posted := p + n }

/-- Tokens sampled and not yet posted. -/
def Chip.unposted (c : Chip) (i : Nat) : Nat := c.tkNtok i - (c.aux i).posted

/-- Post whole groups of TCOAL tokens; `n` bounds them. -/
def Chip.postGroups (c : Chip) (i : Nat) : Nat → Chip
  | 0 => c
  | n + 1 => if c.tkTcoal i ≤ c.unposted i ∧ 0 < c.tkTcoal i then (c.postTokens i (c.tkTcoal i)).postGroups i n else c

/-- Post every pending token (R373). -/
def Chip.flushTokens (c : Chip) (i : Nat) : Chip :=
  let c := c.postGroups i (c.unposted i)
  if c.unposted i = 0 then c else c.postTokens i (c.unposted i)

/-- Tokens logged and pending (R410, R421): those not yet in a completion, and those of TOKENS completions that a ring keeps. -/
def Chip.pendingTokens (c : Chip) (i : Nat) : Nat :=
  ((c.cq (c.tkCring i)).kept.filter fun m => m.type == 1#8 && m.ticket == c.tkWord i).foldl (fun n m => n + m.count) (c.unposted i)

/-- The ticket takes no decode row (R410): its ring takes nothing, and it holds TCOAL pending tokens. -/
def Chip.tokensHeld (c : Chip) (i : Nat) : Bool :=
  c.cqEnabled (c.tkCring i) && c.cqFull (c.tkCring i) && decide (c.tkTcoal i ≤ c.pendingTokens i)

/-! ### Parking (R365, R372) -/

/-- The ticket leaves RUNNING or RUNNABLE for TOOL_WAIT: the pending tokens first (R373), LSTOP with the state, then the completion; PARKQ clears.
`idx` is the stop token or sequence that matched. -/
def Chip.parkFor (c : Chip) (i reason idx : Nat) (ans : Option Ans) : Chip :=
  let seq := (ans.map (·.seq)).getD 0
  let c := c.flushTokens i
  let c := c.setStateWith i 5 seq fun l => setField (setField l (8 * 0xB) 8 reason) (8 * 5 + 6) 1 0
  let c := c.setAux i fun x => { x with preempt := false, ran := 0 }
  if reason ≤ 2 then
    c.postFor (c.tkCring i) ans 2 0 (c.tkWord i)
      (leBytes 4 (c.tkNtok i) ++ [BitVec.ofNat 8 reason, BitVec.ofNat 8 idx, 0, 0] ++ leBytes 8 (c.tk i 0x70 8) ++ leBytes 8 (c.tk i 0x58 8))
  else c.postDone i reason 0 ans

/-- Which stop token of the ticket's stop set a token equals. -/
def Chip.stopTok (c : Chip) (i t : Nat) : Option Nat :=
  let n := c.tk i 0xE 2
  if n = 0xFFFF then none
  else (List.range (c.stopNum n 0 1)).find? fun k => c.stopNum n (0x10 + 4 * k) 4 % 2 ^ 24 == t

/-- Which stop sequence the log ends on, every entry sampled in the current turn (R372). -/
def Chip.stopSeq (c : Chip) (i : Nat) : Option Nat :=
  let n := c.tk i 0xE 2
  let ntok := c.tkNtok i
  if n = 0xFFFF then none
  else (List.range (c.stopNum n 1 1)).find? fun k =>
    let len := c.stopNum n (0x50 + 4 * k) 4
    decide (c.tk i 0x14 4 + len ≤ ntok)
      && (List.range len).all fun j =>
        let e := c.logEntry i (ntok - len + j)
        bitOf e 24 && e % 2 ^ 24 == c.stopNum n (0x60 + 64 * k + 4 * j) 4 % 2 ^ 24

/-- The energy budget is spent (R372). -/
def Chip.energyOut (c : Chip) (i : Nat) : Bool := c.tk i 0x4C 4 != 0 && decide (1000 * c.tk i 0x4C 4 ≤ c.tk i 0x58 8)

/-- The first of reasons 1 to 5 that holds after a sampled token, with the index of the stop (R372). -/
def Chip.stopReason (c : Chip) (i : Nat) : Option (Nat × Nat) :=
  let ntok := c.tkNtok i
  match c.stopTok i (c.logEntry i (ntok - 1) % 2 ^ 24) with
  | some k => some (1, k)
  | none =>
    match c.stopSeq i with
    | some k => some (2, k)
    | none =>
      if c.tk i 0x18 4 ≠ 0 ∧ ntok - c.tk i 0x14 4 = c.tk i 0x18 4 then some (3, 0)
      else if 524288 ≤ ntok then some (4, 0)
      else if c.energyOut i then some (5, 0)
      else none

/-- The token sampled at a position is logged (R369), NPOS passes the position (R370), the token is tested for a stop (R372), and posted with its group
(R373): the ticket parks where it stops. None while no frame is free for the log. -/
def Chip.sampled (c : Chip) (i pos tok : Nat) : Option Chip :=
  (c.logAppend i [tok + 2 ^ 24]).map fun c =>
    let c := c.setNpos i (pos + 1)
    match c.stopReason i with
    | some (r, k) =>
      let p := c.tkNtok i - 1
      let c := if r ≤ 2 then (c.logPut i p (tok + 2 ^ 24 + 2 ^ 26)).getD c else c
      c.parkFor i r k none
    | none => c.postGroups i (c.unposted i)

/-! ### Rows in flight and table boundaries -/

/-- A row of the ticket is in a row table that is in flight. -/
def Chip.inFlight (c : Chip) (w : Word) : Bool :=
  c.ush.tables.any fun t => !t.accepted && t.rows.any fun r => r.ticket == w && !r.done

/-- The source of a FORK whose copies run (R366, R385). -/
def Chip.forkSource (c : Chip) (w : Word) : Bool :=
  c.ush.aux.any fun e => match e.2.fork with | some (src, _) => src == w | none => false

/-- Every live ticket's index. -/
def Chip.liveTickets (c : Chip) : List Nat := (List.range c.ush.freeNext).filter fun i => c.tkState i != 0

/-! ### Release (R395) -/

/-- A range of a host spill area is free again; areas list what is taken by (address, bytes). -/
def Chip.freeArea (c : Chip) (a : Option (Nat × Nat)) : Chip :=
  match a with
  | some a => { c with host := { c.host with taken := c.host.taken.filter fun (r : Nat × Nat) => r.1 != a.1 } }
  | none => c

/-- The remote chunks of a ticket: those of its tables, or, while it has none, those that went with them (R389, R391). -/
def Chip.tkRemotes (c : Chip) (i : Nat) : List (Nat × Nat × Nat) := if c.tkRoot i = 0 then (c.aux i).rem else c.remotesOf (c.tkRoot i)

/-- Another live ticket has a remote chunk in an annex (R385). -/
def Chip.annexShared (c : Chip) (i node : Nat) (annex : Nat) : Bool :=
  c.liveTickets.any fun j => j != i && (c.tkRemotes j).any fun e => field e.2.2 32 8 == node && field e.2.2 0 32 == annex

/-- Close the peers' annexes of a ticket: of its remote chunks, and of its image (R395, R459). -/
def Chip.closeAnnexes (c : Chip) (i : Nat) : Chip :=
  let c' := (c.tkRemotes i).foldl (fun c' e =>
    let node := field e.2.2 32 8
    let a := field e.2.2 0 32
    if c.annexShared i node a then c' else Chip.closeAnnex c' node (BitVec.ofNat 32 a)) c
  let sp := c.tk i 0x30 8
  if field sp 0 2 = 2 then c'.closeAnnex (field sp 8 8) (BitVec.ofNat 32 (field sp 16 32)) else c'

/-- The chunks of a ticket on their way to peers and back are given up; an annex granted for one is closed. -/
def Chip.dropChunks (c : Chip) (i : Nat) : Chip :=
  let c := c.dropReqs fun w => match w with | .chunk j _ _ => j == i | .back j _ _ _ => j == i | _ => false
  let c := (c.lk.chunks.filter fun o => o.i == i).foldl (fun c o => match o.annex with | some a => Chip.closeAnnex c o.node a | none => c) c
  { c with lk := { c.lk with chunks := c.lk.chunks.filter fun o => o.i != i, backs := c.lk.backs.filter fun o => o.i != i } }

/-- The staging areas are free for another ticket. -/
def Chip.unstage (c : Chip) (i : Nat) : Chip :=
  (c.onUsh fun u => { u with stager := if u.stager = some i then none else u.stager }).setAux i fun x => { x with pack := none }

/-- The spill in progress is abandoned: its jobs are cancelled, its transfers end, the annex or area it took is given back, the ticket stays resident (R36, R350,
R390). -/
def Chip.spillAbandon (c : Chip) (i : Nat) : Chip :=
  let x := c.aux i
  let c := (c.worksDrop (Work.is (.spill i))).unstage i
  let c := c.dropReqs fun w => w == .spill i
  let c := match x.spill, x.annex with | some (.peer n), some a => c.closeAnnex n a | _, _ => c
  let c := match x.spill with | some (.host a n true) => c.freeArea (some (a, n)) | _ => c
  (c.setFlag i 1 false).setAux i fun x => { x with spill := none, spillAns := [], annex := none }

/-- The recall in progress is given up: its jobs are cancelled, and what it allocated is free again (R391). -/
def Chip.recallDrop (c : Chip) (i : Nat) : Chip :=
  let c := (c.worksDrop (Work.is (.recall i))).unstage i
  let c := (c.aux i).slots.foldl Chip.slotDec c
  let c := c.dropReqs fun w => match w with | .recall j _ => j == i | _ => false
  let c := { c with lk := { c.lk with pieces := c.lk.pieces.filter fun p => p.1 != i } }
  (c.setFlag i 2 false).setAux i fun x => { x with recallAns := [], slots := [] }

/-- The jobs of a demotion have ended (R349, R387): for each page, its old slot where its entry names the new one, else the new one, loses its reference; a page that
could be read and whose job ended with status 0x00 has been left hot under R274. -/
def Chip.demoteSettle (c : Chip) (i : Nat) : Chip :=
  let refs := c.pagesOf (c.tkRoot i)
  let ws := c.worksOf (Work.is (.demote i))
  let c := ws.foldl (fun c w => w.items.foldl (fun c x =>
    if field (Chip.memNum c x.2.2 8) 0 40 = x.2.1 then c.slotDec x.1
    else
      let c := c.slotDec x.2.1
      match (if w.status = some 0 ∧ !c.memPoisoned x.1 (c.slotLen x.1) then refs.find? fun e => e.2.1 == x.2.2 else none) with
      | some e => c.setAux i fun y => { y with kept := y.kept ++ [e.1] }
      | none => c) c) c
  c.worksGone (Work.is (.demote i))

/-- The pages that a FORK copied, as their slots have no reference left to give (R385), take their own slots in its tables. -/
def Chip.forkPages (c : Chip) (root : Nat) (items : List (Nat × Nat × Nat)) : Chip :=
  (c.pagesOf root).foldl (fun c e =>
    match items.find? fun x => x.2.2 != 64 && x.1 == field e.2.2 0 40 with
    | some x => c.putEntry e.2.1 x.2.1 (field e.2.2 40 4)
    | none => c) c

/-- The jobs of a FORKING ticket are given up, and the usher makes its copies itself: its tables name what it counts. -/
def Chip.forkSettle (c : Chip) (i : Nat) : Chip :=
  let ws := c.worksOf (Work.is (.fork i))
  let c := (ws.filter fun w => w.status != some 0).foldl (fun c w => w.items.foldl (fun c x => Chip.copyMem c x.1 x.2.1 x.2.2) c) (c.worksDrop (Work.is (.fork i)))
  c.forkPages (c.tkRoot i) (ws.flatMap fun w => w.items)

/-- The FORKs that copy a ticket, or make it, have their copies. -/
def Chip.forksSettle (c : Chip) (i : Nat) : Chip :=
  let w := c.tkWord i
  (c.liveTickets.filter fun j => match (c.aux j).fork with | some (src, _) => j == i || src == w | none => false).foldl Chip.forkSettle c

/-- Give up demotion, spill and recall in progress: their jobs are cancelled and the slots they took are freed. -/
def Chip.dropWork (c : Chip) (i : Nat) : Chip :=
  let c := if c.tkFlag i 0 then
      ((c.worksOf (Work.is (.demote i))).foldl (fun c w => if w.sent && w.status.isNone then Chip.jobCancel c w.cl w.id else c) c).demoteSettle i
    else c
  let c := if c.tkFlag i 1 then c.spillAbandon i else c
  let c := if c.tkFlag i 2 then c.recallDrop i else c
  c.setFlag i 0 false

/-- ERROR of a command (Table 14-11), on its ring; on the ECQ of its SQ where that ring is not enabled (R422). -/
def Chip.postError (c : Chip) (a : Ans) (ticket : Word) (code off : Nat) : Chip :=
  let ring := if c.cqEnabled a.cring then a.cring else c.rdF (Reg.sqCfg a.sq) 16 8
  c.postFor ring (some { a with cring := ring }) 7 0 ticket (leBytes 2 code ++ leBytes 2 off)

/-- The pending tokens of a RUNNING ticket are posted before it leaves RUNNING (R373). -/
def Chip.flushRunning (c : Chip) (i : Nat) : Chip := if c.tkState i = 4 then c.flushTokens i else c

/-- The ticket stands in RETIRING (R395). What waits for it will end with ERROR 0x03 (R366). -/
def Chip.retire (c : Chip) (i : Nat) (ans : List Ans) : Chip :=
  let c := c.dropWork i
  let c := c.forksSettle i
  let c := c.flushRunning i
  let c := c.setAux i fun x =>
    { x with release := x.release ++ ans, leave := false, lost := [], fresh := [], retSeq := c.rdF Reg.jtail 0 48 }
  c.setState i 10 ((ans.head?.map (·.seq)).getD 0)

/-- The resources of a RETIRING ticket are freed (R395): slots, tables, log, stop set, maps, spill area; GEN rises, the index joins the
list, and DONE is posted for each RELEASE that asked. -/
def Chip.releaseDone (c : Chip) (i : Nat) : Chip :=
  let x := c.aux i
  let w := c.tkWord i
  let body := doneBody (c.tkNtok i) 8 0 0 (c.tk i 0x70 8) (c.tk i 0x58 8) []
  let ring := c.tkCring i
  let c := (c.dropChunks i).closeAnnexes i
  let c := c.dropTables (c.tkRoot i)
  let c := c.dropLog i
  let c := c.dropStop (c.tk i 0xE 2)
  let c := x.maps.foldl (fun c m => c.freeBlock m.addr) c
  let c := c.freeArea x.area
  let c := c.setStateWith i 0 ((x.release.head?.map fun a => a.seq).getD 0) id
  let c := (c.tkPut i 0 64 (setField (nextTicket w.toNat) (8 * 0x28) 64 (c.tkSince i))).tkPut i 64 64 0
  let c := c.onUsh fun u => { u with freeTail := u.freeTail ++ [i], aux := Store.put noAux u.aux i TkAux.empty }
  x.release.foldl (fun c a => c.postFor ring (some a) 3 0 w body) c

/-- A PARK or a RELEASE waits for the ticket's table boundary (R384, R395). -/
def Chip.leaving (c : Chip) (w : Word) : Bool := (c.waitingCmd w 4).isSome || (c.waitingCmd w 6).isSome

/-- A table boundary of the ticket (R379): a preemption that waited for it. The commands that did are asked to take effect after it. -/
def Chip.boundary (c : Chip) (i : Nat) : Chip :=
  if c.inFlight (c.tkWord i) ∨ c.tkState i ≠ 4 ∨ !(c.aux i).preempt ∨ c.leaving (c.tkWord i) then c
  else (c.setState i 3 0).setAux i fun x => { x with preempt := false, ran := 0 }

/-! ### Demotion (R274, R349, R387) -/

/-- Full pages of the ticket in its hot format that no earlier demotion left hot. -/
def Chip.demotable (c : Chip) (i : Nat) : List (PageRef × Nat × Nat) :=
  (c.pagesOf (c.tkRoot i)).filter fun e =>
    field e.2.2 40 4 != 8 && decide ((e.1.k * 64 + e.1.page + 1) * 128 ≤ c.npos i) && !(c.aux i).kept.contains e.1

/-- DEMAFTER in ms; none is never (Table 13-2). -/
def Chip.demAfter (c : Chip) (i : Nat) : Option Nat :=
  let d := c.tk i 0x1C 4
  if d = 0xFFFFFFFF then none else some (if d = 0 then c.rdF Reg.clkcfg 0 32 else d)

/-- Items with equal keys, one after another, together. -/
def groupItems : List (PageRef × Nat × Nat × Nat) → List (PageRef × List (Nat × Nat × Nat))
  | [] => []
  | (r, x) :: l =>
    match groupItems l with
    | (q, xs) :: gs => if q = r then (r, x :: xs) :: gs else (r, [x]) :: (q, xs) :: gs
    | [] => [(r, [x])]

/-- DEMOTION_START of a ticket (R387): DEMOTING, class-N slots for its pages as far as there are frames, and a job for each page list that has some. A ticket that a FORK
copies is not demoted meanwhile (R341). DEDUCED: log entry 52. -/
def Chip.demoteStart (c : Chip) (i : Nat) : Chip :=
  let x := c.aux i
  let from_ := if x.demAt = 0 then c.tkSince i else max (c.tkSince i) x.demAt.toNat
  match c.demAfter i with
  | none => c
  | some ms =>
    if c.tkState i = 5 ∧ c.tkHot i ≠ 8 ∧ field (c.tk i 5 1) 0 3 = 0 ∧ from_ + ms * 1000000 ≤ c.now.toNat ∧ !(c.demotable i).isEmpty
        ∧ !c.forkSource (c.tkWord i) then
      let r := (c.demotable i).foldl (fun (r : Chip × List (PageRef × Nat × Nat × Nat)) e =>
        match Chip.takeSlot r.1 e.1.t 1 with
        | none => r
        | some (c, a) => (c, r.2 ++ [({ e.1 with page := 0 }, field e.2.2 0 40, a, e.2.1)])) (c.setFlag i 0 true, [])
      ((groupItems r.2).foldl (fun c g => Chip.addWork c g.1.t .demote (.demote i) g.2) r.1).sendWorks
    else c

/-- DEMOTION_END: the demotion's jobs end; `failed` are those, by their place in its order, that trap twice. DEDUCED: log entry 52. -/
def Chip.demoteEnd (c : Chip) (i : Nat) (failed : List Nat) : Chip :=
  if !c.tkFlag i 0 ∨ c.tkState i ≠ 5 then c
  else
    match c.worksEnd (Work.is (.demote i)) failed with
    | none => c
    | some (c, _) =>
      let c := (c.demoteSettle i).setAux i fun x => { x with demAt := c.now }
      let mixed := (c.pagesOf (c.tkRoot i)).any fun e => field e.2.2 40 4 == 8
      let flags := setField (c.tk i 5 1) 0 1 0 ||| (if mixed then 8 else 0)
      if (c.demotable i).isEmpty then c.setStateWith i 6 0 fun l => setField l 40 8 flags else c.tkPut i 5 1 flags

/-! ### Spill and recall (R388 to R391) -/

/-- CRC of a spill image with its CRC field taken as zero (Table 13-7), from the value that its bytes have given so far. -/
def crcDone (s : Nat) : Nat := 2 ^ 32 - 1 - s

def imageCrc (bs : List Byte) : Nat := crcDone (crc32c (2 ^ 32 - 1) (bs.take 0x1C ++ leBytes 4 0 ++ bs.drop 0x20))

/-- The head of an image, up to its first page, with the CRC field zero (Table 13-7): header, page index and remote list. -/
def Chip.imageHead (c : Chip) (i mid : Nat) : List Byte :=
  let root := c.tkRoot i
  let ps := c.pagesOf root
  let idx := ps.map fun e => BitVec.ofNat 8 (field e.2.2 40 4)
  let rem := c.remotesOf root
  let remoff := (0x80 + idx.length + 7) / 8 * 8
  let pageoff := (remoff + 8 * rem.length + 4095) / 4096 * 4096
  let total := pageoff + (ps.map fun e => pageBytes (field e.2.2 40 4)).sum
  let remote := rem.foldr (fun e l => leBytes 8 (e.2.1 + e.1 * 2 ^ 6 + field e.2.2 32 8 * 2 ^ 8 + field e.2.2 0 32 * 2 ^ 16) ++ l) []
  let head := leBytes 4 0x4C4C5053 ++ leBytes 2 1 ++ [BitVec.ofNat 8 (c.tkHot i), 0] ++ leBytes 4 (c.tkTicket i) ++ leBytes 4 (c.npos i)
    ++ leBytes 4 mid ++ leBytes 4 idx.length ++ leBytes 4 rem.length ++ leBytes 4 0
    ++ (List.range 4).map (fun t => BitVec.ofNat 8 (c.rootHt root t)) ++ leBytes 4 0
    ++ leBytes 8 remoff ++ leBytes 8 pageoff ++ leBytes 8 total ++ leBytes 64 0
  let body := head ++ idx
  body ++ leBytes (remoff - body.length) 0 ++ remote ++ leBytes (pageoff - remoff - remote.length) 0

/-- A head with its CRC. -/
def headCrc (h : List Byte) (crc : Nat) : List Byte := h.take 0x1C ++ leBytes 4 crc ++ h.drop 0x20

/-- Bytes of a ticket's image. -/
def Chip.spillLength (c : Chip) (i : Nat) : Nat := imN (c.imageHead i 0) 0x38 8

/-! #### Staging (R390, R391, R600) -/

/-- Bytes of the staging area of a tower, and its base. -/
def Chip.stageArea (c : Chip) (t : Nat) : Nat × Nat := listGet (0, 0) c.ush.layout.stage t

/-- The pages that the staging areas take at once, from the front of a list of (tower, bytes), `used` bytes being taken in each tower: where each comes to lie. -/
def Chip.stageFit (c : Chip) (used : Store Nat) : List (Nat × Nat) → List Nat
  | [] => []
  | (t, n) :: l =>
    let u := Store.get zeroNat used t
    if u + n ≤ (c.stageArea t).2 then ((c.stageArea t).1 + u) :: Chip.stageFit c (Store.put zeroNat used t (u + n)) l else []

/-- The pages of a ticket still to pack: tower, bytes and slot; and those of the next window with their places in the staging areas. -/
def Chip.packPages (c : Chip) (i done : Nat) : List (Nat × Nat × Nat) :=
  ((c.pagesOf (c.tkRoot i)).drop done).map fun e => (e.1.t, pageBytes (field e.2.2 40 4), field e.2.2 0 40)
def Chip.packWindow (c : Chip) (i done : Nat) : List (Nat × Nat × Nat) :=
  let l := c.packPages i done
  (l.zip (c.stageFit [] (l.map fun x => (x.1, x.2.1)))).map fun x => (x.1.2.2, x.2, x.1.2.1)

/-- A spill stands at a place of its image. -/
def Chip.setPack (c : Chip) (i : Nat) (k : Pack) : Chip := c.setAux i fun x => { x with pack := some k }

/-- The packing of a spill's next window (R390 step 2). -/
def Chip.spillWindow (c : Chip) (i : Nat) (k : Pack) : Chip :=
  ((c.addCopies (.spill i) (c.packWindow i k.done)).setPack i { k with sum := false }).sendWorks

/-- Chanters take the CRC of a packed window (R390 step 3), at most 256 pages a job. -/
def Chip.spillSum (c : Chip) (i : Nat) (k : Pack) : Chip :=
  let w := (c.packWindow i k.done).map fun x => (x.2.1, 0, x.2.2)
  (((chunksOf 256 (w.length + 1) w).foldl (fun c l => Chip.addWork c (match l with | x :: _ => x.1 / 2 ^ 38 | [] => 0) .sum (.spill i) l) c).setPack i
    { k with sum := true }).sendWorks

/-- A spill takes the staging areas, if no other ticket has them, and packs its first window. -/
def Chip.spillStage (c : Chip) (i mid : Nat) : Chip :=
  if c.ush.stager.isSome then c
  else
    let h := c.imageHead i mid
    (c.onUsh fun u => { u with stager := some i }).spillWindow i ⟨0, h.length, false, crc32c (2 ^ 32 - 1) h, false⟩

/-- Bytes of an image go to its target at an offset (R390 step 4). -/
def Chip.spillPut (c : Chip) (i off : Nat) (bs : List Byte) : Chip :=
  match (c.aux i).spill, (c.aux i).annex with
  | some (.host a _ _), _ => { c with hostMem := Memory.setBytes c.hostMem (a + off) bs }
  | some (.peer n), some x => c.putAll n x (.spill i) off bs
  | _, _ => c

/-- The commit of a spill (R390 steps 5 and 6): the image stands at its target, the descriptor line says so, the KV goes. -/
def Chip.spillCommit (c : Chip) (i : Nat) (im : List Byte) : Chip :=
  let x := c.aux i
  match x.spill with
  | none => c
  | some tgt =>
    let loc := match tgt with | .host a _ _ => 1 + a / 64 * 64 | .peer n => 2 + n * 2 ^ 8 + (match x.annex with | some a => a.toNat | none => 0) * 2 ^ 16
    let np := c.npos i
    let root := c.tkRoot i
    let len := c.spillLength i
    let img := (c.pagesOf root).map fun e => (e.1, field e.2.2 40 4)
    let rem := c.remotesOf root
    let map := c.rootMap im root
    let area : Option (Nat × Nat) := match tgt with | .host a n true => some (a, n) | _ => none
    let c := (c.unstage i).setAux i fun x =>
      { x with npos := np, spill := none, spillAns := [], area := area, imgLen := len, img := img, imgMap := map, annex := none, rem := rem }
    let c := c.setStateWith i 7 ((x.spillAns.head?.map (·.seq)).getD 0) fun l =>
      setField (setField (setField l (8 * 5 + 1) 1 0) (8 * 0x20) 64 0) (8 * 0x30) 64 loc
    let c := c.dropTables root
    let body := leBytes 4 np ++ [BitVec.ofNat 8 (loc % 4), 0, 0, 0] ++ leBytes 8 len ++ leBytes 8 loc
    if x.spillAns.isEmpty then c.postMove i 4 none body else x.spillAns.foldl (fun c a => c.postMove i 4 (some a) body) c

/-- Whether a link still carries a request that serves a ticket's spill. -/
def Chip.spillSending (c : Chip) (i : Nat) : Bool :=
  c.lk.link.any fun e => e.2.out.any (fun r => r.why == .spill i) || e.2.waiting.any fun r => r.2 == .spill i

/-- Who reads a spill's image at an offset: the link that carries it to a peer (R433), else the usher. -/
def Chip.spillReader (c : Chip) (i off : Nat) : Requester :=
  match (c.aux i).spill with
  | some (.peer n) => c.linkFor n off
  | _ => .usher

/-- Who writes a recall's image at an offset: the link that brings it from a peer (R433), else the usher. -/
def Chip.recallWriter (c : Chip) (i off : Nat) : Requester :=
  let sp := c.tk i 0x30 8
  if field sp 0 2 = 2 then c.linkFor (field sp 8 8) off else .usher

/-- A spill whose jobs have ended goes on: the CRC of the window is taken; then its bytes go from the staging areas to the target, and the next window is packed. After the
last one the head goes out with the CRC, and the commit follows once the target has everything. A page that could not be read ends the spill. -/
def Chip.spillOn (c : Chip) (i mid : Nat) (im : List Byte) (k : Pack) : Chip :=
  let w := c.packWindow i k.done
  let c := c.worksGone (Work.is (.spill i))
  if k.sent then (if c.spillSending i then c else c.spillCommit i im)
  else if w.any fun x => c.memPoisoned x.2.1 x.2.2 then c.spillAbandon i
  else if !k.sum && !w.isEmpty then c.spillSum i k
  else
    let r := w.foldl (fun (r : Chip × List Byte) x => let q := Chip.fetchGo (Chip.spillReader r.1 i (k.off + r.2.length)) 0 (x.2.2 / 64 + 2) x.2.1 x.2.2 r.1; (q.1, r.2 ++ q.2.2)) (c, [])
    let c := r.1.spillPut i k.off r.2
    let k := { k with done := k.done + w.length, off := k.off + r.2.length, crc := crc32c k.crc r.2 }
    if !(c.packPages i k.done).isEmpty then c.spillWindow i k
    else
      let h := headCrc (c.imageHead i mid) (crcDone k.crc)
      let s := c.stageArea 0
      let c := ((c.memWrite s.1 (h.take s.2)).spillPut i 0 h).setPack i { k with sent := true }
      if c.spillSending i then c else c.spillCommit i im

/-- The first n bytes of an image from its pieces (offset, bytes); none where pieces are still to come. -/
def joinPieces (n : Nat) (ps : List (Nat × List Byte)) : Option (List Byte) :=
  match (ps.mergeSort fun a b => decide (a.1 ≤ b.1)).foldl (fun (acc : Option (List Byte)) p =>
    acc.bind fun bs => if p.1 = bs.length then some (bs ++ p.2) else none) (some []) with
  | some bs => if n ≤ bs.length then some (bs.take n) else none
  | none => none

/-- Whether an image belongs to a ticket and is whole (R391 step 2); its index is the one that the ticket was spilled with. DESIGN CHOICE: log entry 140. -/
def Chip.imageOk (c : Chip) (i mid : Nat) (img : List Byte) : Bool :=
  imN img 0 4 == 0x4C4C5053 && imN img 4 2 == 1 && imN img 8 4 == c.tkTicket i && imN img 0xC 4 == c.npos i && imN img 0x10 4 == mid
    && img.length == imN img 0x38 8 && imN img 0x1C 4 == imageCrc img
    && (imB img 0x80 (imN img 0x14 4)).map (fun b => b.toNat % 16) == (c.aux i).img.map (·.2)

/-- Fill a page of a chunk that comes back: a slot in its head's tower, its bytes, which a link brought, its entry. -/
def Chip.recallPage (who : Requester) (c : Chip) (root fmt : Nat) (r : PageRef) (bs : List Byte) : Option Chip :=
  match c.needChunk root r.t r.k with
  | none => none
  | some c =>
    match c.entryAddr root r, c.takeSlot r.t (slotClass fmt) with
    | some a, some (c, s) => some ((Chip.memWriteAs who c s bs).putEntry a s fmt)
    | _, _ => none

/-- Fill the pages in order from the index and the page bytes, which a node sent; `off` is their place in its image. -/
def Chip.recallPages (node root : Nat) : List PageRef → List Byte → Nat → List Byte → Chip → Option Chip
  | [], _, _, _, c => some c
  | _, [], _, _, c => some c
  | r :: rs, f :: fs, off, bs, c =>
    let fmt := f.toNat % 16
    match Chip.recallPage (c.linkFor node off) c root fmt r (bs.take (pageBytes fmt)) with
    | none => none
    | some c => Chip.recallPages node root rs fs (off + pageBytes fmt) (bs.drop (pageBytes fmt)) c

/-- Slots for every page of an image, each in its head's tower (R391 step 1): none where a tower lacks frames. -/
def Chip.recallSlots (c : Chip) : List (PageRef × Nat) → Option (Chip × List Nat)
  | [] => some (c, [])
  | (r, f) :: l =>
    match c.takeSlot r.t (slotClass f) with
    | none => none
    | some (c, a) => (Chip.recallSlots c l).map fun q => (q.1, a :: q.2)

/-- A recall allocates its slots and begins to read its image (R391 steps 1 and 2): a peer's by GETs (R459). Without frames it waits, and the usher frees some under R388. -/
def Chip.recallBegin (c : Chip) (i : Nat) (im : List Byte) : Chip :=
  let x := c.aux i
  let img := x.img.map fun e => (moveRef im x.imgMap c.nTow e.1, e.2)
  match c.recallSlots img with
  | none => c.onUsh fun u => { u with lack := true }
  | some (c, l) =>
    let c := c.setAux i fun x => { x with img := img, imgMap := c.nTow, slots := l, recallAt := c.act + 1, recallBad := false }
    let sp := c.tk i 0x30 8
    if field sp 0 2 = 2 then c.getAll (field sp 8 8) (BitVec.ofNat 32 (field sp 16 32)) (fun o => .recall i o) x.imgLen else c

/-- The state that a recall's commit gives (R391 step 4): DEMOTED if any page is MXFP4. -/
def Chip.recallState (c : Chip) (i : Nat) : Nat := if (c.aux i).img.any fun e => e.2 == 8 then 6 else 5

/-- The commit of a recall (R391 steps 3 to 5) whose pages stand in their slots: none where frames for the tables lack. -/
def Chip.recallCommit (c : Chip) (i : Nat) (im img : List Byte) : Option Chip :=
  let x := c.aux i
  let pages := x.img.zip x.slots
  match c.newRoot im x.npos with
  | none => none
  | some (c, root) =>
    let c := (List.range (imN img 0x18 4)).foldl (fun c k =>
      let e := imN img (imN img 0x28 8 + 8 * k) 8
      if c.rootHt root (field e 6 2) = 0 then c
      else Chip.memWriteNum c (field (c.tdir root (field e 6 2)) 0 40 + 8 * field e 0 6) 8 (field e 16 32 + field e 8 8 * 2 ^ 32 + 2 ^ 63)) c
    let r := pages.foldl (fun (r : Option Chip) e =>
      match r with
      | none => none
      | some c =>
        (Chip.needChunk c root e.1.1.t e.1.1.k).map fun c =>
          match c.entryAddr root e.1.1 with
          | some a => c.putEntry a e.2 e.1.2
          | none => c) (some c)
    match r with
    | none => none
    | some c =>
      let st := c.recallState i
      let sp := c.tk i 0x30 8
      let c := c.setStateWith i st ((x.recallAns.head?.map (·.seq)).getD 0) fun l =>
        setField (setField (setField l (8 * 5 + 2) 1 0) (8 * 0x20) 64 root) (8 * 0x30) 64 0
      let c := (c.freeArea x.area).unstage i
      let c := { c with lk := { c.lk with pieces := c.lk.pieces.filter fun p => p.1 != i } }
      let c := c.setAux i fun x => { x with recallAns := [], area := none, slots := [] }
      let c := if field sp 0 2 = 2 then c.closeAnnex (field sp 8 8) (BitVec.ofNat 32 (field sp 16 32)) else c
      let body := leBytes 4 x.npos ++ [BitVec.ofNat 8 st]
      some (if x.recallAns.isEmpty then c.postMove i 5 none body else x.recallAns.foldl (fun c a => c.postMove i 5 (some a) body) c)

/-- The pages of a recall's next window: image offset, place in the staging areas, bytes and slot. -/
def Chip.recallPart (c : Chip) (i : Nat) (k : Pack) : List (Nat × Nat × Nat × Nat) :=
  let l := ((c.aux i).img.zip (c.aux i).slots).drop k.done
  let offs := l.foldl (fun (r : List Nat × Nat) e => (r.1 ++ [r.2], r.2 + pageBytes e.1.2)) ([], k.off)
  ((l.zip offs.1).zip (c.stageFit [] (l.map fun e => (e.1.1.t, pageBytes e.1.2)))).map fun x => (x.1.2, x.2, pageBytes x.1.1.1.2, x.1.1.2)

/-- A recall puts the next window of its image into the staging areas, and the jobs copy it into the slots (R391 steps 2 and 3). -/
def Chip.recallWindow (c : Chip) (i : Nat) (img : List Byte) (k : Pack) : Chip :=
  let w := c.recallPart i k
  let c := w.foldl (fun c x => Chip.memWriteAs (Chip.recallWriter c i x.1) c x.2.1 ((img.drop x.1).take x.2.2.1)) c
  ((c.addCopies (.recall i) (w.map fun x => (x.2.1, x.2.2.2, x.2.2.1))).setPack i k).sendWorks

/-- A good image of a recall goes on: the first window once the staging areas are free, then one after another, then the commit. -/
def Chip.recallOn (c : Chip) (i : Nat) (im img : List Byte) : Chip :=
  match (c.aux i).pack with
  | none => if c.ush.stager.isSome then c
    else (c.onUsh fun u => { u with stager := some i }).recallWindow i img ⟨0, imN img 0x30 8, false, 0, false⟩
  | some k =>
    let w := c.recallPart i k
    let k := { k with done := k.done + w.length, off := k.off + (w.map fun x => x.2.2.1).sum }
    let c := c.worksGone (Work.is (.recall i))
    if k.done < (c.aux i).img.length then c.recallWindow i img k
    else
      let c := c.setPack i k
      (c.recallCommit i im img).getD (c.onUsh fun u => { u with lack := true })

/-! ### Recovery (R392) -/

/-- Positions of the page indices of a list, below NPOS, ascending. -/
def lostPositions (idx : List Nat) (npos : Nat) : List Nat :=
  (List.range 4096).foldl (fun l i => if idx.contains i then l ++ (List.range 128).filterMap fun p =>
    if i * 128 + p < npos then some (i * 128 + p) else none else l) []

/-- Fresh slots for every page of a lost index (R392 step 3); none where a tower lacks frames. -/
def Chip.freshIndex (c : Chip) (root hot lskip idx : Nat) : Option Chip :=
  (c.refsAt root (idx / 64) (idx % 64) lskip).foldl (fun c r =>
    match c with
    | none => none
    | some c =>
      match Chip.needChunk c root r.t r.k with
      | none => none
      | some c =>
        match Chip.entryAddr c root r with
        | none => some c
        | some a =>
          let e := Chip.memNum c a 8
          (Chip.takeSlot c r.t (slotClass hot)).map fun x =>
            let c := x.1.putEntry a x.2 hot
            if bitOf e 44 then c else c.slotDec (field e 0 40)) (some c)

/-- Fresh slots for the lost indices of a ticket that lack them, as far as its towers have frames; a ticket that a failed recall left without
tables gets them first, its remote chunks in place. -/
def Chip.refresh (c : Chip) (i : Nat) (im : List Byte) : Chip :=
  let x := c.aux i
  let rooted : Option Chip :=
    if c.tkRoot i ≠ 0 then some c
    else (c.newRoot im x.npos).map fun r =>
      (x.rem.foldl (fun c e => Chip.memWriteNum c (field (c.tdir r.2 e.1) 0 40 + 8 * e.2.1) 8 e.2.2) r.1).tkPut i 0x20 8 r.2
  match rooted with
  | none => c
  | some c =>
    x.fresh.foldl (fun c k =>
      match Chip.freshIndex c (c.tkRoot i) (c.tkHot i) (c.tk i 0x50 8) k with
      | none => c
      | some c => c.setAux i fun y => { y with fresh := y.fresh.filter fun n => n != k }) c

/-- A ticket goes to RECOVERING for the page indices that are lost (R392), in the state `rst` to which it will return. Demotion and spill in progress are given
up (R365). -/
def Chip.recoverFor (c : Chip) (i rst : Nat) (im : List Byte) (idx : List Nat) : Chip :=
  let st := c.tkState i
  let c := (c.dropWork i).forksSettle i
  let c := c.flushRunning i
  let c := if st = 9 then c else c.setStateWith i 9 0 (putRstate rst)
  let c := c.setAux i fun x =>
    { x with lost := (x.lost ++ (lostPositions idx (c.npos i)).filter fun p => !x.lost.contains p).mergeSort fun a b => decide (a ≤ b), ran := 0,
             fresh := x.fresh ++ idx.filter fun k => !x.fresh.contains k }
  let c := c.onUsh fun u => { u with tables := u.tables.map fun t =>
    { t with rows := t.rows.map fun r => if r.ticket = c.tkWord i then { r with done := true } else r } }
  c.refresh i im

/-- A resident ticket goes to RECOVERING: RSTATE is RUNNABLE for a RUNNING ticket, the state it is in for any other. -/
def Chip.recoverStart (c : Chip) (i : Nat) (im : List Byte) (idx : List Nat) : Chip :=
  c.recoverFor i (if c.tkState i = 4 then 3 else c.tkState i) im idx

end Sys2Proof.Machine
end

