-- ==== Sys2Proof/Machine/Epochs.lean ====
section
/-! DEFINITION. Epochs and changeovers (R306 to R315): the epoch word, the plan selected, regions, gallery maps, the outstanding count,
the changeover record and its moves, and the load of stages. -/

namespace Sys2Proof.Machine

/-! ### The plan selected -/

def noModel : Nat → ModelSlot := fun _ => ModelSlot.empty

/-- A model index. -/
def Chip.model (c : Chip) (m : Nat) : ModelSlot := Store.get noModel c.ush.models m
def Chip.setModel (c : Chip) (m : Nat) (v : ModelSlot) : Chip := c.onUsh fun u => { u with models := Store.put noModel u.models m v }

/-- An index holds a model. -/
def Chip.loaded (c : Chip) (m : Nat) : Bool := !(c.model m).image.isEmpty

/-- MODELID of an index. -/
def Chip.modelId (c : Chip) (m : Nat) : Nat := mdlId (c.model m).image

/-- The plan id of a phase under a selection; none where it names none (R300). -/
def Selection.planOf (s : Selection) (phase : Nat) : Option Nat :=
  match phase with
  | 0 => if s.pplan = 0xFFFF then none else some s.pplan
  | 1 => some s.dplan
  | _ => if s.tplan = 0xFFFF then none else some s.tplan

/-- The model index and plan id that a changeover goes to. DEDUCED: log entry 89. -/
def Chip.nextPlan (c : Chip) : Option (Nat × Nat) :=
  match c.ush.sel with
  | none => none
  | some s => (s.planOf c.ush.want).map fun p => (s.midx, p)

/-- The plan section of a model index. -/
def Chip.planSect (c : Chip) (p : Nat × Nat) : List Byte := (imPlan (c.model p.1).image p.2).getD []

/-- The plan loaded: its model index and section. -/
def Chip.curPlan (c : Chip) : Option (Nat × List Byte) := c.ush.plan.map fun p => (p.1, c.planSect p)

/-- Gallery keys that the plan gives a stage: key, tower, logical gallery, SID; under the maps in force. -/
def Chip.placed (c : Chip) (p : List Byte) : List (Nat × Nat × Nat × Nat) := (planPlaces p).map fun x => (c.logKey x.1 x.2.1, x)

/-- Gallery keys of the plan loaded. -/
def Chip.planGals (c : Chip) : List Nat :=
  match c.curPlan with
  | none => []
  | some x => (c.placed x.2).map (·.1)

/-! ### Regions (R296) -/

/-- Where the region bindings of a model hold region r of a plan's instance in a tower, once a COPY has moved it (R314). -/
def bindingOf (plan t r : Nat) : Nat := plan * 64 + t * 16 + r

/-- Base of region r of a plan as tower t sees it. -/
def Chip.regionBase (c : Chip) (midx : Nat) (p : List Byte) (t r : Nat) : Nat :=
  let e := plRegion p r
  let m := c.model midx
  let tw := if imN e 1 1 = 0xFF then t else imN e 1 1
  let y := c.ush.layout
  match Store.get zeroNat m.moved (bindingOf (imN p 4 2) tw r) with
  | 0 =>
    match regionKind p r with
    | 1 => match m.weights.find? fun w => w.1 == imN e 4 4 && w.2.1 == tw with | some w => w.2.2 | none => 0
    | 2 => (match (List.range (2 ^ 17)).find? fun f => c.inPool (tw * 2 ^ 17 + f) with | some f => tw * 2 ^ 17 + f | none => 0) * 2 ^ 21
    | 3 => listGet 0 y.rows tw
    | 6 => listGet 0 y.result tw
    | 7 => listGet 0 y.shadow tw
    | 8 => y.dt0
    | 0 => 0
    | _ =>
      listGet 0 m.scratch tw + (List.range (r - 1)).foldl (fun a i =>
        let e := plRegion p (i + 1)
        if (regionKind p (i + 1) = 4 ∨ regionKind p (i + 1) = 5) ∧ (imN e 1 1 = 0xFF ∨ imN e 1 1 = tw) then a + imN e 8 8 else a) 0
  | b => b

/-! ### The epoch word (R306, R320) -/

/-- Write the epoch word; MOD.EPOCH follows, and an EPOCH event (Table 19-7). -/
def Chip.setEpoch (c : Chip) (epoch state crec : Nat) : Chip :=
  let c := c.critWrite 0 (epoch + state * 2 ^ 32 + crec / 4096 * 2 ^ 36)
  let c := ((c.wrF Reg.epoch 0 32 epoch).wrF Reg.epoch 32 3 state).event 0 424 11 0 (state + epoch * 2 ^ 16)
  c.onUsh fun u => { u with since := c.act }

/-- A journal entry of the epoch (Table 14-15). -/
def Chip.journalEpoch (c : Chip) (what : Nat) : Chip :=
  c.journal 4 0 ([BitVec.ofNat 8 what, 0, 0, 0] ++ leBytes 4 c.epoch.toNat ++ leBytes 2 (c.rdF Reg.epoch 48 16))

/-- The epoch after another (R306). -/
def nextEpoch (e : Nat) : Nat := if e = 2 ^ 32 - 1 then 1 else e + 1

/-! ### Gallery maps (R199, R201) -/

/-- A row of a column that the map must leave out: fused bad, or fenced. -/
def Chip.rowBad (c : Chip) (t col r : Nat) : Bool := c.bit (Reg.rctl t (13 * col + r)) 1 || c.bit (Reg.rctl t (13 * col + r)) 0

/-- OUT and FB of a column from the map in force; none where it would need a second fallback row. -/
def Chip.mapColumn (c : Chip) (t col : Nat) : Option (Nat × Nat) :=
  let out := c.rdF (Reg.gmap t) (8 * col) 4
  match (List.range 13).filter (c.rowBad t col) with
  | [] => some (if out ≤ 12 then out else 12, 15)
  | [r] => some (r, 15)
  | [r, q] => if q = out then some (q, r) else some (r, q)
  | _ => none

/-- The gallery map of a tower (Table 8-11); none where some column would need a second fallback row. -/
def Chip.mapWord (c : Chip) (t : Nat) : Option Nat :=
  (List.range 8).foldr (fun col acc =>
    match acc, c.mapColumn t col with
    | some v, some x => some (x.1 + 16 * x.2 + 256 * v)
    | _, _ => none) (some 0)

/-- Present towers. -/
def Chip.towers (c : Chip) : List Nat := (List.range 4).filter c.hasTower

/-- Load the maps of the critical words into the routers and GMAP, with GID.LGAL (R201). -/
def Chip.loadMaps (c : Chip) : Chip :=
  c.towers.foldl (fun c t =>
    let v := (c.critValue (0x30 + 8 * t)).getD (c.rd (Reg.gmap t))
    let c := c.wr (Reg.gmap t) v
    let c := (List.range 104).foldl (fun c p =>
      let fb := decide (field v (8 * (p / 13) + 4) 4 = p % 13)
      c.onGal (t * 104 + p) fun g => { g with lgal := 127, shadow := g.shadow && fb }) c
    (List.range 96).foldl (fun c g => c.onGal (c.logKey t g) fun x => { x with lgal := BitVec.ofNat 7 g }) c) c

/-! ### Closing (R308, R310, R311) -/

/-- Descriptors issued and not completed on the queues of a gallery. -/
def Gallery.outstanding (g : Gallery) : Nat := (List.range 5).foldl (fun a q => a + (g.queue q).entries.length) 0

/-- A chanter job of the epoch's steps (USH = 0) that is queued or given to a chanter. -/
def Chip.stepJobs (c : Chip) : Nat :=
  c.chc.foldl (fun a e => a + (e.2.queue.filter fun r => !bitOf r.toNat 56).length
    + (e.2.chanters.filter fun x => match x.2.job with | some j => !bitOf j.record.toNat 56 | none => false).length) 0

/-- STEP of the table has retired in every gallery of the plan: its results are expected (R308, R310). -/
def Chip.stepRetired (c : Chip) (t : RowTable) : Bool :=
  match c.curPlan with
  | none => false
  | some x =>
    (c.placed x.2).all fun y =>
      let g := c.gal y.1
      let lag := match t.lags.find? fun l => l.1 == y.2.1 * 96 + y.2.2.1 with | some l => l.2 | none => 0
      g.stepped && decide (t.batch + lag ≤ g.gstep.toNat)

/-- Result records expected. -/
def Chip.resultsDue (c : Chip) : Nat :=
  c.ush.tables.foldl (fun a t =>
    if !t.accepted && c.stepRetired t then a + (t.rows.filter fun r => r.kind == .sample && !r.done).length else a) 0

/-- Holmund requests of the epoch that await an answer. -/
def Chip.linkRequests (c : Chip) : Nat :=
  c.lk.link.foldl (fun a e => a + (e.2.out.filter fun r => !r.txn.ush).length) 0 + (c.lk.attn.filter fun a => a.got.isNone).length

/-- The outstanding count of the epoch (R308). -/
def Chip.outstanding (c : Chip) : Nat :=
  c.gals.foldl (fun a e => if c.fenced e.1 then a else a + e.2.outstanding) 0 + c.stepJobs + c.linkRequests + c.resultsDue

/-- Every gallery of the plan stands held (R71), or is fenced. -/
def Chip.allHeld (c : Chip) : Bool := c.planGals.all fun k => c.fenced k || (c.gal k).standsHeld

/-- The usher holds every gallery and enters CLOSING (R309, R310). -/
def Chip.closingStart (c : Chip) : Chip :=
  if c.epochState ≠ 1 then c
  else
    let c := c.gals.foldl (fun c e => Chip.holdGal c e.1) c
    (c.setEpoch c.epoch.toNat 2 0).journalEpoch 1

/-! ### Moves (R312 to R314) -/

/-- Address of move record n, and of copy k of its flip word. -/
def Chip.moveAddr (c : Chip) (n : Nat) : Nat := c.ush.layout.moves + 32 * n
def Chip.flipAddr (c : Chip) (n k : Nat) : Nat := c.ush.layout.flips + 768 * (n / 32) + 256 * k + 8 * (n % 32)

/-- Write a move record and its flip words, FLIPPED = 0. -/
def Chip.putMove (c : Chip) (n kind obj src dst len : Nat) : Chip :=
  let c := c.memWrite (c.moveAddr n) ([BitVec.ofNat 8 kind, 0, 0, 0] ++ leBytes 4 obj ++ leBytes 8 src ++ leBytes 8 dst ++ leBytes 8 len)
  [0, 1, 2].foldl (fun c k => c.memWriteNum (c.flipAddr n k) 8 (dst + kind * 2 ^ 40)) c

/-- A move is flipped: at least two copies say so; or void. -/
def Chip.flipped (c : Chip) (n : Nat) : Bool :=
  decide (2 ≤ ([0, 1, 2].filter fun k => !c.linePoisoned (c.flipAddr n k / 64) && bitOf (c.memNum (c.flipAddr n k) 8) 63).length)
/-- The usher repairs a copy of a flip word that disagrees with the two others, or is poisoned (R313). -/
def Chip.repairFlip (c : Chip) (n : Nat) : Chip :=
  let read (k : Nat) : Option Nat := if c.linePoisoned (c.flipAddr n k / 64) then none else some (c.memNum (c.flipAddr n k) 8)
  match [0, 1, 2].findSome? fun k => (read k).filter fun v => decide (2 ≤ ([0, 1, 2].filter fun j => read j == some v).length) with
  | none => c
  | some v => [0, 1, 2].foldl (fun c k => if read k = some v then c else c.memWriteNum (c.flipAddr n k) 8 v) c
def Chip.voided (c : Chip) (n : Nat) : Bool := bitOf (c.memNum (c.moveAddr n + 1) 1) 0

/-- Fields of a move record. -/
def Chip.moveKind (c : Chip) (n : Nat) : Nat := c.memNum (c.moveAddr n) 1
def Chip.moveObj (c : Chip) (n : Nat) : Nat := c.memNum (c.moveAddr n + 4) 4
def Chip.moveSrc (c : Chip) (n : Nat) : Nat := c.memNum (c.moveAddr n + 8) 5
def Chip.moveDst (c : Chip) (n : Nat) : Nat := c.memNum (c.moveAddr n + 16) 5
def Chip.moveLen (c : Chip) (n : Nat) : Nat := c.memNum (c.moveAddr n + 24) 5

/-- The unflipped REHANG move of a ticket, if the changeover has one (R316). -/
def Chip.rehangOf (c : Chip) (w : Word) : Option Nat :=
  if c.epochState = 3 ∨ c.epochState = 4 then
    (List.range c.ush.moves).find? fun n => c.moveKind n == 1 && c.moveObj n == w.toNat && !c.flipped n && !c.voided n
  else none

/-- New page tables of a ticket with every page in its head's tower (R314): a fresh slot for a page elsewhere, the same one for a
source that another ticket of the changeover has. None where frames lack. -/
def Chip.rehangTables (c : Chip) (i : Nat) : Option (Chip × Nat) :=
  let old := c.tkRoot i
  let im := (c.model (c.tkModel i)).image
  let map := c.rootMap im old
  match c.newRoot im (c.npos i) with
  | none => none
  | some (c, root) =>
    let c := (if map = c.nTow then c.remotesOf old else []).foldl (fun c e => Chip.memWriteNum c (field (c.tdir root e.1) 0 40 + 8 * e.2.1) 8 e.2.2) c
    let n := c.nTow
    let r := ((c.pagesOf old).map fun e => (moveRef im map n e.1, e.2)).foldl (fun c e =>
      match c with
      | none => none
      | some c =>
        match Chip.needChunk c root e.1.t e.1.k with
        | none => none
        | some c =>
          match Chip.entryAddr c root e.1 with
          | none => some c
          | some a =>
            let src := field e.2.2 0 40
            let fmt := field e.2.2 40 4
            if src / 2 ^ 38 = e.1.t then some ((Chip.slotInc c src).putEntry a src fmt)
            else
              match (c.ush.rehung.find? fun x => x.1 == src) with
              | some x => some ((Chip.slotInc c x.2).putEntry a x.2 fmt)
              | none =>
                (Chip.takeSlot c e.1.t (slotClass fmt)).map fun y =>
                  ((y.1.onUsh fun u => { u with rehung := u.rehung ++ [(src, y.2)] }).putEntry a y.2 fmt)) (some c)
    r.map fun c => (c, root)

/-- What a move copies (source, destination, bytes): of a REHANG each page that lies outside its head's tower, into its new slot; of a COPY its range, in parts of
2^21 lines. -/
def Chip.moveItems (c : Chip) (n : Nat) : List (Nat × Nat × Nat) :=
  match c.moveKind n with
  | 1 =>
    match c.liveIdx (BitVec.ofNat 32 (c.moveObj n)) with
    | none => []
    | some i =>
      let im := (c.model (c.tkModel i)).image
      let old := c.moveSrc n
      let root := c.moveDst n
      ((c.pagesOf old).map fun e => (moveRef im (c.rootMap im old) (c.rootMap im root) e.1, e.2)).filterMap fun e =>
        match c.entryAddr root e.1 with
        | none => none
        | some a =>
          let d := field (c.memNum a 8) 0 40
          if d = field e.2.2 0 40 then none else some (field e.2.2 0 40, d, pageBytes (field e.2.2 40 4))
  | 2 => (cutRange (2 ^ 27) (c.moveLen n / 2 ^ 27 + 1) 0 (c.moveLen n)).map fun p => (c.moveSrc n + p.1, c.moveDst n + p.1, p.2)
  | _ => []

/-- The jobs of a move (R350): a source that another move of the changeover copies to the same place is copied once (R314). -/
def Chip.moveWorks (c : Chip) (n : Nat) : Chip :=
  let have_ := c.ush.works.flatMap fun w => match w.why with | .move _ => w.items | _ => []
  let l := (c.moveItems n).filter fun x => !have_.contains x
  if c.moveKind n = 2 then l.foldl (fun c x => Chip.addWork c (x.1 / 2 ^ 38) .copy (.move n) [x]) c else c.addCopies (.move n) l

/-- The jobs of the moves that are still to flip. -/
def Chip.movesIssue (c : Chip) : Chip :=
  ((List.range c.ush.moves).foldl (fun c n => if c.flipped n || c.voided n then c else Chip.moveWorks c n) c).sendWorks

/-- A job that copies something of a move. -/
def Chip.servesMove (c : Chip) (n : Nat) : Work → Bool :=
  let l := c.moveItems n
  fun w => (match w.why with | .move _ => true | _ => false) && w.items.any l.contains

/-- The post-flip action of a move (R314). -/
def Chip.postFlip (c : Chip) (n : Nat) : Chip :=
  let dst := c.moveDst n
  match c.moveKind n with
  | 1 =>
    match c.liveIdx (BitVec.ofNat 32 (c.moveObj n)) with
    | none => c
    | some i => c.tkPut i 0 64 (setField (setField (c.tk i 0 64) (8 * 0x20) 64 dst) (8 * 5 + 4) 1 1)
  | 2 =>
    let o := c.moveObj n
    let plan := c.memNum (c.ush.layout.record + 8) 2
    let m := c.memNum (c.ush.layout.record + 10) 2
    c.setModel m { c.model m with moved := Store.put zeroNat (c.model m).moved (bindingOf plan (field o 4 2) (field o 0 4)) dst }
  | _ => c.critWrite (0x30 + 8 * field (c.moveObj n) 0 2) (c.memNum dst 8)

/-- Flip and post-flip action of a move whose copies are done. -/
def Chip.moveFlip (c : Chip) (n : Nat) : Chip :=
  let v := c.moveDst n + c.moveKind n * 2 ^ 40 + 2 ^ 63
  ([0, 1, 2].foldl (fun c k => c.memWriteNum (c.flipAddr n k) 8 v) c).postFlip n

/-- A move ends its copies and flips (R314, R350): it waits for its jobs, and those that did not end with status 0x00 are issued again. A spill of its ticket packs
the pages anew from where they are now. -/
def Chip.moveEnd (c : Chip) (n : Nat) : Chip :=
  let p := c.servesMove n
  match c.worksEnd p [] with
  | none => c
  | some (c, false) => c.worksAgain p
  | some (c, true) =>
    let c := c.moveFlip n
    match (if c.moveKind n = 1 then c.liveIdx (BitVec.ofNat 32 (c.moveObj n)) else none) with
    | some i => if c.tkFlag i 1 then (c.worksDrop (Work.is (.spill i))).unstage i else c
    | none => c

/-- Where the changed map word of a tower stands in memory for a MAP move: a word of the changeover record's page. -/
def Chip.mapSpot (c : Chip) (t : Nat) : Nat := c.ush.layout.record + 64 + 8 * t

/-- Append a MAP move of a tower. -/
def Chip.addMap (c : Chip) (t : Nat) : Chip :=
  match c.mapWord t with
  | none => c
  | some v => if 131072 ≤ c.ush.moves then c else
    let c := c.memWriteNum (c.mapSpot t) 8 v
    let c := c.putMove c.ush.moves 3 t 0 (c.mapSpot t) 0
    (c.onUsh fun u => { u with moves := u.moves + 1 }).memWriteNum (c.ush.layout.record + 12) 4 (c.ush.moves + 1)

/-- Append a REHANG move of a ticket, where frames suffice. -/
def Chip.addRehang (c : Chip) (i : Nat) : Chip :=
  match c.rehangTables i with
  | none => c
  | some (c, root) =>
    let c := c.putMove c.ush.moves 1 (c.tkTicket i) (c.tkRoot i) root 0
    c.onUsh fun u => { u with moves := u.moves + 1, old := u.old ++ [c.tkRoot i] }

/-- Append a COPY move of a region's instance in a tower into fresh frames. -/
def Chip.addCopy (c : Chip) (r t : Nat) : Chip :=
  match c.nextPlan with
  | none => c
  | some p =>
    let pl := c.planSect p
    let n := (regionSize (c.model p.1).image pl r + 65535) / 65536 * 65536
    if (regionKind pl r ≠ 1 ∧ regionKind pl r ≠ 4) ∨ 131072 ≤ c.ush.moves then c
    else
      match c.takeFrames t ((n + 2 ^ 21 - 1) / 2 ^ 21) .held with
      | none => c
      | some (c, f) =>
        let c := c.setModel p.1 { c.model p.1 with frames := (c.model p.1).frames ++ (List.range ((n + 2 ^ 21 - 1) / 2 ^ 21)).map fun i => f + i }
        let c := c.putMove c.ush.moves 2 (r + t * 16) (c.regionBase p.1 pl t r) (f * 2 ^ 21) n
        c.onUsh fun u => { u with moves := u.moves + 1 }

/-- The changeover record's header (Table 11-15). -/
def Chip.putRecord (c : Chip) : Chip :=
  let p := c.nextPlan.getD (0, 0)
  let y := c.ush.layout
  c.memWrite y.record (leBytes 4 0x4F564843 ++ leBytes 4 c.epoch.toNat ++ leBytes 2 p.2 ++ leBytes 2 p.1 ++ leBytes 4 c.ush.moves
    ++ leBytes 8 y.moves ++ leBytes 8 y.flips ++ leBytes 32 0)

/-- The changeover to the next plan: its moves are listed from none (R309, R312). In a decode plan every unsettled ticket is rehung. -/
def Chip.buildMoves (c : Chip) (copies : List (Nat × Nat)) : Chip :=
  let c := c.onUsh fun u => { u with moves := 0, rehung := [], old := [] }
  let c := c.towers.foldl (fun c t => if c.mapWord t = c.critValue (0x30 + 8 * t) then c else c.addMap t) c
  let c := if c.ush.want = 1 then
      (c.liveTickets.filter fun i => c.tkRoot i != 0 && !c.tkFlag i 4 && c.tkState i != 10).foldl (fun c i =>
        if c.ush.moves < 131072 then c.addRehang i else c) c
    else c
  (copies.foldl (fun c x => c.addCopy x.1 x.2) c).putRecord

/-- The first selection of a plan (R309): one MAP move per tower, and LOADING. -/
def Chip.firstLoading (c : Chip) : Chip :=
  let c := c.onUsh fun u => { u with moves := 0, rehung := [], old := [], want := 1, cause := false }
  let c := (c.towers.foldl (fun c t => c.addMap t) c).putRecord
  let c := (List.range c.ush.moves).foldl (fun c n => c.moveFlip n) c
  c.setEpoch c.epoch.toNat 4 c.ush.layout.record

/-- A changeover is due: the module enters LOADING from NONE, or CLOSING from OPEN. -/
def Chip.changeoverDue (c : Chip) : Chip :=
  let c := c.onUsh fun u => { u with cause := true }
  if c.epochState = 0 then (if c.nextPlan.isSome then c.firstLoading else c) else c

/-- Every move is flipped or void: the flip words are made whole, superseded tables go, with them the slots that no table reaches, and STATE becomes
LOADING (R309, R313, R314). -/
def Chip.movesComplete (c : Chip) : Chip :=
  let c := (List.range c.ush.moves).foldl Chip.repairFlip c
  let c := (List.range c.ush.moves).foldl (fun c n =>
    if c.moveKind n = 1 ∧ c.ush.old.contains (c.moveSrc n) then c.dropTables (if c.voided n then c.moveDst n else c.moveSrc n) else c) c
  let c := (c.onUsh fun u => { u with rehung := [], old := [] }).worksDrop fun w => match w.why with | .move _ => true | _ => false
  (c.setEpoch c.epoch.toNat 4 c.ush.layout.record).payOwed

/-! ### Fences (R220, R309, R510) -/

/-- The holds of the running plan's stages end, but not while a gallery of the plan is fenced: those that depend on it stand until the next epoch
opens (R220). DEDUCED: log entry 107. -/
def Chip.planRelease (c : Chip) : Chip := if c.planGals.any c.fenced then c else c.planGals.foldl Chip.holdRelease c

/-- The usher fences a gallery: the router's part (R220), NOTICE 0x0206 (R510), and the map, which a changeover moves, now where one is in
MOVING or LOADING (R309). In OPEN it holds the stages of the plan that runs there, which depend on it, until the next epoch loads them anew (R220).
DEDUCED: log entry 107. -/
def Chip.usherFence (c : Chip) (k cause : Nat) : Chip :=
  let t := k / 104
  let c := (c.fenceGallery k cause).notice 0x0206 1 (t * 128 + k % 104) (openDetail 0x0206 k)
  if c.epochState = 3 ∨ c.epochState = 4 then
    let n := c.ush.moves
    let c := c.addMap t
    if n < c.ush.moves then c.moveFlip n else c
  else
    let c := if c.epochState = 1 ∧ c.planGals.contains k then c.planGals.foldl Chip.holdGal c else c
    c.onUsh fun u => { u with cause := true }

/-! ### Stages (R302, R315) -/

/-- A gallery as a stage load leaves it (R60, R99, R118, R144): the core at 0, counters, queues, markers, GCTL and GFAULT at reset, the
window, vector registers and profiles cleared, and with them the CSRs that their tables reset at stage load (GSRKEY, R142; GRETN, R194;
the message ring, R215; STFADDR, R265); its memories and its accounts as they stood. DEDUCED: log entry 90. -/
def Gallery.stageReset (g : Gallery) : Gallery :=
  { g with hart := Hart.reset, halt := false, tact := false, hold := false, waiting := none, waitAt := 0, dead := false, fault := false, faultQ := 0, faultStat := 0,
           faultIdx := 0, ctr := [], queues := [], marks := [], gstep := 0, stepped := false, mx := MxCore.reset, vx0 := VCore.reset,
           vx1 := VCore.reset, skip := [], gcred := [], creditOpen := false, pend := [], srkey0 := 0, srkey1 := 0,
           retnArm := false, retnLast := false, mring := 0, mrhead := 0, mrtail := 0, stfaddr := 0, stfStat := 0, stfValid := false }

/-- The mailbox record of a step (Table 11-11) for a gallery of tower t running a stage. DEDUCED: log entry 70. -/
def Chip.mailbox (c : Chip) (midx : Nat) (p s : List Byte) (t step nrows eclass rowtab result batch : Nat) : List Byte :=
  let base (r : Nat) := if regionKind p r = 0 then 0 else c.regionBase midx p t r
  let param (i : Nat) :=
    let code := field (imN s (stReloc s + i / 2) 1) (4 * (i % 2)) 4
    (imN s (stParam s + 8 * i) 8 + (if code = 0 then 0 else base code)) % 2 ^ 64
  leBytes 4 step ++ leBytes 4 c.epoch.toNat ++ leBytes 4 nrows ++ leBytes 2 eclass ++ leBytes 2 0 ++ leBytes 8 rowtab ++ leBytes 8 result
    ++ leBytes 4 batch ++ leBytes 20 0
    ++ (List.range 15).foldr (fun i l => leBytes 8 (base (i + 1)) ++ l) [] ++ leBytes 80 0
    ++ (List.range (imN s 16 4)).foldr (fun i l => leBytes 8 (param i) ++ l) []

/-- SWIN of a gallery from its stair plan (R250, R298): RD, WR, base in [39:16] at bit 16, size at bit 40. -/
def Chip.windowWord (c : Chip) (midx : Nat) (p w : List Byte) (t : Nat) : DWord :=
  let b := imN w 0 1
  let r := field b 4 4
  if r = 0 then 0
  else BitVec.ofNat 64 (field b 0 2 + (c.regionBase midx p t r + imN w 8 8) / 65536 * 2 ^ 16 + imN w 4 4 * 2 ^ 40)

/-- A resident entry as the stair engine runs it: its region's base added (R302). -/
def Chip.residentDesc (c : Chip) (midx : Nat) (p d : List Byte) (t : Nat) : Desc :=
  let m := field (imN d 8 8) 0 40
  let a := c.regionBase midx p t (m / 2 ^ 36) + m % 2 ^ 36
  BitVec.ofNat 256 (setField (setField (leVal d) 64 40 a) 8 56 0)

/-- Load a stage into the gallery at key k (R315 steps 1 to 4): whether it ended without a fault. DEDUCED: log entry 90. -/
def Chip.stageLoad (c : Chip) (midx : Nat) (p s : List Byte) (t g k sid : Nat) : Chip × Bool :=
  let x := (c.gal k).stageReset
  let im := Memory.setBytes x.imem 0 (imB s (stCode s) (imN s 4 4))
  let dm := Memory.setBytes (Memory.zero x.dmem 0x10000 0x7000) 0x10000 (imB s (stData s) (imN s 8 4))
  let kept (e : Nat × Bool) : Bool :=
    !(decide (0x1000000 ≤ e.1) && decide (e.1 + 4 ≤ 0x1000000 + imN s 4 4)) && !(decide (0x2010000 ≤ e.1) && decide (e.1 < 0x2017000))
  let sp := match imSect (c.model midx).image 0x23 (plStair p t) with | some q => imB (c.model midx).image q.off q.len | none => []
  let swin := (List.range 8).foldl (fun (m : Store DWord) i =>
    Store.put zeroDWord m i (c.windowWord midx p (imB sp (16 * (8 * g + i)) 16) t)) []
  let x := { x with imem := im, dmem := dm, ecc := x.ecc.filter kept, swin := swin, waitlim := BitVec.ofNat 24 (imN s 24 4), stage := sid + 1,
                    energies := (List.range (imN s 20 4)).map fun i => (i, BitVec.ofNat 32 (stEnergy s i)),
                    credTab := (List.range 16).map fun i => (i, BitVec.ofNat 32 (imN s (32 + 4 * i) 4)) }
  let c := c.setGal k { x with energies := x.energies.filter fun e => e.2 != 0, credTab := x.credTab.filter fun e => e.2 != 0 }
  (List.range (imN s 12 4)).foldl (fun r i =>
    if r.2 then
      let e : QEntry := { desc := c.residentDesc midx p (imB s (stRes s + 32 * i) 32) t, index := 0, st := .running, since := 0, mask := 0 }
      let c := r.1.onGal k fun g => g.setQueue 3 { entries := [e], issued := 0, done := 0, halted := false }
      let c := if stairBodyBad e.desc then c.stEnd k e (some (1, 0)) else Chip.stMoveRun true c k e
      let bad := ((c.gal k).queue 3).entries.any fun e => e.st != .ended 0
      (c.onGal k fun g => g.setQueue 3 Queue.reset, !bad)
    else r) (c, true)

/-- Load every stage of a plan; the keys of the galleries that faulted. -/
def Chip.loadStages (c : Chip) (midx : Nat) (p : List Byte) : Chip × List Nat :=
  (c.placed p).foldl (fun r x =>
    match stageOf (c.model midx).image x.2.2.2 with
    | none => r
    | some s =>
      let (c, ok) := r.1.stageLoad midx p s x.2.1 x.2.2.1 x.1 x.2.2.2
      if ok then (c, r.2) else (c, r.2 ++ [x.1])) (c, [])

/-- A gallery domain is switched off, and the corridor follows (R27); what it held is gone, its registers at reset. -/
def Chip.galOff (c : Chip) (k : Nat) : Chip :=
  ((c.setDomSt k 0).domsRun [k]).onGal k fun g => { Gallery.reset with lgal := g.lgal, shadow := g.shadow, winCharge := g.winCharge }

/-- The galleries that a plan leaves without a stage are switched off (R295, R315). -/
def Chip.idleOff (c : Chip) (p : List Byte) : Chip :=
  let used := (c.placed p).map (·.1)
  c.gals.foldl (fun c e => if used.contains e.1 || e.2.dom == .off then c else c.galOff e.1) c

end Sys2Proof.Machine
end

