-- ==== Sys2Proof/Machine/HostOps.lean ====
section
/-! DEFINITION. The host command protocol (R412 to R421, R602): how a command is fetched, checked and accepted. -/

namespace Sys2Proof.Machine

/-! ### The entry (Tables 14-5, 14-7) -/

def entrySL (e : Line) : Bool := bitOf (entryN e 1 1) 0
def entrySPB (e : Line) : Bool := bitOf (entryN e 1 1) 1
def entrySTOPS (e : Line) : Bool := bitOf (entryN e 1 1) 2
def entryMAP (e : Line) : Bool := bitOf (entryN e 1 1) 3
def entryLOG (e : Line) : Bool := bitOf (entryN e 1 1) 4
def entryNcont (e : Line) : Nat := field (entryN e 2 1) 0 6
def entryPlen (e : Line) : Nat := entryN e 12 4

/-- The bytes of the body that Table 14-7 names for an opcode: (first, count). -/
def bodyNamed (opc : Nat) : List (Nat × Nat) :=
  match opc with
  | 1 => [(16, 16)]
  | 2 => [(16, 16)]
  | 3 => [(16, 8)]
  | 5 => [(16, 8)]
  | 7 => [(16, 2), (24, 16)]
  | 9 => [(16, 16)]
  | 0x10 => [(16, 11), (32, 8)]
  | 0x11 => [(16, 32)]
  | 0x12 => [(16, 5)]
  | 0x13 => [(16, 4), (24, 18)]
  | 0x14 => [(16, 8), (24, 6), (32, 4)]
  | _ => []

/-- An opcode of Table 14-7. -/
def opcKnown (opc : Nat) : Bool := (decide (1 ≤ opc ∧ opc ≤ 9)) || (decide (0x10 ≤ opc ∧ opc ≤ 0x14))

/-- A management command (Table 14-7). -/
def opcMgmt (opc : Nat) : Bool := decide (0x10 ≤ opc ∧ opc ≤ 0x14)

/-- A command that names a ticket. -/
def opcTicket (opc : Nat) : Bool := decide (2 ≤ opc ∧ opc ≤ 9)

/-- A command whose list at PADDR is of an image or of output buffers. -/
def opcList (opc : Nat) : Bool := opc == 9 || opc == 0x10 || opc == 0x14

/-- Where PADDR lies. -/
def paddrOff (opc : Nat) : Nat := if opc = 0x11 then 40 else if opc = 0x13 then 32 else 16

/-- Commands that may carry a payload. -/
def opcPayload (opc : Nat) : Bool := opc == 1 || opc == 2 || opc == 3 || opc == 5 || opc == 0x11 || opc == 0x13

/-! ### Payloads (R412 to R414) -/

/-- A scatter list from host memory (R413): its buffers; none where it is malformed. `f` bounds its entries, beyond what host memory holds. -/
def scatter (m : Store Byte) : Nat → Nat → Option (List (Nat × Nat))
  | 0, _ => none
  | f + 1, a =>
    let addr := Memory.num m a 8
    let len := Memory.num m (a + 8) 4
    let fl := Memory.num m (a + 12) 1
    if a % 16 ≠ 0 ∨ 4 ≤ fl ∨ Memory.num m (a + 13) 3 ≠ 0 then none
    else if bitOf fl 0 then (if addr % 16 = 0 ∧ !bitOf fl 1 then scatter m f addr else none)
    else if addr % 4 ≠ 0 ∨ len = 0 ∨ len % 4 ≠ 0 then none
    else if bitOf fl 1 then some [(addr, len)]
    else (scatter m f (a + 16)).map fun l => (addr, len) :: l

/-- Bytes that buffers hold. -/
def bufLen (l : List (Nat × Nat)) : Nat := l.foldl (fun n b => n + b.2) 0

/-- What buffers hold. -/
def bufBytes (m : Store Byte) (l : List (Nat × Nat)) : List Byte := l.foldr (fun b t => Memory.bytes m b.1 b.2 ++ t) []

/-- Write bytes into buffers in order. -/
def bufWrite : Store Byte → List (Nat × Nat) → List Byte → Store Byte
  | m, [], _ => m
  | m, (a, n) :: l, bs => bufWrite (Memory.setBytes m a (bs.take n)) l (bs.drop n)

def sqDefault : Nat → SqState := fun _ => SqState.reset

/-- What the module keeps of SQ q. -/
def Chip.sq (c : Chip) (q : Nat) : SqState := Store.get sqDefault c.host.sq q
def Chip.setSq (c : Chip) (q : Nat) (v : SqState) : Chip := { c with host := { c.host with sq := Store.put sqDefault c.host.sq q v } }

/-- Entry i of SQ q in host memory. -/
def Chip.sqEntry (c : Chip) (q i : Nat) : Line :=
  BitVec.ofNat 512 (Memory.num c.hostMem ((c.sq q).base.toNat + 64 * (i % 2 ^ (c.sq q).log2n)) 64)

/-- HEAD, TAIL and size of SQ q. -/
def Chip.sqHead (c : Chip) (q : Nat) : Nat := c.rdF (Reg.sqStat q) 0 16
def Chip.sqTail (c : Chip) (q : Nat) : Nat := (c.sq q).tail.toNat
def Chip.sqSize (c : Chip) (q : Nat) : Nat := 2 ^ (c.sq q).log2n

/-- Valid entries of SQ q. -/
def Chip.sqValid (c : Chip) (q : Nat) : Nat := (c.sqTail q + c.sqSize q - c.sqHead q) % c.sqSize q

/-- The command at HEAD is longer than its ring (R412). -/
def Chip.sqOverlong (c : Chip) (q : Nat) : Bool := decide (c.sqSize q < 1 + entryNcont (c.sqEntry q (c.sqHead q)))

/-- SQ q is fetched from: RUN, in service, not stopped, with a whole command before TAIL or one longer than the ring, below the bound on accepted commands. -/
def Chip.sqReady (c : Chip) (q : Nat) : Bool :=
  c.isSealed && c.bit Reg.hifCtl 1 && c.bit (Reg.sqCfg q) 5 && !c.bit (Reg.sqStat q) 17 && decide (c.host.accepted.length < 65536)
    && c.sqValid q != 0 && (decide (1 + entryNcont (c.sqEntry q (c.sqHead q)) ≤ c.sqValid q) || c.sqOverlong q)

/-- Commands taken from an SQ in this round (R408). -/
def Chip.served (c : Chip) (q : Nat) : Nat := Store.get zeroNat c.host.served q

/-- It is the turn of SQ q: it has weight left, or no ready SQ has. -/
def Chip.sqTurn (c : Chip) (q : Nat) : Bool :=
  decide (c.served q < c.rdF (Reg.sqCfg q) 8 8)
    || (List.range 256).all fun p => !c.sqReady p || decide (c.rdF (Reg.sqCfg p) 8 8 ≤ c.served p)

/-- Count a command taken; a new round begins where the SQ had no weight left. -/
def Chip.serve (c : Chip) (q : Nat) : Chip :=
  let base := if c.served q < c.rdF (Reg.sqCfg q) 8 8 then c.host.served else []
  { c with host := { c.host with served := Store.put zeroNat base q (Store.get zeroNat base q + 1) } }

/-- Inline payload: the continuation entries of the command at HEAD. -/
def Chip.inline (c : Chip) (q n : Nat) : List Byte :=
  (List.range n).foldr (fun i l => leBytes 64 (c.sqEntry q (c.sqHead q + 1 + i)).toNat ++ l) []

/-! ### The session parameter block (Table 14-8) -/

/-- n bytes of a payload. -/
def payN (p : List Byte) (off n : Nat) : Nat := imN p off n

/-- VALID of the block; and whether a field is marked. -/
def spbValid (p : List Byte) : Nat := payN p 52 4

/-- VALID bits that a command may mark. -/
def spbAllowed (opc : Nat) : Nat := if opc = 1 ∨ opc = 5 then 0x3FF else 0x1DE

/-- Where the parts of a payload lie (Table 14-6). -/
def offStops (e : Line) : Nat := if entrySPB e then 64 else 0
def offTokens (e : Line) : Nat := offStops e + (if entrySTOPS e then 384 else 0)
def cmdNtok (e : Line) : Nat := if entryOpc e ≤ 2 then entryN e 24 4 else 0
def offMap (e : Line) : Nat := offTokens e + 4 * cmdNtok e
def mapLen (e : Line) : Nat := if entryMAP e then entryN e 28 4 else 0
def cmdTokens (e : Line) (p : List Byte) : List Nat :=
  (List.range (min (cmdNtok e) ((p.length - offTokens e) / 4))).map fun k => payN p (offTokens e + 4 * k) 4

/-- PLEN that the parts add up to. Under protocol 1.x (`v1`) no PLAN_SELECT names a training plan (R426). -/
def plenDue (v1 : Bool) (e : Line) (p : List Byte) : Option Nat :=
  match entryOpc e with
  | 1 => some (offMap e + mapLen e)
  | 2 => some (offMap e + mapLen e)
  | 3 => some (offStops e)
  | 5 => some (offStops e)
  | 0x11 => if v1 ∨ entryN e 22 2 = 0xFFFF then some 0 else if entryPlen e % 4 = 0 then some (entryPlen e) else none
  | 0x13 => some (16 * entryN e 40 2)
  | _ => if p.isEmpty then some 0 else none

/-! ### Explicit mask maps (Table 10-8, R417) -/

/-- NQB, NKB and the bytes of a summary row. -/
def mapNqb (m : List Byte) : Nat := imN m 4 2
def mapNkb (m : List Byte) : Nat := imN m 6 2
def mapRow (m : List Byte) : Nat := 8 * ((mapNkb m + 63) / 64)

/-- Summary bit (i, j), and the place of its word among those of the blocks whose bit is 1. -/
def mapSum (m : List Byte) (i j : Nat) : Bool := bitOf (imN m (16 + i * mapRow m + j / 8) 1) (j % 8)
def mapOnes (m : List Byte) : List (Nat × Nat) :=
  ((List.range (mapNqb m * mapNkb m)).map fun x => (x / mapNkb m, x % mapNkb m)).filter fun x => mapSum m x.1 x.2

/-- Bytes of header and summaries; the offset of the words. -/
def mapHead (m : List Byte) : Nat := 16 + mapNqb m * mapRow m

/-- Offset of the first malformed field of a map, if any. -/
def mapBad (m : List Byte) : Option Nat :=
  if imN m 0 4 ≠ 0x50414D4B then some 0
  else if m.length < 16 ∨ m.length < mapHead m then some 4
  else
    ((mapOnes m).zipIdx.find? fun x =>
      let a := mapHead m + 4 * x.2
      decide (m.length < a + 4) || (imN m a 4 != 0 && decide (m.length < imN m a 4 * 2048 + 2048))).map fun x => mapHead m + 4 * x.2

/-- The bit that a map gives the key position p for the query position q; b0 is the first query block. DEDUCED: log entry 87. -/
def mapBit (m : List Byte) (b0 q p : Nat) : Bool :=
  let i := q / 128 - b0
  let j := p / 128
  if decide (mapNqb m ≤ i) || decide (mapNkb m ≤ j) || !mapSum m i j then false
  else
    let w := imN m (mapHead m + 4 * ((mapOnes m).takeWhile fun x => x != (i, j)).length) 4
    w == 0 || bitOf (imN m (w * 2048 + 16 * (q % 128) + p % 128 / 8) 1) (p % 8)

/-- The narrowest window of a model's layers (R280); every position for a causal one. DEDUCED: log entry 87. -/
def minWindow (im : List Byte) : Nat :=
  (List.range (mdlLayers im)).foldl (fun w l =>
    let e := imB (attnRec im) (16 + 16 * l) 16
    if imN e 0 1 = 1 then min w (imN e 4 4) else w) 524288

/-- Whether key position p is visible to the query position q under a map: the query position always is (R280). -/
def mapSees (m : List Byte) (b0 q p : Nat) : Bool := q == p || mapBit m b0 q p

/-- The map leaves every prompt row some visible key: it has a bit for each position of the command but the last, which takes the decode path
(R283) and so sees itself (R282, R417). DEDUCED: log entry 87. -/
def mapVisible (im m : List Byte) (first n : Nat) : Bool :=
  (List.range (n - 1)).all fun d =>
    let q := first + d
    let lo := q + 1 - minWindow im
    (List.range (q + 1 - lo)).any fun k => mapBit m (first / 128) q (lo + k)

/-! ### The checks of R602 -/

/-- A failed check: its ERROR code and OFFSET. -/
structure CmdErr where
  code : Nat
  off : Nat
  deriving DecidableEq, Repr

/-- The first of a list of checks that fails: each says whether it fails, its code and its offset. -/
def firstErr : List (Bool × Nat × Nat) → Option CmdErr
  | [] => none
  | (b, code, off) :: l => if b then some ⟨code, off⟩ else firstErr l

/-- The first nonzero byte of n bytes of a payload. -/
def firstNonzero (b : List Byte) (off n : Nat) : Option Nat := ((List.range n).map (off + ·)).find? fun i => imN b i 1 != 0

/-- The first nonzero reserved byte of a stop-set record (Table 13-6a). -/
def stopReserved (b : List Byte) : Option Nat :=
  ((List.range 14).map (2 + ·) ++ (List.range 16).map (0x13 + 4 * ·) ++ (List.range 32).map (0x160 + ·)).find? fun i => imN b i 1 != 0

/-- The first value of a stop-set record that R371 does not allow, in field order. -/
def stopBad (vocab : Nat) (b : List Byte) : Option Nat :=
  let n := imN b 0 1
  let m := imN b 1 1
  let tok := (List.range (min n 16)).map fun k => 0x10 + 4 * k
  let len := (List.range (min m 4)).map fun k => 0x50 + 4 * k
  let seq := (List.range (min m 4)).flatMap fun k => (List.range (min (imN b (0x50 + 4 * k) 4) 16)).map fun j => 0x60 + 64 * k + 4 * j
  if 16 < n then some 0 else if 4 < m then some 1
  else match tok.find? fun o => decide (vocab ≤ imN b o 4) with
    | some o => some o
    | none =>
      match len.find? fun o => decide (imN b o 4 < 1 ∨ 16 < imN b o 4) with
      | some o => some o
      | none => seq.find? fun o => decide (vocab ≤ imN b o 4)

/-- The first nonzero reserved byte of the body. -/
def bodyReserved (e : Line) : Option Nat :=
  ((List.range 48).map fun i => 16 + i).find? fun i =>
    !((bodyNamed (entryOpc e)).any fun r => decide (r.1 ≤ i ∧ i < r.1 + r.2)) && entryN e i 1 != 0

/-- Check 2 over the entry, in entry order. Under protocol 1.x (`v1`) the fields of QUERYLOG and TRAIN are reserved (R426). -/
def reservedErr (v1 : Bool) (e : Line) : Option CmdErr :=
  let opc := entryOpc e
  let fl := entryN e 1 1
  let pa := entryN e (paddrOff opc) 8
  let hasP := opcPayload opc || opcList opc
  firstErr [
    (field fl 5 3 != 0, 2, 1),
    (entrySL e && (opcList opc || !opcPayload opc), 2, 1),
    (entrySPB e && !(opc == 1 || opc == 2 || opc == 3 || opc == 5), 2, 1),
    (entrySTOPS e && opc != 1, 2, 1),
    (entryMAP e && !(opc == 1 || opc == 2), 2, 1),
    (entryLOG e && (opc != 9 || v1), 2, 1),
    (field (entryN e 2 1) 6 2 != 0, 2, 2),
    (opcList opc && entryNcont e != 0, 2, 2),
    (entryN e 3 1 != 0, 2, 3),
    (!opcTicket opc && entryTicket e != 0, 2, 8),
    (opcList opc && entryPlen e != 0, 2, 12),
    (hasP && !opcList opc && pa != 0 && (!entrySL e || entryPlen e == 0), 2, paddrOff opc),
    (v1 && opc == 9 && entryN e 24 4 != 0, 2, 24),
    ((opc == 1 || opc == 2) && !entryMAP e && entryN e 28 4 != 0, 2, 28),
    (v1 && opc == 9 && entryN e 28 4 != 0, 2, 28),
    (opc == 0x10 && decide (2 ≤ entryN e 26 1), 2, 26),
    (opc == 0x11 && field (entryN e 17 1) 6 2 != 0, 2, 17),
    (v1 && opc == 0x11 && entryN e 22 2 != 0, 2, 22),
    (opc == 0x12 && decide (2 ≤ entryN e 20 1), 2, 20),
    ((bodyReserved e).isSome, 2, (bodyReserved e).getD 0)]

/-- Check 2 over the payload, in payload order. Under protocol 1.x (`v1`) LSKIP and EBUDGET are reserved (R426). -/
def reservedPay (v1 : Bool) (e : Line) (p : List Byte) : Option CmdErr :=
  let v := spbValid p
  let allowed := spbAllowed (entryOpc e) - (if v1 then 2 ^ 7 else 0)
  let stop := stopReserved (imB p (offStops e) 384)
  let map := firstNonzero (imB p (offMap e) (mapLen e)) 8 8
  let bad (t : Nat) : Bool := decide (2 ^ 24 ≤ t)
  let toks := cmdTokens e p
  firstErr [
    (entrySPB e && field (payN p 19 1) 5 3 != 0, 2, 0x8000 + 19),
    (v1 && entrySPB e && payN p 24 4 != 0, 2, 0x8000 + 24),
    (v1 && entrySPB e && payN p 40 8 != 0, 2, 0x8000 + 40),
    (entrySPB e && payN p 51 1 != 0, 2, 0x8000 + 51),
    (entrySPB e && (v ||| allowed) != allowed, 2, 0x8000 + 52),
    (entrySPB e && payN p 56 8 != 0, 2, 0x8000 + 56),
    (entrySTOPS e && stop.isSome, 2, 0x8000 + offStops e + stop.getD 0),
    (toks.any bad, 2, 0x8000 + offTokens e + 4 * (toks.takeWhile fun t => !bad t).length),
    (entryMAP e && map.isSome, 2, 0x8000 + offMap e + map.getD 0)]

/-- A chosen feature (Table 14-13). -/
def Chip.feature (c : Chip) (i : Nat) : Bool := c.bit Reg.hifFeat i

/-- A protocol 1.x stands (R426). -/
def Chip.v1 (c : Chip) : Bool := c.host.negotiated && !c.v2

/-- Check 4: negotiation and MGMT. -/
def Chip.negotiationErr (c : Chip) (q : Nat) (e : Line) (p : List Byte) : Option CmdErr :=
  let opc := entryOpc e
  let spb := entrySPB e
  let first := opc == 9 || opc == 0x13 || opc == 0x14
  firstErr [
    (!c.host.negotiated && !first, 9, 0),
    (opcMgmt opc && !c.bit (Reg.sqCfg q) 6, 9, 0),
    (opc == 5 && !c.feature 0, 9, 0),
    (opc == 8 && !c.feature 1 && !c.feature 2, 9, 0),
    (opc == 7 && !c.feature 1 && !c.feature 2, 9, 0),
    (opc == 0x12 && !c.feature 4, 9, 0),
    (entryMAP e && !c.feature 3, 9, 1),
    (entryLOG e && !c.feature 9, 9, 1),
    (opc == 7 && decide (entryN e 16 1 ≤ 1) && !c.feature 1, 9, 16),
    (opc == 7 && entryN e 16 1 == 2 && !c.feature 2, 9, 16),
    (opc == 0x10 && entryN e 25 1 != 0 && !c.feature 5, 9, 25),
    (opc == 0x11 && !c.v1 && entryN e 22 2 != 0xFFFF && (!c.feature 6 || !c.part.hasTrain), 9, 22),
    (spb && bitOf (spbValid p) 7 && payN p 24 4 != 0 && !c.feature 4, 9, 0x8000 + 24),
    (opc == 1 && spb && payN p 40 8 != 0 && !c.feature 7, 9, 0x8000 + 40),
    (opc == 1 && spb && payN p 50 1 != 0 && !c.feature 5, 9, 0x8000 + 50)]

/-- Check 5: the payload. `good` says that its transfer ended without a DMA error or poison; `raw` what came inline with its padding. -/
def payloadErr (v1 : Bool) (e : Line) (p raw : List Byte) (bufs : Option (List (Nat × Nat))) (good : Bool) : Option CmdErr :=
  let opc := entryOpc e
  let listed := entrySL e || (opcList opc && !(opc == 0x10 && bitOf (entryN e 26 1) 0))
  let m := imB p (offMap e) (mapLen e)
  firstErr [
    (opc == 1 && !entrySPB e, 6, 1),
    (!opcList opc && entryNcont e != (if entrySL e then 0 else (entryPlen e + 63) / 64), 6, 2),
    (!opcList opc && plenDue v1 e p != some (entryPlen e), 6, 12),
    (listed && bufs.isNone, 6, paddrOff opc),
    (entrySL e && bufLen (bufs.getD []) != entryPlen e, 6, paddrOff opc),
    (opc == 0x10 && listed && bufLen (bufs.getD []) != entryN e 32 8, 6, paddrOff opc),
    (opc == 9 && decide (bufLen (bufs.getD []) < 256), 6, 16),
    (!good, 6, 0xFFFF),
    (!entrySL e && (raw.drop (entryPlen e)).any (fun b => b != 0), 6, 0x8000 + entryPlen e),
    (entryMAP e && (mapBad m).isSome, 6, 0x8000 + offMap e + (mapBad m).getD 0)]

/-- The model index and first position that a command's tokens belong to. -/
def Chip.cmdModel (c : Chip) (e : Line) (p : List Byte) : Nat :=
  if entryOpc e = 1 then payN p 49 1 else c.tkModel ((entryTicket e).toNat % 2 ^ 20)

/-- NTOK of a ticket once the FEEDs accepted for it have appended their tokens (R382, R417). -/
def Chip.ntokDue (c : Chip) (w : Word) : Nat :=
  (c.host.accepted.filter fun m => entryOpc m.entry == 2 && entryTicket m.entry == w && !m.fed).foldl (fun n m => n + cmdNtok m.entry) (c.tkNtok (w.toNat % 2 ^ 20))
def Chip.cmdFirst (c : Chip) (e : Line) : Nat := if entryOpc e = 1 then 0 else c.ntokDue (entryTicket e)

/-- Check 6: a SPILL to a peer on a module that MOD.CAP gives no link. -/
def Chip.absentErr (c : Chip) (e : Line) : Option CmdErr :=
  firstErr [(entryOpc e == 7 && entryN e 16 1 == 2 && !((List.range 5).any c.part.hasLink), 0xA, 16)]

/-- Check 8: model or adapter. -/
def Chip.modelErr (c : Chip) (e : Line) (p : List Byte) : Option CmdErr :=
  let opc := entryOpc e
  let m := if opc = 1 then payN p 49 1 else if opc = 0x10 then entryN e 24 1 else entryN e 16 1
  let ad := if opc = 1 then payN p 50 1 else if opc = 0x10 then entryN e 25 1 else 0
  let has := (Store.get (fun _ => []) (c.model m).adapters ad) != ([] : List (Nat × Nat))
  let unload := opc == 0x10 && bitOf (entryN e 26 1) 0
  firstErr [
    (opc == 1 && decide (m < 8) && !c.loaded m, 7, 0x8000 + 49),
    (opc == 1 && decide (m < 8) && ad != 0 && !has, 7, 0x8000 + 50),
    (opc == 0x10 && decide (m < 8) && (unload || ad != 0) && !c.loaded m, 7, 24),
    (unload && decide (m < 8) && ad != 0 && !has, 7, 25),
    (opc == 0x11 && decide (m < 8) && !c.loaded m, 7, 16)]

/-- The checks that R374 and R416 make of the block's values, with a default for what is not marked. -/
def Chip.spbErr (c : Chip) (e : Line) (p : List Byte) : Option CmdErr :=
  let on (b : Nat) : Bool := entrySPB e && bitOf (spbValid p) b
  let tc := payN p 18 1
  firstErr [
    (on 1 && !finitePos (payN p 8 4), 5, 0x8000 + 8),
    (on 3 && decide (64 < payN p 16 2), 5, 0x8000 + 16),
    (on 4 && (tc == 0 || decide ((if c.v2 then 12 else 8) < tc)), 5, 0x8000 + 18)]

/-- An image of a spill now held by the module: its length, for R418. -/
def Chip.spillFits (c : Chip) (i hlen : Nat) : Bool := c.tkRoot i == 0 || decide (c.spillLength i ≤ hlen)

/-- A node that a present link joins (R592): a link up to it, or one that last met it. -/
def Chip.reachable (c : Chip) (node : Nat) : Bool := (List.range 5).any fun l => c.part.hasLink l && c.linkNode l == node && c.linkSt l != 0

/-- Check 9: values, in field order. -/
def Chip.valueErr (c : Chip) (e : Line) (p : List Byte) : Option CmdErr :=
  let opc := entryOpc e
  let im := (c.model (c.cmdModel e p)).image
  let vocab := mdlVocab im
  let toks := cmdTokens e p
  let n := entryN e 24 4
  let so := offStops e
  let area := ((List.range (2 * entryN e 40 2)).map (8 * ·)).find? fun o => payN p o 8 % 4096 != 0
  let stop := stopBad vocab (imB p so 384)
  firstErr [
    (opc == 1 && (n == 0 || decide (524287 < n)), 5, 24),
    (opc == 2 && n == 0, 5, 24),
    (opc == 7 && decide (3 < entryN e 16 1), 5, 16),
    (opc == 7 && entryN e 16 1 == 2 && !c.reachable (entryN e 17 1), 5, 17),
    (opc == 9 && decide (65536 < entryN e 28 4), 5, 28),
    (opc == 0x10 && decide (7 < entryN e 24 1), 5, 24),
    (opc == 0x11 && decide (7 < entryN e 16 1), 5, 16),
    (opc == 0x13 && decide (255 < entryN e 18 2), 5, 18),
    (opc == 0x13 && decide (16 < entryN e 40 2), 5, 40),
    (opc == 0x14 && (entryN e 32 4 == 0 || decide (2 ^ 20 < entryN e 32 4)), 5, 32),
    ((c.spbErr e p).isSome, 5, ((c.spbErr e p).map (·.off)).getD 0),
    (opc == 1 && ((payN p 40 8 ||| mdlSkip im) != mdlSkip im || decide (2 ^ mdlLayers im ≤ payN p 40 8)), 5, 0x8000 + 40),
    (opc == 1 && !hotAllowed im (payN p 48 1), 5, 0x8000 + 48),
    (opc == 1 && decide (7 < payN p 49 1), 5, 0x8000 + 49),
    (entrySTOPS e && stop.isSome, 5, 0x8000 + so + stop.getD 0),
    (toks.any (fun t => decide (vocab ≤ t)), 5, 0x8000 + offTokens e + 4 * (toks.takeWhile fun t => decide (t < vocab)).length),
    (opc == 0x13 && area.isSome, 5, 0x8000 + area.getD 0),
    (entryMAP e && !mapVisible im (imB p (offMap e) (mapLen e)) (c.cmdFirst e) (cmdNtok e), 5, 0x8000 + offMap e)]

/-- Check 11: a map too short, a spill range too small or misaligned. -/
def Chip.rangeErr (c : Chip) (e : Line) (p : List Byte) : Option CmdErr :=
  let m := imB p (offMap e) (mapLen e)
  let first := c.cmdFirst e
  let last := first + cmdNtok e - 1
  let i := (entryTicket e).toNat % 2 ^ 20
  firstErr [
    (entryMAP e && decide (mapNqb m ≤ last / 128 - first / 128), 0xC, 0x8000 + offMap e + 4),
    (entryMAP e && decide (mapNkb m ≤ last / 128), 0xC, 0x8000 + offMap e + 6),
    (entryOpc e == 7 && entryN e 16 1 == 0 && entryN e 24 8 % 4096 != 0, 0xC, 24),
    (entryOpc e == 7 && entryN e 16 1 == 0 && !c.spillFits i (entryN e 32 8), 0xC, 32)]

/-- The first that is present. -/
def orErr (a b : Option CmdErr) : Option CmdErr := match a with | some x => some x | none => b

/-- Every check that R602 makes at acceptance, in its order. Reserved parts of a payload are looked for wherever the payload was read. -/
def Chip.cmdErr (c : Chip) (q : Nat) (e : Line) (p raw : List Byte) (bufs : Option (List (Nat × Nat))) (good : Bool) : Option CmdErr :=
  let opc := entryOpc e
  let read := good && bufs.isSome
  if !opcKnown opc then some ⟨1, 0⟩
  else
    orErr (reservedErr c.v1 e) <| orErr (if read then reservedPay c.v1 e p else none) <|
    orErr (firstErr [(!c.cqEnabled (entryCring e), 8, 6)]) <| orErr (c.negotiationErr q e p) <| orErr (payloadErr c.v1 e p raw bufs good) <| orErr (c.absentErr e) <|
    orErr (firstErr [(opcTicket opc && (c.liveIdx (entryTicket e)).isNone, 3, 8)]) <| orErr (c.modelErr e p) <| orErr (c.valueErr e p) <|
    orErr (firstErr [(opc == 2 && decide (524288 < c.ntokDue (entryTicket e) + entryN e 24 4), 0xB, 24)]) (c.rangeErr e p)

/-! ### Acceptance (R415) -/

/-- The CMD journal entry (Table 14-15); its sequence number is the command's. -/
def Chip.journalCmd (c : Chip) (q : Nat) (e : Line) (err : Nat) : Chip × BitVec 48 :=
  let seq := BitVec.ofNat 48 (c.rdF Reg.jtail 0 48)
  (c.journal 1 (entryTicket e) ([BitVec.ofNat 8 (entryOpc e), BitVec.ofNat 8 q] ++ leBytes 2 (entryCid e) ++ leBytes 2 (c.sqHead q)
    ++ leBytes 2 (entryCring e) ++ leBytes 4 (if entryOpc e = 1 ∨ entryOpc e = 2 then entryN e 24 4 else 0) ++ [BitVec.ofNat 8 err]), seq)

/-- ERROR of a command that is rejected. -/
def Chip.rejectCmd (c : Chip) (q : Nat) (e : Line) (seq : BitVec 48) (x : CmdErr) : Chip :=
  c.postError ⟨BitVec.ofNat 16 (entryCid e), entryCring e, entryOpc e, seq, q⟩ (entryTicket e) x.code x.off

/-- HEAD of SQ q passes n entries. -/
def Chip.sqAdvance (c : Chip) (q n : Nat) : Chip := c.wrF (Reg.sqStat q) 0 16 ((c.sqHead q + n) % c.sqSize q)

/-- The command at HEAD is longer than its ring (R412): ERROR 0x06 at OFFSET 2, HEAD past its first entry, and the SQ stands stopped. -/
def Chip.overlong (c : Chip) (q : Nat) : Chip :=
  let e := c.sqEntry q (c.sqHead q)
  let idx := c.sqHead q
  let (c, seq) := c.journalCmd q e 6
  let c := c.rejectCmd q e seq ⟨6, 2⟩
  ((c.sqAdvance q 1).wrF (Reg.sqStat q) 17 1 1).notice 0x0703 1 q idx

/-- The copy of an explicit mask map that the usher makes at acceptance (R417); none where there is none, or no frame is free yet. -/
def Chip.mapCopy (c : Chip) (e : Line) (p : List Byte) : Chip × Option Nat :=
  if mapLen e = 0 then (c, none)
  else match c.takeBlock 0 (mapLen e) 2048 with
    | some (c, a) => (c.memWrite a (imB p (offMap e) (mapLen e)), some a)
    | none => (c, none)

/-- A command with its payload joins the accepted commands (R415). An ADMIT, FEED, RUN or PARK that comes while the epoch is not open waits for it (Table 11-18). -/
def Chip.acceptCmd (c : Chip) (q : Nat) (e : Line) (seq : BitVec 48) (p : List Byte) (bufs : List (Nat × Nat)) : Chip :=
  let (c, map) := c.mapCopy e p
  let m : HostCmd := { seq := seq, sq := BitVec.ofNat 8 q, entry := e, payload := p, bufs := bufs, map := map, fed := false, late := decide (entryOpc e ≤ 4) && c.epochState != 1 }
  { c with host := { c.host with accepted := c.host.accepted ++ [m] } }

/-- Take the command at the head of SQ q (R407, R408, R412, R415), when its opcode is what `ok` says: it is journalled, and rejected, or
joins the accepted commands. -/
def Chip.takeCmd (c : Chip) (q : Nat) (ok : Line → Bool) (good : Bool) : Chip :=
  let e := c.sqEntry q (c.sqHead q)
  if !c.sqReady q || !c.sqTurn q || !ok e then c
  else if c.sqOverlong q then (c.serve q).overlong q
  else
    let c := c.serve q
    let n := entryNcont e
    let list := entrySL e || opcList (entryOpc e)
    let bufs := if list then scatter c.hostMem (2 ^ 60) (entryN e (paddrOff (entryOpc e)) 8) else some []
    let raw := c.inline q n
    let p := if entrySL e then bufBytes c.hostMem (bufs.getD []) else raw.take (entryPlen e)
    let err := c.cmdErr q e p raw bufs good
    let (c, seq) := c.journalCmd q e ((err.map (·.code)).getD 0)
    let c := match err with
      | some x => c.rejectCmd q e seq x
      | none => c.acceptCmd q e seq p (bufs.getD [])
    c.sqAdvance q (1 + n)

end Sys2Proof.Machine
end

