-- ==== Sys2Proof/Machine/HostEffects.lean ====
section
/-! DEFINITION. What accepted host commands do when they take effect (R366, R374 to R395, R415 to R421, R424), and the waits of Table
13-5 and Table 11-18. -/

namespace Sys2Proof.Machine

/-! ### Parts of sessions -/

/-- DONE with reason COMMAND of a command that names no ticket. -/
def Chip.doneCommand (c : Chip) (a : Ans) (status : Nat) (result : List Byte) : Chip :=
  c.postFor a.cring (some a) 3 0 0 (doneBody 0 0 status a.opc 0 0 result)

/-- DONE with reason CAPACITY, naming no ticket (R374). -/
def Chip.doneCapacity (c : Chip) (a : Ans) : Chip := c.postFor a.cring (some a) 3 0 0 (doneBody 0 9 0 0 0 0 [])

/-- DONE with reason COMMAND of a ticket. -/
def Chip.doneTicket (c : Chip) (i : Nat) (a : Ans) (status : Nat) (result : List Byte) : Chip :=
  c.postFor a.cring (some a) 3 0 (c.tkWord i) (doneBody (c.tkNtok i) 0 status a.opc (c.tk i 0x70 8) (c.tk i 0x58 8) result)

/-- Put the sampling fields that VALID marks into a descriptor's 128 bytes (R382, R383, R416). -/
def putParams (p : List Byte) (d : Nat) : Nat :=
  let v := spbValid p
  let set (b : Nat) (off n src : Nat) (d : Nat) : Nat := if bitOf v b then setField d (8 * off) (8 * n) (payN p src n) else d
  let d := set 0 0x38 8 0 d
  let d := set 1 0x40 4 8 d
  let d := set 2 0x44 4 12 d
  let d := set 3 0x48 2 16 d
  let d := if bitOf v 4 then setField d (8 * 0xA) 4 (payN p 18 1) else d
  let d := if bitOf v 5 then setField d (8 * 6) 5 (payN p 19 1) else d
  let d := set 6 0x18 4 20 d
  let d := set 7 0x4C 4 24 d
  let d := set 8 0x1C 4 28 d
  set 9 0x70 8 32 d

/-- Write both lines of a descriptor. -/
def Chip.tkPutAll (c : Chip) (i d : Nat) : Chip := (c.tkPut i 0 64 (d % 2 ^ 512)).tkPut i 64 64 (d / 2 ^ 512)

/-- The defaults of Table 14-8 in a descriptor. -/
def paramDefaults : Nat :=
  setField (setField (setField (setField 0 (8 * 6) 8 3) (8 * 0xA) 8 1) (8 * 0x40) 32 0x3F800000) (8 * 0x44) 32 0x3F800000

/-- Log directories in two towers, empty. -/
def Chip.newLog (c : Chip) : Option (Chip × Nat × Nat) :=
  (c.takeTwo 512 64).map fun r => ((r.1.memWrite r.2.1 (leBytes 512 0)).memWrite r.2.2 (leBytes 512 0), r.2)

/-- A command's explicit mask map becomes its ticket's for the n positions from the first (R417): the copy made at acceptance, or one made now; none where no frame is
free. -/
def Chip.keepMap (c : Chip) (i first n : Nat) (m : HostCmd) : Option Chip :=
  let join (c : Chip) (a : Nat) : Chip := c.setAux i fun x => { x with maps := x.maps ++ [⟨first, first + n - 1, a, mapLen m.entry⟩] }
  if mapLen m.entry = 0 then some c
  else match m.map with
    | some a => some (join c a)
    | none => match c.mapCopy m.entry m.payload with
      | (c, some a) => some (join c a)
      | (_, none) => none

/-- The command has taken effect: the copy of its map is freed where no ticket holds it. -/
def Chip.mapLeft (c : Chip) (m : HostCmd) : Chip :=
  match m.map with
  | some a => if c.ush.aux.any fun e => e.2.maps.any fun x => x.addr == a then c else c.freeBlock a
  | none => c

/-- Free the maps whose positions have been computed (R417). -/
def Chip.dropMaps (c : Chip) (i : Nat) : Chip :=
  let l := (c.aux i).maps.filter fun m => decide (m.last < c.npos i)
  if l.isEmpty then c
  else (l.foldl (fun c m => c.freeBlock m.addr) c).setAux i fun x => { x with maps := x.maps.filter fun m => !l.contains m }

/-! ### ADMIT (R374, R375) -/

/-- ADMIT takes effect: index, stop set, log and descriptor; root and tower directories, where frames allow (TICKET_BOUND makes up for them later); SETTLED; the DONE; ADMITTED. None where something of these is not to be had. DEDUCED: log entry 64. -/
def Chip.admitTicket (c : Chip) (m : HostCmd) : Option Chip :=
  let e := m.entry
  let p := m.payload
  let toks := cmdTokens e p
  let sr : Option (Chip × Nat) := if entrySTOPS e then c.takeStop (imB p (offStops e) 384) else some (c, 0xFFFF)
  match sr with
  | none => none
  | some (c, stop) =>
    match c.takeIndex with
    | none => none
    | some (c, i) =>
      match c.newLog with
      | none => none
      | some (c, d0, d1) =>
        let d := paramDefaults + c.tkTicket i + payN p 48 1 * 2 ^ (8 * 7) + payN p 49 1 * 2 ^ (8 * 8) + payN p 50 1 * 2 ^ (8 * 9)
          + entryCring e * 2 ^ (8 * 0xC) + stop * 2 ^ (8 * 0xE) + payN p 40 8 * 2 ^ (8 * 0x50) + d0 * 2 ^ (8 * 0x60) + d1 * 2 ^ (8 * 0x68)
        let c := c.tkPutAll i (putParams p d)
        match c.logAppend i toks with
        | none => none
        | some c =>
          match Chip.keepMap c i 0 toks.length m with
          | none => none
          | some c =>
            let c := ((c.tkPut i 0x14 4 toks.length).setFlag i 4 true).setAux i fun x => { x with posted := toks.length }
            let c := match c.newRoot (c.model (c.tkModel i)).image 0 with | some (d, root) => d.tkPut i 0x20 8 root | none => c
            let c := c.doneTicket i m.ans 0 []
            some (c.setState i 1 m.seq)

/-! ### FEED and RUN (R382, R383) -/

/-- Append a FEED's tokens; none where no frame is free for the log or the map. -/
def Chip.feedTokens (c : Chip) (i : Nat) (m : HostCmd) : Option Chip :=
  let first := c.tkNtok i
  match c.logAppend i ((cmdTokens m.entry m.payload).map fun t => t + 2 ^ 25) with
  | none => none
  | some c =>
    (c.keepMap i first (cmdNtok m.entry) m).map fun c =>
      c.setAux i fun x => { x with posted := c.tkNtok i }

/-- The ticket's turn begins: TURN0, the parameters, RUNNABLE. -/
def Chip.resume (c : Chip) (i : Nat) (m : HostCmd) : Chip :=
  let d := c.tk i 0 128
  let d := if entrySPB m.entry then putParams m.payload d else d
  let d := setField (setField d (8 * 0x14) 32 (c.tkNtok i)) (8 * 5 + 5) 1 0
  ((c.tkPut i 64 64 (d / 2 ^ 512)).setStateWith i 3 m.seq fun l =>
    setField (setField (d % 2 ^ 512) 32 4 (field l 32 4)) (8 * 0x28) 64 (field l (8 * 0x28) 64)).setAux i fun x => { x with demAt := 0 }

/-! ### Spill and recall (R388, R390, R391, R418) -/

/-- The first range of n bytes, in 4 KiB units, of the areas granted that no spill holds. -/
def Chip.findArea (c : Chip) (n : Nat) : Option Nat :=
  let n := (n + 4095) / 4096 * 4096
  let cand := c.host.areas.map (·.1) ++ c.host.taken.map fun r => (r.1 + r.2 + 4095) / 4096 * 4096
  cand.find? fun a => (c.host.areas.any fun r => decide (r.1 ≤ a ∧ a + n ≤ r.1 + r.2)) && !c.host.taken.any fun r => overlap r.1 r.2 a n

/-- Begin a spill to a target: SPILLING; a peer is asked for an annex (R459). -/
def Chip.spillStart (c : Chip) (i : Nat) (tgt : SpillTo) (ans : Option Ans) : Chip :=
  let c := c.setFlag i 1 true
  let c := match tgt with
    | .host a n true => { c with host := { c.host with taken := c.host.taken ++ [(a, n)] } }
    | _ => c
  let c := c.setAux i fun x => { x with spill := some tgt, spillAns := ans.toList, annex := none }
  let c := c.spillStage i (c.modelId (c.tkModel i))
  match tgt with
  | .host _ _ _ => c
  | .peer node =>
    match c.linksTo node with
    | [] => c.spillAbandon i
    | l :: _ =>
      c.sendMsg l 1 true (.spill i) (leBytes 8 (c.spillLength i) ++ [1, 0, 0, 0] ++ leBytes 4 (c.tkTicket i) ++ leBytes 8 (2 ^ 62 + i) ++ leBytes 4 (c.modelId (c.tkModel i)))

/-- A range of the spill areas for a ticket. -/
def Chip.areaFor (c : Chip) (i : Nat) : Option SpillTo :=
  let n := c.spillLength i
  (c.findArea n).map fun a => .host a n true

/-- A peer that the module's links reach. -/
def Chip.anyPeer (c : Chip) : Option SpillTo := ((List.range 5).find? c.linkUp).map fun l => .peer (c.linkNode l)

/-- Where the usher itself may spill a ticket, by SPOL: the host's areas first, else a peer (R388). -/
def Chip.usherTarget (c : Chip) (i : Nat) : Option SpillTo :=
  let host := if c.feature 1 then c.areaFor i else none
  let peer := if c.feature 2 ∨ !c.v2 then c.anyPeer else none
  match c.tkSpol i with
  | 0 => (match host with | some t => some t | none => peer)
  | 1 => host
  | 2 => peer
  | _ => none

/-- Begin a recall (R391): RECALLING, its slots, and the read of its image. -/
def Chip.recallStart (c : Chip) (i : Nat) (ans : Option Ans) : Chip :=
  ((c.setFlag i 2 true).setAux i fun x => { x with recallAns := x.recallAns ++ ans.toList, recallAt := 0, recallBad := false }).recallBegin i
    (c.model (c.tkModel i)).image

/-- A remote chunk begins to move back: a GET of its image's header from the annex (R277, R460). It stays remote where no link reaches its peer. DEDUCED: log entry 91. -/
def Chip.chunkRecall (c : Chip) (i t k : Nat) : Chip :=
  let b := c.cblk (c.tkRoot i) t k
  let node := field b 32 8
  let annex : Word := BitVec.ofNat 32 (field b 0 32)
  if c.tkRoot i = 0 ∨ !bitOf b 63 ∨ c.lk.backs.any (fun o => o.i == i && o.t == t && o.k == k) then c
  else
    match c.bulkLink node 0 with
    | none => c
    | some l =>
      let c := { c with lk := { c.lk with backs := c.lk.backs ++ [ChunkBack.mk i t k node annex 0 []] } }
      c.request l { c.txn 2 true with annex := annex, len := 128 } (.back i t k 0)

/-- DEMOTING, SPILLING or RECALLING. -/
def Chip.busy (c : Chip) (i : Nat) : Bool := c.tkFlag i 0 || c.tkFlag i 1 || c.tkFlag i 2

/-- The parked ticket that the usher spills next (R388), and where. -/
def Chip.spillNext (c : Chip) : Option (Nat × SpillTo) :=
  let l := c.liveTickets.filter fun i => (c.tkState i == 5 || c.tkState i == 6) && !c.busy i && c.tkSpol i != 3 && (c.rehangOf (c.tkWord i)).isNone
  let order := l.mergeSort fun a b => decide (c.tkPrio a < c.tkPrio b) || (c.tkPrio a == c.tkPrio b && decide (c.tkSince a ≤ c.tkSince b))
  order.foldl (fun r i => match r with | some x => some x | none => (c.usherTarget i).map fun t => (i, t)) none

/-! ### FORK (R385) -/

/-- The chunk blocks of a root that lie here: tower and chunk. -/
def Chip.chunksHere (c : Chip) (root : Nat) : List (Nat × Nat) :=
  ((List.range 256).map fun x => (x / 64, x % 64)).filter fun x =>
    c.rootHt root x.1 != 0 && !bitOf (c.cblk root x.1 x.2) 63 && field (c.cblk root x.1 x.2) 0 40 != 0

/-- One reference more for every slot of a FORK's source; a slot with 65,535 references is copied by a job (R385). None where frames lack. -/
def Chip.forkSlots (c : Chip) (j src : Nat) : Option Chip :=
  (c.pagesOf src).foldl (fun c e =>
    match c with
    | none => none
    | some c =>
      let s := field e.2.2 0 40
      let fmt := field e.2.2 40 4
      if Chip.slotRef c s < 65535 then some (Chip.slotInc c s)
      else (Chip.takeSlot c (s / 2 ^ 38) (slotClass fmt)).map fun y => Chip.addWork y.1 (s / 2 ^ 38) .copy (.fork j) [(s, y.2, pageBytes fmt)]) (some c)

/-- New tables for a FORK's ticket j, of the form of its source's, its remote chunks named, and the jobs that copy the source's table lines, one each (R385, R386). None
where frames lack. -/
def Chip.forkTables (c : Chip) (j src : Nat) : Option (Chip × Nat) :=
  match c.newRootOf (c.rootLayers src) (c.memNum (src + 8) 4) (c.rootHt src) with
  | none => none
  | some (c, root) =>
    let c := (c.remotesOf src).foldl (fun c e => Chip.memWriteNum c (field (c.tdir root e.1) 0 40 + 8 * e.2.1) 8 e.2.2) c
    let r := (c.chunksHere src).foldl (fun c x =>
      match c with
      | none => none
      | some c =>
        (Chip.needChunk c root x.1 x.2).map fun c =>
          let a := field (c.cblk src x.1 x.2) 0 40
          let b := field (c.cblk root x.1 x.2) 0 40
          (List.range (c.rootLayers src * c.rootHt src x.1 * 16)).foldl (fun c n =>
            Chip.addWork c x.1 .copy (.fork j) [(a + 64 * n, b + 64 * n, 64)]) c) (some c)
    match r with
    | none => none
    | some c => (c.forkSlots j src).map fun c => (c.sendWorks, root)

/-- Copies of the explicit mask maps of a ticket for its fork. -/
def Chip.forkMaps (c : Chip) (i j : Nat) : Option Chip :=
  (c.aux i).maps.foldl (fun c m =>
    match c with
    | none => none
    | some c => (Chip.takeBlock c 0 m.len 2048).map fun r =>
      (r.1.copyMem m.addr r.2 m.len).setAux j fun x => { x with maps := x.maps ++ [{ m with addr := r.2 }] }) (some c)

/-- FORK takes effect at a boundary of its source: the new ticket stands in FORKING with its log and tables, and the jobs of its copies are issued. None where
something is not to be had. -/
def Chip.fork (c : Chip) (i : Nat) (m : HostCmd) : Option Chip :=
  match c.takeIndex with
  | none => none
  | some (c, j) =>
    match c.newLog with
    | none => none
    | some (c, d0, d1) =>
      let src := c.tk i 0 128
      let d := if entrySPB m.entry then putParams m.payload src else src
      let d := setField (setField (setField d 0 32 (c.tkTicket j)) 32 8 0) 40 8 (field src 40 8 % 32 / 8 * 8)
      let d := setField (setField (setField d (8 * 0xC) 16 (entryCring m.entry)) (8 * 0x20) 64 0) (8 * 0x30) 64 0
      let d := setField (setField (setField d (8 * 0x58) 64 0) (8 * 0x60) 64 d0) (8 * 0x68) 64 d1
      let toks := (List.range (c.tkNtok i)).map fun p => c.logEntry i p
      let c := c.tkPutAll j (setField d (8 * 0x10) 32 0)
      match c.logAppend j toks with
      | none => none
      | some c =>
        match Chip.forkTables c j (c.tkRoot i) with
        | none => none
        | some (c, root) =>
          match Chip.forkMaps (c.tkPut j 0x20 8 root) i j with
          | none => none
          | some c =>
            let c := c.shareStop (c.tk i 0xE 2)
            let c := c.setAux j fun x => { x with posted := toks.length, fork := some (c.tkWord i, m), kept := (c.aux i).kept }
            some (c.setState j 8 m.seq)

/-! ### Management commands (R419 to R421, R424, R429) -/

/-- The QUERY record of a ticket (Table 14-9). -/
def Chip.queryRecord (c : Chip) (i : Nat) : List Byte :=
  let root := c.tkRoot i
  let ps := c.pagesOf root
  let hot := (ps.filter fun e => field e.2.2 40 4 != 8).length
  let shared := (ps.filter fun e => decide (1 < c.slotRef (field e.2.2 0 40))).length
  leBytes 128 (c.tk i 0 128) ++ leBytes 4 (c.npos i) ++ leBytes 4 (c.pendingTokens i) ++ leBytes 4 hot ++ leBytes 4 (ps.length - hot)
    ++ leBytes 4 (c.remotesOf root).length ++ leBytes 4 shared
    ++ leBytes 8 (Store.get zeroSeq c.host.lastSeq (c.tkTicket i)).toNat ++ leBytes 96 0

/-- QUERY takes effect. -/
def Chip.query (c : Chip) (i : Nat) (m : HostCmd) : Chip :=
  let e := m.entry
  let room := bufLen m.bufs
  let n := if entryLOG e then min (entryN e 28 4) ((room - 256) / 4) else 0
  let log := (List.range n).foldr (fun k l =>
    let p := entryN e 24 4 + k
    leBytes 4 (if p < c.tkNtok i then c.logEntry i p else 0) ++ l) []
  let out := c.queryRecord i ++ log
  ({ c with hostMem := bufWrite c.hostMem m.bufs out }).doneTicket i m.ans 0 (leBytes 4 out.length)

/-- JOURNAL_READ takes effect. -/
def Chip.journalRead (c : Chip) (m : HostCmd) : Chip :=
  let e := m.entry
  let from_ := max (entryN e 24 6) (c.rdF Reg.jhead 0 48)
  let n := min (min (entryN e 32 4) (bufLen m.bufs / 64)) (c.rdF Reg.jtail 0 48 - from_)
  let at_ (k : Nat) : Nat := c.rdF Reg.jbase 0 40 + 64 * ((from_ + k) % 2 ^ 20)
  let c := (List.range n).foldl (fun c k => Chip.memTouch c (at_ k) 64) c
  let out := (List.range n).foldr (fun k l =>
    let a := at_ k
    let b := c.memBytes a 64
    (if c.linePoisoned (a / 64) then b.take 6 ++ [0xFF] ++ b.drop 7 else b) ++ l) []
  ({ c with hostMem := bufWrite c.hostMem m.bufs out }).doneCommand m.ans 0 (leBytes 6 from_ ++ [0, 0] ++ leBytes 4 n)

/-- The features that a version allows (Table 14-13) and the part has. -/
def Chip.featAllowed (c : Chip) (v : Nat) : Nat := if v < 0x200 then 0x28 else if c.part.hasTrain then 0x3FF else 0x3BF

/-- The highest version supported that an offer allows (R424). -/
def versionFor (offer : Nat) : Option Nat := [0x200, 0x102, 0x101, 0x100].find? fun v => decide (v ≤ offer)

/-- NEGOTIATE takes effect (R424, R425). -/
def Chip.negotiate (c : Chip) (m : HostCmd) : Chip :=
  let e := m.entry
  let stands := leBytes 2 (c.rdF Reg.hifStat 16 16) ++ leBytes 2 0x200 ++ leBytes 8 (c.rd Reg.hifFeat)
  match versionFor (entryN e 16 2) with
  | none => c.doneCommand m.ans 6 stands
  | some v =>
    let feat := entryN e 24 8 &&& c.featAllowed v
    let old := c.rd Reg.hifFeat
    let live := !c.liveTickets.isEmpty
    if c.host.negotiated ∧ live ∧ (v ≠ c.rdF Reg.hifStat 16 16 ∨ feat &&& old ≠ old) then c.doneCommand m.ans 4 stands
    else
      let areas := (List.range (entryN e 40 2)).map fun k => (payN m.payload (16 * k) 8, payN m.payload (16 * k + 8) 8)
      let c := ((c.wrF Reg.hifStat 16 16 v).wrF Reg.hifStat 8 8 (entryN e 18 2)).wr Reg.hifFeat feat
      let c := { c with host := { c.host with negotiated := true, areas := c.host.areas ++ areas.filter fun a => !c.host.areas.contains a } }
      c.doneCommand m.ans 0 (leBytes 2 v ++ leBytes 2 0x200 ++ leBytes 8 feat)

/-- BUDGET_SET takes effect (R481). -/
def Chip.budgetSet (c : Chip) (m : HostCmd) : Chip :=
  if c.rdF Reg.bellowsCtl 0 2 ≠ 1 then c.doneCommand m.ans 5 []
  else
    let c := (c.wr Reg.grant (entryN m.entry 16 4)).onUsh fun u => { u with grantHold := bitOf (entryN m.entry 20 1) 0 }
    c.doneCommand m.ans 0 []

/-- The selection that a PLAN_SELECT names (R419). -/
def Chip.selectionOf (c : Chip) (m : HostCmd) : Selection :=
  let e := m.entry
  let r := modelRec (c.model (entryN e 16 1)).image
  let ovr (b off n roff : Nat) : Nat := if bitOf (entryN e 17 1) b then entryN e off n else imN r roff n
  { midx := entryN e 16 1, longp := ovr 0 24 4 32, pfmin := ovr 1 28 4 36, pfwait := ovr 2 32 4 40, pfmax := ovr 3 36 4 44,
    dplan := ovr 4 18 2 52, pplan := ovr 5 20 2 54, tplan := if c.v1 then 0xFFFF else entryN e 22 2,
    tickets := (List.range (m.payload.length / 4)).map fun k => BitVec.ofNat 32 (payN m.payload (4 * k) 4), ans := some m.ans }

/-- A selection passes R299: each plan it names is in the model, of its phase, usable on the part, and not marked faulty. -/
def Chip.selectionOk (c : Chip) (s : Selection) : Bool :=
  let im := (c.model s.midx).image
  let ok (id phase : Nat) : Bool := match imPlan im id with
    | some p => plPhase p == phase && planUsable c.part p && !c.ush.tdown.any (plUses p) && (!plTrain p || c.part.hasTrain) && !c.ush.faulty.contains (s.midx, id)
    | none => false
  ok s.dplan 1 && (s.pplan == 0xFFFF || ok s.pplan 0) && (s.tplan == 0xFFFF || ok s.tplan 2)

/-- PLAN_SELECT takes effect: the changeover to its plan begins, or is recorded to follow the one that is due or runs. None while one is recorded. -/
def Chip.planSelect (c : Chip) (m : HostCmd) : Option Chip :=
  let s := c.selectionOf m
  if !c.selectionOk s then some (c.doneCommand m.ans 1 [])
  else if c.ush.nextSel.isSome then none
  else if (c.epochState = 0 ∨ c.epochState = 1) ∧ !(c.ush.sel.any fun x => x.ans.isSome) then
    some ((c.onUsh fun u => { u with sel := some s, want := if s.tplan = 0xFFFF then 1 else 2 }).changeoverDue)
  else some (c.onUsh fun u => { u with nextSel := some s })

/-! ### Models (R420, R600) -/

/-- Where the plans of a model bind weight sections: section and tower. A section that no usable plan binds is placed in TOWER[0]. -/
def weightPlaces (part : Part) (im : List Byte) : List (Nat × Nat) :=
  let bound := (imPlans im).foldl (fun l p =>
    if !planUsable part p then l
    else (List.range 15).foldl (fun l i =>
      let e := plRegion p (i + 1)
      if imN e 0 1 ≠ 1 then l
      else l ++ (((List.range 4).filter fun t => if imN e 1 1 = 0xFF then plUses p t else imN e 1 1 == t).map fun t => (imN e 4 4, t)).filter
        fun x => !l.contains x) l) []
  bound ++ ((imOf im 0x11).filter fun s => !bound.any fun b => b.1 == s.sid).map fun s => (s.sid, 0)

/-- Bytes that a plan's SCRATCH and PSTORE regions take in tower t. -/
def scratchOf (p : List Byte) (t : Nat) : Nat :=
  (List.range 15).foldl (fun a i =>
    let e := plRegion p (i + 1)
    if (imN e 0 1 = 4 ∨ imN e 0 1 = 5) ∧ (imN e 1 1 = t ∨ (imN e 1 1 = 0xFF ∧ plUses p t)) then a + imN e 8 8 else a) 0

/-- The largest over the usable plans (R600). -/
def scratchNeed (part : Part) (im : List Byte) (t : Nat) : Nat :=
  ((imPlans im).filter (planUsable part)).foldl (fun n p => max n (scratchOf p t)) 0

/-- Lay sections out from offset o, each aligned as its PALIGN says and at least as windows are (R250): (SID, offset), and the end. -/
def laySects (o : Nat) : List Sect → List (Nat × Nat) × Nat
  | [] => ([], o)
  | s :: l =>
    let n := 2 ^ max 16 s.palign
    let a := (o + n - 1) / n * n
    let r := laySects (a + s.len) l
    ((s.sid, a) :: r.1, r.2)

/-- Place sections of an image, and n further bytes at 64 KiB, in one run of free frames of tower t: the frames, where each section lies, and where the rest begins. -/
def Chip.placeRun (c : Chip) (im : List Byte) (t : Nat) (ss : List Sect) (n : Nat) : Option (Chip × List Nat × List (Nat × Nat) × Nat) :=
  let (offs, e) := laySects 0 ss
  let rest := (e + 65535) / 65536 * 65536
  let total := rest + n
  if total = 0 then some (c, [], [], 0)
  else
    let k := (total + 2 ^ 21 - 1) / 2 ^ 21
    (c.takeFrames t k .held).map fun r =>
      let base := r.2 * 2 ^ 21
      let c := ss.foldl (fun c s =>
        match offs.find? fun o => o.1 == s.sid with
        | some o => Chip.memWrite c (base + o.2) (imB im s.off s.len)
        | none => c) r.1
      (c, (List.range k).map fun i => r.2 + i, offs.map fun o => (o.1, base + o.2), base + rest)

/-- Place sections and n further bytes: in one run of free frames, or where tower t has none so long, each in a run of its own. None where it lacks those too.
DESIGN CHOICE: log entry 92. -/
def Chip.placeIn (c : Chip) (im : List Byte) (t : Nat) (ss : List Sect) (n : Nat) : Option (Chip × List Nat × List (Nat × Nat) × Nat) :=
  match c.placeRun im t ss n with
  | some r => some r
  | none =>
    let r := ss.foldl (fun r s =>
      match r with
      | none => none
      | some (c, f, o) => (Chip.placeRun c im t [s] 0).map fun x => (x.1, f ++ x.2.1, o ++ x.2.2.1)) (some (c, ([] : List Nat), ([] : List (Nat × Nat))))
    match r with
    | none => none
    | some (c, f, o) => (Chip.placeRun c im t [] n).map fun x => (x.1, f ++ x.2.1, o, x.2.2.2)

/-- Place a model in every tower (R420). DESIGN CHOICE: log entry 92. -/
def Chip.placeModel (c : Chip) (midx : Nat) (im : List Byte) : Option Chip :=
  let places := weightPlaces c.part im
  let r := (List.range 4).foldl (fun r t =>
    match r with
    | none => none
    | some (c, w, sc, fr) =>
      if !c.hasTower t then some (c, w, sc ++ [0], fr)
      else
        match Chip.placeIn c im t ((imOf im 0x11).filter fun s => places.contains (s.sid, t)) (scratchNeed c.part im t) with
        | none => none
        | some (c, f, o, s) => some (c, w ++ o.map (fun x => (x.1, t, x.2)), sc ++ [s], fr ++ f))
    (some (c, ([] : List (Nat × Nat × Nat)), ([] : List Nat), ([] : List Nat)))
  r.map fun x => x.1.setModel midx { ModelSlot.empty with image := im, weights := x.2.1, scratch := x.2.2.1, frames := x.2.2.2 }

/-- The table of adapter bases at the start of region 15 of the plan loaded (R420). -/
def Chip.putAdapters (c : Chip) (midx : Nat) (p : List Byte) : Chip :=
  if regionKind p 15 ≠ 4 then c
  else
    ((c.towers.filter (plUses p)).filter fun t => imN (plRegion p 15) 1 1 == 0xFF || imN (plRegion p 15) 1 1 == t).foldl (fun c t =>
      (c.model midx).adapters.foldl (fun c a =>
        Chip.memWriteNum c (Chip.regionBase c midx p t 15 + 8 * a.1) 8 (match a.2.find? fun x => x.1 / 2 ^ 38 == t with | some x => x.1 | none => 0)) c) c

/-- The table of the plan that runs, where it is of this model. -/
def Chip.adaptersNow (c : Chip) (midx : Nat) : Chip :=
  match c.curPlan with
  | some x => if x.1 = midx then c.putAdapters midx x.2 else c
  | none => c

def noAdapter : Nat → List (Nat × Nat) := fun _ => []

/-- Place an adapter in every tower: (base, frames) of each. -/
def Chip.placeAdapter (c : Chip) (midx n : Nat) (im : List Byte) : Option Chip :=
  let r := c.towers.foldl (fun r t =>
    match r with
    | none => none
    | some (c, l) =>
      match Chip.placeIn c im t (imOf im 0x11) 0 with
      | none => none
      | some (c, f, _, _) => some (c, l ++ [(listGet 0 f 0 * 2 ^ 21, f.length)])) (some (c, ([] : List (Nat × Nat))))
  r.map fun x =>
    (x.1.setModel midx { x.1.model midx with adapters := Store.put noAdapter (x.1.model midx).adapters n x.2 }).adaptersNow midx

/-- Give an adapter's frames back. -/
def Chip.dropAdapter (c : Chip) (midx n : Nat) : Chip :=
  let l := Store.get noAdapter (c.model midx).adapters n
  let c := l.foldl (fun c a => (List.range a.2).foldl (fun c i => Chip.setFrame c (a.1 / 2 ^ 21 + i) .free) c) c
  (c.setModel midx { c.model midx with adapters := Store.put noAdapter (c.model midx).adapters n [] }).adaptersNow midx

/-- A live ticket or the selected plan uses a model, or its adapter (R420). -/
def Chip.modelBusy (c : Chip) (midx n : Nat) : Bool :=
  (c.liveTickets.any fun i => c.tkModel i == midx && (n == 0 || c.tk i 9 1 == n))
    || (n == 0 && ((match c.ush.sel with | some s => s.midx == midx | none => false) || (match c.ush.plan with | some p => p.1 == midx | none => false)))

/-- MODEL_LOAD with UNLOAD = 1 takes effect. -/
def Chip.modelUnload (c : Chip) (m : HostCmd) : Chip :=
  let midx := entryN m.entry 24 1
  let n := entryN m.entry 25 1
  let res := [BitVec.ofNat 8 midx, 0, 0, 0] ++ leBytes 4 (c.modelId midx)
  if c.modelBusy midx n then c.doneCommand m.ans 4 res
  else if n ≠ 0 then (c.dropAdapter midx n).doneCommand m.ans 0 res
  else
    let c := (c.model midx).adapters.foldl (fun c a => c.dropAdapter midx a.1) c
    let c := (c.model midx).frames.foldl (fun c f => c.setFrame f .free) c
    (c.setModel midx ModelSlot.empty).doneCommand m.ans 0 res

/-- The key hash that a model image's KEYIDX names (R526): fused keys 0 to 3, then the model keys of the firmware. -/
def Chip.keyHash (c : Chip) (k : Nat) : List Byte :=
  if k < 4 then (List.range 6).foldr (fun i l => leBytes 8 (c.rd (Reg.bringKey k i)) ++ l) [] else listGet [] c.sys.modelKeys (k - 4)

/-- The DONE status of an image's verification: 0x02 for checks 1 to 5 of R526, 0x01 for check 6. -/
def Chip.imageStatus (c : Chip) (im : List Byte) : Option Nat :=
  if (sigBad im false c.keyHash (c.rdF Reg.bringFuse 0 4) (c.rdF Reg.bringFuse 4 32)).isSome then some 2
  else if (imageBad im 2 c.part.bitNo).isSome then some 1 else none

/-- The pending 64 KiB ranges of a loaded model are rewritten from its image (R511). -/
def Chip.reloadRanges (c : Chip) (midx : Nat) (im : List Byte) : Chip :=
  let s := c.model midx
  let c := s.reload.foldl (fun c r =>
    match imSect im 0x11 r.1 with
    | none => c
    | some q =>
      let bs := (imB im q.off q.len).drop r.2 |>.take 65536
      (s.weights.filter fun w => w.1 == r.1).foldl (fun c w => Chip.memWrite c (w.2.2 + r.2) bs) c) c
  (c.setModel midx { c.model midx with reload := [] }).weightsDone midx

/-- The bytes from the base of a tower's KV frame pool to its end (R296). -/
def Chip.heapSpan (c : Chip) (t : Nat) : Nat :=
  match (List.range (2 ^ 17)).find? fun f => c.inPool (t * 2 ^ 17 + f), (List.range (2 ^ 17)).reverse.find? fun f => c.inPool (t * 2 ^ 17 + f) with
  | some a, some b => (b + 1 - a) * 2 ^ 21
  | _, _ => 0

/-- Every window on a KVHEAP region lies within its tower's pool (R298). -/
def Chip.heapWindowsOk (c : Chip) (im : List Byte) : Bool :=
  ((imPlans im).filter (planUsable c.part)).all fun p =>
    ((List.range 4).filter (plUses p)).all fun t =>
      match imSect im 0x23 (plStair p t) with
      | none => true
      | some s =>
        (List.range 768).all fun i =>
          let w := imB (imB im s.off s.len) (16 * i) 16
          let r := field (imN w 0 1) 4 4
          regionKind p r != 2 ||
            (let tw := if imN (plRegion p r) 1 1 = 0xFF then t else imN (plRegion p r) 1 1
             decide (imN w 8 8 + imN w 4 4 * 65536 ≤ c.heapSpan tw))

/-- MODEL_LOAD takes effect: an image into an index (ADAPT = 0) or an adapter of a loaded model. -/
def Chip.modelLoad (c : Chip) (m : HostCmd) : Chip :=
  let midx := entryN m.entry 24 1
  let n := entryN m.entry 25 1
  let im := bufBytes c.hostMem m.bufs
  let res (id : Nat) : List Byte := [BitVec.ofNat 8 midx, 0, 0, 0] ++ leBytes 4 id
  let fail (st : Nat) : Chip := c.doneCommand m.ans st (res (mdlId im))
  let bad := !modelOk c.part im
  if im.length ≠ sigAt im + 256 then fail 1
  else
    match c.imageStatus im with
    | some st => fail st
    | none =>
      if n = 0 then
        if c.loaded midx then
          (if mdlId im ≠ c.modelId midx ∨ (c.model midx).reload.isEmpty then fail 4
           else if bad then fail 1
           else (c.reloadRanges midx im).doneCommand m.ans 0 (res (mdlId im)))
        else if bad then fail 1
        else
          match c.placeModel midx im with
          | none => fail 3
          | some d => if d.heapWindowsOk im then d.doneCommand m.ans 0 (res (mdlId im)) else fail 1
      else if !adapterOk im ∨ mdlId im ≠ c.modelId midx then fail 1
      else if Store.get noAdapter (c.model midx).adapters n ≠ [] then fail 4
      else
        match c.placeAdapter midx n im with
        | none => fail 3
        | some c => c.doneCommand m.ans 0 (res (mdlId im))

/-! ### When a command takes effect (R366, R316) -/

/-- FORK, SPILL or RECALL of a ticket whose REHANG move is unflipped waits for epoch open from then on, as does what reached the usher in the changeover and waits for it
(Table 11-18). -/
def Chip.cmdLate (c : Chip) (m : HostCmd) : Bool :=
  c.epochState != 1 && (m.late || (decide (5 ≤ entryOpc m.entry ∧ entryOpc m.entry ≤ 8) && entryOpc m.entry != 6 && (c.rehangOf (entryTicket m.entry)).isSome))

/-- ERROR of an accepted command. -/
def Chip.cmdFail (c : Chip) (m : HostCmd) (code : Nat) : Option Chip := some (c.postError m.ans (entryTicket m.entry) code (if code = 3 then 8 else 0xFFFF))

/-- What became of a command that was asked to take effect: done, with the module after it; or still waiting, with the module as the wait
leaves it (a recall begun, a PARK recorded). -/
inductive Tried where
  | done (c : Chip)
  | wait (c : Chip)

/-- FEED and RUN. A FEED whose tokens are in the log joins the resumption of the one before it. DESIGN CHOICE: log entry 132. -/
def Chip.tryResume (c : Chip) (i : Nat) (m : HostCmd) : Tried :=
  let st := c.tkState i
  let rst := c.tkRstate i
  let go (c : Chip) : Tried :=
    if m.fed ∨ entryOpc m.entry = 3 then .done (c.resume i m)
    else if 524288 < c.tkNtok i + cmdNtok m.entry then .done (c.postError m.ans (entryTicket m.entry) 0xB 24)
    else match c.feedTokens i m with | some c => .done (c.resume i m) | none => .wait c
  if st = 5 ∨ st = 6 then
    if c.tkFlag i 0 then .wait c
    else if c.tkFlag i 1 then go (c.spillAbandon i)
    else go c
  else if st = 7 then (if c.tkFlag i 2 then .wait c else .wait (c.recallStart i none))
  else if st = 9 ∧ (rst = 5 ∨ rst = 6) then .wait c
  else if st = 3 ∧ m.fed then .done (c.resume i m)
  else .done (c.postError m.ans (entryTicket m.entry) 4 0xFFFF)

/-- PARK: of a RUNNING ticket at its table boundary (R384); in PARKQ where Table 13-5 has it wait. -/
def Chip.tryPark (c : Chip) (i : Nat) (m : HostCmd) : Tried :=
  let st := c.tkState i
  let rst := c.tkRstate i
  if st = 3 then .done (c.parkFor i 7 0 (some m.ans))
  else if st = 4 then (if c.inFlight (c.tkWord i) then .wait c else .done (c.parkFor i 7 0 (some m.ans)))
  else if st = 5 ∨ st = 6 ∨ st = 7 ∨ (st = 9 ∧ (rst = 5 ∨ rst = 6)) then .done (c.postDone i 7 0 (some m.ans))
  else if st = 1 ∨ st = 2 ∨ st = 9 then .wait (c.setFlag i 6 true)
  else .done (c.postError m.ans (entryTicket m.entry) 4 0xFFFF)

/-- FORK. -/
def Chip.tryFork (c : Chip) (i : Nat) (m : HostCmd) : Tried :=
  let st := c.tkState i
  if st = 8 ∨ st = 10 then .done (c.postError m.ans (entryTicket m.entry) 4 0xFFFF)
  else if c.busy i ∨ st = 1 ∨ st = 2 ∨ st = 9 ∨ (c.rehangOf (c.tkWord i)).isSome ∨ c.inFlight (c.tkWord i) then .wait c
  else if st = 7 then .wait (c.recallStart i none)
  else match c.fork i m with | some c => .done c | none => .done (c.doneCapacity m.ans)

/-- The target that a SPILL names. -/
def Chip.spillTarget (c : Chip) (i : Nat) (m : HostCmd) : Option SpillTo :=
  match entryN m.entry 16 1 with
  | 0 => some (.host (entryN m.entry 24 8) (entryN m.entry 32 8) false)
  | 1 => c.areaFor i
  | 2 => some (.peer (entryN m.entry 17 1))
  | _ => c.usherTarget i

/-- SPILL. -/
def Chip.trySpill (c : Chip) (i : Nat) (m : HostCmd) : Tried :=
  let st := c.tkState i
  if c.busy i ∨ (c.rehangOf (c.tkWord i)).isSome then .wait c
  else if st = 7 then
    let sp := c.tk i 0x30 8
    .done (c.postMove i 4 (some m.ans) (leBytes 4 (c.npos i) ++ [BitVec.ofNat 8 (sp % 4), 0, 0, 0] ++ leBytes 8 (c.aux i).imgLen ++ leBytes 8 sp))
  else if st = 5 ∨ st = 6 then
    match c.spillTarget i m with
    | none => .done (c.postError m.ans (entryTicket m.entry) 0xC 16)
    | some (.host a n ar) =>
      if !ar ∧ !c.spillFits i n then .done (c.postError m.ans (entryTicket m.entry) 0xC 32) else .done (c.spillStart i (.host a n ar) (some m.ans))
    | some t => .done (c.spillStart i t (some m.ans))
  else .done (c.postError m.ans (entryTicket m.entry) 4 0xFFFF)

/-- RECALL; the remote chunks of a resident ticket begin to move back (R277). -/
def Chip.tryRecall (c : Chip) (i : Nat) (m : HostCmd) : Tried :=
  let st := c.tkState i
  if st = 8 ∨ st = 10 then .done (c.postError m.ans (entryTicket m.entry) 4 0xFFFF)
  else if c.tkFlag i 2 ∨ (c.rehangOf (c.tkWord i)).isSome then .wait c
  else if st = 7 then .done (c.recallStart i (some m.ans))
  else .done (((c.remotesOf (c.tkRoot i)).foldl (fun c e => Chip.chunkRecall c i e.1 e.2.1) c).postMove i 5 (some m.ans)
    (leBytes 4 (c.npos i) ++ [BitVec.ofNat 8 st]))

/-- RELEASE: of a RUNNING ticket at its table boundary, the tokens pending before it posted first (R395). -/
def Chip.tryRelease (c : Chip) (i : Nat) (m : HostCmd) : Tried :=
  let st := c.tkState i
  let join (c : Chip) : Chip := c.setAux i fun x => { x with release := x.release ++ [m.ans] }
  if st = 8 then .done (c.postError m.ans (entryTicket m.entry) 4 0xFFFF)
  else if c.forkSource (c.tkWord i) then .wait c
  else if st = 10 then .done (join c)
  else
    let c := match c.rehangOf (c.tkWord i) with | some n => c.memWriteNum (c.moveAddr n + 1) 1 1 | none => c
    if st = 4 ∧ c.inFlight (c.tkWord i) then .wait ((c.flushTokens i).setAux i fun x => { x with leave := true })
    else .done (c.retire i [m.ans])

/-- A command is asked to take effect. -/
def Chip.tryCmd (c : Chip) (m : HostCmd) : Tried :=
  let opc := entryOpc m.entry
  let opened := c.epochState == 1 || !m.late
  if opcTicket opc then
    match c.liveIdx (entryTicket m.entry) with
    | none => .done (c.postError m.ans (entryTicket m.entry) 3 8)
    | some i =>
      let c := c.mend i
      if c.tkState i = 10 ∧ opc ≠ 6 ∧ opc ≠ 9 then
        (if m.seq.toNat < (c.aux i).retSeq then .wait c else .done (c.postError m.ans (entryTicket m.entry) 4 0xFFFF))
      else
        match opc with
        | 2 => if opened then c.tryResume i m else .wait c
        | 3 => if opened then c.tryResume i m else .wait c
        | 4 => if opened then c.tryPark i m else .wait c
        | 5 => if c.cmdLate m then .wait c else c.tryFork i m
        | 6 => c.tryRelease i m
        | 7 => if c.cmdLate m then .wait c else c.trySpill i m
        | 8 => if c.cmdLate m then .wait c else c.tryRecall i m
        | _ => .done (c.query i m)
  else
    match opc with
    | 1 => if opened then (match c.admitTicket m with | some c => .done c | none => .done (c.doneCapacity m.ans)) else .wait c
    | 0x10 => .done (if bitOf (entryN m.entry 26 1) 0 then c.modelUnload m else c.modelLoad m)
    | 0x11 => match c.planSelect m with | some c => .done c | none => .wait c
    | 0x12 => .done (c.budgetSet m)
    | 0x13 => .done (c.negotiate m)
    | _ => .done (c.journalRead m)

/-- FEED and RUN wait in the ticket's state (Table 13-5). -/
def Chip.resumeWaits (c : Chip) (i : Nat) : Bool :=
  let st := c.tkState i
  ((st == 5 || st == 6) && c.tkFlag i 0) || st == 7 || (st == 9 && (c.tkRstate i == 5 || c.tkRstate i == 6))

/-- A FEED or RUN that waits under Table 13-5 sets RESUMEQ, and a FEED appends its tokens (R382, Table 13-2), once the log has frames for them. -/
def Chip.resumeEarly (c : Chip) (m : HostCmd) : Chip × HostCmd :=
  let opc := entryOpc m.entry
  if !(opc == 2 || opc == 3) ∨ m.late then (c, m)
  else
    match c.liveIdx (entryTicket m.entry) with
    | none => (c, m)
    | some i =>
      if !c.resumeWaits i then (c, m)
      else if opc = 3 ∨ m.fed then (c.setFlag i 5 true, m)
      else if 524288 < c.tkNtok i + cmdNtok m.entry then (c, m)
      else match c.feedTokens i m with | some c => (c.setFlag i 5 true, { m with fed := true }) | none => (c.setFlag i 5 true, m)

/-- Ask the commands in order to take effect; `blocked` are the tickets that an earlier command waits for. RELEASE waits behind none (R366), nor does a QUERY in a changeover
(Table 11-18). -/
def Chip.settleGo (c : Chip) (blocked : List Word) : List HostCmd → Chip × List HostCmd
  | [] => (c, [])
  | m :: ms =>
    let w := entryTicket m.entry
    let opc := entryOpc m.entry
    let m := { m with late := c.cmdLate m }
    if opcTicket opc ∧ opc ≠ 6 ∧ !(opc == 9 && c.epochState != 1) ∧ blocked.contains w then
      let (c, m) := Chip.resumeEarly c m
      let r := Chip.settleGo c blocked ms
      (r.1, m :: r.2)
    else
      match c.tryCmd m with
      | .done c => Chip.settleGo (c.mapLeft m) blocked ms
      | .wait c =>
        let (c, m) := Chip.resumeEarly c m
        let m := { m with late := c.cmdLate m }
        let r := Chip.settleGo c (w :: blocked) ms
        (r.1, m :: r.2)

/-- Every command that may take effect does, in sequence order (R415). -/
def Chip.settle (c : Chip) : Chip :=
  let r := Chip.settleGo { c with host := { c.host with accepted := [] } } [] c.host.accepted
  { r.1 with host := { r.1.host with accepted := r.2 ++ r.1.host.accepted } }

end Sys2Proof.Machine
end

