-- ==== Sys2Proof/Machine/Rows.lean ====
section
/-! DEFINITION. Row tables (R303, R304, R377 to R381, R483) and the results of steps (R305). -/

namespace Sys2Proof.Machine

/-! ### The energy admission test (R483) -/

/-- The charge of class k of a stage at a VSTEP, in 1/4,096 nJ. -/
def stageCharge (s : List Byte) (k v : Nat) : Nat := stEnergy s k * vfOf v

/-- The VSTEP that a gallery domain is set to take: VSET limited by VCAP, or 0 under a hardware thermal drop (R466, R476). -/
def Chip.vTake (c : Chip) (k : Nat) : Nat :=
  let o := Reg.dom (k / 104) (k % 104)
  if c.bit o 15 then 0 else min (c.rdF o 0 4) (c.rdF o 8 4)

/-- NECLASS of a plan: every stage it places has the same (R299). -/
def Chip.planClasses (c : Chip) (midx : Nat) (p : List Byte) : Nat :=
  match planPlaces p with
  | [] => 1
  | x :: _ => match stageOf (c.model midx).image x.2.2 with | some s => imN s 20 4 | none => 1

/-- S(k) in 1/4,096 nJ. -/
def Chip.classCharge (c : Chip) (midx : Nat) (p : List Byte) (k : Nat) : Nat :=
  (c.placed p).foldl (fun a x =>
    match stageOf (c.model midx).image x.2.2.2 with | some s => a + stageCharge s k (c.vTake x.1) | none => a) 0

/-- R in 1/4,096 nJ: the charge of every step whose mailbox is written and whose STEP has not retired. -/
def Chip.reserved (c : Chip) : Nat :=
  c.ush.mbox.foldl (fun a m => let g := c.gal m.1; if g.stepped && decide (m.2.1 ≤ g.gstep.toNat) then a else a + m.2.2) 0

/-- F as a quotient in nJ: the metered energy forecast for the rest of the window; none in a first window whose first ms is not metered. -/
def Chip.forecast (c : Chip) : Option (Nat × Nat) :=
  let u := c.ush
  let rest := 10000000 - (c.now.toNat - u.winStart.toNat)
  if u.firstWin then (if u.msDone = 0 then none else some (u.metered * 1000 * rest, u.msDone * 1000000))
  else some (u.rate * 1000 * rest, 10000000)

/-- The largest energy class that the ledger allows; none where class 0 fails. -/
def Chip.energyClass (c : Chip) (midx : Nat) (p : List Byte) : Option Nat :=
  let n := c.planClasses midx p
  if c.ush.grant = 0xFFFFFFFF then some (n - 1)
  else
    match c.forecast with
    | none => none
    | some f => (List.range n).reverse.find? fun k => decide ((((c.classCharge midx p k + c.reserved) * f.2 + 4096 * f.1 : Nat) : Int) ≤ c.ledger * 1000 * 4096 * f.2)

/-! ### The rows of a table (R377, R378) -/

/-- Tickets of the selected model, highest PRIO first, then the longest in their state. -/
def Chip.byAge (c : Chip) (l : List Nat) : List Nat :=
  l.mergeSort fun a b => decide (c.tkPrio b < c.tkPrio a) || (c.tkPrio a == c.tkPrio b && decide (c.tkSince a ≤ c.tkSince b))

/-- A ticket may take rows: its model is selected, none of its rows is in flight, no FORK copies it, and a RUNNING one does not wait for its boundary to be
forked, parked or released. -/
def Chip.rowsAllowed (c : Chip) (i : Nat) : Bool :=
  let w := c.tkWord i
  (match c.ush.sel, c.ush.plan with | some s, some p => s.midx == c.tkModel i && p.1 == c.tkModel i | _, _ => false) && !c.inFlight w && !c.forkSource w
    && (c.tkState i != 4 || ((c.waitingCmd w 5).isNone && !c.leaving w))

/-- A prompt of LONGP positions or more waits for a prefill epoch (R376). -/
def Chip.longPrompt (c : Chip) (i : Nat) : Bool := match c.ush.sel with | some s => decide (s.longp ≤ c.tkNtok i) | none => false

/-- Up to n positions from NPOS to the last prefill-path position. -/
def Chip.prefillRows (c : Chip) (i n : Nat) : List (Nat × Nat × RowKind) :=
  (List.range (min n (c.tkNtok i - 1 - c.npos i))).map fun d => (i, c.npos i + d, RowKind.prefill)

/-- The RECOMP rows of a ticket (R378, R392, R393): from the first lost position whose page has its fresh slots, at most n consecutive ones of the prefill path,
or a position of the decode path by itself, which needs the KV of the position before it (R283). DEDUCED: log entry 128. -/
def Chip.recompRows (c : Chip) (i n : Nat) : List (Nat × Nat × RowKind) :=
  let l := (c.aux i).lost.filter fun p => !(c.aux i).fresh.contains (p / 128)
  match l with
  | [] => []
  | p :: _ =>
    if c.onDecodePath i p then [(i, p, .recomp)]
    else (((List.range n).map (p + ·)).takeWhile fun q => l.contains q && !c.onDecodePath i q).map fun q => (i, q, RowKind.recomp)

/-- RUNNING tickets of a residue whose next position is a decode row. -/
def Chip.decodeDue (c : Chip) (b pipe : Nat) : List Nat :=
  (c.byAge (c.liveTickets.filter c.rowsAllowed)).filter fun i => c.tkState i == 4 && (c.aux i).residue % pipe == b && c.npos i + 1 == c.tkNtok i

/-- A ticket that is to take a decode row parks where its budget is spent, or no position is left for the token that the row would sample (R372, R272).
DESIGN CHOICE: log entry 127. -/
def Chip.rowStops (c : Chip) (b pipe : Nat) : Chip :=
  (c.decodeDue b pipe).foldl (fun c i =>
    if 524288 ≤ c.tkNtok i then c.parkFor i 4 0 none else if c.energyOut i then c.parkFor i 5 0 none else c) c

/-- The rows that a table of residue b of the decode plan would take, in order (R378). -/
def Chip.decodeRows (c : Chip) (b pipe chunk : Nat) : List (Nat × Nat × RowKind) :=
  let live := c.byAge (c.liveTickets.filter c.rowsAllowed)
  let g1 := ((c.decodeDue b pipe).filter fun i => !c.tokensHeld i).map fun i => (i, c.npos i, RowKind.sample)
  let g2 := (live.filter fun i => c.tkState i == 9).foldl (fun l i => l ++ c.recompRows i chunk) []
  let g3 := (live.filter fun i => (c.tkState i == 4 && (c.aux i).residue % pipe == b && decide (c.npos i + 1 < c.tkNtok i))
      || (c.tkState i == 2 && !c.longPrompt i)).foldl (fun l i => l ++ c.prefillRows i chunk) []
  g1 ++ g2 ++ g3

/-- The rows of a table of a prefill plan: the long prompts, oldest first (R376). -/
def Chip.longRows (c : Chip) : List (Nat × Nat × RowKind) :=
  ((c.byAge (c.liveTickets.filter c.rowsAllowed)).filter fun i => c.tkState i == 2 && c.longPrompt i).foldl
    (fun l i => l ++ c.prefillRows i 4096) []

/-- Slots for a position that a prefill plan writes: in the tower that runs each layer (R276). None where a tower lacks frames. -/
def Chip.readyPrefill (c : Chip) (plan i pos : Nat) : Option Chip :=
  let root := c.tkRoot i
  (c.refsAt root (pos / 8192) (pos % 8192 / 128) (c.tk i 0x50 8)).foldl (fun c r =>
    match c with
    | none => none
    | some c =>
      match Chip.needChunk c root r.t r.k with
      | none => none
      | some c =>
        match Chip.entryAddr c root r with
        | none => some c
        | some a =>
          if bitOf (Chip.memNum c a 8) 44 then
            let t := listGet 0 c.workTowers (Config.layerTower plan r.layer % c.workTowers.length)
            (Chip.takeSlot c t (slotClass (c.tkHot i))).map fun x =>
              let c := x.1.putEntry a x.2 (c.tkHot i)
              if t = r.t then c else c.setFlag i 4 false
          else some c) (some c)

/-- The usher lacks frames: it frees some under R388. -/
def Chip.lacking (c : Chip) : Chip := c.onUsh fun u => { u with lack := true }

/-- The ticket of lowest PRIO of a list. -/
def Chip.lowest (c : Chip) (l : List Nat) : Option Nat :=
  l.foldl (fun b j => match b with | none => some j | some x => if c.tkPrio j < c.tkPrio x then some j else some x) none

/-- A spill may yet free frames (R380, R392): one runs, or a ticket may be spilled. -/
def Chip.mayFree (c : Chip) : Bool := (c.liveTickets.any fun i => c.tkFlag i 1) || c.spillNext.isSome

/-- Make slots ready for rows in order, up to a number of rows (R380); the rows of a ticket that does not run wait where frames lack (R376). Where a RUNNING
ticket's row lacks them: with `park`, the RUNNING ticket of lowest PRIO that still needs a slot parks with reason NOMEM, and so on until the rest fits; without,
none. `f` bounds the retries. -/
def Chip.fitRows (plan phase : Nat) (park : Bool) : Nat → Nat → List (Nat × Nat × RowKind) → Chip → Option (Chip × List (Nat × Nat × RowKind))
  | 0, _, _, c => some (c, [])
  | _, 0, _, c => some (c, [])
  | _, _, [], c => some (c, [])
  | f + 1, n + 1, (i, pos, k) :: l, c =>
    let ready := if phase = 0 then c.readyPrefill plan i pos else if k = .recomp then some c else c.readyPos i pos
    match ready with
    | some c => (Chip.fitRows plan phase park f n l c).map fun r => (r.1, (i, pos, k) :: r.2)
    | none =>
      if c.tkState i ≠ 4 then Chip.fitRows plan phase park f (n + 1) (l.filter fun x => x.1 != i) c.lacking
      else if !park then none
      else
        let run := (((i, pos, k) :: l).filter fun x => c.tkState x.1 == 4 && c.needsSlot x.1 x.2.1).map (·.1)
        let v := (c.lowest run).getD i
        Chip.fitRows plan phase park f (n + 1) (((i, pos, k) :: l).filter fun x => x.1 != v) (c.parkFor v 6 0 none)

/-- The rows of a table with their slots (R380): the usher first spills under R388, for as long as it chooses to wait for a spill that may free frames; no
table is formed meanwhile, but at epoch open (R315). After that it parks. DESIGN CHOICE: log entry 129. -/
def Chip.rowsFit (c : Chip) (plan phase step limit : Nat) (want : List (Nat × Nat × RowKind)) : Chip × Option (List (Nat × Nat × RowKind)) :=
  let f := 4 * limit + want.length + 16
  match Chip.fitRows plan phase false f limit want (c.onUsh fun u => { u with lack := false }) with
  | some r => (r.1, some r.2)
  | none =>
    let waits := !c.ush.lack || (c.pick 2).1 == 0
    let d := (if c.ush.lack then (c.pick 2).2 else c).lacking
    if step ≠ 0 ∧ c.mayFree ∧ waits then (d, none)
    else match Chip.fitRows plan phase true f limit want d with | some r => (r.1, some r.2) | none => (d, none)

/-- A ticket's fresh slots still lack frames (R392): the usher frees some under R388, and where no spill may free any it parks a RUNNING ticket as R380 has it. -/
def Chip.recoveryRoom (c : Chip) : Chip :=
  if !c.liveTickets.any fun i => c.tkState i == 9 && !(c.aux i).fresh.isEmpty then c
  else if c.mayFree then c.lacking
  else
    match c.lowest (c.liveTickets.filter fun i => c.tkState i == 4 && !c.inFlight (c.tkWord i) && c.needsSlot i (c.npos i)) with
    | some v => (c.parkFor v 6 0 none).lacking
    | none => c.lacking

/-- A row table entry (Table 11-12). -/
def Chip.rowEntry (c : Chip) (x : Nat × Nat × RowKind) : List Byte :=
  let i := x.1
  let root := c.tkRoot i
  let flags := 1 + (if x.2.2 = .sample then 2 else 0) + (if x.2.2 = .recomp then 4 else 0)
  leBytes 4 (c.tkTicket i) ++ leBytes 4 x.2.1 ++ leBytes 8 (c.tk i 0x50 8) ++ leBytes 8 (c.tk i 0x38 8) ++ leBytes 4 (c.tk i 0x40 4)
    ++ leBytes 4 (c.tk i 0x44 4) ++ leBytes 2 (c.tk i 0x48 2) ++ [BitVec.ofNat 8 (c.tk i 9 1), BitVec.ofNat 8 flags] ++ leBytes 4 0
    ++ leBytes 8 root
    ++ (List.range 4).foldr (fun t l =>
        leBytes 4 (if c.rootHt root t = 0 then 0 else field (c.cblk root t (x.2.1 / 8192)) 0 40 / 1024) ++ l) []

/-- Addresses of a row table and its result area in a tower, by BATCH: the ROWS and RESULT areas hold four of each (log entry 21). -/
def Chip.rowTab (c : Chip) (t batch : Nat) : Nat := listGet 0 c.ush.layout.rows t + batch % 4 * 0x40000
def Chip.resultArea (c : Chip) (t batch : Nat) : Nat := listGet 0 c.ush.layout.result t + batch % 4 * 0x10000

/-- The table that the gallery at (tower, logical gallery) names at a step. -/
def Chip.tableFor (c : Chip) (t g step : Nat) : Option RowTable :=
  c.ush.tables.find? fun x => (x.batch + (match x.lags.find? fun l => l.1 == t * 96 + g with | some l => l.2 | none => 0)) == step

/-- Write the mailbox of a step into every gallery of the plan, charging R for each (R303, R483). -/
def Chip.writeMailboxes (c : Chip) (midx : Nat) (p : List Byte) (step eclass : Nat) : Chip :=
  (c.placed p).foldl (fun c x =>
    match stageOf (c.model midx).image x.2.2.2 with
    | none => c
    | some s =>
      let (n, b) := match c.tableFor x.2.1 x.2.2.1 step with
        | some t => (t.nrows, t.batch)
        | none => (0, step)
      let mb := c.mailbox midx p s x.2.1 step n eclass (c.rowTab x.2.1 b) (c.resultArea x.2.1 b) b
      let c := Chip.mailboxWrite c x.1 (BitVec.ofNat 32 step) mb
      c.onUsh fun u => { u with mbox := u.mbox ++ [(x.1, step, stageCharge s eclass (c.vTake x.1))] }) c

/-- Row table `step` of the rows given, at most `limit`, and the step's mailboxes of an energy class. Padding rows fill the table. -/
def Chip.formRows (c : Chip) (midx plan : Nat) (p : List Byte) (step : Nat) (lags : List (Nat × Nat)) (k limit : Nat) (want : List (Nat × Nat × RowKind)) : Chip :=
  match c.rowsFit plan (plPhase p) step limit want with
  | (c, none) => c
  | (c, some rows) =>
  let infos := rows.zipIdx.map fun x => RowInfo.mk x.2 (c.tkWord x.1.1) x.1.2.1 x.1.2.2 [] false
  let bytes := (rows.foldr (fun x l => c.rowEntry x ++ l) []) ++ leBytes (64 * (limit - rows.length)) 0
  let c := (c.towers.filter (plUses p)).foldl (fun c t =>
    (c.memWrite (c.rowTab t step) bytes).memWrite (c.resultArea t step) (leBytes (16 * limit) 0)) c
  let c := (rows.filter fun x => x.2.2 == .sample || c.tkState x.1 == 4).foldl (fun c x => c.setAux x.1 fun a => { a with ran := a.ran + 1 }) c
  let c := c.onUsh fun u => { u with tables := u.tables ++ [⟨step, lags, limit, infos, false, false⟩], batch := step + 1,
                                     mbox := u.mbox.filter fun m => !((c.gal m.1).stepped && decide (m.2.1 ≤ (c.gal m.1).gstep.toNat)) }
  c.writeMailboxes midx p step k

/-- Form row table `step` and write the step's mailboxes (R378), up to what the largest energy class that passes covers. Where none passes no mailbox is written
(R483), but at epoch open, which is not refused for energy (R315, R483): step 0 then has an empty table at class 0. DEDUCED: log entry 115. -/
def Chip.formTable (c : Chip) (midx : Nat) (plan : Nat) (p : List Byte) (step : Nat) (lags : List (Nat × Nat)) : Chip :=
  match c.energyClass midx p with
  | none => if step = 0 then c.formRows midx plan p 0 lags 0 0 [] else c
  | some k =>
    let c := (c.liveTickets.filter fun i => c.tkState i == 9 && !(c.aux i).fresh.isEmpty).foldl (fun c i =>
      Chip.refresh c i (c.model (c.tkModel i)).image) c
    let c := c.recoveryRoom
    let c := if plPhase p = 1 then c.rowStops (step % plPipe p) (plPipe p) else c
    let nec := c.planClasses midx p
    let want := match plPhase p with
      | 1 => c.decodeRows (step % plPipe p) (plPipe p) (mdlChunk (c.model midx).image)
      | 0 => c.longRows
      | _ => []
    c.formRows midx plan p step lags k ((plMaxRows p * (k + 1) + nec - 1) / nec) want

/-- Row tables in flight. -/
def Chip.tablesInFlight (c : Chip) : Nat := (c.ush.tables.filter fun t => !t.accepted).length

/-- The next row table may be formed: the epoch is open, a table is free, and every gallery of the plan has retired the step before;
no weight of the model awaits a reload (R511), and the plan is not marked faulty (R510). -/
def Chip.mayForm (c : Chip) (p : List Byte) : Bool :=
  c.epochState == 1 && decide (c.tablesInFlight < plPipe p) && (match c.ush.plan with | some x => (c.model x.1).reload.isEmpty && !c.ush.faulty.contains x | none => false)
    && (c.placed p).all fun x => let g := c.gal x.1; if c.ush.batch = 0 then !g.stepped else g.stepped && decide (g.gstep.toNat + 1 = c.ush.batch)

/-! ### Results (R305) -/

/-- The usher reads a row's records in the result areas of the plan's towers: those that are VALID. -/
def Chip.resultsOf (c : Chip) (p : List Byte) (batch r : Nat) : Chip × List (Nat × List Byte) :=
  let q := (c.towers.filter (plUses p)).foldl (fun (q : Chip × List (Nat × List Byte)) t =>
    let b := q.1.memFetch (q.1.resultArea t batch + 16 * r) 16
    (b.1, q.2 ++ [(t, b.2)])) (c, [])
  (q.1, q.2.filter fun b => bitOf (imN b.2 15 1) 0)

/-- An integrity event that no KIND of Table 17-4 names: a duplicate with another token (R305). DESIGN CHOICE: log entry 113. -/
def Chip.integrityEvent (c : Chip) : Chip := c.errLog 0 30000 0 0 (0, 0, 0) Config.integrityKind.toNat 0 [] none

/-- A row's layer is held: an ATTN_PARTIAL for it has not come (R279). -/
def Chip.attnHeld (c : Chip) (w : Word) (pos : Nat) : Bool := c.lk.attn.any fun a => a.ticket == w && a.pos == pos && a.got.isNone

/-- What a row's remote chunks brought goes with the row. -/
def Chip.attnClear (c : Chip) (w : Word) (pos : Nat) : Chip :=
  { c with lk := { c.lk with attn := c.lk.attn.filter fun a => !(a.ticket == w && a.pos == pos), outs := c.lk.outs.filter fun a => !(a.ticket == w && a.pos == pos) } }

/-- A tower's record of a SAMPLE row, taken once: discarded as stale or as a duplicate, or accepted. It is not taken yet while the log has no frame for its token. A row that
is done takes no token. -/
def Chip.takeRecord (c : Chip) (x : RowInfo) (t : Nat) (b : List Byte) : Chip × RowInfo :=
  let x' := { x with seen := x.seen ++ [t] }
  if imN b 12 3 ≠ c.epoch.toNat % 2 ^ 24 ∨ imN b 0 4 ≠ x.ticket.toNat ∨ imN b 4 4 ≠ x.pos then (c.bump Reg.epcnt 0 32 1, x')
  else
    match c.liveIdx x.ticket with
    | none => (c, { x' with done := true })
    | some i =>
      let c := c.mend i
      if x.pos + 1 < c.tkNtok i then
        let c := c.bump Reg.epcnt 32 32 1
        (if imN b 8 4 % 2 ^ 24 = c.logEntry i (x.pos + 1) % 2 ^ 24 then c else c.integrityEvent, { x' with done := true })
      else if x.done ∨ (c.aux i).leave ∨ c.tkState i ≠ 4 then (c, { x' with done := true })
      else
        match (c.attnClear x.ticket x.pos).sampled i x.pos (imN b 8 4 % 2 ^ 24) with
        | none => (c.onUsh fun u => { u with lack := true }, x)
        | some c => (c, { x' with done := true })

/-- One SAMPLE row of a table whose step has completed takes the records that have come; a row whose layer is held waits (R279). -/
def Chip.acceptRow (c : Chip) (p : List Byte) (batch : Nat) (x : RowInfo) : Chip × RowInfo :=
  if x.kind ≠ .sample ∨ c.attnHeld x.ticket x.pos then (c, x)
  else
    let q := c.resultsOf p batch x.r
    (q.2.filter fun b => !x.seen.contains b.1).foldl (fun r b => Chip.takeRecord r.1 r.2 b.1 b.2) (q.1, x)

/-- The step of a table is over in every gallery of the plan: it has retired, and a later one has or the queues are empty. -/
def Chip.stepOver (c : Chip) (t : RowTable) : Bool :=
  match c.curPlan with
  | none => false
  | some x =>
    (c.placed x.2).all fun y =>
      let g := c.gal y.1
      let n := t.batch + (match t.lags.find? fun l => l.1 == y.2.1 * 96 + y.2.2.1 with | some l => l.2 | none => 0)
      g.stepped && (decide (n < g.gstep.toNat) || (decide (n = g.gstep.toNat) && g.outstanding == 0))

/-- Prefill-path and RECOMP rows of a table whose step is over are done: NPOS advances over a ticket's prefill positions, the
recomputed positions are no longer lost (R269, R305, R392). -/
def Chip.finishRow (c : Chip) (x : RowInfo) : Chip × RowInfo :=
  if x.done ∨ x.kind = .sample then (c, x)
  else
    match c.liveIdx x.ticket with
    | none => (c, { x with done := true })
    | some i =>
      let c := if x.kind = .prefill then (if c.npos i = x.pos then c.setNpos i (x.pos + 1) else c)
        else c.setAux i fun a => { a with lost := a.lost.filter fun p => p != x.pos }
      (c, { x with done := true })

/-- Put a table back, or drop it once its results stand and its energy has been shared. -/
def Chip.putTable (c : Chip) (t : RowTable) : Chip :=
  c.onUsh fun u => { u with tables := (u.tables.map fun y => if y.batch = t.batch then t else y).filter fun y => !(y.accepted && y.shared) }

/-- Apply f to the rows in order. -/
def Chip.eachRow (f : Chip → RowInfo → Chip × RowInfo) : Chip → List RowInfo → Chip × List RowInfo
  | c, [] => (c, [])
  | c, x :: l =>
    let r := f c x
    let q := Chip.eachRow f r.1 l
    (q.1, r.2 :: q.2)

/-- The usher takes a table's results (R305): records that have come, and once every row is done the table boundary of its tickets. -/
def Chip.acceptTable (c : Chip) (batch : Nat) : Chip :=
  match c.curPlan, c.ush.tables.find? fun t => t.batch == batch && !t.accepted with
  | some pl, some t =>
    if !c.stepOver t then c
    else
      let (c, rows) := Chip.eachRow (fun c x => Chip.acceptRow c pl.2 batch x) c t.rows
      let (c, rows) := Chip.eachRow Chip.finishRow c rows
      let all := rows.all fun x => x.done
      let c := c.putTable { t with rows := rows, accepted := all }
      let c := if all then c.planGals.foldl (fun c k => Chip.onGal c k fun g => { g with restarts := 0 }) c else c
      if all then rows.foldl (fun c x => match Chip.liveIdx c x.ticket with | some i => c.boundary i | none => c) c else c
  | _, _ => c

/-- Remove from their steps, unsampled, rows that a condition picks (R279, R311). -/
def Chip.removeRows (c : Chip) (f : RowTable → RowInfo → Bool) : Chip :=
  c.onUsh fun u => { u with tables := u.tables.map fun t => { t with rows := t.rows.map fun x => if f t x then { x with done := true } else x } }

/-! ### The energy of a step (R381) -/

/-- Add a ticket's share of a step's energy to its descriptor. -/
def Chip.addEnergy (c : Chip) (w : Word) (uj : Nat) : Chip :=
  match c.liveIdx w with
  | none => c
  | some i => c.tkPut i 0x58 8 (c.tk i 0x58 8 + uj)

/-- Once the step of a table is closed in every gallery of the plan, each ticket of the table takes its share of the net energy: its rows over the
table's rows, rounded down to 1 µJ. -/
def Chip.shareEnergy (c : Chip) (batch : Nat) : Chip :=
  match c.curPlan, c.ush.tables.find? fun t => t.batch == batch && !t.shared with
  | some pl, some t =>
    let net := Store.get noNet c.ush.stepNet batch
    if net.1 < ((c.placed pl.2).filter fun x => !c.fenced x.1).length then c
    else
      let n := t.rows.length
      let ws := t.rows.foldl (fun (l : List Word) r => if l.contains r.ticket then l else l ++ [r.ticket]) []
      let c := ws.foldl (fun c w => Chip.addEnergy c w (net.2 * (t.rows.filter fun r => r.ticket == w).length / (n * microJoule))) c
      (c.onUsh fun u => { u with stepNet := Store.put noNet u.stepNet batch (0, 0) }).putTable { t with shared := true }
  | _, _ => c

end Sys2Proof.Machine
end

