-- ==== Sys2Proof/Machine/EpochCommands.lean ====
section
/-! DEFINITION. The commands of phases and changeovers (R300, R305 to R317), and the fence of a gallery (R220, R510). -/

namespace Sys2Proof.Machine

/-- The usher runs: the module is sealed, not stopped by the Whistle and not in thermal stop. -/
def Chip.usherRuns (c : Chip) : Bool := c.isSealed && !c.stopped && !c.thermStopped

/-- A command that the usher carries out. -/
def State.onUsher (s : State) (f : Chip → Chip) : Host.Outcome State Fault Refusal :=
  s.onChip fun c => if c.usherRuns then f c else c

/-- The usher sets RCTL.FENCE, for a cause of Table 19-7 (R220, R510). -/
def execGalleryFence (g : GalId) (cause : Fin 256) (s : State) : Host.Outcome State Fault Refusal :=
  s.onUsher fun c => if c.hasTower g.tower.val then c.usherFence (galKey g) cause.val else c

/-! ### Phase policy (R300) -/

/-- Long prompts that wait: PREFILL_PENDING tickets of the selected model with positions left to prefill. -/
def Chip.longWaiting (c : Chip) : List Nat :=
  c.liveTickets.filter fun i => c.tkState i == 2 && c.longPrompt i && decide (c.npos i + 1 < c.tkNtok i)
    && (match c.ush.sel with | some s => s.midx == c.tkModel i | none => false)

/-- The phase policy asks for a phase (0 prefill, 1 decode, 2 training) other than the one that runs. DEDUCED: log entry 89. -/
def Chip.phaseDue (c : Chip) (phase : Nat) : Bool :=
  match c.ush.sel, c.curPlan with
  | some s, some x =>
    let run := plPhase x.2
    let long := c.longWaiting
    let us := c.act.toNat - c.ush.opened.toNat
    match phase with
    | 0 =>
      run != 0 && s.pplan != 0xFFFF && !long.isEmpty
        && (decide (s.pfmin ≤ long.foldl (fun n i => n + (c.tkNtok i - 1 - c.npos i)) 0)
          || long.any fun i => decide (c.tkSince i + s.pfwait * 1000 ≤ c.now.toNat))
    | 1 =>
      (run == 0 && (long.isEmpty || decide (s.pfmax * 1000 ≤ us)
          || decide (131072 ≤ (c.liveTickets.filter fun i => c.tkRoot i != 0 && !c.tkFlag i 4).length)))
        || (run == 2 && s.tplan == 0xFFFF)
    | _ => run != 2 && s.tplan != 0xFFFF
  | _, _ => false

/-- PHASE_POLICY_CHANGE (R300): the usher decides for another phase. -/
def execPhasePolicyChange (phase : Fin 3) (s : State) : Host.Outcome State Fault Refusal :=
  s.onUsher fun c => if c.epochState = 1 ∧ c.phaseDue phase.val then c.onUsh fun u => { u with want := phase.val, cause := true } else c

/-- CHANGEOVER_BEGIN (R309, R310): a cause stands and the epoch is open. -/
def execChangeoverBegin (s : State) : Host.Outcome State Fault Refusal :=
  s.onUsher fun c => if c.ush.cause ∧ c.epochState = 1 ∧ c.nextPlan.isSome then (c.closingStart).onUsh fun u => { u with cause := false } else c

/-- EPOCH_CLOSE (R309, R308, R196, R236): the causes that stood are served; the pins go, the credits close, the tables' energy is shared and the rows that did not run are dropped with
their tables; the changeover's moves are listed, with a COPY for each (region, tower) that `copies` names, and STATE becomes MOVING. -/
def execEpochClose (copies : List (Fin 16 × Fin 4)) (s : State) : Host.Outcome State Fault Refusal :=
  s.onUsher fun c =>
    if c.epochState ≠ 2 ∨ c.outstanding ≠ 0 ∨ !c.allHeld ∨ c.nextPlan.isNone then c
    else
      let c := c.releaseEpochPins
      let c := c.gals.foldl (fun c e => (c.stepCredit e.1).onGal e.1 fun g => { g with carry := 0 }) c
      let c := c.ush.tables.foldl (fun c t => if t.accepted then c.shareEnergy t.batch else c) c
      let c := c.onUsh fun u => { u with tables := [], stepNet := [], mbox := [], cause := false }
      let c := c.liveTickets.foldl (fun c i => if c.tkState i = 4 then c.boundary i else c) c
      let c := c.buildMoves (copies.map fun x => (x.1.val, x.2.val))
      ((c.setEpoch c.epoch.toNat 3 c.ush.layout.record).movesIssue).settle

/-- Chanter jobs of the epoch's steps are given up (R311). -/
def Chip.dropStepJobs (c : Chip) : Chip :=
  c.chc.foldl (fun c e =>
    let ids := (e.2.queue.filter fun r => !bitOf r.toNat 56).map (fun r => field r.toNat 0 32)
      ++ e.2.chanters.filterMap fun x => match x.2.job with | some j => if bitOf j.record.toNat 56 then none else some (field j.record.toNat 0 32) | none => none
    ids.foldl (fun c id => c.jobCancel e.1 id) c) c

/-- CLOSING_TIMEOUT (R311): 50 ms after CLOSING began the galleries whose queues hold descriptors are fenced, and the rows whose results or partials
have not come leave their steps unsampled. -/
def execClosingTimeout (s : State) : Host.Outcome State Fault Refusal :=
  s.onUsher fun c =>
    if c.epochState ≠ 2 ∨ c.outstanding = 0 ∨ c.act.toNat < c.ush.since.toNat + 50000000 then c
    else
      let busy := (c.gals.filter fun e => !c.fenced e.1 && e.2.outstanding != 0).map (·.1)
      let c := busy.foldl (fun c k => c.usherFence k 1) c
      let lost := c.lk.attn.filter fun a => a.got.isNone
      let late (t : RowTable) : Bool := !t.accepted && c.stepRetired t
      let c := c.removeRows fun t r => (late t && r.kind == .sample) || lost.any fun a => a.ticket == r.ticket && a.pos == r.pos
      let c := (List.range 5).foldl (fun c l => if c.link l = LinkState.reset then c else
        c.onLink l fun x => { x with out := x.out.filter fun r => r.txn.ush, waiting := x.waiting.filter fun r => r.1.ush }) c
      ({ c with lk := { c.lk with attn := [], outs := [] } }).dropStepJobs

/-- MOVE_FLIP (R314): once move n's copies are done it flips and its post-flip action is taken. -/
def execMoveFlip (n : Nat) (s : State) : Host.Outcome State Fault Refusal :=
  s.onUsher fun c => if c.epochState = 3 ∧ n < c.ush.moves ∧ !c.flipped n ∧ !c.voided n then (c.moveEnd n).settle else c

/-- MOVES_COMPLETE (R309, R535): every move is flipped or void, and no tower reset is due. -/
def execMovesComplete (s : State) : Host.Outcome State Fault Refusal :=
  s.onUsher fun c => if c.epochState = 3 ∧ c.sys.ha.towerDue.isEmpty ∧ ((List.range c.ush.moves).all fun n => c.flipped n || c.voided n) then c.movesComplete else c

/-- The arcade schedules of a plan (R208). -/
def Chip.planFlows (c : Chip) (midx : Nat) (p : List Byte) : Store (List FlowRec) :=
  ((List.range 4).filter (plUses p)).foldl (fun m t =>
    match imSect (c.model midx).image 0x22 (plSched p t) with
    | some s => Store.put (fun _ => []) m t (flowRecs (imB (c.model midx).image s.off s.len))
    | none => m) []

/-- A PLAN_SELECT recorded in the changeover takes its place: if it names other plans a further changeover follows, else it is complete (Table 11-18). -/
def Chip.recordedSelection (c : Chip) (s : Selection) : Chip :=
  let same := match c.ush.sel with | some x => x.midx == s.midx && x.dplan == s.dplan && x.pplan == s.pplan && x.tplan == s.tplan | none => false
  if same then
    let c := match s.ans with | some a => c.doneCommand a 0 [] | none => c
    c.onUsh fun u => { u with sel := some { s with ans := none }, nextSel := none }
  else c.onUsh fun u => { u with sel := some s, nextSel := none, want := if s.tplan = 0xFFFF then 1 else 2, cause := true }

/-- The epoch opens (R315): the maps are in force, the schedules loaded, idle galleries off; EPOCH rises, the galleries are released, and step 0 has its
mailbox. -/
def Chip.openEpoch (c : Chip) (pl : Nat × Nat) (p : List Byte) (lags : List (Nat × Nat)) : Chip :=
  let c := { c with flows := c.planFlows pl.1 p }
  let c := (c.putAdapters pl.1 p).idleOff p
  let c := c.onUsh fun u => { u with plan := some pl, prev := if u.plan = some pl then u.prev else u.plan.filter fun x => x.1 == pl.1, opened := c.act, batch := 0, tables := [], stepNet := [], mbox := [] }
  let c := ((c.setEpoch (nextEpoch c.epoch.toNat) 1 0).wrF Reg.epoch 48 16 pl.2).journalEpoch 2
  let c := match c.ush.sel with
    | some s => (match s.ans with | some a => c.doneCommand a 0 [] | none => c).onUsh fun u => { u with sel := some { s with ans := none } }
    | none => c
  let c := match c.ush.nextSel with
    | some s => c.recordedSelection s
    | none => c
  (c.formTable pl.1 pl.2 p 0 lags).settle

/-- EPOCH_OPEN (R309, R315): the usher loads every stage of the plan. A gallery that faults is fenced, with a MAP move; when none does, the epoch opens.
It waits until every gallery that the plan places is up, or is a position on chanter fallback that runs. `lags` says by how many steps a logical
gallery (tower · 96 + number) takes a row table later than the step of its number (R303). -/
def execEpochOpen (lags : List (Fin 384 × Nat)) (s : State) : Host.Outcome State Fault Refusal :=
  s.onUsher fun c =>
    match c.nextPlan with
    | none => c
    | some pl =>
      let p := c.planSect pl
      let m := c.loadMaps
      let ready := (m.placed p).all fun x =>
        let g := m.gal x.1
        if m.onFallback x.2.1 x.2.2.1 then (c.gal x.1).shadow else g.dom == .up
      if c.epochState ≠ 4 ∨ !ready then c
      else
        let r := m.loadStages pl.1 p
        match r.2 with
        | [] => r.1.openEpoch pl p (lags.map fun x => (x.1.val, x.2))
        | bad => bad.foldl (fun c k => c.usherFence k 5) c

/-- STEP_RESULTS_ACCEPT (R305, R369, R372, R373): the usher takes the results of a row table's step. -/
def execStepResultsAccept (batch : Nat) (s : State) : Host.Outcome State Fault Refusal :=
  s.onUsher fun c =>
    let ws := (c.ush.tables.filter fun t => t.batch == batch).foldl (fun l t => l ++ t.rows.map (·.ticket)) []
    let c := c.acceptTable batch
    let c := ws.foldl (fun c w => match c.liveIdx w with | some i => c.dropMaps i | none => c) c
    ({ c with lk := { c.lk with attn := c.lk.attn.filter fun a => c.inFlight a.ticket, outs := c.lk.outs.filter fun a => c.inFlight a.ticket } }).settle

/-- CHANTER_FALLBACK_START for the fallback row of a column in the map that the usher holds (R353, R201): DRAIN first; once the cluster's jobs have ended, the runtime
starts as a usher-marked job on every available chanter, of which there must be two. -/
def execChanterFallbackStart (t : Fin 4) (col : Fin 8) (jobid : Word) (entry : Byte) (s : State) : Host.Outcome State Fault Refusal :=
  s.onUsher fun c =>
    let fb := field ((c.critValue (0x30 + 8 * t.val)).getD (c.rd (Reg.gmap t.val))) (8 * col.val + 4) 4
    let pos := 13 * col.val + fb
    match (List.range 104).find? fun v => decide (fb < 13) && c.vaultPos (vaultKey t.val v) == pos with
    | none => c
    | some v =>
      let k := vaultKey t.val v
      let c := c.ownWrF (Reg.chcCtl t.val v) 32 1 1
      let avail := (List.range 32).filter fun i => !bitOf (c.rdF (Reg.chcStat t.val v) 0 32) i
      if (c.cluster k).chanters.any (fun e => e.2.job.isSome) || decide (avail.length < 2) then c
      else
        let c := avail.foldl (fun c i =>
          let r : Line := BitVec.ofNat 512 (jobid.toNat + c.epoch.toNat % 2 ^ 24 * 2 ^ 32 + 2 ^ 56 + entry.toNat * 2 ^ 64 + i * 2 ^ 72)
          c.jobRun k i ⟨r, [], false⟩) c
        let c := c.onGal (t.val * 104 + pos) fun g => { g with shadow := true }
        { c with mem := { c.mem with ways := c.mem.ways.filter fun e => match e.2 with | some w => (c.shadowOf (w.line * 64)).isNone | none => true } }

end Sys2Proof.Machine
end

