-- ==== Sys2Proof/Machine/VectorOps.lean ====
section
/-! DEFINITION. The operations of the vector cores (Table 6-5, R152 to R171): what each descriptor
computes from its operands. Each answers the gallery after it and its status, 0 for success. -/

namespace Sys2Proof.Machine

/-! ### Elementwise (R152 to R156) -/

/-- A lane function of one, two or three sources. -/
def Gallery.vxMap1 (g : Gallery) (x : VxRun) (f : Word → Word) : Gallery × Nat :=
  g.vxLanes x true false false fun _ _ a _ _ => some (f a)

def Gallery.vxMap2 (g : Gallery) (x : VxRun) (f : Word → Word → Word) : Gallery × Nat :=
  g.vxLanes x true true false fun _ _ a b _ => some (f a b)

def Gallery.vxMap3 (g : Gallery) (x : VxRun) (f : Word → Word → Word → Word) : Gallery × Nat :=
  g.vxLanes x true true true fun _ _ a b c => some (f a b c)

/-- An FP32 relation (R154). -/
def fRel (rel : Nat) (a b : Word) : Bool :=
  match rel with
  | 0 => fEq a b
  | 1 => !fEq a b
  | 2 => fLt a b
  | 3 => fLe a b
  | 4 => fLt b a
  | 5 => fLe b a
  | 6 => !isNaN32 a && !isNaN32 b
  | _ => isNaN32 a || isNaN32 b

/-- An integer relation, signed or not (R154). -/
def iRel (rel : Nat) (signed : Bool) (a b : Word) : Bool :=
  let lt (p q : Word) : Bool := if signed then p.slt q else p.ult q
  match rel with
  | 0 => a == b
  | 1 => a != b
  | 2 => lt a b
  | 3 => !lt b a
  | 4 => lt b a
  | _ => !lt a b

/-- VCMP and VICMP (R154): a mask in vector shape, bitmap rows at SPD in tile shape; an element that the
predicate excludes keeps its bit. -/
def Gallery.vxCompare (g : Gallery) (x : VxRun) (rel : Word → Word → Bool) : Gallery × Nat :=
  g.vxWith x fun p => vxEachRow x p (fun r g =>
    match g.vxSource x x.sa x.xa r, g.vxSource x x.sb x.xb r with
    | .error st, _ => .error st
    | _, .error st => .error st
    | .ok a, .ok b =>
      let bits (old : BitVec 128) : Nat :=
        (List.range 128).foldl (fun acc c =>
          acc + b2n (if x.laneOn p c then rel (listGet 0 a c) (listGet 0 b c) else old.getLsbD c) * 2 ^ c) 0
      if x.vec then
        let v := g.vx x.core
        .ok (g.setVx x.core (v.setMask x.dst (BitVec.ofNat 128 (bits (v.mask x.dst)))))
      else
        let o := x.spd + 16 * r
        if spadSize < o + 16 then .error 0x10
        else .ok (g.spadWrite o (leBytes 16 (bits (BitVec.ofNat 128 (Memory.num g.spad o 16)))))) g

/-- VSELB (R154): the bitmap row at SCA chooses between a and b. -/
def Gallery.vxSelb (g : Gallery) (x : VxRun) : Gallery × Nat :=
  g.vxWith x fun p => vxEachRow x p (fun r g =>
    let o := x.sca + 16 * r
    let st := g.spadReadStat o 16
    if st ≠ 0 then .error st
    else
      match g.vxSource x x.sa x.xa r, g.vxSource x x.sb x.xb r with
      | .error st, _ => .error st
      | _, .error st => .error st
      | .ok a, .ok b =>
        let m := Memory.num g.spad o 16
        g.vxDest x p r ((List.range 128).map fun c => some (if bitOf m c then listGet 0 a c else listGet 0 b c))) g

/-- VIOTA (R155). -/
def Gallery.vxIota (g : Gallery) (x : VxRun) : Gallery × Nat :=
  g.vxLanes x false false false fun r c _ _ _ =>
    let v := x.imm + BitVec.ofNat 32 (if bitOf x.mod 0 then r else c)
    some (if bitOf x.mod 1 then fOfInt v.toNat else v)

/-- The FP32 value of an EXACT pair (R158): q × 2^−40, NaN for the poisoned pair. -/
def fixedToF32 (q : Nat) : Word :=
  if q = 2 ^ 64 - 1 then nan32 else rneMag false q (2 ^ 40)

/-- VCVT (R155). -/
def Gallery.vxCvt (g : Gallery) (x : VxRun) : Gallery × Nat :=
  match x.mod with
  | 0 => g.vxMap1 x fToI32
  | 1 => g.vxMap1 x fun a => fOfInt a.toInt
  | 2 => g.vxMap1 x fun a => fOfInt a.toNat
  | _ =>
    g.vxWith x fun p => vxEachRow x p (fun r g =>
      match g.vxSource x x.sa false r, g.vxSource x (x.sa + 1) false r with
      | .error st, _ => .error st
      | _, .error st => .error st
      | .ok lo, .ok hi =>
        g.vxDest x p r ((List.range 128).map fun c =>
          some (fixedToF32 ((listGet 0 lo c).toNat + (listGet 0 hi c).toNat * 2 ^ 32)))) g

/-- Addition of W64 values (R155): modulo 2^64, the all-ones value staying. -/
def add64 (a b : Nat) : Nat := if a = 2 ^ 64 - 1 ∨ b = 2 ^ 64 - 1 then 2 ^ 64 - 1 else (a + b) % 2 ^ 64

/-- VIADD, on words or on W64 pairs (R152, R155). -/
def Gallery.vxIadd (g : Gallery) (x : VxRun) : Gallery × Nat :=
  if x.mod = 1 then
    g.vxWith x fun p => vxEachRow x p (fun r g =>
      match g.vxSource x x.sa false r, g.vxSource x (x.sa + 1) false r, g.vxSource x x.sb false r, g.vxSource x (x.sb + 1) false r with
      | .ok al, .ok ah, .ok bl, .ok bh =>
        let sum (c : Nat) : Nat :=
          add64 ((listGet 0 al c).toNat + (listGet 0 ah c).toNat * 2 ^ 32) ((listGet 0 bl c).toNat + (listGet 0 bh c).toNat * 2 ^ 32)
        let on (c : Nat) (w : Nat) : Option Word := if x.laneOn p c then some (BitVec.ofNat 32 w) else none
        let g := g.vxPutLine x (vecKey (x.dst - 4) 0) ((List.range 128).map fun c => on c (sum c))
        .ok (g.vxPutLine x (vecKey (x.dst - 3) 0) ((List.range 128).map fun c => on c (sum c / 2 ^ 32)))
      | _, _, _, _ => .error 0x12) g
  else g.vxMap2 x fun a b => a + b

/-- A subnormal argument is treated as zero of its sign (R156). -/
def flushArg (w : Word) : Word :=
  match fp32 w with
  | .fin neg _ _ => if field w.toNat 23 8 = 0 then zero32 neg else w
  | _ => w

/-- A special function of x = a × b + c, rounded once; an absent b is 1 and an absent c is 0 (R156). -/
def Gallery.vxSpecial (g : Gallery) (x : VxRun) (f : Word → Word) : Gallery × Nat :=
  let nb := x.sb != 0xF
  let nc := x.sc != 0xF
  g.vxLanes x true nb nc fun _ _ a b c =>
    some (f (flushArg (fFma a (if nb then b else 0x3F800000#32) c)))

/-! ### Rotary coding (R157) -/

/-- The partner column of a pair, and whether this column is the first. -/
def rotPair (half : Bool) (c : Nat) : Nat × Bool × Nat :=
  if half then (if c < 64 then (c + 64, true, c) else (c - 64, false, c - 64))
  else (if c % 2 = 0 then (c + 1, true, c / 2) else (c - 1, false, c / 2))

/-- a × b + c × d rounded once, with the IEEE 754 sign of an exact zero (R145). -/
def sumProducts (a b c d : Word) : Word :=
  match FVal.mul (fp32 a) (fp32 b), FVal.mul (fp32 c) (fp32 d) with
  | .fin s m e, .fin t n f => fAddFin s m e t n f
  | p, q => FVal.rne32 (FVal.add p q)

/-- x cos φ − y sin φ, or x sin φ + y cos φ, rounded once. -/
def rotValue (first : Bool) (x y co si : Word) : Word :=
  if first then sumProducts x co (fNeg y) si else sumProducts x si y co

/-- VROT (R157): the positions are element r of SB, the frequencies elements 0 to 63 of SC. -/
def Gallery.vxRot (g : Gallery) (x : VxRun) : Gallery × Nat :=
  g.vxWith x fun p => vxEachRow x p (fun r g =>
    match g.vxSource x x.sa false r, g.vxSource x x.sb true r, g.vxSource x x.sc false r with
    | .error st, _, _ => .error st
    | _, .error st, _ => .error st
    | _, _, .error st => .error st
    | .ok a, .ok pos, .ok th =>
      g.vxDest x p r ((List.range 128).map fun c =>
        let q := rotPair (bitOf x.mod 0) c
        let phi := fMul (listGet 0 pos 0) (listGet 0 th q.2.2)
        let co := fTrig true phi
        let si := fTrig false phi
        let me := listGet 0 a c
        let other := listGet 0 a q.1
        some (if q.2.1 then rotValue true me other co si else rotValue false other me co si))) g

/-! ### Reductions (R158, R159) -/

/-- The source of a reduction as rows of lanes: `some w` for an element that takes part. Row predicates
exclude whole rows. -/
def Gallery.vxGrid (g : Gallery) (x : VxRun) (p : BitVec 128) (r : Nat) : Nat → Except Nat (List (List (Option Word)))
  | 0 => .ok []
  | n + 1 =>
    let row : Except Nat (List (Option Word)) :=
      if x.vec || x.rowOn p r then
        match g.vxSource x x.sa x.xa r with
        | .error st => .error st
        | .ok ws => .ok (ws.zipIdx.map fun e => if x.laneOn p e.2 then some e.1 else none)
      else .ok ((List.range 128).map fun _ => none)
    match row, g.vxGrid x p (r + 1) n with
    | .error st, _ => .error st
    | _, .error st => .error st
    | .ok a, .ok as => .ok (a :: as)

/-- Column c of a grid. -/
def gridColumn (rows : List (List (Option Word))) (c : Nat) : List (Option Word) :=
  rows.map fun r => listGet none r c

/-- One level of the pairwise tree. -/
def treeLevel : List Word → List Word
  | a :: b :: t => fAdd a b :: treeLevel t
  | l => l

/-- The pairwise tree sum of 128 elements: seven levels (R158). -/
def treeSum (ws : List Word) : Word :=
  listGet 0x80000000#32 (treeLevel (treeLevel (treeLevel (treeLevel (treeLevel (treeLevel (treeLevel ws))))))) 0

/-- The sequential sum (R158). -/
def seqSum (ws : List Word) : Word := ws.foldl fAdd 0x80000000#32

/-- Excluded elements count as −0.0. -/
def sumTerms (l : List (Option Word)) : List Word := l.map fun w => w.getD 0x80000000#32

/-- A maximum or minimum over the elements that take part; `e` over nothing. -/
def foldBest (f : Word → Word → Word) (e : Word) (l : List (Option Word)) : Word :=
  match l.filterMap id with
  | [] => e
  | a :: t => t.foldl f (f a a)

/-- An element as a multiple of 2^−40, ties to even (R158); none outside [+0, 1]. -/
def exactTerm (w : Word) : Option Nat :=
  match fp32 w with
  | .fin false m e =>
    let q := scale2 m (e + 40)
    if m ≠ 0 ∧ 2 ^ 40 * q.2 < q.1 then none else some (roundQuot .nearestEven q.1 q.2)
  | _ => none

/-- The EXACT sum of a list added to `acc` (R158): poisoned by an element outside [+0, 1]. A sum that
passes 64 bits has no stated value (log entry 10). -/
def exactSum (acc : Nat) (l : List (Option Word)) : Nat :=
  let ts := (l.filterMap id).map exactTerm
  if acc = 2 ^ 64 - 1 ∨ ts.any Option.isNone then 2 ^ 64 - 1
  else
    let s := acc + (ts.map fun t => t.getD 0).foldl (· + ·) 0
    if s < 2 ^ 64 - 1 then s else (Config.exactSumOverflow s).toNat

/-- The list that result element i of a column reduction, or of a vector source, is formed from (R158). -/
def vxGroup (x : VxRun) (rows : List (List (Option Word))) (i : Nat) : List (Option Word) :=
  if x.vec then listGet [] rows 0 else gridColumn rows i

/-- Count the tile rows a row predicate excludes (R193). -/
def Gallery.countExcluded (g : Gallery) (x : VxRun) (p : BitVec 128) : Gallery :=
  if x.vec then g
  else
    let n := (List.range 128).countP fun r => !x.rowOn p r
    if n = 0 then g else g.skipAdd 4 n

/-- Whether a register line that ACC reads is bad. -/
def Gallery.vxAccBad (g : Gallery) (x : VxRun) (regs : Nat) : Bool :=
  bitOf x.mod 6 && (g.vx x.core).lineBad (vecKey (x.dst - 4) 0) (128 * regs)

/-- Element i of a reduction's `regs` result registers: `f` takes the words there, under ACC, and the group
to the words written. -/
def Gallery.vxReducePut (x : VxRun) (regs : Nat) (f : Option (List Word) → List (Option Word) → List Word)
    (i : Nat) (l : List (Option Word)) (g : Gallery) : Except Nat Gallery :=
  let v := g.vx x.core
  let ks := (List.range regs).map fun j => vecKey (x.dst - 4) (128 * j + i)
  if bitOf x.mod 6 && ks.any fun k => v.lineBad k 1 then .error 0x12
  else
    let ws := f (if bitOf x.mod 6 then some (ks.map v.word) else none) l
    .ok (g.setVx x.core ((ks.zip ws).foldl (fun v e => v.setWord e.1 e.2) v))

/-- A reduction into `regs` registers from DST (R158). A tile's rows are reduced one by one, so the rows
before a fault keep their results (R172); columns and a vector source are read whole first. -/
def Gallery.vxReduce (g : Gallery) (x : VxRun) (regs : Nat)
    (f : Option (List Word) → List (Option Word) → List Word) : Gallery × Nat :=
  g.vxWith x fun p =>
    if !x.vec && !bitOf x.mod 7 then
      vxEachRow x p (fun r g =>
        match g.vxSource x x.sa x.xa r with
        | .error st => .error st
        | .ok ws => g.vxReducePut x regs f r (ws.zipIdx.map fun e => if x.laneOn p e.2 then some e.1 else none)) g
    else
      match g.vxGrid x p 0 x.rows with
      | .error st => (g, st)
      | .ok rows =>
        if g.vxAccBad x regs then (g, 0x12)
        else ((mxRows (fun i g => g.vxReducePut x regs f i (vxGroup x rows i)) 0 (g.countExcluded x p) 128).1, 0)

/-- A reduction to one word: the group's value, combined with the element there under ACC. -/
def reduceWord (f : List (Option Word) → Word) (comb : Word → Word → Word) (old : Option (List Word))
    (l : List (Option Word)) : List Word :=
  match old with
  | some d => [comb (listGet 0 d 0) (f l)]
  | none => [f l]

/-- A 64-bit value of a register pair, low word first. -/
def pairNat (d : List Word) : Nat := (listGet 0 d 0).toNat + (listGet 0 d 1).toNat * 2 ^ 32

/-- VRSUM (R158). -/
def Gallery.vxRsum (g : Gallery) (x : VxRun) : Gallery × Nat :=
  if bitOf x.mod 5 then
    g.vxReduce x 2 fun old l =>
      let q := exactSum (match old with | some d => pairNat d | none => 0) l
      [BitVec.ofNat 32 q, BitVec.ofNat 32 (q / 2 ^ 32)]
  else
    g.vxReduce x 1 (reduceWord (fun l => if bitOf x.mod 7 && !x.vec then seqSum (sumTerms l) else treeSum (sumTerms l)) fAdd)

/-- A ranked candidate (R159): value and index. -/
abbrev Cand := Word × Word

/-- a ranks strictly before b: higher value first, NaN below −inf, then the lower index. -/
def Cand.before (a b : Cand) : Bool :=
  let key (w : Word) : Int := if isNaN32 w then -(2 ^ 32) else fKeyZ w
  if key a.1 = key b.1 then decide (a.2.toNat < b.2.toNat) else decide (key b.1 < key a.1)

/-- The better of two candidates. -/
def Cand.best (a b : Cand) : Cand := if Cand.before b a then b else a

/-- A produced NaN is canonical (R131). -/
def canonNaN (w : Word) : Word := if isNaN32 w then nan32 else w

/-- The winner of a group: positions counted from IMM (R159). Over nothing the value is −inf, and no index
is stated (log entry 10). -/
def argmaxOf (imm : Word) (l : List (Option Word)) : Cand :=
  let cs : List Cand := (l.zipIdx.filterMap fun e => e.1.map fun w => (w, imm + BitVec.ofNat 32 e.2))
  match cs with
  | [] => (inf32 true, Config.emptyArgmaxIndex imm)
  | a :: t => t.foldl Cand.best a

/-- VRAMAX (R159). -/
def Gallery.vxRamax (g : Gallery) (x : VxRun) : Gallery × Nat :=
  g.vxReduce x 2 fun old l =>
    let w := argmaxOf x.imm l
    let c : Cand :=
      match old with
      | some d =>
        let d : Cand := (listGet 0 d 0, listGet 0 d 1)
        if (l.filterMap id).isEmpty then d else Cand.best d w
      | none => w
    [canonNaN c.1, c.2]

/-! ### Top-k (R160) -/

/-- Insert a candidate into a ranked list. -/
def rankInsert (c : Cand) : List Cand → List Cand
  | [] => [c]
  | d :: t => if Cand.before c d then c :: d :: t else d :: rankInsert c t

/-- The K written entries of a list: the best candidates, then unfilled entries. -/
def topk (k : Nat) (cs : List Cand) : List Cand :=
  let r := cs.foldl (fun l c => (rankInsert c l).take k) []
  r.map (fun c => (canonNaN c.1, c.2)) ++ (List.range (k - r.length)).map fun _ => (inf32 true, 0xFFFFFFFF#32)

/-- Candidates with a valid index, and under EXCL only those that rank below the boundary. -/
def candKeep (excl : Option Cand) (cs : List Cand) : List Cand :=
  cs.filter fun c => c.2 != 0xFFFFFFFF#32 &&
    match excl with
    | none => true
    | some b => Cand.before b c

/-- The entries of slot s of a row of 128 words. -/
def slotEntries (ws : List Word) (s : Nat) : List Cand :=
  (List.range 8).map fun j => (listGet 0 ws (8 * s + j), listGet 0 ws (64 + 8 * s + j))

/-- The boundary of EXCL for position i (R160): SB(i) and SB+1(i). -/
def Gallery.vxBoundary (g : Gallery) (x : VxRun) (i : Nat) : Except Nat (Option Cand) :=
  if descF x.d 24 15 1 = 1 then
    let v := g.vx x.core
    let k := vecKey (x.sb - 4) i
    if v.lineBad k 1 || v.lineBad (k + 128) 1 then .error 0x12 else .ok (some (v.word k, v.word (k + 128)))
  else .ok none

/-- One row's list (AX = 0, or vector shape). -/
def Gallery.vxTopkRow (g : Gallery) (x : VxRun) (p : BitVec 128) (r : Nat) : Except Nat Gallery :=
  let slot := descF x.d 24 12 3
  let k := x.mod % 16
  let dk := if x.vec then vecKey (x.dst - 4) 0 else tileKey x.dst r 0
  match g.vxSource x x.sa x.xa r, g.vxBoundary x r with
  | .error st, _ => .error st
  | _, .error st => .error st
  | .ok ws, .ok b =>
    let v := g.vx x.core
    if bitOf x.mod 6 && v.lineBad dk 128 then .error 0x12
    else
      let src : List Cand :=
        if bitOf x.mod 5 then
          let s := descF x.d 24 16 3
          ((slotEntries ws s).zipIdx.filter fun e => x.laneOn p (8 * s + e.2)).map (·.1)
        else ws.zipIdx.filterMap fun e => if x.laneOn p e.2 then some (e.1, x.imm + BitVec.ofNat 32 e.2) else none
      let old := if bitOf x.mod 6 then slotEntries (v.line dk) slot else []
      let out := topk k (candKeep b (old ++ src))
      .ok (g.setVx x.core (out.zipIdx.foldl (fun v e =>
        (v.setWord (dk + 8 * slot + e.2) e.1.1).setWord (dk + 64 + 8 * slot + e.2) e.1.2) v))

/-- The lists of the columns (AX = 1). Under EXCL element c of SB and of SB + 1 is the boundary of column c. DESIGN CHOICE: log entry 121. -/
def Gallery.vxTopkCols (g : Gallery) (x : VxRun) (p : BitVec 128) : Gallery × Nat :=
  let slot := descF x.d 24 12 3
  let k := x.mod % 16
  match g.vxGrid x p 0 128 with
  | .error st => (g, st)
  | .ok rows =>
    let v := g.vx x.core
    let cell (r c : Nat) : Word := v.word (tileKey x.dst r c)
    let bad := bitOf x.mod 6 && (List.range 8).any fun j =>
      v.lineBad (tileKey x.dst (8 * slot + j) 0) 128 || v.lineBad (tileKey x.dst (64 + 8 * slot + j) 0) 128
    if bad then (g, 0x12)
    else if (List.range 128).any fun c => match g.vxBoundary x c with | .error _ => true | .ok _ => false then (g, 0x12)
    else
      let one (v : VCore) (c : Nat) : VCore :=
        let src : List Cand := (gridColumn rows c).zipIdx.filterMap fun e => e.1.map fun w => (w, x.imm + BitVec.ofNat 32 e.2)
        let old : List Cand := if bitOf x.mod 6 then (List.range 8).map fun j => (cell (8 * slot + j) c, cell (64 + 8 * slot + j) c) else []
        let b := match g.vxBoundary x c with | .ok b => b | .error _ => none
        (topk k (candKeep b (old ++ src))).zipIdx.foldl (fun v e =>
          (v.setWord (tileKey x.dst (8 * slot + e.2) c) e.1.1).setWord (tileKey x.dst (64 + 8 * slot + e.2) c) e.1.2) v
      ((g.countExcluded x p).setVx x.core ((List.range 128).foldl one v), 0)

/-- VTOPK (R160). -/
def Gallery.vxTopk (g : Gallery) (x : VxRun) : Gallery × Nat :=
  g.vxWith x fun p =>
    if bitOf x.mod 7 && !x.vec then g.vxTopkCols x p
    else vxEachRow x p (fun r g => g.vxTopkRow x p r) g

/-! ### Scans and counts (R161, R162) -/

/-- One scan step: the running sum before and after an element. -/
def scanAdd (int : Bool) (s w : Word) : Word := if int then s + w else fAdd s w

/-- The outputs of a scan over a list; `none` where the element is excluded. -/
def scanList (int excl : Bool) (s : Word) : List (Option Word) → List (Option Word)
  | [] => []
  | none :: t => none :: scanList int excl s t
  | some w :: t =>
    let n := scanAdd int s w
    some (if excl then s else n) :: scanList int excl n t

/-- One row of a scan along columns: the running sums of the columns go on over it. -/
def scanRow (int excl : Bool) : List Word → List (Option Word) → List (Option Word × Word)
  | s :: ss, some w :: t =>
    let n := scanAdd int s w
    (some (if excl then s else n), n) :: scanRow int excl ss t
  | s :: ss, none :: t => (none, s) :: scanRow int excl ss t
  | _, _ => []

/-- The rows of a scan along columns from r on; the rows before a fault keep their results (R172). -/
def Gallery.vxScanRows (x : VxRun) (p : BitVec 128) (int excl : Bool) (r : Nat) (sums : List Word) (g : Gallery) :
    Nat → Gallery × Nat
  | 0 => (g, 0)
  | n + 1 =>
    if x.rowOn p r then
      match g.vxSource x x.sa x.xa r with
      | .error st => (g, st)
      | .ok ws =>
        let q := scanRow int excl sums (ws.zipIdx.map fun e => if x.laneOn p e.2 then some e.1 else none)
        match g.vxDest x p r (q.map (·.1)) with
        | .error st => (g, st)
        | .ok g' => Gallery.vxScanRows x p int excl (r + 1) (q.map (·.2)) g' n
    else Gallery.vxScanRows x p int excl (r + 1) sums (g.skipAdd 4 1) n

/-- VSCAN (R161). -/
def Gallery.vxScan (g : Gallery) (x : VxRun) : Gallery × Nat :=
  let int := bitOf x.mod 1
  let excl := bitOf x.mod 0
  let zero : Word := if int then 0 else 0x80000000#32
  g.vxWith x fun p =>
    if bitOf x.mod 7 && !x.vec then Gallery.vxScanRows x p int excl 0 ((List.range 128).map fun _ => zero) g 128
    else
      vxEachRow x p (fun r g =>
        match g.vxSource x x.sa x.xa r with
        | .error st => .error st
        | .ok ws =>
          g.vxDest x p r (scanList int excl zero (ws.zipIdx.map fun e => if x.laneOn p e.2 then some e.1 else none))) g

/-- The bin of a value (R162), if it falls in one. -/
def binOf (imm w : Word) : Option Nat :=
  if imm.toNat ≤ w.toNat ∧ w.toNat - imm.toNat < 128 then some (w.toNat - imm.toNat) else none

/-- VCOUNT (R162). -/
def Gallery.vxCount (g : Gallery) (x : VxRun) : Gallery × Nat :=
  g.vxWith x fun p =>
    match g.vxGrid x p 0 x.rows with
    | .error st => (g, st)
    | .ok rows =>
      if g.vxAccBad x 1 then (g, 0x12)
      else
        let bins := rows.flatten.filterMap fun w => w.bind (binOf x.imm)
        let v := g.vx x.core
        let k := vecKey (x.dst - 4) 0
        let ws := (List.range 128).map fun b =>
          let n : Word := BitVec.ofNat 32 (bins.countP (· == b))
          some (if bitOf x.mod 6 then v.word (k + b) + n else n)
        ((g.countExcluded x p).vxPutLine x k ws, 0)

/-- Ranks of a row's elements, with the running count of each bin. -/
def rankRow (imm : Word) (base : List Word) : List Nat → List (Option Word) → List (Option Word) × List Nat
  | cnt, [] => ([], cnt)
  | cnt, none :: t => let q := rankRow imm base cnt t; (none :: q.1, q.2)
  | cnt, some w :: t =>
    match binOf imm w with
    | none => let q := rankRow imm base cnt t; (some 0xFFFFFFFF#32 :: q.1, q.2)
    | some b =>
      let n := listGet 0 cnt b
      let q := rankRow imm base (listSet cnt b (n + 1)) t
      (some (listGet 0 base b + BitVec.ofNat 32 n) :: q.1, q.2)

/-- The rows of VRANKB from r on; the bases are read before any result is written. -/
def Gallery.vxRankRows (x : VxRun) (p : BitVec 128) (base : List Word) (r : Nat) (cnt : List Nat) (g : Gallery) :
    Nat → Gallery × Nat × List Nat
  | 0 => (g, 0, cnt)
  | n + 1 =>
    if x.vec || x.rowOn p r then
      match g.vxSource x x.sa x.xa r with
      | .error st => (g, st, cnt)
      | .ok ws =>
        let q := rankRow x.imm base cnt (ws.zipIdx.map fun e => if x.laneOn p e.2 then some e.1 else none)
        match g.vxDest x p r q.1 with
        | .error st => (g, st, cnt)
        | .ok g' => Gallery.vxRankRows x p base (r + 1) q.2 g' n
    else Gallery.vxRankRows x p base (r + 1) cnt (g.skipAdd 4 1) n

/-- VRANKB (R162). -/
def Gallery.vxRankb (g : Gallery) (x : VxRun) : Gallery × Nat :=
  g.vxWith x fun p =>
    let v := g.vx x.core
    let k := vecKey (x.sb - 4) 0
    if v.lineBad k 128 then (g, 0x12)
    else
      let base := v.line k
      let q := Gallery.vxRankRows x p base 0 ((List.range 128).map fun _ => 0) g x.rows
      if q.2.1 ≠ 0 then (q.1, q.2.1)
      else if x.mod = 1 then
        (q.1.vxPutLine x k (q.2.2.zipIdx.map fun e => some ((q.1.vx x.core).word (k + e.2) + BitVec.ofNat 32 e.1)), 0)
      else (q.1, 0)

/-! ### Gather and scatter (R163, R164) -/

/-- Element r of the index register. -/
def Gallery.vxIndex (g : Gallery) (x : VxRun) (r : Nat) : Except Nat Word :=
  let k := vecKey (x.sa - 4) r
  if (g.vx x.core).lineBad k 1 then .error 0x12 else .ok ((g.vx x.core).word k)

/-- VGATHER (R163): row r comes from SPA + i · SSTR, its scales from SCA + i · s; an index whose row would pass the 4 MiB ends with 0x11. -/
def Gallery.vxGather (g : Gallery) (x : VxRun) : Gallery × Nat :=
  g.vxWith x fun p => vxEachRow x p (fun r g =>
    match g.vxIndex x r with
    | .error st => .error st
    | .ok i =>
      if i = 0xFFFFFFFF#32 then .ok g
      else
        match g.vxRowAt x (x.spa + i.toNat * strideOf x.sstr (vxRowBytes x.sfmt)) (x.sca + i.toNat * vxScaleBytes x.sfmt) 0x11 with
        | .error st => .error st
        | .ok ws => g.vxDest x p r (ws.map some)) g

/-- VSCATTER (R163): the rows of SB in ascending order, row r to SPD + i · DSTR, so that of two equal indices the higher row's data remains. -/
def Gallery.vxScatter (g : Gallery) (x : VxRun) : Gallery × Nat :=
  g.vxWith x fun p => vxEachRow x p (fun r g =>
    match g.vxIndex x r with
    | .error st => .error st
    | .ok i =>
      if i = 0xFFFFFFFF#32 then .ok g
      else
        match g.vxSource x x.sb false r with
        | .error st => .error st
        | .ok ws =>
          let ws := ws.zipIdx.map fun e => if x.laneOn p e.2 then some e.1 else none
          g.vxRowPut x r (x.spd + i.toNat * strideOf x.dstr (vxRowBytes x.dfmt)) (x.sca + i.toNat * vxScaleBytes x.dfmt) 0x11 ws) g

/-- One gathered element (R164). -/
def Gallery.vxElement (g : Gallery) (x : VxRun) (i : Word) : Except Nat Word :=
  let f := Fmt.ofCode x.sfmt
  let e := f.bits / 8
  let a := x.spa + i.toNat * e
  if spadSize < a + e then .error 0x11
  else if g.spadBad a e then .error 0x02
  else
    let w := f.toFp32 false 0 (Memory.num g.spad a e)
    .ok (if x.osc && decide (x.sfmt < 0xE) then fMul w x.imm else w)

/-- The gathered elements of one row. -/
def Gallery.vxElements (g : Gallery) (x : VxRun) (p : BitVec 128) : List (Word × Nat) → Except Nat (List (Option Word))
  | [] => .ok []
  | (i, c) :: t =>
    match (if x.laneOn p c then (g.vxElement x i).map some else .ok none), g.vxElements x p t with
    | .error st, _ => .error st
    | _, .error st => .error st
    | .ok w, .ok ws => .ok (w :: ws)

/-- VGATHERE (R164). -/
def Gallery.vxGathere (g : Gallery) (x : VxRun) : Gallery × Nat :=
  g.vxWith x fun p => vxEachRow x p (fun r g =>
    match g.vxSource x x.sa x.xa r with
    | .error st => .error st
    | .ok is =>
      match g.vxElements x p is.zipIdx with
      | .error st => .error st
      | .ok ws => g.vxDest x p r ws) g

/-! ### Masks (R152) -/

/-- Whether mask register m has bad parity. -/
def VCore.maskBad (v : VCore) (m : Nat) : Bool := Store.get noMark v.bad (66560 + m)

/-- MLOG. -/
def Gallery.vxMlog (g : Gallery) (x : VxRun) : Gallery × Nat :=
  let v := g.vx x.core
  if v.maskBad x.sa || v.maskBad x.sb then (g, 0x12)
  else
    let a := v.mask x.sa
    let b := v.mask x.sb
    let m := match x.mod with | 0 => a &&& b | 1 => a ||| b | 2 => a ^^^ b | _ => a &&& ~~~b
    (g.setVx x.core (v.setMask x.dst m), 0)

/-- MLD. -/
def Gallery.vxMld (g : Gallery) (x : VxRun) : Gallery × Nat :=
  let st := g.spadReadStat x.spa 16
  if st ≠ 0 then (g, st)
  else (g.setVx x.core ((g.vx x.core).setMask x.dst (BitVec.ofNat 128 (Memory.num g.spad x.spa 16))), 0)

/-- MST. -/
def Gallery.vxMst (g : Gallery) (x : VxRun) : Gallery × Nat :=
  let v := g.vx x.core
  let st := spadWriteStat x.spd 16
  if st ≠ 0 then (g, st)
  else if v.maskBad x.sa then (g, 0x12)
  else (g.spadWrite x.spd (leBytes 16 (v.mask x.sa).toNat), 0)

/-- MPOPC, under the lane predicate (R151, R152). -/
def Gallery.vxMpopc (g : Gallery) (x : VxRun) : Gallery × Nat :=
  g.vxWith x fun p =>
    let v := g.vx x.core
    if v.maskBad x.sa then (g, 0x12)
    else
      let n : Word := BitVec.ofNat 32 ((List.range 128).countP fun i => (v.mask x.sa).getLsbD i)
      (g.vxPutLine x (vecKey (x.dst - 4) 0) ((List.range 128).map fun c => if x.laneOn p c then some n else none), 0)

/-! ### Sampling (R165, R166) -/

/-- VRAND. -/
def Gallery.vxRand (g : Gallery) (x : VxRun) : Gallery × Nat :=
  g.vxLanes x true true true fun _ _ a b c =>
    let w := listGet 0 (philox a.toNat b.toNat c.toNat 0 x.imm.toNat 0) (x.mod % 4)
    some (if bitOf x.mod 2 then BitVec.ofNat 32 w else rneMag false (2 * (w / 512) + 1) (2 ^ 24))

/-- The first part of R166's loop: the running sums, and whether the mass was reached. -/
def sampCum (row : List Word) (pr : Word) : Nat → Nat → Word → List Word → List Word × Bool
  | 0, _, _, acc => (acc.reverse, true)
  | n + 1, j, c, acc =>
    let w := listGet 0 row j
    if listGet 0 row (64 + j) = 0xFFFFFFFF#32 ∨ ¬ fLt 0 w then (acc.reverse, true)
    else
      let c := fAdd c w
      if fLe pr c then ((c :: acc).reverse, false) else sampCum row pr n (j + 1) c (c :: acc)

/-- The token, the nucleus size and the cap flag of one row (R166). -/
def sampRow (ns : Nat) (row : List Word) (pr u : Word) : Word × Word :=
  let q := sampCum row pr (8 * ns) 0 0 []
  let n := q.1.length
  let d1 : Word := BitVec.ofNat 32 (b2n q.2 * 2 ^ 31 + n)
  if n = 0 then (listGet 0 row 64, d1)
  else
    let t := fMul u (listGet 0 q.1 (n - 1))
    let j := match q.1.findIdx? (fun c => fLt t c) with | some j => j | none => n - 1
    (listGet 0 row (64 + j), d1)

/-- VSAMP (R166). -/
def Gallery.vxSamp (g : Gallery) (x : VxRun) : Gallery × Nat :=
  g.vxWith x fun p => vxEachRow x p (fun r g =>
    match g.vxSource x x.sa false r, g.vxSource x x.sb true r, g.vxSource x x.sc true r with
    | .error st, _, _ => .error st
    | _, .error st, _ => .error st
    | _, _, .error st => .error st
    | .ok row, .ok pr, .ok u =>
      let q := sampRow x.mod row (listGet 0 pr 0) (listGet 0 u 0)
      if x.laneOn p r then .ok ((g.vxPutElem x (x.dst - 4) r q.1).vxPutElem x (x.dst - 3) r q.2) else .ok g) g

/-! ### Save and restore (R171) -/

/-- VSAVE (R171): the save area of Table 6-8 at SPD: magic, version 1, the tiles, the vector registers and the masks. Nothing is written on a fault. -/
def Gallery.vxSave (g : Gallery) (x : VxRun) : Gallery × Nat :=
  let v := g.vx x.core
  let st := spadWriteStat x.spd 266496
  if st ≠ 0 then (g, st)
  else if v.lineBad 0 66564 then (g, 0x12)
  else
    let words := (List.range 66560).flatMap fun k => leBytes 4 (v.word k).toNat
    let masks := [0, 1, 2, 3].flatMap fun m => leBytes 16 (v.mask m).toNat
    (g.spadWrite x.spd (leBytes 4 0x56585356 ++ leBytes 4 1 ++ leBytes 120 0 ++ words ++ masks ++ leBytes 64 0), 0)

/-- VRESTORE (R171): the magic and version are read and checked first (0x13), then every register is loaded from the save area at SPA. -/
def Gallery.vxRestore (g : Gallery) (x : VxRun) : Gallery × Nat :=
  let a := x.spa
  let head := g.spadReadStat a 8
  let st := g.spadReadStat a 266496
  if head ≠ 0 then (g, head)
  else if Memory.num g.spad a 4 ≠ 0x56585356 ∨ Memory.num g.spad (a + 4) 1 ≠ 1 then (g, 0x13)
  else if st ≠ 0 then (g, st)
  else
    let v := g.vx x.core
    let v := (List.range 66560).foldl (fun v k => v.setWord k (BitVec.ofNat 32 (Memory.num g.spad (a + 0x80 + 4 * k) 4))) v
    let v := [0, 1, 2, 3].foldl (fun v m => v.setMask m (BitVec.ofNat 128 (Memory.num g.spad (a + 0x41080 + 16 * m) 16))) v
    (g.setVx x.core v, 0)

end Sys2Proof.Machine
end

