-- ==== Sys2Proof/Machine/Attention.lean ====
section
/-! DEFINITION. Contexts across modules (R277 to R279): the chunk partial of the decode path (R286, R287) over an annex, queries and answers. -/

namespace Sys2Proof.Machine

/-! ### The decode path (R286) -/

/-- Row r of a page as the stair delivers it to the decode path, in BF16 with its block scales applied (Table 10-9, R244), each value an FP32 word. -/
def pageRow (fmt : Nat) (bs : List Byte) (r : Nat) : List Word :=
  let f := Fmt.ofCode fmt
  let codes := unpack f.bits 128 ((bs.drop (16 * f.bits * r)).take (16 * f.bits))
  let scales := if fmt = 8 then (List.range 4).map fun i => imN bs (8192 + 4 * r + i) 1 else []
  (stElems fmt 0xB (fun _ => .nearestEven) false false codes scales).1.map fun x => Fmt.toFp32 (Fmt.ofCode 0xB) false 0 x

/-- vexp(a, b, e): VEXP on a × b + e, rounded once (R156, R285). -/
def vexp (a b e : Word) : Word := fExp (flushArg (fFma a b e))

/-- A partial: M, L and O of one query head. -/
abbrev Partial := Word × Word × List Word

/-- merge of R286; an empty accumulator takes the partial as it is. -/
def mergePartial (c : Word) (acc : Option Partial) (p : Partial) : Partial :=
  match acc with
  | none => p
  | some q =>
    let m2 := fMax q.1 p.1
    let e2 := fMul m2 (fNeg c)
    let a := vexp q.1 c e2
    let b := vexp p.1 c e2
    (m2, fFma p.2.1 b (fMul q.2.1 a), List.zipWith (fun x y => fFma y b (fMul x a)) q.2.2 p.2.2)

/-- The partial of one page: key and value pages, of which the first `rows` rows are written (R268), the query, and which positions of the page are
visible. -/
def pagePartial (c : Word) (kf : Nat) (kb : List Byte) (vf : Nat) (vb : List Byte) (rows : Nat) (q : List Word) (vis : Nat → Bool) : Partial :=
  let s := (List.range 128).map fun x => if vis x then treeSum (List.zipWith fMul (pageRow kf kb x) q) else inf32 true
  let m := match s with | [] => inf32 true | w :: ws => ws.foldl fMax w
  let w := s.map fun y => vexp y c (fMul m (fNeg c))
  let vs := (List.range rows).map (pageRow vf vb)
  let o := (List.range 128).map fun d => seqSum (List.zipWith (fun row y => fMul (listGet 0 row d) y) vs w)
  (m, treeSum w, o)

/-- The key and value pages at a place: format and bytes of each. -/
abbrev PagePair := Nat × List Byte × Nat × List Byte

/-- The chunk partial of one query head over the pages that `page` gives: none where no key is visible; the second part is false where a page that it needs
is lost. A page index without pages has nothing; a page with no visible key is skipped (R191). No row beyond the query's position `pos` is read (R268).
DEDUCED: log entry 125. -/
def chunkFold (scale : Word) (first pos : Nat) (page : Nat → Option (Option PagePair)) (sees : Nat → Bool) (q : List Word) : Option Partial × Bool :=
  (List.range 64).foldl (fun r i =>
    let lo := first + 128 * i
    if !r.2 || !(List.range 128).any fun x => sees (lo + x) then r
    else
      match page i with
      | none => (none, false)
      | some none => r
      | some (some p) => (some (mergePartial scale r.1 (pagePartial scale p.1 p.2.1 p.2.2.1 p.2.2.2 (min 128 (pos + 1 - lo)) q fun x => sees (lo + x))), true)) (none, true)

/-- The total of chunk partials in ascending chunk order (R286). -/
def mergeAll (scale : Word) (ps : List Partial) : Option Partial := ps.foldl (fun a p => some (mergePartial scale a p)) none

/-- The output of a query head: each element of O times VRCP(L), rounded once (R286). -/
def headOut (p : Partial) : List Word := p.2.2.map fun o => fMul o (fRcp p.2.1)

/-- Visibility under a layer's kind (R280). -/
def kindSees (wlo pos p : Nat) : Bool := decide (wlo ≤ p ∧ p ≤ pos)

/-! ### An annex as a chunk (R460) -/

/-- Offset of page n of an image's index: the sizes of the pages before it. -/
def imagePage (idx : List Byte) (n : Nat) : Nat := (idx.take n).foldl (fun a b => a + pageBytes (b.toNat % 16)) 0

/-- The layers before a layer whose lists an image of a ticket with a skip mask holds (R389). -/
def layersBefore (skip layer : Nat) : Nat := ((List.range layer).filter fun l => !(decide (l < 64) && bitOf skip l)).length

/-- The key and value pages of an annex's image at a place: layer, local head, page index. An image whose index is whole skips no layer. DEDUCED: log entry 91. -/
def Chip.annexPage (c : Chip) (a : Annex) (layers layer ht j i : Nat) : Option (Option PagePair) :=
  let head := c.annexBytes a 0 0x80
  let idx := c.annexBytes a 0x80 (imN head 0x14 4)
  let off := imN head 0x30 8
  let skip := if idx.length = layers * ht * 128 then 0 else (Config.annexSkip a.id).toNat
  let kn := ((layersBefore skip layer * ht + j) * 2) * 64 + i
  let vn := kn + 64
  let kf := (listGet 0xF idx kn).toNat % 16
  let vf := (listGet 0xF idx vn).toNat % 16
  let ko := off + imagePage idx kn
  let vo := off + imagePage idx vn
  if idx.length ≤ vn ∨ c.annexBad a ko (pageBytes kf) ∨ c.annexBad a vo (pageBytes vf) then none
  else some (some (kf, c.annexBytes a ko (pageBytes kf), vf, c.annexBytes a vo (pageBytes vf)))

/-- The chunk partial of one query head over an annex's image: layer, local head, query (R278). -/
def Chip.chunkPartial (c : Chip) (a : Annex) (scale : Word) (layers layer ht j pos wlo : Nat) (q : List Word) : Option Partial × Bool :=
  chunkFold scale ((imN (c.annexBytes a 0 0x80) 0xC 4 - 1) / 8192 * 8192) pos (c.annexPage a layers layer ht j) (kindSees wlo pos) q

/-! ### A chunk at home -/

/-- The key and value pages of a ticket's list at a place of a chunk here. -/
def Chip.localPage (c : Chip) (root t k layer j i : Nat) : Option (Option PagePair) :=
  let entry (x : Nat) : Nat := match c.entryAddr root ⟨t, k, layer, j, x, i⟩ with | some a => c.memNum a 8 | none => skipEntry
  let bad (e : Nat) : Bool := c.memPoisoned (field e 0 40) (pageBytes (field e 40 4))
  let bytes (e : Nat) : List Byte := c.memBytes (field e 0 40) (pageBytes (field e 40 4))
  let ke := entry 0
  let ve := entry 1
  if bitOf ke 44 ∨ bitOf ve 44 then some none
  else if bad ke ∨ bad ve then none
  else some (some (field ke 40 4, bytes ke, field ve 40 4, bytes ve))

/-! ### Messages of the usher (R448) -/

/-- Take the first message of a kind that a link brought. -/
def Chip.takeMsg (c : Chip) (l kind : Nat) : Option (Chip × List Byte) :=
  match c.lk.msgs.find? fun m => m.1 == l && m.2.1 == kind with
  | none => none
  | some m =>
    let i := (c.lk.msgs.takeWhile fun x => x != m).length
    some ({ c with lk := { c.lk with msgs := c.lk.msgs.take i ++ c.lk.msgs.drop (i + 1) } }, m.2.2)

/-- The partner of a link: its node and BOOTID. -/
def Chip.partner (c : Chip) (l : Nat) : Nat × Word := (c.rdF (Reg.linkPartner l) 32 8, BitVec.ofNat 32 (c.rdF (Reg.linkPartner l) 0 32))

/-- An annex that a link's partner owns. -/
def Chip.annexOf (c : Chip) (l : Nat) (id : Word) : Option Annex :=
  c.lk.annexes.find? fun a => a.id == id && a.node == (c.partner l).1 && a.boot == (c.partner l).2

/-- Scale c of a layer of a model. -/
def layerScale (im : List Byte) (layer : Nat) : Word := BitVec.ofNat 32 (imN (attnRec im) (16 + 16 * layer + 8) 4)

/-- The ATTN_PARTIAL that answers a query (Table 10-7). -/
def attnPartial (q : List Byte) (nch status : Nat) (recs : List Byte) : List Byte :=
  q.take 8 ++ leBytes 2 nch ++ (q.drop 10).take 6 ++ (q.drop 16).take 8 ++ [BitVec.ofNat 8 status] ++ leBytes 7 0 ++ recs

/-- A peer's work for a query (R278): the chunk partial of each query head. -/
def Chip.attnAnswer (c : Chip) (l : Nat) (q : List Byte) : List Byte :=
  match c.annexOf l (BitVec.ofNat 32 (imN q 0 4)) with
  | none => attnPartial q 0 1 []
  | some a =>
    let head := c.annexBytes a 0 0x80
    let t := imN q 6 1 % 4
    let ht := imN head (0x20 + t) 1
    let nqh := imN q 7 1
    let layer := imN q 4 2
    match (List.range 8).find? fun m => c.loaded m && c.modelId m == imN head 0x10 4 with
    | none => attnPartial q 0 2 []
    | some m =>
      let scale := layerScale (c.model m).image layer
      let r := (List.range nqh).map fun h =>
        c.chunkPartial a scale (mdlLayers (c.model m).image) layer ht (h * ht / nqh) (imN q 8 4) (imN q 12 4) ((List.range 128).map fun d => BitVec.ofNat 32 (imN q (32 + 512 * h + 4 * d) 4))
      if r.any fun x => !x.2 then attnPartial q 0 2 []
      else if r.all fun x => x.1.isNone then attnPartial q 0 0 []
      else
        let rec_ := leBytes 2 ((imN head 0xC 4 - 1) / 8192) ++ leBytes 14 0 ++ r.foldr (fun x t =>
          (match x.1 with
            | some p => leBytes 4 p.1.toNat ++ leBytes 4 p.2.1.toNat ++ leBytes 8 0 ++ p.2.2.foldr (fun w u => leBytes 4 w.toNat ++ u) []
            | none => leBytes 528 0) ++ t) []
        attnPartial q 1 0 rec_

/-- Position of a ticket's row in flight. -/
def Chip.rowPos (c : Chip) (w : Word) : Option Nat :=
  (((c.ush.tables.filter fun t => !t.accepted).foldl (fun l t => l ++ t.rows) []).find? fun r => r.ticket == w && !r.done).map (·.pos)

/-- WLO of a query position in a layer (R280). -/
def windowLow (im : List Byte) (layer pos : Nat) : Nat :=
  let e := imB (attnRec im) (16 + 16 * layer) 16
  if imN e 0 1 = 1 then pos + 1 - imN e 4 4 else 0

/-- The home sends an ATTN_QUERY for a ticket's row in flight; its TAG holds the epoch in [63:40]. -/
def Chip.attnSend (c : Chip) (w : Word) (layer t k : Nat) (q : List Word) : Chip :=
  match c.liveIdx w, c.rowPos w with
  | some i, some pos =>
    let b := c.cblk (c.tkRoot i) t k
    let node := field b 32 8
    match (c.linksTo node).filter fun l => decide (0x20 ≤ c.linkVer l) with
    | [] => c
    | l :: _ =>
      if !bitOf b 63 ∨ c.tkRoot i = 0 ∨ q.length % 128 ≠ 0 ∨ q.length = 0 ∨ 4096 < q.length then c
      else
        let tag : DWord := BitVec.ofNat 64 (c.free % 2 ^ 40 + c.epoch.toNat % 2 ^ 24 * 2 ^ 40)
        let body := leBytes 4 (field b 0 32) ++ leBytes 2 layer ++ [BitVec.ofNat 8 t, BitVec.ofNat 8 (q.length / 128)] ++ leBytes 4 pos
          ++ leBytes 4 (windowLow (c.model (c.tkModel i)).image layer pos) ++ leBytes 8 tag.toNat ++ leBytes 8 0 ++ q.foldr (fun w u => leBytes 4 w.toNat ++ u) []
        let a : AttnWait := { tag := tag, ticket := w, pos := pos, layer := layer, tower := t, chunk := k, since := c.act, got := none, q := q }
        let c := { c with free := c.free + 1, lk := { c.lk with attn := c.lk.attn ++ [a] } }
        c.sendMsg l 0x10 false (.attn tag) body
  | _, _ => c

/-- A remote chunk of a ticket is lost: its annex is closed and its positions are recomputed from the token log (R279, R392). -/
def Chip.recoverChunk (c : Chip) (i t k : Nat) : Chip :=
  let root := c.tkRoot i
  let b := c.cblk root t k
  if root = 0 ∨ !bitOf b 63 then c
  else
    let c := if c.annexShared i (field b 32 8) (field b 0 32) then c else c.closeAnnex (field b 32 8) (BitVec.ofNat 32 (field b 0 32))
    let c := c.memWriteNum (field (c.tdir root t) 0 40 + 8 * k) 8 0
    c.recoverStart i (c.model (c.tkModel i)).image ((List.range 64).map fun p => 64 * k + p)

/-- A query of the home that has failed: its row leaves the step unsampled and its chunk is recovered (R279). -/
def Chip.attnFail (c : Chip) (a : AttnWait) : Chip :=
  let c := { c with lk := { c.lk with attn := c.lk.attn.filter fun x => x.tag != a.tag } }
  let c := c.removeRows fun _ r => r.ticket == a.ticket && r.pos == a.pos
  match c.liveIdx a.ticket with
  | some i => c.recoverChunk i a.tower a.chunk
  | none => c

/-- The chunk records of an answer: each chunk, and the partials of its heads. -/
def attnRecords (p : List Byte) (nqh : Nat) : List ChunkRec :=
  (List.range (imN p 8 2)).map fun k =>
    let r := 32 + k * (16 + 528 * nqh)
    { chunk := imN p r 2
      heads := (List.range nqh).map fun h =>
        let o := r + 16 + 528 * h
        (BitVec.ofNat 32 (imN p o 4), BitVec.ofNat 32 (imN p (o + 4) 4), (List.range 128).map fun d => BitVec.ofNat 32 (imN p (o + 16 + 4 * d) 4)) }

/-- Whether a key of a ticket is visible to its row: the layer's kind, and the map of the command that brought the position (R280). -/
def Chip.rowSees (c : Chip) (i layer pos p : Nat) : Bool :=
  kindSees (windowLow (c.model (c.tkModel i)).image layer pos) pos p
    && match (c.aux i).maps.find? fun m => decide (m.first ≤ pos ∧ pos ≤ m.last) with
      | some m => mapSees (c.memBytes m.addr m.len) (m.first / 128) pos p
      | none => true

/-- The chunk partials of one query head of a row, local and remote, in ascending chunk order; none where a page at home is lost. -/
def Chip.chunkParts (c : Chip) (i : Nat) (a : AttnWait) (h : Nat) : Option (List Partial) :=
  let root := c.tkRoot i
  let scale := layerScale (c.model (c.tkModel i)).image a.layer
  let j := h * c.rootHt root a.tower / (a.q.length / 128)
  let q := (a.q.drop (128 * h)).take 128
  let mine := c.lk.attn.filter fun x => x.ticket == a.ticket && x.pos == a.pos && x.layer == a.layer && x.tower == a.tower
  (List.range (a.pos / 8192 + 1)).foldl (fun (acc : Option (List Partial)) k =>
    acc.bind fun l =>
      if bitOf (c.cblk root a.tower k) 63 then
        some (l ++ ((mine.flatMap fun x => x.got.getD []).filter fun r => r.chunk == k).filterMap fun r => (r.heads.drop h).head?)
      else
        let r := chunkFold scale (8192 * k) a.pos (c.localPage root a.tower k a.layer j) (c.rowSees i a.layer a.pos) q
        if r.2 then some (l ++ r.1.toList) else none) (some [])

/-- Every remote chunk that a row sees in a layer and tower has answered: its heads' outputs are formed (R278, R286). -/
def Chip.attnMerge (c : Chip) (i : Nat) (a : AttnWait) : Chip :=
  let root := c.tkRoot i
  let scale := layerScale (c.model (c.tkModel i)).image a.layer
  let here (k : Nat) : Bool := c.lk.attn.any fun x => x.ticket == a.ticket && x.pos == a.pos && x.layer == a.layer && x.tower == a.tower && x.chunk == k && x.got.isSome
  let due := (List.range (a.pos / 8192 + 1)).filter fun k =>
    bitOf (c.cblk root a.tower k) 63 && decide (windowLow (c.model (c.tkModel i)).image a.layer a.pos < 8192 * (k + 1))
  if !due.all here then c
  else
    let parts := (List.range (a.q.length / 128)).map fun h => c.chunkParts i a h
    if parts.any fun p => p.isNone then c
    else
      let out := parts.map fun p => match mergeAll scale (p.getD []) with | some t => headOut t | none => List.replicate 128 0
      { c with lk := { c.lk with outs := c.lk.outs ++ [⟨a.ticket, a.pos, a.layer, a.tower, out⟩] } }

/-- An ATTN_PARTIAL arrives (R278, R279, R307). -/
def Chip.attnReceive (c : Chip) (p : List Byte) : Chip :=
  let tag : DWord := BitVec.ofNat 64 (imN p 16 8)
  if field tag.toNat 40 24 ≠ c.epoch.toNat % 2 ^ 24 ∨ c.epochState = 3 ∨ c.epochState = 4 then c.bump Reg.epcnt 0 32 1
  else
    match c.lk.attn.find? fun a => a.tag == tag && a.got.isNone with
    | none => c
    | some a =>
      if imN p 24 1 ≠ 0 then c.attnFail a
      else
        match c.liveIdx a.ticket with
        | none => c
        | some i =>
          let b := { a with got := some (attnRecords p (imN p 7 1)) }
          Chip.attnMerge { c with lk := { c.lk with attn := c.lk.attn.map fun x => if x.tag = a.tag then b else x } } i b

/-- ATTN_QUERY (R278): a query that a link has brought is answered from its annex; or the home sends one. -/
def execAttnQuery (side : AttnSide) (s : State) : Host.Outcome State Fault Refusal :=
  s.onUsher fun c =>
    match side with
    | .receive l => match c.takeMsg l.val 0x10 with
      | none => c
      | some (c, q) => c.sendMsg l.val 0x11 false .plain (c.attnAnswer l.val q)
    | .send w layer t k q => c.attnSend w layer.val t.val k.val q

/-- ATTN_PARTIAL (R278). -/
def execAttnPartial (l : Fin 5) (s : State) : Host.Outcome State Fault Refusal :=
  s.onUsher fun c => match c.takeMsg l.val 0x11 with | none => c | some (c, p) => (c.attnReceive p).settle

/-- ATTN_PARTIAL_TIMEOUT (R279): 2 ms have passed without the answer to a query. -/
def execAttnPartialTimeout (tag : DWord) (s : State) : Host.Outcome State Fault Refusal :=
  s.onUsher fun c =>
    match c.lk.attn.find? fun a => a.tag == tag && a.got.isNone with
    | none => c
    | some a => if c.act.toNat < a.since.toNat + 2000000 then c else (c.attnFail a).settle

end Sys2Proof.Machine
end

