-- ==== Sys2Proof/Machine/MemoryCommands.lean ====
section
/-! DEFINITION. The commands of the memory path below the stair engine (R42, R48, R55, R229 to R239, R253 to R260). -/

namespace Sys2Proof.Machine

/-! ### Slices and vaults, request by request -/

/-- A line request reaches its home slice. -/
def Chip.sliceRequest (c : Chip) (r : LineReq) (l : Nat) : Chip :=
  match c.pathStatus l r.who with
  | 0 => (c.takeTurn c.mem.held r l).serveHeld (lineHome l)
  | e => c.answer r.tag e 0

/-- SLICE_REQUEST: `tag` names the request to whoever sent it. -/
def execSliceRequest (tag : Word) (line : BitVec 34) (op : LineOp) (ah : Fin 3) (who : Requester) (s : State) :
    Host.Outcome State Fault Refusal :=
  s.onLive fun c => c.sliceRequest ⟨tag.toNat, who, op, ah.val, c.now, false⟩ line.toNat

/-- SLICE_FILL. -/
def execSliceFill (line : BitVec 34) (s : State) : Host.Outcome State Fault Refusal := s.onLive fun c => c.sliceFill line.toNat

/-- BACK_INVALIDATE: one that has been sent up the bus reaches its slice (R238, R340). -/
def execBackInvalidate (line : BitVec 34) (s : State) : Host.Outcome State Fault Refusal :=
  s.onLive fun c => if c.mem.backInv.contains line.toNat then c.backInvalidate line.toNat else c

/-- VAULT_REQUEST: the vault controller serves one of its queued requests, the n-th, where R253 lets that one go next; only while the top holds
the bus (R43), within the slots that THR leaves (R256), and with the layers out of self-refresh. -/
def execVaultRequest (t : Fin 4) (v : Fin 104) (n : Fin 128) (s : State) : Host.Outcome State Fault Refusal :=
  s.onLive fun c =>
    let vk := vaultKey t.val v.val
    match (c.queueOf vk)[n.val]? with
    | some q => if Store.get noMark c.mem.bottomBus vk || c.vaultAsleep vk || c.slotsLeft vk == 0 || !(c.vaultNext vk).contains q then c else c.vaultServe vk q
    | none => c

/-! ### DRAM upkeep -/

def zeroRow13 : Nat → BitVec 13 := fun _ => 0

/-- REFRESH: the next row of one bank, whose open row closes (R255); in self-refresh the layers refresh themselves. -/
def execRefresh (t : Fin 4) (v : Fin 104) (layer : Fin 16) (bank : Fin 16) (s : State) : Host.Outcome State Fault Refusal :=
  s.onChip fun c =>
    if !c.hasTower t.val || c.bit (Reg.vaultCtl t.val v.val) 48 || decide (c.part.layers ≤ layer.val) then c
    else
      let k := (vaultKey t.val v.val * 16 + layer.val) * 16 + bank.val
      { c with mem := { c.mem with refreshRow := Store.modify zeroRow13 c.mem.refreshRow k (· + 1), openRow := Store.put zeroNat c.mem.openRow k 0 } }

/-- DELAY_LINE_CHECK: a replica needs the code `needed`; more than 8 steps from the trained one is drift (R254). -/
def execDelayLineCheck (t : Fin 4) (v : Fin 104) (layer : Fin 16) (needed : Byte) (s : State) : Host.Outcome State Fault Refusal :=
  s.onChip fun c =>
    if c.hasTower t.val && c.landingDrift t.val v.val layer.val needed then
      { c with mem := { c.mem with drifted := Store.put noMark c.mem.drifted (vaultKey t.val v.val * 16 + layer.val) true } }
    else c

/-- LANDING_RETRAIN: a drifted landing takes the code it needs (R254). -/
def execLandingRetrain (t : Fin 4) (v : Fin 104) (layer : Fin 16) (needed : Byte) (s : State) : Host.Outcome State Fault Refusal :=
  s.onChip fun c =>
    if Store.get noMark c.mem.drifted (vaultKey t.val v.val * 16 + layer.val) then c.retrainLanding t.val v.val layer.val needed else c

/-! ### Lanes that fail in service (R42, R46, R48, R56) -/

/-- A bad lane of a stair or bridge belongs to a code group of 72 lanes that has more than three: beyond what the code carries (R48, R259). -/
def deadLanes (bad : List Nat) : Bool := bad.any fun l => decide (3 < (bad.filter fun x => x / 72 == l / 72).length)

/-- A direction of a stair, or of a bridge, has failed beyond its spares and the code. -/
def Chip.stairDead (c : Chip) (t h : Nat) : Bool :=
  [false, true].any fun up => deadLanes (Store.get noLanes c.mem.badLanes (1000 + (t * 4 + h) * 2 + b2n up))
def Chip.bridgeDead (c : Chip) (b : Nat) : Bool :=
  [false, true].any fun f => deadLanes (Store.get noLanes c.mem.badLanes (2000 + b * 2 + b2n f))

/-- The circuits of a path stand on the module: its tower is populated, its bridge present (R56). -/
def Chip.hasPath (c : Chip) : LanePath → Bool
  | .vault t _ | .vaultCommand t _ | .vaultStrobe t _ | .vaultToken t _ | .stair t _ _ | .stairStrobe t _ _ | .stairSide t _ => c.hasTower t.val
  | .bridge b _ | .bridgeStrobe b _ | .bridgeSide b => c.part.hasBridge b.val

/-- The tower whose log takes a path's records, and the position they name: that of the vault; 104 and 108 on for stairs and bridges. DESIGN CHOICE: log entry 109. -/
def Chip.pathLog (c : Chip) : LanePath → Nat × Nat
  | .vault t v | .vaultCommand t v | .vaultStrobe t v | .vaultToken t v => (t.val, c.vaultPos (vaultKey t.val v.val))
  | .stair t h _ | .stairStrobe t h _ | .stairSide t h => (t.val, 104 + h.val)
  | .bridge b _ | .bridgeStrobe b _ | .bridgeSide b => (min (bridgeEnds b.val).1 (bridgeEnds b.val).2, 108 + b.val)

/-- Retrain one lane of a path that failed in service, log it, and report a vault's lane that found no spare (R42, R498). -/
def Chip.laneFail (c : Chip) (p : LanePath) (lane : Nat) : Chip :=
  let free := c.spareFree p lane
  let at_ := c.pathLog p
  let c := (c.mapLane p lane).errLog at_.1 (20000 + pathKey p) 0 at_.2 (0, 0, 0) 9 0 [lane / 8 % 72] none
  match p with
  | .vault t v | .vaultCommand t v => if free then c else c.notice 0x020A 1 (t.val * 128 + at_.2) (openDetail 0x020A (vaultKey t.val v.val))
  | _ => c

/-- Answer retry to the requests that `p` picks by who sent them and for which line (R261). -/
def Chip.retryWhere (c : Chip) (p : Requester → Nat → Bool) : Chip :=
  let ans (l : List LineReq) : List LineAns := l.map fun r => ⟨r.tag, 3, 0⟩
  let fills := c.mem.fills.map fun f => { f with waiting := f.waiting.filter fun r => !p r.who f.line }
  { c with mem := { c.mem with
      fills := fills, held := c.mem.held.filter fun h => !p h.2.who h.1
      answers := c.mem.answers ++ (c.mem.fills.flatMap fun f => ans (f.waiting.filter fun r => p r.who f.line))
        ++ ans ((c.mem.held.filter fun h => p h.2.who h.1).map (·.2)) } }

/-! ### Bridges (R55, R259, R260) -/

def noBursts : Nat → List Burst := fun _ => []

/-- The tower that receives on a bridge in a direction, and the one that sends. -/
def bridgeTo (b : Nat) (forward : Bool) : Nat := if forward then (bridgeEnds b).2 else (bridgeEnds b).1
def bridgeFrom (b : Nat) (forward : Bool) : Nat := if forward then (bridgeEnds b).1 else (bridgeEnds b).2

/-- The bridge, with its direction, by which the middle tower passes a burst on: the next one of the ring the same way round. -/
def bridgeOn (b : Nat) (forward : Bool) : Option Nat :=
  let r := bridgeTo b forward
  let next := ringStep (ringStep true (bridgeFrom b forward) == r) r
  (bridgeOf r next).map fun i => i * 2 + b2n (bridgeEnds i == (r, next))

/-- A good burst is taken: into the replay window of 64, and, bound for another tower, onto the next bridge. -/
def Chip.takeBurst (c : Chip) (b : Nat) (forward : Bool) (x : Burst) : Chip :=
  let k := b * 2 + b2n forward
  let win := Store.get noBursts c.mem.bridgeWin k ++ [x]
  let came := Store.get noBursts c.mem.bridgeFwd k
  let fwd := Store.put noBursts c.mem.bridgeFwd k (if came.head? = some x then came.tail else came)
  let fwd := if x.dest.val = bridgeTo b forward then fwd
    else match bridgeOn b forward with
      | some n => if c.part.hasBridge (n / 2) && !Store.get noMark c.mem.bridgeOut (n / 2) then Store.modify noBursts fwd n (· ++ [x]) else fwd
      | none => fwd
  { c with mem := { c.mem with bridgeSeq := Store.modify zeroNat c.mem.bridgeSeq k (· + 1), bridgeReplay := Store.put noMark c.mem.bridgeReplay k false,
                               bridgeWin := Store.put noBursts c.mem.bridgeWin k (win.drop (win.length - 64)), bridgeFwd := fwd } }

/-- BRIDGE_BURST_RECEIVE: a burst whose CRC holds is taken; one whose CRC fails is asked for again (R55). -/
def execBridgeBurstReceive (b : Fin 4) (forward : Bool) (x : Burst) (s : State) : Host.Outcome State Fault Refusal :=
  s.onLive fun c =>
    if !c.part.hasBridge b.val || Store.get noMark c.mem.bridgeOut b.val then c
    else if x.crc = Config.burstCrc x.words then c.takeBurst b.val forward x
    else { c with mem := { c.mem with bridgeReplay := Store.put noMark c.mem.bridgeReplay (b.val * 2 + b2n forward) true } }

/-- The two directions of a bridge have nothing under way. -/
def Chip.bridgeClear (c : Chip) (b : Nat) : Chip :=
  [2 * b, 2 * b + 1].foldl (fun c k =>
    { c with mem := { c.mem with bridgeSeq := Store.put zeroNat c.mem.bridgeSeq k 0, bridgeReplay := Store.put noMark c.mem.bridgeReplay k false,
                                 bridgeWin := Store.put noBursts c.mem.bridgeWin k [], bridgeFwd := Store.put noBursts c.mem.bridgeFwd k [] } }) c

/-- A bridge goes out of service: the requests whose route crosses it return retry, then traffic goes the other way (R259, R260).
DESIGN CHOICE: log entry 106. -/
def Chip.bridgeGone (c : Chip) (b : Nat) : Chip :=
  let c := (c.retryWhere fun w l => c.usesBridge b (reqTower w) l).bridgeClear b
  ({ c with mem := { c.mem with bridgeOut := Store.put noMark c.mem.bridgeOut b true } } : Chip).healthNote 2 1 b

/-- BRIDGE_OUT_OF_SERVICE: a bridge whose failed lanes exceed its spares and the code. In a part without a second path the usher is to fence the
cut-off tower. -/
def execBridgeOutOfService (b : Fin 4) (s : State) : Host.Outcome State Fault Refusal :=
  s.onChip fun c =>
    if !c.part.hasBridge b.val || Store.get noMark c.mem.bridgeOut b.val || !c.bridgeDead b.val then c else c.bridgeGone b.val

/-! ### Stairs (R48) -/

/-- A stair goes out of service: what it carried falls to the others (`Chip.stairFor`). -/
def Chip.stairGone (c : Chip) (t h : Nat) : Chip :=
  let k := t * 4 + h
  ({ c with mem := { c.mem with stairOut := Store.put noMark c.mem.stairOut k true } } : Chip).healthNote 2 0 k

/-- STAIR_OUT_OF_SERVICE: a service stair with more than three failed lanes beyond its spares in a code group of one direction (R48). -/
def execStairOutOfService (t h : Fin 4) (s : State) : Host.Outcome State Fault Refusal :=
  s.onChip fun c =>
    if !c.hasTower t.val || Store.get noMark c.mem.stairOut (t.val * 4 + h.val) || !c.stairDead t.val h.val then c else c.stairGone t.val h.val

/-! ### Self-refresh (R258) -/

/-- SELF_REFRESH_ENTRY of a slice, not in self-refresh already, that writes back all it holds in time. -/
def execSelfRefreshEntry (t : Fin 4) (v : Fin 104) (s : State) : Host.Outcome State Fault Refusal :=
  s.onChip fun c => if c.hasTower t.val && !c.vaultAsleep (vaultKey t.val v.val) then c.selfRefreshEnter t.val v.val none else c

/-- SELF_REFRESH_WRITEBACK_TIMEOUT: only `written` dirty lines were written back in 100 µs. -/
def execSelfRefreshWritebackTimeout (t : Fin 4) (v : Fin 104) (written : Nat) (s : State) : Host.Outcome State Fault Refusal :=
  s.onChip fun c => if c.hasTower t.val && !c.vaultAsleep (vaultKey t.val v.val) then c.selfRefreshEnter t.val v.val (some written) else c

/-- SELF_REFRESH_EXIT: each landing is checked against the code it needs now, lowest layer first. -/
def execSelfRefreshExit (t : Fin 4) (v : Fin 104) (needed : List Byte) (s : State) : Host.Outcome State Fault Refusal :=
  s.onChip fun c => if c.bit (Reg.vaultCtl t.val v.val) 48 then c.selfRefreshLeave t.val v.val needed else c

end Sys2Proof.Machine
end

