-- ==== Sys2Proof/Machine/ChanterCommands.lean ====
section
/-! DEFINITION. The commands of chapter Chanters: Processing at the Vault. -/

namespace Sys2Proof.Machine

/-- Key of a cluster. -/
def clKey (x : ClusterId) : Nat := vaultKey x.tower.val x.vault.val

/-- An instruction at pc of a chanter that runs a job, or that `free` lets run without one. -/
def State.onChanter (s : State) (x : ChanterId) (free : Bool) (f : Chip → Nat → Nat → Chip) : Host.Outcome State Fault Refusal :=
  s.onChip fun c =>
    let k := clKey x.cluster
    if c.chRuns k x.ch.val || (free && c.chIdle k x.ch.val) then f c k x.ch.val else c

/-- A word of the extension at pc of a chanter. -/
def State.onExt (s : State) (x : ChanterId) (op rd f3 rs1 rs2 f7 : Nat) : Host.Outcome State Fault Refusal :=
  s.onChanter x true fun c k i => c.chWord k i (rWord op rd f3 rs1 rs2 f7)

/-- An error that a chanter finds in a word of its SRAM (R323, R487, R498): logged, and past correction marked for what reads the word.
DESIGN CHOICE: log entry 77. -/
def Chip.sramUpset (x : ChanterId) (c : Chip) (u : SramUpset) : Chip :=
  let k := clKey x.cluster
  let c := if u.bad then c.onChanter k x.ch.val fun y => { y with ecc := Store.put noMark y.ecc (u.addr.val / 4 * 4) true } else c
  c.errLog (k / 104) (832 + k * 32 + x.ch.val) 0 (c.vaultPos k) (0, 0, 0) (if u.bad then 7 else 6) 7 []
    (some (.chanter ⟨Fin.ofNat 4 (k / 104), Fin.ofNat 104 (c.clusterPos k)⟩))

/-- CHANTER_INSTRUCTION: the instruction in memory at pc (R322), with the errors that it finds in the SRAM words it reads (R323). Without a job a chanter
executes only before seal, from its boot ROM (R352). DEDUCED: log entry 126. -/
def execChanterInstruction (x : ChanterRun) (s : State) : Host.Outcome State Fault Refusal :=
  s.onChanter x.chanter (!s.chip.isSealed) fun c k i => (x.errs.foldl (Chip.sramUpset x.chanter) c).chInstr k i

/-- LDL Q[rd], (rs1) (R326). -/
def execLdl (x : ChanterId) (rd rs1 : Fin 32) (s : State) : Host.Outcome State Fault Refusal :=
  s.onExt x 0x0B rd.val 0 rs1.val 0 0

/-- LDL_DATA_ARRIVAL: the oldest answered read of a chanter (R326). -/
def execLdlDataArrival (x : ChanterId) (s : State) : Host.Outcome State Fault Refusal :=
  s.onLive fun c => c.readArrive (clKey x.cluster) x.ch.val

/-- STL (rs1), Q[rs2] (R326). -/
def execStl (x : ChanterId) (rs1 rs2 : Fin 32) (s : State) : Host.Outcome State Fault Refusal :=
  s.onExt x 0x0B 0 1 rs1.val rs2.val 0

/-- LINE_OP_RETRY: 1 µs after a retry answer (R326). -/
def execLineOpRetry (x : ChanterId) (s : State) : Host.Outcome State Fault Refusal :=
  s.onLive fun c => c.opRetry (clKey x.cluster) x.ch.val

/-- PCOPY (rs1) to (rs2) (R328). -/
def execPcopy (x : ChanterId) (rs1 rs2 : Fin 32) (s : State) : Host.Outcome State Fault Refusal :=
  s.onExt x 0x0B 0 2 rs1.val rs2.val 0

/-- FENCEL rd: it stays at issue until everything has completed (R327). -/
def execFencel (x : ChanterId) (rd : Fin 32) (s : State) : Host.Outcome State Fault Refusal :=
  s.onExt x 0x0B rd.val 3 0 0 0

/-- JDONE rs1: it stays at issue until everything has completed (R332). -/
def execJdone (x : ChanterId) (rs1 : Fin 32) (s : State) : Host.Outcome State Fault Refusal :=
  s.onExt x 0x0B 0 4 rs1.val 0 0

/-- QSIMD_ADD: add, lane by lane; `w` selects the lanes (R329). -/
def execQsimdAdd (x : ChanterId) (w : Fin 8) (rd rs1 rs2 : Fin 32) (s : State) : Host.Outcome State Fault Refusal :=
  s.onExt x 0x2B rd.val w.val rs1.val rs2.val 0x0

/-- QSIMD_SUB: subtract, lane by lane; `w` selects the lanes (R329). -/
def execQsimdSub (x : ChanterId) (w : Fin 8) (rd rs1 rs2 : Fin 32) (s : State) : Host.Outcome State Fault Refusal :=
  s.onExt x 0x2B rd.val w.val rs1.val rs2.val 0x1

/-- QSIMD_MUL: multiply, low half, lane by lane; `w` selects the lanes (R329). -/
def execQsimdMul (x : ChanterId) (w : Fin 8) (rd rs1 rs2 : Fin 32) (s : State) : Host.Outcome State Fault Refusal :=
  s.onExt x 0x2B rd.val w.val rs1.val rs2.val 0x2

/-- QSIMD_SMIN: signed minimum, lane by lane; `w` selects the lanes (R329). -/
def execQsimdSmin (x : ChanterId) (w : Fin 8) (rd rs1 rs2 : Fin 32) (s : State) : Host.Outcome State Fault Refusal :=
  s.onExt x 0x2B rd.val w.val rs1.val rs2.val 0x3

/-- QSIMD_SMAX: signed maximum, lane by lane; `w` selects the lanes (R329). -/
def execQsimdSmax (x : ChanterId) (w : Fin 8) (rd rs1 rs2 : Fin 32) (s : State) : Host.Outcome State Fault Refusal :=
  s.onExt x 0x2B rd.val w.val rs1.val rs2.val 0x4

/-- QSIMD_UMIN: unsigned minimum, lane by lane; `w` selects the lanes (R329). -/
def execQsimdUmin (x : ChanterId) (w : Fin 8) (rd rs1 rs2 : Fin 32) (s : State) : Host.Outcome State Fault Refusal :=
  s.onExt x 0x2B rd.val w.val rs1.val rs2.val 0x5

/-- QSIMD_UMAX: unsigned maximum, lane by lane; `w` selects the lanes (R329). -/
def execQsimdUmax (x : ChanterId) (w : Fin 8) (rd rs1 rs2 : Fin 32) (s : State) : Host.Outcome State Fault Refusal :=
  s.onExt x 0x2B rd.val w.val rs1.val rs2.val 0x6

/-- QSIMD_AND: AND, lane by lane; `w` selects the lanes (R329). -/
def execQsimdAnd (x : ChanterId) (w : Fin 8) (rd rs1 rs2 : Fin 32) (s : State) : Host.Outcome State Fault Refusal :=
  s.onExt x 0x2B rd.val w.val rs1.val rs2.val 0x7

/-- QSIMD_OR: OR, lane by lane; `w` selects the lanes (R329). -/
def execQsimdOr (x : ChanterId) (w : Fin 8) (rd rs1 rs2 : Fin 32) (s : State) : Host.Outcome State Fault Refusal :=
  s.onExt x 0x2B rd.val w.val rs1.val rs2.val 0x8

/-- QSIMD_XOR: XOR, lane by lane; `w` selects the lanes (R329). -/
def execQsimdXor (x : ChanterId) (w : Fin 8) (rd rs1 rs2 : Fin 32) (s : State) : Host.Outcome State Fault Refusal :=
  s.onExt x 0x2B rd.val w.val rs1.val rs2.val 0x9

/-- QSIMD_SHL: shift left, lane by lane; `w` selects the lanes (R329). -/
def execQsimdShl (x : ChanterId) (w : Fin 8) (rd rs1 rs2 : Fin 32) (s : State) : Host.Outcome State Fault Refusal :=
  s.onExt x 0x2B rd.val w.val rs1.val rs2.val 0xa

/-- QSIMD_SHR: logical shift right, lane by lane; `w` selects the lanes (R329). -/
def execQsimdShr (x : ChanterId) (w : Fin 8) (rd rs1 rs2 : Fin 32) (s : State) : Host.Outcome State Fault Refusal :=
  s.onExt x 0x2B rd.val w.val rs1.val rs2.val 0xb

/-- QSIMD_SAR: arithmetic shift right, lane by lane; `w` selects the lanes (R329). -/
def execQsimdSar (x : ChanterId) (w : Fin 8) (rd rs1 rs2 : Fin 32) (s : State) : Host.Outcome State Fault Refusal :=
  s.onExt x 0x2B rd.val w.val rs1.val rs2.val 0xc

/-- QSIMD_EQ: equality, lane by lane; `w` selects the lanes (R329). -/
def execQsimdEq (x : ChanterId) (w : Fin 8) (rd rs1 rs2 : Fin 32) (s : State) : Host.Outcome State Fault Refusal :=
  s.onExt x 0x2B rd.val w.val rs1.val rs2.val 0xd

/-- QSIMD_PERMUTE: byte permute (R329). -/
def execQsimdPermute (x : ChanterId) (rd rs1 rs2 : Fin 32) (s : State) : Host.Outcome State Fault Refusal :=
  s.onExt x 0x2B rd.val 0 rs1.val rs2.val 0x20

/-- QSIMD_FADD: FP32 add (R329). -/
def execQsimdFadd (x : ChanterId) (rd rs1 rs2 : Fin 32) (s : State) : Host.Outcome State Fault Refusal :=
  s.onExt x 0x2B rd.val 3 rs1.val rs2.val 0x10

/-- QSIMD_FMUL: FP32 multiply (R329). -/
def execQsimdFmul (x : ChanterId) (rd rs1 rs2 : Fin 32) (s : State) : Host.Outcome State Fault Refusal :=
  s.onExt x 0x2B rd.val 3 rs1.val rs2.val 0x11

/-- QSIMD_FMA: FP32 fused multiply-add (R329). -/
def execQsimdFma (x : ChanterId) (rd rs1 rs2 : Fin 32) (s : State) : Host.Outcome State Fault Refusal :=
  s.onExt x 0x2B rd.val 3 rs1.val rs2.val 0x12

/-- QSIMD_FMAX: FP32 maximumNumber (R329). -/
def execQsimdFmax (x : ChanterId) (rd rs1 rs2 : Fin 32) (s : State) : Host.Outcome State Fault Refusal :=
  s.onExt x 0x2B rd.val 3 rs1.val rs2.val 0x13

/-- QINS: a scalar register into a lane (R329). -/
def execQins (x : ChanterId) (lane : Fin 4) (rd rs1 : Fin 32) (s : State) : Host.Outcome State Fault Refusal :=
  s.onExt x 0x5B rd.val 0 rs1.val 0 lane.val

/-- QEXT: a lane into a scalar register (R329). -/
def execQext (x : ChanterId) (lane : Fin 4) (rd rs1 : Fin 32) (s : State) : Host.Outcome State Fault Refusal :=
  s.onExt x 0x5B rd.val 1 rs1.val 0 lane.val

/-- QCVT: a block of 32 elements (R330). -/
def execQcvt (x : ChanterId) (rd rs1 rs2 : Fin 32) (s : State) : Host.Outcome State Fault Refusal :=
  s.onExt x 0x5B rd.val 2 rs1.val rs2.val 0

/-- QCRC: CRC-32C of a Q register (R331). -/
def execQcrc (x : ChanterId) (rd rs1 rs2 : Fin 32) (s : State) : Host.Outcome State Fault Refusal :=
  s.onExt x 0x5B rd.val 3 rs1.val rs2.val 0

/-- QPGEN: a Philox pattern (R331). -/
def execQpgen (x : ChanterId) (rd rs1 rs2 : Fin 32) (s : State) : Host.Outcome State Fault Refusal :=
  s.onExt x 0x5B rd.val 4 rs1.val rs2.val 0

/-- JOB_ENQUEUE: a write of JOBIN word 7 (R343). -/
def execJobEnqueue (x : ClusterId) (w7 : DWord) (s : State) : Host.Outcome State Fault Refusal :=
  s.onLive fun c => c.enqueueJob (clKey x) w7

/-- JOB_START: the dispatcher takes the record at the head of its queue (R343, R344). -/
def execJobStart (x : ClusterId) (s : State) : Host.Outcome State Fault Refusal :=
  s.onLive fun c => (c.jobStart (clKey x)).sendWorks

/-- RANGES_DECLARED: the ranges of a chanter's job stand declared at every vault (R336, R337). -/
def execRangesDeclared (x : ChanterId) (s : State) : Host.Outcome State Fault Refusal :=
  s.onLive fun c => c.rangesDeclared (clKey x.cluster) x.ch.val

/-- JOB_CANCEL: a write of CANCEL (R346). -/
def execJobCancel (x : ClusterId) (jobid : Word) (s : State) : Host.Outcome State Fault Refusal :=
  s.onLive fun c => c.jobCancel (clKey x) jobid.toNat

/-- BOTTOM_BURST of at most n lines on a vault's bus (R333, R334). -/
def execBottomBurst (x : ClusterId) (n : Fin 65) (s : State) : Host.Outcome State Fault Refusal :=
  s.onLive fun c => c.bottomBurst (clKey x) n.val

/-- TOKEN_HANDOFF at a boundary of a vault's bus (R333). -/
def execTokenHandoff (x : ClusterId) (s : State) : Host.Outcome State Fault Refusal :=
  s.onLive fun c => c.tokenHandoff (clKey x)

/-- HELD_READ_RELEASE: the oldest read that a slice holds for a burst (R339). -/
def execHeldReadRelease (x : ClusterId) (s : State) : Host.Outcome State Fault Refusal := s.onLive fun c => c.heldRelease (clKey x)

/-- LANE_FAIL_RETRAIN: a lane that failed in service is retrained alone onto a free spare; with none it stays on the code (R42, R498). A token via gives the
bus to the top first (R43). A lane that its path does not have changes nothing. -/
def execLaneFailRetrain (p : LanePath) (lane : Fin 4608) (s : State) : Host.Outcome State Fault Refusal :=
  s.onChip fun c =>
    if !c.hasPath p || decide (p.lanes ≤ lane.val) then c
    else
      let c := match p with | .vaultToken t v => c.tokenSplit (vaultKey t.val v.val) | _ => c
      c.laneFail p lane.val

/-- PATROL_PASS over a vault (R351): not with PATROL = 0, nor in self-refresh. The pass is a job: it is issued, and once it runs it goes on to the next line that
it reports, or to its end. DEDUCED: log entry 83. -/
def execPatrolPass (x : ClusterId) (s : State) : Host.Outcome State Fault Refusal :=
  s.onLive fun c =>
    if c.rdF (Reg.chcCtl x.tower.val x.vault.val) 16 8 = 0 ∨ c.bit (Reg.vaultCtl x.tower.val x.vault.val) 48 then c
    else c.patrolPass (clKey x)

end Sys2Proof.Machine
end

