-- ==== Sys2Proof/Machine/Pcie.lean ====
section
/-! DEFINITION. The PCIe function beside BAR0 and BAR2: its configuration space (R398, R568), and the MSI-X table and pending bits of BAR4 (R401, R411).
PRESUMED: log entry 130: where a field lies in them, and what it resets to, is the PCI Express Base Specification's, which R398 names. -/

namespace Sys2Proof.Machine

/-! ### Configuration space -/

/-- MOD.ID (Table 20-12). -/
def Chip.idWord (c : Chip) : Nat := 0x1D7A + c.part.device * 2 ^ 16 + 0x20 * 2 ^ 32

/-- The code of a link rate in GT/s: 1 for 2.5, up to 6 for 64. -/
def rateCode (r : Nat) : Nat := match r with | 5 => 2 | 8 => 3 | 16 => 4 | 32 => 5 | 64 => 6 | _ => 1

/-- The read-only bits of the dword at a configuration offset: the identity of MOD.ID and class code 0x12_0000, the BARs' types, and the capabilities of Table 14-1:
power management, PCI Express, MSI-X, and, above 0x100, AER and 14-bit tags. -/
def Chip.cfgFixed (c : Chip) (o : Nat) : Nat :=
  match o with
  | 0x00 => field c.idWord 0 32
  | 0x04 => 2 ^ 20
  | 0x08 => field c.idWord 32 8 + 0x120000 * 2 ^ 8
  | 0x10 => 0x4
  | 0x18 => 0xC
  | 0x20 => 0x4
  | 0x34 => 0x40
  | 0x40 => 0x34801
  | 0x44 => 8
  | 0x48 => 0x29010
  | 0x4C => 2 + 2 ^ 5 + 2 ^ 15 + 2 ^ 28
  | 0x54 => 6 + 16 * 2 ^ 4 + 2 * 2 ^ 10
  | 0x58 => (rateCode c.host.pcie.2 + c.host.pcie.1 * 2 ^ 4) * 2 ^ 16
  | 0x6C => 2 ^ 16 + 2 ^ 17
  | 0x74 => 0x7E
  | 0x90 => 0x11 + 2047 * 2 ^ 16
  | 0x94 => 0x800004
  | 0x98 => 0x810004
  | 0x100 => 0x20001 + 0x150 * 2 ^ 20
  | 0x104 => b2n c.host.aerPoison * 2 ^ 12 + b2n c.host.aerInternal * 2 ^ 22
  | 0x118 => 2 ^ 5 + 2 ^ 7
  | 0x150 => 0x1002F
  | 0x154 => 6
  | _ => 0

/-- The bits of the dword at a configuration offset that a write sets. -/
def cfgMask (o : Nat) : Nat :=
  match o with
  | 0x04 => 0x146
  | 0x10 => 0xFC000000
  | 0x14 => 0xFFFFFFFF
  | 0x1C => 0xFFFFFFF0
  | 0x20 => 0xFF000000
  | 0x24 => 0xFFFFFFFF
  | 0x3C => 0xFF
  | 0x44 => 3
  | 0x50 => 0x79FF
  | 0x58 => 0xC2
  | 0x70 => 0x1000
  | 0x78 => 0xF
  | 0x90 => 0xC0000000
  | 0x108 => 0x5FF030
  | 0x10C => 0x5FF030
  | 0x118 => 0x140
  | 0x158 => 2
  | _ => 0

/-- What those bits are after a reset; an uncorrectable internal error is non-fatal (R405). -/
def cfgReset : Nat → Word := fun o =>
  match o with
  | 0x50 => 0x2810
  | 0x78 => 6
  | 0x10C => 0x62030
  | _ => 0

/-- The dword at a configuration offset. -/
def Chip.cfgRead (c : Chip) (o : Nat) : Nat := c.cfgFixed o + (Store.get cfgReset c.host.cfg o).toNat

/-! ### MSI-X (R401, R411) -/

/-- A dword of the MSI-X table after a reset: every vector masked. -/
def msixReset : Nat → Word := fun n => if n % 4 = 3 then 1 else 0

/-- MSI-X is enabled, and neither the function nor the vector is masked. -/
def Chip.msixOpen (c : Chip) (v : Nat) : Bool :=
  (c.cfgRead 0x90) / 2 ^ 30 == 2 && (Store.get msixReset c.host.msix (4 * v + 3)) == 0

/-- A vector is raised: its message is sent, or its pending bit set where it may not be sent. -/
def Chip.msi (c : Chip) (v : Nat) : Chip :=
  if c.msixOpen v then { c with host := { c.host with interrupts := c.host.interrupts ++ [BitVec.ofNat 11 v] } }
  else { c with host := { c.host with pba := Store.put zeroNat c.host.pba v 1 } }

/-- The pending messages that may now be sent are sent. -/
def Chip.msiFlush (c : Chip) : Chip :=
  (c.host.pba.map (·.1)).foldl (fun c v =>
    if c.msixOpen v then Chip.msi { c with host := { c.host with pba := Store.put zeroNat c.host.pba v 0 } } v else c) c

/-- The dword at an offset of BAR4 (Table 14-4): of the MSI-X table, or of the pending bits; zero elsewhere. -/
def Chip.bar4Read (c : Chip) (o : Nat) : Nat :=
  if 0x800000 ≤ o ∧ o < 0x808000 then (Store.get msixReset c.host.msix ((o - 0x800000) / 4)).toNat
  else if 0x810000 ≤ o ∧ o < 0x810100 then
    (List.range 32).foldl (fun n b => n + Store.get zeroNat c.host.pba ((o - 0x810000) * 8 + b) * 2 ^ b) 0
  else 0

/-- A write of the dword at an offset of BAR4 that no doorbell has. -/
def Chip.bar4Write (c : Chip) (o v : Nat) : Chip :=
  if 0x800000 ≤ o ∧ o < 0x808000 then
    let n := (o - 0x800000) / 4
    let v := if n % 4 = 0 then v / 4 * 4 else if n % 4 = 3 then v % 2 else v
    Chip.msiFlush { c with host := { c.host with msix := Store.put msixReset c.host.msix n (BitVec.ofNat 32 v) } }
  else c

/-- A write of the dword at a configuration offset: its writable bits, and the AER status bits that a 1 clears. -/
def Chip.cfgPut (c : Chip) (o v : Nat) : Chip :=
  if o = 0x104 then { c with host := { c.host with aerPoison := c.host.aerPoison && !bitOf v 12, aerInternal := c.host.aerInternal && !bitOf v 22 } }
  else Chip.msiFlush { c with host := { c.host with cfg := Store.put cfgReset c.host.cfg o (BitVec.ofNat 32 (v &&& cfgMask o)) } }

end Sys2Proof.Machine
end

