-- ==== Sys2Proof/Machine/SessionCommands.lean ====
section
/-! DEFINITION. The commands of ticket life that the usher carries out of itself (R365, R377 to R381, R387 to R395). -/

namespace Sys2Proof.Machine

/-- The usher acts on a live ticket, and the commands that waited for it are asked again (R366). -/
def State.onTicket (s : State) (w : Word) (f : Chip → Nat → Chip) : Host.Outcome State Fault Refusal :=
  s.onUsher fun c => match c.liveIdx w with | some i => (f (c.mend i) i).settle | none => c

/-- The image of a ticket's model. -/
def Chip.tkImage (c : Chip) (i : Nat) : List Byte := (c.model (c.tkModel i)).image

/-- TICKET_BOUND (R365, R375, R376): an ADMITTED ticket gets its root, where ADMIT found no frame for it, and the pages of its first position, and becomes RUNNABLE or PREFILL_PENDING; it waits where
frames lack (R388). A PARK in PARKQ takes effect on a RUNNABLE ticket after it. -/
def execTicketBound (w : Word) (s : State) : Host.Outcome State Fault Refusal :=
  s.onTicket w fun c i =>
    if c.tkState i ≠ 1 then c
    else
      match (if c.tkRoot i ≠ 0 then some (c, c.tkRoot i) else c.newRoot (c.tkImage i) 0) with
      | none => c.lacking
      | some (d, root) =>
        match (d.tkPut i 0x20 8 root).readyPos i 0 with
        | none => c.lacking
        | some d => d.setState i (if d.tkNtok i = 1 then 3 else 2) 0

/-- A PARK that stands in PARKQ takes effect (R384, Table 13-4); otherwise the module is `d`. -/
def Chip.parkQueued (c : Chip) (i : Nat) (d : Chip) : Chip :=
  match (if c.tkFlag i 6 then c.waitingCmd (c.tkWord i) 4 else none) with
  | some m => (c.cmdTaken m).parkFor i 7 0 (some m.ans)
  | none => d

/-- PREFILL_DONE (R365, R276, R384): the prompt is prefilled and the ticket settled; it becomes RUNNABLE, or parks where a PARK stands in PARKQ. -/
def execPrefillDone (w : Word) (s : State) : Host.Outcome State Fault Refusal :=
  s.onTicket w fun c i =>
    if c.tkState i ≠ 2 ∨ c.npos i + 1 ≠ c.tkNtok i ∨ !c.tkFlag i 4 ∨ c.inFlight w then c
    else c.parkQueued i (c.setState i 3 0)

/-- RUNNING tickets. -/
def Chip.running (c : Chip) : List Nat := c.liveTickets.filter fun i => c.tkState i == 4

/-- The current decode plan: PIPE and the limit of the running set (R377). -/
def Chip.runLimit (c : Chip) : Option (Nat × Nat) :=
  match c.ush.sel with
  | none => none
  | some s => (imPlan (c.model s.midx).image s.dplan).map fun p => (plPipe p, min 16384 (plPipe p * plMaxRows p))

/-- The settled RUNNABLE ticket of the selected model that comes next: highest PRIO, then longest in RUNNABLE (R377, R419). -/
def Chip.nextRunnable (c : Chip) : Option Nat :=
  (c.byAge (c.liveTickets.filter fun i => c.tkState i == 3 && c.tkFlag i 4
    && (match c.ush.sel with | some s => s.midx == c.tkModel i | none => false))).head?

/-- RUNNING_SET_ADMIT (R377): the next ticket takes a place in the running set, with a residue of the usher's choice. -/
def execRunningSetAdmit (residue : Nat) (s : State) : Host.Outcome State Fault Refusal :=
  s.onUsher fun c =>
    match c.runLimit, c.nextRunnable with
    | some (pipe, limit), some i =>
      if c.running.length < limit ∧ residue < pipe then
        ((c.setState i 4 0).setAux i fun x => { x with residue := residue, ran := 0 }).settle
      else c
    | _, _ => c

/-- ROW_TABLE_FORM (R378, R303, R483): the next row table of the plan that runs, and its step's mailboxes. `lags` says by how many steps a logical gallery
(tower · 96 + number) takes the table later (R303). -/
def execRowTableForm (lags : List (Fin 384 × Nat)) (s : State) : Host.Outcome State Fault Refusal :=
  s.onUsher fun c =>
    match c.ush.plan with
    | none => c
    | some pl =>
      let p := c.planSect pl
      if c.mayForm p then (c.formTable pl.1 pl.2 p c.ush.batch (lags.map fun x => (x.1.val, x.2))).settle else c

/-- PRIORITY_PREEMPTION (R379): the running set is full and a settled RUNNABLE ticket stands above it; the one of lowest PRIO that has taken MINRUN rows and is
longest in RUNNING leaves at its table boundary. -/
def execPriorityPreemption (s : State) : Host.Outcome State Fault Refusal :=
  s.onUsher fun c =>
    match c.runLimit, c.nextRunnable with
    | some (_, limit), some i =>
      let run := c.running
      if run.length < limit ∨ !run.any (fun j => decide (c.tkPrio j < c.tkPrio i)) then c
      else
        let low := run.foldl (fun n j => min n (c.tkPrio j)) 7
        match c.byAge (run.filter fun j => c.tkPrio j == low && decide (low < c.tkPrio i ∧ c.rdF Reg.clkcfg 48 16 ≤ (c.aux j).ran)) with
        | [] => c
        | j :: _ => ((c.setAux j fun x => { x with preempt := true }).boundary j).settle
    | _, _ => c

/-- TICKET_ENERGY_SHARE (R381): the step of a row table is closed in every gallery of the plan. -/
def execTicketEnergyShare (batch : Nat) (s : State) : Host.Outcome State Fault Refusal :=
  s.onUsher fun c => c.shareEnergy batch

/-! ### Demotion (R387) -/

/-- DEMOTION_START: not of a ticket whose pages a changeover moves (R341). -/
def execDemotionStart (w : Word) (s : State) : Host.Outcome State Fault Refusal :=
  s.onTicket w fun c i => if (c.rehangOf w).isSome then c else c.demoteStart i

/-- DEMOTION_END: `failed` names the jobs that end with a double trap, by their place in the demotion. -/
def execDemotionEnd (w : Word) (failed : List Nat) (s : State) : Host.Outcome State Fault Refusal :=
  s.onTicket w fun c i => c.demoteEnd i failed

/-! ### Spill and recall (R388 to R391) -/

/-- KV frames of a tower: those of its pool. -/
def Chip.poolFrames (c : Chip) (t : Nat) : Nat := ((List.range (2 ^ 17)).filter fun f => c.inPool (t * 2 ^ 17 + f)).length

/-- Free KV frames of a tower below a percentage of its pool. -/
def Chip.framesBelow (c : Chip) (t pct : Nat) : Bool := decide (c.rdF (Reg.kvfree t) 0 24 * 100 < pct * c.poolFrames t)

/-- USHER_SPILL_POLICY (R388, R380, R376, R392): a tower's free frames are below SPLOW, or have not reached SPHIGH since they were, or what the usher would
allocate lacks frames. One ticket is spilled at a time. -/
def execUsherSpillPolicy (s : State) : Host.Outcome State Fault Refusal :=
  s.onUsher fun c =>
    let low := c.towers.any fun t => c.framesBelow t (c.rdF Reg.clkcfg 32 7)
    let high := c.towers.all fun t => !c.framesBelow t (c.rdF Reg.clkcfg 40 7)
    let on := low || (c.ush.spilling && !high)
    let c := c.onUsh fun u => { u with spilling := on }
    if !(on || c.ush.lack) ∨ c.liveTickets.any (fun i => c.tkFlag i 1 && (c.aux i).spillAns.isEmpty) then c
    else match c.spillNext with | some (i, t) => c.spillStart i t none | none => c

/-- SPILL_COMMIT (R390): once its jobs have ended a spill goes on, to its commit where the image stands at its target: a host's range, or a peer's annex that has taken
every PUT. It waits while a FORK copies the ticket, or a changeover its pages. -/
def execSpillCommit (w : Word) (s : State) : Host.Outcome State Fault Refusal :=
  s.onTicket w fun c i =>
    let x := c.aux i
    let mid := c.modelId (c.tkModel i)
    if !c.tkFlag i 1 ∨ (c.tkState i ≠ 5 ∧ c.tkState i ≠ 6) ∨ c.forkSource w ∨ (c.rehangOf w).isSome then c
    else
      match x.pack, x.spill, x.annex with
      | none, _, _ => c.spillStage i mid
      | some _, none, _ => c
      | some _, some (.peer _), none => c
      | some k, some _, _ =>
        match c.worksEnd (Work.is (.spill i)) [] with
        | none => c
        | some (c, false) => c.worksAgain (Work.is (.spill i))
        | some (c, true) => c.spillOn i mid (c.tkImage i) k

/-- The image that a recall has brought; none where pieces of it are still to come. -/
def Chip.recallImage (c : Chip) (i : Nat) : Option (List Byte) :=
  let sp := c.tk i 0x30 8
  let n := (c.aux i).imgLen
  if field sp 0 2 = 1 then some (Memory.bytes c.hostMem (field sp 6 58 * 64) n)
  else
    joinPieces n ((c.lk.pieces.filter fun p => p.1 == i).map (·.2))

/-- RECALL_COMMIT (R391): a recall that waited for frames begins; one whose image has come and passes its checks goes on as its jobs end, to its commit: the ticket is
resident again. -/
def execRecallCommit (w : Word) (s : State) : Host.Outcome State Fault Refusal :=
  s.onTicket w fun c i =>
    if !c.tkFlag i 2 ∨ c.tkState i ≠ 7 then c
    else if (c.aux i).recallAt = 0 then c.recallBegin i (c.tkImage i)
    else
      match c.recallImage i with
      | none => c
      | some img =>
        if !c.imageOk i (c.modelId (c.tkModel i)) img then c
        else
          match c.worksEnd (Work.is (.recall i)) [] with
          | none => c
          | some (c, false) => c.worksAgain (Work.is (.recall i))
          | some (c, true) => c.recallOn i (c.tkImage i) img

/-- Positions of a ticket with a failed recall that lie outside its remote chunks: every page index below NPOS, but for chunks that every tower with heads holds at a peer. -/
def Chip.recallLost (c : Chip) (i : Nat) : List Nat :=
  let x := c.aux i
  let im := c.tkImage i
  let heads := c.towers.filter fun t => headsOf im c.nTow t != 0
  (List.range ((x.npos + 127) / 128)).filter fun k => !heads.all fun t => x.rem.any fun e => e.1 == t && e.2.1 == k / 64

/-- RECALL_FAIL (R391): the image fails a check, its target answered with an error (`err` says so of host memory), or not within 50 ms; what the image says is lost and the
ticket recovers towards the state that its commit would have given it. -/
def execRecallFail (w : Word) (err : Bool) (s : State) : Host.Outcome State Fault Refusal :=
  s.onTicket w fun c i =>
    if !c.tkFlag i 2 ∨ c.tkState i ≠ 7 then c
    else
      let img := c.recallImage i
      let bad := match img with | some b => !c.imageOk i (c.modelId (c.tkModel i)) b | none => false
      let late := img.isNone && decide ((c.aux i).recallAt ≠ 0 ∧ (c.aux i).recallAt.toNat + 49999999 ≤ c.act.toNat)
      if !bad && !late && !(c.aux i).recallBad && !(err && field (c.tk i 0x30 8) 0 2 == 1) then c
      else
        let sp := c.tk i 0x30 8
        let lost := c.recallLost i
        let rst := c.recallState i
        let area := (c.aux i).area
        let c := c.recallDrop i
        let c := if field sp 0 2 = 2 then c.closeAnnex (field sp 8 8) (BitVec.ofNat 32 (field sp 16 32)) else c.freeArea area
        let c := (c.tkPut i 0x30 8 0).setAux i fun x => { x with area := none }
        (c.healthNote 1 2 w.toNat).recoverFor i rst (c.tkImage i) lost

/-! ### FORK, recovery, release -/

/-- Every full page of a ticket is demoted. -/
def Chip.allDemoted (c : Chip) (i : Nat) : Bool :=
  (c.pagesOf (c.tkRoot i)).all fun e => field e.2.2 40 4 == 8 || decide (c.npos i < (e.1.k * 64 + e.1.page + 1) * 128)

/-- FORK_TABLES_COPIED (R385): once its copies are done the new ticket stands in DEMOTED or TOOL_WAIT, and the FORK completes. -/
def execForkTablesCopied (w : Word) (s : State) : Host.Outcome State Fault Refusal :=
  s.onTicket w fun c i =>
    match (c.aux i).fork with
    | none => c
    | some (_, m) =>
      let a := m.ans
      match (if c.tkState i = 8 then c.worksEnd (Work.is (.fork i)) [] else none) with
      | none => c
      | some (c, false) => c.worksAgain (Work.is (.fork i))
      | some (c, true) =>
        let c := (c.forkPages (c.tkRoot i) ((c.worksOf (Work.is (.fork i))).flatMap fun w => w.items)).worksGone (Work.is (.fork i))
        let st := if c.tkFlag i 3 && c.allDemoted i then 6 else 5
        ((c.setState i st a.seq).setAux i fun x => { x with fork := none }).doneTicket i a 0 []

/-- The table lines of a root: each with the page indices that it names. -/
def Chip.tableLines (c : Chip) (root : Nat) : List (Nat × List Nat) :=
  let pages (k : Nat) : List Nat := (List.range 64).map fun p => 64 * k + p
  (List.range 4).foldl (fun l t =>
    if c.rootHt root t = 0 then l
    else
      let d := field (c.tdir root t) 0 40
      let l := (List.range 8).foldl (fun l n => l ++ [(d / 64 + n, (List.range 8).foldl (fun l k => l ++ pages (8 * n + k)) [])]) l
      (List.range 64).foldl (fun l k =>
        let b := c.cblk root t k
        if bitOf b 63 ∨ field b 0 40 = 0 then l
        else l ++ (List.range (c.rootLayers root * c.rootHt root t * 16)).map fun n =>
          (field b 0 40 / 64 + n, (List.range 8).map fun p => 64 * k + n % 8 * 8 + p)) l) [(root / 64, (List.range 64).foldl (fun l k => l ++ pages k) [])]

/-- The page indices that uncorrectable lines of a ticket's tables and pages cost it (R392 step 2). -/
def Chip.lostIndices (c : Chip) (i : Nat) : List Nat :=
  let root := c.tkRoot i
  let n := (c.npos i + 127) / 128
  let tab := (c.tableLines root).foldl (fun l e => if c.linePoisoned e.1 then l ++ e.2 else l) []
  let pg := (c.pagesOf root).foldl (fun l e =>
    if c.memPoisoned (field e.2.2 0 40) (pageBytes (field e.2.2 40 4)) then l ++ [e.1.k * 64 + e.1.page] else l) []
  (List.range n).filter fun k => tab.contains k || pg.contains k

/-- RECOVERY_START (R392, R32, R370): a KV page or a page-table line of a resident ticket reads uncorrectable. The usher writes the lost table lines anew. A ticket whose
pages a changeover moves comes after its flip. -/
def execRecoveryStart (w : Word) (s : State) : Host.Outcome State Fault Refusal :=
  s.onTicket w fun c i =>
    let st := c.tkState i
    if c.tkRoot i = 0 ∨ st = 7 ∨ st = 10 ∨ (c.rehangOf w).isSome then c
    else
      let idx := c.lostIndices i
      if idx.isEmpty then c
      else
        let c := (c.tableLines (c.tkRoot i)).foldl (fun c e => if Chip.linePoisoned c e.1 then c.memWrite (64 * e.1) (c.memBytes (64 * e.1) 64) else c) c
        c.recoverStart i (c.tkImage i) idx

/-- RECOVERY_DONE (R392): no position is lost any more; the ticket returns to RSTATE, with a NOTICE, which is journalled. A PARK in PARKQ takes effect. -/
def execRecoveryDone (w : Word) (s : State) : Host.Outcome State Fault Refusal :=
  s.onTicket w fun c i =>
    let x := c.aux i
    if c.tkState i ≠ 9 ∨ !x.lost.isEmpty ∨ !x.fresh.isEmpty ∨ c.inFlight w then c
    else
      let rst := c.tkRstate i
      let c := (c.setStateWith i rst 0 (putRstate 0)).healthNote 1 3 w.toNat
      if rst = 3 then c.parkQueued i c else c

/-- Both copies of a line of the ticket's descriptor, directory, log or stop set are unreadable (R394). -/
def Chip.tkUnreadable (c : Chip) (i : Nat) : Bool :=
  let both (a b n : Nat) : Bool := (List.range ((n + 63) / 64)).any fun k => c.linePoisoned (a / 64 + k) && c.linePoisoned (b / 64 + k)
  let n := c.tk i 0xE 2
  both (c.tkAddr 0 i) (c.tkAddr 1 i) 128 || both (c.tk i 0x60 5) (c.tk i 0x68 5) 512
    || ((List.range 32).any fun s => decide (16384 * s < c.tkNtok i) && both (c.segAddr i 0 (16384 * s)) (c.segAddr i 1 (16384 * s)) (4 * min 16384 (c.tkNtok i - 16384 * s)))
    || (n != 0xFFFF && both (c.stopAddr 0 n) (c.stopAddr 1 n) 384)

/-- TICKET_LOST (R394): DONE LOST, and the ticket stands in RETIRING. -/
def execTicketLost (w : Word) (s : State) : Host.Outcome State Fault Refusal :=
  s.onTicket w fun c i => if c.tkState i = 10 ∨ !c.tkUnreadable i then c else ((c.flushRunning i).postDone i 10 0 none).retire i []

/-- RELEASE_COMPLETE (R395): what a RETIRING ticket held is freed. -/
def execReleaseComplete (w : Word) (s : State) : Host.Outcome State Fault Refusal :=
  s.onTicket w fun c i => if c.tkState i = 10 ∧ !c.inFlight w then c.releaseDone i else c

end Sys2Proof.Machine
end

