-- ==== Sys2Proof/Machine/HostCommands.lean ====
section
/-! DEFINITION. The commands of the host interface (chapter Host Interface and Command Protocol): the host commands, doorbells, rings, completions,
resync and the aperture. -/

namespace Sys2Proof.Machine

/-! ### Commands of the protocol (R415) -/

/-- The command at the head of SQ q is taken when it has an opcode, and what may take effect does. A command with a reserved opcode is no row's own: any may take
it, and it is rejected. `good` says that its payload came without a DMA error or poison. -/
def State.takeHost (s : State) (q : Fin 256) (good : Bool) (ok : Line → Bool) : Host.Outcome State Fault Refusal :=
  s.onUsher fun c => (c.takeCmd q.val (fun e => ok e || !opcKnown (entryOpc e)) good).settle

/-- A command of an opcode. -/
def isOpc (n : Nat) (e : Line) : Bool := entryOpc e == n

/-- ADMIT (R374). -/
def execAdmit (sq : Fin 256) (good : Bool) (s : State) : Host.Outcome State Fault Refusal := s.takeHost sq good (isOpc 1)

/-- FEED (R382). -/
def execFeed (sq : Fin 256) (good : Bool) (s : State) : Host.Outcome State Fault Refusal := s.takeHost sq good (isOpc 2)

/-- RUN (R383). -/
def execRun (sq : Fin 256) (good : Bool) (s : State) : Host.Outcome State Fault Refusal := s.takeHost sq good (isOpc 3)

/-- PARK (R384). -/
def execPark (sq : Fin 256) (s : State) : Host.Outcome State Fault Refusal := s.takeHost sq true (isOpc 4)

/-- FORK (R385). -/
def execFork (sq : Fin 256) (good : Bool) (s : State) : Host.Outcome State Fault Refusal := s.takeHost sq good (isOpc 5)

/-- RELEASE (R395). -/
def execRelease (sq : Fin 256) (s : State) : Host.Outcome State Fault Refusal := s.takeHost sq true (isOpc 6)

/-- SPILL (R418). -/
def execSpill (sq : Fin 256) (s : State) : Host.Outcome State Fault Refusal := s.takeHost sq true (isOpc 7)

/-- RECALL (R391). -/
def execRecall (sq : Fin 256) (s : State) : Host.Outcome State Fault Refusal := s.takeHost sq true (isOpc 8)

/-- QUERY (R421). -/
def execQuery (sq : Fin 256) (good : Bool) (s : State) : Host.Outcome State Fault Refusal := s.takeHost sq good (isOpc 9)

/-- MODEL_LOAD of a model (R420). -/
def execModelLoad (sq : Fin 256) (good : Bool) (s : State) : Host.Outcome State Fault Refusal :=
  s.takeHost sq good fun e => isOpc 0x10 e && !bitOf (entryN e 26 1) 0 && entryN e 25 1 == 0

/-- MODEL_LOAD of an adapter (R420). -/
def execAdapterLoad (sq : Fin 256) (good : Bool) (s : State) : Host.Outcome State Fault Refusal :=
  s.takeHost sq good fun e => isOpc 0x10 e && !bitOf (entryN e 26 1) 0 && entryN e 25 1 != 0

/-- MODEL_LOAD with UNLOAD = 1 (R420). -/
def execModelUnload (sq : Fin 256) (s : State) : Host.Outcome State Fault Refusal :=
  s.takeHost sq true fun e => isOpc 0x10 e && bitOf (entryN e 26 1) 0

/-- PLAN_SELECT (R419). -/
def execPlanSelect (sq : Fin 256) (good : Bool) (s : State) : Host.Outcome State Fault Refusal := s.takeHost sq good (isOpc 0x11)

/-- BUDGET_SET (R481). -/
def execBudgetSet (sq : Fin 256) (s : State) : Host.Outcome State Fault Refusal := s.takeHost sq true (isOpc 0x12)

/-- NEGOTIATE (R424). -/
def execNegotiate (sq : Fin 256) (good : Bool) (s : State) : Host.Outcome State Fault Refusal := s.takeHost sq good (isOpc 0x13)

/-- JOURNAL_READ (R429). -/
def execJournalRead (sq : Fin 256) (good : Bool) (s : State) : Host.Outcome State Fault Refusal := s.takeHost sq good (isOpc 0x14)

/-! ### The aperture and the doorbells (R402 to R405, R407, R409) -/

/-- The memory path serves the aperture: the module is sealed or has passed bring-up step 4 (Table 14-3). -/
def Chip.bar2Open (c : Chip) : Bool :=
  c.isSealed || decide (4 < c.rdF Reg.bringStatus 0 3) || (c.rdF Reg.bringStatus 0 3 == 4 && c.rdF Reg.bringStatus 3 2 == 2)

/-- Record a BAR2 error in HIF.APERR: its module address and its kind (Table 14-17). -/
def Chip.aperr (c : Chip) (line kind : Nat) : Chip := c.wr Reg.aperr (line * 64 + kind * 2 ^ 40 + 2 ^ 63)

/-- How a BAR2 read completed. -/
def Chip.barAnswer (c : Chip) (a : BarAnswer) : Chip := { c with host := { c.host with bar2Out := some a } }

/-- A doorbell value is ignored: DBERR and NOTICE 0x0702 (R407, R601). -/
def Chip.doorbellBad (c : Chip) (unit v : Nat) : Chip := (c.wrF Reg.hifStat 1 1 1).notice 0x0702 0 unit v

/-- A doorbell of an SQ takes effect (R407). -/
def Chip.sqDoor (c : Chip) (q v : Nat) : Chip :=
  if !c.bit (Reg.sqCfg q) 5 ∨ c.sqSize q ≤ v then c.doorbellBad q v
  else c.setSq q { c.sq q with tail := BitVec.ofNat 16 v }

/-- A doorbell of a CQ takes effect: kept completions are posted in order (R409, R410). -/
def Chip.cqDoor (c : Chip) (q v : Nat) : Chip :=
  if !c.cqEnabled q ∨ c.cqSize q ≤ v then c.doorbellBad (0x100 + q) v
  else
    let full := decide ((c.cqTail q + 1) % c.cqSize q = v)
    let r := c.cq q
    let c := c.setCq q { r with head := BitVec.ofNat 16 v, fullAt := if full then r.fullAt else 0, told := r.told && full }
    c.postKept q (c.cq q).kept.length

/-- One access is tried: the module after it, and whether it meets retry status (R261). -/
def Chip.barTry (c : Chip) : BarOp → Chip × Bool
  | .read line =>
    let r := c.sliceRead line 0 .bar2
    match r.2.1 with
    | 0 => (r.1.barAnswer (.data r.2.2), false)
    | 1 =>
      let c := (r.1.aperr line 1).barAnswer .poisoned
      ({ c with host := { c.host with aerPoison := true } }, false)
    | 2 => (r.1.barAnswer .unsupported, false)
    | _ => (c, true)
  | .write line mask data poison =>
    if c.isSealed && !c.bit Reg.hifCtl 2 then (c.bump Reg.hifStat 32 32 1, false)
    else if poison then (c.aperr line 1, false)
    else
      let r := c.sliceWrite line mask data 0 .bar2
      match r.2 with
      | 0 => (r.1, false)
      | 2 => (r.1.aperr line 2, false)
      | _ => (c, true)
  | .sqTail q v => (c.sqDoor q v.toNat, false)
  | .cqHead q v => (c.cqDoor q v.toNat, false)

/-- A doorbell. While the module is stopped its effect waits (R544). -/
def BarOp.isDoor : BarOp → Bool
  | .sqTail _ _ => true
  | .cqHead _ _ => true
  | _ => false

/-- An access that must wait for the ones before it: a doorbell for every write, a read for every write, any for an access to the same line (R404). -/
def Chip.barBehind (c : Chip) (op : BarOp) : Bool :=
  c.host.bar2Wait.any fun w =>
    match w.op, op with
    | .write _ _ _ _, .read _ => true
    | .write _ _ _ _, .sqTail _ _ => true
    | .write _ _ _ _, .cqHead _ _ => true
    | .write l _ _ _, .write m _ _ _ => l == m
    | .read l, .write m _ _ _ => l == m
    | .sqTail _ _, .sqTail _ _ => true
    | .cqHead _ _, .cqHead _ _ => true
    | _, _ => false

/-- An access arrives. -/
def Chip.barArrive (c : Chip) (op : BarOp) : Chip :=
  let wait (c : Chip) : Chip := { c with host := { c.host with bar2Wait := c.host.bar2Wait ++ [⟨op, c.act, c.act⟩] } }
  if c.barBehind op || (c.stopped && op.isDoor) then wait c
  else match c.barTry op with | (_, true) => wait c | (c, false) => c

/-- The module line that BAR2 line n names under HIF.APBASE. -/
def Chip.barLine (c : Chip) (n : BitVec 30) : Nat := c.rdF Reg.apbase 0 4 * 2 ^ 30 + n.toNat

/-- BAR2_READ of a line (R402, R405); before bring-up step 4 it returns zeros (R399). -/
def execBar2Read (line : BitVec 30) (s : State) : Host.Outcome State Fault Refusal :=
  s.onChip fun c => if c.bar2Open then c.barArrive (.read (c.barLine line)) else c.barAnswer (.data 0)

/-- BAR2_WRITE of bytes of a line (R402, R403, R405); `poison` says that its TLP came poisoned. -/
def execBar2Write (line : BitVec 30) (mask : BitVec 64) (data : BitVec 512) (poison : Bool) (s : State) : Host.Outcome State Fault Refusal :=
  s.onChip fun c => if c.bar2Open then c.barArrive (.write (c.barLine line) mask data poison) else c

/-- Try again, in order, the accesses that wait and are not behind another. `l` are those still to try. -/
def Chip.barRetryGo (c : Chip) : List BarWait → Chip
  | [] => c
  | w :: ws =>
    let keep (c : Chip) (w : BarWait) : Chip := { c with host := { c.host with bar2Wait := c.host.bar2Wait ++ [w] } }
    if c.barBehind w.op || (c.stopped && w.op.isDoor) then (keep c w).barRetryGo ws
    else
      let door := w.op.isDoor
      if !door && decide (w.since.toNat + 1000000 ≤ c.act.toNat) then
        (match w.op with
          | .read l => (c.aperr l 3).barAnswer .abort
          | .write l _ _ _ => c.aperr l 3
          | _ => c).barRetryGo ws
      else if !door && decide (c.act.toNat < w.last.toNat + 1000) then (keep c w).barRetryGo ws
      else
        match c.barTry w.op with
        | (_, true) => (keep c { w with last := c.act }).barRetryGo ws
        | (c, false) => c.barRetryGo ws

/-- BAR2_RETRY (R405): accesses that met retry are tried again after 1 µs and end with Completer Abort after 1 ms. -/
def execBar2Retry (s : State) : Host.Outcome State Fault Refusal :=
  s.onChip fun c => Chip.barRetryGo { c with host := { c.host with bar2Wait := [] } } c.host.bar2Wait

/-- SQ_TAIL_DOORBELL (R407, R404): served from seal. -/
def execSqTailDoorbell (sq : Fin 256) (tail : Word) (s : State) : Host.Outcome State Fault Refusal :=
  s.onChip fun c => if c.isSealed then c.barArrive (.sqTail sq.val tail) else c

/-- CQ_HEAD_DOORBELL (R409). -/
def execCqHeadDoorbell (cq : Fin 256) (head : Word) (s : State) : Host.Outcome State Fault Refusal :=
  s.onChip fun c => if c.isSealed then c.barArrive (.cqHead cq.val head) else c

/-! ### Rings (R406, R410, R411) -/

/-- A write of a ring's CFG: `mask` says which bits the access carries. ENABLE rising latches BASE and size and sets HEAD or TAIL to 0, PHASE to 1 (R406), and
the completions that the ring kept are posted (R410). -/
def Chip.ringCfg (c : Chip) (cq : Bool) (q v mask : Nat) : Chip :=
  let off := if cq then Reg.cqCfg q else Reg.sqCfg q
  let old := c.rd off
  match regAt off with
  | none => c
  | some d =>
    let nv := regWrite off d.fields c.isSealed old v mask
    let c := c.unlatch off
    if !regPairOk off nv then c
    else
      let rise := !bitOf old 5 && bitOf nv 5
      let c := c.wr off nv
      if !rise then c
      else if cq then
        ((c.wrF off 48 16 0).setCq q { CqState.reset with base := BitVec.ofNat 64 (c.rd (Reg.cqBase q)), log2n := field nv 0 5, kept := (c.cq q).kept }).postKept q
          (c.cq q).kept.length
      else (c.wr (Reg.sqStat q) 0).setSq q { SqState.reset with base := BitVec.ofNat 64 (c.rd (Reg.sqBase q)), log2n := field nv 0 5 }

/-- A host write of a BAR0 register of a block that is served from seal: dropped before it, and dropped and counted while the module is stopped (R399, R544). -/
def State.onHostWrite (s : State) (f : Chip → Chip) : Host.Outcome State Fault Refusal :=
  s.onChip fun c => if !c.isSealed then c else if c.stopped then c.bump Reg.wstat 16 16 1 else f c

/-- RING_ENABLE (R406): a write of HIF.SQ[q].CFG or HIF.CQ[c].CFG that sets ENABLE. -/
def execRingEnable (cq : Bool) (ring : Fin 256) (cfg : DWord) (s : State) : Host.Outcome State Fault Refusal :=
  s.onHostWrite fun c => if bitOf cfg.toNat 5 then c.ringCfg cq ring.val cfg.toNat (2 ^ 64 - 1) else c

/-- CQ_FULL_NOTICE (R410, R601): a ring has been full for 100 ms while RUN = 1. -/
def execCqFullNotice (cq : Fin 256) (s : State) : Host.Outcome State Fault Refusal :=
  s.onUsher fun c =>
    let r := c.cq cq.val
    if c.bit Reg.hifCtl 1 ∧ c.cqEnabled cq.val ∧ r.fullAt ≠ 0 ∧ !r.told ∧ r.fullAt.toNat - 1 + 100000000 ≤ c.act.toNat then
      (c.setCq cq.val { r with told := true }).notice 0x0701 1 cq.val 0
    else c

/-- CQ_INTERRUPT (R411): an interrupt that CCNT entries since the last have made due, or one for CTIME µs since the first of the entries after it. -/
def execCqInterrupt (cq : Fin 256) (s : State) : Host.Outcome State Fault Refusal :=
  s.onLive fun c =>
    let o := Reg.cqCfg cq.val
    let r := c.cq cq.val
    let raise (r : CqState) : Chip := (c.setCq cq.val r).msi (c.rdF o 8 11)
    if !c.cqEnabled cq.val ∨ !c.bit o 6 then c
    else if r.idue ≠ 0 then raise { r with idue := r.idue - 1 }
    else if r.icount ≠ 0 ∧ (c.rdF o 24 8 ≤ r.icount ∨ r.ifirst.toNat - 1 + c.rdF o 32 16 * 1000 ≤ c.now.toNat) then raise { r with icount := 0, ifirst := 0 }
    else c

/-- HIF.CTL.RUN is written (R410): kept completions go out in order. DEDUCED: log entry 39. -/
def Chip.hifRun (c : Chip) (run : Bool) : Chip :=
  let c := c.wrF Reg.hifCtl 1 1 (b2n run)
  if run then (List.range 256).foldl (fun c q => c.postKept q (c.cq q).kept.length) c else c

/-- HIF_RUN_WRITE (R410). -/
def execHifRunWrite (run : Bool) (s : State) : Host.Outcome State Fault Refusal := s.onHostWrite fun c => (c.unlatch Reg.hifCtl).hifRun run

/-! ### Resync (R427, R400) -/

/-- Completions that a ring keeps when its ENABLE is cleared: journalled as not posted; TOKENS are dropped (R427). -/
def Chip.dropKept (c : Chip) (q : Nat) : Chip :=
  (c.cq q).kept.foldl (fun c m => if m.journalled then c.journal 2 m.ticket (m.postBody true q 0) else c) c

/-- A resync (R427, R432). DEDUCED: log entry 39. -/
def Chip.resync (c : Chip) : Chip :=
  let c := (List.range 256).foldl (fun c q =>
    (((c.dropKept q).wr (Reg.cqBase q) 0).wr (Reg.cqCfg q) 0).setCq q CqState.reset) c
  let c := (List.range 256).foldl (fun c q =>
    ((((c.wr (Reg.sqBase q) 0).wr (Reg.sqCfg q) 0x100).wr (Reg.sqStat q) 0).setSq q SqState.reset)) c
  let c := (c.wrF Reg.hifCtl 1 1 0)
  let isData (m : HostCmd) : Bool := entryOpc m.entry == 9 || entryOpc m.entry == 0x10 || entryOpc m.entry == 0x14
  let gone := c.host.accepted.filter isData
  let c := { c with host := { c.host with accepted := c.host.accepted.filter fun m => !isData m, served := [] } }
  let c := gone.foldl (fun c m => match c.liveIdx (entryTicket m.entry) with | some i => c.doneTicket i m.ans 7 [] | none => c.doneCommand m.ans 7 []) c
  c.journal 6 0 []

/-- A write of a dword of configuration space (R398): a function level reset, and an entry into D3hot, perform a resync (R400). -/
def Chip.cfgWrite (c : Chip) (o v : Nat) : Chip :=
  let was := c.cfgRead 0x44 % 4
  let c := c.cfgPut o v
  if c.isSealed && ((o == 0x50 && bitOf v 15) || (o == 0x44 && was != 3 && v % 4 == 3)) then c.resync else c

/-- RESYNC (R427): a write of 1 to HIF.CTL.RESYNC. -/
def execResync (s : State) : Host.Outcome State Fault Refusal := s.onHostWrite fun c => (c.unlatch Reg.hifCtl).resync

/-- PCIE_RESET_EVENT (R400): after seal each of these events performs a resync and nothing more. -/
def execPcieResetEvent (_e : PcieEvent) (s : State) : Host.Outcome State Fault Refusal :=
  s.onChip fun c => if c.isSealed then c.resync else c

/-- PCIE_LINK_DEGRADED (R398, R601): the link trained to `width` lanes and a rate of Table 14-1, and that is narrower or slower than before. -/
def execPcieLinkDegraded (width : Fin 5) (rate : Fin 6) (s : State) : Host.Outcome State Fault Refusal :=
  s.onUsher fun c =>
    let w := listGet 1 [1, 2, 4, 8, 16] width.val
    let r := listGet 64 [(Config.halfRate 0).toNat, 5, 8, 16, 32, 64] rate.val
    if width.val = 4 ∧ rate.val = 5 then { c with host := { c.host with pcie := (w, r) } }
    else ({ c with host := { c.host with pcie := (w, r) } }).notice 0x0704 1 0 (w + r * 256)

end Sys2Proof.Machine
end

