-- ==== Sys2Proof/Machine/Links.lean ====
section
/-! DEFINITION. What the Holmund links do (chapter Holmund Links): lanes and training, transactions at the receiver and at the requester, links
that go down, annexes and remote chunks. -/

namespace Sys2Proof.Machine

/-- A link's STATE changes: the register, and a LINK event (Table 19-7). -/
def Chip.linkState (c : Chip) (l st : Nat) : Chip := (c.wrF (Reg.linkStat l) 0 3 st).event (linkTower l) 422 14 0 (l + st * 8)

/-! ### Requests that end at the requester (R453, R458, R511) -/

/-- NOTICE 0x0205 for 64 KiB of a weight section (R511). -/
def Chip.weightNotice (c : Chip) (m sid off : Nat) : Chip :=
  c.notice 0x0205 1 m (Config.weightDetail m sid (off / 65536)).toNat

/-- What a link still carries for a purpose. -/
def Chip.serving (c : Chip) (f : LinkWhy → Bool) : Bool :=
  c.lk.link.any fun e => e.2.out.any (fun r => f r.why) || e.2.waiting.any fun r => f r.2

/-- A chunk on its way is given up: it stays at home, and its annex is closed. -/
def Chip.chunkDrop (c : Chip) (i t k : Nat) : Chip :=
  let same (o : ChunkOut) : Bool := o.i == i && o.t == t && o.k == k
  let c := c.dropReqs fun w => w == .chunk i t k
  let c := (c.lk.chunks.filter same).foldl (fun c o => match o.annex with | some a => Chip.closeAnnex c o.node a | none => c) c
  { c with lk := { c.lk with chunks := c.lk.chunks.filter fun o => !same o } }

/-- A chunk on its way back is given up: it stays at the peer. -/
def Chip.backDrop (c : Chip) (i t k : Nat) : Chip :=
  let c := c.dropReqs fun w => match w with | .back a b d _ => a == i && b == t && d == k | _ => false
  { c with lk := { c.lk with backs := c.lk.backs.filter fun o => !(o.i == i && o.t == t && o.k == k) } }

/-- A spill that a peer refuses or fails: to the host where SPOL allows, else the ticket stays resident (R459, R390). -/
def Chip.spillRefused (c : Chip) (i : Nat) : Chip :=
  let ans := (c.aux i).spillAns
  let c := c.spillAbandon i
  if c.tkSpol i ≤ 1 ∧ c.feature 1 then
    match c.areaFor i with
    | some t => (c.spillStart i t none).setAux i fun x => { x with spillAns := ans }
    | none => c
  else c

/-- A request is for a line range of 64 KiB of a weight section. -/
def LinkWhy.ofRange (m sid off : Nat) : LinkWhy → Bool
  | .weight a b o => a == m && b == sid && o / 65536 == off / 65536
  | _ => false

/-- A WEIGHT_ASK to a node brought nothing: with no other one open for the model, its ranges are asked of the host (R32, R511). -/
def Chip.askFailed (c : Chip) (node m : Nat) : Chip :=
  let c := { c with lk := { c.lk with asked := c.lk.asked.filter fun x => x != (node, m) } }
  if c.lk.asked.any fun x => x.2 == m then c else (c.model m).reload.foldl (fun c r => Chip.weightNotice c m r.1 r.2) c

/-- What becomes of a request that ended for good without its service. A piece of a weight range that fails leaves the whole range to the host. -/
def Chip.requestFailed (c : Chip) : LinkWhy → Chip
  | .spill i => c.spillRefused i
  | .chunk i t k => c.chunkDrop i t k
  | .back i t k _ => (c.backDrop i t k).recoverChunk i t k
  | .recall i _ => c.setAux i fun x => { x with recallBad := true }
  | .ask node m => c.askFailed node m
  | .weight m sid off => (c.dropReqs (LinkWhy.ofRange m sid off)).weightNotice m sid off
  | .attn tag => match c.lk.attn.find? fun a => a.tag == tag && a.got.isNone with | some a => c.attnFail a | none => c
  | .plain => c

/-- A request that ended with LINKDOWN (R453): on another link to the same partner if one is in service; else a spill is abandoned, a recall
runs to its limit, an ATTN_QUERY is recovered. -/
def Chip.linkDownEnd (c : Chip) (l : Nat) (t : Txn) (w : LinkWhy) : Chip :=
  match (c.linksTo (c.partner l).1).filter fun m => m != l with
  | m :: _ => c.request m t w
  | [] =>
    match w with
    | .spill i => c.spillAbandon i
    | .back i t k _ => c.backDrop i t k
    | .recall _ _ => c
    | w => c.requestFailed w

/-- A link goes down (R453): its barriers go with it (R450). -/
def Chip.linkDown (c : Chip) (l : Nat) : Chip :=
  let x := c.link l
  let up := c.linkUp l
  let c := c.linkState l 4
  let c := c.setLink l { x.anew with downAt := c.act }
  if !up then c
  else
    let c := (x.out.map (fun r => (r.txn, r.why)) ++ x.waiting.filter fun w => w.1.type != 7).foldl (fun c r => Chip.linkDownEnd c l r.1 r.2) c
    let node := (c.partner l).1
    let c := if (c.linksTo node).isEmpty then (c.lk.asked.filter fun a => a.1 == node).foldl (fun c a => Chip.askFailed c a.1 a.2) c else c
    c.notice 0x0503 (openSev 0x0503 l) l (openDetail 0x0503 l)

/-! ### Blocks and lanes (R437 to R441) -/

/-- A receive lane fails (R438): it is good no longer and is reported; one that fails while no spare is left, in use or itself failed, makes the link retrain
fast (R439). DEDUCED: log entry 135. -/
def Chip.laneFails (c : Chip) (l lane : Nat) : Chip :=
  let four := c.linkSt l == 3
  (c.wrF (Reg.linkStat l) (16 + lane) 1 0).onLink l fun x =>
    if x.rxSpare == some lane then x
    else if four || x.rxSpare.isSome || (x.lctl.isSome && x.lctl != some lane) then { x with fast := 1, lctl := some lane }
    else { x with lctl := some lane }

/-- A swap is counted and told (R438). -/
def Chip.swapNoted (c : Chip) (l : Nat) : Chip :=
  ((c.bump (Reg.linkErr l) 48 8 1).wrF (Reg.linkStat l) 4 1 1).notice 0x0501 (openSev 0x0501 l) l (openDetail 0x0501 l)

/-- A LANE_FAIL that the partner's framing brings (R440): the lane is to move to the spare; where the spare carries another or has been named itself, the
link retrains fast (R439). -/
def LinkState.laneFailed (four : Bool) (lane : Nat) (x : LinkState) : LinkState :=
  if x.spare == some lane || decide (8 < lane) then x
  else if four || x.spare.isSome || (x.fail.isSome && x.fail != some lane) then { x with fast := 1 }
  else { x with fail := some lane }

/-- The framing of a block whose FCRC is good (Table 15-15). -/
def Chip.framing (c : Chip) (l f : Nat) : Chip :=
  let smap := field f 32 4
  let four := c.linkSt l == 3
  let c := if field f 24 4 = 1 then c.onLink l (LinkState.laneFailed four (field f 28 4)) else c
  if smap < 8 ∧ (c.link l).rxSpare ≠ some smap then
    (c.onLink l fun x => { x with rxSpare := some smap, lctl := if x.lctl = some smap then none else x.lctl, rxNak := true }).swapNoted l
  else c

/-- What a received block brings (R437): the corrected symbols of each lane, ten flits, an uncorrected block counted, its framing. -/
def Chip.blockIn (c : Chip) (l v : Nat) : Chip :=
  let r := blockDecode v
  let lanes := c.rxLanes l
  let c := c.onLink l fun x => { x with
    corr := r.2.2.foldl (fun m k => let n := symbolLane lanes k; Store.put zeroNat m n (Store.get zeroNat m n + 1)) x.corr,
    rxFlits := x.rxFlits ++ (List.range 10).map fun i => (BitVec.ofNat 2048 (field r.1 (80 + 2048 * i) 2048), r.2.1) }
  if !r.2.1 then c.bump (Reg.linkErr l) 16 16 1
  else if field r.1 64 16 ≠ crc16 (lowBits r.1 64) then c
  else c.framing l (r.1 % 2 ^ 80)

/-- FEC_BLOCK_RECEIVE (R437, R440): a block's symbols as the lanes brought them, in the order sent: the message's and the 120 of parity; `aligned`: the receiver holds
block alignment. The transmitter of the link sends a block in the same time. DESIGN CHOICE: log entry 134. -/
def execFecBlockReceive (l : Fin 5) (msg : BitVec 20560) (parity : BitVec 1200) (aligned : Bool) (s : State) : Host.Outcome State Fault Refusal :=
  s.onChip fun c =>
    let l := l.val
    if !aligned || (!c.linkUp l && c.linkSt l != 1) then c
    else (c.blockIn l (msg.toNat + parity.toNat * 2 ^ 20560)).blockTime l

/-- LINK_LANE_FAIL (R438): a receive lane has lost lock, or its symbol error ratio over 1 ms has passed 10^-3. -/
def execLinkLaneFail (l : Fin 5) (lane : Fin 9) (s : State) : Host.Outcome State Fault Refusal :=
  s.onChip fun c => if c.linkUp l.val then c.laneFails l.val lane.val else c

/-- SPARE_SWAP (R438, R440): at a block boundary the transmitter moves the lane that a LANE_FAIL names onto the spare, and sends only idle flits until a NAK. An unused
spare that failed has nothing to move. -/
def execSpareSwap (l : Fin 5) (s : State) : Host.Outcome State Fault Refusal :=
  s.onChip fun c =>
    match (c.link l.val).fail with
    | none => c
    | some 8 => c
    | some lane => (c.onLink l.val fun x => { x with fail := none, spare := some lane, quiet := true, swapLeft := 16 }).swapNoted l.val

/-- Deskew and the elastic buffer of a lane (R441): its delay behind the last marker; pairs of filler symbols are deleted or repeated, 64 symbols at most. -/
def LinkState.alignLane (lane skew : Nat) (drift : Int) (x : LinkState) : LinkState :=
  let s := Store.get (fun _ => 0) x.slip lane + drift
  let k := min 64 (s.natAbs / 2 * 2)
  { x with skew := Store.put zeroNat x.skew lane skew,
           slip := Store.put (fun _ => 0) x.slip lane (if s < 0 then s + k else s - k) }

/-- ALIGNMENT_BLOCK_RECEIVE (R441): what each lane brought, LANE[0] first. A lane without the marker, or with one more than 32 symbols after the first, does not match its
position. DEDUCED: log entry 135. -/
def execAlignmentBlockReceive (l : Fin 5) (lanes : List LaneAlign) (s : State) : Host.Outcome State Fault Refusal :=
  s.onChip fun c =>
    let l := l.val
    if !c.linkUp l then c
    else
      let used (c : Chip) (n : Nat) : Bool := decide (n ≤ 8) && (c.link l).rxSpare != some n && bitOf (c.rdF (Reg.linkStat l) 16 9) n
      let times := lanes.zipIdx.filterMap fun e => if used c e.2 then e.1.marker else none
      let first := times.foldl min (listGet 0 times 0)
      let last := (times.filter fun (t : Nat) => decide (t ≤ first + 32)).foldl max first
      lanes.zipIdx.foldl (fun c e =>
        let x := Chip.link c l
        let due := if e.2 = 8 then x.rxSpare.getD 8 else e.2
        if !used c e.2 then c
        else
          match e.1.marker.filter fun (t : Nat) => decide (t ≤ first + 32) && e.1.word == laneWord due with
          | some t => c.onLink l fun x => LinkState.alignLane e.2 (last - t) e.1.drift { x with mism := Store.put zeroNat x.mism e.2 0 }
          | none =>
            let n := Store.get zeroNat x.mism e.2 + 1
            let c := c.onLink l fun x => { x with mism := Store.put zeroNat x.mism e.2 n }
            if n < 2 then c else c.laneFails l e.2) c

/-! ### Training frames (R442) -/

/-- Tap values in 1/80 of full swing; c(0) of preset 1 is the whole swing. -/
def tapDefault (k : Nat) : Int := if k % 4 = 2 then 80 else 0

/-- The taps c(-2), c(-1), c(0), c(1) of a preset (Table 15-17). -/
def presetTaps : Nat → List Int
  | 2 => [0, -8, 64, -8]
  | 3 => [2, -12, 62, -4]
  | 4 => [4, -16, 52, -8]
  | _ => [0, 0, 80, 0]

/-- One tap's request: its new value and its answer. An answer holds until the request returns to hold. -/
def tapStep (tap : Nat) (v : Int) (req ans : Nat) : Int × Nat :=
  match req with
  | 1 => if ans ≠ 0 then (v, ans) else if v + 1 ≤ (Config.tapLimit tap true) then (v + 1, 1) else (v, 3)
  | 2 => if ans ≠ 0 then (v, ans) else if (Config.tapLimit tap false) ≤ v - 1 then (v - 1, 1) else (v, 2)
  | _ => (v, 0)

/-- A control word applied to a lane's transmitter: its taps and its status word, READY apart. -/
def LinkState.control (x : LinkState) (lane w : Nat) : LinkState :=
  let st := Store.get zeroNat x.status lane
  let preset := field w 8 4
  let load := bitOf w 12 || decide (1 ≤ preset ∧ preset ≤ 4)
  let taps := (List.range 4).map fun k => Store.get tapDefault x.taps (4 * lane + k)
  if load then
    let new := if bitOf st 9 then taps else presetTaps (if bitOf w 12 then 1 else preset)
    { x with taps := new.zipIdx.foldl (fun m e => Store.put tapDefault m (4 * lane + e.2) e.1) x.taps,
             status := Store.put zeroNat x.status lane (if bitOf w 12 then 2 ^ 9 + field st 8 1 * 2 ^ 8 else setField st 9 1 1) }
  else
    let r := (List.range 4).map fun k => tapStep k (listGet 0 taps k) (field w (2 * k) 2) (field st (2 * k) 2)
    { x with taps := r.zipIdx.foldl (fun m e => Store.put tapDefault m (4 * lane + e.2) e.1.1) x.taps,
             status := Store.put zeroNat x.status lane (r.zipIdx.foldl (fun v e => v + e.1.2 * 2 ^ (2 * e.2)) (field st 8 1 * 2 ^ 8)) }

def noBool : Nat → Bool := fun _ => false

/-- The requests that a control word can make (Table 15-16): none, a step of one tap, a preset, INIT. -/
def askWords : List Nat := [0, 1, 2, 4, 8, 16, 32, 64, 128, 256, 512, 768, 1024, 4096]

/-- Whether a status word answers a control word: the tap asked for, or PDONE for a preset or INIT. -/
def askAnswered (ask status : Nat) : Bool :=
  (decide (256 ≤ ask) && bitOf status 9) || (List.range 4).any fun k => field ask (2 * k) 2 != 0 && field status (2 * k) 2 != 0

/-- The module's next control word on a lane (R442): a request holds until its answer is seen; a new one, which the receiver chooses, comes once the answer
is gone, and none of a receiver that is ready. -/
def nextAsk (ask status pick : Nat) (ready : Bool) : Nat :=
  if ask ≠ 0 then (if askAnswered ask status then 0 else ask)
  else if ready || field status 0 8 != 0 || bitOf status 9 then 0 else listGet 0 askWords (pick % 14)

/-- The module's own frame on a lane goes out (R442). -/
def LinkState.sendFrame (seed lane : Nat) (x : LinkState) : LinkState :=
  { x with wire := x.wire ++ [.levels lane (trainFrame (Store.get zeroNat x.ask lane) (Store.get zeroNat x.status lane) seed)] }

/-- TRAINING_FRAME_RECEIVE (R442): a frame of a lane, `ready` saying that the lane's own receiver has adapted. The module's own frame answers it. -/
def execTrainingFrameReceive (l : Fin 5) (lane : Fin 9) (control status : Word) (crc : BitVec 16) (ready : Bool) (s : State) :
    Host.Outcome State Fault Refusal :=
  s.onChip fun c =>
    if c.linkSt l.val ≠ 1 ∨ crc.toNat ≠ crc16 (lowBits (control.toNat + status.toNat * 2 ^ 32) 64) then c
    else c.onLink l.val fun x =>
      let x := x.control lane.val control.toNat
      LinkState.sendFrame (Config.prbsSeed l.val lane.val) lane.val
        { x with ready := Store.put noBool x.ready lane.val (bitOf status.toNat 8),
                 status := Store.put zeroNat x.status lane.val (setField (Store.get zeroNat x.status lane.val) 8 1 (b2n ready)),
                 ask := Store.put zeroNat x.ask lane.val
                   (nextAsk (Store.get zeroNat x.ask lane.val) status.toNat (Config.tapRequest c.act l.val lane.val) ready) }

/-! ### Flits (R443 to R445, R448) -/

/-- ACK and NAK of a flit: ACK is cumulative, and frees the replay buffer. -/
def LinkState.acked (now : DWord) (ack : BitVec 12) (nak : Bool) (x : LinkState) : LinkState :=
  let k := (x.replay.takeWhile fun f => f.seq != ack).length
  let x := if k < x.replay.length then { x with replay := x.replay.drop (k + 1), again := min x.again (x.replay.length - k - 1), stalls := 0, lastAck := now } else x
  if nak then { x with nakSeen := true, quiet := false } else x

/-- Flits of a channel's buffer are free again: their credit is due (R445). -/
def LinkState.freeCells (v n : Nat) (x : LinkState) : LinkState :=
  { x with held := Store.put zeroNat x.held v (Store.get zeroNat x.held v - n), due := Store.put zeroNat x.due v (Store.get zeroNat x.due v + n) }

/-- A whole transaction joins its channel's queue; a message with no room is answered BUSY. -/
def Chip.flitWhole (c : Chip) (l vc : Nat) (t : Txn) : Chip :=
  if vc = 1 ∧ (c.link l).msgDrop then
    (c.onLink l fun x => { x with msgDrop := false }).respond l (t.answer 8 3)
  else c.onLink l fun x => { x with inbox := Store.put noTxns x.inbox vc (Store.get noTxns x.inbox vc ++ [t]) }

/-- A flit's payload joins the transaction of its channel: a new one at SOT, for which the message buffer reserves LEN bytes (R448). The message buffer takes a
message's flits out of the receive buffer at once; those of a transaction broken off are free. DEDUCED: log entry 135. -/
def LinkState.flitIn (vc : Nat) (sot : Bool) (bs : List Byte) (x : LinkState) : LinkState :=
  let x := { x with held := Store.put zeroNat x.held vc (Store.get zeroNat x.held vc + 1) }
  let x := if vc = 1 then x.freeCells vc 1 else x
  let n := b2n (vc != 1)
  if !sot then
    { x with part := Store.put (fun _ => []) x.part vc (Store.get (fun _ => []) x.part vc ++ bs), partN := Store.put zeroNat x.partN vc (Store.get zeroNat x.partN vc + n) }
  else
    let x := x.freeCells vc (Store.get zeroNat x.partN vc)
    let x := { x with part := Store.put (fun _ => []) x.part vc bs, partN := Store.put zeroNat x.partN vc n,
                      partAt := Store.put zeroNat x.partAt vc x.arrived, arrived := x.arrived + 1 }
    if vc ≠ 1 then x
    else if x.msgBytes + imN bs 20 4 ≤ 2 ^ 26 then { x with msgBytes := x.msgBytes + imN bs 20 4, msgDrop := false } else { x with msgDrop := true }

/-- The payload of a flit accepted in order. -/
def Chip.flitPayload (c : Chip) (l v : Nat) (bs : List Byte) : Chip :=
  let vc := field v 12 2
  let c := c.onLink l (LinkState.flitIn vc (bitOf v 14) bs)
  if !bitOf v 15 then c
  else
    let x := c.link l
    let t := { txnOf (Store.get (fun _ => []) x.part vc) with place := Store.get zeroNat x.partAt vc, cells := Store.get zeroNat x.partN vc }
    Chip.flitWhole (c.onLink l fun x => { x with part := Store.put (fun _ => []) x.part vc [], partN := Store.put zeroNat x.partN vc 0 }) l vc t

/-- A flit is discarded; the first after a good one sets NAK (R444). -/
def LinkState.discard (x : LinkState) : LinkState := if x.naked then x else { x with rxNak := true, naked := true }

/-- FLIT_RECEIVE (R444): the next flit that a block brought. -/
def execFlitReceive (l : Fin 5) (s : State) : Host.Outcome State Fault Refusal :=
  s.onChip fun c =>
    let l := l.val
    match (c.link l).rxFlits with
    | [] => c
    | (f, good) :: fs =>
      let v := f.toNat
      let crcOk := decide (field v 2016 32 = crc32 (leBytes 252 v))
      if !c.linkUp l then (if good && crcOk && bitOf v 73 then c else c.onLink l fun x => { x with rxFlits := fs })
      else if !good then c.onLink l fun x => LinkState.discard { x with rxFlits := fs }
      else if !crcOk then (c.bump (Reg.linkErr l) 32 16 1).onLink l fun x => LinkState.discard { x with rxFlits := fs }
      else if bitOf v 73 then c
      else
        let c := c.onLink l fun x =>
          let x := { x with rxFlits := fs }
          let x := if bitOf v 29 then x.acked c.act (BitVec.ofNat 12 (field v 16 12)) (bitOf v 28) else x
          { x with credit := (List.range 4).foldl (fun m k => Store.put zeroNat m k (Store.get zeroNat m k + field v (32 + 8 * k) 8)) x.credit }
        if bitOf v 72 then c.pump l
        else if field v 0 12 ≠ (c.link l).rxNext.toNat ∨ vcBuffer (field v 12 2) ≤ Store.get zeroNat (c.link l).held (field v 12 2) then (c.onLink l LinkState.discard).pump l
        else
          let c := (c.unshed l).onLink l fun x => { x with rxNext := x.rxNext + 1, rxNak := false, naked := false, rxAny := true, lastUse := c.act }
          (c.flitPayload l (v % 2 ^ 16) (leBytes (min 240 (field v 64 8)) (v / 2 ^ 96))).pump l

/-- Flits from ACK + 1 are sent again (R444). Eight replays that do not advance ACK make the link retrain fast. -/
def Chip.replay (c : Chip) (l : Nat) : Chip :=
  (c.bump (Reg.linkErr l) 0 16 1).onLink l fun x =>
    { x with nakSeen := false, again := x.replay.length, lastAck := c.act, stalls := x.stalls + 1, fast := if 8 ≤ x.stalls + 1 ∧ x.fast = 0 then 2 else x.fast }

/-- NAK_REPLAY (R444). -/
def execNakReplay (l : Fin 5) (s : State) : Host.Outcome State Fault Refusal :=
  s.onLive fun c => if c.linkUp l.val && (c.link l.val).nakSeen then (c.replay l.val).pump l.val else c

/-- REPLAY_TIMEOUT (R444): no ACK progress for 4 µs while flits are outstanding. -/
def execReplayTimeout (l : Fin 5) (s : State) : Host.Outcome State Fault Refusal :=
  s.onLive fun c =>
    let x := c.link l.val
    if c.linkUp l.val && !x.replay.isEmpty && decide (x.lastAck.toNat + 4000 ≤ c.act.toNat) then (c.replay l.val).pump l.val else c

/-! ### Transactions at the receiver (R447 to R450) -/

/-- A transaction that breaks Table 15-5 or 15-6 by its type, its channel or what it reserves (R446). -/
def Txn.broken (vc : Nat) (t : Txn) : Bool := t.type == 0 || decide (8 < t.type) || txnVc t.type != vc || ((txnAsks t.type || t.type == 7) && t.rsv)

/-- The head of a channel's queue leaves it: its flits leave the receive buffer (R445), a message's bytes the message buffer (R448). -/
def LinkState.popTxn (vc : Nat) (t : Txn) (ts : List Txn) (x : LinkState) : LinkState :=
  let x := { x with inbox := Store.put noTxns x.inbox vc ts, msgBytes := if vc = 1 then x.msgBytes - t.len else x.msgBytes }
  x.freeCells vc t.cells

/-- Take the transaction at the head of a channel's queue, where it is whole and of a type. -/
def Chip.takeTxn (c : Chip) (l vc : Nat) (ok : Nat → Bool) : Option (Chip × Txn) :=
  match Store.get noTxns (c.link l).inbox vc with
  | [] => none
  | t :: ts => if ok t.type && !t.broken vc then some (c.onLink l (LinkState.popTxn vc t ts), t) else none

/-- An annex that the partner of a link may use: the status where it may not. -/
def Chip.annexFor (c : Chip) (l : Nat) (t : Txn) (write : Bool) : Annex ⊕ Nat :=
  match c.lk.annexes.find? fun a => a.id == t.annex with
  | none => .inr 1
  | some a =>
    let own := a.node == (c.partner l).1 && a.boot == (c.partner l).2
    if a.purpose = 3 then (if write then .inr 2 else .inl a) else if own then .inl a else .inr 2

/-- PUT and GET keep the bounds of Table 15-6 on a link. -/
def Chip.bulkOk (c : Chip) (l : Nat) (t : Txn) : Bool :=
  decide (64 ≤ t.len ∧ t.len ≤ c.bulkMax l ∧ t.len % 64 = 0 ∧ t.offset % 64 = 0)

/-- Write whole lines of an annex through their home slices, as STREAM; false where a line meets retry. -/
def Chip.annexPut (c : Chip) (l : Fin 5) (a : Annex) (o : Nat) (d : List Byte) : Chip × Bool :=
  (List.range (d.length / 64)).foldl (fun r i =>
    match annexAddr a.pieces (o + 64 * i) with
    | none => r
    | some x =>
      let w := Chip.sliceWrite r.1 (x / 64) wholeMask (BitVec.ofNat 512 (imN d (64 * i) 64)) 1 (.link l)
      if w.2 = 0 then (w.1, r.2) else (r.1, false)) (c, true)

/-- Read a range of an annex as STREAM: 0, 4 where a line is poisoned, 6 where one meets retry; and the bytes. -/
def Chip.annexGet (c : Chip) (l : Fin 5) (a : Annex) (o n : Nat) : Chip × Nat × List Byte :=
  let first := o / 64 * 64
  let r := (List.range ((o + n - first + 63) / 64)).foldl (fun (r : Chip × Nat) i =>
    match annexAddr a.pieces (first + 64 * i) with
    | none => r
    | some x =>
      let q := Chip.sliceRead r.1 (x / 64) 1 (.link l)
      (q.1, if r.2 ≠ 0 then r.2 else if q.2.1 = 0 then 0 else if q.2.1 = 1 then 4 else 6)) (c, 0)
  (r.1, r.2, r.1.annexBytes a o n)

/-- A broken transaction at the head of a channel's queue leaves it (Tables 15-5, 15-6, 15-7): a request, or one of a reserved TYPE, is answered MALFORMED; one that nothing answers
is counted. DEDUCED: log entry 135. -/
def Chip.reservedTxn (c : Chip) (l : Fin 5) (vc : Nat) : Chip :=
  match Store.get noTxns (c.link l.val).inbox vc with
  | [] => c
  | t :: ts =>
    if !t.broken vc then c
    else
      let c := c.onLink l.val (LinkState.popTxn vc t ts)
      if t.type = 3 ∨ 6 ≤ t.type ∧ t.type ≤ 8 ∨ (t.type = 1 ∧ !t.ackreq) then (c.onLink l.val fun x => { x with malformed := x.malformed + 1 }).pump l.val
      else c.respond l.val (t.answer (if t.type = 2 then 3 else if t.type = 5 then 6 else 8) 5)

/-- PUT (R447): every line is accepted by its home slice, then DONE where it is asked for. -/
def execPut (l : Fin 5) (s : State) : Host.Outcome State Fault Refusal :=
  s.onLive fun c =>
    match c.takeTxn l.val 0 (· == 1) with
    | none => c.reservedTxn l 0
    | some (c, t) =>
      let done (c : Chip) (st : Nat) : Chip := if t.ackreq then c.respond l.val (t.answer 8 st) else c
      if !c.bulkOk l.val t ∨ t.data.length ≠ t.len then done c 5
      else
        match c.annexFor l.val t true with
        | .inr e => done c e
        | .inl a =>
          if a.len < t.offset + t.len then done c 2
          else
            let r := c.annexPut l a t.offset t.data
            done r.1 (if r.2 then 0 else 6)

/-- The ranges that a GET asks for: its own, or those of a GETLIST (Table 15-11). -/
def Txn.ranges (t : Txn) : List (Nat × Nat) :=
  if t.data.isEmpty then [(t.offset, t.len)]
  else (List.range (t.data.length / 12)).map fun i => (imN t.data (12 * i) 8, imN t.data (12 * i + 8) 4)

/-- Whether a PUT that arrived before a place in the order of arrival has yet to take effect (R447). -/
def LinkState.putBefore (x : LinkState) (place : Nat) : Bool :=
  ((Store.get noTxns x.inbox 0).any fun t => t.type == 1 && decide (t.place < place))
    || (imN (Store.get (fun _ => []) x.part 0) 0 1 == 1 && decide (Store.get zeroNat x.partAt 0 < place))

/-- GET (R447): it reads once every earlier PUT of the link has taken effect. -/
def execGet (l : Fin 5) (s : State) : Host.Outcome State Fault Refusal :=
  s.onLive fun c0 =>
    match c0.takeTxn l.val 2 (· == 2) with
    | none => c0.reservedTxn l 2
    | some (c, t) =>
     if (c0.link l.val).putBefore t.place then c0
     else
      let fail (c : Chip) (st : Nat) : Chip := c.respond l.val (t.answer 3 st)
      let rs := t.ranges
      let total := rs.foldl (fun n r => n + r.2) 0
      if !t.data.isEmpty ∧ !c.linkFeat l.val 1 then fail c 7
      else if !c.bulkOk l.val t ∨ t.data.length % 12 ≠ 0 ∨ 64 < rs.length ∨ total ≠ t.len then fail c 5
      else
        match c.annexFor l.val t false with
        | .inr e => fail c e
        | .inl a =>
          if rs.any fun r => decide (a.len < r.1 + r.2) then fail c 2
          else
            let r := rs.foldl (fun (r : Chip × Nat × List Byte) x =>
              let q := r.1.annexGet l a x.1 x.2
              (q.1, if r.2.1 ≠ 0 then r.2.1 else q.2.1, r.2.2 ++ q.2.2)) (c, 0, [])
            if r.2.1 ≠ 0 then fail r.1 r.2.1
            else r.1.respond l.val { t.answer 3 0 with len := t.len, data := r.2.2 }

/-- A message kind of Table 15-9, or of the firmware, that the link's version knows. -/
def Chip.kindKnown (c : Chip) (l kind : Nat) : Bool :=
  decide (1 ≤ kind ∧ kind ≤ 4) || (decide (kind = 0x10 ∨ kind = 0x11) && decide (0x20 ≤ c.linkVer l)) || decide (0x100 ≤ kind ∧ kind ≤ 0x7FFF)

/-- MSG (R448): delivered whole to the usher. A message of the firmware's own kinds stays delivered; what it does is its own. -/
def execMsg (l : Fin 5) (s : State) : Host.Outcome State Fault Refusal :=
  s.onUsher fun c =>
    match c.takeTxn l.val 1 (· == 4) with
    | none => c.reservedTxn l 1
    | some (c, t) =>
      let kind := field t.arg.toNat 0 16
      let max := if c.linkVer l.val < 0x20 then 65536 else 2 ^ 20
      if t.len = 0 ∨ max < t.len ∨ t.data.length ≠ t.len then c.respond l.val (t.answer 8 5)
      else if !c.kindKnown l.val kind then c.respond l.val (t.answer 8 7)
      else
        ({ c with lk := { c.lk with msgs := c.lk.msgs ++ [(l.val, kind, t.data)] } } : Chip).respond l.val (t.answer 8 0)

/-- ATOMIC (R449): the word's old value goes back, and the word has the operand added. -/
def execAtomic (l : Fin 5) (s : State) : Host.Outcome State Fault Refusal :=
  s.onLive fun c =>
    match c.takeTxn l.val 2 (· == 5) with
    | none => c.reservedTxn l 2
    | some (c, t) =>
      let fail (c : Chip) (st : Nat) : Chip := c.respond l.val (t.answer 6 st)
      if c.linkVer l.val < 0x20 then fail c 7
      else if (t.len ≠ 4 ∧ t.len ≠ 8) ∨ t.offset % t.len ≠ 0 then fail c 5
      else if t.len = 8 ∧ !c.linkFeat l.val 0 then fail c 7
      else
        match c.annexFor l.val t true with
        | .inr e => fail c e
        | .inl a =>
          if a.len < t.offset + t.len then fail c 2
          else
            match annexAddr a.pieces t.offset with
            | none => fail c 2
            | some x =>
              let r := c.sliceRead (x / 64) 1 (.link l)
              if r.2.1 = 1 then fail r.1 4
              else if r.2.1 ≠ 0 then fail r.1 6
              else
                let old := field r.2.2.toNat (8 * (x % 64)) (8 * t.len)
                let new := (old + t.arg.toNat) % 2 ^ (8 * t.len)
                let w := r.1.sliceWrite (x / 64) (BitVec.ofNat 64 ((2 ^ t.len - 1) * 2 ^ (x % 64))) (BitVec.ofNat 512 (new * 2 ^ (8 * (x % 64)))) 1 (.link l)
                w.1.respond l.val { t.answer 6 0 with arg := BitVec.ofNat 64 old }

/-- A barrier completes on this side once it has been sent and received (R450). -/
def Chip.barrierDone (c : Chip) (l id : Nat) : Chip :=
  let x := c.link l
  if Store.get noBool x.sent id && Store.get noBool x.got id then
    (c.onLink l fun x => { x with sent := Store.put noBool x.sent id false, got := Store.put noBool x.got id false,
                                  gens := Store.put noBool x.gens id (!Store.get noBool x.gens id) }).report (.barrier l id)
  else c

/-- BARRIER (R450): this side arrives at a barrier (`some id`), or one that the link brought is taken. -/
def execBarrier (l : Fin 5) (local_ : Option Byte) (s : State) : Host.Outcome State Fault Refusal :=
  s.onUsher fun c =>
    match local_ with
    | some id =>
      let x := c.link l.val
      if !c.linkUp l.val || Store.get noBool x.sent id.toNat then c
      else
        let gen := Store.get noBool x.gens id.toNat
        let c := c.request l.val { c.txn 7 true with arg := BitVec.ofNat 64 (id.toNat + b2n gen * 256) } .plain
        (c.onLink l.val fun x => { x with sent := Store.put noBool x.sent id.toNat true }).barrierDone l.val id.toNat
    | none =>
      match c.takeTxn l.val 3 (· == 7) with
      | none => c.reservedTxn l 3
      | some (c, t) =>
        let id := field t.arg.toNat 0 8
        let x := c.link l.val
        if Store.get noBool x.got id || bitOf t.arg.toNat 8 != Store.get noBool x.gens id then c.onLink l.val fun x => { x with malformed := x.malformed + 1 }
        else (c.onLink l.val fun x => { x with got := Store.put noBool x.got id true }).barrierDone l.val id

/-! ### Answers at the requester (R451, R452, R459, R511) -/

/-- The outstanding request that an answer ends. An answer to a request of a step that comes from another epoch, or in MOVING or LOADING, is discarded and counted,
whether or not its request is still held; one of no request is discarded (R307, R451, R452). -/
def Chip.matchReq (c : Chip) (l : Nat) (t : Txn) : Chip × Option LinkReq :=
  let stale := decide (t.epoch.toNat ≠ c.epoch.toNat % 2 ^ 24) || c.epochState == 3 || c.epochState == 4
  match (c.link l).out.find? fun r => r.txn.tag == t.tag with
  | none => (if !t.ush && stale then c.bump Reg.epcnt 0 32 1 else c, none)
  | some r => if !r.txn.ush && stale then (c.bump Reg.epcnt 0 32 1, none) else (c, some r)

/-- A request ends. -/
def Chip.endReq (c : Chip) (l : Nat) (r : LinkReq) : Chip := c.onLink l fun x => { x with out := x.out.filter fun q => q.txn.tag != r.txn.tag }

/-- 64 KiB of a weight section has been rewritten from a partner when no request for it is left: it is reported by a NOTICE and in the journal (R32), and the annex is closed
with the last (R511). DESIGN CHOICE: log entry 14. -/
def Chip.weightPiece (c : Chip) (l : Fin 5) (m sid off : Nat) (bs : List Byte) : Chip :=
  let c := ((c.model m).weights.filter fun w => w.1 == sid).foldl (fun c w => Chip.memWriteAs (.link l) c (w.2.2 + off) bs) c
  if c.serving (LinkWhy.ofRange m sid off) then c
  else
    let c := (c.setModel m { c.model m with reload := (c.model m).reload.filter fun x => x != (sid, off / 65536 * 65536) }).healthNote 2 5 m
    if (c.model m).reload.isEmpty then c.weightsDone m else c

/-- The bytes that a weight section still holds from an offset on. -/
def Chip.sectLeft (c : Chip) (m sid off : Nat) : Nat := match imSect (c.model m).image 0x11 sid with | some s => s.len - off | none => 0

/-- Whether an annex's image is that of a chunk of a model, and whole (R460). -/
def chunkImageOk (k mid : Nat) (img : List Byte) : Bool :=
  imN img 0 4 == 0x4C4C5053 && imN img 4 2 == 1 && imN img 0xC 4 == (k + 1) * 8192 && imN img 0x10 4 == mid
    && img.length == imN img 0x38 8 && imN img 0x1C 4 == imageCrc img

/-- A chunk that has come back whole stands in its tower again: pages, entries, CBLK, and its annex is closed unless another ticket holds it too (R277). It stays
remote where frames lack; one whose image is not whole is recomputed (R279). DEDUCED: log entry 91. -/
def Chip.backCommit (c : Chip) (o : ChunkBack) (img : List Byte) : Chip :=
  let root := c.tkRoot o.i
  let b := c.cblk root o.t o.k
  let c := c.backDrop o.i o.t o.k
  if root = 0 ∨ !bitOf b 63 ∨ field b 0 32 ≠ o.annex.toNat ∨ field b 32 8 ≠ o.node then c
  else if !chunkImageOk o.k (c.modelId (c.tkModel o.i)) img then c.recoverChunk o.i o.t o.k
  else
    let skip := c.tk o.i 0x50 8
    let refs := (c.chunkRefs root o.t o.k).filter fun r => !(decide (r.layer < 64) && bitOf skip r.layer)
    match ((c.memWriteNum (field (c.tdir root o.t) 0 40 + 8 * o.k) 8 0).needChunk root o.t o.k).bind
        (Chip.recallPages o.node root refs (imB img 0x80 (imN img 0x14 4)) (imN img 0x30 8) (img.drop (imN img 0x30 8))) with
    | none => c
    | some c => if c.annexShared o.i o.node o.annex.toNat then c else c.closeAnnex o.node o.annex

/-- A piece of a chunk that comes back: the header first, by whose length the whole image is asked for. -/
def Chip.backPiece (c : Chip) (i t k off : Nat) (d : List Byte) : Chip :=
  match c.lk.backs.find? fun o => o.i == i && o.t == t && o.k == k with
  | none => c
  | some o =>
    if o.total = 0 then
      let n := imN d 0x38 8
      if imN d 0 4 ≠ 0x4C4C5053 ∨ n < 128 ∨ 2 ^ 32 ≤ n then (c.backDrop i t k).recoverChunk i t k
      else
        let c := { c with lk := { c.lk with backs := c.lk.backs.map fun x => if x = o then { o with total := n } else x } }
        c.getAll o.node o.annex (fun a => .back i t k a) n
    else
      let p := { o with pieces := o.pieces ++ [(off, d)] }
      let c := { c with lk := { c.lk with backs := c.lk.backs.map fun x => if x = o then p else x } }
      match joinPieces o.total p.pieces with
      | some img => c.backCommit p img
      | none => c

/-- GETRESP (R446, R459, R511). -/
def execGetresp (l : Fin 5) (s : State) : Host.Outcome State Fault Refusal :=
  s.onUsher fun c =>
    match c.takeTxn l.val 0 (· == 3) with
    | none => c.reservedTxn l 0
    | some (c, t) =>
      match c.matchReq l.val t with
      | (c, none) => c
      | (c, some r) =>
        let c := c.endReq l.val r
        let c :=
          if t.status ≠ 0 then c.requestFailed r.why
          else
            match r.why with
            | .back i u k o => c.backPiece i u k o t.data
            | .recall i o => { c with lk := { c.lk with pieces := c.lk.pieces ++ [(i, o, t.data)] } }
            | .weight m sid o => c.weightPiece l m sid o (t.data.take (c.sectLeft m sid o))
            | _ => c
        (c.pump l.val).settle

/-- ATOMRESP (R449). -/
def execAtomresp (l : Fin 5) (s : State) : Host.Outcome State Fault Refusal :=
  s.onLive fun c =>
    match c.takeTxn l.val 2 (· == 6) with
    | none => c.reservedTxn l 2
    | some (c, t) => match c.matchReq l.val t with | (c, none) => c | (c, some r) => (c.endReq l.val r).pump l.val

/-- The image of one chunk of one tower (R460, Table 13-7). DEDUCED: log entry 91. -/
def Chip.chunkImage (c : Chip) (i t k mid : Nat) : List Byte :=
  let root := c.tkRoot i
  let ps := (c.pagesOf root).filter fun e => e.1.t == t && e.1.k == k
  let idx := ps.map fun e => BitVec.ofNat 8 (field e.2.2 40 4)
  let pages := ps.foldr (fun e l => c.memBytes (field e.2.2 0 40) (pageBytes (field e.2.2 40 4)) ++ l) []
  let remoff := (0x80 + idx.length + 7) / 8 * 8
  let pageoff := (remoff + 4095) / 4096 * 4096
  let head := leBytes 4 0x4C4C5053 ++ leBytes 2 1 ++ [BitVec.ofNat 8 (c.tkHot i), 0] ++ leBytes 4 (c.tkTicket i) ++ leBytes 4 ((k + 1) * 8192)
    ++ leBytes 4 mid ++ leBytes 4 idx.length ++ leBytes 4 0 ++ leBytes 4 0
    ++ (List.range 4).map (fun u => BitVec.ofNat 8 (if u = t then c.rootHt root t else 0)) ++ leBytes 4 0
    ++ leBytes 8 remoff ++ leBytes 8 pageoff ++ leBytes 8 (pageoff + pages.length) ++ leBytes 64 0
  let img := head ++ idx ++ leBytes (pageoff - 0x80 - idx.length) 0 ++ pages
  img.take 0x1C ++ leBytes 4 (imageCrc img) ++ img.drop 0x20

/-- The links to a node have read the pages of a chunk's image, each those that it carries (R433). -/
def Chip.chunkTouch (c : Chip) (node i t k : Nat) : Chip :=
  let ps := (c.pagesOf (c.tkRoot i)).filter fun e => e.1.t == t && e.1.k == k
  let first := ((0x80 + ps.length + 7) / 8 * 8 + 4095) / 4096 * 4096
  (ps.foldl (fun (r : Chip × Nat) e =>
    let n := pageBytes (field e.2.2 40 4)
    (Chip.memTouchAs (Chip.linkFor r.1 node r.2) r.1 (field e.2.2 0 40) n, r.2 + n)) (c, first)).1

/-- A chunk that the peer has taken whole becomes REMOTE: its entry names the annex and the peer, and its pages go (R277). DEDUCED: log entry 91. -/
def Chip.chunkMoved (c : Chip) (o : ChunkOut) : Chip :=
  match o.annex with
  | none => c
  | some a =>
    let root := c.tkRoot o.i
    let b := c.cblk root o.t o.k
    let c := { c with lk := { c.lk with chunks := c.lk.chunks.filter fun x => x != o } }
    if root = 0 ∨ b = 0 ∨ bitOf b 63 then c.closeAnnex o.node a
    else
      let ps := (c.pagesOf root).filter fun e => e.1.t == o.t && e.1.k == o.k
      let c := c.memWriteNum (field (c.tdir root o.t) 0 40 + 8 * o.k) 8 (a.toNat + o.node * 2 ^ 32 + 2 ^ 63)
      (ps.foldl (fun c e => Chip.slotDec c (field e.2.2 0 40)) c).freeBlock (field b 0 40)

/-- DONE (R447, R448, R459). -/
def execDone (l : Fin 5) (s : State) : Host.Outcome State Fault Refusal :=
  s.onUsher fun c =>
    match c.takeTxn l.val 2 (· == 8) with
    | none => c.reservedTxn l 2
    | some (c, t) =>
      match c.matchReq l.val t with
      | (c, none) => c
      | (c, some r) =>
        if t.status = 3 then
          (c.onLink l.val fun x => { x with out := x.out.map fun q => if q.txn.tag = r.txn.tag then { q with again := some c.act } else q }).pump l.val
        else
          let c := c.endReq l.val r
          let c :=
            if t.status ≠ 0 then c.requestFailed r.why
            else
              match r.why with
              | .chunk i u k =>
                (match c.lk.chunks.find? fun o => o.i == i && o.t == u && o.k == k && o.annex.isSome with
                  | some o => if c.serving fun w => w == .chunk i u k then c else c.chunkMoved o
                  | none => c)
              | _ => c
          (c.pump l.val).settle

/-- MSG_BUSY_RESEND (R448): 20 µs after BUSY. -/
def execMsgBusyResend (l : Fin 5) (tag : Half) (s : State) : Host.Outcome State Fault Refusal :=
  s.onUsher fun c =>
    match (c.link l.val).out.find? fun r => r.txn.tag == tag with
    | none => c
    | some r =>
      match r.again with
      | none => c
      | some t0 =>
        if !c.linkUp l.val ∨ c.act.toNat < t0.toNat + 20000 then c
        else
          (c.onLink l.val fun x =>
            LinkState.queueTxn { x with out := x.out.map fun (q : LinkReq) => if q.txn.tag = tag then { q with again := none, since := c.act } else q } r.txn).pump l.val

/-- LINK_REQUEST_TIMEOUT (R451): a request that nothing has answered for 10 ms ends with LINKDOWN. -/
def execLinkRequestTimeout (l : Fin 5) (tag : Half) (s : State) : Host.Outcome State Fault Refusal :=
  s.onUsher fun c =>
    match (c.link l.val).out.find? fun r => r.txn.tag == tag with
    | none => c
    | some r =>
      if c.act.toNat < r.since.toNat + 10000000 ∨ r.again.isSome then c
      else (((c.endReq l.val r).linkDownEnd l.val r.txn r.why).pump l.val).settle

/-! ### Links down and up (R439, R453 to R457) -/

/-- LINK_DOWN (R453): fewer than 4 lanes of the link are good. -/
def execLinkDown (l : Fin 5) (good : Fin 4) (s : State) : Host.Outcome State Fault Refusal :=
  s.onChip fun c => if c.linkUp l.val && decide (good.val < 4) then (c.linkDown l.val).settle else c

/-- LINK_CTL_DOWN (R453): a write of 1 to LINK.CTL.DOWN. -/
def Chip.ctlDown (c : Chip) (l : Nat) : Chip := if c.part.hasLink l && c.linkSt l != 0 then (c.linkDown l).settle else c

/-- A full training begins: a link that was up stops, and what it had asked for waits to be asked again (R454). DEDUCED: log entry 40. -/
def Chip.trainStart (c : Chip) (l : Nat) : Chip :=
  let x := c.link l
  let c := c.linkState l 1
  c.setLink l { x.anew with waiting := x.out.map (fun r => (r.txn, r.why)) ++ x.waiting.filter fun w => w.1.type != 7 }

/-- LINK.CTL.RETRAIN is written (R439, R461). -/
def Chip.ctlRetrain (c : Chip) (l : Nat) : Chip := if c.part.hasLink l && c.bit (Reg.linkCtl l) 0 then c.trainStart l else c

/-- LINK_CTL_DOWN. -/
def execLinkCtlDown (l : Fin 5) (s : State) : Host.Outcome State Fault Refusal := s.onHostWrite fun c => (c.unlatch (Reg.linkCtl l.val)).ctlDown l.val

/-- LINK_CTL_RETRAIN. -/
def execLinkCtlRetrain (l : Fin 5) (s : State) : Host.Outcome State Fault Refusal := s.onHostWrite fun c => (c.unlatch (Reg.linkCtl l.val)).ctlRetrain l.val

/-- Lanes that passed: how many run, and as the first 8, or 4 (Table 15-8, order 3). -/
def laneWidth (mask : Nat) : Nat :=
  let n := ((List.range 9).filter fun i => bitOf mask i).length
  if 8 ≤ n then 8 else if 4 ≤ n then 4 else 0

/-- The highest version of {1.0, 2.0, 2.1} that an offer allows (R456). -/
def versionOffered (maj min : Nat) : Nat := if maj = 0 then 0 else if maj = 1 then 0x10 else if maj = 2 ∧ min = 0 then 0x20 else 0x21

/-- The module's own offer by LINK.CTL.OFFER. -/
def Chip.ownOffer (c : Chip) (l : Nat) : Nat := listGet 0x21 [0x21, 0x20, 0x10] (c.rdF (Reg.linkCtl l) 3 2)

/-- A partner's BOOTID at link-up (R457): where it differs from the one recorded, the annexes held for it are freed, and those held at it are lost. -/
def Chip.meet (c : Chip) (l node : Nat) (boot : Word) : Chip :=
  let old := Store.get (fun _ => none) c.lk.met node
  let c := { c with lk := { c.lk with met := Store.put (fun _ => none) c.lk.met node (some boot) } }
  match old with
  | none => c
  | some b =>
    if b = boot then c
    else
      let c := (c.lk.annexes.filter fun a => a.node == node && a.purpose != 3).foldl (fun c a => Chip.freeAnnex c a) c
      let c := c.liveTickets.foldl (fun c i =>
        ((c.remotesOf (c.tkRoot i)).filter fun e => field e.2.2 32 8 == node).foldl (fun c e => Chip.recoverChunk c i e.1 e.2.1) c) c
      c.notice 0x0505 2 l (openDetail 0x0505 l)

/-- The module's capability flit (Table 15-10), `lanes` being those that its receiver passed. -/
def Chip.capFlit (c : Chip) (l lanes : Nat) : BitVec 2048 :=
  let ver := c.ownOffer l
  flitBits 0 0 false false 0 false false []
    (leBytes 4 0x4D4C4F48 ++ [BitVec.ofNat 8 (ver / 16), BitVec.ofNat 8 (ver % 16)] ++ leBytes 2 (c.rdF (Reg.linkCtl l) 16 16 &&& 7)
      ++ [BitVec.ofNat 8 (c.rdF Reg.node 0 8), 3] ++ leBytes 2 lanes ++ leBytes 4 c.lk.boot.toNat
      ++ (List.range 4).foldr (fun v b => leBytes 2 (vcBuffer v) ++ b) [] ++ leBytes 2 2048 ++ [BitVec.ofNat 8 l] ++ leBytes 5 0) false true

/-- The module's capability flits of order 5, in two blocks (R455). -/
def Chip.sendCaps (c : Chip) (l lanes : Nat) (act : List Nat) : Chip :=
  let f := c.capFlit l lanes
  let all := (List.range 10).foldl (fun v i => v + f.toNat * 2 ^ (2048 * i)) 0
  c.onLink l fun x => (x.putBlock act all).putBlock act all

/-- The link comes up (Table 15-8, order 7). -/
def Chip.linkComesUp (c : Chip) (l : Nat) (caps : List Byte) (mask width rate224 ver : Nat) : Chip :=
  let feat := if ver = 0x21 then imN caps 6 2 &&& c.rdF (Reg.linkCtl l) 16 16 &&& 7 else 0
  let node := imN caps 8 1
  let boot := imN caps 12 4
  let spared := decide ((field mask 0 8 ≠ 0xFF ∨ field (imN caps 10 2) 0 8 ≠ 0xFF) ∧ width = 8)
  let c := c.wr (Reg.linkPartner l) (boot + node * 2 ^ 32)
  let c := c.wr (Reg.linkStat l) (field (c.rd (Reg.linkStat l)) 0 3 + rate224 * 8 + b2n spared * 16 + ver * 2 ^ 8 + mask * 2 ^ 16 + node * 2 ^ 32 + feat * 2 ^ 40)
  let c := c.linkState l (if width = 8 then 2 else 3)
  let theirs := imN caps 10 2 % 512
  let missing (m : Nat) : Option Nat := if width = 8 then (List.range 8).find? fun i => !bitOf m i else none
  let c := c.sendCaps l mask (activeLanes (decide (width = 4)) theirs (missing theirs))
  let c := c.onLink l fun x => { x.anew with
    waiting := x.waiting, fullAt := c.act, lastUse := c.act, rxSpare := missing mask, spare := missing theirs, txMask := theirs,
    credit := (List.range 4).foldl (fun m k => Store.put zeroNat m k (imN caps (16 + 2 * k) 2)) [] }
  let c := if c.isSealed then c.notice 0x0504 (openSev 0x0504 l) l (openDetail 0x0504 l) else c
  ((c.meet l node (BitVec.ofNat 32 boot)).pump l).settle

/-- Lanes of a mask that are READY by a test: the others fail order 2 (R442). -/
def readyLanes (mask : Nat) (ready : Nat → Bool) : Nat := (List.range 9).foldl (fun m i => if bitOf mask i && ready i then m + 2 ^ i else m) 0

/-- LINK_TRAINING (R454 to R457, R434, R442): the orders of Table 15-8 end; a lane whose receiver is not READY has failed order 2. `good112` and `good224` are the lanes that the module's receiver passed at each rate; the partner's
own stand in its capability flits, of which 16 have come. -/
def execLinkTraining (l : Fin 5) (good112 good224 : BitVec 9) (s : State) : Host.Outcome State Fault Refusal :=
  s.onChip fun c =>
    let l := l.val
    let x := c.link l
    if !c.part.hasLink l || c.linkSt l != 1 || !c.bit (Reg.linkCtl l) 0 then c
    else
      let caps := x.caps
      let mine := c.ownOffer l
      let ver := min mine (versionOffered (imN caps 4 1) (imN caps 5 1))
      let theirs := readyLanes (imN caps 10 2) fun i => Store.get noBool x.ready i
      let own (m : BitVec 9) : Nat := readyLanes m.toNat fun i => bitOf (Store.get zeroNat x.status i) 8
      let node := imN caps 8 1
      let w112 := min (laneWidth (own good112)) (laneWidth theirs)
      let w224 := if 0x20 ≤ ver ∧ bitOf (imN caps 9 1) 1 then min (laneWidth (own good224)) (laneWidth theirs) else 0
      let fast := decide (w112 < 2 * w224)
      let width := if fast then w224 else w112
      let clash := decide (node = c.rdF Reg.node 0 8) || (List.range 5).any fun m => m != l && c.linkUp m && c.linkNode m == node && (c.partner m).2.toNat != imN caps 12 4
      if x.capCount < 16 ∨ width = 0 ∨ ver = 0 then (c.linkState l 4).onLink l fun x => { x with downAt := c.act }
      else if clash then ((c.linkState l 4).onLink l fun x => { x with downAt := c.act }).notice 0x0506 (openSev 0x0506 l) l (openDetail 0x0506 l)
      else c.linkComesUp l caps (own (if fast then good224 else good112)) width (b2n fast) ver

/-- CAPABILITY_FLIT_RECEIVE (R455): the next flit is a capability flit whose CRC is good. -/
def execCapabilityFlitReceive (l : Fin 5) (s : State) : Host.Outcome State Fault Refusal :=
  s.onChip fun c =>
    match (c.link l.val).rxFlits with
    | [] => c
    | (f, good) :: fs =>
      let v := f.toNat
      if !good || !bitOf v 73 || field v 2016 32 != crc32 (leBytes 252 v) then c
      else
        let p := leBytes 32 (v / 2 ^ 96)
        c.onLink l.val fun x =>
          let x := { x with rxFlits := fs }
          if imN p 0 4 = 0x4D4C4F48 then { x with caps := p, capCount := x.capCount + 1 } else x

/-- FAST_RETRAIN (R439, R444, R454): a second lane failure, to 4 lanes, or a stalled replay, at the width it had. It fails where fewer than 4 lanes are good, or where `ok` says
that it did not end within 2 ms; `boot` is the BOOTID that the partner's capability flits bring. -/
def execFastRetrain (l : Fin 5) (good : BitVec 9) (boot : Word) (ok : Bool) (s : State) : Host.Outcome State Fault Refusal :=
  s.onChip fun c =>
    let l := l.val
    let x := c.link l
    if !c.linkUp l || x.fast == 0 then c
    else
      let w := laneWidth good.toNat
      let c := c.bump (Reg.linkErr l) 56 8 1
      if !ok || w == 0 || (x.fast == 2 && c.linkSt l == 2 && w != 8) then (c.linkDown l).settle
      else
        let c := if x.fast = 1 then (((c.wrF (Reg.linkStat l) 4 1 0).linkState l 3).wrF (Reg.linkStat l) 16 9 good.toNat).notice 0x0502 (openSev 0x0502 l) l (openDetail 0x0502 l) else c
        let c := c.sendCaps l good.toNat (c.txLanes l)
        let c := c.onLink l fun x => { x with
          again := x.replay.length, swapLeft := 0, fast := 0, stalls := 0, lctl := none, fail := none, mism := [], quiet := false, nakSeen := false, lastAck := c.act, shed := false,
          spare := if x.fast = 1 then none else x.spare, rxSpare := if x.fast = 1 then none else x.rxSpare }
        let c := (c.wrF (Reg.linkPartner l) 0 32 boot.toNat).meet l (c.linkNode l) boot
        (c.pump l).settle

/-- LINK_RETRAIN_TIMER (R453, R439): a full training of a link down for 1 s, and once a day of a degraded link idle for 10 ms. -/
def execLinkRetrainTimer (l : Fin 5) (s : State) : Host.Outcome State Fault Refusal :=
  s.onUsher fun c =>
    let l := l.val
    let x := c.link l
    let degraded := c.linkUp l && (c.linkSt l == 3 || c.rdF (Reg.linkStat l) 16 9 != 511) && !x.shed
    if !c.part.hasLink l || !c.bit (Reg.linkCtl l) 0 then c
    else if c.linkSt l = 4 then (if x.downAt.toNat + 1000000000 ≤ c.act.toNat then c.trainStart l else c)
    else if degraded && decide (x.fullAt.toNat + 86400000000000 ≤ c.act.toNat) && decide (x.lastUse.toNat + 10000000 ≤ c.act.toNat) && x.out.isEmpty then c.trainStart l
    else c

/-- LPIDLE_SHED (R456): a link idle for 100 µs sheds to 4 lanes. -/
def execLpidleShed (l : Fin 5) (s : State) : Host.Outcome State Fault Refusal :=
  s.onChip fun c =>
    let x := c.link l.val
    if c.linkSt l.val = 2 ∧ c.linkFeat l.val 2 ∧ x.flitCount = 0 ∧ x.lastUse.toNat + 100000 ≤ c.act.toNat then
      (c.wrF (Reg.linkStat l.val) 0 3 3).onLink l.val fun x => { x with shed := true }
    else c

/-! ### Annexes (R458 to R460) -/

/-- Grant an annex, or say why not: 1 no memory, 2 model not loaded, 3 refused. -/
def Chip.annexGrant (c : Chip) (l : Nat) (p : List Byte) : Chip × Nat × Nat :=
  let len := imN p 0 8
  let purpose := imN p 8 1
  let has := (List.range 8).any fun m => c.loaded m && c.modelId m == imN p 24 4
  if len = 0 ∨ (purpose ≠ 1 ∧ purpose ≠ 2) ∨ (purpose = 2 ∧ c.linkVer l < 0x20) then (c, 0, 3)
  else if purpose = 2 ∧ !has then (c, 0, 2)
  else if c.rdF Reg.annexcap 0 16 * 2 ^ 30 < c.annexTotal + len then (c, 0, 1)
  else
    match c.annexFrames (linkTower l) ((len + 2 ^ 21 - 1) / 2 ^ 21) [] with
    | none => (c, 0, 1)
    | some (c, fs) =>
      let a : Annex := { id := c.lk.nextAnnex, node := (c.partner l).1, boot := (c.partner l).2, purpose := purpose, len := len, pieces := fs.map fun f => (f * 2 ^ 21, 2 ^ 21) }
      ({ c with lk := { c.lk with annexes := c.lk.annexes ++ [a], nextAnnex := if c.lk.nextAnnex + 1 = 0 then 1 else c.lk.nextAnnex + 1 } }, a.id.toNat, 0)

/-- ANNEX_REPLY payload. -/
def annexReply (id st tag : Nat) : List Byte := leBytes 4 id ++ [BitVec.ofNat 8 st, 0, 0, 0] ++ leBytes 8 tag

/-- The home asks a node for an annex for a full chunk of a resident ticket (R277, R458). -/
def Chip.chunkSend (c : Chip) (w : Word) (t k node : Nat) : Chip :=
  match c.liveIdx w, (c.linksTo node).filter fun l => decide (0x20 ≤ c.linkVer l) with
  | some i, l :: _ =>
    let root := c.tkRoot i
    let b := c.cblk root t k
    if root = 0 ∨ !c.feature 8 ∨ c.npos i < (k + 1) * 8192 + 1 ∨ bitOf b 63 ∨ field b 0 40 = 0 ∨ c.busy i ∨ c.inFlight w
        ∨ c.lk.chunks.any (fun o => o.i == i && o.t == t && o.k == k) then c
    else
      let o : ChunkOut := ⟨i, t, k, node, none⟩
      let c := { c with lk := { c.lk with chunks := c.lk.chunks ++ [o] } }
      let mid := c.modelId (c.tkModel i)
      c.sendMsg l 1 true (.chunk i t k) (leBytes 8 (c.chunkImage i t k mid).length ++ [2, 0, 0, 0] ++ leBytes 4 (c.tkTicket i)
        ++ leBytes 8 (2 ^ 63 + (t * 64 + k) * 2 ^ 20 + i) ++ leBytes 4 mid)
  | _, _ => c

/-- ANNEX_OPEN (R458): one that a link brought is granted or refused; or the home sends one for a remote chunk. -/
def execAnnexOpen (side : AnnexSide) (s : State) : Host.Outcome State Fault Refusal :=
  s.onUsher fun c =>
    match side with
    | .receive l => match c.takeMsg l.val 1 with
      | none => c
      | some (c, p) =>
        let r := c.annexGrant l.val p
        r.1.sendMsg l.val 2 true .plain (annexReply r.2.1 r.2.2 (imN p 16 8))
    | .send w t k node => c.chunkSend w t.val k.val node.toNat

/-- The GETs of every pending 64 KiB of a model from a weights annex, in which its sections lie back to back. -/
def Chip.weightGets (c : Chip) (node : Nat) (annex : Word) (m : Nat) : Chip :=
  let im := (c.model m).image
  let base (sid : Nat) : Nat := ((imOf im 0x11).takeWhile fun q => q.sid != sid).foldl (fun a q => a + q.len) 0
  (c.model m).reload.foldl (fun c r =>
    let n := min 65536 (c.sectLeft m r.1 r.2)
    (Chip.bulkPieces c node n).foldl (fun c p =>
      match Chip.bulkLink c node (base r.1 + r.2 + p.1) with
      | none => c
      | some l => Chip.request c l { c.txn 2 true with offset := base r.1 + r.2 + p.1, annex := annex, len := (p.2 + 63) / 64 * 64 } (.weight m r.1 (r.2 + p.1))) c) c

/-- ANNEX_REPLY (R458, R459): it answers a spill's ANNEX_OPEN, a remote chunk's, or a WEIGHT_ASK. -/
def Chip.annexAnswer (c : Chip) (l : Nat) (p : List Byte) : Chip :=
  let id : Word := BitVec.ofNat 32 (imN p 0 4)
  let ok := decide (imN p 4 1 = 0 ∧ imN p 0 4 ≠ 0)
  let tag := imN p 8 8
  let node := (c.partner l).1
  let i := tag % 2 ^ 20
  if tag / 2 ^ 62 = 1 then
    if !c.tkFlag i 1 || (c.aux i).spill != some (.peer node) || (c.aux i).annex.isSome then (if ok then c.closeAnnex node id else c)
    else if !ok then c.spillRefused i
    else c.setAux i fun x => { x with annex := some id }
  else if tag / 2 ^ 62 = 2 then
    let t := field tag 20 8 / 64
    let k := field tag 20 8 % 64
    match c.lk.chunks.find? fun o => o.i == i && o.t == t && o.k == k && o.node == node && o.annex.isNone with
    | none => if ok then c.closeAnnex node id else c
    | some o =>
      if !ok then c.chunkDrop i t k
      else
        let c := { c with lk := { c.lk with chunks := c.lk.chunks.map fun x => if x = o then { o with annex := some id } else x } }
        (c.chunkTouch node i t k).putAll node id (.chunk i t k) 0 (c.chunkImage i t k (c.modelId (c.tkModel i)))
  else
    match c.lk.asked.find? fun a => a.1 == node with
    | none => if ok then c.closeAnnex node id else c
    | some a =>
      if ok then ({ c with lk := { c.lk with asked := c.lk.asked.filter (fun x => x != a), weights := c.lk.weights ++ [(node, id, a.2)] } }).weightGets node id a.2
      else c.askFailed node a.2

/-- ANNEX_REPLY. -/
def execAnnexReply (l : Fin 5) (s : State) : Host.Outcome State Fault Refusal :=
  s.onUsher fun c => match c.takeMsg l.val 2 with | none => c | some (c, p) => (c.annexAnswer l.val p).settle

/-- ANNEX_CLOSE (R458): the owner's annex is freed. -/
def execAnnexClose (l : Fin 5) (s : State) : Host.Outcome State Fault Refusal :=
  s.onUsher fun c =>
    match c.takeMsg l.val 3 with
    | none => c
    | some (c, p) => match c.annexOf l.val (BitVec.ofNat 32 (imN p 0 4)) with | some a => (c.freeAnnex a).settle | none => c

/-- WEIGHT_ASK (R458): a read-only annex of the model's weight sections, back to back in section-table order; refused where the model is not loaded. -/
def execWeightAsk (l : Fin 5) (s : State) : Host.Outcome State Fault Refusal :=
  s.onUsher fun c =>
    match c.takeMsg l.val 4 with
    | none => c
    | some (c, p) =>
      match (List.range 8).find? fun m => c.loaded m && c.modelId m == imN p 0 4 with
      | none => c.sendMsg l.val 2 true .plain (annexReply 0 2 0)
      | some m =>
        let ss := imOf (c.model m).image 0x11
        let ps := ss.filterMap fun q => ((c.model m).weights.find? fun w => w.1 == q.sid).map fun w => (w.2.2, q.len)
        let a : Annex := { id := c.lk.nextAnnex, node := (c.partner l.val).1, boot := (c.partner l.val).2, purpose := 3, len := ps.foldl (fun n x => n + x.2) 0, pieces := ps }
        let c := { c with lk := { c.lk with annexes := c.lk.annexes ++ [a], nextAnnex := if c.lk.nextAnnex + 1 = 0 then 1 else c.lk.nextAnnex + 1 } }
        c.sendMsg l.val 2 true .plain (annexReply a.id.toNat 0 0)

end Sys2Proof.Machine
end

