-- ==== Sys2Proof/Machine/Power.lean ====
section
/-! DEFINITION. Voltage steps, regulator cells, staging, current reports and cracks (chapter Power, Thermal Control and the Energy
Budget, R463 to R474). -/

namespace Sys2Proof.Machine

def Chip.onPower (c : Chip) (f : PowerState → PowerState) : Chip := { c with sys := { c.sys with power := f c.sys.power } }

/-! ### The domain model (R463, R466, R469) -/

/-- The voltage of a VSTEP in 10 mV, and its beat rate at 85 °C in 10 M beats/s (Table 16-2). -/
def stepVolts (v : Nat) : Nat := 60 + 2 * v
def stepRate (v : Nat) : Nat := listGet 196 [102, 110, 118, 126, 134, 142, 150, 156, 161, 167, 172, 178, 183, 188, 192, 196] v

/-- Model power at a VSTEP of a domain that takes `w` watts at N, in 1/777,600 W: (V / 0.72)² × rate / 1.50 (R466). -/
def modelPower (w v : Nat) : Nat := w * stepVolts v ^ 2 * stepRate v

/-- The model current of every powered domain at VSTK, at 88% efficiency and 1.5 V, stays within ILIM (R463). -/
def Chip.withinIlim (c : Chip) : Bool :=
  let p := (List.range 4).foldl (fun a t =>
    (c.poweredGals t).foldl (fun a k => a + modelPower 3 (if c.domLow k then 0 else min (c.rdF (domReg k) 0 4) (c.rdF (domReg k) 8 4)))
      (if c.rdF (corrReg t) 12 3 = 0 then a else a + modelPower 29 (c.rdF (corrReg t) 4 4))) 0
  decide (p * 100 ≤ c.rdF Reg.ilim 0 16 * 132 * 777600)

/-- The highest VSTEP at which n corridor cells of 1.80 A carry the corridor's model current; none where they do not carry VSTEP 6 (R469). DEDUCED: log entry 58. -/
def corridorCap (n : Nat) : Option Nat :=
  ((List.range 16).reverse.find? fun v => decide (29 * stepVolts v * stepRate v * 10 ≤ 18 * n * 7776)).bind fun v => if v < 6 then none else some v

/-- A row of Table 16-4 is in force at a sensor (tower · 2048 + die · 104 + position). -/
def senKey (t s p : Nat) : Nat := t * 2048 + s * 104 + p
def Chip.act16 (c : Chip) (k i : Nat) : Bool := bitOf (Store.get zeroNat c.sys.power.acts k) i

/-- Whether the usher may raise VSET of a gallery: not while the 91 °C action stands at its position (R476). -/
def Chip.mayRaise (c : Chip) (k : Nat) : Bool := !c.act16 (senKey (k / 104) 18 (k % 104)) 0

/-- ILIM_THROTTLE (R463): the tower's measured VSTK current, in 10 mA, over the last 100 µs; above its share, every powered gallery goes down one VSTEP, and
below 95% of it the throttling ends with NOTICE 0x0306. DEDUCED: log entry 56. -/
def execIlimThrottle (t : Fin 4) (current : Nat) (s : State) : Host.Outcome State Fault Refusal :=
  s.onChip fun c =>
    let n := c.part.towers
    let lim := c.rdF Reg.ilim 0 16 * 100
    let on := Store.get noMark c.sys.power.ilimOn t.val
    let put (c : Chip) (b : Bool) : Chip := c.onPower fun x => { x with ilimOn := Store.put noMark x.ilimOn t.val b }
    if !c.hasTower t.val then c
    else if (on && decide (lim * 95 ≤ current * n * 100)) || decide (lim < current * n) then
      put (c.setVsets ((c.poweredGals t.val).map fun k => (k, min (c.rdF (domReg k) 0 4) (c.rdF (domReg k) 8 4) - 1))) true
    else if on then (put c false).notice 0x0306 (openSev 0x0306 t.val) t.val (openDetail 0x0306 t.val)
    else c

/-- VSET_CHANGE (R465, R463, R476): the usher sets VSET of a gallery domain; it sets none at which the model current would exceed ILIM. -/
def execVsetChange (g : GalId) (v : Fin 16) (s : State) : Host.Outcome State Fault Refusal :=
  s.onUsher fun c =>
    let k := galKey g
    let d := c.setVsets [(k, v.val)]
    if !c.hasTower g.tower.val || (decide (c.rdF (domReg k) 0 4 < v.val) && (!c.mayRaise k || !d.withinIlim)) then c else d

/-! ### Regulator cells (R467 to R469) -/

/-- REG_CELL_FAIL (R467, R468): the first failed cell of a domain. -/
def execRegCellFail (g : GalId) (cell : Fin 4) (s : State) : Host.Outcome State Fault Refusal :=
  s.onChip fun c =>
    let k := galKey g
    if !c.hasTower g.tower.val || c.domSt k == 0 || c.cellsFailed k != 0 then c
    else ((c.wrF (domReg k) (16 + cell.val) 1 1).domsRun [k]).notice 0x0301 1 (g.tower.val * 128 + g.pos.val) (openDetail 0x0301 k)

/-- A domain is lost: VSTEP 0, a power-event stop of the array, the fence, and NOTICE 0x0304 (R469, R473). -/
def Chip.domLost (c : Chip) (k cause : Nat) : Chip :=
  let c := (c.domsRun [k]).onGal k fun g => g.mxAsk 3
  let c := c.usherFence k cause
  c.notice 0x0304 1 (k / 104 * 128 + k % 104) (openDetail 0x0304 k)

/-- SECOND_CELL_FAIL (R469): another cell of a domain that has lost one. -/
def execSecondCellFail (g : GalId) (cell : Fin 4) (s : State) : Host.Outcome State Fault Refusal :=
  s.onChip fun c =>
    let k := galKey g
    if !c.hasTower g.tower.val || c.domSt k == 0 || c.cellsFailed k != 1 || c.bit (domReg k) (16 + cell.val) then c
    else (c.wrF (domReg k) (16 + cell.val) 1 1).domLost k 2

/-- CORRIDOR_CELL_FAIL (R469): the corridor and the die's galleries are capped to what the working cells carry; where that is less than VSTEP 6 the tower is
to be fenced (TOWER_FENCE). -/
def execCorridorCellFail (t : Fin 4) (s : State) : Host.Outcome State Fault Refusal :=
  s.onChip fun c =>
    let n := Store.get zeroNat c.sys.power.corrFail t.val + 1
    if !c.hasTower t.val || decide (48 < n) || c.rdF (corrReg t.val) 12 3 == 0 then c
    else
      let c := c.onPower fun x => { x with corrFail := Store.put zeroNat x.corrFail t.val n }
      let cap := (corridorCap (48 - n)).getD 6
      let c := ((c.wrF (corrReg t.val) 16 4 (min n 15)).wrF (corrReg t.val) 8 4 cap).wrF (corrReg t.val) 28 3 (if cap = 15 then 0 else 1)
      c.domsRun ((List.range 104).map (t.val * 104 + ·))

/-! ### Switching on (R470, R471) -/

/-- A gallery domain stands up: at its VSET, the gallery in the state of R60. -/
def Chip.galOn (c : Chip) (k : Nat) : Chip :=
  let c := c.onPower fun x => { x with staging := Store.put zeroDWord x.staging k 0, stageTold := Store.put noMark x.stageTold k false }
  ((c.setDomSt k (if c.fenced k then 4 else 1)).domsRun [k]).onGal k fun g =>
    { Gallery.reset with dom := .up, lgal := g.lgal, winCharge := g.winCharge }

/-- Whether the supply of a gallery domain stands, and the domain may be on: its tower's VSTK is up, its bank is not open, and no second cell is lost (R52, R469). -/
def Chip.mayStage (c : Chip) (k : Nat) : Bool :=
  c.hasTower (k / 104) && c.rdF (corrReg (k / 104)) 12 3 != 0 && !c.thermStopped && !decide (2 ≤ c.cellsFailed k) && c.bankClass k != 2
    && !(c.gal k).shadow

/-- DOMAIN_SWITCH_ON (R470, R471): the sequencer stages an off domain; `trips` droop trips occur, and it is finished or goes on. -/
def execDomainSwitchOn (g : GalId) (trips : Byte) (finished : Bool) (s : State) : Host.Outcome State Fault Refusal :=
  s.onChip fun c =>
    let k := galKey g
    if !c.mayStage k || !(c.domSt k == 0 || c.domSt k == 3) then c
    else
      let c := if c.domSt k = 0 then
          (c.setDomSt k 3).onPower fun x => { x with staging := Store.put zeroDWord x.staging k (c.now + 1), stageTold := Store.put noMark x.stageTold k false }
        else c
      let c := c.bump (domReg k) 20 8 trips.toNat
      if finished then c.galOn k else c

/-- STAGING_TIMEOUT (R471): staging unfinished 1 ms after it began goes on, and NOTICE 0x0305 is posted. -/
def execStagingTimeout (g : GalId) (s : State) : Host.Outcome State Fault Refusal :=
  s.onChip fun c =>
    let k := galKey g
    let x := (Store.get zeroDWord c.sys.power.staging k).toNat
    if c.domSt k ≠ 3 ∨ x = 0 ∨ c.now.toNat < x - 1 + 1000000 ∨ Store.get noMark c.sys.power.stageTold k then c
    else (c.onPower fun y => { y with stageTold := Store.put noMark y.stageTold k true }).notice 0x0305 0
      (g.tower.val * 128 + g.pos.val) (openDetail 0x0305 k)

/-! ### Current reports and cracks (R472 to R474) -/

/-- CURRENT_SAMPLE (R472): average, minimum and maximum of each domain over the last ms, in 10 mA, in DOM order. -/
def execCurrentSample (t : Fin 4) (recs : List (Half × Half × Half)) (s : State) : Host.Outcome State Fault Refusal :=
  s.onChip fun c =>
    if !c.hasTower t.val || recs.length != 130 then c
    else
      let n := c.rdF (Reg.iridx t.val) 0 32
      let bytes := recs.zipIdx.foldr (fun r l =>
        let o := Reg.dom t.val r.2
        leBytes 2 r.1.1.toNat ++ leBytes 2 r.1.2.1.toNat ++ leBytes 2 r.1.2.2.toNat ++ leBytes 2 (c.rdF o 4 4 + c.rdF o 12 3 * 16) ++ l) []
      let c := recs.zipIdx.foldl (fun c r => Chip.wrF c (Reg.dom t.val r.2) 32 16 r.1.1.toNat) c
      let c := if c.rdF (Reg.irbase t.val) 0 40 = 0 then c else c.memWrite (c.rdF (Reg.irbase t.val) 0 40 + 1040 * (n % 1024)) bytes
      (c.wrF (Reg.iridx t.val) 0 32 (n + 1)).wrF (Reg.iridx t.val) 32 32 (field c.now.toNat 10 32)

/-- Open banks of a tower break the limits of R52: more than four, or two adjacent in row or column. DESIGN CHOICE: log entry 61. -/
def Chip.banksBreak (c : Chip) (t : Nat) : Bool :=
  let l := (List.range 104).filter fun p => c.bankClass (t * 104 + p) == 2
  decide (4 < l.length) || l.any fun p => (p % 13 != 12 && l.contains (p + 1)) || l.contains (p + 13)

def noCrack : Nat → Nat × Nat := fun _ => (0, 0)

/-- The usher starts the recovery measurement of a bank (R473, R474). -/
def Chip.measure (c : Chip) (k : Nat) : Chip := c.onPower fun x => { x with measuring := Store.put zeroDWord x.measuring k (c.now + 1) }

/-- CRACK_ALARM (R473): one sample of a bank's droop monitor, the drop in µV and the bank's share of the current in mA. The alarm is raised at 10 counted samples
in a row above 1.25 times the model drop, and at 10 above 3 times it the bank is open. A class never improves. The model drop comes from MEAS, as R473 says,
where R53 says that its classes compare with BASE. DEDUCED: log entry 111. -/
def execCrackAlarm (g : GalId) (drop share : Word) (s : State) : Host.Outcome State Fault Refusal :=
  s.onChip fun c =>
    let k := galKey g
    let unit := g.tower.val * 128 + g.pos.val
    if !c.hasTower g.tower.val || decide (share.toNat < 1000) then c
    else
      let model := share.toNat * 2 * c.rdF (Reg.bank g.tower.val g.pos.val) 16 16   -- mA · µΩ, 1/1,000 µV
      let fused := share.toNat * 2 * c.rdF (Reg.bank g.tower.val g.pos.val) 0 16
      let x := Store.get noCrack c.sys.power.crack k
      let n : Nat × Nat := (if model * 5 < drop.toNat * 4000 then x.1 + 1 else 0, if fused * 3 < drop.toNat * 1000 then x.2 + 1 else 0)
      let c := c.onPower fun y => { y with crack := Store.put noCrack y.crack k n }
      let cls := c.bankClass k
      if 10 ≤ n.1 ∧ 10 ≤ n.2 ∧ cls ≠ 2 then ((c.wrF (Reg.bank g.tower.val g.pos.val) 32 2 2).domLost k 3).measure k
      else if n.1 = 10 ∧ (cls = 0 ∨ cls = 3) then
        (((c.wrF (Reg.bank g.tower.val g.pos.val) 32 2 1).domsRun [k]).notice 0x0303 1 unit (openDetail 0x0303 k)).measure k
      else if n.1 = 10 then (c.notice 0x0303 1 unit (openDetail 0x0303 k)).measure k
      else c

/-- CLASS of a bank by Table 2-5: its resistance, and the largest ratio of a segment to its baseline share, in hundredths. -/
def bankClassOf (base ohms ratio : Nat) : Nat :=
  if ohms = 0xFFFF ∨ 3 * base < ohms then 2 else if 5 * base < 4 * ohms ∨ 200 < ratio then 1 else 0

/-- RECOVERY_MEASUREMENT_DONE (R474): 100 ms of live measurement end with the bank's resistance, and the segment with the largest ratio to its
baseline share, in hundredths. Table 2-5 gives the class from the fused BASE (R53); it does not improve. -/
def execRecoveryMeasurementDone (g : GalId) (ohms ratio : Half) (seg : Fin 18) (s : State) : Host.Outcome State Fault Refusal :=
  s.onChip fun c =>
    let k := galKey g
    let o := Reg.bank g.tower.val g.pos.val
    let x := (Store.get zeroDWord c.sys.power.measuring k).toNat
    if x = 0 ∨ c.now.toNat < x - 1 + 100000000 then c
    else
      let c := c.onPower fun y => { y with measuring := Store.put zeroDWord y.measuring k 0 }
      let old := c.bankClass k
      let cls := bankClassOf (c.rdF o 0 16) ohms.toNat ratio.toNat
      let new := if old = 3 then cls else max old cls
      let c := ((c.wrF o 16 16 ohms.toNat).wrF o 32 2 new).wrF o 34 5 seg.val
      if new = 2 ∧ old ≠ 2 then c.domLost k 3 else c.domsRun [k]

end Sys2Proof.Machine
end

