-- ==== Sys2Proof/Machine/Thermal.lean ====
section
/-! DEFINITION. Temperature and the Bellows (chapter Power, Thermal Control and the Energy Budget, R475 to R479, R481 to R485). The
thermal stop itself (R480) stands with the resets. -/

namespace Sys2Proof.Machine

/-! ### Sensors (R475, R599) -/

/-- The code (T + 64) × 16 of a temperature in °C. -/
def tcode (t : Nat) : Nat := (t + 64) * 16

/-- Whether die index s names a die of the part (R599). -/
def Chip.hasDie (c : Chip) (s : Nat) : Bool := decide (s ≤ c.part.layers) || s == 17 || s == 18

/-- READ, EST, SUSP of a sensor. -/
def Chip.senRead (c : Chip) (t s p : Nat) : Nat := c.rdF (Reg.sensor t s p) 0 12
def Chip.senEst (c : Chip) (t s p : Nat) : Nat := c.rdF (Reg.sensor t s p) 12 12
def Chip.senSusp (c : Chip) (t s p : Nat) : Bool := c.bit (Reg.sensor t s p) 24

/-- The governing temperature: the reading, or the estimate of a suspect DRAM sensor (R475). -/
def Chip.governing (c : Chip) (t s p : Nat) : Nat := if c.senSusp t s p then c.senEst t s p else c.senRead t s p

/-- The rows of Table 16-4 of a die, by bit, as (first code at which the row applies, code at or below which it is released): 2 °C below the row that set
it, and for the drop of 95 °C "below 91 °C" in the row's own words. -/
def actRows (s : Nat) : List (Nat × Nat) :=
  if s = 18 then [(tcode 91, tcode 89), (tcode 93, tcode 91), (tcode 95, tcode 91 - 1)]
  else if s = 0 ∨ s = 17 then [(tcode 93, tcode 91), (tcode 95, tcode 93)]
  else [(tcode 85 + 1, tcode 83), (tcode 95 + 1, tcode 93), (tcode 100 + 1, tcode 98)]

/-- The rows in force at a temperature code, given those in force before; the code 0 is no reading and changes nothing (R599). -/
def actsAt (s old code : Nat) : Nat :=
  if code = 0 then old
  else (actRows s).zipIdx.foldl (fun a e =>
    if e.1.1 ≤ code ∨ (bitOf old e.2 ∧ e.1.2 < code) then a + 2 ^ e.2 else a) 0

/-- The logical vault of a physical position, if one stands there. -/
def Chip.vaultAt (c : Chip) (t p : Nat) : Option Nat := (List.range 104).find? fun v => c.vaultPos (vaultKey t v) == p

/-- Any position of a die has a row in force. -/
def Chip.dieAct (c : Chip) (t s i : Nat) : Bool := (List.range 104).any fun p => c.act16 (senKey t s p) i

/-- THR of a vault by Table 16-4 and R478: the strongest of the actions. -/
def Chip.thrOf (c : Chip) (t p : Nat) : Nat :=
  let layers := (List.range c.part.layers).map (· + 1)
  if layers.any fun s => c.act16 (senKey t s p) 2 then 4
  else if (layers.any fun s => c.act16 (senKey t s p) 1 || c.senSusp t s p) || c.dieAct t 0 1 || c.dieAct t 17 1 then 8
  else 16

/-- Set THR of the vault at a position; the first throttling and the release are noticed, and the first is an alert cause (R476, R579). -/
def Chip.setThr (c : Chip) (t p : Nat) : Chip :=
  match c.vaultAt t p with
  | none => c
  | some v =>
    let old := c.rdF (Reg.vaultCtl t v) 32 5
    let thr := c.thrOf t p
    let c := if thr = old then c else c.ownWrF (Reg.vaultCtl t v) 32 5 thr
    let unit := t * 128 + p
    if old = 16 ∧ thr < 16 then (c.notice 0x0403 1 unit (openDetail 0x0403 unit)).alert 2
    else if old < 16 ∧ thr = 16 then c.notice 0x0405 0 unit (openDetail 0x0405 unit)
    else c

/-- The refresh code of a layer at a position: by Table 16-4, one higher while its sensor is suspect (R478). -/
def Chip.setRef (c : Chip) (t s p : Nat) : Chip :=
  let k := senKey t s p
  let base := if c.act16 k 1 then 2 else if c.act16 k 0 then 1 else 0
  let code := if c.senSusp t s p then min 2 (base + 1) else base
  let c := c.wrF (Reg.sensor t s p) 26 2 code
  match c.vaultAt t p with
  | none => c
  | some v => if c.rdF (Reg.vaultCtl t v) (2 * (s - 1)) 2 = code then c else c.ownWrF (Reg.vaultCtl t v) (2 * (s - 1)) 2 code

/-- BGMAX of every cluster of a tower is 4 while the 95 °C action of its base die or mezzanine stands (Table 16-4). -/
def Chip.setBg (c : Chip) (t : Nat) : Chip :=
  let on := c.dieAct t 0 1 || c.dieAct t 17 1
  (List.range 104).foldl (fun c v =>
    let k := vaultKey t v
    let saved := Store.get zeroNat c.sys.power.bgSaved k
    let put (c : Chip) (n : Nat) : Chip := c.onPower fun x => { x with bgSaved := Store.put zeroNat x.bgSaved k n }
    if on ∧ saved = 0 then (put c (c.rdF (Reg.chcCtl t v) 0 6 + 1)).ownWrF (Reg.chcCtl t v) 0 6 4
    else if !on ∧ saved ≠ 0 then (put c 0).ownWrF (Reg.chcCtl t v) 0 6 (saved - 1)
    else c) c

/-- The usher and the hardware act on a changed set of rows at a sensor (R476): refresh and THR for a layer, THR and BGMAX for base die and mezzanine, the drop
for a compute position. -/
def Chip.thermApply (c : Chip) (t s p : Nat) : Chip :=
  if s = 18 then
    let k := t * 104 + p
    let drop := c.act16 (senKey t 18 p) 2
    if c.bit (domReg k) 15 = drop then c else (c.wrF (domReg k) 15 1 (b2n drop)).domsRun [k]
  else if s = 0 ∨ s = 17 then (List.range 104).foldl (fun c p => Chip.setThr c t p) (c.setBg t)
  else (c.setRef t s p).setThr t p

/-- The rows of a sensor follow its governing temperature; each row that starts is a THERM event (Table 19-7). -/
def Chip.thermAct (c : Chip) (t s p : Nat) : Chip :=
  let k := senKey t s p
  let old := Store.get zeroNat c.sys.power.acts k
  let g := c.governing t s p
  let new := actsAt s old g
  let c := c.onPower fun x => { x with acts := Store.put zeroNat x.acts k new }
  let c := if (List.range 3).any fun i => bitOf new i && !bitOf old i then c.event t 422 15 0 (s + p * 32 + g * 65536) else c
  if new = old ∧ !(decide (1 ≤ s) && decide (s ≤ 16)) then c else c.thermApply t s p

/-- The thermal-stop alarm (R479): THERM.STAT names its cause, THERMTRIP_N is asserted; THERMAL_STOP acts on it. -/
def Chip.raiseAlarm (c : Chip) (t s p : Nat) (est : Bool) (code : Nat) : Chip :=
  if c.sys.power.alarm ∨ c.thermStopped then c
  else
    let c := c.wr Reg.thermStat (t * 2 + s * 8 + p * 256 + b2n est * 2 ^ 15 + code * 2 ^ 16)
    let c := c.onPower fun x => { x with alarm := true }
    { c with sys := { c.sys with pins := { c.sys.pins with thermTrip := true } } }

/-- The once-a-ms lowerings of a tower (Table 16-4): a compute position at its 93 °C row by one VSTEP, every powered gallery for base die or mezzanine. -/
def Chip.thermLower (c : Chip) (t : Nat) : Chip :=
  let all := c.dieAct t 0 0 || c.dieAct t 17 0
  let ks := (c.poweredGals t).filter fun k => all || c.act16 (senKey t 18 (k % 104)) 1
  c.setVsets (ks.map fun k => (k, c.rdF (domReg k) 0 4 - 1))

/-- SENSOR_READ (R475, R476, R479): the always-on controller reads sensors of a tower, each as (die, position, code); a sensor reads from −10 °C to 110 °C. -/
def execSensorRead (t : Fin 4) (readings : List (Fin 19 × Fin 104 × Fin 4096)) (s : State) : Host.Outcome State Fault Refusal :=
  s.onChip fun c =>
    if !c.hasTower t.val then c
    else
      let ok := readings.filter fun r => c.hasDie r.1.val && decide (864 ≤ r.2.2.val ∧ r.2.2.val ≤ tcode 110)
      let c := ok.foldl (fun c r => Chip.wrF c (Reg.sensor t.val r.1.val r.2.1.val) 0 12 r.2.2.val) c
      let c := ok.foldl (fun c r => Chip.thermAct c t.val r.1.val r.2.1.val) c
      let c := if ok.isEmpty ∨ c.stopped then c else c.thermLower t.val
      match ok.find? fun r => decide (tcode 105 ≤ r.2.2.val) && !c.senSusp t.val r.1.val r.2.1.val with
      | some r => c.raiseAlarm t.val r.1.val r.2.1.val false r.2.2.val
      | none => c

/-- COMPARATOR_TRIP (R475, R478, R479): a sensor has crossed 105 °C; a suspect one trips nothing. -/
def execComparatorTrip (t : Fin 4) (die : Fin 19) (p : Fin 104) (s : State) : Host.Outcome State Fault Refusal :=
  s.onChip fun c =>
    if !c.hasTower t.val || !c.hasDie die.val || c.senSusp t.val die.val p.val then c
    else c.raiseAlarm t.val die.val p.val false (tcode 105)

/-! ### The layer estimator (R477, R478) -/

/-- The die index of stack position i, counting the dies as they stand (R599). -/
def Chip.dieOf (c : Chip) (i : Nat) : Nat := if i ≤ c.part.layers then i else i - c.part.layers + 16

/-- Heat that crosses the bonds above stack positions lo .. hi − 1, in mW: the sum of Q(k) (R477). -/
def heatSum (pw : List Nat) (lo hi : Nat) : Nat := ((List.range hi).filter (lo ≤ ·)).foldl (fun a k => a + (pw.take (k + 1)).sum) 0

/-- The estimate of the layer at stack position i of a column, to the nearest 1/16 °C, from its trusted neighbours and the column's powers in mW from the base
die up; nothing where the column has no trusted reading. Temperatures are taken in 10⁻⁷ °C, so Rb is 4,386 per mW. DEDUCED: log entry 57. -/
def Chip.estimate (c : Chip) (t p i : Nat) (pw : List Nat) : Option Nat :=
  let top := c.part.layers + 2
  let temp (j : Nat) : Nat := c.senRead t (c.dieOf j) p
  let trusted (j : Nat) : Bool := temp j != 0 && !c.senSusp t (c.dieOf j) p
  let up : Option Int := (([i + 1, i + 2].filter fun j => decide (j ≤ top) && trusted j).head?).map fun a =>
    ((temp a * 625000 + 4386 * heatSum pw i a : Nat) : Int)
  let down : Option Int := (([1, 2].filter fun d => decide (d ≤ i) && trusted (i - d)).head?).map fun d =>
    ((temp (i - d) * 625000 : Nat) : Int) - ((4386 * heatSum pw (i - d) i : Nat) : Int)
  let near (x : Int) : Nat := ((x + 625000) / 1250000).toNat % 4096
  match up, down with
  | some u, some d => some (near (u + d))
  | some u, none => some (near (2 * u))
  | none, some d => some (near (2 * d))
  | none, none =>
    let l := (List.range (top + 1)).filter trusted
    if l.isEmpty then none else some (l.foldl (fun m j => max m (temp j)) 0 + 80)

/-- A layer's sensor agrees or disagrees with its estimate over one period (R478). -/
def Chip.checkSensor (c : Chip) (t s p : Nat) : Chip :=
  let o := Reg.sensor t s p
  let k := senKey t s p
  let unit := t * 128 + p
  let r := c.senRead t s p
  let e := c.senEst t s p
  let bad := decide (e + 96 < r ∨ r + 96 < e)
  let n := if bad then Store.get zeroNat c.sys.power.differ k + 1 else 0
  let m := if bad then 0 else Store.get zeroNat c.sys.power.agree k + 1
  let put (c : Chip) (n m : Nat) : Chip := c.onPower fun x => { x with differ := Store.put zeroNat x.differ k n, agree := Store.put zeroNat x.agree k m }
  if r = 0 then c
  else if c.senSusp t s p then
    if 600000 ≤ m then ((put c 0 0).wrF o 24 2 0).notice 0x0402 0 unit (openDetail 0x0402 k) else put c 0 m
  else if 3 ≤ n then ((put c 0 0).wrF o 24 2 3).notice 0x0401 1 unit (openDetail 0x0401 k)
  else put c n 0

/-- LAYER_ESTIMATE (R477 to R479): one 1 ms period of a column, with the power of each die of it over the last ms in mW, from the base die up. -/
def execLayerEstimate (t : Fin 4) (p : Fin 104) (powers : List Nat) (s : State) : Host.Outcome State Fault Refusal :=
  s.onChip fun c =>
    if !c.hasTower t.val then c
    else
      let layers := (List.range c.part.layers).map (· + 1)
      let d := layers.foldl (fun d i =>
        match Chip.estimate c t.val p.val i powers with
        | some e => (Chip.wrF d (Reg.sensor t.val i p.val) 12 12 e).checkSensor t.val i p.val
        | none => d) c
      let d := layers.foldl (fun d i => Chip.thermAct d t.val i p.val) d
      match layers.find? fun i => decide (tcode 105 ≤ d.senEst t.val i p.val) with
      | some i => d.raiseAlarm t.val i p.val true (d.senEst t.val i p.val)
      | none => d

/-! ### The Bellows (R481 to R485) -/

/-- A write of BELLOWS.GRANT by a source (0 over I3C, 1 the host): it sets G for the next window if SRC names that source (R481). -/
def Chip.grantWrite (c : Chip) (src v mask : Nat) : Chip :=
  let c := c.unlatch Reg.grant
  if c.rdF Reg.bellowsCtl 0 2 ≠ src then c
  else
    let m := field mask 0 32
    let g := (v &&& m) ||| (c.rdF Reg.grant 0 32 &&& (2 ^ 32 - 1 - m))
    (c.wrF Reg.grant 0 32 g).onUsh fun u => { u with grantHold := src == 0 }

/-- GRANT_WRITE (R481). A host's write is dropped before seal and while the module is stopped (R399, R544); one over I3C takes effect (R578). -/
def execGrantWrite (i3c : Bool) (uj : Word) (s : State) : Host.Outcome State Fault Refusal :=
  if i3c then s.onChip fun c => c.grantWrite 0 uj.toNat (2 ^ 32 - 1)
  else s.onHostWrite fun c => c.grantWrite 1 uj.toNat (2 ^ 32 - 1)

/-- A window starts (R482): L := min(L, G / 2) + G, with G as GRANT holds it. The usher writes the ledger's critical word (Table 17-2) here. DEDUCED: log entry 54. -/
def Chip.windowStart (c : Chip) : Chip :=
  let g := c.rdF Reg.grant 0 32
  let l : Int := min c.ledger (g / 2 : Nat) + (g : Nat)
  let c := (c.wr Reg.ledger (wrapInt 64 l)).critWrite 0x20 (wrapInt 64 l)
  c.onUsh fun u => { u with grant := g, winStart := c.now, metered := 0, msDone := 0 }

/-- LEDGER_METER (R482): the metered energy of one ms in µJ. -/
def execLedgerMeter (uj : Nat) (s : State) : Host.Outcome State Fault Refusal :=
  s.onChip fun c =>
    if !c.isSealed then c
    else (c.ledgerAdd (-(uj : Int))).onUsh fun u => { u with metered := u.metered + uj, msDone := u.msDone + 1 }

/-- ⌊log₂ v⌋, at most 31; 0 for 0 (R485). -/
def log2bin (v : Nat) : Nat := min 31 (Nat.log2 v)

/-- A value enters monitor record i (R485). DEDUCED: log entry 59. -/
def Chip.monitorAdd (c : Chip) (i v : Nat) : Chip :=
  let a := c.rdF Reg.monbase 0 40 + 256 * i
  let b := a + 4 * log2bin v
  let v32 := min v (2 ^ 32 - 1)
  let n := c.memNum (a + 136) 8
  let c := c.memWriteNum b 4 (min (c.memNum b 4 + 1) (2 ^ 32 - 1))
  let c := c.memWriteNum (a + 128) 4 (if n = 0 then v32 else min v32 (c.memNum (a + 128) 4))
  let c := c.memWriteNum (a + 132) 4 (max v32 (c.memNum (a + 132) 4))
  let c := c.memWriteNum (a + 136) 8 (min (n + 1) (2 ^ 64 - 1))
  c.memWriteNum (a + 144) 8 (min (c.memNum (a + 144) 8 + v) (2 ^ 64 - 1))

/-- The monitors at a window end: updated with the window's values, or zeroed on request (R485). DEDUCED: log entry 59. -/
def Chip.monitors (c : Chip) (vals : List (Nat × Nat)) : Chip :=
  if c.rdF Reg.monbase 0 40 = 0 then c
  else if c.bit Reg.monctl 0 then
    ((List.range 91).foldl (fun c i => Chip.memWrite c (c.rdF Reg.monbase 0 40 + 256 * i) (leBytes 256 0)) c).wrF Reg.monctl 0 1 0
  else vals.foldl (fun c e => Chip.monitorAdd c e.1 e.2) c

/-- The true-up of a gallery (R482): what its domain's measured energy in µJ exceeds its net charge by. -/
def Chip.trueUp (c : Chip) (k m : Nat) : Chip :=
  if (c.gal k).dom = .off then c
  else
    let excess : Int := (m * microJoule : Nat) - (c.gal k).winCharge
    c.ledgerAdd (-(max 0 excess / microJoule))

/-- What R484 does to the VSETs at a window end, for the ledger after the true-up. -/
def Chip.windowVsets (c : Chip) : Chip :=
  let g := c.ush.grant
  let l := c.ledger
  let all := c.towers.foldl (fun a t => a ++ c.poweredGals t) []
  let floor := c.rdF Reg.vfloor 0 4
  let down := c.rdF Reg.bellowsStat 16 4
  if g = 0xFFFFFFFF then c
  else if l < 0 then
    let low := all.filter fun k => decide (floor < c.rdF (domReg k) 0 4)
    let c := c.setVsets (low.map fun k => (k, c.rdF (domReg k) 0 4 - 1))
    if low.isEmpty then c else c.wrF Reg.bellowsStat 16 4 (min 15 (down + 1))
  else if decide ((g : Int) ≤ 4 * l) && down != 0 then
    let up := all.filter fun k => c.mayRaise k && decide (c.rdF (domReg k) 0 4 < c.ush.policyV)
    let d := c.setVsets (up.map fun k => (k, c.rdF (domReg k) 0 4 + 1))
    if d.withinIlim then d.wrF Reg.bellowsStat 16 4 (down - 1) else c
  else c

/-- BELLOWS_WINDOW_END (R482, R484, R485): the measured energy in µJ of gallery domains over the window, and the values of the monitors as (record, value). -/
def execBellowsWindowEnd (measured : List (GalId × Nat)) (values : List (Fin 91 × DWord)) (s : State) : Host.Outcome State Fault Refusal :=
  s.onChip fun c =>
    if !c.isSealed then c
    else
      let c := measured.foldl (fun c e => Chip.trueUp c (galKey e.1) e.2) c
      let c := c.gals.foldl (fun c e => Chip.onGal c e.1 fun g => { g with winCharge := 0 }) c
      let neg := decide (c.ledger < 0)
      let run := if neg then satAdd 8 (c.rdF Reg.bellowsStat 20 8) 1 else 0
      let c := (c.bump Reg.bellowsStat 0 16 (b2n neg)).wrF Reg.bellowsStat 20 8 run
      let c := c.wrF Reg.bellowsStat 32 32 (c.rdF Reg.bellowsStat 32 32 + 1)
      let c := c.windowVsets
      let c := if run = 10 ∧ c.ush.grant ≠ 0xFFFFFFFF then (c.notice 0x0302 1 (openUnit 0x0302 0) (openDetail 0x0302 0)).alert 3 else c
      let c := c.monitors (values.map fun e => (e.1.val, e.2.toNat))
      let c := c.onUsh fun u => { u with rate := u.metered, firstWin := false }
      c.windowStart

end Sys2Proof.Machine
end

