-- ==== Sys2Proof/Machine/Ras.lean ====
section
/-! DEFINITION. Errors of slices, the error log's scan, retirement and the diagnostic mode (chapter Data Integrity and Fault Handling, R493,
R499 to R508). -/

namespace Sys2Proof.Machine

def Chip.onRas (c : Chip) (f : RasState → RasState) : Chip := { c with sys := { c.sys with ras := f c.sys.ras } }

/-! ### A slice's own storage (R493) -/

/-- SLICE_STORAGE_UE: an uncorrectable error in a way of a slice. A pinned way stays pinned without its line (R340). -/
def execSliceStorageUe (t : Fin 4) (v : Fin 104) (set : Fin 10240) (way : Fin 16) (part : SlicePart) (s : State) : Host.Outcome State Fault Refusal :=
  s.onLive fun c =>
    let sk := vaultKey t.val v.val
    let k := (sk * 10240 + set.val) * 16 + way.val
    match c.way k with
    | none => c
    | some w =>
      let pos := c.vaultPos sk
      let gone : Option CacheWay := if w.pin.isSome then some { w with valid := false, dirty := false } else none
      match part with
      | .data =>
        if !w.valid then c
        else
          let c := c.errLog t.val sk w.line pos (c.linePlace w.line) 7 3 [] none
          c.setWay k (if w.dirty then some { w with poison := true } else gone)
      | .tag =>
        let c := c.errLog t.val sk 0 pos (0, 0, 0) 7 4 [] none
        if w.valid && w.dirty then (c.setWay k gone).addStale sk (.set set.val) else c.setWay k gone
      | .pinBit =>
        let c := c.errLog t.val sk 0 pos (0, 0, 0) 7 4 [] none
        c.setWay k (if w.valid then some { w with pin := none } else none)

/-! ### The reserve (R500) -/

/-- Reserve positions of a tower (R44, R45). -/
def Chip.reservePos (c : Chip) (t : Nat) : List Nat := ((List.range 8).map (· + 96)).filterMap fun v => if c.bit (Reg.vmap t v) 7 then some (c.rdF (Reg.vmap t v) 0 7) else none

/-- A reserve frame, or every frame of a reserve bank, is free. -/
def Chip.reserveFree (c : Chip) (x : FrameId) : Bool :=
  !(c.sys.ras.entries.any fun e => e.dst.meets x) && !c.sys.ras.spent.any (FrameId.meets x)

/-- The free reserve frames, or banks, of a tower. -/
def Chip.reserveList (c : Chip) (t : Nat) (whole : Bool) : List FrameId :=
  let fs := if whole then [0] else [0, 1, 2, 3]
  ((c.reservePos t).flatMap fun p => (List.range c.part.layers).flatMap fun y => (List.range 16).flatMap fun b => fs.map fun f =>
    ({ tower := t, pos := p, layer := y, bank := b, f := f, whole := whole } : FrameId)).filter c.reserveFree

/-! ### Retirement tables (R502) -/

/-- The two copies of a tower's retirement table, by its root. -/
def Chip.retCopies (c : Chip) (t : Nat) : List Nat :=
  match c.critValue (0x50 + 8 * t) with
  | some r => [field r 0 28 * 4096, field r 28 28 * 4096]
  | none => []

/-- The first word of an entry (Table 17-5). -/
def retWord (e : RetEntry) : Nat :=
  (if e.active then 2 else 1) + b2n e.src.whole * 4 + e.src.pos * 2 ^ 4 + e.src.layer * 2 ^ 11 + e.src.bank * 2 ^ 15 + e.src.f * 2 ^ 19
    + e.dst.pos * 2 ^ 32 + e.dst.layer * 2 ^ 39 + e.dst.bank * 2 ^ 43 + e.dst.f * 2 ^ 47

/-- The usher writes an entry's two words into copy A, then copy B. -/
def Chip.retWrite (c : Chip) (t index word : Nat) : Chip :=
  (c.retCopies t).foldl (fun c a => (Chip.memWriteNum c (a + 64 + 16 * index) 8 word).memWriteNum (a + 64 + 16 * index + 8) 8 c.now.toNat) c

/-- The table's entries as its copies hold them: copy A, or B where A does not read. -/
def Chip.retRead (c : Chip) (t : Nat) : List RetEntry :=
  match c.retCopies t with
  | [a, b] =>
    (List.range 8192).filterMap fun i =>
      let at_ := if c.linePoisoned ((a + 64 + 16 * i) / 64) then b else a
      let w := c.memNum (at_ + 64 + 16 * i) 8
      let whole := bitOf w 2
      if field w 0 2 = 1 ∨ field w 0 2 = 2 then
        some { index := i, active := field w 0 2 == 2, asked := false,
               src := { tower := t, pos := field w 4 7, layer := field w 11 4, bank := field w 15 4, f := field w 19 2, whole := whole },
               dst := { tower := t, pos := field w 32 7, layer := field w 39 4, bank := field w 43 4, f := field w 47 2, whole := whole } }
      else none
  | _ => []

/-- A retirement step's log record (R498, R503). -/
def Chip.retLog (c : Chip) (x : FrameId) : Chip := c.errLog x.tower (10000 + x.tower) 0 x.pos (x.layer, x.bank, x.f * 2048) 11 11 [] none

/-! ### What is due (R499, R501) -/

/-- Counts of a frame. -/
def Chip.ceOf (c : Chip) (x : FrameId) (f : Nat) : Nat := Store.get zeroNat c.ush.ce { x with f := f, whole := false }.key
def Chip.ueOf (c : Chip) (x : FrameId) (f : Nat) : Nat := Store.get zeroNat c.sys.ras.ue { x with f := f, whole := false }.key

/-- A retirement of an id is under way, or waits. -/
def Chip.retBusy (c : Chip) (x : FrameId) : Bool :=
  (c.sys.ras.due.any fun d => d.frame.meets x) || c.sys.ras.entries.any fun e => !e.active && e.src.meets x

/-- The bank of a frame is to be retired by policy: two of its frames are, or its CE counts sum to 4 × CETHR. -/
def Chip.bankDue (c : Chip) (x : FrameId) : Bool :=
  let old := c.sys.ras.entries.filter fun e => e.active && e.src.sameBank x
  !(old.any fun e => e.src.whole) && (decide (2 ≤ old.length) || decide (4 * c.rdF Reg.policy 8 8 ≤ ([0, 1, 2, 3].map (c.ceOf x)).sum))

/-- What policy retires after a frame's counts have risen. -/
def Chip.noteFrame (c : Chip) (x : FrameId) : Chip :=
  let bank : FrameId := { x with f := 0, whole := true }
  let add (c : Chip) (y : FrameId) : Chip := if c.retBusy y then c else c.onRas fun r => { r with due := r.due ++ [⟨y, false⟩] }
  if !c.bit Reg.policy 0 then c
  else if c.bankDue x then add c bank
  else if c.rdF Reg.policy 8 8 ≤ c.ceOf x x.f ∨ 1 ≤ c.ueOf x x.f then
    add c (if c.sys.ras.entries.any fun e => e.active && e.src.whole && e.src.sameBank x then bank else x)
  else c

/-- The landings from the lowest up to some layer have all had a lane group retrained: the boundary above is the likely crack (R492). -/
def crackAt (layers : List Nat) : Bool := (List.range 16).any fun n => decide (layers.length = n + 1) && (List.range (n + 1)).all layers.contains

def noLayers : Nat → List Nat := fun _ => []

/-- The usher takes account of one log record. -/
def Chip.scanRecord (c : Chip) (t n : Nat) : Chip :=
  let a := c.rdF (Reg.elbase t) 0 40 + 32 * (n % 65536)
  let c := c.memTouch a 32
  let w := c.memNum (a + 8) 8
  let kind := c.memNum (a + 16) 1
  let x : FrameId := { tower := t, pos := field w 34 7, layer := field w 41 4, bank := field w 45 4, f := field w 49 13 / 2048, whole := false }
  if kind = 1 then (c.onUsh fun u => { u with ce := Store.put zeroNat u.ce x.key (Store.get zeroNat u.ce x.key + 1) }).noteFrame x
  else if 2 ≤ kind ∧ kind ≤ 5 then (c.onRas fun r => { r with ue := Store.put zeroNat r.ue x.key (Store.get zeroNat r.ue x.key + 1) }).noteFrame x
  else if kind = 9 ∧ c.memNum (a + 18) 1 = 1 then
    let k := (t * 128 + x.pos) * 72 + c.memNum (a + 20) 1
    let old := Store.get noLayers c.sys.ras.groups k
    if old.contains x.layer then c
    else
      let new := old ++ [x.layer]
      let c := c.onRas fun r => { r with groups := Store.put noLayers r.groups k new }
      if crackAt new then c.notice 0x020A 1 (t * 128 + x.pos) (openDetail 0x020A k) else c
  else c

/-- ERROR_LOG_SCAN (R499, R501): the usher reads the records written since its last scan. -/
def execErrorLogScan (t : Fin 4) (s : State) : Host.Outcome State Fault Refusal :=
  s.onUsher fun c =>
    if !c.hasTower t.val then c
    else
      let n := c.rdF (Reg.elidx t.val) 0 32
      let from_ := max (Store.get zeroNat c.ush.scan t.val) (n - 65536)
      let c := ((List.range (n - from_)).map (from_ + ·)).foldl (fun c i => Chip.scanRecord c t.val i) c
      c.onUsh fun u => { u with scan := Store.put zeroNat u.scan t.val n }

/-- CE_DECAY (R499): every DECAY hours the CE counts are halved. -/
def execCeDecay (s : State) : Host.Outcome State Fault Refusal :=
  s.onUsher fun c =>
    let h := c.rdF Reg.policy 16 8
    if h = 0 ∨ c.act.toNat < c.sys.ras.decayAt.toNat + h * 3600000000000 then c
    else (c.onUsh fun u => { u with ce := (u.ce.map fun e => (e.1, e.2 / 2)).filter fun e => e.2 != 0 }).onRas fun r => { r with decayAt := c.act }

/-- A write of RETREQ (R501, Table 17-12): ignored while a request moves; refused where it names no populated frame of the tower. DEDUCED: log entry 60. -/
def Chip.retReq (c : Chip) (t v : Nat) : Chip :=
  let whole := bitOf v 17
  let x : FrameId := { tower := t, pos := field v 0 7, layer := field v 7 4, bank := field v 11 4, f := field v 15 2, whole := whole }
  let src : Option FrameId :=
    if 104 ≤ x.pos ∨ c.part.layers ≤ x.layer ∨ (whole ∧ x.f ≠ 0) then none
    else if (c.reservePos t).contains x.pos then (c.sys.ras.entries.find? fun e => e.active && e.dst.meets x).map (·.src)
    else some x
  if c.rdF (Reg.retstat t) 0 2 = 1 then c
  else match src with
    | none => c.wrF (Reg.retstat t) 0 4 15
    | some y => (c.onRas fun r => { r with due := r.due ++ [⟨y, true⟩] }).wrF (Reg.retstat t) 0 4 1

/-- RETREQ: a host's write (R565). -/
def execRetreq (t : Fin 4) (v : Word) (s : State) : Host.Outcome State Fault Refusal :=
  s.onChip fun c =>
    if c.inReset || c.thermStopped then c
    else if c.stopped then c.bump Reg.wstat 16 16 1
    else if c.hasTower t.val then c.retReq t.val v.toNat else c

/-! ### A retirement (R503) -/

/-- A due retirement is impossible: it is logged, noticed, and its request refused for a reason (R501). -/
def Chip.retRefuse (c : Chip) (d : RetDue) (why : Nat) : Chip :=
  let t := d.frame.tower
  let c := (c.retLog d.frame).notice 0x0203 1 t (openDetail 0x0203 t)
  if d.asked then c.wrF (Reg.retstat t) 0 4 (3 + why * 4) else c

/-- Entries that the vault controller at the position of an id would hold with it: a bank absorbs its frames. -/
def Chip.retCount (c : Chip) (x : FrameId) : Nat :=
  (c.sys.ras.entries.filter fun e => e.src.tower == x.tower && e.src.pos == x.pos && !(x.whole && e.src.sameBank x) && e.src != x).length + 1

/-- RETIREMENT_START (R501, R503 steps 1 and 2): the usher takes the first retirement due in a tower, chooses a free destination, writes the entry COPYING and
orders the move; a frame goes as its whole bank where its vault's entries would not fit. -/
def execRetirementStart (t : Fin 4) (s : State) : Host.Outcome State Fault Refusal :=
  s.onUsher fun c =>
    match c.sys.ras.due.find? fun d => d.frame.tower == t.val with
    | none => c
    | some d =>
      let c := c.onRas fun r => { r with due := r.due.erase d }
      let x := if c.retCount d.frame ≤ 128 then d.frame else { d.frame with f := 0, whole := true }
      if 128 < c.retCount x then c.retRefuse d 2
      else
        match c.reserveList t.val x.whole with
        | [] => c.retRefuse d 1
        | y :: ys =>
          let (n, c) := c.pick (ys.length + 1)
          let dst := listGet y (y :: ys) n
          let old := c.sys.ras.entries.find? fun e => e.src == x
          let index := match old with
            | some e => some e.index
            | none => (List.range 8192).find? fun i => !c.sys.ras.entries.any fun e => e.src.tower == t.val && e.index == i
          match index with
          | none => c.retRefuse d 1
          | some i =>
            let e : RetEntry := { index := i, src := x, dst := dst, active := false, asked := d.asked }
            let c := c.onRas fun r => { r with entries := (r.entries.filter fun q => q.src != x) ++ [e],
                                               spent := r.spent ++ (match old with | some q => [q.dst] | none => []) }
            (c.retWrite t.val i (retWord e)).retLog x

/-- The lines of a source that its move may change: those whose code is not in order, or all of them where a bus that they cross has failed lanes (R41). -/
def Chip.retLines (c : Chip) (x : FrameId) (dst : Nat) : List Nat :=
  match c.vaultAt x.tower x.pos with
  | none => []
  | some v =>
    let odd := (c.mem.chk.map (·.1) ++ (c.mem.raw.filter (·.2)).map (·.1)).eraseDups
    let lanes (k : Nat) : Bool := !(Store.get noLanes c.mem.badLanes k).isEmpty
    let all := (List.range (c.towerBytes / 64 / 96)).map (lineAt x.tower v)
    (if lanes (vaultKey x.tower v) || lanes dst then all else odd).filter fun l => (c.frameOf l).meets x

/-- What the move of a source reads of its lines, and whether they are uncorrectable, poisoned or raw (R503 step 2). -/
def Chip.retSeen (c : Chip) (x : FrameId) (dst : Nat) : List (Nat × Line × Bool) :=
  (c.retLines x dst).map fun l => (l, c.vaultData l, c.vaultBad l)

/-- The move of a source to its destination: a line that a decoder corrects is written corrected, one that is uncorrectable, poisoned or raw poisoned, each under its own
address (R503 steps 2 and 3), through the vault controller of the destination once the entry is ACTIVE. Other lines are as they were. -/
def Chip.retMove (c : Chip) (e : RetEntry) : Chip :=
  let c := c.flushQueued fun l => (c.frameOf l).meets e.src
  let dst := match c.vaultAt e.src.tower e.dst.pos with | some v => vaultKey e.src.tower v | none => 0
  let seen := c.retSeen e.src dst
  let gone := if e.src.whole then c.sys.ras.entries.filter fun q => q.src.sameBank e.src && !q.src.whole else []
  let c := c.onRas fun r => { r with entries := (r.entries.filter fun q => !gone.contains q).map fun q => if q = e then { e with active := true } else q }
  seen.foldl (fun c q => Chip.dramWrite c q.1 q.2.1 q.2.2) c

/-- RETIREMENT_MOVE_DONE (R503 steps 3 to 5): the last line is copied; the entry is ACTIVE, the vault controller has it, and the counts follow. A bank absorbs its
retired frames and frees their reserve frames. -/
def execRetirementMoveDone (t : Fin 4) (index : Fin 8192) (s : State) : Host.Outcome State Fault Refusal :=
  s.onUsher fun c =>
    match c.sys.ras.entries.find? fun e => e.src.tower == t.val && e.index == index.val && !e.active with
    | none => c
    | some e =>
      let gone := if e.src.whole then c.sys.ras.entries.filter fun q => q.src.sameBank e.src && !q.src.whole else []
      let c := c.retMove e
      let c := gone.foldl (fun c q => Chip.retWrite c t.val q.index 0) c
      let c := (c.retWrite t.val e.index (retWord { e with active := true })).retLog e.src
      let n := if e.src.whole then 4 else 1
      let fc := Reg.framecnt t.val
      let c := c.wrF fc 16 16 (c.rdF fc 16 16 + gone.length - n)
      let c := c.wrF fc 32 16 (c.rdF fc 32 16 + n - gone.length)
      let c := e.src.frames.foldl (fun c f =>
        let k := { e.src with f := f, whole := false }.key
        (Chip.onUsh c fun u => { u with ce := Store.put zeroNat u.ce k 0 }).onRas fun r => { r with ue := Store.put zeroNat r.ue k 0 }) c
      let unit := t.val * 128 + e.src.pos
      let c := if e.src.whole then c.notice 0x0202 0 unit (openDetail 0x0202 e.src.key) else c.notice 0x0201 0 unit (openDetail 0x0201 e.src.key)
      if e.asked then c.wrF (Reg.retstat t.val) 0 4 2 else c

/-! ### The diagnostic mode (R507, R508) -/

/-- Why a diagnostic operation may not act on DIAGADDR: its status, 0 where it may. -/
def Chip.diagStatus (c : Chip) : Nat :=
  let a := c.rdF Reg.diagaddr 6 34 * 64
  let t := c.rdF Reg.diagctl 1 2
  if !c.bit Reg.diagctl 0 then 1
  else if !c.hasTower t || !c.populated a 64 then 3
  else if a / 2 ^ 38 ≠ t then 1
  else if c.isSealed && (c.rdF (Reg.diagarea t) 0 40 == 0 || a / 2 ^ 21 != c.rdF (Reg.diagarea t) 0 40 / 2 ^ 21) then 1
  else 0

/-- Lines that the raw table of a line's vault holds. -/
def Chip.rawCount (c : Chip) (l : Nat) : Nat := (c.mem.raw.filter fun e => e.2 && lineHome e.1 == lineHome l).length

/-- The stored check symbols of a line, symbol 0 first. -/
def Chip.storedCheck (c : Chip) (l : Nat) : List Nat :=
  List.zipWith (· ^^^ ·) (c.lineDelta l) (rsEncode (l * 64) ((List.range 64).map fun i => field (c.dramData l).toNat (8 * i) 8))

/-- Store data and check symbols of a line as given, and mark it raw. -/
def Chip.rawWrite (c : Chip) (l : Nat) (d : Line) (chk : List Nat) : Chip :=
  let c := c.dramWrite l d false
  let e := rsEncode (l * 64) ((List.range 64).map fun i => field d.toNat (8 * i) 8)
  let delta := BitVec.ofNat 64 (leVal ((List.zipWith (· ^^^ ·) chk e).map fun n => BitVec.ofNat 8 n))
  { c with mem := { c.mem with chk := Store.put zeroDWord c.mem.chk l delta, raw := Store.put noMark c.mem.raw l true } }

/-- The verdict that READRAW reports: its number, and the positions a decode would correct. -/
def diagVerdict (syn : List Nat) : Nat × List Nat :=
  match rsVerdict syn with
  | .clean => (0, [])
  | .ce pos => (1, pos)
  | .ue => (2, [])
  | .addr => (3, (List.range 77).filter fun j => gfEval (bmGo syn 8 0 [1] [1] 0 1 1).1 (gfPow (255 - j)) == 0)
  | .poison => (4, [])

/-- The result register. -/
def Chip.diagResult (c : Chip) (status verdict : Nat) (raw : Bool) (pos : List Nat) : Chip :=
  c.wr Reg.diagres (1 + status * 2 + verdict * 16 + b2n raw * 128 + pos.length * 256 + listGet 0xFF pos 0 * 2 ^ 16 + listGet 0xFF pos 1 * 2 ^ 24
    + listGet 0xFF pos 2 * 2 ^ 32)

/-- A write of DIAGCMD.OP (R508): the line is written back and invalidated in its slice, then the landing controller operates. Reserved operations are ignored. -/
def Chip.diagCmd (c : Chip) (op : Nat) : Chip :=
  let l := c.rdF Reg.diagaddr 6 34
  let st := c.diagStatus
  if op = 0 ∨ 4 < op then c
  else if st ≠ 0 then c.diagResult st 0 false []
  else
    let c := (match c.findWay l with | some k => (c.cleanWay k).setWay k none | none => c).flushQueued (· == l)
    if op = 4 then
      let syn := c.lineSyndromes l []
      let v := diagVerdict syn
      let c' := (List.range 8).foldl (fun x i => Chip.wr x (Reg.diagdata i) (field (c.dramData l).toNat (64 * i) 64)) c
      let c' := c'.wr Reg.diagchk (leVal ((c.storedCheck l).map fun n => BitVec.ofNat 8 n))
      let c' := c'.wr Reg.diagsyn (leVal (syn.map fun n => BitVec.ofNat 8 n))
      c'.diagResult 0 v.1 (Store.get noMark c.mem.raw l) v.2
    else if !Store.get noMark c.mem.raw l && decide (1024 ≤ c.rawCount l) then c.diagResult 2 0 false []
    else
      let d : Line := BitVec.ofNat 512 ((List.range 8).foldl (fun a i => a + c.rd (Reg.diagdata i) * 2 ^ (64 * i)) 0)
      let chk := (List.range 8).map fun i => field (c.rd Reg.diagchk) (8 * i) 8
      (match op with
        | 1 => c.rawWrite l d (c.storedCheck l)
        | 2 => c.rawWrite l (c.dramData l) chk
        | _ => c.rawWrite l d chk).diagResult 0 0 true []

/-- A host's write of DIAGCMD: dropped while the module is stopped (R544). Before seal the mode reaches every populated line (R507). -/
def State.onDiag (s : State) (op : Nat) : Host.Outcome State Fault Refusal :=
  s.onChip fun c => if c.stopped then c.bump Reg.wstat 16 16 1 else c.diagCmd op

def execDiagWdata (s : State) : Host.Outcome State Fault Refusal := s.onDiag 1
def execDiagWcheck (s : State) : Host.Outcome State Fault Refusal := s.onDiag 2
def execDiagWraw (s : State) : Host.Outcome State Fault Refusal := s.onDiag 3
def execDiagReadraw (s : State) : Host.Outcome State Fault Refusal := s.onDiag 4

end Sys2Proof.Machine
end

