-- ==== Sys2Proof/Machine/Reset.lean ====
section
/-! DEFINITION. The resets (chapter Bring-up, Image Loading and Reset): what each kind keeps, the thermal stop, partition and tower resets, the reset pins, and what
starts the takeover by the standby usher. -/

namespace Sys2Proof.Machine

/-! ### Event rings (R550, R552) -/

/-- An entry is written to its unit's ring (unit key tower · 512 + unit). -/
def Chip.ringWrite (c : Chip) (key : Nat) (e : EventEntry) : Chip :=
  let i := Store.get zeroNat c.dbg.ringIdx key
  let a := c.rdF (Reg.evbase (key / 512)) 0 40 + 4096 * (key % 512) + 16 * (i % 256)
  let c := c.memWrite a (leBytes 7 e.time.toNat ++ [e.kind] ++ leBytes 2 e.range.toNat ++ leBytes 6 e.data.toNat)
  { c with dbg := { c.dbg with ringIdx := Store.put zeroNat c.dbg.ringIdx key (i + 1) } }

/-- The staging buffers of the towers whose ring base is set drain into the rings. -/
def Chip.drainEvents (c : Chip) : Chip :=
  let ready (e : Nat × List EventEntry) : Bool := c.rdF (Reg.evbase (e.1 / 512)) 0 40 != 0
  let out := c.dbg.stage.filter ready
  let c := { c with dbg := { c.dbg with stage := c.dbg.stage.filter fun e => !ready e } }
  out.foldl (fun c e => e.2.foldl (fun c x => Chip.ringWrite c e.1 x) c) c

/-! ### What a reset keeps (Table 18-7, and the registers that their chapters mark) -/

/-- The bits of a tower-window register that a warm reset keeps. -/
def warmTower (o : Nat) : Nat :=
  let all := 2 ^ 64 - 1
  if o < 0x808 then all
  else if 0x10200 ≤ o ∧ o < 0x20000 then all
  else if 0x20100 ≤ o ∧ o < 0x30000 then 2
  else if o = 0x30000 then all
  else if o = 0x30010 then 0xFFFFFFFF
  else if 0x40000 ≤ o ∧ o < 0x40800 then 0x700F000F
  else if 0x50000 ≤ o ∧ o < 0x60000 then all
  else if o = 0x6000C then all
  else if 0x80000 ≤ o ∧ o < 0x90000 then (if o % 0x20 = 0 then 0xFFFF * 2 ^ 48 else all)
  else if 0x90000 ≤ o ∧ o < 0xA0000 then 0x1FF * 2 ^ 40
  else if 0xA0000 ≤ o ∧ o < 0x100000 then
    (if o % 0x100 = 8 then 0x3FFFFFFFFF else if o % 0x100 = 0x58 ∨ o % 0x100 = 0x60 then all else 0)
  else 0

/-- The bits of a register that a warm reset keeps: fuse latches, counters since cold reset, and what the always-on controllers hold. DEDUCED: log entry 47. -/
def warmMask (off : Nat) : Nat :=
  let all := 2 ^ 64 - 1
  if off < 0x40 ∧ off ≠ 0x10 then all
  else if off = Reg.epcnt ∨ (Reg.rsvmem 0 ≤ off ∧ off < Reg.rsvmem 4) then all
  else if off = Reg.bringCtl then all
  else if 0x00100020 ≤ off ∧ off < 0x00200000 then all
  else if off = Reg.hifStat then 0xFFFFFF00
  else if off = Reg.hifFeat ∨ off = Reg.jhead ∨ off = Reg.jtail then all
  else if off = Reg.ledger then all
  else if off = Reg.bellowsStat then 0xFFFFFFFF * 2 ^ 32
  else if off = Reg.thermStat then all
  else if off = Reg.cwa then all
  else if off = Reg.twhead ∨ off = Reg.twtail then all
  else if off = Reg.anxctl then 0x1E
  else if off = Reg.wstat then 0xFFFFFFFF * 2 ^ 32
  else if 0x00700100 ≤ off ∧ off < 0x00700200 then (if off % 0x20 = 0x10 ∨ off % 0x20 = 0x18 then all else 0)
  else
    match towerOf off with
    | some t => warmTower (off - Reg.tower t)
    | none => 0

/-- The registers after a warm reset. DEDUCED: log entry 47. -/
def warmRegs (m : Store DWord) : Store DWord :=
  m.foldr (fun e r =>
    let k := BitVec.ofNat 64 (warmMask e.1)
    Store.put regReset r e.1 ((e.2 &&& k) ||| (regReset e.1 &&& ~~~k))) []

/-- The memory path after a reset that loses DRAM: the numbering of lines read, by which free values are drawn, goes on. -/
def MemState.cold (m : MemState) : MemState := { MemState.reset with lineReads := m.lineReads }

/-- The memory path after a reset that keeps DRAM. -/
def MemState.kept (m : MemState) : MemState :=
  { MemState.reset with tested := m.tested, chk := m.chk, staleList := m.staleList, staleOver := m.staleOver, trained := m.trained, drifted := m.drifted,
                        refreshRow := m.refreshRow, lineReads := m.lineReads, logLast := m.logLast }

/-- The host interface after a warm reset: rings reset (R432), the negotiation and the spill areas kept (R424), and with them what was due and the
command store (R538). -/
def HostState.kept (h : HostState) : HostState :=
  { HostState.reset with
    cq := h.cq.foldr (fun e m => Store.put cqDefault m e.1 { CqState.reset with kept := e.2.kept }) []
    interrupts := h.interrupts, accepted := h.accepted, lastSeq := h.lastSeq, negotiated := h.negotiated, areas := h.areas, taken := h.taken
    bar2Out := h.bar2Out, aerPoison := h.aerPoison, aerInternal := h.aerInternal, cfg := h.cfg, msix := h.msix, pba := h.pba, pcie := h.pcie, early := h.early }

/-- The always-on side after a warm reset. -/
def SysState.kept (s : SysState) : SysState :=
  { s with fwEntries := [], modelKeys := []
           power := { s.power with ilimOn := [], staging := [], stageTold := [], measuring := [], bgSaved := [], alarm := false }
           ras := { s.ras with due := [], entries := [] }
           bring := { BringState.reset with everSealed := s.bring.everSealed, hot := s.bring.hot, chosen := s.bring.chosen }
           ha := HaState.reset }

/-- Every vault of the present towers, by key. -/
def Chip.vaultKeys (c : Chip) : List Nat := ((List.range 4).filter c.hasTower).flatMap fun t => (List.range 104).map (t * 104 + ·)

/-- Vaults enter self-refresh, those that are in it already apart. -/
def Chip.vaultsSleep (c : Chip) (ks : List Nat) : Chip :=
  ks.foldl (fun c k => if c.bit (Reg.vaultCtl (k / 104) (k % 104)) 48 then c else c.selfRefreshEnter (k / 104) (k % 104) none) c

/-- The entry of a warm reset (R534): galleries stop, jobs abort, raw lines are poisoned and slices enter self-refresh, and the logic is reset. It ends a
Whistle (R545). The completion records of the jobs are for the usher that runs next (R347). -/
def Chip.warmEnter (c : Chip) : Chip :=
  let c := c.drainEvents
  let c := (c.chc.map (·.1)).foldl Chip.abortJobs { c with gals := [], flight := [], rsigs := [] }
  let c := c.vaultsSleep c.vaultKeys
  let done (m : UsherMsg) : Bool := match m with | .jobDone _ _ _ _ _ _ => true | _ => false
  let regs := warmRegs c.regs
  let regs := if c.ush.grantHold then Store.put regReset regs Reg.grant (BitVec.ofNat 64 (c.rd Reg.grant)) else regs
  { Chip.reset with
    part := c.part, now := c.now, pllLocked := c.pllLocked, free := c.free, regs := regs, fuses := c.fuses, dram := c.dram
    mem := c.mem.kept, opSeq := c.opSeq, hostMem := c.hostMem, host := c.host.kept, sys := c.sys.kept
    reports := c.reports.filter done
    ush := { c.ush with tables := [], stepNet := [], mbox := [], faults := [], spilling := false, rehung := [] }
    lk := { Links.reset with boot := c.lk.boot, met := c.lk.met, annexes := c.lk.annexes, nextAnnex := c.lk.nextAnnex }
    dbg := { c.dbg with whistleReq := 0, whistleHold := false, scanDma := false, watched := [] } }

/-- BOOTID after a power-on or cold reset: another one (Table 15-9). -/
def Chip.nextBoot (c : Chip) : Word := c.lk.boot + 1 + BitVec.ofNat 32 ((Config.bootStep c.free).toNat % (2 ^ 32 - 1))

/-- A cold reset (R532, R540, R583): everything but the fuses, SLOT and FALLBACK; the main-rail enables drop. What the pins carry from outside stays,
and MOD.CAP, which stands until power-on (R569). DEDUCED: log entry 46. -/
def Chip.coldReset (c : Chip) : Chip :=
  let p := c.sys.pins
  let r : Chip :=
    { Chip.reset with
      part := c.part, pllLocked := c.pllLocked, free := c.free + 1, fuses := c.fuses, hostMem := c.hostMem, mem := c.mem.cold
      regs := c.regs.filter fun e => decide (0x20 ≤ e.1 ∧ e.1 < 0x40)
      sys := { SysState.reset with pins := { PinState.reset with coldHeld := p.coldHeld, warmHeld := p.warmHeld, trst := p.trst, strap := p.strap } }
      lk := { Links.reset with boot := c.nextBoot } }
  (r.wrF Reg.bringCtl 0 2 (c.rdF Reg.bringCtl 0 2)).wrF Reg.bringStatus 26 2 1

/-- The warm bring-up begins, unless WARMRST_N is still held (R534, R575). -/
def Chip.warmGo (c : Chip) : Chip := if c.sys.pins.warmHeld then c else c.wrF Reg.bringStatus 6 1 1

/-- A warm reset (R532, R534): a cold one before the first seal; without effect in a thermal stop, which is one already. DEDUCED: log entry 46. -/
def Chip.warmReset (c : Chip) : Chip :=
  if c.inReset || c.thermStopped then c
  else if !c.sys.bring.everSealed then c.coldReset
  else (c.warmEnter.wrF Reg.bringStatus 26 2 2).warmGo

/-! ### Power-on, cold and warm reset -/

/-- POWER_ON_RESET (R532, R574): VSVC rises; the address strap is sampled, and TRST_N stands as the board holds it. -/
def execPowerOnReset (board : Board) (s : State) : Host.Outcome State Fault Refusal :=
  s.onChip fun c =>
    { Chip.reset with
      part := c.part, free := c.free + 1, fuses := c.fuses, hostMem := c.hostMem, mem := c.mem.cold
      sys := { SysState.reset with pins := { PinState.reset with strap := board.strap.val, trst := board.trst } }
      lk := { Links.reset with boot := c.nextBoot } }

/-- COLD_RESET (R532). -/
def execColdReset (s : State) : Host.Outcome State Fault Refusal := s.onChip Chip.coldReset

/-- WARM_RESET (R534). -/
def execWarmReset (s : State) : Host.Outcome State Fault Refusal := s.onChip Chip.warmReset

/-- COLDRST_N (R575): held for 1 µs, it starts a cold reset, which lasts until its release. -/
def execColdrstN (s : State) : Host.Outcome State Fault Refusal :=
  s.onChip fun c => ({ c with sys := { c.sys with pins := { c.sys.pins with coldHeld := true } } }).coldReset

/-- WARMRST_N (R575): held for 1 µs, it starts a warm reset; ignored during a cold reset. -/
def execWarmrstN (s : State) : Host.Outcome State Fault Refusal :=
  s.onChip fun c =>
    if c.inReset then c
    else ({ c with sys := { c.sys with pins := { c.sys.pins with warmHeld := true } } }).warmReset

/-- RESET_INPUT_RELEASE (R575): of COLDRST_N, or of WARMRST_N, at which a warm bring-up that waits begins. -/
def execResetInputRelease (cold : Bool) (s : State) : Host.Outcome State Fault Refusal :=
  s.onChip fun c =>
    if cold then { c with sys := { c.sys with pins := { c.sys.pins with coldHeld := false } } }
    else
      let held := c.sys.pins.warmHeld
      let c := { c with sys := { c.sys with pins := { c.sys.pins with warmHeld := false } } }
      if held && c.sys.bring.everSealed && !c.isSealed && !c.thermStopped then c.warmGo else c

/-- PERST_N (R533): it resets only the endpoint; after seal it is a resync. -/
def execPerstN (s : State) : Host.Outcome State Fault Refusal := s.onChip fun c => if c.isSealed then c.resync else c

/-- The key that BRING.RESET must carry (Table 18-13). -/
def resetKey (key : Half) : Bool := key == 0x5253

/-- A write of BRING.RESET (R532, R534, R535, R538): KIND and TOWER. A tower reset and a takeover are for a sealed module, and a tower reset of
TOWER[0] is a warm reset. -/
def Chip.bringReset (c : Chip) (kind tower : Nat) : Chip :=
  if c.inReset then c
  else
    match kind with
    | 1 => c.coldReset
    | 2 => c.warmReset
    | 3 =>
      if !c.isSealed || !c.hasTower tower then c
      else if tower = 0 then c.warmReset
      else
        let h := c.sys.ha
        let c := { c with sys := { c.sys with ha := { h with towerDue := if h.towerDue.contains tower then h.towerDue else h.towerDue ++ [tower] } } }
        if c.epochState = 3 then c else c.onUsh fun u => { u with cause := true }
    | 4 => if c.isSealed then { c with sys := { c.sys with ha := { c.sys.ha with takeover := true } } } else c
    | _ => c

/-- BRING_RESET_COLD. -/
def execBringResetCold (key : Half) (s : State) : Host.Outcome State Fault Refusal :=
  s.onChip fun c => if resetKey key then c.bringReset 1 0 else c

/-- BRING_RESET_WARM. -/
def execBringResetWarm (key : Half) (s : State) : Host.Outcome State Fault Refusal :=
  s.onChip fun c => if resetKey key then c.bringReset 2 0 else c

/-- BRING_RESET_TOWER. -/
def execBringResetTower (key : Half) (t : Fin 4) (s : State) : Host.Outcome State Fault Refusal :=
  s.onChip fun c => if resetKey key then c.bringReset 3 t.val else c

/-- BRING_RESET_TAKEOVER. -/
def execBringResetTakeover (key : Half) (s : State) : Host.Outcome State Fault Refusal :=
  s.onChip fun c => if resetKey key then c.bringReset 4 0 else c

/-! ### Clock and rails (R572, R582, R583) -/

/-- PLL_LOCK (R572): after power-on the time base starts at 0. -/
def execPllLock (s : State) : Host.Outcome State Fault Refusal :=
  s.onChip fun c => if c.pllLocked then c else { c with pllLocked := true, now := 0 }

def Chip.onPins (c : Chip) (f : PinState → PinState) : Chip := { c with sys := { c.sys with pins := f c.sys.pins } }

/-- Bring-up step n runs, or is the last one started with a state (Table 18-12). -/
def Chip.stepIs (c : Chip) (n st : Nat) : Bool := c.rdF Reg.bringStatus 0 3 == n && c.rdF Reg.bringStatus 3 2 == st

/-- POWER_GOOD_RISE (R582): rails in the order VBASE, VMEZ, VPP_D, VDD_D, VSTK; in step 2 the next enable goes out 200 µs after. -/
def execPowerGoodRise (rail : Fin 5) (s : State) : Host.Outcome State Fault Refusal :=
  s.onChip fun c =>
    let p := c.sys.pins
    if !bitOf p.en rail.val then c
    else
      let c := c.onPins fun p => { p with pg := p.pg ||| 2 ^ rail.val }
      if c.stepIs 2 1 && p.en == 2 ^ (rail.val + 1) - 1 && rail.val != 4 && !bitOf p.pg rail.val then
        let c := c.onPins fun p => { p with en := 2 ^ (rail.val + 2) - 1 }
        { c with sys := { c.sys with bring := { c.sys.bring with enAt := c.now + 200000 } } }
      else c

/-- PG_FAIL (R582, R583): a main rail's power-good falls, or a standby rail leaves its range (none). In step 2 it fails the step; after it, it starts a
cold reset. -/
def execPgFail (rail : Option (Fin 5)) (s : State) : Host.Outcome State Fault Refusal :=
  s.onChip fun c =>
    match rail with
    | none => c.coldReset
    | some r =>
      if !bitOf c.sys.pins.pg r.val then c
      else
        let c := c.onPins fun p => { p with pg := p.pg - 2 ^ r.val }
        if c.stepIs 2 1 && !c.bit Reg.bringStatus 6 then
          { c with sys := { c.sys with bring := { c.sys.bring with fails := c.sys.bring.fails ++ [⟨0, 5, 0, r.val⟩] } } }
        else c.coldReset

/-! ### Thermal stop (R479, R480) -/

/-- THERMAL_STOP: every tower acts on the alarm. -/
def execThermalStop (s : State) : Host.Outcome State Fault Refusal :=
  s.onChip fun c =>
    if !c.sys.power.alarm || c.thermStopped then c
    else
      let on := (List.range 4).filter fun t => c.rdF (corrReg t) 12 3 != 0
      let c := c.warmEnter.wrF Reg.thermStat 0 1 1
      let c := on.foldl (fun c t => (Chip.wrF c (corrReg t) 12 3 1).wrF (corrReg t) 4 4 6) c
      c.alert 1

/-- Some reading or estimate stands above 85 °C. -/
def Chip.tooHot (c : Chip) : Bool :=
  c.regs.any fun e =>
    match towerOf e.1 with
    | some t => decide (Reg.sensor t 0 0 ≤ e.1 ∧ e.1 < Reg.sensor t 19 0)
        && (decide (tcode 85 < field e.2.toNat 0 12) || decide (tcode 85 < field e.2.toNat 12 12))
    | none => false

/-- A write of THERM.CTL.RESUME (R480, R576): at or below 85 °C it completes the warm reset, which is a cold one before the first seal. -/
def Chip.thermResume (c : Chip) : Chip :=
  if !c.thermStopped || c.inReset || c.tooHot then c
  else if !c.sys.bring.everSealed then c.coldReset
  else
    let c := (c.wrF Reg.thermStat 0 1 0).onPins fun p => { p with thermTrip := false }
    let c := { c with sys := { c.sys with bring := { c.sys.bring with hot := true } } }
    (c.wrF Reg.bringStatus 26 2 3).warmGo

/-- THERMAL_RESUME. -/
def execThermalResume (s : State) : Host.Outcome State Fault Refusal := s.onChip Chip.thermResume

end Sys2Proof.Machine
end

