-- ==== Sys2Proof/Machine/Recover.lean ====
section
/-! DEFINITION. What the usher recovers after a warm reset and at a takeover (R319, R396, R494, R497), and the takeover by the standby usher (R538). -/

namespace Sys2Proof.Machine

/-! ### Stale lists (R494) -/

/-- The lines that a stale list of a slice suspects. -/
def Chip.staleLines (c : Chip) (sk : Nat) : List Nat :=
  let t := sk / 104
  let v := sk % 104
  let size := c.towerBytes / 64 / 96
  if Store.get noMark c.mem.staleOver sk then (List.range size).map (lineAt t v)
  else
    (Store.get noStale c.mem.staleList sk).flatMap fun e =>
      match e with
      | .line l => [l]
      | .set n => ((List.range ((size + 10239) / 10240)).map fun i => i * 10240 + n).filterMap fun x => if x < size then some (lineAt t v x) else none

/-- The usher reads every stale list, poisons what it suspects, and clears the lists. -/
def Chip.staleScrub (c : Chip) (ks : List Nat) : Chip :=
  let c := ks.foldl (fun c sk => (Chip.staleLines c sk).foldl Chip.poisonLine c) c
  ks.foldl (fun c sk =>
    { c with mem := { c.mem with staleList := Store.put noStale c.mem.staleList sk [], staleOver := Store.put noMark c.mem.staleOver sk false } }) c

/-! ### Lost critical words (R497) -/

/-- The entries that the journal holds, oldest first. -/
def Chip.journalEntries (c : Chip) : List (List Byte) :=
  let h := c.rdF Reg.jhead 0 48
  (List.range (c.rdF Reg.jtail 0 48 - h)).filterMap fun i =>
    let a := c.rdF Reg.jbase 0 40 + 64 * ((h + i) % 2 ^ 20)
    let e := c.memBytes a 64
    if c.linePoisoned (a / 64) ∨ imN e 0 6 ≠ h + i then none else some e

/-- The fused out rows of a tower, with the fences that the journal records applied. -/
def Chip.journalMap (c : Chip) (t : Nat) : Nat :=
  let fenced := c.journalEntries.filterMap fun e => if imN e 6 1 = 5 ∧ imN e 24 2 = 0x0206 ∧ imN e 28 4 / 128 = t then some (imN e 28 4 % 128) else none
  (List.range 8).foldr (fun col v =>
    let bad := (List.range 13).filter fun r => c.bit (Reg.rctl t (13 * col + r)) 1
    let bad := bad ++ (List.range 13).filter fun r => !bad.contains r && fenced.contains (13 * col + r)
    listGet 12 bad 0 + 16 * listGet 15 bad 1 + 256 * v) 0

/-- The header of a tower's retirement table, by the addresses that the firmware chose (R502). -/
def Chip.retRoot (c : Chip) (t : Nat) : Nat := listGet 0 c.ush.layout.rtabA t / 4096 + listGet 0 c.ush.layout.rtabB t / 4096 * 2 ^ 28

/-- The epoch word that a lost one is rebuilt as. -/
def Chip.epochRebuilt (c : Chip) : Nat :=
  nextEpoch (c.journalEntries.foldl (fun m e => if imN e 6 1 = 4 ∧ imN e 24 1 = 2 then max m (imN e 28 4) else m) 0) + 2 ^ 32

/-- The highest sequence number whose slot holds it, and one. -/
def Chip.tailRebuilt (c : Chip) : Nat :=
  (List.range (2 ^ 20)).foldl (fun m i =>
    let a := c.rdF Reg.jbase 0 40 + 64 * i
    let s := c.memNum a 6
    if !c.linePoisoned (a / 64) && s % 2 ^ 20 == i then max m (s + 1) else m) 1

/-- The usher reads a critical word, and rebuilds a lost one (R496, R497). -/
def Chip.critFix (c : Chip) (off : Nat) (v : Chip → Nat) : Chip :=
  match c.critRead off with
  | (c, some _) => c
  | (c, none) => (c.critWrite off (v c)).notice 0x0204 1 off (openDetail 0x0204 off)

/-- The cloakroom root word. -/
def Chip.rootWord (c : Chip) : Nat := c.ush.layout.header + 2 ^ 40

/-- Every critical word but the epoch word is read; JHEAD and JTAIL follow theirs. -/
def Chip.critAll (c : Chip) : Chip :=
  let c := c.critFix 0x08 Chip.rootWord
  let c := c.critFix 0x18 Chip.tailRebuilt
  let c := c.wrF Reg.jtail 0 48 ((c.critValue 0x18).getD 1)
  let c := c.critFix 0x10 fun c => max 1 (c.rdF Reg.jtail 0 48 - 2 ^ 20)
  let c := c.wrF Reg.jhead 0 48 ((c.critValue 0x10).getD 1)
  let c := c.critFix 0x20 fun _ => 0
  c.towers.foldl (fun c t => (Chip.critFix c (0x30 + 8 * t) fun c => c.journalMap t).critFix (0x50 + 8 * t) fun c => c.retRoot t) c

/-! ### The changeover (R319) -/

/-- A move that the reset found unflipped is done again, with fresh destinations: a MAP move flips, and any other has its copies issued after it. A REHANG for which frames
lack is voided. -/
def Chip.moveAgain (c : Chip) (n : Nat) : Chip :=
  let dst := c.moveDst n
  match c.moveKind n with
  | 1 =>
    match c.liveIdx (BitVec.ofNat 32 (c.moveObj n)) with
    | none => c.memWriteNum (c.moveAddr n + 1) 1 1
    | some i =>
      let held := c.tkRoot i == dst
      let c := if held then c else c.dropTables dst
      match c.rehangTables i with
      | none => (c.putMove n 1 (c.moveObj n) (c.moveSrc n) 0 0).memWriteNum (c.moveAddr n + 1) 1 1
      | some (c, root) =>
        let c := if held then c.dropTables dst else c
        c.putMove n 1 (c.moveObj n) (c.moveSrc n) root 0
  | 2 =>
    let len := c.moveLen n
    let k := (len + 2 ^ 21 - 1) / 2 ^ 21
    let fs := (List.range k).map (dst / 2 ^ 21 + ·)
    match c.nextPlan, (fs.foldl (fun c f => Chip.setFrame c f .free) c).takeFrames (field (c.moveObj n) 4 2) k .held with
    | some p, some (c, f) =>
      let m := c.model p.1
      let c := c.setModel p.1 { m with frames := (m.frames.filter fun x => !fs.contains x) ++ (List.range k).map (f + ·) }
      c.putMove n 2 (c.moveObj n) (c.moveSrc n) (f * 2 ^ 21) len
    | _, _ => c
  | _ => (c.putMove n 3 (c.moveObj n) 0 dst 0).moveFlip n

/-- The changeover after a reset, by STATE of the epoch word; a lost word is rebuilt, and a changeover it may have been in abandoned. The module then
stands in LOADING, in MOVING where copies have to be made again, or in NONE. -/
def Chip.recoverEpoch (c : Chip) : Chip :=
  let r := c.critRead 0
  let w := r.2.getD r.1.epochRebuilt
  let st := field w 32 3
  let c := (r.1.wrF Reg.epoch 0 32 (field w 0 32)).wrF Reg.epoch 32 3 st
  let c := c.onUsh fun u => { u with rehung := [] }
  let crec := field w 36 28 * 4096
  let c := if 3 ≤ st then c.onUsh fun u => { u with moves := if c.memNum crec 4 = 0x4F564843 then c.memNum (crec + 12) 4 else 0 } else c
  let c := if r.2.isSome then c
    else
      let c := (c.critWrite 0 w).notice 0x0204 1 0 (openDetail 0x0204 0)
      (List.range c.ush.moves).foldl (fun c n => if c.voided n || c.flipped n || c.moveKind n != 1 then c else c.memWriteNum (c.moveAddr n + 1) 1 1) c
  if r.2.isNone then ((List.range c.ush.moves).foldl (fun c n => if c.flipped n then c.postFlip n else c) c).movesComplete
  else if st = 0 then c
  else if st ≤ 2 then
    let c := c.onUsh fun u => { u with moves := 0, old := [] }
    let c := c.towers.foldl (fun c t => if c.mapWord t = c.critValue (0x30 + 8 * t) then c else c.addMap t) c
    let c := c.putRecord.setEpoch c.epoch.toNat 3 c.ush.layout.record
    ((List.range c.ush.moves).foldl Chip.moveFlip c).movesComplete
  else
    let c := (List.range c.ush.moves).foldl (fun c n =>
      if c.voided n then c else if c.flipped n then (c.repairFlip n).postFlip n else c.moveAgain n) c
    if (List.range c.ush.moves).all fun n => c.flipped n || c.voided n then
      (if st = 3 then c.movesComplete else c.setEpoch c.epoch.toNat 4 c.ush.layout.record)
    else (c.setEpoch c.epoch.toNat 3 c.ush.layout.record).movesIssue

/-! ### Reference counts and free lists (R319 step 4) -/

/-- The page-table roots that stand: those that descriptors name, and the new ones of moves that are still to flip. -/
def Chip.rootsHeld (c : Chip) : List Nat :=
  let moves := (List.range c.ush.moves).filter fun n => decide (c.epochState = 3) && c.moveKind n == 1 && !c.flipped n && !c.voided n
  (c.liveTickets.map c.tkRoot).filter (· != 0) ++ moves.map c.moveDst

/-- Slot reference counts and the frames of slots, rebuilt from the page tables. -/
def Chip.rebuildCounts (c : Chip) : Chip :=
  let slots := (c.rootsHeld.flatMap c.pagesOf).map fun e => (field e.2.2 0 40, slotClass (field e.2.2 40 4))
  let c := c.onUsh fun u => { u with slots := slots.foldl (fun m e => Store.put zeroNat m e.1 (Store.get zeroNat m e.1 + 1)) [], owed := [] }
  let kept := slots.map fun e => (e.1 / 2 ^ 21, e.2)
  let c := (c.ush.frames.filter fun e => match e.2 with | .slots _ => !kept.any (·.1 == e.1) | _ => false).foldl (fun c e => Chip.setFrame c e.1 .free) c
  kept.foldl (fun c e => if c.frameUse e.1 = .slots e.2 then c else Chip.setFrame c e.1 (.slots e.2)) c

/-- The two copies of every descriptor, stop set, log directory and log of a live ticket are made equal (R361, R367). -/
def Chip.twinsSync (c : Chip) : Chip :=
  let c := (List.range c.ush.freeNext).foldl (fun c i => Chip.twinSync c (c.tkAddr 0 i) (c.tkAddr 1 i) 128) c
  let c := c.ush.stops.foldl (fun c e => Chip.twinSync c (c.stopAddr 0 e.1) (c.stopAddr 1 e.1) 384) c
  c.liveTickets.foldl (fun c i =>
    let c := Chip.twinSync c (c.tk i 0x60 5) (c.tk i 0x68 5) 512
    (List.range ((c.tkNtok i + 16383) / 16384)).foldl (fun c s =>
      Chip.twinSync c (c.segAddr i 0 (16384 * s)) (c.segAddr i 1 (16384 * s)) (4 * min 16384 (c.tkNtok i - 16384 * s))) c) c

/-! ### Tickets (R396) -/

/-- Put an accepted command back in sequence order. -/
def insertCmd (m : HostCmd) : List HostCmd → List HostCmd
  | [] => [m]
  | x :: l => if m.seq.toNat < x.seq.toNat then m :: x :: l else x :: insertCmd m l

/-- What Table 13-8 does to a ticket. -/
def Chip.recoverTicket (c : Chip) (i : Nat) : Chip :=
  let st := c.tkState i
  let c := if c.tkFlag i 0 then c.setFlag i 0 false else c
  let c := if c.tkFlag i 1 then c.spillAbandon i else c
  let ans := (c.aux i).recallAns
  let c := if c.tkFlag i 2 then ((c.recallDrop i).recallStart i none).setAux i fun x => { x with recallAns := ans } else c
  let c := if 5 ≤ st ∧ st ≤ 7 then c.tkPut i 0x28 8 c.now.toNat else c
  match st with
  | 4 => (c.setState i 3 0).setAux i fun x => { x with preempt := false, leave := false, ran := 0 }
  | 8 =>
    match (c.aux i).fork with
    | none => c.releaseDone i
    | some (_, m) =>
      let c := c.releaseDone i
      { c with host := { c.host with accepted := insertCmd m c.host.accepted } }
  | 10 => c.releaseDone i
  | _ => c

/-- The usher's recovery: every critical word, the changeover, then the tickets; completions that disabled rings keep are journalled, and the commands
that may take effect do. -/
def Chip.recover (c : Chip) : Chip :=
  let c := c.critAll
  let c := c.onUsh fun u => { u with tables := [], stepNet := [], mbox := [], spilling := false, lack := false, works := [], stager := none }
  let c := c.liveTickets.foldl (fun c i => c.setAux i fun x => { x with slots := [], pack := none }) c
  let c := c.twinsSync
  let c := c.recoverEpoch.rebuildCounts
  let c := c.liveTickets.foldl Chip.recoverTicket c
  let c := (List.range 256).foldl (fun c q => if c.cqEnabled q then c else (Chip.dropKept c q).setCq q { Chip.cq c q with kept := [] }) c
  c.settle

/-- The journal's RESET entry (Table 14-15): 1 warm reset, 2 takeover. -/
def Chip.journalReset (c : Chip) (what : Nat) : Chip := c.journal 7 0 [BitVec.ofNat 8 what]

/-! ### The takeover (R538) -/

/-- HEARTBEAT_MISSED: ten consecutive heartbeats of the primary have not come. -/
def execHeartbeatMissed (s : State) : Host.Outcome State Fault Refusal :=
  s.onUsher fun c => if c.bit Reg.bringStatus 25 then { c with sys := { c.sys with ha := { c.sys.ha with takeover := true } } } else c

/-- USHER_TAKEOVER: the standby holds every gallery, cancels every chanter job and closes the epoch; once it is closed, it performs a resync, executes the
command store, recovers, and is the primary. -/
def execUsherTakeover (s : State) : Host.Outcome State Fault Refusal :=
  s.onUsher fun c =>
    if !c.sys.ha.takeover || !c.bit Reg.bringStatus 25 then c
    else
      let c := c.gals.foldl (fun c e => Chip.holdGal c e.1) c
      let c := c.chc.foldl (fun c e =>
        let ids := e.2.queue.map recId ++ e.2.chanters.filterMap fun x => x.2.job.map Job.id
        ids.foldl (fun c id => Chip.jobCancel c e.1 id) c) c
      if c.epochState = 1 ∧ c.nextPlan.isSome then c.closingStart
      else if c.epochState = 2 then c
      else
        let c := (c.resync.settle.recover).journalReset 2
        let c := (c.wrF Reg.bringStatus 24 1 1).wrF Reg.bringStatus 25 1 0
        let c := c.notice 0x0802 1 0 (openDetail 0x0802 0)
        { c with sys := { c.sys with ha := { c.sys.ha with takeover := false } } }

end Sys2Proof.Machine
end

