-- ==== Sys2Proof/Machine/Bring.lean ====
section
/-! DEFINITION. The bring-up steps (R515 to R531): fuses, rails, training, self-test, image, firmware broadcast and seal. -/

namespace Sys2Proof.Machine

def Chip.onBring (c : Chip) (f : BringState → BringState) : Chip := { c with sys := { c.sys with bring := f c.sys.bring } }

/-! ### The step machine (R516, R517) -/

/-- STEP, STATE and WARM of BRING.STATUS. -/
def Chip.bStep (c : Chip) : Nat := c.rdF Reg.bringStatus 0 3
def Chip.bState (c : Chip) : Nat := c.rdF Reg.bringStatus 3 2
def Chip.bWarm (c : Chip) : Bool := c.bit Reg.bringStatus 6

/-- Step n comes next: step 1 first, a step after the one before is done; a failed step 3 or 5 once more, in a cold bring-up. DEDUCED: log entry 45. -/
def Chip.stepNext (c : Chip) (n : Nat) : Bool :=
  match c.bState with
  | 0 => n == 1
  | 2 => n == c.bStep + 1
  | 3 => !c.bWarm && n == c.bStep && (n == 3 || n == 5) && !c.sys.bring.retried.contains n
  | _ => false

/-- Step n may start: by a host's write in a cold bring-up, by itself in a warm one. DEDUCED: log entry 44. -/
def Chip.stepMay (c : Chip) (n : Nat) : Bool :=
  !c.inReset && !c.isSealed && !c.stopped && !c.thermStopped && !(c.bWarm && c.sys.pins.warmHeld) && c.stepNext n

/-- A write of BRING.STEP that is out of order. -/
def Chip.stepErr (c : Chip) : Chip := if c.inReset || c.stopped then c else c.wrF Reg.bringStatus 7 1 1

/-- A failure whose code gives no unit, or no detail, that the spec names (log entry 26). -/
def stepFail (t code : Nat) (unit detail : Option Nat) : StepFail :=
  { tower := t, code := code, unit := unit.getD (openUnit (0x10000 + code) t % 2 ^ 16), detail := detail.getD (openDetail (0x10000 + code) t % 2 ^ 32) }

/-- Step n starts, with the failures that it will meet. -/
def Chip.stepBegin (c : Chip) (n : Nat) (fs : List StepFail) : Chip :=
  let again := c.bState == 3
  let v := setField (setField (setField (c.rd Reg.bringStatus) 0 3 n) 3 2 1) 8 16 0
  ((c.wr Reg.bringStatus v).wr Reg.bringFail 0).onBring fun b =>
    { b with began := c.now, fails := fs, retried := if again then b.retried ++ [n] else b.retried }

/-- A BRING.STEP command: it starts step n with its failures, and does its work where there are none. DEDUCED: log entry 44. -/
def State.onStep (s : State) (n : Nat) (fails : Chip → List StepFail) (work : Chip → Chip) : Host.Outcome State Fault Refusal :=
  s.onChip fun c =>
    if !c.stepMay n then c.stepErr
    else
      let fs := fails c
      let c := c.stepBegin n fs
      if fs.isEmpty then work c else c

/-- BRING_STEP_INVALID (R516): a write of a step that is not next, or that comes during a warm bring-up. -/
def execBringStepInvalid (n : Fin 8) (s : State) : Host.Outcome State Fault Refusal :=
  s.onChip fun c => if c.stepMay n.val && !c.bWarm then c else c.stepErr

/-! ### Step 1 (R518, R44, R45, R51 to R53, Table 18-1) -/

/-- Positions of a tower that its fuses name as reserve. -/
def Fuses.named (f : Fuses) (t : Nat) : List Nat :=
  (List.range 104).filter fun p => f.badBus.contains (t, p) || f.badSlice.contains (t, p) || f.badFoot.any fun x => x.1 == t && x.2.1 == p

/-- The eight reserve positions of a tower (R44). -/
def Fuses.reserve (f : Fuses) (t : Nat) : List Nat :=
  let a := f.named t
  let more := (((List.range 8).map fun c => 13 * c + 12).filter fun p => !a.contains p).take (8 - a.length)
  (List.range 104).filter fun p => a.contains p || more.contains p

/-- How many entries of a list a condition picks. -/
def countIf {α : Type} (f : α → Bool) (l : List α) : Nat := (l.filter f).length

/-- The tower of whose fuses a lane path is part. -/
def laneTower : LanePath → Nat
  | .vault t _ | .vaultCommand t _ | .vaultStrobe t _ | .vaultToken t _ | .stair t _ _ | .stairStrobe t _ _ | .stairSide t _ => t.val
  | .bridge b _ | .bridgeStrobe b _ | .bridgeSide b => min (bridgeEnds b.val).1 (bridgeEnds b.val).2

/-- Failed lanes that a path may have fused. -/
def laneFuseMax : LanePath → Nat
  | .vault _ _ => 8
  | _ => 32

/-- A tower's fuses break a limit of Table 18-1. -/
def Fuses.breaks (f : Fuses) (t : Nat) : Bool :=
  listGet 0 f.layers t != f.part.layers
    || ((List.range 8).any fun col => decide (1 < countIf (fun x => x.1 == t && x.2 / 13 == col) f.badGal))
    || decide (8 < (f.named t).length)
    || (f.rowRep.any fun r => r.1 == t && decide (32 < countIf (fun x => x.1 == t && x.2.1 == r.2.1 && x.2.2.1 == r.2.2.1 && x.2.2.2.1 == r.2.2.2.1) f.rowRep))
    || (f.badCh.any fun r => r.1 == t && decide (8 < countIf (fun x => x.1 == t && x.2.1 == r.2.1) f.badCh))
    || f.badLanes.any fun r => laneTower r.1 == t && decide (laneFuseMax r.1 < countIf (fun x => x.1 == r.1) f.badLanes)

/-- OUT rows of the fuses (R19). -/
def Fuses.gmap (f : Fuses) (t : Nat) : Nat :=
  (List.range 8).foldr (fun col v =>
    let out := ((List.range 13).find? fun r => f.badGal.contains (t, 13 * col + r)).getD 12
    out + 15 * 16 + 256 * v) 0

/-- The registers that a tower's fuses load at a cold start. -/
def Chip.loadTower (c : Chip) (f : Fuses) (t : Nat) : Chip :=
  let res := f.reserve t
  let good := (List.range 104).filter fun p => !res.contains p
  let c := (good ++ res).zipIdx.foldl (fun c x => Chip.wr c (Reg.vmap t x.2) (x.1 + b2n (decide (96 ≤ x.2)) * 2 ^ 7)) c
  let c := c.wr (Reg.gmap t) (f.gmap t)
  let c := f.badGal.foldl (fun c x => if x.1 = t then Chip.wrF c (Reg.rctl t x.2) 1 1 1 else c) c
  let c := (List.range 96).foldl (fun c s => Chip.wrF c (Reg.sliceStat t s) 48 1 1) c
  let c := (List.range 104).foldl (fun c v =>
    let bad := (List.range 32).filter fun i => f.badCh.contains (t, v, i)
    Chip.wr c (Reg.chcStat t v) ((bad.map (2 ^ ·)).sum + (32 - bad.length) * 2 ^ 32)) c
  let lost := (res.map fun p =>
    if f.badBus.contains (t, p) then c.part.layers else countIf (fun x => x.1 == t && x.2.1 == p) f.badFoot).sum
  let frames := (8 * c.part.layers - lost) * 64
  let c := c.wr (Reg.framecnt t) (frames + frames * 2 ^ 16)
  c.wr (Reg.fuseSum t) (listGet 0 f.layers t + countIf (fun x => x.1 == t) f.badGal * 2 ^ 5 + (f.named t).length * 2 ^ 9
    + countIf (fun x => x.1 == t) f.badCh * 2 ^ 13 + countIf (fun x => x.1 == t) f.rowRep * 2 ^ 25)

/-- Reserve banks that no retirement may take: those of bad footprints, vault buses and vault controllers. -/
def Fuses.spent (f : Fuses) (layers t : Nat) : List FrameId :=
  (f.reserve t).flatMap fun p => ((List.range layers).filter fun y => f.badBus.contains (t, p) || f.badFoot.contains (t, p, y)).flatMap fun y =>
    (List.range 16).map fun b => { tower := t, pos := p, layer := y, bank := b, f := 0, whole := true }

/-- The words of the module-wide fuses: MOD.CAP, keys. -/
def Chip.loadModule (c : Chip) (f : Fuses) : Chip :=
  let c := { c with part := f.part }
  let c := [0, 1, 2, 3].foldl (fun c k => Chip.wr c (Reg.cap k) (f.part.cap k)) c
  let c := (List.range 4).foldl (fun c k => (List.range 6).foldl (fun c i => Chip.wr c (Reg.bringKey k i) (imN (listGet [] f.keys k) (8 * i) 8)) c) c
  c.wr Reg.bringFuse (f.keyrev.toNat + f.svnmin.toNat * 16)

/-- BASE of a bank (Table 2-6). -/
def Fuses.baseOf (f : Fuses) (t p : Nat) : Nat := ((f.base.find? fun x => x.1 == t && x.2.1 == p).map (·.2.2)).getD 0 % 2 ^ 16

/-- The banks of a tower stand with their fused BASE, not measured. -/
def Chip.unmeasured (c : Chip) (f : Fuses) (t : Nat) : Chip :=
  (List.range 104).foldl (fun c p => Chip.wr c (Reg.bank t p) (f.baseOf t p + 3 * 2 ^ 32)) c

/-- The banks of a tower are measured and classed: those listed as (bank, µΩ, ratio of its worst segment in hundredths, that segment), every other
one at its baseline. DESIGN CHOICE: log entry 61. -/
def Chip.measureBanks (c : Chip) (f : Fuses) (m : List (GalId × Half × Half × Fin 18)) (t : Nat) : Chip :=
  (List.range 104).foldl (fun c p =>
    let base := f.baseOf t p
    match m.find? fun x => galKey x.1 == t * 104 + p with
    | none => Chip.wr c (Reg.bank t p) (base + base * 2 ^ 16)
    | some x => c.wr (Reg.bank t p) (base + x.2.1.toNat * 2 ^ 16 + bankClassOf base x.2.1.toNat x.2.2.1.toNat * 2 ^ 32 + x.2.2.2.val * 2 ^ 34)) c

/-- A main rail that step 1 of a cold bring-up finds high (R518). -/
def Chip.railHigh (c : Chip) (high : Option (Fin 5)) : Bool := high.isSome && !c.bWarm

/-- What step 1 finds wrong: a main rail still high, then by tower its fuses, the layer index, its banks. -/
def Chip.fuseFails (c : Chip) (f : Fuses) (high : Option (Fin 5)) (unread mismatch : List (Fin 4)) (m : List (GalId × Half × Half × Fin 18)) : List StepFail :=
  let ts := (List.range 4).filter fun t => decide (t < f.part.towers)
  (if c.railHigh high then [stepFail 0 1 none (high.map (·.val))] else [])
    ++ (ts.flatMap fun t =>
      if f.breaks t || unread.any (·.val == t) then [stepFail t 4 none none]
      else if mismatch.any (·.val == t) then [stepFail t 2 none none]
      else
        let d := c.measureBanks f m t
        if !c.bWarm && !c.railHigh high && d.banksBreak t then [stepFail t 3 ((List.range 104).find? fun p => d.bankClass (t * 104 + p) == 2) none] else [])

/-- What step 1 does: the fuses' registers, the banks and their worn notices; a warm bring-up reloads the maps alone. With `rail` a main rail stands high, and
no bank is measured (R51). -/
def Chip.fuseWork (c : Chip) (f : Fuses) (rail : Bool) (measured : List (GalId × Half × Half × Fin 18)) : Chip :=
  let c := { c with fuses := some f }
  if c.bWarm then c.towers.foldl (fun c t => Chip.wr c (Reg.gmap t) (f.gmap t)) c
  else
    let c := c.loadModule f
    let c := c.towers.foldl (fun c t => if rail then (Chip.loadTower c f t).unmeasured f t else (Chip.loadTower c f t).measureBanks f measured t) c
    let c := c.onRas fun r => { r with spent := c.towers.flatMap (f.spent c.part.layers) }
    let worn := c.towers.flatMap fun t => ((List.range 104).map (t * 104 + ·)).filter fun k => c.bankClass k == 1
    worn.foldl (fun c k => Chip.healthNote c 2 4 k) c

/-- BRING_STEP_FUSES (R518): the fuses as they read, which never change; a main rail that still stands high after 100 ms; towers in which some word reads
uncorrectable in both copies, and in which the layer index does not match; and the banks measured, in a cold bring-up. -/
def execBringStepFuses (fuses : Fuses) (high : Option (Fin 5)) (unread mismatch : List (Fin 4)) (measured : List (GalId × Half × Half × Fin 18)) (s : State) :
    Host.Outcome State Fault Refusal :=
  let f := s.chip.fuses.getD fuses
  s.onStep 1 (fun c => c.fuseFails f high unread mismatch measured) fun c => c.fuseWork f (c.railHigh high) measured

/-! ### Step 2 (R519, R582) -/

/-- BRING_STEP_RAILS: EN_VBASE is asserted; POWER_GOOD_RISE goes on. In a warm bring-up the rails stand and are checked. `weak` are towers whose corridor cannot reach
VSTEP 6. -/
def execBringStepRails (weak : List (Fin 4)) (s : State) : Host.Outcome State Fault Refusal :=
  s.onStep 2 (fun _ => []) fun c =>
    let c := c.onBring fun b => { b with fails := (weak.filter fun t => c.hasTower t.val).map fun t => stepFail t.val 6 none none, enAt := c.now }
    if c.bWarm then c else c.onPins fun p => { p with en := 1, pg := 0 }

/-- The rails at the end of step 2: they stand, or one is missing 10 ms after its enable; none while one is awaited. -/
def Chip.railsEnd (c : Chip) : Option (List StepFail) :=
  let p := c.sys.pins
  if p.pg = 31 then some []
  else if c.bWarm ∨ c.sys.bring.enAt.toNat + 10000000 ≤ c.now.toNat then some [stepFail 0 5 none ((List.range 5).find? fun r => !bitOf p.pg r)]
  else none

/-! ### Step 3 (R520, R521) -/

/-- Some data group of a vault's bus has no working lane. -/
def Chip.busDead (c : Chip) (t v : Nat) : Option Nat :=
  let bad := Store.get noLanes c.mem.badLanes (vaultKey t v)
  bad.find? fun l => (List.range 8).all fun i => bad.contains (l / 8 * 8 + i)

/-- The lanes of every path trained: those fused bad, and those that fail. -/
def Chip.trainLanes (c : Chip) (lanes : List (LanePath × Fin 4608)) (ts : List Nat) : Chip :=
  let fused := match c.fuses with | some f => f.badLanes | none => []
  (fused ++ lanes.map fun x => (x.1, x.2.val)).foldl (fun c x =>
    if ts.contains (laneTower x.1) && c.hasPath x.1 && decide (x.2 < x.1.lanes) then Chip.mapLane c x.1 x.2 else c) c

/-- What training finds wrong in a tower. -/
def Chip.trainFails (c : Chip) (lanes : List (LanePath × Fin 4608)) (uncal : List (Fin 4 × Fin 104)) (bridges : List (Fin 4)) : List StepFail :=
  let d := c.trainLanes lanes c.towers
  c.towers.flatMap fun t =>
    match ((List.range 96).find? fun v => (d.busDead t v).isSome), uncal.find? fun x => x.1.val == t with
    | some v, _ => [stepFail t 7 (some (c.vaultPos (vaultKey t v))) (d.busDead t v)]
    | none, some x => [stepFail t 7 (some (c.vaultPos (vaultKey t x.2.val))) none]
    | none, none =>
      match (List.range 4).filter (d.stairDead t) with
      | h :: _ :: _ => [stepFail t 8 (some h) none]
      | _ =>
        if c.part == .ihl3t576 && (t == 1 && bridges.contains 0 || t == 2 && bridges.contains 3 || t == 0 && bridges.contains 0 && bridges.contains 3) then
          [stepFail t 8 (some (if t = 2 then 3 else 0)) none]
        else []

/-- A tower's vaults accept requests again after self-refresh: its retirement entries are reloaded (R504), then each landing is checked against the code
it needs now. -/
def Chip.wakeVaults (c : Chip) (codes : List (Fin 4 × Fin 104 × Fin 16 × Byte)) (t : Nat) : Chip :=
  let c := c.onRas fun r => { r with entries := (r.entries.filter fun e => e.src.tower != t) ++ c.retRead t }
  (List.range 104).foldl (fun c v =>
    let need := (List.range 16).map fun y =>
      match codes.find? fun x => x.1.val == t && x.2.1.val == v && x.2.2.1.val == y with
      | some x => x.2.2.2
      | none => Store.get zeroBytes c.mem.trained (vaultKey t v * 16 + y)
    Chip.selfRefreshLeave c t v need) c

/-- What step 3 does: the lanes, the vaults' codes or their wake, the paths and bridges given up, the links. -/
def Chip.trainWork (c : Chip) (lanes : List (LanePath × Fin 4608)) (bridges : List (Fin 4)) (codes : List (Fin 4 × Fin 104 × Fin 16 × Byte))
    (links : List (Fin 5)) : Chip :=
  let c := c.trainLanes lanes c.towers
  let c := if c.bWarm then c.towers.foldl (fun c t => Chip.wakeVaults c codes t) c
    else codes.foldl (fun c x =>
      { c with mem := { c.mem with trained := Store.put zeroBytes c.mem.trained (vaultKey x.1.val x.2.1.val * 16 + x.2.2.1.val) x.2.2.2 } }) c
  let out := c.towers.flatMap fun t => ((List.range 4).filter (c.stairDead t)).map fun h => (t, h)
  let c := out.foldl (fun c k => Chip.stairGone c k.1 k.2) c
  let c := bridges.foldl (fun c b => if c.part.hasBridge b.val then Chip.bridgeGone c b.val else c) c
  ((List.range 5).filter c.part.hasLink).foldl (fun c l =>
    if links.any (·.val == l) then Chip.trainStart c l else (Chip.linkState c l 4).onLink l fun x => { x with downAt := c.act }) c

/-- BRING_STEP_TRAIN (R520, R521): lanes that fail, vaults some landing of which cannot be calibrated, bridges that do not train, the delay codes that
landings need, and the links that end orders 1 to 4 of Table 15-8. -/
def execBringStepTrain (lanes : List (LanePath × Fin 4608)) (uncal : List (Fin 4 × Fin 104)) (bridges : List (Fin 4))
    (codes : List (Fin 4 × Fin 104 × Fin 16 × Byte)) (links : List (Fin 5)) (s : State) : Host.Outcome State Fault Refusal :=
  s.onStep 3 (fun c => c.trainFails lanes uncal bridges) fun c => c.trainWork lanes bridges codes links

/-! ### Step 4 (R506, R522) -/

/-- The frames and banks that a tower retires for lines that fail the self-test. -/
def failedFrames (failing : List FrameId) (t : Nat) : List FrameId :=
  let l := (failing.filter fun x => x.tower == t && !x.whole).eraseDups
  let banks := (l.filter fun x => decide (2 ≤ countIf x.sameBank l)).map fun x => ({ x with f := 0, whole := true } : FrameId)
  banks.eraseDups ++ l.filter fun x => decide (countIf x.sameBank l < 2)

/-- Retire an id without a copy: none where the reserve has no room. -/
def Chip.retireNow (c : Chip) (x : FrameId) : Option Chip :=
  if 128 < c.retCount x then none
  else
    match c.reserveList x.tower x.whole with
    | [] => none
    | y :: ys =>
      let (n, c) := c.pick (ys.length + 1)
      let i := countIf (fun e => e.src.tower == x.tower) c.sys.ras.entries
      some (c.onRas fun r => { r with entries := r.entries ++ [{ index := i, src := x, dst := listGet y (y :: ys) n, active := true, asked := false }] })

/-- Retire every failing frame of a tower; those of reserve positions are given up. -/
def Chip.retireFailed (c : Chip) (failing : List FrameId) (t : Nat) : Option Chip :=
  let (res, mine) := (failedFrames failing t).partition fun x => (c.reservePos t).contains x.pos
  mine.foldl (fun c x => match c with | none => none | some c => c.retireNow x) (some (c.onRas fun r => { r with spent := r.spent ++ res }))

/-- The next populated tower on the ring of R12. -/
def Chip.ringNext (c : Chip) (t : Nat) : Nat :=
  let n := listGet 0 [1, 3, 0, 2] t
  if c.hasTower n then n else if t = 1 then 2 else 0

/-- What step 4 writes for a tower: the root of its retirement table, its two copies, its entries, the counts. -/
def Chip.retTables (c : Chip) (t a b : Nat) : Chip :=
  let c := c.critWrite (0x50 + 8 * t) (a / 4096 + b / 4096 * 2 ^ 28)
  let c := [a, b].foldl (fun c x => Chip.memWrite c x (leBytes 4 0x4C425452 ++ leBytes 2 1 ++ leBytes 58 0 ++ leBytes (16 * 8192) 0)) c
  let es := c.sys.ras.entries.filter fun e => e.src.tower == t
  let c := es.foldl (fun c e => (Chip.retWrite c t e.index (retWord e)).retLog e.src) c
  let n := (es.map fun e => if e.src.whole then 4 else 1).sum
  let fc := Reg.framecnt t
  let lost := ((c.sys.ras.spent.filter fun x => x.tower == t && !x.whole).length) 
  (c.wrF fc 16 16 (c.rdF fc 0 16 - n - lost)).wrF fc 32 16 n

/-- A line fails a pass, or needs correction in it: both are reported (R352), where it does not come back just as the pattern, or its complement, under a good check. -/
def TestFault.fails (x : TestFault) : Bool := x.flips != 0

/-- The frame of a line that the self-test reports (R506). -/
def Chip.testFrame (c : Chip) (x : TestFault) : FrameId :=
  { tower := x.vault.tower.val, pos := c.vaultPos (vaultKey x.vault.tower.val x.vault.vault.val), layer := x.layer.val, bank := x.bank.val,
    f := x.row.val / 2048, whole := false }

/-- The frames with a line that fails. -/
def Chip.testFrames (c : Chip) (lines : List TestFault) : List FrameId := ((lines.filter TestFault.fails).map c.testFrame).eraseDups

/-- The self-test has run over every line (R352): all of DRAM holds the complement of the pattern, and the lines that failed are reported with their pass. -/
def Chip.testRun (c : Chip) (lines : List TestFault) : Chip :=
  ({ c with dram := [], mem := { c.mem with chk := [], raw := [], tested := true } } : Chip).onBring fun b => { b with testLog := lines.filter TestFault.fails }

/-- What step 4 finds wrong: in a warm bring-up the critical area, else by tower a bad code or more failing frames than the reserve takes. -/
def Chip.selftestFails (c : Chip) (lines : List TestFault) (badCode : List (Fin 4 × Fin 104)) : List StepFail :=
  if c.bWarm then (if (c.critValue 0xF8).map (· % 2 ^ 48) = some 0x000157524354 then [] else [stepFail 0 0x0F none none])
  else c.towers.flatMap fun t =>
    match badCode.find? fun x => x.1.val == t with
    | some x => [stepFail t 9 (some (c.vaultPos (vaultKey t x.2.val))) none]
    | none =>
      match c.retireFailed (c.testFrames lines) t with
      | some _ => []
      | none => [stepFail t 9 ((failedFrames (c.testFrames lines) t).head?.map (·.pos)) none]

/-- What step 4 does: the test, the failing frames retired, the critical area, the retirement tables; a warm bring-up checks the roots of the tables. -/
def Chip.selftestWork (c : Chip) (lines : List TestFault) (rtabA rtabB : List Nat) : Chip :=
  if c.bWarm then c.towers.foldl (fun c t => Chip.critFix c (0x50 + 8 * t) fun c => c.retRoot t) c
  else
    let c := c.testRun lines
    let c := c.towers.foldl (fun c t => (Chip.retireFailed c (c.testFrames lines) t).getD c) c
    let c := c.wr Reg.cwa (c.towerBytes - 24576)
    let c := c.onUsh fun u => { u with layout := { u.layout with rtabA := rtabA, rtabB := rtabB } }
    let c := (c.critWrite 0xF8 0x000157524354).critWrite 0 0
    let c := ((c.critWrite 0x10 1).critWrite 0x18 1).critWrite 0x20 0
    let c := c.towers.foldl (fun c t => Chip.critWrite c (0x30 + 8 * t) (c.rd (Reg.gmap t))) c
    c.towers.foldl (fun c t => Chip.retTables c t (listGet 0 rtabA t) (listGet 0 rtabB t)) c

/-- BRING_STEP_SELFTEST (R352, R506, R522): the lines that came back wrong, and the vaults with a bad encoder or decoder; the boot ROM puts the retirement
tables of the towers at `rtabA` and `rtabB`. A warm bring-up tests nothing and checks the critical area and the roots of the tables. -/
def execBringStepSelftest (lines : List TestFault) (badCode : List (Fin 4 × Fin 104)) (rtabA rtabB : List Nat) (s : State) : Host.Outcome State Fault Refusal :=
  s.onStep 4 (fun c => c.selftestFails lines badCode) fun c => c.selftestWork lines rtabA rtabB

/-! ### Step 5 (R523 to R528) -/

/-- The fields whose Reset column reads "image", as (offset, bit, width), of a part. -/
def imageFields (part : Part) : List (Nat × Nat × Nat) :=
  [(Reg.ver, 32, 32), (Reg.jbase, 0, 40), (Reg.monbase, 0, 40), (Reg.bellowsCtl, 0, 2), (Reg.grant, 0, 32), (Reg.cwa, 0, 40), (Reg.twbase, 0, 40),
    (Reg.twsize, 0, 40), (Reg.anxbase, 0, 40), (Reg.node, 0, 8)]
    ++ (((List.range 5).filter part.hasLink).map fun l => (Reg.linkCtl l, 0, 1))
    ++ ((List.range part.towers).flatMap fun t => [(Reg.irbase t, 0, 40), (Reg.elbase t, 0, 40), (Reg.diagarea t, 0, 40), (Reg.evbase t, 0, 40)]
      ++ ((List.range 96).map fun g => (Reg.tower t + 0x100000 + 0x1000 * g + 0xC, 0, 7))
      ++ (List.range 104).map fun p => (Reg.tower t + 0x200000 + 0x1000 * p + 0xC, 0, 7))

/-- The settings of a usher section (Table 18-5), one for each register that each sets: (offset, bit, width, value). -/
def usherSettings (part : Part) (u : List Byte) : List (Nat × Nat × Nat × Nat) :=
  (List.range (imN u 6 2)).flatMap fun i =>
    let o := 256 + 16 * i
    let w := imN u o 4
    let ts := if bitOf w 26 then (List.range part.towers).map Reg.tower else [0]
    ts.map fun b => (b + field w 0 26, imN u (o + 4) 1, imN u (o + 5) 1, imN u (o + 8) 8)

/-- The usher section keeps R527. -/
def usherSectOk (part : Part) (u : List Byte) : Bool :=
  let n := imN u 6 2
  imN u 0 4 == 0x52485355 && imN u 4 2 == 1 && decide (n ≤ 1024) && imN u 8 4 % 4 == 0 && decide (imN u 8 4 ≤ 2 ^ 26) && decide (imN u 12 4 < imN u 8 4)
    && imZero u 208 48 && decide (256 + 16 * n + imN u 8 4 ≤ u.length)
    && ((List.range n).all fun i => imN u (256 + 16 * i) 4 / 2 ^ 27 == 0 && imZero u (262 + 16 * i) 2
      && (!bitOf (imN u (256 + 16 * i) 4) 26 || decide (field (imN u (256 + 16 * i) 4) 0 26 < 0x400000)))
    && (usherSettings part u).all fun x => (imageFields part).contains (x.1, x.2.1, x.2.2.1)

/-- Why a firmware image does not pass: the code and the detail (R524, R526, R527). -/
def Chip.imageFail (c : Chip) (im : List Byte) : Option (Nat × Option Nat) :=
  match sigBad im true c.keyHash (c.rdF Reg.bringFuse 0 4) (c.rdF Reg.bringFuse 4 32) with
  | some n => some (0x0C, some n)
  | none =>
    match imageBad im 1 c.part.bitNo with
    | some n => some (0x0B, some n)
    | none => if usherSectOk c.part (imOne im 1) then none else some (0x0B, none)

/-- The slots in the order they are tried, with their contents. -/
def Chip.slotOrder (c : Chip) (a b : List Byte) : List (Nat × List Byte) :=
  let s := if c.bWarm then c.rdF Reg.bringCtl 2 1 else c.rdF Reg.bringCtl 0 1
  let im (k : Nat) := if k = 0 then a else b
  (s, im s) :: if c.bit Reg.bringCtl 1 && !c.bWarm then [(1 - s, im (1 - s))] else []

/-- R9 lets a setting through: a RW or RWL field takes no reserved encoding and no value outside its range, from the usher either. -/
def settingLegal (x : Nat × Nat × Nat × Nat) : Bool :=
  match regAt x.1 with
  | some d => d.fields.all fun f => f.lo != x.2.1 || !(f.acc == .rw || f.acc == .rwl) || fieldLegal x.1 f (x.2.2.2 % 2 ^ f.len)
  | none => true

/-- One field of a register is set. A value that R9 keeps out of the field leaves it as it was. -/
def Chip.setImage (c : Chip) (x : Nat × Nat × Nat × Nat) : Chip := if x.1 = Reg.ver ∨ Reg.tower 0 + 0x100000 ≤ x.1 ∧ 0x100000 ≤ (x.1 - Reg.tower 0) % 0x400000 then c
  else if x.1 = Reg.grant ∧ c.ush.grantHold ∨ settingLegal x = false then c else c.ownWrF x.1 x.2.1 x.2.2.1 x.2.2.2

/-- The firmware image is in force: its settings, what the firmware gives beside them, its keys and entry points. -/
def Chip.imageLoad (c : Chip) (slot : Nat) (im : List Byte) : Chip :=
  let u := imOne im 1
  let ch := imOne im 3
  let set := usherSettings c.part u
  let given := c.sys.bring.chosen.flatMap fun x => ((imageFields c.part).filter fun f => f.1 == x.1 && !set.any fun y => y.1 == f.1).map fun f =>
    (f.1, f.2.1, f.2.2, field x.2.toNat f.2.1 f.2.2)
  let c := (set ++ given).foldl Chip.setImage c
  let c := (c.wrF Reg.bringCtl 2 1 slot).wrF Reg.ver 32 32 (imN im (sigAt im + 8) 4)
  { c with sys := { c.sys with bring := { c.sys.bring with image := im }, fwEntries := (List.range (imN ch 6 2)).map fun i => imN ch (16 + 4 * i) 4,
                               modelKeys := (List.range 4).map fun i => imB u (16 + 48 * i) 48 } }

/-- The chosen addresses take the retirement tables that the boot ROM placed. -/
def Layout.withTables (y : Layout) (z : Layout) : Layout := { y with rtabA := z.rtabA, rtabB := z.rtabB }

/-- The n bytes at an address lie in tower t, and in frames that the usher owns. -/
def Layout.holds (y : Layout) (t a n : Nat) : Bool :=
  decide (t * 2 ^ 38 ≤ a ∧ a + n ≤ (t + 1) * 2 ^ 38)
    && (List.range ((a % 2 ^ 21 + n + 2 ^ 21 - 1) / 2 ^ 21)).all fun i => y.owned.any fun r => decide (r.1 ≤ a / 2 ^ 21 + i ∧ a / 2 ^ 21 + i < r.1 + r.2)

/-- What the usher places, by tower, alignment, address and length: the header and the copies of the tables and pools in TOWER[0] and TOWER[1] (R360), the changeover record,
the move records and the flip table (R312), and in each tower the row tables and result areas, the shadow memories (R222), the range lists of jobs and the staging area of
spill and recall. -/
def Layout.parts (y : Layout) (part : Part) : List (Nat × Nat × Nat × Nat) :=
  [(0, 4096, y.header, 4096), (1, 4096, y.header + 2 ^ 38, 4096), (0, 2 ^ 21, y.dt0, 2 ^ 27), (1, 2 ^ 21, y.dt1, 2 ^ 27), (0, 128, y.ssp0, 384 * 65536),
   (1, 128, y.ssp1, 384 * 65536), (0, 4096, y.record, 4096), (y.moves / 2 ^ 38, 32, y.moves, 32 * 131072), (y.flips / 2 ^ 38, 24576, y.flips, 24 * 131072)]
    ++ (List.range part.towers).flatMap fun t =>
      let s := listGet (0, 0) y.stage t
      [(t, 65536, listGet 0 y.rows t, 0x100000), (t, 65536, listGet 0 y.result t, 0x40000), (t, 65536, listGet 0 y.shadow t, 8 * 0x420000),
       (t, 64, listGet 0 y.work t, 2 ^ 27), (t, 64, s.1, max s.2 (2 ^ 21))]

/-- Every structure lies in its tower, aligned, in usher-owned frames, and apart from every other. -/
def Layout.ok (y : Layout) (part : Part) : Bool :=
  let l := y.parts part
  l.all (fun x => decide (x.2.2.1 % x.2.1 = 0) && y.holds x.1 x.2.2.1 x.2.2.2) && !anyPair (fun a b => overlap a.2.2.1 a.2.2.2 b.2.2.1 b.2.2.2) l

/-- What step 5 finds wrong: no flash, or no slot that passes. -/
def Chip.imageFails (c : Chip) (flash : Option (List Byte × List Byte)) : List StepFail :=
  match flash with
  | none => [stepFail 0 0x0A none none]
  | some f =>
    let slots := c.slotOrder f.1 f.2
    if slots.any fun x => (c.imageFail x.2).isNone then []
    else (slots.take 1).filterMap fun x => (c.imageFail x.2).map fun e => stepFail 0 e.1 (some x.1) e.2

/-- What step 5 does: the first slot that passes is in force. -/
def Chip.imageWork (c : Chip) (flash : Option (List Byte × List Byte)) (layout : Layout) (chosen : List (Nat × DWord)) : Chip :=
  match flash with
  | none => c
  | some f =>
    match (c.slotOrder f.1 f.2).find? fun x => (c.imageFail x.2).isNone with
    | none => c
    | some (slot, im) =>
      let c := if c.bWarm then c
        else (c.onUsh fun u => { u with layout := layout.withTables u.layout }).onBring fun b => { b with chosen := chosen }
      c.imageLoad slot im

/-- BRING_STEP_IMAGE (R523, R524): the contents of the flash slots (none where the device does not answer, or has no profile 1.0), and what the firmware then chooses: where
its structures lie, as R312, R360 and R600 bound them, and the values of "image" fields that no setting names, by register. -/
def execBringStepImage (flash : Option (List Byte × List Byte)) (layout : Layout) (chosen : List (Nat × DWord)) (s : State) : Host.Outcome State Fault Refusal :=
  if layout.ok s.chip.part then s.onStep 5 (fun c => c.imageFails flash) fun c => c.imageWork flash layout chosen else .next s

/-! ### Step 6 (R528 to R530) -/

/-- The sections that are broadcast: of a gallery, a chanter, the standby usher. -/
def Chip.sectFor (c : Chip) : Receiver → List Byte
  | .gallery _ => imOne c.sys.bring.image 2
  | .chanter _ _ => imOne c.sys.bring.image 3
  | .standby => imOne c.sys.bring.image 1

/-- Chunks of a section. -/
def chunks (s : List Byte) : Nat := (s.length + 4095) / 4096

/-- A receiver of the broadcast: a gallery not fused bad whose domain may be on, an available chanter, the standby. -/
def Chip.receives (c : Chip) : Receiver → Bool
  | .gallery k => c.hasTower (k / 104) && !c.bit (Reg.rctl (k / 104) (k % 104)) 1 && !c.fenced k && c.mayStage k
  | .chanter k i => c.hasTower (k / 104) && decide (i < 32) && !bitOf (c.rdF (Reg.chcStat (k / 104) (k % 104)) 0 32) i
  | .standby => c.hasTower 1

/-- Where a receiver puts byte o of its section, if anywhere. -/
def Chip.sectPut (c : Chip) (who : Receiver) (o : Nat) (b : Byte) : Chip :=
  let s := c.sectFor who
  match who with
  | .gallery k =>
    let n := imN s 8 4
    if o < 16 then c
    else if o < 16 + n then c.onGal k fun g => { g with imem := Memory.setByte g.imem (o - 16) b }
    else c.onGal k fun g => { g with dmem := Memory.setByte g.dmem (0x10000 + (o - 16 - n)) b }
  | .chanter k i => if o < 272 then c else c.onChanter k i fun x => { x with sram := Memory.setByte x.sram (o - 272) b }
  | .standby => c

/-- A gallery's runtime has passed: the word, and the wait on CTR[63] (R528; its register operands are the runtime's own, log entry 27). -/
def Gallery.passed (g : Gallery) : Gallery := { g with dmem := Memory.setNum g.dmem 0x16FF0 4 0x50415353, waiting := some (.waitc 0 63 1) }

/-- A receiver has its whole section. -/
def Chip.sectWhole (c : Chip) (who : Receiver) : Chip :=
  let s := c.sectFor who
  match who with
  | .gallery k =>
    let n := imN s 8 4
    c.onGal k fun g => { g with imem := Memory.setBytes g.imem 0 (imB s 16 n), dmem := Memory.setBytes g.dmem 0x10000 (imB s (16 + n) (imN s 12 4)) }
  | .chanter k i => c.onChanter k i fun x => { x with sram := Memory.setBytes x.sram 0 (imB s 272 (imN s 8 4)) }
  | .standby => c

/-- Every receiver of some towers. -/
def Chip.receivers (c : Chip) (ts : List Nat) : List Receiver :=
  let keys := ts.flatMap fun t => (List.range 104).map (t * 104 + ·)
  ((keys.map Receiver.gallery) ++ (keys.flatMap fun k => (List.range 32).map (Receiver.chanter k)) ++ (if ts.contains 1 then [Receiver.standby] else [])).filter c.receives

/-- A gallery that bring-up fences (R52, R530): the router's part, and NOTICE 0x0206. -/
def Chip.bringFence (c : Chip) (k cause : Nat) : Chip :=
  (c.fenceGallery k cause).notice 0x0206 1 (k / 104 * 128 + k % 104) (openDetail 0x0206 k)

/-- A receiver that the broadcast gives up (R530). -/
def Chip.recvFence (c : Chip) (r : RecvState) : Chip :=
  let c := match r.who with
    | .gallery k => c.bringFence k 4
    | .chanter k i =>
      let st := Reg.chcStat (k / 104) (k % 104)
      if bitOf (c.rdF st 0 32) i then c else (c.wrF st i 1 1).wrF st 32 6 (c.rdF st 32 6 - 1)
    | .standby => c.notice 0x0803 1 1 (openDetail 0x0803 0)
  c.onBring fun b => { b with recv := b.recv.map fun x => if x.who = r.who then { x with fenced := true } else x }

def RecvState.new (who : Receiver) : RecvState :=
  { who := who, data := [], held := [], writeBad := false, answered := false, asked := false, okAt := 0, closed := false, fenced := false }

/-- Galleries on, with the runtime; the chanters with their firmware; `but` names the receivers left out, `weak` the galleries whose runtime does not pass. DEDUCED: log entry 55. -/
def Chip.broadcast (c : Chip) (ts : List Nat) (but : List Receiver) (weak : List Nat) : Chip :=
  let rs := c.receivers ts
  let c := rs.foldl (fun c r => match r with | .gallery k => Chip.galOn c k | _ => c) c
  let c := (rs.filter fun r => !but.contains r).foldl Chip.sectWhole c
  rs.foldl (fun c r => match r with | .gallery k => if but.contains r || weak.contains k then c else c.onGal k Gallery.passed | _ => c) c

/-- What step 6 does at its start: the fences of open banks, and round 1 of the broadcast. DEDUCED: log entry 55. -/
def Chip.castWork (c : Chip) (late : List Receiver) (weak : List GalId) : Chip :=
  let opened := c.towers.flatMap fun t => ((List.range 104).map (t * 104 + ·)).filter fun k => c.bankClass k == 2 && !c.bit (Reg.rctl t (k % 104)) 1
  let c := opened.foldl (fun c k => Chip.bringFence c k 3) c
  let late := late.eraseDups.filter c.receives
  let ks := (weak.map galKey).filter fun k => c.receives (.gallery k) && !late.contains (.gallery k)
  let c := c.broadcast c.towers late ks
  c.onBring fun b => { b with round := 1, endAt := c.now,
                              recv := late.map RecvState.new ++ ks.map fun k => { RecvState.new (.gallery k) with closed := true, okAt := c.now + 1 } }

/-- BRING_STEP_BROADCAST (R529, R530): round 1 reaches every receiver whole but `late`; the runtime of the galleries `weak` does not pass; `started` says that the primary
usher firmware has started. -/
def execBringStepBroadcast (late : List Receiver) (weak : List GalId) (started : Bool) (s : State) : Host.Outcome State Fault Refusal :=
  s.onStep 6 (fun _ => if started then [] else [stepFail 0 0x0E none none]) fun c => c.castWork late weak

/-- Step 6 runs. -/
def Chip.broadcasting (c : Chip) : Bool := c.stepIs 6 1 && c.sys.bring.fails.isEmpty

/-- Change a receiver's record. -/
def Chip.onRecv (c : Chip) (who : Receiver) (f : RecvState → RecvState) : Chip :=
  c.onBring fun b => { b with recv := b.recv.map fun r => if r.who = who then f r else r }

/-- CHUNK_RECEIVE (R529): chunk k reaches a receiver that is still open; with RESTART its bitmap is cleared first. A chunk is left unmarked when its transfer fails (`bad`, and
nothing is written) or a memory write does (`writeBad`); `wrong` are bytes that land with other values, unnoticed, by place in the section. -/
def execChunkReceive (who : Receiver) (k : Nat) (restart bad writeBad : Bool) (wrong : List (Nat × Byte)) (s : State) : Host.Outcome State Fault Refusal :=
  s.onChip fun c =>
    let sect := c.sectFor who
    if !c.broadcasting || !(c.sys.bring.recv.any fun r => r.who == who && !r.closed && !r.fenced) || decide (chunks sect ≤ k) then c
    else
      let c := if restart then c.onRecv who fun r => { r with held := [], data := [], writeBad := false } else c
      if bad then c
      else
        let bytes := (imB sect (4096 * k) 4096).zipIdx.map fun x =>
          let o := 4096 * k + x.2
          (o, match wrong.find? fun w => w.1 == o with | some w => w.2 | none => x.1)
        let c := bytes.foldl (fun c x => Chip.sectPut c who x.1 x.2) c
        c.onRecv who fun r =>
          { r with data := bytes.foldl (fun m x => Memory.setByte m x.1 x.2) r.data, writeBad := r.writeBad || writeBad,
                   held := if writeBad || r.held.contains k then r.held else r.held ++ [k] }

/-- CHUNK_END_RECEIVE (R530): a receiver answers an END. Where its bitmap is full and its digest is the usher's it is closed, and a gallery starts its runtime; `pass` says that
every test of it passes. -/
def execChunkEndReceive (who : Receiver) (pass : Bool) (s : State) : Host.Outcome State Fault Refusal :=
  s.onChip fun c =>
    match c.sys.bring.recv.find? fun r => r.who == who && !r.closed && !r.fenced with
    | none => c
    | some r =>
      if !c.broadcasting then c
      else
        let sect := c.sectFor who
        let full := (List.range (chunks sect)).all r.held.contains
        if full && sha384 (Memory.bytes r.data 0 sect.length) == sha384 sect then
          let c := c.onRecv who fun r => { r with answered := true, closed := true, okAt := c.now + 1 }
          match who with
          | .gallery k => if pass then c.onGal k Gallery.passed else c
          | _ => c
        else c.onRecv who fun r => { r with answered := true }

/-- BROADCAST_ROUND_END (R530): every receiver still open has answered, or 10 ms have passed since the END. The next round sends all chunks again, under RESTART, to a
receiver with a full bitmap and a wrong digest, and to one that gave no answer (`asked`). After round 3 the receivers still open are fenced. -/
def execBroadcastRoundEnd (s : State) : Host.Outcome State Fault Refusal :=
  s.onChip fun c =>
    let b := c.sys.bring
    let open_ := b.recv.filter fun r => !r.closed && !r.fenced
    if !c.broadcasting || open_.isEmpty || !(open_.all (·.answered) || decide (b.endAt.toNat + 10000000 ≤ c.now.toNat)) then c
    else if b.round < 3 then
      c.onBring fun b =>
        { b with round := b.round + 1, endAt := c.now
                 recv := b.recv.map fun r =>
                   if r.closed || r.fenced then r
                   else { r with answered := false, asked := !r.answered || (List.range (chunks (c.sectFor r.who))).all r.held.contains } }
    else open_.foldl Chip.recvFence c

/-- A gallery holds the pass word. -/
def Chip.hasPassed (c : Chip) (k : Nat) : Bool := Memory.num (c.gal k).dmem 0x16FF0 4 == 0x50415353

/-- RUNTIME_TEST_TIMEOUT (R528): no pass word 5 ms after the digest matched. -/
def execRuntimeTestTimeout (g : GalId) (s : State) : Host.Outcome State Fault Refusal :=
  s.onChip fun c =>
    match c.sys.bring.recv.find? fun r => r.who == .gallery (galKey g) && r.closed && !r.fenced with
    | none => c
    | some r => if !c.broadcasting || c.hasPassed (galKey g) || decide (c.now.toNat < r.okAt.toNat - 1 + 5000000) then c else c.recvFence r

/-- Every receiver is closed, its runtime passed, or it is fenced. -/
def Chip.broadcastOver (c : Chip) : Bool :=
  c.sys.bring.recv.all fun r => r.fenced || (r.closed && match r.who with | .gallery k => c.hasPassed k | _ => true)

/-- In a warm bring-up the routers' maps are reloaded from the critical words (Table 8-11). -/
def Chip.warmMaps (c : Chip) : Chip :=
  if c.bWarm then c.towers.foldl (fun c t => Chip.wr c (Reg.gmap t) ((c.critValue (0x30 + 8 * t)).getD (c.rd (Reg.gmap t)))) c else c

/-- The towers some column of which would need a second fallback row (R530). -/
def Chip.mapFails (c : Chip) : List StepFail :=
  c.towers.filterMap fun t => if (c.warmMaps.mapWord t).isSome then none else some (stepFail t 0x0D none none)

/-- The end of step 6: the maps with the fences, the standby ready. -/
def Chip.broadcastEnd (c : Chip) : Chip :=
  let c := c.warmMaps
  let c := c.towers.foldl (fun c t => match c.mapWord t with | some v => if c.critValue (0x30 + 8 * t) = some v then c else c.critWrite (0x30 + 8 * t) v | none => c) c
  c.wrF Reg.bringStatus 25 1 (b2n (c.hasTower 1 && !c.sys.bring.recv.any fun r => r.who == .standby && r.fenced))

/-! ### Step 7 (R531) -/

/-- The MiB of a tower that its usher memory takes (R600): the frames it owns and the critical area's. -/
def Chip.usherMib (c : Chip) (t : Nat) : Nat :=
  2 * countIf (fun f => !c.inPool (t * 2 ^ 17 + f)) (List.range (c.towerBytes / 2 ^ 21))

/-- The counts that stand from seal. -/
def Chip.sealCounts (c : Chip) : Chip :=
  let c := c.towers.foldl (fun c t =>
    let free := countIf (fun f => c.frameFree (t * 2 ^ 17 + f)) (List.range (c.towerBytes / 2 ^ 21))
    (Chip.wr c (Reg.rsvmem t) (c.usherMib t)).wr (Reg.kvfree t) free) c
  (List.range 11).foldl (fun c s =>
    let n := countIf (fun i => c.tkState i == s) (List.range (2 ^ 20))
    Chip.wr c (Reg.tkcnt s) n) c

/-- The cloakroom header (Table 13-1), in both towers. -/
def Chip.putHeader (c : Chip) : Chip :=
  let y := c.ush.layout
  let h := leBytes 4 0x4B524C43 ++ leBytes 4 1 ++ leBytes 8 y.dt0 ++ leBytes 8 y.dt1 ++ leBytes 8 y.ssp0 ++ leBytes 8 y.ssp1 ++ leBytes 4056 0
  (c.memWrite y.header h).memWrite (y.header + 2 ^ 38) h

/-- The descriptor table at an address is written whole: what was stored or cached there is gone (R357). -/
def Chip.tableClear (c : Chip) (a : Nat) : Chip :=
  let here (l : Nat) : Bool := decide (a / 64 ≤ l ∧ l < a / 64 + 2 ^ 21)
  { c with dram := Store.clear c.dram a (2 ^ 27),
           mem := { c.mem with chk := Store.clear c.mem.chk (a / 64) (2 ^ 21), raw := Store.clear c.mem.raw (a / 64) (2 ^ 21),
                               ways := c.mem.ways.filter fun e => match e.2 with | some w => !here w.line | none => true } }

/-- The cloakroom at a cold start (R357, R358, R360): its header, its root, every index FREE with GEN 1. -/
def Chip.cloakInit (c : Chip) : Chip :=
  (((c.tableClear c.ush.layout.dt0).tableClear c.ush.layout.dt1).putHeader.critWrite 0x08 c.rootWord).onUsh fun u => { u with tabled := true, freeNext := 0, freeTail := [] }

/-- What every seal does last (R531, R482): the endpoint opens, SEALED stands, the ledger runs, the notices that waited go out. -/
def Chip.sealNow (c : Chip) : Chip :=
  let c := (c.sealCounts.wrF Reg.bringStatus 5 1 1).onBring fun b => { b with everSealed := true, recv := [] }
  let c := (c.onUsh fun u => { u with firstWin := true, rate := 0 }).windowStart
  c.postEarly

/-- BRING_STEP_SEAL (R531): seal after a cold or power-on reset; it ends with BRING_STEP_DONE. -/
def execBringStepSeal (s : State) : Host.Outcome State Fault Refusal :=
  s.onChip fun c =>
    if !c.stepMay 7 || c.bWarm then c.stepErr
    else
      let c := (c.stepBegin 7 []).cloakInit
      let c := ((c.critWrite 0x10 1).wrF Reg.jhead 0 48 1).critWrite 0x18 1
      c.wrF Reg.jtail 0 48 1

/-! ### The end of a step (R516, R517) -/

/-- The failures with which the step that runs would end now; none while it cannot end. -/
def Chip.stepEnds (c : Chip) : Option (List StepFail) :=
  let fs := c.sys.bring.fails
  if !fs.isEmpty && c.bStep != 2 then some fs
  else
    match c.bStep with
    | 2 =>
      match fs.find? fun x => x.code == 5 with
      | some x => some [x]
      | none => c.railsEnd.map fun l => if l.isEmpty then fs else l
    | 6 => if c.broadcastOver then some c.mapFails else none
    | _ => some []

/-- A step that ends well. -/
def Chip.stepWell (c : Chip) : Chip :=
  let us := (c.now - c.sys.bring.began).toNat / 1000
  let all := (c.towers.map (2 ^ ·)).sum
  let c := ((c.wrF Reg.bringStatus 3 2 2).wrF Reg.bringStatus 16 4 all).wrF Reg.bringStatus 32 32 us
  match c.bStep with
  | 2 => c.towers.foldl (fun c t => (Chip.wrF c (corrReg t) 12 3 1).wrF (corrReg t) 4 4 6) c
  | 6 => c.broadcastEnd
  | 7 => c.sealNow
  | _ => c

/-- A step that fails: STATUS and FAIL; the rails' enables drop in step 2, the galleries go off in step 6. -/
def Chip.stepIll (c : Chip) (fs : List StepFail) : Chip :=
  match fs with
  | [] => c
  | x :: _ =>
    let bad := (c.towers.filter fun t => fs.any (·.tower == t))
    let ok := (c.towers.filter fun t => !bad.contains t)
    let c := ((c.wrF Reg.bringStatus 3 2 3).wrF Reg.bringStatus 8 8 x.code).wrF Reg.bringStatus 16 4 (ok.map (2 ^ ·)).sum
    let c := c.wrF Reg.bringStatus 20 4 (bad.map (2 ^ ·)).sum
    let c := c.wr Reg.bringFail (x.code + x.tower * 2 ^ 8 + x.unit % 2 ^ 16 * 2 ^ 16 + x.detail % 2 ^ 32 * 2 ^ 32)
    let c := if c.bStep = 2 && !c.bWarm then c.onPins fun p => { p with en := 0, pg := 0 } else c
    let c := if c.bStep = 6 then c.gals.foldl (fun c e => Chip.galOff c e.1) c else c
    if c.bWarm then c.notice 0x0801 2 (openUnit 0x0801 x.code) (openDetail 0x0801 x.code) else c

/-- BRING_STEP_DONE (R516): every tower has finished the step. -/
def execBringStepDone (s : State) : Host.Outcome State Fault Refusal :=
  s.onChip fun c =>
    if c.bState ≠ 1 ∨ c.inReset ∨ c.stopped then c
    else
      match c.stepEnds with
      | none => c
      | some [] => c.stepWell
      | some fs => c.stepIll fs

/-! ### Warm seal (R531) -/

/-- A header copy of the cloakroom reads with its MAGIC. -/
def Chip.headerOk (c : Chip) (a : Nat) : Bool := !c.linePoisoned (a / 64) && c.memNum a 4 == 0x4B524C43

/-- The preserved state passes the usher's check. -/
def Chip.keptOk (c : Chip) : Bool :=
  (c.critValue 0xF8).map (· % 2 ^ 48) == some 0x000157524354 && (c.headerOk c.ush.layout.header || c.headerOk (c.ush.layout.header + 2 ^ 38))

/-- WARM_SEAL (R531, R480): step 7 of a warm bring-up. DEDUCED: log entry 45. -/
def execWarmSeal (s : State) : Host.Outcome State Fault Refusal :=
  s.onChip fun c =>
    if !c.bWarm || !c.stepMay 7 then c
    else
      let c := c.stepBegin 7 []
      if !c.keptOk then c.stepIll [stepFail 0 0x0F none none]
      else
        let c := (c.staleScrub c.vaultKeys).recover
        let c := if c.sys.bring.hot then (c.notice 0x0404 2 (openUnit 0x0404 0) (openDetail 0x0404 0)).onBring fun b => { b with hot := false } else c
        (c.journalReset 1).stepWell

end Sys2Proof.Machine
end

