-- ==== Sys2Proof/Machine/Partition.lean ====
section
/-! DEFINITION. Resets of one partition and of one tower (R221, R535 to R537, Tables 18-9, 18-10, 18-14). -/

namespace Sys2Proof.Machine

/-- The links that a tower's base die carries. -/
def Chip.towerLinks (c : Chip) (t : Nat) : List Nat := (List.range 5).filter fun l => c.part.hasLink l && linkTower l == t

/-- The layers of a link above the PHY are reset: it goes down and trains again (Table 18-9). -/
def Chip.linkReset (c : Chip) (l : Nat) : Chip :=
  let c := c.linkDown l
  if c.bit (Reg.linkCtl l) 0 then c.trainStart l else c

/-- Both endpoints of a bridge are reset: no burst is owed. -/
def Chip.bridgeReset (c : Chip) (b : Nat) : Chip := c.bridgeClear b

/-- A requester on the top side of a tower, whose traffic a base-die quiesce leaves alone (R537). -/
def topOf (t : Nat) : Requester → Bool
  | .gallery g => g.tower.val == t
  | .stairTop x => x.val == t
  | _ => false

/-- While a base die quiesces, requests to its tower's slices, but those that `but` leaves alone, and requests whose route crosses the die are answered
retry (R261, R537). -/
def Chip.retryRequests (c : Chip) (t : Nat) (but : Requester → Bool) : Chip :=
  c.retryWhere fun w l => (lineTower l == t && reqTower w == t && !but w) || (c.crossed (reqTower w) l).contains t

/-- A cluster is reset: its jobs end, its chanters and queue are at reset, their SRAM stays; a stage on fallback there stops. DEDUCED: log entry 62. DEDUCED: log entry 84. -/
def Chip.clusterReset (c : Chip) (k : Nat) : Chip :=
  let c := c.abortJobs k
  let x := c.cluster k
  let c := c.setCluster k { Cluster.reset with chanters := x.chanters.map fun e => (e.1, { Chanter.reset with sram := e.2.sram, ecc := e.2.ecc }) }
  let c := ((List.range 8).foldl (fun c i => Chip.wr c (Reg.jobin (k / 104) (k % 104) i) 0) c).wr (Reg.chcCtl (k / 104) (k % 104)) 0x80408
  let g := k / 104 * 104 + c.clusterPos k
  if (c.gal g).shadow then c.onGal g fun x => { x with shadow := false } else c

/-- The operations of chanters that a base die's quiesce keeps from their lines return retry: those on its tower's lines, and those whose route crosses
it (R326, R335). -/
def Chip.retryOps (c : Chip) (t : Nat) : Chip :=
  let hit (k : Nat) (o : ChOp) : Bool :=
    o.st == .queued && (lineTower o.line == t || (lineTower o.line != k / 104 && ((c.bridgeRoute (k / 104) (lineTower o.line) o.line).getD []).contains t))
  c.chc.foldl (fun c e => e.2.chanters.foldl (fun c f =>
    c.onChanter e.1 f.1 fun x => { x with ops := x.ops.map fun o => if hit e.1 o then { o with st := .retry } else o }) c) c

/-- The bottom of a vault's bus is isolated behind its keepers, and the token stays at the top, until it rejoins (R335, R537). -/
def Chip.isolate (c : Chip) (vk : Nat) : Chip := (c.topTakes vk).wrF (Reg.chcStat (vk / 104) (vk % 104)) 51 1 1

/-- The bottom port of a vault's bus has rejoined. -/
def Chip.rejoin (c : Chip) (vk : Nat) : Chip := c.wrF (Reg.chcStat (vk / 104) (vk % 104)) 51 1 0

/-- A base-die quiesce and reset, to the point where every path has rejoined but the links (Table 18-10). -/
def Chip.quiesce (c : Chip) (t : Nat) : Chip :=
  let vs := (List.range 104).map (vaultKey t)
  let c := (vs.foldl Chip.clusterReset c).retryOps t
  let c := vs.foldl Chip.isolate (c.retryRequests t (topOf t))
  let c := ((List.range 4).filter fun b => c.part.hasBridge b && ((bridgeEnds b).1 == t || (bridgeEnds b).2 == t)).foldl Chip.bridgeReset c
  let c := vs.foldl Chip.rejoin ((c.towerLinks t).foldl Chip.linkReset c)
  if t = 0 && c.isSealed then c.resync else c

/-- BASE_DIE_QUIESCE (R537). -/
def execBaseDieQuiesce (t : Fin 4) (s : State) : Host.Outcome State Fault Refusal :=
  s.onChip fun c => if !c.hasTower t.val || c.stopped || c.thermStopped || c.inReset then c else (c.quiesce t.val).settle

/-- A gallery partition reset (R536): the state of R60, its memories kept; its L port stays closed until a stage is loaded (R221), and what was
held for it is refused. -/
def Chip.galReset (c : Chip) (k : Nat) : Chip :=
  let c := if (c.gal k).dom = .retained then c.retainLeave k 6 else c
  let c := c.refuseHeld k c.flight.length
  let c := c.dropXfers fun x => x.answers k
  c.onGal k fun g =>
    { Gallery.reset with imem := g.imem, dmem := g.dmem, spad := g.spad, ecc := g.ecc, dom := g.dom, shadow := g.shadow, lgal := g.lgal,
                         winCharge := g.winCharge }

/-- A slice partition reset (Table 9-12): its dirty lines are written back, unless the vault is in self-refresh already (R258), its logic is reset, its vault
returned from self-refresh. Its counts run on from cold reset (R265). -/
def Chip.sliceReset (c : Chip) (t v : Nat) : Chip :=
  let sk := vaultKey t v
  let c := (c.vaultsSleep [sk]).dropSlice sk
  let c := c.selfRefreshLeave t v ((List.range 16).map fun y => Store.get zeroBytes c.mem.trained (sk * 16 + y))
  if c.usherRuns then c.staleScrub [sk] else c

/-- The available chanters of a cluster whose SRAM is not the firmware that the broadcast left there. -/
def Chip.wrongChanters (c : Chip) (k : Nat) : List Nat :=
  let sect := c.sectFor (.chanter k 0)
  (List.range 32).filter fun i =>
    !bitOf (c.rdF (Reg.chcStat (k / 104) (k % 104)) 0 32) i && decide (17 ≤ sect.length)
      && Memory.bytes (c.chanter k i).sram 0 (imN sect 8 4) != imB sect 272 (imN sect 8 4)

/-- One partition reset (Table 18-9): the module after it, and RESULT. DEDUCED: log entry 62. -/
def Chip.partReset (c : Chip) (t unit index : Nat) : Chip × Nat :=
  let k := t * 104 + index
  let vault := c.vaultAt t index
  if unit = 1 then
    if 104 ≤ index || c.bit (Reg.rctl t index) 1 then (c, 2) else (c.galReset k, 1)
  else if unit = 2 then
    match vault with
    | none => (c, 2)
    | some v =>
      let vk := vaultKey t v
      let c := (c.isolate vk).clusterReset vk
      match c.wrongChanters vk with
      | [] => (c, 1)
      | bad => (if c.usherRuns then bad.foldl (fun c i => Chip.sectWhole c (.chanter vk i)) c else c, 3)
  else if unit = 3 then
    match vault with
    | none => (c, 2)
    | some v => if c.bit (Reg.sliceStat t v) 48 then (c.sliceReset t v, 1) else (c, 2)
  else if unit = 4 then if index < 4 && c.part.hasBridge index then (c.bridgeReset index, 1) else (c, 2)
  else if unit = 5 then if index < 5 && c.part.hasLink index then ((c.linkReset index).settle, 1) else (c, 2)
  else if unit = 6 then ((c.quiesce t).settle, 1)
  else if unit = 7 then if t = 0 then (if c.isSealed then c.resync else c, 1) else (c, 2)
  else
    match index with
    | 0 => (if c.isSealed && c.bit Reg.bringStatus 25 then { c with sys := { c.sys with ha := { c.sys.ha with takeover := true } } } else c, 1)
    | 1 => if c.hasTower 1 then (c.wrF Reg.bringStatus 25 1 0, 1) else (c, 2)
    | _ => (c, 2)

/-- A write of TOWER[t].RST.PART; GO starts the reset (Table 18-14). -/
def Chip.partWrite (c : Chip) (t v mask : Nat) : Chip :=
  match regAt (Reg.rstPart t) with
  | none => c
  | some d =>
    let c := c.unlatch (Reg.rstPart t)
    let c := c.wr (Reg.rstPart t) (regWrite (Reg.rstPart t) d.fields c.isSealed (c.rd (Reg.rstPart t)) v mask)
    let c := c.wrF (Reg.rstPart t) 16 1 0
    let u := c.rdF (Reg.rstPart t) 0 4
    if !bitOf (v % 2 ^ 64) 16 || !bitOf mask 16 || u = 0 || !c.hasTower t then c
    else
      let r := c.partReset t u (c.rdF (Reg.rstPart t) 4 7)
      r.1.wrF (Reg.rstPart t) 18 2 r.2

/-- PARTITION_RESET (R536): a write of RST.PART by the usher or a debug path, or before seal by the host (R565). -/
def execPartitionReset (t : Fin 4) (host : Bool) (v : DWord) (s : State) : Host.Outcome State Fault Refusal :=
  s.onChip fun c =>
    if c.inReset || c.thermStopped || !c.hasTower t.val then c
    else if c.stopped then (if host then c.bump Reg.wstat 16 16 1 else c)
    else if host && c.isSealed then c
    else c.partWrite t.val v.toNat (2 ^ 64 - 1)

/-! ### Tower reset (R535) -/

/-- The tower-window registers of a tower take their reset values, but what a warm reset keeps. -/
def Chip.towerRegs (c : Chip) (t : Nat) : Chip :=
  { c with regs := c.regs.foldr (fun e r =>
      let keep := if towerOf e.1 = some t then BitVec.ofNat 64 (warmMask e.1) else ~~~0
      Store.put regReset r e.1 ((e.2 &&& keep) ||| (regReset e.1 &&& ~~~keep))) [] }

/-- The reset of a tower and its warm steps 1, 3 and 6 (R535 items 2 and 3). Lanes, codes and runtimes are as training left them (log entry 28). -/
def Chip.towerReset (c : Chip) (t : Nat) : Chip :=
  let c := c.quiesce t
  let vaults := (List.range 104).map (t * 104 + ·)
  let c := c.retryRequests t (fun _ => false)
  let c := vaults.foldl Chip.dropSlice (c.vaultsSleep vaults)
  let gmap := c.rd (Reg.gmap t)
  let map := (c.critValue (0x30 + 8 * t)).getD gmap
  let c := { c with gals := c.gals.filter fun e => e.1 / 104 != t
                    flight := c.flight.filter fun x => x.src / 104 != t && x.dtower != t
                    rsigs := c.rsigs.filter fun x => x.src / 104 != t && x.dtower != t }
  let fenced := (List.range 104).filter fun p => c.bit (Reg.rctl t p) 0
  let c := (c.towerRegs t).wr (Reg.gmap t) map
  let c := fenced.foldl (fun c p => Chip.wrF c (Reg.rctl t p) 0 1 1) c
  let c := (c.wrF (corrReg t) 12 3 1).wrF (corrReg t) 4 4 6
  let c := (c.wakeVaults [] t).staleScrub vaults
  let c := c.broadcast [t] [] []
  let c := c.wrF Reg.bringStatus 25 1 (if t = 1 then b2n (!c.bit Reg.bringStatus 24) else c.rdF Reg.bringStatus 25 1)
  let c := c.notice 0x0804 1 (openUnit 0x0804 t) (openDetail 0x0804 t)
  { c with sys := { c.sys with ha := { c.sys.ha with towerDue := c.sys.ha.towerDue.filter (· != t) } } }

/-- TOWER_RESET (R535): in MOVING the usher resets a tower whose reset is due. -/
def execTowerReset (t : Fin 4) (s : State) : Host.Outcome State Fault Refusal :=
  s.onUsher fun c =>
    if c.sys.ha.towerDue.contains t.val && (c.epochState == 3 || c.epochState == 0) then (c.towerReset t.val).settle else c

end Sys2Proof.Machine
end

