-- ==== Sys2Proof/Machine/Faults.lean ====
section
/-! DEFINITION. What the usher does about the faults of galleries and clusters, about weights that read uncorrectable, and about a tower that it must fence
(R510 to R513). -/

namespace Sys2Proof.Machine

/-! ### Gallery faults (R510) -/

/-- What Table 17-7 orders for a report: a restart, whose repetition within 1 s fences the gallery; a restart once the map has shifted; a restart, three failures of which mark
the plan faulty; a fence; a restart of the cluster at a physical position. DEDUCED: log entry 49. -/
inductive FaultAct where
  | again (k : Nat)
  | shifted (k : Nat)
  | stage (k : Nat)
  | fence (k : Nat)
  | cluster (k : Nat)
  deriving DecidableEq, Repr

/-- The row of Table 17-7 that a report meets. DEDUCED: log entry 49. -/
def faultAct : UsherMsg → Option FaultAct
  | .trap k dbl _ cause _ _ _ _ _ =>
    if dbl then some (.fence k)
    else if cause.toNat ≤ 11 ∨ 24 ≤ cause.toNat ∧ cause.toNat ≤ 27 then some (.stage k) else none
  | .chanterTrap k _ dbl _ _ _ _ _ _ => if dbl then some (.cluster k) else none
  | .queueFault k q st _ =>
    if [2, 4, 5, 0x14, 0x15, 0x16].contains st || (st == 0x12 && (q == 1 || q == 2)) then some (.again k)
    else if st = 0x13 then some (.shifted k)
    else if st = 1 ∨ 0x10 ≤ st ∧ st ≤ 0x12 then some (.stage k)
    else none
  | .machineCheck k _ _ => some (.fence k)
  | _ => none

/-- The unaccepted results of the steps in flight are discarded: their rows are in no row table, and will be in the next one. -/
def Chip.dropSteps (c : Chip) : Chip :=
  let gone := c.ush.tables.filter fun t => !t.accepted
  let ws := gone.foldl (fun (l : List Word) t => l ++ t.rows.map (·.ticket)) []
  let c := c.onUsh fun u => { u with tables := u.tables.filter (·.accepted) }
  ws.eraseDups.foldl (fun c w => match Chip.liveIdx c w with | some i => c.boundary i | none => c) c

/-- Nothing that a gallery does can go on: fenced, held, or waiting. -/
def Chip.stands (c : Chip) (k : Nat) : Bool := c.fenced k || (c.gal k).halt || (c.gal k).waiting.isSome

/-- The queues of a gallery that starts anew within an epoch: empty, with the counts of the run before, whose descriptors are discarded
(R73, R91: an issue index counts since the epoch opened). -/
def Gallery.keepIssued (g old : Gallery) : Gallery :=
  (List.range 5).foldl (fun g q =>
    let v := old.queue q
    g.setQueue q { entries := [], issued := v.issued, done := v.done + BitVec.ofNat 32 v.entries.length, halted := false }) g

/-- The step restarts, the skips of the run that is given up earning no credit (R196): the galleries of the plan being held, the stage of gallery k is loaded anew, at the step that the next mailbox names (log entry 29). -/
def Chip.restart (c : Chip) (k : Nat) : Chip :=
  match c.curPlan with
  | none => c
  | some pl =>
    match (c.placed pl.2).find? fun x => x.1 == k with
    | none => c
    | some x =>
      match stageOf (c.model pl.1).image x.2.2.2 with
      | none => c
      | some s =>
        let old := c.gal k
        let c := c.dropSteps.onUsh fun u => { u with mbox := u.mbox.filter fun m => m.1 != k }
        let (c, ok) := c.stageLoad pl.1 pl.2 s x.2.1 x.2.2.1 k x.2.2.2
        if !ok then c.usherFence k 5
        else
          let n := c.ush.batch
          let c := c.onGal k fun g => { g.keepIssued old with gstep := BitVec.ofNat 32 (n - 1), stepped := decide (n ≠ 0), ctr := Store.put zeroWord g.ctr 63 (BitVec.ofNat 32 n) }
          c.planRelease.settle

/-- The plan that runs is marked faulty (R510): the usher goes back to the plan of the model before it, if there is one. -/
def Chip.planFaulty (c : Chip) : Chip :=
  match c.ush.plan with
  | none => c
  | some pl =>
    let c := (c.onUsh fun u => { u with faulty := u.faulty ++ [pl] }).notice 0x0208 2 pl.2 (openDetail 0x0208 pl.2)
    match c.ush.prev, c.ush.sel with
    | some q, some s =>
      if q.1 ≠ pl.1 ∨ s.midx ≠ q.1 ∨ c.ush.faulty.contains q then c
      else
        let ph := plPhase (c.planSect q)
        let s := match ph with | 0 => { s with pplan := q.2 } | 1 => { s with dplan := q.2 } | _ => { s with tplan := q.2 }
        (c.onUsh fun u => { u with sel := some s, want := ph }).changeoverDue
    | _, _ => c

/-- A fault for which the step restarts: first every gallery of the plan is held, then, once the others stand, the step restarts. -/
def Chip.holdRestart (c : Chip) (k : Nat) (drop : Chip → Chip) (f : Chip → Chip) : Chip :=
  if c.epochState ≠ 1 ∨ !c.planGals.contains k ∨ c.fenced k then drop c
  else if c.planGals.any fun g => !(c.gal g).hold then c.planGals.foldl Chip.holdGal c
  else if c.planGals.all fun g => g == k || c.stands g then f (drop c)
  else c

/-- GALLERY_FAULT (R510): the usher acts on the first report that Table 17-7 answers. It leaves the list once it has been answered. -/
def execGalleryFault (s : State) : Host.Outcome State Fault Refusal :=
  s.onUsher fun c =>
    match c.reports.find? fun m => (faultAct m).isSome with
    | none => c
    | some m =>
      let drop (c : Chip) : Chip := { c with reports := c.reports.erase m }
      match faultAct m with
      | none => c
      | some (.fence k) => (drop c).usherFence k 5
      | some (.shifted _) => (drop c).dropSteps
      | some (.cluster p) =>
        match c.vaultAt (p / 104) (p % 104) with
        | none => drop c
        | some v =>
          let k := vaultKey (p / 104) v
          if (c.cluster k).chanters.any fun e => e.2.job.isSome then c.ownWrF (Reg.chcCtl (p / 104) v) 32 1 1
          else (drop c).clusterReset k
      | some (.again k) =>
        c.holdRestart k drop fun c =>
          let now := c.act
          let twice := c.ush.faults.any fun x => x.1 == k && decide ((now - x.2).toNat ≤ 1000000000)
          let c := c.onUsh fun u => { u with faults := (u.faults.filter fun x => x.1 != k) ++ [(k, now)] }
          if twice then c.usherFence k 5 else c.restart k
      | some (.stage k) =>
        c.holdRestart k drop fun c =>
          if (c.gal k).restarts < 3 then c.restart k |>.onGal k fun g => { g with restarts := g.restarts + 1 }
          else c.dropSteps.planRelease.planFaulty

/-! ### Weights (R511) -/

/-- WEIGHT_UE (R32): the usher reloads 64 KiB of a weight section of a model, a line of which reads uncorrectable: from the partner of a link that has the same model loaded, or else from
the host. -/
def execWeightUe (m : Fin 8) (sid off : Nat) (partner : Option (Fin 5)) (s : State) : Host.Outcome State Fault Refusal :=
  s.onUsher fun c =>
    let o := off / 65536 * 65536
    let n := min 65536 (c.sectLeft m.val sid o)
    let bad := (c.model m.val).weights.any fun w => w.1 == sid && c.memPoisoned (w.2.2 + o) n
    if !c.loaded m.val || n = 0 || !bad || (c.model m.val).reload.contains (sid, o) then c
    else
      let c := c.setModel m.val { c.model m.val with reload := (c.model m.val).reload ++ [(sid, o)] }
      match partner with
      | some l =>
        if c.linkUp l.val then
          ({ c with lk := { c.lk with asked := c.lk.asked ++ [((c.partner l.val).1, m.val)] } }).sendMsg l.val 4 true (.ask (c.partner l.val).1 m.val) (leBytes 4 (c.modelId m.val))
        else c.weightNotice m.val sid o
      | none => c.weightNotice m.val sid o

/-! ### Fencing a tower (R512, R513) -/

/-- A cause for which the usher fences a tower (R48, R201, R259, R469, R473). -/
def Chip.towerBad (c : Chip) (t : Nat) : Bool :=
  decide (2 ≤ ((List.range 4).filter fun h => Store.get noMark c.mem.stairOut (t * 4 + h)).length)
    || (c.mapWord t).isNone
    || (c.part == .ihl3t576 && (t == 1 && Store.get noMark c.mem.bridgeOut 0 || t == 2 && Store.get noMark c.mem.bridgeOut 3))
    || (corridorCap (48 - Store.get zeroNat c.sys.power.corrFail t)).isNone
    || c.banksBreak t

/-- The head map that the usher goes by names only towers that it has not fenced (R512). DEDUCED: log entry 50. -/
def Chip.mapServes (c : Chip) (im : List Byte) : Bool :=
  !headMapNone im c.nTow && (List.range (mdlHeads im)).all fun k => c.workTowers.contains (imN (headMap im c.nTow) k 1 % 4)

/-- A decode plan of the selected model that runs on the towers left. -/
def Chip.planLeft (c : Chip) (s : Selection) : Option (Nat × Chip) :=
  let im := (c.model s.midx).image
  let ids := (imPlans im).map fun p => imN p 4 2
  match (ids.filter fun i => c.selectionOk { s with dplan := i, pplan := 0xFFFF, tplan := 0xFFFF }) with
  | [] => none
  | l => if c.mapServes im then some (let r := c.pick l.length; (listGet 0 l r.1, r.2)) else none

/-- The page indices of a ticket that a fenced tower costs it: those of pages in the tower, where its memory does not answer; and those of remote chunks. DEDUCED: log entry 50. -/
def Chip.towerLost (c : Chip) (i t : Nat) (answers : Bool) : List Nat :=
  let far := (c.remotesOf (c.tkRoot i)).flatMap fun e => (List.range 64).map (e.2.1 * 64 + ·)
  let here := if answers then [] else (c.pagesOf (c.tkRoot i)).filterMap fun e => if field e.2.2 0 40 / 2 ^ 38 = t then some (e.1.k * 64 + e.1.page) else none
  ((far ++ here).filter fun k => decide (k * 128 < c.npos i)).eraseDups

/-- TOWER_FENCE (R512, R513): the usher fences a tower for which a cause stands; `answers` says that its memory still answers. With TOWER[0] every session ends. -/
def execTowerFence (t : Fin 4) (answers : Bool) (s : State) : Host.Outcome State Fault Refusal :=
  s.onUsher fun c =>
    if !c.hasTower t.val || c.ush.tdown.contains t.val || !c.towerBad t.val then c
    else
      let c := (c.onUsh fun u => { u with tdown := u.tdown ++ [t.val] }).notice 0x0207 2 t.val (openDetail 0x0207 t.val)
      if t.val = 0 then
        (c.liveTickets.foldl (fun c i => if c.tkState i = 10 then c else ((c.flushRunning i).postDone i 10 0 none).retire i []) c).settle
      else
        match c.ush.sel with
        | none => c
        | some s =>
          match c.planLeft s with
          | some (d, c) =>
            let keep (p : Nat) : Nat := if c.selectionOk { s with dplan := d, pplan := p, tplan := 0xFFFF } then p else 0xFFFF
            let c := c.liveTickets.foldl (fun c i =>
              if c.tkRoot i = 0 ∨ c.tkState i = 7 ∨ c.tkState i = 10 ∨ c.tkModel i ≠ s.midx then c
              else
                let idx := c.towerLost i t.val answers
                let c := c.setFlag i 4 false
                if idx.isEmpty then c else c.recoverStart i (c.model (c.tkModel i)).image idx) c
            ((c.onUsh fun u => { u with sel := some { s with dplan := d, pplan := keep s.pplan, tplan := 0xFFFF }, want := 1 }).changeoverDue).settle
          | none => c.onUsh fun u => { u with sel := none }

end Sys2Proof.Machine
end

