-- ==== Sys2Proof/Machine/Debug.lean ====
section
/-! DEFINITION. The debug chapter: the Whistle, scan access over JTAG and the PCIe window, range counters, tensor watches and the crash annex (R541 to R561). -/

namespace Sys2Proof.Machine

/-! ### The Whistle (R541 to R546) -/

/-- A matrix core drains for the Whistle (R125). -/
def Gallery.whistleMx (g : Gallery) (now : DWord) (c3 : Nat) (train : Bool) (at_ : MxLimit) (flush : Nat) : Gallery :=
  if g.mx.stopped then g
  else
    let ask := g.mx.stopReq
    let g := if (g.queue 0).halted then g
      else (g.runArray c3 (fun o => decide (0x10 ≤ o ∧ o ≤ 0x14)) (some at_)).runFlush c3 train (some flush)
    let g := g.mxStop now 2
    { g with mx := { g.mx with stopReq := ask } }

/-- A WHISTLE event in every tower (Table 19-7). -/
def Chip.whistleEvent (c : Chip) (stop : Bool) (cause : Nat) : Chip := c.towers.foldl (fun c t => Chip.event c t 422 12 0 (b2n stop + cause * 256)) c

/-- The module stops for causes (R542): every matrix core has drained to where `mx` says, or to where its descriptor stood. -/
def Chip.whistleStop (c : Chip) (cause : Nat) (mx : List MxStand) : Chip :=
  let c3 := srC3 0 c.epoch
  let c := (c.gals.filter fun e => e.2.dom == .up).foldl (fun c e =>
    let at_ := mx.find? fun m => galKey m.gal == e.1
    Chip.onGal c e.1 fun g => g.whistleMx c.act c3 c.part.hasTrain
      (match at_ with | some m => ⟨m.tile.val, m.row.toNat, m.inLoad⟩ | none => ⟨0, 0, false⟩) (match at_ with | some m => m.flush.val | none => 0)) c
  let c := { c with dbg := { c.dbg with whistleReq := 0 } }
  let c := (((c.wrF Reg.wstat 0 1 1).wrF Reg.wstat 1 1 0).wrF Reg.wstat 2 8 cause).bump Reg.wstat 32 32 1
  c.whistleEvent true cause

/-- WHISTLE (R541 to R543): a request stands and no bring-up step runs. -/
def execWhistle (mx : List MxStand) (s : State) : Host.Outcome State Fault Refusal :=
  s.onChip fun c =>
    if c.dbg.whistleReq = 0 || c.stopped || c.inReset || c.thermStopped || c.rdF Reg.bringStatus 3 2 == 1 then c
    else c.whistleStop c.dbg.whistleReq.toNat mx

/-- A request from a source, by its bit of CAUSE. -/
def Chip.askWhistle (c : Chip) (i : Nat) : Chip := if c.inReset then c else c.requestWhistle i

/-- WHISTLE_REQ: a write of 1 to WCTL.REQ. -/
def execWhistleReq (s : State) : Host.Outcome State Fault Refusal := s.onChip fun c => c.askWhistle 0

/-- WHISTLE_N (R575): held for 10 ns. -/
def execWhistleN (s : State) : Host.Outcome State Fault Refusal := s.onChip fun c => c.askWhistle 2

/-- The galleries of the plan leave a hold that a watch kept (R556). -/
def Chip.watchRelease (c : Chip) : Chip :=
  let c := { c with dbg := { c.dbg with whistleHold := false, watched := [] } }
  if c.epochState = 1 then c.planRelease else c

/-- RESUME (R546): ignored while CAUSE holds the fatal cause. CAUSE stays until the next stop (log entry 30). -/
def Chip.whistleEnd (c : Chip) : Chip :=
  if !c.stopped || c.bit Reg.wstat 6 then c
  else
    let cause := c.rdF Reg.wstat 2 8
    let c := c.wrF Reg.wstat 0 1 0
    let c := (c.gals.filter fun e => e.2.mx.stopped && e.2.mx.cause == 2).foldl (fun c e => Chip.onGal c e.1 fun g => g.mxGo c.act) c
    let c := c.whistleEvent false cause
    let c := if c.dbg.whistleHold then c.watchRelease else c
    let c := (List.range 256).foldl (fun c q => c.postKept q (c.cq q).kept.length) c
    ((List.range 5).foldl (fun c l => if c.part.hasLink l then Chip.pump c l else c) c).settle

/-- WHISTLE_RESUME: a write of 1 to WCTL.RESUME. -/
def execWhistleResume (s : State) : Host.Outcome State Fault Refusal := s.onChip Chip.whistleEnd

/-! ### Scan records (R547, Tables 19-2, 19-3) -/

/-- A word of a vector core's registers in the layout of Table 6-8. -/
def VCore.scan (v : VCore) (o : Nat) : Word :=
  if o = 0 then 0x56585356
  else if o = 4 then 1
  else if o < 0x80 then 0
  else if o < 0x41080 then v.word ((o - 0x80) / 4)
  else if o < 0x410C0 then BitVec.ofNat 32 (field (v.mask ((o - 0x41080) / 16)).toNat (8 * (o % 16)) 32)
  else 0

/-- The bytes of a marker stack: 8 ids from the bottom, then the depth. -/
def marksBytes (l : List Half) : List Byte :=
  ((l.reverse.flatMap fun m => leBytes 2 m.toNat) ++ leBytes 16 0).take 16 ++ [BitVec.ofNat 8 l.length] ++ leBytes 15 0

/-- The marker stack that bytes spell. -/
def marksOf (b : List Byte) : List Half :=
  ((List.range (min 8 (listGet 0 b 16).toNat)).map fun i => BitVec.ofNat 16 (leVal ((b.drop (2 * i)).take 2))).reverse

/-- The word at an offset of a gallery's record, the offset being a multiple of 4. -/
def Chip.galScan (c : Chip) (k o : Nat) : Word :=
  let g := c.gal k
  if o = 0 then g.hart.pc
  else if o < 0x80 then g.hart.get (o / 4)
  else if o < 0xA0 then BitVec.ofNat 32 (leVal (((marksBytes g.marks).drop (o - 0x80)).take 4))
  else if 0x100 ≤ o ∧ o < 0x200 then g.counter ((o - 0x100) / 4)
  else if 0x4000 ≤ o ∧ o < 0x8000 then (g.csrRead k ((o - 0x4000) / 4)).getD 0
  else if 0x8000 ≤ o ∧ o < 0x9400 then
    match (g.queue ((o - 0x8000) / 0x400)).entries[(o % 0x400) / 32]? with
    | some e => BitVec.ofNat 32 (field e.desc.toNat (8 * (o % 32)) 32)
    | none => 0
  else if 0x10000 ≤ o ∧ o < 0x20000 then BitVec.ofNat 32 (Memory.num g.imem (o - 0x10000) 4)
  else if 0x20000 ≤ o ∧ o < 0x28000 then BitVec.ofNat 32 (Memory.num g.dmem (o - 0x10000) 4)
  else if 0x80000 ≤ o ∧ o < 0xC1100 then g.vx0.scan (o - 0x80000)
  else if 0x100000 ≤ o ∧ o < 0x141100 then g.vx1.scan (o - 0x100000)
  else if 0x200000 ≤ o ∧ o < 0x300000 then Store.get zeroWord g.mx.window ((o - 0x200000) / 4)
  else if 0x400000 ≤ o ∧ o < 0x800000 then BitVec.ofNat 32 (Memory.num g.spad (o - 0x400000) 4)
  else 0

/-- A word of a chanter cluster's record; none where the spec gives no place. The registers lie as in Table 19-3, the queued records one after
another, oldest first. -/
def Chip.clusterScan (c : Chip) (k o : Nat) : Option Word :=
  if o < 0x200000 then some (BitVec.ofNat 32 (Memory.num (c.chanter k (o / 0x10000)).sram (o % 0x10000) 4))
  else if o < 0x208000 then
    let h := (c.chanter k ((o - 0x200000) / 0x400)).hart
    let j := o % 0x400
    if j = 0 then some h.pc else if j < 0x80 then some (h.get (j / 4)) else none
  else if o < 0x210000 then some 0
  else some (match (c.cluster k).queue[(o - 0x210000) / 64]? with | some r => BitVec.ofNat 32 (field r.toNat (8 * (o % 64)) 32) | none => 0)

/-- The length of a record of a class. -/
def scanLen (cls : Nat) : Nat := listGet 0 [0, 2 ^ 23, 2 ^ 17, 0x211000, 2 ^ 18, 2 ^ 23, 2 ^ 40] cls

/-- Tower, class and index of a selection (SCANSEL). -/
def selT (sel : Nat) : Nat := field sel 0 2
def selC (sel : Nat) : Nat := field sel 2 4
def selI (sel : Nat) : Nat := field sel 6 10

/-- Whether a selection names a unit that the module has. -/
def Chip.scanUnit (c : Chip) (sel : Nat) : Bool :=
  match selC sel with
  | 5 => selI sel == 0 || (selI sel == 1 && c.hasTower 1)
  | 6 => selI sel == 0
  | n => decide (1 ≤ n ∧ n ≤ 4) && c.hasTower (selT sel) && decide (selI sel < 104)

/-- A word of the selected record; none where it is open. -/
def Chip.scanAt (c : Chip) (sel o : Nat) : Option Word :=
  match selC sel with
  | 1 => some (c.galScan (selT sel * 104 + selI sel) o)
  | 3 => c.clusterScan (vaultKey (selT sel) (selI sel)) o
  | 6 => if c.linePoisoned (o / 64) then none else some (BitVec.ofNat 32 (c.memNum o 4))
  | _ => none

/-- SCANST of an access of n bytes (Table 19-12, R547), in the order of the checks of log entry 31. -/
def Chip.scanStatus (c : Chip) (sel o n : Nat) : Nat :=
  let g := c.gal (selT sel * 104 + selI sel)
  if !c.stopped && !(selC sel == 1 && decide (selI sel < 104) && (g.standsHeld || (g.mx.stopped && g.mx.cause == 1))) then 1
  else if !c.scanUnit sel then 3
  else if scanLen (selC sel) < o + n || (selC sel == 6 && !c.populated o n) then 5
  else if selC sel == 1 && g.dom == .off && !g.shadow then 2
  else 0

/-- A read of 4 · n bytes of a record: SCANST, and the value. A gallery in retention is raised. -/
def Chip.scanRead (c : Chip) (sel o n : Nat) : Chip × Nat × Nat :=
  let st := c.scanStatus sel o (4 * n)
  if st ≠ 0 then (c, st, 0)
  else
    let k := selT sel * 104 + selI sel
    let c := if selC sel = 1 then c.scanRaise k else c
    let ws := (List.range n).map fun i => (i, c.scanAt sel (o + 4 * i))
    let v := ws.foldr (fun w a => (w.2.getD (Config.scanWord c.free (o + 4 * w.1))).toNat + 2 ^ 32 * a) 0
    (if ws.any fun w => w.2.isNone then { c with free := c.free + 1 } else c, 0, v)

/-- A scan write of one word of a gallery's record. -/
def Gallery.scanPut (g : Gallery) (now : DWord) (o : Nat) (w : Word) : Gallery :=
  let vx (v : VCore) (o : Nat) : VCore :=
    if 0x80 ≤ o ∧ o < 0x41080 then v.setWord ((o - 0x80) / 4) w
    else if 0x41080 ≤ o ∧ o < 0x410C0 then
      v.setMask ((o - 0x41080) / 16) (BitVec.ofNat 128 (setField (v.mask ((o - 0x41080) / 16)).toNat (8 * (o % 16)) 32 w.toNat))
    else v
  if o = 0 then { g with hart := { g.hart with pc := w } }
  else if o < 0x80 then { g with hart := g.hart.set (o / 4) w }
  else if o < 0xA0 then
    let b := marksBytes g.marks
    { g with marks := marksOf (b.take (o - 0x80) ++ leBytes 4 w.toNat ++ b.drop (o - 0x7C)) }
  else if 0x100 ≤ o ∧ o < 0x200 then { g with ctr := Store.put zeroWord g.ctr ((o - 0x100) / 4) w }
  else if 0x4000 ≤ o ∧ o < 0x8000 then g.csrWrite now ((o - 0x4000) / 4) w
  else if 0x8000 ≤ o ∧ o < 0x9400 then
    let q := (o - 0x8000) / 0x400
    match (g.queue q).entries[(o % 0x400) / 32]? with
    | some e => g.setEntry q { e with desc := BitVec.ofNat 256 (setField e.desc.toNat (8 * (o % 32)) 32 w.toNat) }
    | none => g
  else if 0x10000 ≤ o ∧ o < 0x20000 then
    { g with imem := Memory.setNum g.imem (o - 0x10000) 4 w.toNat, ecc := Store.put noMark g.ecc (eccKey 0x1000000 (o - 0x10000)) false }
  else if 0x20000 ≤ o ∧ o < 0x28000 then
    { g with dmem := Memory.setNum g.dmem (o - 0x10000) 4 w.toNat, ecc := Store.put noMark g.ecc (eccKey 0x2000000 (o - 0x10000)) false }
  else if 0x80000 ≤ o ∧ o < 0xC1100 then { g with vx0 := vx g.vx0 (o - 0x80000) }
  else if 0x100000 ≤ o ∧ o < 0x141100 then { g with vx1 := vx g.vx1 (o - 0x100000) }
  else if 0x200000 ≤ o ∧ o < 0x300000 then
    { g with mx := { g.mx with window := Store.put zeroWord g.mx.window ((o - 0x200000) / 4) w, wbad := Store.put noMark g.mx.wbad ((o - 0x200000) / 4) false } }
  else if 0x400000 ≤ o ∧ o < 0x800000 then g.spadWrite (o - 0x400000) (leBytes 4 w.toNat)
  else g

/-- A scan write of one word of a cluster's record. -/
def Chip.clusterPut (c : Chip) (k o : Nat) (w : Word) : Chip :=
  if o < 0x200000 then c.onChanter k (o / 0x10000) fun x =>
    { x with sram := Memory.setNum x.sram (o % 0x10000) 4 w.toNat, ecc := Store.put noMark x.ecc (o % 0x10000) false }
  else if o < 0x208000 then
    let j := o % 0x400
    c.onChanter k ((o - 0x200000) / 0x400) fun x =>
      if j = 0 then { x with hart := { x.hart with pc := w } } else if j < 0x80 then { x with hart := x.hart.set (j / 4) w } else x
  else if o < 0x210000 then c
  else
    let x := c.cluster k
    match x.queue[(o - 0x210000) / 64]? with
    | some r => c.setCluster k { x with queue := listSet x.queue ((o - 0x210000) / 64) (BitVec.ofNat 512 (setField r.toNat (8 * (o % 64)) 32 w.toNat)) }
    | none => c

/-- A scan write of one word; records that the model does not lay out take none (log entry 31). -/
def Chip.scanPut (c : Chip) (sel o : Nat) (w : Word) : Chip :=
  match selC sel with
  | 1 => c.onGal (selT sel * 104 + selI sel) fun g => g.scanPut c.act o w
  | 3 => c.clusterPut (vaultKey (selT sel) (selI sel)) o w
  | 6 => c.memWriteNum o 4 w.toNat
  | _ => c

/-- A scan write of 4 · n bytes: the module, and SCANST. -/
def Chip.scanWrite (c : Chip) (sel o n v : Nat) : Chip × Nat :=
  if c.isSealed || !c.stopped then (c, 4)
  else
    let st := c.scanStatus sel o (4 * n)
    let c := if selC sel = 1 ∧ st = 0 then c.scanRaise (selT sel * 104 + selI sel) else c
    if st ≠ 0 then (c, st) else ((List.range n).foldl (fun c i => Chip.scanPut c sel (o + 4 * i) (BitVec.ofNat 32 (v / 2 ^ (32 * i)))) c, 0)

def Chip.scanSt (c : Chip) (st : Nat) : Chip := c.wrF Reg.scanst 0 3 st

/-- One access of the debug window at byte w of SCANWIN, of 4 or 8 bytes (R549); the data of a read. -/
def Chip.scanWin (c : Chip) (w : Nat) (wide : Bool) (write : Option DWord) : Chip × Nat :=
  let n := if wide then 2 else 1
  let sel := c.rd Reg.scansel
  let o := c.rdF Reg.scanoff 0 48 + w
  match write with
  | some v => let r := c.scanWrite sel o n v.toNat; (r.1.scanSt r.2, 0)
  | none => let r := c.scanRead sel o n; (r.1.scanSt r.2.1, r.2.2)

/-- SCANWIN_ACCESS (R549): a naturally aligned 32-bit or 64-bit access; any other read completes with Unsupported Request, any other write is dropped. -/
def execScanwinAccess (w : Fin 65536) (wide : Bool) (write : Option DWord) (s : State) : Host.Outcome State Fault Refusal :=
  s.onChip fun c =>
    let read (c : Chip) (v : Option DWord) : Chip := if write.isSome then c else { c with host := { c.host with bar0Out := v } }
    if c.inReset then c
    else if w.val % (if wide then 8 else 4) ≠ 0 then read c none
    else let r := c.scanWin w.val wide write; read r.1 (some (BitVec.ofNat 64 r.2))

/-- Copy n units of 8 bytes of the selected record to host memory, up to an access that ends badly; a domain that is off reads as zeros. -/
def Chip.scanCopy (c : Chip) (sel : Nat) : Nat → Nat → Nat → Chip × Nat
  | 0, _, _ => (c, 0)
  | n + 1, o, a =>
    let (c, st, v) := c.scanRead sel o 2
    if st ≠ 0 ∧ st ≠ 2 then (c, st)
    else
      let r := Chip.scanCopy { c with hostMem := Memory.setNum c.hostMem a 8 v } sel n (o + 8) (a + 8)
      (r.1, if r.2 = 0 then st else r.2)

/-- DMACTL.GO is written: a copy begins, unless one runs. -/
def Chip.dmaGo (c : Chip) : Chip := if c.inReset || c.dbg.scanDma then c else ({ c with dbg := { c.dbg with scanDma := true } }).wrF Reg.dmactl 1 1 0

/-- DMA_COPY (R549). -/
def execDmaCopy (s : State) : Host.Outcome State Fault Refusal := s.onChip Chip.dmaGo

/-- DMA_COPY_DONE (R549): the copy ends; a PCIe error, as without Bus Master Enable, ends it with status 6. -/
def execDmaCopyDone (good : Bool) (s : State) : Host.Outcome State Fault Refusal :=
  s.onChip fun c =>
    if !c.dbg.scanDma || c.inReset then c
    else
      let c := { c with dbg := { c.dbg with scanDma := false } }
      let r := if good then c.scanCopy (c.rd Reg.scansel) (c.rd Reg.dmalen / 8) (c.rdF Reg.scanoff 0 48) (c.rd Reg.dmaaddr) else (c, 6)
      (r.1.scanSt r.2).wrF Reg.dmactl 1 1 1

/-! ### JTAG (R548) -/

/-- The TAP with an instruction's code in its register. -/
def Chip.tap (c : Chip) (ir : Byte) : Chip := { c with dbg := { c.dbg with jtagIr := ir } }

/-- TRST_N low holds the TAP in Test-Logic-Reset (R580): the instruction register stands as at reset. -/
def Chip.tapHeld (c : Chip) : Chip := { c with dbg := { c.dbg with jtagIr := 0 } }

/-- A JTAG instruction: its code stands in the instruction register. With TRST_N low, as an unconnected land is, the TAP takes none (R580).
DEDUCED: log entry 116. -/
def State.onJtag (s : State) (ir : Byte) (f : Chip → Chip) : Host.Outcome State Fault Refusal :=
  s.onChip fun c => if c.inReset then c else if c.sys.pins.trst then f (c.tap ir) else c.tapHeld

/-- JTAG_WHISTLE. -/
def execJtagWhistle (s : State) : Host.Outcome State Fault Refusal := s.onJtag 0x20 fun c => c.askWhistle 1

/-- JTAG_RESUME. -/
def execJtagResume (s : State) : Host.Outcome State Fault Refusal := s.onJtag 0x21 Chip.whistleEnd

/-- JTAG_SCANSEL, in the layout of DEBUG.SCANSEL. -/
def execJtagScansel (v : Word) (s : State) : Host.Outcome State Fault Refusal :=
  s.onJtag 0x22 fun c => { c with dbg := { c.dbg with jtagSel := v &&& 0xFFFF } }

/-- JTAG_SCANOFF, in the layout of DEBUG.SCANOFF; an offset that is no multiple of 8 is ignored (R9). -/
def execJtagScanoff (v : DWord) (s : State) : Host.Outcome State Fault Refusal :=
  s.onJtag 0x23 fun c => if v.toNat % 8 = 0 then { c with dbg := { c.dbg with jtagOff := BitVec.ofNat 48 v.toNat } } else c

/-- JTAG_SCANRD: Capture-DR reads 8 bytes, and the offset advances. -/
def execJtagScanrd (s : State) : Host.Outcome State Fault Refusal :=
  s.onJtag 0x24 fun c =>
    let (c, st, v) := c.scanRead c.dbg.jtagSel.toNat c.dbg.jtagOff.toNat 2
    ({ c with dbg := { c.dbg with jtagOut := BitVec.ofNat 64 v, jtagOff := c.dbg.jtagOff + 8 } }).scanSt st

/-- JTAG_SCANWR: Update-DR writes 8 bytes, and the offset advances. -/
def execJtagScanwr (v : DWord) (s : State) : Host.Outcome State Fault Refusal :=
  s.onJtag 0x25 fun c =>
    let (c, st) := c.scanWrite c.dbg.jtagSel.toNat c.dbg.jtagOff.toNat 2 v.toNat
    ({ c with dbg := { c.dbg with jtagOff := c.dbg.jtagOff + 8 } }).scanSt st

/-- JTAG_WSTAT. -/
def execJtagWstat (s : State) : Host.Outcome State Fault Refusal :=
  s.onJtag 0x26 fun c => { c with dbg := { c.dbg with jtagOut := BitVec.ofNat 64 (c.rd Reg.wstat) } }

/-! ### Range counters (R554) -/

/-- RNGCTL_CLR: a write of 1 to a gallery's RNGCTL.CLR. -/
def execRngctlClr (g : GalId) (s : State) : Host.Outcome State Fault Refusal :=
  s.onChip fun c =>
    if c.inReset || c.thermStopped || !c.hasTower g.tower.val then c
    else if c.stopped then c.bump Reg.wstat 16 16 1
    else if (c.gal (galKey g)).dom = .off || c.fenced (galKey g) then c
    else
      let c := c.scanRaise (galKey g)
      c.onGal (galKey g) fun x => { x with rng := [] }

/-! ### Tensor watches (R555 to R557) -/

/-- The galleries that a watch holds: its own, or all of the plan. -/
def Chip.watchGals (c : Chip) (i : Nat) : List Nat :=
  let w2 := c.rd (Reg.tw i 2)
  if c.bit (Reg.tw i 0) 3 then [c.logKey (field w2 47 2) (field w2 40 7)] else c.planGals

/-- The step at which every gallery of a list stands, where they all stand at one. -/
def Chip.stepOf (c : Chip) (ks : List Nat) : Option Nat :=
  match ks with
  | [] => none
  | k :: _ => if ks.all fun j => (c.gal j).stepped && (c.gal j).gstep == (c.gal k).gstep then some (c.gal k).gstep.toNat else none

/-- A watch fires at a step of the plan that runs (R555). -/
def Chip.watchFires (c : Chip) (i n : Nat) : Bool :=
  let w0 := c.rd (Reg.tw i 0)
  let w1 := c.rd (Reg.tw i 1)
  bitOf w0 0 && (match c.ush.plan with | some p => p.2 == field w0 16 16 | none => false)
    && (if bitOf w0 4 then c.ush.tables.any fun t => t.batch == n && t.rows.any fun r => r.ticket.toNat == field w1 0 32 else field w1 0 32 == n)

/-- The bytes of a weight tensor of the model that runs, as placed (R556, R177). -/
def Chip.tensorBytes (c : Chip) (t id : Nat) : Chip × List Byte :=
  match c.ush.plan with
  | none => (c, [])
  | some p =>
    let im := (c.model p.1).image
    let recs := imOne im 0x12
    match ((List.range (recs.length / 32)).map fun j => imB recs (32 * j) 32).find? fun r => imN r 0 4 == id with
    | none => (c, [])
    | some r =>
      let w := tensorSect im id
      let x := imN r 4 4
      let n := field x 20 12 * ((field x 8 12 + 63) / 64)
      let run (j : Nat) := imN w (imN r 8 8 + 8 * j) 8
      let size (j : Nat) := 128 + popcount 64 (imN w (run j) 8) * tileBytes (field x 0 4) (bitOf x 4)
      let sid := match imSect im 0x11 id with | some q => q.sid | none => (match imOf im 0x11 with | q :: _ => q.sid | [] => 0)
      let at_ := ((c.model p.1).weights.filter fun y => y.1 == sid)
      match (at_.find? fun y => y.2.1 == t), at_ with
      | some y, _ => c.memFetch (y.2.2 + run 0) (run (n - 1) + size (n - 1) - run 0)
      | none, y :: _ => c.memFetch (y.2.2 + run 0) (run (n - 1) + size (n - 1) - run 0)
      | none, [] => (c, [])

/-- What a watch copies (R556). -/
def Chip.watchData (c : Chip) (i : Nat) : Chip × List Byte :=
  let w2 := c.rd (Reg.tw i 2)
  let t := field w2 47 2
  let g := c.gal (c.logKey t (field w2 40 7))
  let o := field w2 0 40
  let n := c.rdF (Reg.tw i 3) 0 32
  match c.rdF (Reg.tw i 0) 1 2, c.ush.plan with
  | 0, _ => c.tensorBytes t (c.rdF (Reg.tw i 1) 32 32)
  | 1, _ => (c, Memory.bytes g.spad o (min n (spadSize - o)))
  | 2, some p => c.memFetch (c.regionBase p.1 (c.planSect p) t (field w2 49 4) + o) (min n 0x10000000)
  | 2, none => (c, [])
  | _, _ =>
    let k := field w2 11 1 * 131072 + field w2 0 11 * 128
    (c, (List.range (min n 0x80000 / 4)).flatMap fun j => leBytes 4 (if field w2 0 11 * 128 + j < 131072 then Store.get zeroWord g.mx.window (k + j) else 0).toNat)

/-- Bytes written at a place of the dump ring. -/
def Chip.ringPut (c : Chip) (bs : List Byte) : Chip :=
  let c := c.memWrite (c.rd Reg.twbase + c.rd Reg.twhead % c.rd Reg.twsize) bs
  c.wr Reg.twhead (c.rd Reg.twhead + bs.length)

/-- A watch's dump (R557): the module, and whether it was written. A pad counts in the room that a dump needs (log entry 32). -/
def Chip.dump (c : Chip) (i n : Nat) (data : List Byte) : Chip × Bool :=
  let size := c.rd Reg.twsize
  let len := (data.length + 63) / 64 * 64
  let left := size - c.rd Reg.twhead % size
  let pad := if left < 64 + len then left else 0
  if size = 0 || size < 64 + len || decide (size < c.rd Reg.twhead + pad + 64 + len - c.rd Reg.twtail) then (c.bump Reg.twskip 0 32 1, false)
  else
    let w0 := c.rd (Reg.tw i 0)
    let w2 := c.rd (Reg.tw i 2)
    let kind := field w0 1 2
    let c := if pad = 0 then c
      else
        let c' := c.memWrite (c.rd Reg.twbase + c.rd Reg.twhead % size) (leBytes 4 0x50445754 ++ [BitVec.ofNat 8 i, 0xFF] ++ leBytes 26 0 ++ leBytes 4 (pad - 64) ++ leBytes 28 0)
        c'.wr Reg.twhead (c.rd Reg.twhead + pad)
    let h := leBytes 4 0x50445754 ++ [BitVec.ofNat 8 i, BitVec.ofNat 8 kind, BitVec.ofNat 8 (field w2 47 2),
        BitVec.ofNat 8 (if kind = 1 ∨ kind = 3 then field w2 40 7 else 0)] ++ leBytes 2 (field w0 16 16) ++ leBytes 2 (field w0 3 2)
      ++ leBytes 4 (c.rdF (Reg.tw i 1) 32 32) ++ leBytes 4 c.epoch.toNat ++ leBytes 4 n ++ leBytes 8 c.now.toNat ++ leBytes 4 data.length
      ++ leBytes 8 c.dbg.dumpSeq.toNat ++ leBytes 20 0
    let c := c.ringPut (h ++ data ++ leBytes (len - data.length) 0)
    ({ c with dbg := { c.dbg with dumpSeq := c.dbg.dumpSeq + 1 } }, true)

/-- Another watch fires at this hold and has not been served. -/
def Chip.watchLeft (c : Chip) (n : Nat) : Bool := (List.range 64).any fun i => c.watchFires i n && !c.dbg.watched.contains i

/-- WATCH_CAPTURE (R556): while step n runs, the usher holds the galleries of a watch that fires at it; once they stand held at step n + 1 it copies the data. The hold is released when
no other watch has to be served, but by a watch with WHISTLE after the resume only. -/
def execWatchCapture (i : Fin 64) (s : State) : Host.Outcome State Fault Refusal :=
  s.onUsher fun c =>
    let ks := c.watchGals i.val
    match c.stepOf ks with
    | none => c
    | some n =>
      if !c.watchFires i.val n || c.dbg.watched.contains i.val || !(c.epochState == 1 || c.epochState == 2) then c
      else if !(ks.all fun k => (c.gal k).standsHeld) then
        if c.epochState = 1 then ks.foldl Chip.holdGal c else c
      else
        let (c, data) := c.watchData i.val
        let (c, ok) := c.dump i.val n data
        let c := { c with dbg := { c.dbg with watched := c.dbg.watched ++ [i.val] } }
        let c := if !ok then c
          else
            let left := c.rdF (Reg.tw i.val 0) 32 16 - 1
            let c := c.wrF (Reg.tw i.val 0) 32 16 left
            if left = 0 then c.wrF (Reg.tw i.val 0) 0 1 0 else c
        let c := if ok && c.bit (Reg.tw i.val 0) 5 then ({ c with dbg := { c.dbg with whistleHold := true } }).requestWhistle 5 else c
        if c.epochState ≠ 1 || c.dbg.whistleHold || c.watchLeft n then c else c.watchRelease

/-! ### The crash annex (R558 to R560) -/

/-- The units of a section type in a tower, and a unit's selection and record offset. Units that are off, absent or fused bad are left out. -/
def Chip.annexUnits (c : Chip) (type t : Nat) : List Nat :=
  match type with
  | 1 => if t = 0 then (if c.hasTower 1 then [0, 1] else [0]) else []
  | 4 => List.range 104
  | 5 => List.range 104
  | 6 => List.range 104
  | 7 => if t = 0 then [0] else []
  | _ => (List.range 104).filter fun p => !c.bit (Reg.rctl t p) 1 && ((c.gal (t * 104 + p)).dom != .off || (c.gal (t * 104 + p)).shadow)

def annexSize (type : Nat) : Nat := listGet 0 [0, 2 ^ 23, 0x10000, 0x18000, 0x20000, 0x11000, 0x40000, 0x10000, 532992, 0x100000, 0x400000] type

/-- A word of the record of a unit, in the annex's own order. -/
def Chip.annexWord (c : Chip) (free type t u o : Nat) : Word :=
  let k := t * 104 + u
  let open_ := Config.scanWord free (((type * 4 + t) * 128 + u) * 2 ^ 23 + o)
  match type with
  | 2 => c.galScan k o
  | 3 => c.galScan k (0x10000 + o)
  | 5 => (c.clusterScan (vaultKey t u) (0x200000 + o)).getD open_
  | 8 => c.galScan k (if o < 266496 then 0x80000 + o else 0x100000 + (o - 266496))
  | 9 => c.galScan k (0x200000 + o)
  | 10 => c.galScan k (0x400000 + o)
  | _ => open_

/-- The sections written so far: directory, the next free offset, whether one was cut short. -/
structure AnnexRun where
  dir : List (List Byte)
  next : Nat
  trunc : Bool
  deriving DecidableEq, Repr

/-- Write one section (R560). -/
def Chip.annexSection (c : Chip) (free : Nat) (base : Nat) (r : AnnexRun) (type t : Nat) : Chip × AnnexRun :=
  let us := c.annexUnits type t
  if r.trunc || us.isEmpty then (c, r)
  else
    let size := annexSize type
    let fit := us.take ((2 ^ 31 - r.next) / size)
    let c := if [2, 3, 8, 9, 10].contains type then fit.foldl (fun c u => c.scanRaise (t * 104 + u)) c else c
    let c' := fit.zipIdx.foldl (fun c' u =>
      Chip.memWrite c' (base + r.next + size * u.2) ((List.range (size / 4)).flatMap fun j => leBytes 4 (c.annexWord free type t u.1 (4 * j)).toNat)) c
    let cut := decide (fit.length < us.length)
    let e := leBytes 2 type ++ [BitVec.ofNat 8 t, BitVec.ofNat 8 (b2n cut)] ++ leBytes 4 fit.length ++ leBytes 8 r.next ++ leBytes 8 size
      ++ leBytes 16 ((fit.map (2 ^ ·)).sum) ++ leBytes 8 0
    (c', { dir := r.dir ++ [e], next := r.next + size * fit.length, trunc := cut })

/-- The record of a fatal error (Table 19-11). -/
def causeRecord (now : DWord) (code : Half) (tower source : Nat) (unit : Word) (detail : DWord) : List Byte :=
  leBytes 8 now.toNat ++ leBytes 2 code.toNat ++ [BitVec.ofNat 8 tower, BitVec.ofNat 8 source] ++ leBytes 4 unit.toNat ++ leBytes 8 detail.toNat ++ leBytes 8 0

/-- The annex is written for a first fatal error (R558 steps 2 and 3); `usher` says that an usher writes it. DEDUCED: log entry 51. -/
def Chip.annexMake (c : Chip) (usher : Bool) (cause : List Byte) : Chip :=
  let base := c.rd Reg.anxbase
  let keep := c.rdF Reg.anxctl 2 3
  let free := c.free
  let c := { c with free := c.free + 1 }
  let types := (List.range 11).filter fun y => decide (1 ≤ y) && (decide (y < 8) || bitOf keep (y - 8))
  let secs := if usher then types.flatMap fun y => c.towers.map fun t => (y, t) else []
  let epw := c.rd Reg.epoch
  let bs := c.rd Reg.bringStatus
  let jt := c.rd Reg.jtail
  let (c, r) := secs.foldl (fun x y => Chip.annexSection x.1 free base x.2 y.1 y.2) (c, ({ dir := [], next := 4096, trunc := false } : AnnexRun))
  let h := leBytes 4 0x584E4E41 ++ leBytes 2 1 ++ leBytes 2 (1 + 2 * b2n r.trunc + 4 * b2n !usher) ++ leBytes 4 1 ++ leBytes 4 r.dir.length ++ leBytes 8 epw ++ leBytes 8 bs
    ++ leBytes 8 jt ++ leBytes 24 0 ++ cause ++ leBytes 928 0 ++ r.dir.flatten
  (c.memWrite base (h ++ leBytes (4096 - h.length) 0)).wrF Reg.anxctl 1 1 1

/-- A further fatal error while an annex is held (R559). -/
def Chip.annexMore (c : Chip) (cause : List Byte) : Chip :=
  let base := c.rd Reg.anxbase
  let n := c.memNum (base + 8) 4
  let c := c.memWriteNum (base + 8) 4 (n + 1)
  if n ≤ 8 then c.memWrite (base + 0x40 + 32 * n) cause else c

/-- FATAL_ERROR (R558, R559): a condition that the usher firmware declares fatal, seen by the primary (0), the standby (1), or where neither can run by the always-on controller
(2). DEDUCED: log entry 51. -/
def execFatalError (code : Half) (t : Fin 4) (source : Fin 3) (unit : Word) (detail : DWord) (s : State) : Host.Outcome State Fault Refusal :=
  s.onUsher fun c =>
    let c := c.whistleStop (c.dbg.whistleReq.toNat ||| 0x10) []
    let cause := causeRecord c.now code t.val source.val unit detail
    let c := if c.rd Reg.anxbase = 0 then c else if c.bit Reg.anxctl 1 then c.annexMore cause else c.annexMake (source.val != 2) cause
    c.warmReset

/-- ANXCTL.CLEAR is written: the annex is released (R559). -/
def Chip.annexClear (c : Chip) : Chip :=
  if c.inReset || !c.bit Reg.anxctl 1 then c
  else
    let a := c.rd Reg.anxbase + 6
    (c.memWriteNum a 2 (setField (c.memNum a 2) 0 1 0)).wrF Reg.anxctl 1 1 0

/-- ANXCTL_CLEAR. -/
def execAnxctlClear (s : State) : Host.Outcome State Fault Refusal := s.onChip Chip.annexClear

end Sys2Proof.Machine
end

