-- ==== Sys2Proof/Machine/Registers.lean ====
section
/-! DEFINITION. Reads and writes of BAR0 over PCIe (R2, R7 to R9, R399, R480, R544, R562 to R567): what each register shows, which blocks are
served, and what a write of each register does. -/

namespace Sys2Proof.Machine

/-! ### Where an access lands (R562 to R564) -/

/-- The gallery that a page of a tower window reaches: the key, and the offset in the page. None off the pages; no gallery for a logical place on chanter
fallback (R564). -/
def Chip.pageOf (c : Chip) (off : Nat) : Option (Option Nat × Nat) :=
  match towerOf off with
  | none => none
  | some t =>
    let w := (off - 0x01000000) % 0x00400000
    if 0x100000 ≤ w ∧ w < 0x160000 then
      let g := (w - 0x100000) / 0x1000
      some (if c.onFallback t g then none else some (c.logKey t g), w % 0x1000)
    else if 0x200000 ≤ w ∧ w < 0x268000 then
      let k := t * 104 + (w - 0x200000) / 0x1000
      some (if c.isFallback k then none else some k, w % 0x1000)
    else none

/-- The gallery of a page is served: its domain is neither off nor fenced (R564). -/
def Chip.pageLive (c : Chip) (k : Nat) : Bool := (c.gal k).dom != .off && !c.fenced k

/-- A 64-bit register begins at an offset. -/
def wideReg (off : Nat) : Bool := match regAt off with | some d => d.width == 64 | none => false

/-- A register of an absent unit (R2): of a tower, or of a link. -/
def Chip.absent (c : Chip) (off : Nat) : Bool :=
  match towerOf off with
  | some t => !c.hasTower t
  | none => decide (0x00700100 ≤ off ∧ off < 0x007001A0) && !c.part.hasLink ((off - 0x00700100) / 0x20)

/-- The blocks that the endpoint serves before seal, and in a thermal stop (R399, R480). DEDUCED: log entry 37. -/
def Chip.serves (c : Chip) (off : Nat) : Bool :=
  let b := off / 0x00100000
  if c.inReset then false
  else if c.thermStopped then b == 0 || b == 1 || b == 4 || b == 6
  else c.isSealed || b == 0 || b == 1 || b == 6

/-! ### What registers show -/

/-- The CSR that a word of a gallery page is (Table 20-10). -/
def pageCsr (o : Nat) : Option Nat :=
  match o with
  | 0 => some 0x7C0
  | 4 => some 0x7C1
  | 8 => some 0x7C2
  | 0xC => some 0xFC0
  | 0x10 => some 0xFC1
  | 0x14 => some 0xFC2
  | 0x18 => some 0x7C3
  | 0x1C => some 0x7C4
  | 0x20 => some 0xFC3
  | 0x24 => some 0xFC4
  | 0x28 => some 0xFC5
  | 0x30 => some 0x7C9
  | 0x34 => some 0x7CA
  | 0x38 => some 0x7CB
  | 0x3C => some 0x7CC
  | _ => if 0x40 ≤ o ∧ o < 0x58 then some (0xFC8 + (o - 0x40) / 4) else none

/-- A register of a gallery page, whole (Tables 20-10, 4-18, 9-19, 19-16). -/
def Gallery.pageValue (g : Gallery) (k o : Nat) : Nat :=
  match pageCsr o with
  | some n => match g.csrRead k n with | some v => v.toNat | none => 0
  | none =>
    if o = 0x2C then b2n (g.mx.stopReq == 1) + b2n g.mx.svcDone * 8 + g.mx.svcStat.toNat * 16
    else if 0x60 ≤ o ∧ o < 0x80 then field g.mx.svc.toNat (8 * (o - 0x60)) 32
    else if 0x80 ≤ o ∧ o < 0xC0 then (Store.get zeroDWord g.swin ((o - 0x80) / 8)).toNat
    else if 0xC0 ≤ o ∧ o < 0xFC then (Store.get zeroSel g.rngsel ((o - 0xC0) / 4)).toNat
    else if 0x400 ≤ o ∧ o < 0x800 then (Store.get zeroDWord g.rng ((o - 0x400) / 8)).toNat
    else 0

/-- A BAR0 register outside the gallery pages, whole (R568, R569, Table 8-12). -/
def Chip.plainValue (c : Chip) (off : Nat) : Nat :=
  if off = Reg.id then c.idWord
  else if off = Reg.jtagid then 1 + 0x6A7 * 2 + c.part.device * 2 ^ 12 + 2 * 2 ^ 28
  else if off = Reg.time then c.now.toNat
  else
    match towerOf off with
    | some t =>
      if Reg.rctl t 0 ≤ off ∧ off < Reg.rctl t 104 then
        let k := t * 104 + (off - Reg.rctl t 0) / 8
        setField (setField (setField (c.rd off) 2 1 (b2n (c.isFallback k))) 3 1 (b2n ((c.gal k).dom == .retained))) 8 10 (c.forkHeld k)
      else c.rd off
    | none => c.rd off

/-- A register of the module, whole, as a read finds it (R2, R8, R564): a gallery in retention is raised first. -/
def Chip.regValue (c : Chip) (off : Nat) : Chip × Nat :=
  match regAt off with
  | none => (c, 0)
  | some d =>
    if c.absent off then (c, 0)
    else
      match c.pageOf off with
      | none => (c, regRead d.fields (c.plainValue off))
      | some (none, _) => (c, 0)
      | some (some k, o) =>
        if !c.pageLive k then (c, 0)
        else
          let c := c.scanRaise k
          (c, regRead d.fields ((c.gal k).pageValue k o))

/-! ### Reads (R7) -/

/-- The key of a requester's latch of a register: by its BAR0 offset. A 64-bit register of a gallery is two registers here, one on each of its pages, so an access by
the other page ends no latch (R7, R564). DESIGN CHOICE: log entry 118. -/
def latchKey (who : Half) (off : Nat) : Nat := who.toNat * 2 ^ 26 + off

/-- A requester's access to a register lets go the half that it had latched (R7). -/
def Chip.letGo (c : Chip) (who : Half) (off : Nat) : Chip := { c with latch := c.latch.filter fun e => e.1 != latchKey who (off / 8 * 8) }

/-- An aligned 32-bit read (R7): of a 32-bit register, or of one half of a 64-bit register. -/
def Chip.read32 (c : Chip) (who : Half) (off : Nat) : Chip × Nat :=
  match regAt off with
  | some d =>
    let r := c.regValue off
    if d.width = 64 then
      ({ r.1 with latch := Store.put noLatch r.1.latch (latchKey who off) (some (BitVec.ofNat 32 (r.2 / 2 ^ 32))) }, r.2 % 2 ^ 32)
    else r
  | none =>
    if off % 8 = 4 ∧ wideReg (off - 4) = true then
      match Store.get noLatch c.latch (latchKey who (off - 4)) with
      | some v => ({ c with latch := Store.put noLatch c.latch (latchKey who (off - 4)) none }, v.toNat)
      | none => let r := c.regValue (off - 4); (r.1, r.2 / 2 ^ 32)
    else (c, 0)

/-- An aligned read of BAR0 of 4 or 8 bytes: blocks that are not served read as zero (R399, R562). -/
def Chip.bar0Read (c : Chip) (who : Half) (off : Nat) (wide : Bool) : Chip × Nat :=
  if !c.serves off then (c, 0)
  else if Reg.scanwin ≤ off ∧ off < Reg.scanwin + 0x10000 then c.scanWin (off - Reg.scanwin) wide none
  else if wide then
    if wideReg off then
      let r := c.regValue off
      ({ r.1 with latch := Store.put noLatch r.1.latch (latchKey who off) none }, r.2)
    else
      let a := c.read32 who off
      let b := a.1.read32 who (off + 4)
      (b.1, a.2 + 2 ^ 32 * b.2)
  else c.read32 who off

/-- A read of BAR4, which is served from seal, or of configuration space (Table 14-3). DESIGN CHOICE: log entry 138. -/
def Chip.pcieRead (c : Chip) (s : BarSpace) (off : Nat) : Nat :=
  if s = .config then c.cfgRead off else if c.isSealed then c.bar4Read off else 0

/-- A read of an aligned offset by a requester: of BAR0 (R7), or of what else of the function the host reads. -/
def Chip.hostRead (c : Chip) (q : BarReq) (off : Nat) (wide : Bool) : Chip × Nat :=
  if q.space = .bar0 then c.bar0Read q.who off wide
  else (c, c.pcieRead q.space off + (if wide then 2 ^ 32 * c.pcieRead q.space (off + 4) else 0))

/-- REG64_LOW_HALF_READ (R7): a naturally aligned read by a requester, of 4 bytes or, if `wide`, of 8. A 4-byte read of the low half of a 64-bit
register of BAR0 latches the high half for that requester. What is no aligned read of this kind has no effect here. -/
def execReg64LowHalfRead (req : BarReq) (off : BitVec 26) (wide : Bool) (s : State) : Host.Outcome State Fault Refusal :=
  s.onChip fun c =>
    if c.inReset || off.toNat % (if wide then 8 else 4) != 0 then c
    else
      let r := c.hostRead req off.toNat wide
      { r.1 with host := { r.1.host with bar0Out := some (BitVec.ofNat 64 r.2) } }

/-- BAR0_MISALIGNED_ACCESS (R7): an access of `size` bytes at an offset, of the wrong size or alignment: a read completes with Unsupported Request, a write is dropped. -/
def execBar0MisalignedAccess (off : BitVec 26) (size : Fin 4097) (write : Bool) (s : State) : Host.Outcome State Fault Refusal :=
  s.onChip fun c =>
    if c.inReset || write || ((size.val == 4 || size.val == 8) && off.toNat % size.val == 0) then c
    else { c with host := { c.host with bar0Out := none } }

/-! ### Writes of gallery pages (Table 20-10) -/

/-- A write of a register of a gallery's page: `nv` is the register with its RW fields written, `one` the bits written as 1. -/
def Chip.pagePut (c : Chip) (k o nv one : Nat) : Chip :=
  if o = 0x2C then
    let c := if bitOf one 0 then c.onGal k fun g => g.mxAsk 1 else c
    let c := if bitOf one 1 then c.onGal k fun g => g.mxGo c.act else c
    if bitOf one 2 then
      let n := c.fresh
      n.2.onGal k fun g => g.mxService (Config.serviceDrawIndex n.1) (srC3 0 c.epoch) c.part.hasTrain
    else c
  else c.onGal k fun g =>
    match o with
    | 0 | 8 | 0x30 | 0x34 | 0x3C => match pageCsr o with | some n => g.csrWrite c.act n (BitVec.ofNat 32 one) | none => g
    | 4 => g.csrWrite c.act 0x7C1 (BitVec.ofNat 32 nv)
    | 0x18 => g.csrWrite c.act 0x7C3 (BitVec.ofNat 32 nv)
    | 0x1C => g.csrWrite c.act 0x7C4 (BitVec.ofNat 32 nv)
    | 0x58 => if bitOf one 0 then { g with rng := [] } else g
    | _ =>
      if 0x60 ≤ o ∧ o < 0x80 then { g with mx := { g.mx with svc := BitVec.ofNat 256 (setField g.mx.svc.toNat (8 * (o - 0x60)) 32 nv) } }
      else if 0x80 ≤ o ∧ o < 0xC0 then { g with swin := Store.put zeroDWord g.swin ((o - 0x80) / 8) (BitVec.ofNat 64 nv) }
      else if 0xC0 ≤ o ∧ o < 0xFC then { g with rngsel := Store.put zeroSel g.rngsel ((o - 0xC0) / 4) (BitVec.ofNat 17 nv) }
      else g

/-- A write that reaches a gallery page (R564): a gallery in retention is raised first. -/
def Chip.pageWrite (c : Chip) (d : RegDef) (off k o v mask : Nat) : Chip :=
  if !c.pageLive k then c
  else
    let c := c.scanRaise k
    c.pagePut k o (regWrite off d.fields c.isSealed ((c.gal k).pageValue k o) v mask) (v &&& mask)

/-! ### Writes of the other registers -/

/-- A write of the RW, RWL and W1C fields of a register (R8, R9). -/
def Chip.fieldPut (c : Chip) (d : RegDef) (off v mask : Nat) : Chip :=
  let nv := regWrite off d.fields c.isSealed (c.rd off) v mask
  if regPairOk off nv then c.wr off nv else c

/-- A write of RCTL.FENCE (R220). DEDUCED: log entry 41. -/
def Chip.fencePut (c : Chip) (t p : Nat) (fence : Bool) : Chip :=
  let k := t * 104 + p
  if fence = c.fenced k then c
  else if fence then c.fenceGallery k 1
  else
    let c := (c.wrF (Reg.rctl t p) 0 1 0).event t (104 + p) 10 0 256
    if c.rdF (domReg k) 12 3 = 4 then c.wrF (domReg k) 12 3 1 else c

/-- A write of a register of the HOLMUND block (R461): ENABLE that rises on a link that is disabled or down starts its training. DEDUCED: log entry 40. -/
def Chip.linkPut (c : Chip) (d : RegDef) (off v mask : Nat) : Chip :=
  let was := c.bit off 0
  let c := c.fieldPut d off v mask
  if off < Reg.linkCtl 0 ∨ off % 0x20 ≠ 0 then c
  else
    let l := (off - Reg.linkCtl 0) / 0x20
    let one := v &&& mask
    let c := if bitOf one 2 then c.ctlDown l else c
    if bitOf one 1 || (!was && c.bit off 0 && (c.linkSt l == 0 || c.linkSt l == 4)) then c.ctlRetrain l else c

/-- The most that a watch's LEN may take under the KIND that its W0 holds (Table 19-14). DEDUCED: log entry 117. -/
def Chip.watchMax (c : Chip) (off : Nat) : Nat := match c.rdF (off / 0x20 * 0x20) 1 2 with | 1 => 2 ^ 22 | 3 => 2 ^ 19 | _ => 2 ^ 28

/-- A write of a register of the DEBUG block (R539, R541, R549, R559). Words 1 to 3 of an enabled watch take none (R555). -/
def Chip.debugPut (c : Chip) (d : RegDef) (off v mask : Nat) : Chip :=
  let one := v &&& mask
  if Reg.tw 0 0 ≤ off ∧ off % 0x20 ≠ 0 ∧ c.bit (off / 0x20 * 0x20) 0 then c
  else
    let c := if Reg.tw 0 0 ≤ off ∧ off % 0x20 = 0x18 ∧ c.watchMax off < ((c.rd off &&& (2 ^ 32 - 1 - mask % 2 ^ 32)) ||| (one % 2 ^ 32)) then c else c.fieldPut d off v mask
    if off = Reg.wctl then
      let c := if bitOf one 0 then c.askWhistle 0 else c
      if bitOf one 1 then c.whistleEnd else c
    else if off = Reg.dmactl then (if bitOf one 0 then c.dmaGo else c)
    else if off = Reg.anxctl then (if bitOf one 0 then c.annexClear else c)
    else c

/-- A write of a register of a tower window below its gallery pages. -/
def Chip.towerPut (c : Chip) (d : RegDef) (t off v mask : Nat) : Chip :=
  let one := v &&& mask
  let w := off - Reg.tower t
  if off = Reg.rstPart t then c.partWrite t v mask
  else if off = Reg.retreq t then c.retReq t one
  else if Reg.rctl t 0 ≤ off ∧ off < Reg.rctl t 104 then (if bitOf mask 0 then c.fencePut t ((off - Reg.rctl t 0) / 8) (bitOf v 0) else c)
  else if Reg.dom t 0 ≤ off ∧ off ≤ Reg.dom t 104 then
    let c := c.fieldPut d off v mask
    if off = Reg.dom t 104 then c.corridor t else c.domsRun [t * 104 + (off - Reg.dom t 0) / 8]
  else if 0xA0000 ≤ w ∧ w < 0xA6800 then
    let n := (w - 0xA0000) / 0x100
    let r := w % 0x100
    let k := vaultKey t n
    if r = 0x50 then c.jobCancel k one
    else if 0x10 ≤ r ∧ r < 0x50 then
      let x := c.cluster k
      let i := (r - 0x10) / 8
      let word := BitVec.ofNat 64 ((v &&& mask) ||| ((Store.get zeroDWord x.jobin i).toNat &&& (2 ^ 64 - 1 - mask)))
      let c := c.setCluster k { x with jobin := Store.put zeroDWord x.jobin i word }
      if i = 7 then c.enqueueJob k word else c
    else c.fieldPut d off v mask
  else c.fieldPut d off v mask

/-- A write of the register that begins at an offset: `mask` says which of its bits the access carries. -/
def Chip.regPut (c : Chip) (off v mask : Nat) : Chip :=
  match regAt off with
  | none => c
  | some d =>
    if c.absent off then c
    else
      let c := c.unlatch off
      let one := v &&& mask
      match c.pageOf off with
      | some (none, _) => c
      | some (some k, o) => c.pageWrite d off k o v mask
      | none =>
        match towerOf off with
        | some t => c.towerPut d t off v mask
        | none =>
          if off = Reg.bringStep then (if c.stepMay (field one 0 3) then c else c.stepErr)
          else if off = Reg.bringReset then (if resetKey (BitVec.ofNat 16 (field one 16 16)) then c.bringReset (field one 0 3) (field one 3 2) else c)
          else if off = Reg.hifCtl then
            let was := c.bit Reg.hifCtl 1
            let c := c.fieldPut d off v mask
            let c := if was == c.bit Reg.hifCtl 1 then c else c.hifRun (c.bit Reg.hifCtl 1)
            if bitOf one 0 then c.resync else c
          else if 0x00201000 ≤ off ∧ off < 0x00203000 ∧ off % 0x20 = 8 then c.ringCfg false ((off - 0x00201000) / 0x20) v mask
          else if 0x00203000 ≤ off ∧ off < 0x00204000 ∧ off % 0x10 = 8 then c.ringCfg true ((off - 0x00203000) / 0x10) v mask
          else if off = Reg.grant then c.grantWrite 1 v mask
          else if off = Reg.monctl then (if bitOf one 0 then c.wrF Reg.monctl 0 1 1 else c)
          else if off = Reg.thermCtl then (if bitOf one 0 then c.thermResume else c)
          else if off = Reg.diagcmd then c.diagCmd (field one 0 3)
          else if 0x00700000 ≤ off then c.linkPut d off v mask
          else if Reg.debug ≤ off then c.debugPut d off v mask
          else c.fieldPut d off v mask

/-- The registers of a tower window that a host may write after seal (R565). -/
def sealedTowerOk (t off : Nat) : Bool :=
  let w := off - Reg.tower t
  let p := w % 0x1000
  if w < 0x100000 then off == Reg.retreq t || off == Reg.evmask t
  else p == 0x58 || decide (0xC0 ≤ p ∧ p < 0xFC)

/-- Whether a host's write of a register is taken: its block is served (before seal a tower window is too, R565, and from the end of step 5 HOLMUND.NODE, the one RWL field outside
both, R527), and after seal its window register is open. DEDUCED: log entry 37. -/
def Chip.takesWrite (c : Chip) (off : Nat) : Bool :=
  match towerOf off with
  | some t => !c.inReset && !c.thermStopped && (!c.isSealed || sealedTowerOk t off)
  | none => c.serves off || (off == Reg.node && !c.inReset && !c.thermStopped && !c.isSealed && (decide (5 < c.rdF Reg.bringStatus 0 3) || (c.rdF Reg.bringStatus 0 3 == 5 && c.rdF Reg.bringStatus 3 2 == 2)))

/-- A host's write of 32 bits. -/
def Chip.write32 (c : Chip) (off v : Nat) : Chip :=
  if (regAt off).isSome then (if c.takesWrite off then c.regPut off v (2 ^ 32 - 1) else c)
  else if off % 8 = 4 ∧ wideReg (off - 4) = true ∧ c.takesWrite (off - 4) then
    c.regPut (off - 4) (v * 2 ^ 32) (2 ^ 64 - 2 ^ 32)
  else c

/-- While the module is stopped, writes but those of DEBUG, THERM and BRING.RESET are dropped and counted (R544). DEDUCED: log entry 38. -/
def Chip.dropsWrite (c : Chip) (off : Nat) : Bool :=
  let b := off / 0x00100000
  c.stopped && !(b == 4 || b == 6 || off == Reg.bringReset)

/-- A host's naturally aligned write of 4 or 8 bytes. DEDUCED: log entry 38. -/
def Chip.bar0Write (c : Chip) (off : Nat) (wide : Bool) (v : Nat) : Chip :=
  if c.inReset then c
  else if c.dropsWrite off then c.bump Reg.wstat 16 16 1
  else if Reg.scanwin ≤ off ∧ off < Reg.scanwin + 0x10000 then (c.scanWin (off - Reg.scanwin) wide (some (BitVec.ofNat 64 v))).1
  else if !wide then c.write32 off (v % 2 ^ 32)
  else if wideReg off then (if c.takesWrite off then c.regPut off v (2 ^ 64 - 1) else c)
  else (c.write32 off (v % 2 ^ 32)).write32 (off + 4) (v / 2 ^ 32)

/-- A write of a dword of BAR4, which is served from seal, or of configuration space (Table 14-3). DESIGN CHOICE: log entry 138. -/
def Chip.pcieWrite (c : Chip) (s : BarSpace) (off v : Nat) : Chip :=
  if c.inReset then c else if s = .config then c.cfgWrite off v else if c.isSealed then c.bar4Write off v else c

/-- A write of an aligned offset by a requester: of BAR0, where it ends that requester's own latch of the register, taken or not (R7), or of what else of the function
the host writes. -/
def Chip.hostWrite (c : Chip) (q : BarReq) (off : Nat) (wide : Bool) (v : Nat) : Chip :=
  if q.space = .bar0 then (c.letGo q.who off).bar0Write off wide v
  else
    let c := c.pcieWrite q.space off (v % 2 ^ 32)
    if wide then c.pcieWrite q.space (off + 4) (v / 2 ^ 32) else c

/-- REGISTER_WRITE (R9): a requester's naturally aligned write, of 4 bytes or, if `wide`, of 8. -/
def execRegisterWrite (a : BarAddr) (wide : Bool) (v : DWord) (s : State) : Host.Outcome State Fault Refusal :=
  s.onChip fun c => if a.off.toNat % (if wide then 8 else 4) = 0 then c.hostWrite a.req a.off.toNat wide v.toNat else c

end Sys2Proof.Machine
end

