-- ==== Sys2Proof/Machine/I3c.lean ====
section
/-! DEFINITION. The I3C target of TOWER[0] and its alerts (R481, R578, R579). -/

namespace Sys2Proof.Machine

/-- A block that I3C reads reach: MOD, BRING, POWER and BELLOWS, THERM. DEDUCED: log entry 42. -/
def i3cReads (off : Nat) : Bool := off / 0x00100000 == 0 || off / 0x00100000 == 1 || off / 0x00100000 == 3 || off / 0x00100000 == 4

/-- A write over I3C of a register of its own width (R578): RW fields of POWER and BELLOWS, BELLOWS.CTL.SRC, THERM.CTL, and GRANT while SRC is 0. DEDUCED: log entry 42. -/
def Chip.i3cPut (c : Chip) (off v : Nat) (wide : Bool) : Chip :=
  match regAt off with
  | none => c
  | some d =>
    if d.width ≠ (if wide then 64 else 32) then c
    else
      let mask := 2 ^ d.width - 1
      if off = Reg.ilim ∨ off = Reg.vfloor then (c.unlatch off).fieldPut d off v mask
      else if off = Reg.bellowsCtl then (if field v 0 2 = 3 then c.unlatch off else (c.unlatch off).wrF off 0 2 (field v 0 2))
      else if off = Reg.grant then (c.unlatch off).grantWrite 0 v mask
      else if off = Reg.thermCtl then (if bitOf v 0 then c.thermResume else c)
      else c

/-- I3C_WRITE (R578): four bytes of offset, and none, four or eight bytes of data. -/
def execI3cWrite (off : Word) (data : Option (Bool × DWord)) (s : State) : Host.Outcome State Fault Refusal :=
  s.onChip fun c =>
    if c.inReset then c
    else
      match data with
      | none => c.onPins fun p => { p with pointer := off }
      | some (wide, v) => c.i3cPut off.toNat v.toNat wide

/-- I3C_READ (R578): the register at the pointer, whole; the pointer moves past it. An offset that no register takes reads as zero and keeps the pointer. -/
def execI3cRead (s : State) : Host.Outcome State Fault Refusal :=
  s.onChip fun c =>
    let off := c.sys.pins.pointer.toNat
    let v := match regAt off with | some d => if i3cReads off then regRead d.fields (c.plainValue off) else 0 | none => 0
    let n := match regAt off with | some d => d.width / 8 | none => 0
    c.onPins fun p => { p with readOut := some (BitVec.ofNat 64 v), pointer := p.pointer + BitVec.ofNat 32 n }

/-- I3C_DYNAMIC_ADDRESS (R578): SETDASA or ENTDAA. -/
def execI3cDynamicAddress (addr : BitVec 7) (s : State) : Host.Outcome State Fault Refusal :=
  s.onChip fun c => c.onPins fun p => { p with dynamic := some addr }

/-- IBI_ACKNOWLEDGE (R579): the controller acknowledges the interrupt that is sent first, in code order; without a dynamic address none is sent. -/
def execIbiAcknowledge (s : State) : Host.Outcome State Fault Refusal :=
  s.onChip fun c =>
    if c.sys.pins.dynamic.isSome then { c with sys := { c.sys with alerts := c.sys.alerts.drop 1 } } else c

/-- ALERT_N is asserted (R579): until every cause is acknowledged or, where no dynamic address has been assigned, as long as the condition of a cause stands: the
thermal stop, a throttled vault, ten negative windows in a row. -/
def Chip.alertN (c : Chip) : Bool :=
  match c.sys.pins.dynamic with
  | some _ => !c.sys.alerts.isEmpty
  | none =>
    c.thermStopped || decide (10 ≤ c.rdF Reg.bellowsStat 20 8)
      || c.vaultKeys.any fun k => decide (c.rdF (Reg.vaultCtl (k / 104) (k % 104)) 32 5 < 16)

end Sys2Proof.Machine
end

