-- ==== Sys2Proof/Machine/Queues.lean ====
section
/-! DEFINITION. The descriptor queues (R72 to R79, R82, R91, R120): when a descriptor starts, when it completes, and the
descriptors NOP and QWAIT. -/

namespace Sys2Proof.Machine

/-- The kinds of Table 4-5, NOP and QWAIT standing with the exclusive ones (R120). -/
inductive MxKind where
  | array
  | flush
  | alone
  deriving DecidableEq, Repr

/-- Kind of an MX descriptor. -/
def mxKind (opc : Nat) : MxKind :=
  if 0x10 ≤ opc ∧ opc ≤ 0x14 then .array else if opc = 0x15 then .flush else .alone

/-- Whether slot and ordering rules let `e` start behind the started entries `before` (R72, R74, R78, R79, R120, R170). -/
def slotOk (q : Nat) (mxStopped : Bool) (e : Desc) (before : List QEntry) : Bool :=
  let opc := descOpc e
  let done (x : QEntry) : Bool := x.st == .ended 0
  (!bitOf e.toNat 9 || before.isEmpty) &&
  (if q = 0 then
      match mxKind opc with
      | .alone => before.isEmpty
      | kd => before.all fun x => mxKind (descOpc x.desc) != .alone && mxKind (descOpc x.desc) != kd
    else if q < 3 then before.isEmpty && !mxStopped
    else decide (before.length < 8) && (opc != 0 || before.isEmpty) && before.all fun x => descOpc x.desc != 1 || done x)

/-- The body check of a descriptor at its start: status 0x01 (R82, R91). -/
def bodyBad (q tower : Nat) (d : Desc) : Bool :=
  let x := d.toNat
  (bitOf x 8 && decide (60 ≤ field x 16 6)) ||
  (match descOpc d with
    | 0 => field x 64 192 != 0
    | 1 => field x 70 26 != 0 || field x 128 128 != 0
    | _ => if q = 0 then mxBodyBad d else if q < 3 then vxBodyBad d else if q = 3 then stairBodyBad d else arcBodyBad tower d)

/-- DATA of a DSTART or DEND event (Table 19-7). -/
def descData (q : Nat) (e : QEntry) (status : Nat) : Nat :=
  descOpc e.desc + q * 2 ^ 8 + e.index.toNat % 2 ^ 20 * 2 ^ 12 + status * 2 ^ 32 + field e.desc.toNat 40 8 * 2 ^ 40

/-- Queue q of gallery k starts its next descriptor, if it may. -/
def Chip.descStart (c : Chip) (k q : Nat) : Chip :=
  let g := c.gal k
  let es := (g.queue q).entries
  match es.find? fun e => e.st == .waiting with
  | none => c
  | some e =>
    let before := g.earlier q e.index
    let faulted := before.any fun x => match x.st with | .ended n => n != 0 | _ => false
    if !c.queueRuns k q || faulted || !slotOk q g.mx.stopped e.desc before then c
    else
      let c := if bitOf e.desc.toNat 10 then c.event (k / 104) (k % 104) 1 (descRange e.desc) (descData q e 0) else c
      c.onGal k fun g =>
        let (st, mask) : EntrySt × Nat :=
          if bodyBad q (k / 104) e.desc then (.ended 1, 0)
          else if q = 4 ∧ descOpc e.desc = 0xA1 then
            match g.mcastMask e.desc with
            | .error n => (.ended n, 0)
            | .ok m => (.running, m)
          else (.running, 0)
        let g := g.setEntry q { e with st := st, since := c.act, mask := mask }
        if q = 1 ∨ q = 2 then g.setVx (q - 1) { g.vx (q - 1) with opc := BitVec.ofNat 8 (descOpc e.desc) } else g

/-- A fault ends a descriptor: its queue halts, GFAULT records the first fault, and the usher and the core are told (R91). -/
def Chip.queueFault (c : Chip) (k q : Nat) (e : QEntry) (status : Nat) : Chip :=
  let c := c.onGal k fun g =>
    let g := g.setQueue q { g.queue q with halted := true }
    let g := { g with hart := { g.hart with mipReg := g.hart.mipReg ||| 0x00010000#32 } }
    if g.fault then g
    else { g with fault := true, faultQ := q, faultStat := BitVec.ofNat 8 status, faultIdx := BitVec.ofNat 20 e.index.toNat }
  let c := c.report (.queueFault k q status (BitVec.ofNat 20 e.index.toNat))
  c.event (k / 104) (k % 104) 7 (descRange e.desc) (q + status * 8 + e.index.toNat % 2 ^ 20 * 2 ^ 11)

/-- The ended descriptor of a queue that completes next: in issue order on MX and VX, any on STAIR and ARC; on STAIR one that ended on a fault only once the
others in flight have completed (R251). -/
def Queue.nextDone (v : Queue) (q : Nat) : Option QEntry :=
  let ended (e : QEntry) : Bool := match e.st with | .ended _ => true | _ => false
  if q < 3 then (v.entries.head?).filter ended
  else if q = 3 then
    match v.entries.find? fun e => e.st == .ended 0 with
    | some e => some e
    | none => if v.entries.any fun e => e.st == .running then none else v.entries.find? ended
  else v.entries.find? ended

/-- The faults that a queue halts on: that of e, and on STAIR of every other descriptor that has ended on one (R91, R251). -/
def Chip.queueFaults (c : Chip) (k q : Nat) (e : QEntry) (status : Nat) : Chip :=
  let others := if q = 3 then ((c.gal k).queue q).entries.filter fun x => x.index != e.index else []
  others.foldl (fun c x => match x.st with | .ended n => Chip.queueFault c k q x n | _ => c) (c.queueFault k q e status)

/-- An ended descriptor of queue q completes, in issue order on MX and VX (R73, R91, R120), on MX not while the core is stopped (R125). With the last one a gallery whose STEP waits
under a hold comes to stand held (R71, R196). -/
def Chip.descComplete (c : Chip) (k q : Nat) : Chip :=
  let g := c.gal k
  let v := g.queue q
  match v.nextDone q with
  | none => c
  | some e =>
    if v.halted || c.stopped || (q == 0 && g.mx.stopped) then c
    else
      let status := match e.st with | .ended n => n | _ => 0
      let c := if bitOf e.desc.toNat 10 then c.event (k / 104) (k % 104) 2 (descRange e.desc) (descData q e status) else c
      if status ≠ 0 then c.queueFaults k q e status
      else
        (c.onGal k fun g =>
          let v := g.queue q
          let g := g.setQueue q { v with entries := v.entries.filter fun x => x.index != e.index, done := v.done + 1 }
          if bitOf e.desc.toNat 8 then g.addCtr (field e.desc.toNat 16 6) 1 else g).heldCredit k

/-- Change the state of the first running entry of queue q with an opcode. -/
def Gallery.endEntry (g : Gallery) (q opc : Nat) (f : Desc → Option Nat) : Gallery :=
  match g.runningEntry q (· == opc) with
  | some e => match f e.desc with | some st => g.setEntry q { e with st := .ended st } | none => g
  | none => g

/-- Whether the condition of a QWAIT is met (R79). -/
def Gallery.qwaitMet (g : Gallery) (d : Desc) : Bool := g.condMet (descF d 8 0 6) (BitVec.ofNat 32 (descF d 12 0 32))

/-- DESCRIPTOR_START (R72, R74), with the errors that the descriptor's reads will find (R86, R487). -/
def execDescriptorStart (x : GalRun) (q : QueueId) (s : State) : Host.Outcome State Fault Refusal :=
  s.onChip fun c => (if c.queueRuns (galKey x.gal) (queueNum q) then x.errs.foldl (Chip.upset x.gal) c else c).descStart (galKey x.gal) (queueNum q)

/-- DESCRIPTOR_COMPLETE (R73, R91). -/
def execDescriptorComplete (g : GalId) (q : QueueId) (s : State) : Host.Outcome State Fault Refusal :=
  s.onChip fun c => c.descComplete (galKey g) (queueNum q)

/-- NOP (R78). -/
def execNop (g : GalId) (q : QueueId) (s : State) : Host.Outcome State Fault Refusal :=
  s.onQueue g (queueNum q) fun c k => c.onGal k fun g => g.endEntry (queueNum q) 0 fun _ => some 0

/-- QWAIT: its condition is met (R79). -/
def execQwait (g : GalId) (q : QueueId) (s : State) : Host.Outcome State Fault Refusal :=
  s.onQueue g (queueNum q) fun c k => c.onGal k fun g => g.endEntry (queueNum q) 1 fun d => if g.qwaitMet d then some 0 else none

/-- QWAIT_TIMEOUT: the wait limit of GWAITLIM passes since the QWAIT started and its condition is not met (R79, R88). -/
def execQwaitTimeout (g : GalId) (q : QueueId) (s : State) : Host.Outcome State Fault Refusal :=
  s.onQueue g (queueNum q) fun c k => c.onGal k fun g =>
    match g.runningEntry (queueNum q) (· == 1) with
    | some e => if c.pastLimit k e.since && !g.qwaitMet e.desc then g.setEntry (queueNum q) { e with st := .ended 3 } else g
    | none => g

end Sys2Proof.Machine
end

