-- ==== Sys2Proof/Machine/StairCommands.lean ====
section
/-! DEFINITION. The commands of the stair engine (R240 to R251): the run of a descriptor that its queue has started. -/

namespace Sys2Proof.Machine

/-- A STAIR descriptor with this opcode. -/
def isStairOpc (opc : Nat) (d : Desc) : Bool := descOpc d == opc

/-- An ST.CMO descriptor with this operation. -/
def isCmo (op : Nat) (d : Desc) : Bool := descOpc d == 0x84 && descF d 8 40 3 == op

/-- ST.LOAD (R242 to R245). -/
def execStLoad (g : GalId) (s : State) : Host.Outcome State Fault Refusal :=
  s.onQueue g 3 fun c k => c.stairRun k (isStairOpc 0x80) (Chip.stMoveRun true)

/-- ST.STORE (R242 to R245). -/
def execStStore (g : GalId) (s : State) : Host.Outcome State Fault Refusal :=
  s.onQueue g 3 fun c k => c.stairRun k (isStairOpc 0x81) (Chip.stMoveRun false)

/-- ST.GATHER (R246). -/
def execStGather (g : GalId) (s : State) : Host.Outcome State Fault Refusal :=
  s.onQueue g 3 fun c k => c.stairRun k (isStairOpc 0x82) Chip.stGather

/-- ST.SCATTER (R247). -/
def execStScatter (g : GalId) (s : State) : Host.Outcome State Fault Refusal :=
  s.onQueue g 3 fun c k => c.stairRun k (isStairOpc 0x83) Chip.stScatter

/-- ST.CMO, operation 0 (R248). -/
def execStCmoWriteback (g : GalId) (s : State) : Host.Outcome State Fault Refusal :=
  s.onQueue g 3 fun c k => c.stairRun k (isCmo 0) (Chip.stCmo 0)

/-- ST.CMO, operation 1 (R248). -/
def execStCmoReleasePins (g : GalId) (s : State) : Host.Outcome State Fault Refusal :=
  s.onQueue g 3 fun c k => c.stairRun k (isCmo 1) (Chip.stCmo 1)

/-- ST.CMO, operation 2 (R248). -/
def execStCmoPrefetch (g : GalId) (s : State) : Host.Outcome State Fault Refusal :=
  s.onQueue g 3 fun c k => c.stairRun k (isCmo 2) (Chip.stCmo 2)

/-- ST.CMO, operation 3 (R248). -/
def execStCmoPrefetchPin (g : GalId) (s : State) : Host.Outcome State Fault Refusal :=
  s.onQueue g 3 fun c k => c.stairRun k (isCmo 3) (Chip.stCmo 3)

/-- ST.CMO, operation 4 (R248). -/
def execStCmoFlushInvalidate (g : GalId) (s : State) : Host.Outcome State Fault Refusal :=
  s.onQueue g 3 fun c k => c.stairRun k (isCmo 4) (Chip.stCmo 4)

end Sys2Proof.Machine
end

