-- ==== Sys2Proof/Machine/VectorCommands.lean ====
section
/-! DEFINITION. The commands of chapter The Vector Core: each runs the descriptor in flight on one vector
core's queue, if it has the command's opcode. -/

namespace Sys2Proof.Machine

/-- What a VX descriptor's end leaves: its status in its entry, and PERR after a parity error (R172, R173). -/
def Gallery.vxEnd (g : Gallery) (i : Nat) (e : QEntry) (st : Nat) : Gallery :=
  let g := if st = 0x12 then g.setVx i { g.vx i with perr := true } else g
  g.setEntry (1 + i) { e with st := .ended st }

/-- Scratchpad bytes one row reads and writes, with scales and bitmap rows (R168). DESIGN CHOICE: log entry 76. A row that two
sources name counts once. DESIGN CHOICE: log entry 121. -/
def vxRowTraffic (x : VxRun) : Nat :=
  let opc := descOpc x.d
  let rd (spec : Nat) : Nat := if spec = 0xD then vxRowBytes x.sfmt + vxScaleBytes x.sfmt else 0
  let reads := if vxReadsSpad x then max (rd x.sa) (max (rd x.sb) (rd x.sc)) else 0
  let reads := if opc = 0x6C then vxRowBytes x.sfmt + vxScaleBytes x.sfmt else reads
  let writes := if vxWritesSpad x then vxRowBytes x.dfmt + vxScaleBytes x.dfmt else 0
  reads + writes + (if opc = 0x3B ∨ ((opc = 0x39 ∨ opc = 0x48) ∧ ¬ x.vec) then 16 else 0)

/-- The beats of a descriptor that waits on no bank (R168, Table 6-7); a gather's skipped rows and an element
gather's blocks are counted from its index register or rows as they stand. DESIGN CHOICE: log entry 76. -/
def vxBeats (g : Gallery) (x : VxRun) : Nat :=
  let opc := descOpc x.d
  let v := g.vx x.core
  let e := if x.vec then 1 else (List.range 128).countP fun r => x.rowOn (v.mask x.pm) r
  let rho := max 1 ((vxRowTraffic x + 511) / 512)
  let ax := bitOf x.mod 7 && !x.vec
  if opc ≤ 0x48 then e * rho + 2
  else if opc ≤ 0x59 then e * rho + 6
  else if opc = 0x64 then e * rho + 10
  else if opc ≤ 0x65 then e * rho + (if ax then 2 else 8)
  else if opc ≤ 0x67 then e * rho + 8
  else if opc ≤ 0x6D then ((List.range 128).countP fun r => x.rowOn (v.mask x.pm) r && v.word (vecKey (x.sa - 4) r) != 0xFFFFFFFF#32) * rho + 2
  else if opc = 0x6E then
    let bits := (Fmt.ofCode x.sfmt).bits / 8
    let row (r : Nat) : Nat :=
      match g.vxSource x x.sa x.xa r with
      | .ok ws => max 1 (((ws.map fun w => (x.spa + w.toNat * bits) / 128).eraseDups.length + 3) / 4)
      | .error _ => 1
    ((List.range x.rows).map fun r => if x.vec || x.rowOn (v.mask x.pm) r then row r else 0).foldl (· + ·) 0 + 2
  else if opc ≤ 0x73 then 3
  else if opc = 0x78 then 12
  else if opc = 0x79 then 16 * x.mod + 8
  else 524

/-- Run the descriptor in flight on vector core i of gallery g if it has this opcode (R72, R172). -/
def State.onVx (s : State) (g : GalId) (i : Fin 2) (opc : Nat) (f : Gallery → VxRun → Gallery × Nat) :
    Host.Outcome State Fault Refusal :=
  s.onQueue g (1 + i.val) fun c k => c.onGal k fun g =>
    match g.runningEntry (1 + i.val) (· == opc) with
    | none => g
    | some e =>
      let x : VxRun := { core := i.val, d := e.desc, issue := e.index.toNat, c3 := srC3 (1 + i.val) c.epoch }
      let r := f g x
      (r.1.rngAdd (descRange e.desc) 4 (vxBeats g x)).vxEnd i.val e r.2

/-- VMOV: copies an operand (R152, R153). -/
def execVmov (g : GalId) (i : Fin 2) (s : State) : Host.Outcome State Fault Refusal :=
  s.onVx g i 0x30 fun g x => g.vxMap1 x id

/-- VADD: a + b (R152, R145). -/
def execVadd (g : GalId) (i : Fin 2) (s : State) : Host.Outcome State Fault Refusal :=
  s.onVx g i 0x31 fun g x => g.vxMap2 x fAdd

/-- VSUB: a − b (R152). -/
def execVsub (g : GalId) (i : Fin 2) (s : State) : Host.Outcome State Fault Refusal :=
  s.onVx g i 0x32 fun g x => g.vxMap2 x fSub

/-- VMUL: a × b (R152). -/
def execVmul (g : GalId) (i : Fin 2) (s : State) : Host.Outcome State Fault Refusal :=
  s.onVx g i 0x33 fun g x => g.vxMap2 x fMul

/-- VFMA: a × b + c rounded once (R153). -/
def execVfma (g : GalId) (i : Fin 2) (s : State) : Host.Outcome State Fault Refusal :=
  s.onVx g i 0x34 fun g x => g.vxMap3 x fFma

/-- VMAX: maximumNumber (R153). -/
def execVmax (g : GalId) (i : Fin 2) (s : State) : Host.Outcome State Fault Refusal :=
  s.onVx g i 0x35 fun g x => g.vxMap2 x fMax

/-- VMIN: minimumNumber (R153). -/
def execVmin (g : GalId) (i : Fin 2) (s : State) : Host.Outcome State Fault Refusal :=
  s.onVx g i 0x36 fun g x => g.vxMap2 x fMin

/-- VABS: |a| (R153). -/
def execVabs (g : GalId) (i : Fin 2) (s : State) : Host.Outcome State Fault Refusal :=
  s.onVx g i 0x37 fun g x => g.vxMap1 x fAbs

/-- VNEG: −a (R153). -/
def execVneg (g : GalId) (i : Fin 2) (s : State) : Host.Outcome State Fault Refusal :=
  s.onVx g i 0x38 fun g x => g.vxMap1 x fNeg

/-- VCMP: FP32 compare (R154). -/
def execVcmp (g : GalId) (i : Fin 2) (s : State) : Host.Outcome State Fault Refusal :=
  s.onVx g i 0x39 fun g x => g.vxCompare x (fRel x.mod)

/-- VCSEL: keeps the destination element where the relation is false (R154). -/
def execVcsel (g : GalId) (i : Fin 2) (s : State) : Host.Outcome State Fault Refusal :=
  s.onVx g i 0x3A fun g x => g.vxLanes x true true true fun _ _ a b c => if fRel x.mod a b then some (canonNaN c) else none

/-- VSELB: select by bitmap (R154). -/
def execVselb (g : GalId) (i : Fin 2) (s : State) : Host.Outcome State Fault Refusal :=
  s.onVx g i 0x3B fun g x => g.vxSelb x

/-- VIOTA: IMM plus the column or row index (R155). -/
def execViota (g : GalId) (i : Fin 2) (s : State) : Host.Outcome State Fault Refusal :=
  s.onVx g i 0x3C fun g x => g.vxIota x

/-- VCVT: conversion between types (R155). -/
def execVcvt (g : GalId) (i : Fin 2) (s : State) : Host.Outcome State Fault Refusal :=
  s.onVx g i 0x3D fun g x => g.vxCvt x

/-- VIADD: integer addition, or W64 (R155). -/
def execViadd (g : GalId) (i : Fin 2) (s : State) : Host.Outcome State Fault Refusal :=
  s.onVx g i 0x40 fun g x => g.vxIadd x

/-- VISUB: a − b modulo 2^32 (R152). -/
def execVisub (g : GalId) (i : Fin 2) (s : State) : Host.Outcome State Fault Refusal :=
  s.onVx g i 0x41 fun g x => g.vxMap2 x fun a b => a - b

/-- VIMUL: low 32 bits of a × b (R152). -/
def execVimul (g : GalId) (i : Fin 2) (s : State) : Host.Outcome State Fault Refusal :=
  s.onVx g i 0x42 fun g x => g.vxMap2 x fun a b => a * b

/-- VIAND: bitwise AND (R152). -/
def execViand (g : GalId) (i : Fin 2) (s : State) : Host.Outcome State Fault Refusal :=
  s.onVx g i 0x43 fun g x => g.vxMap2 x fun a b => a &&& b

/-- VIOR: bitwise OR (R152). -/
def execVior (g : GalId) (i : Fin 2) (s : State) : Host.Outcome State Fault Refusal :=
  s.onVx g i 0x44 fun g x => g.vxMap2 x fun a b => a ||| b

/-- VIXOR: bitwise XOR (R152). -/
def execVixor (g : GalId) (i : Fin 2) (s : State) : Host.Outcome State Fault Refusal :=
  s.onVx g i 0x45 fun g x => g.vxMap2 x fun a b => a ^^^ b

/-- VISHL: a << b[4:0] (R152). -/
def execVishl (g : GalId) (i : Fin 2) (s : State) : Host.Outcome State Fault Refusal :=
  s.onVx g i 0x46 fun g x => g.vxMap2 x fun a b => a <<< (b.toNat % 32)

/-- VISHR: a >> b[4:0], arithmetic with MOD[0] (R152). -/
def execVishr (g : GalId) (i : Fin 2) (s : State) : Host.Outcome State Fault Refusal :=
  s.onVx g i 0x47 fun g x => g.vxMap2 x fun a b => if bitOf x.mod 0 then a.sshiftRight (b.toNat % 32) else a >>> (b.toNat % 32)

/-- VICMP: integer compare (R154). -/
def execVicmp (g : GalId) (i : Fin 2) (s : State) : Host.Outcome State Fault Refusal :=
  s.onVx g i 0x48 fun g x => g.vxCompare x (iRel (x.mod % 8) (bitOf x.mod 3))

/-- VEXP: e^x (R156). -/
def execVexp (g : GalId) (i : Fin 2) (s : State) : Host.Outcome State Fault Refusal :=
  s.onVx g i 0x50 fun g x => g.vxSpecial x fExp

/-- VEXP2: 2^x (R156). -/
def execVexp2 (g : GalId) (i : Fin 2) (s : State) : Host.Outcome State Fault Refusal :=
  s.onVx g i 0x51 fun g x => g.vxSpecial x fExp2

/-- VLOG: ln x (R156). -/
def execVlog (g : GalId) (i : Fin 2) (s : State) : Host.Outcome State Fault Refusal :=
  s.onVx g i 0x52 fun g x => g.vxSpecial x fLog

/-- VRCP: 1 / x (R156). -/
def execVrcp (g : GalId) (i : Fin 2) (s : State) : Host.Outcome State Fault Refusal :=
  s.onVx g i 0x53 fun g x => g.vxSpecial x fRcp

/-- VRSQRT: 1 / √x (R156). -/
def execVrsqrt (g : GalId) (i : Fin 2) (s : State) : Host.Outcome State Fault Refusal :=
  s.onVx g i 0x54 fun g x => g.vxSpecial x fRsqrt

/-- VTANH: tanh x (R156). -/
def execVtanh (g : GalId) (i : Fin 2) (s : State) : Host.Outcome State Fault Refusal :=
  s.onVx g i 0x55 fun g x => g.vxSpecial x fTanh

/-- VSIGM: 1 / (1 + e^−x) (R156). -/
def execVsigm (g : GalId) (i : Fin 2) (s : State) : Host.Outcome State Fault Refusal :=
  s.onVx g i 0x56 fun g x => g.vxSpecial x fSigm

/-- VSILU: x / (1 + e^−x) (R156). -/
def execVsilu (g : GalId) (i : Fin 2) (s : State) : Host.Outcome State Fault Refusal :=
  s.onVx g i 0x57 fun g x => g.vxSpecial x fSilu

/-- VGELU: x·Φ(x) in erf or tanh form (R156). -/
def execVgelu (g : GalId) (i : Fin 2) (s : State) : Host.Outcome State Fault Refusal :=
  s.onVx g i 0x58 fun g x => g.vxSpecial x (if bitOf x.mod 0 then fGeluTanh else fGeluErf)

/-- VROT: rotary position coding (R157). -/
def execVrot (g : GalId) (i : Fin 2) (s : State) : Host.Outcome State Fault Refusal :=
  s.onVx g i 0x59 fun g x => g.vxRot x

/-- VRSUM: sum (R158). -/
def execVrsum (g : GalId) (i : Fin 2) (s : State) : Host.Outcome State Fault Refusal :=
  s.onVx g i 0x60 fun g x => g.vxRsum x

/-- VRMAX: maximum (R158). -/
def execVrmax (g : GalId) (i : Fin 2) (s : State) : Host.Outcome State Fault Refusal :=
  s.onVx g i 0x61 fun g x => g.vxReduce x 1 (reduceWord (foldBest fMax (inf32 true)) fMax)

/-- VRMIN: minimum (R158). -/
def execVrmin (g : GalId) (i : Fin 2) (s : State) : Host.Outcome State Fault Refusal :=
  s.onVx g i 0x62 fun g x => g.vxReduce x 1 (reduceWord (foldBest fMin (inf32 false)) fMin)

/-- VRAMAX: argmax (R159). -/
def execVramax (g : GalId) (i : Fin 2) (s : State) : Host.Outcome State Fault Refusal :=
  s.onVx g i 0x63 fun g x => g.vxRamax x

/-- VTOPK: top-k list (R160). -/
def execVtopk (g : GalId) (i : Fin 2) (s : State) : Host.Outcome State Fault Refusal :=
  s.onVx g i 0x64 fun g x => g.vxTopk x

/-- VSCAN: prefix sums (R161). -/
def execVscan (g : GalId) (i : Fin 2) (s : State) : Host.Outcome State Fault Refusal :=
  s.onVx g i 0x65 fun g x => g.vxScan x

/-- VCOUNT: histogram (R162). -/
def execVcount (g : GalId) (i : Fin 2) (s : State) : Host.Outcome State Fault Refusal :=
  s.onVx g i 0x66 fun g x => g.vxCount x

/-- VRANKB: rank within bin (R162). -/
def execVrankb (g : GalId) (i : Fin 2) (s : State) : Host.Outcome State Fault Refusal :=
  s.onVx g i 0x67 fun g x => g.vxRankb x

/-- VGATHER: rows by index (R163). -/
def execVgather (g : GalId) (i : Fin 2) (s : State) : Host.Outcome State Fault Refusal :=
  s.onVx g i 0x6C fun g x => g.vxGather x

/-- VSCATTER: rows to indexed rows (R163). -/
def execVscatter (g : GalId) (i : Fin 2) (s : State) : Host.Outcome State Fault Refusal :=
  s.onVx g i 0x6D fun g x => g.vxScatter x

/-- VGATHERE: elements by index (R164). -/
def execVgathere (g : GalId) (i : Fin 2) (s : State) : Host.Outcome State Fault Refusal :=
  s.onVx g i 0x6E fun g x => g.vxGathere x

/-- MLOG: mask logic (R152). -/
def execMlog (g : GalId) (i : Fin 2) (s : State) : Host.Outcome State Fault Refusal :=
  s.onVx g i 0x70 fun g x => g.vxMlog x

/-- MLD: mask load (R152). -/
def execMld (g : GalId) (i : Fin 2) (s : State) : Host.Outcome State Fault Refusal :=
  s.onVx g i 0x71 fun g x => g.vxMld x

/-- MST: mask store (R152). -/
def execMst (g : GalId) (i : Fin 2) (s : State) : Host.Outcome State Fault Refusal :=
  s.onVx g i 0x72 fun g x => g.vxMst x

/-- MPOPC: popcount of a mask (R152). -/
def execMpopc (g : GalId) (i : Fin 2) (s : State) : Host.Outcome State Fault Refusal :=
  s.onVx g i 0x73 fun g x => g.vxMpopc x

/-- VRAND: Philox draw (R165). -/
def execVrand (g : GalId) (i : Fin 2) (s : State) : Host.Outcome State Fault Refusal :=
  s.onVx g i 0x78 fun g x => g.vxRand x

/-- VSAMP: token draw (R166). -/
def execVsamp (g : GalId) (i : Fin 2) (s : State) : Host.Outcome State Fault Refusal :=
  s.onVx g i 0x79 fun g x => g.vxSamp x

/-- VSAVE: save every register (R171). -/
def execVsave (g : GalId) (i : Fin 2) (s : State) : Host.Outcome State Fault Refusal :=
  s.onVx g i 0x7E fun g x => g.vxSave x

/-- VRESTORE: restore every register (R171). -/
def execVrestore (g : GalId) (i : Fin 2) (s : State) : Host.Outcome State Fault Refusal :=
  s.onVx g i 0x7F fun g x => g.vxRestore x

end Sys2Proof.Machine
end

