-- ==== Sys2Proof/Machine/Dispatch.lean ====
section
/-! DEFINITION. The one dispatch: each command's arm is a call of its meaning. -/

namespace Sys2Proof.Machine

/-- The effect of a command on everything but the queue. -/
def exec (cmd : Instr) (s : State) : Host.Outcome State Fault Refusal :=
  match cmd with
  | .reg64LowHalfRead who off wide => Sys2Proof.Machine.execReg64LowHalfRead who off wide s
  | .bar0MisalignedAccess off size write => Sys2Proof.Machine.execBar0MisalignedAccess off size write s
  | .registerWrite a wide v => Sys2Proof.Machine.execRegisterWrite a wide v s
  | .scalarInstruction x => Sys2Proof.Machine.execScalarInstruction x s
  | .mret g => Sys2Proof.Machine.execMret g s
  | .issue g rd rs1 q nb => Sys2Proof.Machine.execIssue g rd rs1 q nb s
  | .issueQueueRoom g => Sys2Proof.Machine.execIssueQueueRoom g s
  | .fenceq g rs1 => Sys2Proof.Machine.execFenceq g rs1 s
  | .fenceqDrained g => Sys2Proof.Machine.execFenceqDrained g s
  | .step g rs1 => Sys2Proof.Machine.execStep g rs1 s
  | .stepHoldRelease g => Sys2Proof.Machine.execStepHoldRelease g s
  | .epoch g rd => Sys2Proof.Machine.execEpoch g rd s
  | .waitc g rd rs1 rs2 => Sys2Proof.Machine.execWaitc g rd rs1 rs2 s
  | .waitcPoll g rd rs1 rs2 => Sys2Proof.Machine.execWaitcPoll g rd rs1 rs2 s
  | .waitcConditionMet g => Sys2Proof.Machine.execWaitcConditionMet g s
  | .waitTimeout g => Sys2Proof.Machine.execWaitTimeout g s
  | .sigc g rs1 rs2 => Sys2Proof.Machine.execSigc g rs1 rs2 s
  | .sigcSet g rs1 rs2 => Sys2Proof.Machine.execSigcSet g rs1 rs2 s
  | .remoteSignalReceive src dst => Sys2Proof.Machine.execRemoteSignalReceive src dst s
  | .markPush g rd rs1 => Sys2Proof.Machine.execMarkPush g rd rs1 s
  | .markPop g rd => Sys2Proof.Machine.execMarkPop g rd s
  | .gctlHalt x => Sys2Proof.Machine.execGctlHalt x s
  | .gctlQrst g mask => Sys2Proof.Machine.execGctlQrst g mask s
  | .gfaultClear g => Sys2Proof.Machine.execGfaultClear g s
  | .gcredWrite g v => Sys2Proof.Machine.execGcredWrite g v s
  | .descriptorStart x q => Sys2Proof.Machine.execDescriptorStart x q s
  | .descriptorComplete g q => Sys2Proof.Machine.execDescriptorComplete g q s
  | .nop g q => Sys2Proof.Machine.execNop g q s
  | .qwait g q => Sys2Proof.Machine.execQwait g q s
  | .qwaitTimeout g q => Sys2Proof.Machine.execQwaitTimeout g q s
  | .coreParityError g q => Sys2Proof.Machine.execCoreParityError g q s
  | .usherMailboxWrite g n data => Sys2Proof.Machine.execUsherMailboxWrite g n data s
  | .mxLoad g => Sys2Proof.Machine.execMxLoad g s
  | .mxStream g => Sys2Proof.Machine.execMxStream g s
  | .mxStreamg g => Sys2Proof.Machine.execMxStreamg g s
  | .mxStreamw g => Sys2Proof.Machine.execMxStreamw g s
  | .mxKloop g => Sys2Proof.Machine.execMxKloop g s
  | .mxFlush g => Sys2Proof.Machine.execMxFlush g s
  | .mxCfg g => Sys2Proof.Machine.execMxCfg g s
  | .mxSave g => Sys2Proof.Machine.execMxSave g s
  | .mxRestore g => Sys2Proof.Machine.execMxRestore g s
  | .mxPreemptionStop g => Sys2Proof.Machine.execMxPreemptionStop g s
  | .mxStopDrained g tile row inLoad flush => Sys2Proof.Machine.execMxStopDrained g tile row inLoad flush s
  | .mxGo g => Sys2Proof.Machine.execMxGo g s
  | .mxServiceRun x => Sys2Proof.Machine.execMxServiceRun x s
  | .vmov g i => Sys2Proof.Machine.execVmov g i s
  | .vadd g i => Sys2Proof.Machine.execVadd g i s
  | .vsub g i => Sys2Proof.Machine.execVsub g i s
  | .vmul g i => Sys2Proof.Machine.execVmul g i s
  | .vfma g i => Sys2Proof.Machine.execVfma g i s
  | .vmax g i => Sys2Proof.Machine.execVmax g i s
  | .vmin g i => Sys2Proof.Machine.execVmin g i s
  | .vabs g i => Sys2Proof.Machine.execVabs g i s
  | .vneg g i => Sys2Proof.Machine.execVneg g i s
  | .vcmp g i => Sys2Proof.Machine.execVcmp g i s
  | .vcsel g i => Sys2Proof.Machine.execVcsel g i s
  | .vselb g i => Sys2Proof.Machine.execVselb g i s
  | .viota g i => Sys2Proof.Machine.execViota g i s
  | .vcvt g i => Sys2Proof.Machine.execVcvt g i s
  | .viadd g i => Sys2Proof.Machine.execViadd g i s
  | .visub g i => Sys2Proof.Machine.execVisub g i s
  | .vimul g i => Sys2Proof.Machine.execVimul g i s
  | .viand g i => Sys2Proof.Machine.execViand g i s
  | .vior g i => Sys2Proof.Machine.execVior g i s
  | .vixor g i => Sys2Proof.Machine.execVixor g i s
  | .vishl g i => Sys2Proof.Machine.execVishl g i s
  | .vishr g i => Sys2Proof.Machine.execVishr g i s
  | .vicmp g i => Sys2Proof.Machine.execVicmp g i s
  | .vexp g i => Sys2Proof.Machine.execVexp g i s
  | .vexp2 g i => Sys2Proof.Machine.execVexp2 g i s
  | .vlog g i => Sys2Proof.Machine.execVlog g i s
  | .vrcp g i => Sys2Proof.Machine.execVrcp g i s
  | .vrsqrt g i => Sys2Proof.Machine.execVrsqrt g i s
  | .vtanh g i => Sys2Proof.Machine.execVtanh g i s
  | .vsigm g i => Sys2Proof.Machine.execVsigm g i s
  | .vsilu g i => Sys2Proof.Machine.execVsilu g i s
  | .vgelu g i => Sys2Proof.Machine.execVgelu g i s
  | .vrot g i => Sys2Proof.Machine.execVrot g i s
  | .vrsum g i => Sys2Proof.Machine.execVrsum g i s
  | .vrmax g i => Sys2Proof.Machine.execVrmax g i s
  | .vrmin g i => Sys2Proof.Machine.execVrmin g i s
  | .vramax g i => Sys2Proof.Machine.execVramax g i s
  | .vtopk g i => Sys2Proof.Machine.execVtopk g i s
  | .vscan g i => Sys2Proof.Machine.execVscan g i s
  | .vcount g i => Sys2Proof.Machine.execVcount g i s
  | .vrankb g i => Sys2Proof.Machine.execVrankb g i s
  | .vgather g i => Sys2Proof.Machine.execVgather g i s
  | .vscatter g i => Sys2Proof.Machine.execVscatter g i s
  | .vgathere g i => Sys2Proof.Machine.execVgathere g i s
  | .mlog g i => Sys2Proof.Machine.execMlog g i s
  | .mld g i => Sys2Proof.Machine.execMld g i s
  | .mst g i => Sys2Proof.Machine.execMst g i s
  | .mpopc g i => Sys2Proof.Machine.execMpopc g i s
  | .vrand g i => Sys2Proof.Machine.execVrand g i s
  | .vsamp g i => Sys2Proof.Machine.execVsamp g i s
  | .vsave g i => Sys2Proof.Machine.execVsave g i s
  | .vrestore g i => Sys2Proof.Machine.execVrestore g i s
  | .retentionWake g cause => Sys2Proof.Machine.execRetentionWake g cause s
  | .arcPut g => Sys2Proof.Machine.execArcPut g s
  | .arcMcast g => Sys2Proof.Machine.execArcMcast g s
  | .arcIsend g => Sys2Proof.Machine.execArcIsend g s
  | .arcSig g => Sys2Proof.Machine.execArcSig g s
  | .arcMsg g => Sys2Proof.Machine.execArcMsg g s
  | .arcTransferReceive n crc => Sys2Proof.Machine.execArcTransferReceive n crc s
  | .arcAckReceive n => Sys2Proof.Machine.execArcAckReceive n s
  | .ingressDeliveryResume g sched => Sys2Proof.Machine.execIngressDeliveryResume g sched s
  | .msgRingHeadWrite g head => Sys2Proof.Machine.execMsgRingHeadWrite g head s
  | .mcastStall t p n => Sys2Proof.Machine.execMcastStall t p n s
  | .galleryFence g cause => Sys2Proof.Machine.execGalleryFence g cause s
  | .stLoad g => Sys2Proof.Machine.execStLoad g s
  | .stStore g => Sys2Proof.Machine.execStStore g s
  | .stGather g => Sys2Proof.Machine.execStGather g s
  | .stScatter g => Sys2Proof.Machine.execStScatter g s
  | .stCmoWriteback g => Sys2Proof.Machine.execStCmoWriteback g s
  | .stCmoReleasePins g => Sys2Proof.Machine.execStCmoReleasePins g s
  | .stCmoPrefetch g => Sys2Proof.Machine.execStCmoPrefetch g s
  | .stCmoPrefetchPin g => Sys2Proof.Machine.execStCmoPrefetchPin g s
  | .stCmoFlushInvalidate g => Sys2Proof.Machine.execStCmoFlushInvalidate g s
  | .sliceRequest tag line op ah who => Sys2Proof.Machine.execSliceRequest tag line op ah who s
  | .sliceFill line => Sys2Proof.Machine.execSliceFill line s
  | .backInvalidate line => Sys2Proof.Machine.execBackInvalidate line s
  | .vaultRequest t v n => Sys2Proof.Machine.execVaultRequest t v n s
  | .refresh t v layer bank => Sys2Proof.Machine.execRefresh t v layer bank s
  | .delayLineCheck t v layer needed => Sys2Proof.Machine.execDelayLineCheck t v layer needed s
  | .landingRetrain t v layer needed => Sys2Proof.Machine.execLandingRetrain t v layer needed s
  | .laneFailRetrain p lane => Sys2Proof.Machine.execLaneFailRetrain p lane s
  | .selfRefreshEntry t v => Sys2Proof.Machine.execSelfRefreshEntry t v s
  | .selfRefreshWritebackTimeout t v written => Sys2Proof.Machine.execSelfRefreshWritebackTimeout t v written s
  | .selfRefreshExit t v needed => Sys2Proof.Machine.execSelfRefreshExit t v needed s
  | .bridgeBurstReceive b forward x => Sys2Proof.Machine.execBridgeBurstReceive b forward x s
  | .bridgeOutOfService b => Sys2Proof.Machine.execBridgeOutOfService b s
  | .stairOutOfService t h => Sys2Proof.Machine.execStairOutOfService t h s
  | .attnQuery side => Sys2Proof.Machine.execAttnQuery side s
  | .attnPartial l => Sys2Proof.Machine.execAttnPartial l s
  | .attnPartialTimeout tag => Sys2Proof.Machine.execAttnPartialTimeout tag s
  | .phasePolicyChange phase => Sys2Proof.Machine.execPhasePolicyChange phase s
  | .changeoverBegin => Sys2Proof.Machine.execChangeoverBegin s
  | .epochClose copies => Sys2Proof.Machine.execEpochClose copies s
  | .closingTimeout => Sys2Proof.Machine.execClosingTimeout s
  | .moveFlip n => Sys2Proof.Machine.execMoveFlip n s
  | .movesComplete => Sys2Proof.Machine.execMovesComplete s
  | .epochOpen lags => Sys2Proof.Machine.execEpochOpen lags s
  | .stepResultsAccept batch => Sys2Proof.Machine.execStepResultsAccept batch s
  | .ldl x rd rs1 => Sys2Proof.Machine.execLdl x rd rs1 s
  | .ldlDataArrival x => Sys2Proof.Machine.execLdlDataArrival x s
  | .stl x rs1 rs2 => Sys2Proof.Machine.execStl x rs1 rs2 s
  | .lineOpRetry x => Sys2Proof.Machine.execLineOpRetry x s
  | .pcopy x rs1 rs2 => Sys2Proof.Machine.execPcopy x rs1 rs2 s
  | .fencel x rd => Sys2Proof.Machine.execFencel x rd s
  | .jdone x rs1 => Sys2Proof.Machine.execJdone x rs1 s
  | .qsimdAdd x w rd rs1 rs2 => Sys2Proof.Machine.execQsimdAdd x w rd rs1 rs2 s
  | .qsimdSub x w rd rs1 rs2 => Sys2Proof.Machine.execQsimdSub x w rd rs1 rs2 s
  | .qsimdMul x w rd rs1 rs2 => Sys2Proof.Machine.execQsimdMul x w rd rs1 rs2 s
  | .qsimdSmin x w rd rs1 rs2 => Sys2Proof.Machine.execQsimdSmin x w rd rs1 rs2 s
  | .qsimdSmax x w rd rs1 rs2 => Sys2Proof.Machine.execQsimdSmax x w rd rs1 rs2 s
  | .qsimdUmin x w rd rs1 rs2 => Sys2Proof.Machine.execQsimdUmin x w rd rs1 rs2 s
  | .qsimdUmax x w rd rs1 rs2 => Sys2Proof.Machine.execQsimdUmax x w rd rs1 rs2 s
  | .qsimdAnd x w rd rs1 rs2 => Sys2Proof.Machine.execQsimdAnd x w rd rs1 rs2 s
  | .qsimdOr x w rd rs1 rs2 => Sys2Proof.Machine.execQsimdOr x w rd rs1 rs2 s
  | .qsimdXor x w rd rs1 rs2 => Sys2Proof.Machine.execQsimdXor x w rd rs1 rs2 s
  | .qsimdShl x w rd rs1 rs2 => Sys2Proof.Machine.execQsimdShl x w rd rs1 rs2 s
  | .qsimdShr x w rd rs1 rs2 => Sys2Proof.Machine.execQsimdShr x w rd rs1 rs2 s
  | .qsimdSar x w rd rs1 rs2 => Sys2Proof.Machine.execQsimdSar x w rd rs1 rs2 s
  | .qsimdEq x w rd rs1 rs2 => Sys2Proof.Machine.execQsimdEq x w rd rs1 rs2 s
  | .qsimdPermute x rd rs1 rs2 => Sys2Proof.Machine.execQsimdPermute x rd rs1 rs2 s
  | .qsimdFadd x rd rs1 rs2 => Sys2Proof.Machine.execQsimdFadd x rd rs1 rs2 s
  | .qsimdFmul x rd rs1 rs2 => Sys2Proof.Machine.execQsimdFmul x rd rs1 rs2 s
  | .qsimdFma x rd rs1 rs2 => Sys2Proof.Machine.execQsimdFma x rd rs1 rs2 s
  | .qsimdFmax x rd rs1 rs2 => Sys2Proof.Machine.execQsimdFmax x rd rs1 rs2 s
  | .qins x lane rd rs1 => Sys2Proof.Machine.execQins x lane rd rs1 s
  | .qext x lane rd rs1 => Sys2Proof.Machine.execQext x lane rd rs1 s
  | .qcvt x rd rs1 rs2 => Sys2Proof.Machine.execQcvt x rd rs1 rs2 s
  | .qcrc x rd rs1 rs2 => Sys2Proof.Machine.execQcrc x rd rs1 rs2 s
  | .qpgen x rd rs1 rs2 => Sys2Proof.Machine.execQpgen x rd rs1 rs2 s
  | .jobEnqueue x w7 => Sys2Proof.Machine.execJobEnqueue x w7 s
  | .jobStart x => Sys2Proof.Machine.execJobStart x s
  | .rangesDeclared x => Sys2Proof.Machine.execRangesDeclared x s
  | .jobCancel x jobid => Sys2Proof.Machine.execJobCancel x jobid s
  | .bottomBurst x n => Sys2Proof.Machine.execBottomBurst x n s
  | .tokenHandoff x => Sys2Proof.Machine.execTokenHandoff x s
  | .heldReadRelease x => Sys2Proof.Machine.execHeldReadRelease x s
  | .patrolPass x => Sys2Proof.Machine.execPatrolPass x s
  | .chanterFallbackStart t col jobid entry => Sys2Proof.Machine.execChanterFallbackStart t col jobid entry s
  | .admitCmd sq good => Sys2Proof.Machine.execAdmit sq good s
  | .ticketBound w => Sys2Proof.Machine.execTicketBound w s
  | .prefillDone w => Sys2Proof.Machine.execPrefillDone w s
  | .runningSetAdmit residue => Sys2Proof.Machine.execRunningSetAdmit residue s
  | .rowTableForm lags => Sys2Proof.Machine.execRowTableForm lags s
  | .priorityPreemption => Sys2Proof.Machine.execPriorityPreemption s
  | .ticketEnergyShare batch => Sys2Proof.Machine.execTicketEnergyShare batch s
  | .demotionStart w => Sys2Proof.Machine.execDemotionStart w s
  | .demotionEnd w failed => Sys2Proof.Machine.execDemotionEnd w failed s
  | .usherSpillPolicy => Sys2Proof.Machine.execUsherSpillPolicy s
  | .spillCommit w => Sys2Proof.Machine.execSpillCommit w s
  | .recallCommit w => Sys2Proof.Machine.execRecallCommit w s
  | .recallFail w err => Sys2Proof.Machine.execRecallFail w err s
  | .forkTablesCopied w => Sys2Proof.Machine.execForkTablesCopied w s
  | .recoveryStart w => Sys2Proof.Machine.execRecoveryStart w s
  | .recoveryDone w => Sys2Proof.Machine.execRecoveryDone w s
  | .ticketLost w => Sys2Proof.Machine.execTicketLost w s
  | .releaseComplete w => Sys2Proof.Machine.execReleaseComplete w s
  | .feed sq good => Sys2Proof.Machine.execFeed sq good s
  | .run sq good => Sys2Proof.Machine.execRun sq good s
  | .park sq => Sys2Proof.Machine.execPark sq s
  | .fork sq good => Sys2Proof.Machine.execFork sq good s
  | .release sq => Sys2Proof.Machine.execRelease sq s
  | .spill sq => Sys2Proof.Machine.execSpill sq s
  | .recall sq => Sys2Proof.Machine.execRecall sq s
  | .query sq good => Sys2Proof.Machine.execQuery sq good s
  | .modelLoad sq good => Sys2Proof.Machine.execModelLoad sq good s
  | .adapterLoad sq good => Sys2Proof.Machine.execAdapterLoad sq good s
  | .modelUnload sq => Sys2Proof.Machine.execModelUnload sq s
  | .planSelect sq good => Sys2Proof.Machine.execPlanSelect sq good s
  | .budgetSet sq => Sys2Proof.Machine.execBudgetSet sq s
  | .negotiate sq good => Sys2Proof.Machine.execNegotiate sq good s
  | .journalRead sq good => Sys2Proof.Machine.execJournalRead sq good s
  | .sqTailDoorbell sq tail => Sys2Proof.Machine.execSqTailDoorbell sq tail s
  | .cqHeadDoorbell cq head => Sys2Proof.Machine.execCqHeadDoorbell cq head s
  | .ringEnable cq ring cfg => Sys2Proof.Machine.execRingEnable cq ring cfg s
  | .cqFullNotice cq => Sys2Proof.Machine.execCqFullNotice cq s
  | .cqInterrupt cq => Sys2Proof.Machine.execCqInterrupt cq s
  | .hifRunWrite run => Sys2Proof.Machine.execHifRunWrite run s
  | .resync => Sys2Proof.Machine.execResync s
  | .pcieResetEvent e => Sys2Proof.Machine.execPcieResetEvent e s
  | .pcieLinkDegraded width rate => Sys2Proof.Machine.execPcieLinkDegraded width rate s
  | .bar2Read line => Sys2Proof.Machine.execBar2Read line s
  | .bar2Write line mask data poison => Sys2Proof.Machine.execBar2Write line mask data poison s
  | .bar2Retry => Sys2Proof.Machine.execBar2Retry s
  | .fecBlockReceive l msg parity aligned => Sys2Proof.Machine.execFecBlockReceive l msg parity aligned s
  | .linkLaneFail l lane => Sys2Proof.Machine.execLinkLaneFail l lane s
  | .spareSwap l => Sys2Proof.Machine.execSpareSwap l s
  | .fastRetrain l good boot ok => Sys2Proof.Machine.execFastRetrain l good boot ok s
  | .alignmentBlockReceive l lanes => Sys2Proof.Machine.execAlignmentBlockReceive l lanes s
  | .trainingFrameReceive l lane control status crc ready => Sys2Proof.Machine.execTrainingFrameReceive l lane control status crc ready s
  | .flitReceive l => Sys2Proof.Machine.execFlitReceive l s
  | .nakReplay l => Sys2Proof.Machine.execNakReplay l s
  | .replayTimeout l => Sys2Proof.Machine.execReplayTimeout l s
  | .put l => Sys2Proof.Machine.execPut l s
  | .get l => Sys2Proof.Machine.execGet l s
  | .getresp l => Sys2Proof.Machine.execGetresp l s
  | .msg l => Sys2Proof.Machine.execMsg l s
  | .atomic l => Sys2Proof.Machine.execAtomic l s
  | .atomresp l => Sys2Proof.Machine.execAtomresp l s
  | .barrier l side => Sys2Proof.Machine.execBarrier l side s
  | .done l => Sys2Proof.Machine.execDone l s
  | .linkRequestTimeout l tag => Sys2Proof.Machine.execLinkRequestTimeout l tag s
  | .linkDown l good => Sys2Proof.Machine.execLinkDown l good s
  | .linkCtlDown l => Sys2Proof.Machine.execLinkCtlDown l s
  | .linkCtlRetrain l => Sys2Proof.Machine.execLinkCtlRetrain l s
  | .linkTraining l good112 good224 => Sys2Proof.Machine.execLinkTraining l good112 good224 s
  | .linkRetrainTimer l => Sys2Proof.Machine.execLinkRetrainTimer l s
  | .capabilityFlitReceive l => Sys2Proof.Machine.execCapabilityFlitReceive l s
  | .lpidleShed l => Sys2Proof.Machine.execLpidleShed l s
  | .annexOpen side => Sys2Proof.Machine.execAnnexOpen side s
  | .annexReply l => Sys2Proof.Machine.execAnnexReply l s
  | .annexClose l => Sys2Proof.Machine.execAnnexClose l s
  | .weightAsk l => Sys2Proof.Machine.execWeightAsk l s
  | .ilimThrottle t current => Sys2Proof.Machine.execIlimThrottle t current s
  | .vsetChange g v => Sys2Proof.Machine.execVsetChange g v s
  | .regCellFail g cell => Sys2Proof.Machine.execRegCellFail g cell s
  | .secondCellFail g cell => Sys2Proof.Machine.execSecondCellFail g cell s
  | .domainSwitchOn g trips finished => Sys2Proof.Machine.execDomainSwitchOn g trips finished s
  | .stagingTimeout g => Sys2Proof.Machine.execStagingTimeout g s
  | .currentSample t recs => Sys2Proof.Machine.execCurrentSample t recs s
  | .crackAlarm g drop share => Sys2Proof.Machine.execCrackAlarm g drop share s
  | .recoveryMeasurementDone g ohms ratio seg => Sys2Proof.Machine.execRecoveryMeasurementDone g ohms ratio seg s
  | .sensorRead t readings => Sys2Proof.Machine.execSensorRead t readings s
  | .comparatorTrip t die p => Sys2Proof.Machine.execComparatorTrip t die p s
  | .layerEstimate t p powers => Sys2Proof.Machine.execLayerEstimate t p powers s
  | .thermalStop => Sys2Proof.Machine.execThermalStop s
  | .thermalResume => Sys2Proof.Machine.execThermalResume s
  | .bellowsWindowEnd measured values => Sys2Proof.Machine.execBellowsWindowEnd measured values s
  | .ledgerMeter uj => Sys2Proof.Machine.execLedgerMeter uj s
  | .grantWrite i3c uj => Sys2Proof.Machine.execGrantWrite i3c uj s
  | .sliceStorageUe t v set way part => Sys2Proof.Machine.execSliceStorageUe t v set way part s
  | .errorLogScan t => Sys2Proof.Machine.execErrorLogScan t s
  | .ceDecay => Sys2Proof.Machine.execCeDecay s
  | .retreq t v => Sys2Proof.Machine.execRetreq t v s
  | .retirementStart t => Sys2Proof.Machine.execRetirementStart t s
  | .retirementMoveDone t index => Sys2Proof.Machine.execRetirementMoveDone t index s
  | .diagWdata => Sys2Proof.Machine.execDiagWdata s
  | .diagWcheck => Sys2Proof.Machine.execDiagWcheck s
  | .diagWraw => Sys2Proof.Machine.execDiagWraw s
  | .diagReadraw => Sys2Proof.Machine.execDiagReadraw s
  | .galleryFault => Sys2Proof.Machine.execGalleryFault s
  | .weightUe m sid off partner => Sys2Proof.Machine.execWeightUe m sid off partner s
  | .towerFence t answers => Sys2Proof.Machine.execTowerFence t answers s
  | .bringStepFuses fuses high unread mismatch measured => Sys2Proof.Machine.execBringStepFuses fuses high unread mismatch measured s
  | .bringStepRails weak => Sys2Proof.Machine.execBringStepRails weak s
  | .bringStepTrain lanes uncal bridges codes links => Sys2Proof.Machine.execBringStepTrain lanes uncal bridges codes links s
  | .bringStepSelftest lines badCode rtabA rtabB => Sys2Proof.Machine.execBringStepSelftest lines badCode rtabA rtabB s
  | .bringStepImage flash layout chosen => Sys2Proof.Machine.execBringStepImage flash layout chosen s
  | .bringStepBroadcast late weak started => Sys2Proof.Machine.execBringStepBroadcast late weak started s
  | .bringStepSeal => Sys2Proof.Machine.execBringStepSeal s
  | .bringStepDone => Sys2Proof.Machine.execBringStepDone s
  | .bringStepInvalid n => Sys2Proof.Machine.execBringStepInvalid n s
  | .chunkReceive who k restart bad writeBad wrong => Sys2Proof.Machine.execChunkReceive who k restart bad writeBad wrong s
  | .chunkEndReceive who pass => Sys2Proof.Machine.execChunkEndReceive who pass s
  | .broadcastRoundEnd => Sys2Proof.Machine.execBroadcastRoundEnd s
  | .runtimeTestTimeout g => Sys2Proof.Machine.execRuntimeTestTimeout g s
  | .powerOnReset board => Sys2Proof.Machine.execPowerOnReset board s
  | .coldrstN => Sys2Proof.Machine.execColdrstN s
  | .warmrstN => Sys2Proof.Machine.execWarmrstN s
  | .perstN => Sys2Proof.Machine.execPerstN s
  | .bringResetCold key => Sys2Proof.Machine.execBringResetCold key s
  | .bringResetWarm key => Sys2Proof.Machine.execBringResetWarm key s
  | .bringResetTower key t => Sys2Proof.Machine.execBringResetTower key t s
  | .bringResetTakeover key => Sys2Proof.Machine.execBringResetTakeover key s
  | .coldReset => Sys2Proof.Machine.execColdReset s
  | .warmReset => Sys2Proof.Machine.execWarmReset s
  | .warmSeal => Sys2Proof.Machine.execWarmSeal s
  | .towerReset t => Sys2Proof.Machine.execTowerReset t s
  | .partitionReset t host v => Sys2Proof.Machine.execPartitionReset t host v s
  | .baseDieQuiesce t => Sys2Proof.Machine.execBaseDieQuiesce t s
  | .heartbeatMissed => Sys2Proof.Machine.execHeartbeatMissed s
  | .usherTakeover => Sys2Proof.Machine.execUsherTakeover s
  | .pgFail rail => Sys2Proof.Machine.execPgFail rail s
  | .whistleReq => Sys2Proof.Machine.execWhistleReq s
  | .whistleN => Sys2Proof.Machine.execWhistleN s
  | .whistle mx => Sys2Proof.Machine.execWhistle mx s
  | .whistleResume => Sys2Proof.Machine.execWhistleResume s
  | .jtagWhistle => Sys2Proof.Machine.execJtagWhistle s
  | .jtagResume => Sys2Proof.Machine.execJtagResume s
  | .jtagScansel v => Sys2Proof.Machine.execJtagScansel v s
  | .jtagScanoff v => Sys2Proof.Machine.execJtagScanoff v s
  | .jtagScanrd => Sys2Proof.Machine.execJtagScanrd s
  | .jtagScanwr v => Sys2Proof.Machine.execJtagScanwr v s
  | .jtagWstat => Sys2Proof.Machine.execJtagWstat s
  | .scanwinAccess w wide write => Sys2Proof.Machine.execScanwinAccess w wide write s
  | .dmaCopy => Sys2Proof.Machine.execDmaCopy s
  | .dmaCopyDone good => Sys2Proof.Machine.execDmaCopyDone good s
  | .watchCapture i => Sys2Proof.Machine.execWatchCapture i s
  | .fatalError code t source unit detail => Sys2Proof.Machine.execFatalError code t source unit detail s
  | .anxctlClear => Sys2Proof.Machine.execAnxctlClear s
  | .rngctlClr g => Sys2Proof.Machine.execRngctlClr g s
  | .i3cWrite off data => Sys2Proof.Machine.execI3cWrite off data s
  | .i3cRead => Sys2Proof.Machine.execI3cRead s
  | .i3cDynamicAddress addr => Sys2Proof.Machine.execI3cDynamicAddress addr s
  | .ibiAcknowledge => Sys2Proof.Machine.execIbiAcknowledge s
  | .chanterInstruction x => Sys2Proof.Machine.execChanterInstruction x s
  | .pllLock => Sys2Proof.Machine.execPllLock s
  | .powerGoodRise rail => Sys2Proof.Machine.execPowerGoodRise rail s
  | .resetInputRelease cold => Sys2Proof.Machine.execResetInputRelease cold s
  | .msgBusyResend l tag => Sys2Proof.Machine.execMsgBusyResend l tag s
  | .corridorCellFail t => Sys2Proof.Machine.execCorridorCellFail t s

end Sys2Proof.Machine
end

