-- ==== Sys2Proof/Machine/Idle.lean ====
section
/-! DEFINITION. What happens with no command waiting: the time base counts, and staged events drain into their rings (R15, R540, R544, R552; log entry 33). -/

namespace Sys2Proof.Machine

/-- One ns of the time base, which counts from the lock of its PLL (R540, R572); while the module is stopped it is time that no timer of a program, the
usher or a link counts (R544). -/
def Chip.nanosecond (c : Chip) : Chip :=
  if !c.pllLocked then c
  else
    let c := { c with now := c.now + 1 }
    if c.stopped then { c with dbg := { c.dbg with paused := c.dbg.paused + 1 } } else c

/-- What a step does with an empty queue. -/
def Chip.tick (c : Chip) : Chip :=
  let c := c.nanosecond
  if c.inReset || c.thermStopped then c else c.drainEvents

end Sys2Proof.Machine
end

