-- ==== Sys2Proof/Machine/Step.lean ====
section
/-! DEFINITION. One step: the command at the front of the queue, or with nothing queued what time itself brings (log entry 33). -/

namespace Sys2Proof.Machine

/-- One step of the block. DESIGN CHOICE: log entry 34. DESIGN CHOICE: log entry 95. -/
def step (s : State) : Host.Outcome State Fault Refusal :=
  match s.pending with
  | c :: rest => exec c { s with pending := rest }
  | [] => .next { s with chip := s.chip.tick }

/-- The state with the command that a word spells in front of its queue; the same state where it spells none. -/
def State.withFetchWord (s : State) (nbits w : Nat) : State :=
  match decodeTableWord nbits w with
  | some c => { s with pending := c :: s.pending }
  | none => s

end Sys2Proof.Machine
end

