-- ==== Sys2Proof/WellFormed.lean ====
section
/-! DEFINITION. Well-formed commands: what a command's operands must satisfy beyond their types. An ill-formed command is no fault: its meaning leaves the module as it was,
or takes the part of its operands that says something. -/

namespace Sys2Proof

/-- A naturally aligned access of 4 or 8 bytes (R7). DESIGN CHOICE: log entry 5. -/
def aligned (off : Nat) (wide : Bool) : Bool := off % (if wide then 8 else 4) == 0

/-- The listed keys are all different. -/
def allDistinct : List Nat → Bool
  | [] => true
  | x :: xs => !xs.contains x && allDistinct xs

/-- Whether a command is well formed. DESIGN CHOICE: log entry 5. -/
def Instr.wf : Instr → Bool
  | .reg64LowHalfRead _ off wide => aligned off.toNat wide
  | .registerWrite a wide _ => aligned a.off.toNat wide
  | .bar0MisalignedAccess off size _ => !((size.val == 4 || size.val == 8) && off.toNat % size.val == 0)
  | .scanwinAccess w wide _ => aligned w.val wide
  | .usherMailboxWrite _ _ data => decide (data.length ≤ 2048)
  | .laneFailRetrain p lane => decide (lane.val < p.lanes)
  | .bringStepTrain lanes _ _ _ _ => lanes.all fun e => decide (e.2.val < e.1.lanes)
  | .alignmentBlockReceive _ lanes => decide (lanes.length ≤ 9)
  | .layerEstimate _ _ powers => decide (powers.length ≤ 19)
  | .currentSample _ recs => decide (recs.length ≤ 130)
  | .sensorRead _ readings => allDistinct (readings.map fun r => r.1.val * 104 + r.2.1.val)
  | .bellowsWindowEnd measured values => allDistinct (measured.map fun e => e.1.tower.val * 104 + e.1.pos.val) && allDistinct (values.map fun e => e.1.val)
  | _ => true

end Sys2Proof
end

