-- ==== Sys2Proof/Safety.lean ====
section
/-! DEFINITION. What a safe run is, and the vocabulary of the statements: the conditions under which a command has its own effect. -/

namespace Sys2Proof

/-- Every command that waits is well formed. -/
def QueueWf (s : Machine.State) : Prop := ∀ c ∈ s.pending, c.wf = true

/-- A run of any length goes on: no fault, no refusal. -/
def Safe (s : Machine.State) : Prop := ∀ k : Nat, ∃ t : Machine.State, Host.Core.run Sys2Proof.core k s = .next t

namespace Machine

/-- The scalar core of gallery k takes its next instruction: it runs, no queue-fault interrupt is due, and it does not wait. -/
def Chip.CoreReady (c : Chip) (k : Nat) : Prop := c.galRuns k = true ∧ (c.gal k).irq = false ∧ (c.gal k).waiting = none

/-- What the scalar core of gallery k waits for may end its wait, HALT or not: the module is not stopped, the gallery is live, and no parity error has
halted it. -/
def Chip.CoreWaits (c : Chip) (k : Nat) : Prop := c.stopped = false ∧ (c.gal k).live = true ∧ (c.gal k).dead = false

/-- Queue q of gallery k runs and e is its first started descriptor with this opcode. -/
def Chip.InFlight (c : Chip) (k q opc : Nat) (e : QEntry) : Prop :=
  c.queueRuns k q = true ∧ (c.gal k).runningEntry q (· == opc) = some e

/-- Registers of gallery k take writes: the module is not stopped, and the gallery is switched on or runs in a shadow. -/
def Chip.GalWritable (c : Chip) (k : Nat) : Prop := c.stopped = false ∧ c.galOnline k = true

/-- The caches are in order: no back-invalidate is on its way, every way holds a line of its own set that no other way holds, and a clean way holds what its vault
would answer. -/
def Chip.CacheInOrder (c : Chip) : Prop :=
  c.mem.backInv = [] ∧ ∀ (k : Nat) (w : CacheWay), c.way k = some w → setKey w.line = k / 16 ∧ c.findWay w.line = some k ∧
    (w.valid = true → w.dirty = false → w.data = c.vaultData w.line)

/-- The memory path is quiet: no request waits, no fill is on its way, and no vault has anything queued. -/
def Chip.PathQuiet (c : Chip) : Prop := c.mem.held = [] ∧ c.mem.fills = [] ∧ c.mem.vq = []

/-- The endpoint takes host writes of HIF registers: sealed and not stopped. -/
def Chip.Serving (c : Chip) : Prop := c.isSealed = true ∧ c.stopped = false

/-- The usher accepts the command at the head of SQ q, as m, while no other waits: it runs, the SQ is ready and has its turn, and the command
passes its checks. d is the module with the command journalled and HEAD past it, m yet to take effect. -/
def Chip.Accepts (c : Chip) (q : Nat) (good : Bool) (m : HostCmd) (d : Chip) : Prop :=
  c.usherRuns = true ∧ c.sqReady q = true ∧ c.sqTurn q = true ∧ m.entry = c.sqEntry q (c.sqHead q) ∧ m.fed = false ∧
    d.host.accepted = [] ∧ ∃ m0 : HostCmd, m = { m0 with late := d.cmdLate m0 } ∧
      c.takeCmd q (fun _ => true) good = { d with host := { d.host with accepted := [m0] } }

/-- From s to t only gallery k and the index of the next free value may have changed. -/
def State.OnlyGallery (s t : State) (k : Nat) : Prop :=
  t.pending = s.pending ∧ t.chip = { s.chip with gals := t.chip.gals, free := t.chip.free } ∧ ∀ n : Nat, n ≠ k → t.chip.gal n = s.chip.gal n

/-- From a to b only what vector core i and its queue may write has changed: its registers, its queue, the scratchpad, and the counts of skipped and of
spent work. -/
def Gallery.OnlyVx (a b : Gallery) (i : Nat) : Prop :=
  b = { a with spad := b.spad, ecc := b.ecc, queues := b.queues, skip := b.skip, rng := b.rng,
               vx0 := if i = 0 then b.vx0 else a.vx0, vx1 := if i = 0 then a.vx1 else b.vx1 } ∧
  ∀ q : Nat, q ≠ 1 + i → b.queue q = a.queue q

/-- From a to b only what the matrix core and its queue may write has changed. -/
def Gallery.OnlyMx (a b : Gallery) : Prop :=
  b = { a with spad := b.spad, ecc := b.ecc, queues := b.queues, skip := b.skip, rng := b.rng, mx := b.mx } ∧
  ∀ q : Nat, q ≠ 0 → b.queue q = a.queue q

/-- Scratchpad byte a belongs to a row that the descriptor stores: to the row's elements, or to its scale bytes. -/
def VxRun.Stores (x : VxRun) (a : Nat) : Prop :=
  ∃ r : Nat, r < x.rows ∧
    ((let o := x.spd + r * strideOf x.dstr (vxRowBytes x.dfmt); o ≤ a ∧ a < o + vxRowBytes x.dfmt) ∨
      (let o := x.sca + r * vxScaleBytes x.dfmt; o ≤ a ∧ a < o + vxScaleBytes x.dfmt))

/-- Word k of a vector core belongs to the register with this specifier: a tile below 4, a vector register below 0xC, none from there on. -/
def InVxReg (spec k : Nat) : Prop :=
  if spec < 4 then spec * 16384 ≤ k ∧ k < spec * 16384 + 16384
  else if spec < 0xC then vecKey (spec - 4) 0 ≤ k ∧ k < vecKey (spec - 4) 128
  else False

end Machine

end Sys2Proof
end

