-- ==== Sys2Proof/Certificates/Slice0/Obligations.lean ====
section
/-! DEFINITION. The statements for the provers: one definition each, its docstring naming the rules it rests on. -/

open Sys2Proof Sys2Proof.Machine

/-- A step runs the command at the front of the queue (R566). -/
def Obligations.StepRunsFrontCommand : Prop :=
  ∀ (c : Instr) (rest : List Instr) (s : State), step { s with pending := c :: rest } = exec c { s with pending := rest }

/-- A step with an empty queue is one ns of time (R15, R540, R544, R552). -/
def Obligations.IdleStepCountsTime : Prop :=
  ∀ s : State, s.pending = [] →
    (∃ t : State, step s = .next t ∧ t.pending = [] ∧
      t.chip.now = (if s.chip.pllLocked then s.chip.now + 1 else s.chip.now) ∧
      t.chip.dbg.paused = (if s.chip.pllLocked && s.chip.stopped then s.chip.dbg.paused + 1 else s.chip.dbg.paused) ∧
      t.chip = { s.chip with now := t.chip.now, dbg := t.chip.dbg, mem := t.chip.mem, dram := t.chip.dram, regs := t.chip.regs,
                              host := { s.chip.host with aerInternal := t.chip.host.aerInternal } }) ∧
    (s.chip.dbg.stage = [] → ∀ n : Nat, Host.Core.run core n s = .next { s with chip := { s.chip with
        now := if s.chip.pllLocked then s.chip.now + BitVec.ofNat 64 n else s.chip.now
        dbg := { s.chip.dbg with
          paused := if s.chip.pllLocked && s.chip.stopped then s.chip.dbg.paused + BitVec.ofNat 64 n else s.chip.dbg.paused } } })

/-- Every command answers a next state and leaves the queue as it found it (R6, R566). -/
def Obligations.EveryCommandAnswersNext : Prop :=
  ∀ (c : Instr) (s : State), ∃ chip' : Chip, exec c s = .next { s with chip := chip' }

/-- A run of any length goes on, and its queue is the first queue without the commands it ran (R6, R566). -/
def Obligations.RunsNeverStop : Prop :=
  (∀ (s : State) (k : Nat), ∃ t : State, Host.Core.run core k s = .next t ∧ t.pending = s.pending.drop k ∧ (QueueWf s → QueueWf t)) ∧
  (∀ s : State, Safe s)

/-- Every step keeps module memory in its canonical form (R5, R224, R490, R534). -/
def Obligations.MemoryStaysCanonical : Prop :=
  ∀ s t : State, Memory.wf s.chip.dram = true → step s = .next t → Memory.wf t.chip.dram = true

/-- What the registers hold at reset, by the maps' Reset columns (R562, R568, R60). -/
def Obligations.ResetRegisterValues : Prop :=
  (∀ off : Nat, State.reset.chip.rd off = (regReset off).toNat) ∧
  (∀ p ∈ [(Reg.ver, 0x01210200), (Reg.clkcfg, 0x04000C080000EA60), (Reg.tkcnt 0, 0x100000), (Reg.tkcnt 10, 0), (Reg.epoch, 0),
      (Reg.bringCtl, 2), (Reg.bringStatus, 0), (Reg.jhead, 1), (Reg.jtail, 1), (Reg.hifCtl, 0), (Reg.ilim, 0x42E), (Reg.policy, 0x182001),
      (Reg.diagres, 0xFFFFFF0000), (Reg.wstat, 0), (Reg.anxctl, 0x1C)], State.reset.chip.rd p.1 = p.2) ∧
  (∀ q < 256, State.reset.chip.rd (Reg.sqCfg q) = 0x100 ∧ State.reset.chip.rd (Reg.cqCfg q) = 0) ∧
  (∀ k < 4, State.reset.chip.rd (Reg.trig k) = 2 ^ 48) ∧
  (∀ l < 5, State.reset.chip.rd (Reg.linkCtl l) = 0xFFFF0000) ∧
  (∀ t < 4, State.reset.chip.rd (Reg.gmap t) = 0xF0F0F0F0F0F0F0F0 ∧
    (∀ b < 104, State.reset.chip.rd (Reg.bank t b) = 0x300000000 ∧ State.reset.chip.rd (Reg.dom t b) = 0xF06 ∧
      State.reset.chip.rd (Reg.vaultCtl t b) = 0x1000000000 ∧ State.reset.chip.rd (Reg.chcCtl t b) = 0x80408) ∧
    (∀ i < 96, State.reset.chip.rd (Reg.stripe t i) = 25 * i % 96)) ∧
  (∀ k : Nat, State.reset.chip.gal k = Gallery.reset) ∧
  Gallery.reset.hart.pc = 0 ∧ Gallery.reset.hart.mie = true ∧ Gallery.reset.hart.mieReg = 0x00010000#32 ∧
  (∀ i : Nat, Gallery.reset.counter i = 0) ∧ (∀ q : Nat, (Gallery.reset.queue q).entries = [] ∧ (Gallery.reset.queue q).halted = false) ∧
  Gallery.reset.marks = [] ∧ Gallery.reset.gctl = 0 ∧ Gallery.reset.gfault = 0 ∧ Gallery.reset.waitlim = 0x2710#24 ∧
  Gallery.reset.dom = .off

/-- The fields of every register lie in its width and do not overlap (R4, R8, R562). -/
def Obligations.RegisterFieldsDisjoint : Prop :=
  ∀ (off : Nat) (d : RegDef), regAt off = some d →
    (d.width = 32 ∨ d.width = 64) ∧ off % (d.width / 8) = 0 ∧
    (∀ f ∈ d.fields, 0 < f.len ∧ f.lo + f.len ≤ d.width ∧ f.min ≤ f.max ∧ f.max < 2 ^ f.len) ∧
    d.fields.Pairwise fun f h => f.lo + f.len ≤ h.lo ∨ h.lo + h.len ≤ f.lo

/-- What a write does to one field of a register, by its access code (R8, R9). -/
def Obligations.WriteRulesOfFields : Prop :=
  ∀ (off : Nat) (d : RegDef) (f : RegField) (sealed : Bool) (old v mask : Nat), regAt off = some d → f ∈ d.fields →
    old < 2 ^ d.width →
    let part := field mask f.lo f.len
    let cur := field old f.lo f.len
    let put := (field v f.lo f.len &&& part) ||| (cur &&& (2 ^ f.len - 1 - part))
    field (regWrite off d.fields sealed old v mask) f.lo f.len =
      match f.acc with
      | .rw => if part ≠ 0 ∧ fieldLegal off f put = true then put else cur
      | .rwl => if sealed = false ∧ part ≠ 0 ∧ fieldLegal off f put = true then put else cur
      | .w1c => if field v f.lo f.len &&& part ≠ 0 then 0 else cur
      | _ => cur

/-- A read shows every field but write-only ones, and zero elsewhere (R8). -/
def Obligations.ReadsShowFields : Prop :=
  ∀ (off : Nat) (d : RegDef) (v : Nat), regAt off = some d →
    (∀ f ∈ d.fields, field (regRead d.fields v) f.lo f.len = if f.acc = .wo then 0 else field v f.lo f.len) ∧
    (∀ i : Nat, (∀ f ∈ d.fields, i < f.lo ∨ f.lo + f.len ≤ i) → bitOf (regRead d.fields v) i = false)

/-- Reads of BAR0 complete with the register's value, and a low half latches the high half (R7, R562, R566). -/
def Obligations.RegisterReadsComplete : Prop :=
  ∀ (who : Half) (off : BitVec 26) (d : RegDef) (s : State), regAt off.toNat = some d → s.chip.inReset = false → s.chip.absent off.toNat = false →
    s.chip.pageOf off.toNat = none → s.chip.serves off.toNat = true → ¬ (Reg.scanwin ≤ off.toNat ∧ off.toNat < Reg.scanwin + 0x10000) →
    (d.width = 64 → off.toNat % 8 = 0 →
      exec (.reg64LowHalfRead ⟨who, .bar0⟩ off true) s = .next { s with chip := { s.chip with
        latch := Store.put noLatch s.chip.latch (latchKey who off.toNat) none,
        host := { s.chip.host with bar0Out := some (BitVec.ofNat 64 (regRead d.fields (s.chip.plainValue off.toNat))) } } }) ∧
    (d.width = 64 → off.toNat % 4 = 0 →
      exec (.reg64LowHalfRead ⟨who, .bar0⟩ off false) s = .next { s with chip := { s.chip with
        latch := Store.put noLatch s.chip.latch (latchKey who off.toNat) (some (BitVec.ofNat 32 (regRead d.fields (s.chip.plainValue off.toNat) / 2 ^ 32))),
        host := { s.chip.host with bar0Out := some (BitVec.ofNat 64 (regRead d.fields (s.chip.plainValue off.toNat) % 2 ^ 32)) } } }) ∧
    (d.width = 32 → off.toNat % 4 = 0 →
      exec (.reg64LowHalfRead ⟨who, .bar0⟩ off false) s = .next { s with chip := { s.chip with
        host := { s.chip.host with bar0Out := some (BitVec.ofNat 64 (regRead d.fields (s.chip.plainValue off.toNat))) } } }) ∧
    (∀ high : BitVec 26, d.width = 64 → off.toNat % 8 = 0 → high.toNat = off.toNat + 4 → regAt high.toNat = none → s.chip.serves high.toNat = true →
      ∀ w : Word, Store.get noLatch s.chip.latch (latchKey who off.toNat) = some w →
      exec (.reg64LowHalfRead ⟨who, .bar0⟩ high false) s = .next { s with chip := { s.chip with
        latch := Store.put noLatch s.chip.latch (latchKey who off.toNat) none, host := { s.chip.host with bar0Out := some (BitVec.ofNat 64 w.toNat) } } }) ∧
    (∀ high : BitVec 26, d.width = 64 → off.toNat % 8 = 0 → high.toNat = off.toNat + 4 → regAt high.toNat = none → s.chip.serves high.toNat = true →
      Store.get noLatch s.chip.latch (latchKey who off.toNat) = none →
      exec (.reg64LowHalfRead ⟨who, .bar0⟩ high false) s = .next { s with chip := { s.chip with
        host := { s.chip.host with bar0Out := some (BitVec.ofNat 64 (regRead d.fields (s.chip.plainValue off.toNat) / 2 ^ 32)) } } })

/-- Writes of BAR0 reach the register by its fields' rules, and a bad access is dropped or answered Unsupported Request (R7, R9, R565). -/
def Obligations.RegisterWritesComplete : Prop :=
  (∀ (who : Half) (off : BitVec 26) (v : DWord) (d : RegDef) (s : State), regAt off.toNat = some d → d.width = 64 → off.toNat % 8 = 0 → s.chip.inReset = false →
    s.chip.dropsWrite off.toNat = false → s.chip.takesWrite off.toNat = true → ¬ (Reg.scanwin ≤ off.toNat ∧ off.toNat < Reg.scanwin + 0x10000) →
    exec (.registerWrite ⟨⟨who, .bar0⟩, off⟩ true v) s = .next { s with chip := (s.chip.letGo who off.toNat).regPut off.toNat v.toNat (2 ^ 64 - 1) }) ∧
  (∀ (who : Half) (off : BitVec 26) (v : DWord) (d : RegDef) (s : State), regAt off.toNat = some d → off.toNat % 4 = 0 → s.chip.inReset = false →
    s.chip.dropsWrite off.toNat = false → s.chip.takesWrite off.toNat = true → ¬ (Reg.scanwin ≤ off.toNat ∧ off.toNat < Reg.scanwin + 0x10000) →
    exec (.registerWrite ⟨⟨who, .bar0⟩, off⟩ false v) s = .next { s with chip := (s.chip.letGo who off.toNat).regPut off.toNat (v.toNat % 2 ^ 32) (2 ^ 32 - 1) }) ∧
  (∀ (who : Half) (off : BitVec 26) (v : DWord) (d : RegDef) (s : State), regAt off.toNat = none → off.toNat % 8 = 4 → regAt (off.toNat - 4) = some d → d.width = 64 →
    s.chip.inReset = false → s.chip.dropsWrite off.toNat = false → s.chip.takesWrite (off.toNat - 4) = true →
    ¬ (Reg.scanwin ≤ off.toNat ∧ off.toNat < Reg.scanwin + 0x10000) →
    exec (.registerWrite ⟨⟨who, .bar0⟩, off⟩ false v) s =
      .next { s with chip := (s.chip.letGo who off.toNat).regPut (off.toNat - 4) (v.toNat % 2 ^ 32 * 2 ^ 32) (2 ^ 64 - 2 ^ 32) }) ∧
  (∀ off ∈ [Reg.clkcfg, Reg.apbase, Reg.ilim, Reg.vfloor, Reg.policy, Reg.diagctl, Reg.diagaddr, Reg.diagdata 0, Reg.diagdata 8, Reg.sqBase 0, Reg.cqBase 255],
    ∀ (v mask : Nat) (c : Chip), ∃ d : RegDef, regAt off = some d ∧
      c.regPut off v mask =
        if regPairOk off (regWrite off d.fields c.isSealed (c.rd off) v mask) then
          (c.unlatch off).wr off (regWrite off d.fields c.isSealed (c.rd off) v mask)
        else c.unlatch off) ∧
  (∀ (off : BitVec 26) (size : Fin 4097) (s : State), ¬ ((size.val = 4 ∨ size.val = 8) ∧ off.toNat % size.val = 0) → s.chip.inReset = false →
    exec (.bar0MisalignedAccess off size false) s = .next { s with chip := { s.chip with host := { s.chip.host with bar0Out := none } } }) ∧
  (∀ (off : BitVec 26) (size : Fin 4097) (s : State), exec (.bar0MisalignedAccess off size true) s = .next s)

/-- Writes that the module drops (R2, R399, R544, R562, R565). -/
def Obligations.WritesThatAreIgnored : Prop :=
  ∀ (who : Half) (off : BitVec 26) (wide : Bool) (v : DWord) (s : State), off.toNat % (if wide then 8 else 4) = 0 → s.chip.inReset = false →
    (∀ (b : Nat), off.toNat / 0x100000 = b → s.chip.stopped = true → b ≠ 4 → b ≠ 6 → off.toNat ≠ Reg.bringReset →
      exec (.registerWrite ⟨⟨who, .bar0⟩, off⟩ wide v) s = .next { s with chip := (s.chip.letGo who off.toNat).bump Reg.wstat 16 16 1 }) ∧
    (s.chip.stopped = false → ¬ (Reg.scanwin ≤ off.toNat ∧ off.toNat < Reg.scanwin + 0x10000) →
      (∀ t : Nat, s.chip.isSealed = true → towerOf off.toNat = some t →
        (∀ o, off.toNat - 4 ≤ o → o ≤ off.toNat + 4 → sealedTowerOk t o = false) →
        exec (.registerWrite ⟨⟨who, .bar0⟩, off⟩ wide v) s = .next { s with chip := s.chip.letGo who off.toNat }) ∧
      (s.chip.isSealed = false → off.toNat / 0x100000 ∈ [2, 3, 4, 5, 7] → off.toNat / 8 ≠ Reg.node / 8 → s.chip.thermStopped = false →
        exec (.registerWrite ⟨⟨who, .bar0⟩, off⟩ wide v) s = .next { s with chip := s.chip.letGo who off.toNat }) ∧
      ((∀ o, off.toNat - 4 ≤ o → o ≤ off.toNat + 4 → s.chip.absent o = true) → exec (.registerWrite ⟨⟨who, .bar0⟩, off⟩ wide v) s = .next { s with chip := s.chip.letGo who off.toNat }) ∧
      ((∀ o, off.toNat - 4 ≤ o → o ≤ off.toNat + 4 → regAt o = none) → exec (.registerWrite ⟨⟨who, .bar0⟩, off⟩ wide v) s = .next { s with chip := s.chip.letGo who off.toNat }))

/-- An instruction of the scalar core retires: base instructions, loads, stores and CSR accesses (R57, R59, R61, R93). -/
def Obligations.ScalarInstructionsRetire : Prop :=
  ∀ (g : GalId) (errs : List GalUpset) (s : State), s.chip.CoreReady (galKey g) →
    let k := galKey g
    let c1 := errs.foldl (Chip.upset g) s.chip
    let G := c1.gal k
    (∀ (len : Nat) (i : Rv) (h' : Hart), fetchRv G.fetchHalf G.hart.pc.toNat = .ok (len, i) → rvExec G.hart i len = .done h' →
      exec (.scalarInstruction ⟨g, errs⟩) s = .next { s with chip := c1.setGal k { (G.rngAdd G.topRange.toNat 0 (h'.mcycle - G.hart.mcycle).toNat) with hart := h' } }) ∧
    (∀ (len b rd v : Nat) (i : Rv) (sg : Bool) (a : Word), fetchRv G.fetchHalf G.hart.pc.toNat = .ok (len, i) →
      rvExec G.hart i len = .load b sg rd a → G.load b a.toNat = .ok v →
      exec (.scalarInstruction ⟨g, errs⟩) s = .next { s with chip := (c1.setGal k { (G.rngBeats (G.accessBeats false a.toNat)) with
          hart := (G.hart.set rd (loadExtend b sg v)).retire (G.hart.pc + BitVec.ofNat 32 len) (G.accessBeats false a.toNat) }) }) ∧
    (∀ (len b : Nat) (i : Rv) (a v : Word) (G' : Gallery), fetchRv G.fetchHalf G.hart.pc.toNat = .ok (len, i) →
      rvExec G.hart i len = .store b a v → G.store b a.toNat (v.toNat % 2 ^ (8 * b)) = .ok G' →
      exec (.scalarInstruction ⟨g, errs⟩) s = .next { s with chip := (c1.setGal k { (G'.rngBeats (G.accessBeats true a.toNat)) with
          hart := G.hart.retire (G.hart.pc + BitVec.ofNat 32 len) (G.accessBeats true a.toNat) }) }) ∧
    (∀ (len rd n : Nat) (op : RvCsr) (i : Rv) (v old : Word) (wr : Bool), fetchRv G.fetchHalf G.hart.pc.toNat = .ok (len, i) →
      rvExec G.hart i len = .csr op rd n v wr → G.csrRead k n = some old → (wr = true → n < 0xC00) →
      exec (.scalarInstruction ⟨g, errs⟩) s = .next { s with chip := (c1.setGal k
          (let G1 := { (G.rngBeats 1) with hart := (G.hart.set rd old).retire (G.hart.pc + BitVec.ofNat 32 len) 1 }
           if wr then G1.csrWrite c1.act n (csrNew op old v) else G1)) }) ∧
    exec (.mret g) s = .next { s with chip := s.chip.onGal k fun x => { x with hart := x.hart.mretTo, tact := false } } ∧
    (∀ (h : Hart) (v : Word), h.set 0 v = h ∧ h.get 0 = 0) ∧
    (∀ (h : Hart) (r r' : Nat) (v : Word), r ≠ 0 → r' ≠ r → (v ≠ 0 ∨ Store.wf (fun _ => 0) h.x = true) →
      (h.set r v).get r = v ∧ (h.set r v).get r' = h.get r') ∧
    (∀ (h : Hart) (r : Nat) (v : Word), Store.wf (fun _ => 0) h.x = true → Store.wf (fun _ => 0) (h.set r v).x = true)

/-- ISSUE copies its descriptor into a queue with room, and FENCEQ retires once its queues have drained (R62, R63, R64, R73). -/
def Obligations.IssueQueuesTheDescriptor : Prop :=
  ∀ (g : GalId) (rd rs1 : Fin 32) (q : Fin 8) (nb : Bool) (s : State),
    let k := galKey g
    let G := s.chip.gal k
    (∀ addr : Word, issueReject s.chip.epoch q.val addr.toNat (descAt G.dmem addr.toNat) = none → G.eccBad 0x2000000 addr.toNat 32 = false →
      (s.chip.CoreReady k → addr = s.chip.xreg k rs1 → (G.queue q.val).entries.length < queueDepth q.val →
        exec (.issue g rd rs1 q nb) s = .next { s with chip := (s.chip.setGal k
          ((G.setQueue q.val { G.queue q.val with
            entries := (G.queue q.val).entries ++ [⟨stampDesc s.chip.epoch G.topRange (descAt G.dmem addr.toNat),
              (G.queue q.val).issued &&& 0x7FFFFFFF#32, .waiting, 0, 0⟩]
            issued := (G.queue q.val).issued + 1 }).finish rd.val ((G.queue q.val).issued &&& 0x7FFFFFFF#32) 4)) }) ∧
      (s.chip.CoreReady k → addr = s.chip.xreg k rs1 → queueDepth q.val ≤ (G.queue q.val).entries.length →
        exec (.issue g rd rs1 q nb) s = .next { s with chip := (s.chip.setGal k
          (if nb then G.finish rd.val 0xFFFFFFFF#32 4 else { G with waiting := some (.issue rd.val q.val addr), waitAt := s.chip.act })) })) ∧
    (∀ (qn rdn : Nat) (addr : Word), s.chip.CoreWaits k → G.waiting = some (.issue rdn qn addr) →
      (G.queue qn).entries.length < queueDepth qn →
      exec (.issueQueueRoom g) s = .next { s with chip := (s.chip.setGal k { s.chip.waited k with waiting := none }).issue k rdn qn false addr }) ∧
    (s.chip.CoreReady k → exec (.fenceq g rs1) s = .next { s with chip := (s.chip.setGal k
      (if G.drained (s.chip.xreg k rs1).toNat then G.retire 1
       else { G with waiting := some (.fenceq ((s.chip.xreg k rs1).toNat % 32)), waitAt := s.chip.act })) }) ∧
    (∀ mask : Nat, s.chip.CoreWaits k → G.waiting = some (.fenceq mask) → G.drained mask = true →
      exec (.fenceqDrained g) s = .next { s with chip := s.chip.setGal k ((s.chip.waited k).retire 1) })

/-- STEP retires without a hold and stands held under one, EPOCH reads the current epoch (R70, R71, R94, R482). -/
def Obligations.StepsAndEpochsRetire : Prop :=
  ∀ (g : GalId) (rd rs1 : Fin 32) (s : State),
    let k := galKey g
    let G := s.chip.gal k
    (s.chip.CoreReady k → G.hold = false →
      exec (.step g rs1) s = .next { s with chip := s.chip.stepRetire k (s.chip.xreg k rs1) }) ∧
    (s.chip.CoreReady k → G.hold = true →
      exec (.step g rs1) s = .next { s with chip := (if G.drained 31 then (s.chip.setGal k { G with waiting := some (.step (s.chip.xreg k rs1)), waitAt := s.chip.act }).stepCredit k
        else s.chip.setGal k { G with waiting := some (.step (s.chip.xreg k rs1)), waitAt := s.chip.act }) }) ∧
    (∀ n : Word, let c1 := s.chip.setGal k { G with hold := false }
      s.chip.stopped = false → (c1.gal k).waiting = some (.step n) → (c1.gal k).hold = false → (c1.gal k).drained 31 = true →
      (c1.gal k).live = true → (c1.gal k).dead = false →
      exec (.stepHoldRelease g) s = .next { s with chip := (c1.setGal k (c1.waited k)).stepRetire k n }) ∧
    (s.chip.CoreReady k → exec (.epoch g rd) s = .next { s with chip := s.chip.setGal k (G.finish rd.val s.chip.epoch 1) }) ∧
    (∀ (n : Word) (data : List Byte), s.chip.stopped = false → ¬ (2 ≤ s.chip.epochState ∧ s.chip.epochState ≤ 4) → G.dom ≠ .retained → data.length ≤ 2048 →
      G.counter 63 + Store.get zeroWord G.pend 63 = n → ((n = 0 ∧ G.stepped = false) ∨ (n ≠ 0 ∧ G.stepped = true ∧ G.gstep + 1 = n)) →
      exec (.usherMailboxWrite g n data) s = .next { s with chip := (s.chip.setGal k
        (({ G with dmem := Memory.setBytes G.dmem (0x17000 + n.toNat % 2 * 0x800) data } : Gallery).addCtr 63 1)) })

/-- WAITC retires on its condition, SIGC sets or adds to a counter, and a wait limit traps (R65, R66, R67, R68, R80, R88, R187). -/
def Obligations.WaitsAndSignalsRetire : Prop :=
  ∀ (g : GalId) (rd rs1 rs2 : Fin 32) (s : State),
    let k := galKey g
    let G := s.chip.gal k
    let ctr := (s.chip.xreg k rs1).toNat % 64
    let x := (s.chip.xreg k rs1).toNat
    (s.chip.CoreReady k → exec (.waitcPoll g rd rs1 rs2) s = .next { s with chip := (s.chip.setGal k
      (G.finish rd.val (if 0 ≤ (G.counter ctr + Store.get zeroWord G.pend ctr - s.chip.xreg k rs2).toInt then 1 else 0) 1)) }) ∧
    (s.chip.CoreReady k → G.condMet ctr (s.chip.xreg k rs2) = true → exec (.waitc g rd rs1 rs2) s = .next { s with chip := (s.chip.setGal k
      (if G.retnArm then ({ G with retnArm := false, retnLast := false } : Gallery).finish rd.val (G.counter ctr) 1
       else G.finish rd.val (G.counter ctr) 1)) }) ∧
    (s.chip.CoreReady k → G.condMet ctr (s.chip.xreg k rs2) = false → G.retnArm = false → exec (.waitc g rd rs1 rs2) s = .next { s with chip := s.chip.setGal k { G with waiting := some (.waitc rd.val ctr (s.chip.xreg k rs2)), waitAt := s.chip.act } }) ∧
    (∀ (rdn c : Nat) (target : Word), s.chip.CoreWaits k → G.waiting = some (.waitc rdn c target) → G.condMet c target = true →
      exec (.waitcConditionMet g) s = .next { s with chip := s.chip.setGal k ((s.chip.waited k).finish rdn (G.counter c) 1) }) ∧
    (∀ (rdn c : Nat) (target : Word), s.chip.CoreWaits k → G.waiting = some (.waitc rdn c target) → G.condMet c target = false →
      s.chip.pastLimit k G.waitAt = true →
      exec (.waitTimeout g) s = .next { s with chip := s.chip.galTrap k 25 (BitVec.ofNat 32 (c * 256)) }) ∧
    (s.chip.CoreReady k → badSignal true x = false → exec (.sigcSet g rs1 rs2) s = .next { s with chip := (s.chip.setGal k
      { (G.retire 1) with ctr := Store.put zeroWord G.ctr (field x 0 6) (s.chip.xreg k rs2) }) }) ∧
    (s.chip.CoreReady k → badSignal false x = false → (bitOf x 6 = false ∨ field x 8 7 = G.lgal.toNat) → G.dom ≠ .retained →
      exec (.sigc g rs1 rs2) s = .next { s with chip := (s.chip.setGal k
        (({ G with ctr := Store.put zeroWord G.ctr (field x 0 6) (G.counter (field x 0 6) + s.chip.xreg k rs2) } : Gallery).retire 1)) }) ∧
    (s.chip.CoreReady k → badSignal false x = false → bitOf x 6 = true → field x 8 7 ≠ G.lgal.toNat →
      exec (.sigc g rs1 rs2) s = .next { s with chip := ({ s.chip.setGal k (G.retire 2) with
        rsigs := s.chip.rsigs ++ [{ src := k, dtower := k / 104, dgal := field x 8 7, ctr := field x 0 6, val := s.chip.xreg k rs2, epoch := s.chip.epoch }] }) }) ∧
    (∀ (src : GalId) (sig : RSig) (later : List RSig), s.chip.stopped = false → s.chip.rsigs = sig :: later → sig.src = galKey src →
      s.chip.logKey sig.dtower sig.dgal = k → s.chip.lOpen k = true → s.chip.stale (sig.epoch.toNat % 2 ^ 24) = false →
      exec (.remoteSignalReceive src g) s = .next { s with chip := ({ s.chip with rsigs := later } : Chip).setGal k (G.addCtr sig.ctr sig.val) })

/-- MARK pushes and pops range ids, and writes of a gallery's registers have their effect (R69, R91, R92, R93, R194). -/
def Obligations.MarksAndGalleryRegisters : Prop :=
  ∀ (g : GalId) (rd rs1 : Fin 32) (s : State),
    let k := galKey g
    let G := s.chip.gal k
    (s.chip.CoreReady k → G.marks.length < 8 → exec (.markPush g rd rs1) s = .next { s with chip := (s.chip.setGal k
      { (G.finish rd.val (G.topRange.setWidth 32) 1) with marks := (s.chip.xreg k rs1).setWidth 16 :: G.marks }) }) ∧
    (∀ (m : Half) (ms : List Half), s.chip.CoreReady k → G.marks = m :: ms → exec (.markPop g rd) s = .next { s with chip := (s.chip.setGal k
      { (G.finish rd.val (m.setWidth 32) 1) with marks := ms }) }) ∧
    (s.chip.GalWritable k → exec (.gctlHalt ⟨g, false⟩) s = .next { s with chip := s.chip.setGal k (G.haltAt s.chip.act) }) ∧
    (s.chip.GalWritable k → G.halt = true → G.dead = false → exec (.gctlHalt ⟨g, true⟩) s = .next { s with chip := s.chip.setGal k { (if G.waiting.isSome then G else s.chip.waited k) with halt := false } }) ∧
    (s.chip.GalWritable k → G.halt = false ∨ G.dead = true → exec (.gctlHalt ⟨g, true⟩) s = .next s) ∧
    (∀ mask : Fin 32, s.chip.GalWritable k → exec (.gctlQrst g mask) s = .next { s with chip := (s.chip.setGal k (G.qrst mask.val)).heldCredit k }) ∧
    (s.chip.GalWritable k → exec (.gfaultClear g) s = .next { s with chip := (s.chip.setGal k
      { G with fault := false, faultQ := 0, faultStat := 0, faultIdx := 0,
               hart := { G.hart with mipReg := G.hart.mipReg &&& 0xFFFEFFFF#32 } }) }) ∧
    (∀ v : Word, s.chip.GalWritable k → G.stepped = true → exec (.gcredWrite g v) s = .next { s with chip := (s.chip.setGal k
      { G with gcred := (Store.put zeroWord G.gcred (field v.toNat 0 3)
          (BitVec.ofNat 32 (satAdd 32 (Store.get zeroWord G.gcred (field v.toNat 0 3)).toNat (field v.toNat 8 24)))) }) }) ∧
    (s.chip.GalWritable k → exec (.coreParityError g none) s = .next { s with chip := ((s.chip.setGal k { G.haltAt s.chip.act with dead := true }).report (.machineCheck k true 0)).galLog g 8 9 }) ∧
    (∀ q : QueueId, s.chip.GalWritable k → exec (.coreParityError g (some q)) s = .next { s with chip := ((s.chip.setGal k (G.setQueue (queueNum q) { G.queue (queueNum q) with halted := true })).report (.machineCheck k false (queueNum q))).galLog g 8 9 })

/-- A queue starts its next descriptor, completes an ended one, and runs NOP and QWAIT (R72, R73, R74, R78, R79, R80, R82, R88, R91, R120). -/
def Obligations.DescriptorsStartAndComplete : Prop :=
  ∀ (g : GalId) (q : QueueId) (e : QEntry) (s : State),
    let k := galKey g
    let n := queueNum q
    let G := s.chip.gal k
    (∀ errs : List GalUpset, let c1 := errs.foldl (Chip.upset g) s.chip
      (((c1.gal k).queue n).entries.find? fun x => x.st == .waiting) = some e → s.chip.queueRuns k n = true → c1.queueRuns k n = true →
      (∀ x ∈ (c1.gal k).earlier n e.index, ∀ m : Nat, x.st = .ended m → m = 0) →
      slotOk n (c1.gal k).mx.stopped e.desc ((c1.gal k).earlier n e.index) = true →
      let c := if bitOf e.desc.toNat 10 then c1.event (k / 104) (k % 104) 1 (descRange e.desc) (descData n e 0) else c1
      let st : EntrySt × Nat :=
        if bodyBad n (k / 104) e.desc then (.ended 1, 0)
        else if n = 4 ∧ descOpc e.desc = 0xA1 then (match (c.gal k).mcastMask e.desc with | .error m => (.ended m, 0) | .ok m => (.running, m))
        else (.running, 0)
      let G1 := (c.gal k).setEntry n { e with st := st.1, since := c.act, mask := st.2 }
      exec (.descriptorStart ⟨g, errs⟩ q) s = .next { s with chip := c.setGal k (if n = 1 ∨ n = 2 then G1.setVx (n - 1) { G1.vx (n - 1) with opc := BitVec.ofNat 8 (descOpc e.desc) } else G1) }) ∧
    (∀ before after : List QEntry, (G.queue n).entries = before ++ e :: after → (∀ x ∈ before, ∀ m : Nat, x.st ≠ .ended m) →
      (n < 3 → before = []) → e.st = .ended 0 →
      (G.queue n).halted = false → s.chip.stopped = false → (n = 0 → G.mx.stopped = false) →
      let c := if bitOf e.desc.toNat 10 then s.chip.event (k / 104) (k % 104) 2 (descRange e.desc) (descData n e 0) else s.chip
      let v := (c.gal k).queue n
      let G1 := (c.gal k).setQueue n { v with entries := (v.entries.filter fun x => x.index != e.index), done := v.done + 1 }
      exec (.descriptorComplete g q) s = .next { s with chip := (c.setGal k (if bitOf e.desc.toNat 8 then G1.addCtr (field e.desc.toNat 16 6) 1 else G1)).heldCredit k }) ∧
    (s.chip.InFlight k n 0 e → exec (.nop g q) s = .next { s with chip := s.chip.setGal k (G.setEntry n { e with st := .ended 0 }) }) ∧
    (s.chip.InFlight k n 1 e → G.condMet (descF e.desc 8 0 6) (BitVec.ofNat 32 (descF e.desc 12 0 32)) = true →
      exec (.qwait g q) s = .next { s with chip := s.chip.setGal k (G.setEntry n { e with st := .ended 0 }) }) ∧
    (s.chip.InFlight k n 1 e → G.condMet (descF e.desc 8 0 6) (BitVec.ofNat 32 (descF e.desc 12 0 32)) = false → s.chip.pastLimit k e.since = true →
      exec (.qwaitTimeout g q) s = .next { s with chip := s.chip.setGal k (G.setEntry n { e with st := .ended 3 }) })

/-- Every matrix descriptor runs when it is in flight, and the core stops, services and goes on (R108, R110, R113, R114, R115, R116, R118, R119, R125, R126). -/
def Obligations.MatrixDescriptorsRun : Prop :=
  (∀ row ∈ ([(.mxLoad, 0x10), (.mxStream, 0x11), (.mxStreamg, 0x12), (.mxStreamw, 0x13), (.mxKloop, 0x14)] : List ((GalId → Instr) × Nat)),
    ∀ (g : GalId) (e : QEntry) (s : State), s.chip.InFlight (galKey g) 0 row.2 e → (s.chip.gal (galKey g)).arrayWaits e = false →
      let r := (s.chip.gal (galKey g)).mxArray e.desc e.index.toNat (srC3 0 s.chip.epoch) none
      exec (row.1 g) s = .next { s with chip := s.chip.setGal (galKey g) (r.1.arrayEnd e r.2) }) ∧
  ∀ (g : GalId) (e : QEntry) (s : State),
    let k := galKey g
    let G := s.chip.gal k
    (s.chip.InFlight k 0 0x15 e → G.flushWaits e = false →
      let r := G.mxFlush e.desc e.index.toNat (srC3 0 s.chip.epoch) s.chip.part.hasTrain none
      exec (.mxFlush g) s = .next { s with chip := s.chip.setGal k (r.1.flushEnd e r.2) }) ∧
    (s.chip.InFlight k 0 0x16 e →
      exec (.mxCfg g) s = .next { s with chip := s.chip.setGal k ((G.mxCfg e.desc).setEntry 0 { e with st := .ended 0 }) }) ∧
    (s.chip.InFlight k 0 0x17 e →
      exec (.mxSave g) s = .next { s with chip := s.chip.setGal k ((G.mxSave e.desc).1.setEntry 0 { e with st := .ended (G.mxSave e.desc).2 }) }) ∧
    (s.chip.InFlight k 0 0x18 e →
      exec (.mxRestore g) s = .next { s with chip := s.chip.setGal k ((G.mxRestore e.desc).1.setEntry 0 { e with st := .ended (G.mxRestore e.desc).2 }) }) ∧
    (s.chip.GalWritable k → G.mx.stopped = false →
      exec (.mxPreemptionStop g) s = .next { s with chip := s.chip.setGal k { G with mx := { G.mx with stopReq := max G.mx.stopReq 1 } } }) ∧
    (∀ (tile : Fin 64) (row : Half) (inLoad : Bool) (flush : Fin 1025), s.chip.stopped = false → G.live = true → G.mx.stopped = false → G.mx.stopReq ≠ 0 →
      exec (.mxStopDrained g tile row inLoad flush) s = .next { s with chip := (s.chip.setGal k ((if (G.queue 0).halted then G else (G.runArray (srC3 0 s.chip.epoch) (fun o => decide (0x10 ≤ o ∧ o ≤ 0x14)) (some ⟨tile.val, row.toNat, inLoad⟩)).runFlush
          (srC3 0 s.chip.epoch) s.chip.part.hasTrain (some flush.val)).mxStop s.chip.act G.mx.stopReq)) }) ∧
    (s.chip.GalWritable k → G.mx.stopped = true → G.mx.displ = false →
      exec (.mxGo g) s = .next { s with chip := s.chip.setGal k { G.timersResume s.chip.act with mx := { G.mx with stopped := false, cause := 0, displ := false, stopTile := none } } }) ∧
    (∀ r : TileRec, s.chip.GalWritable k → G.mx.stopped = true → G.mx.displ = true → G.mx.stopTile = some r →
      let G1 : Gallery := { G.timersResume s.chip.act with mx := { G.mx with stopped := false, cause := 0, displ := false, stopTile := none } }
      (G1.loadTile G1.topRange.toNat r).2 = 0 →
      exec (.mxGo g) s = .next { s with chip := s.chip.setGal k (G1.loadTile G1.topRange.toNat r).1 }) ∧
    (∀ svc : Option Desc, s.chip.GalWritable k → G.mx.stopped = true →
      let c1 : Chip := { s.chip with free := s.chip.free + 1 }
      let c2 := match svc with | some d => c1.setGal k { G with mx := { G.mx with svc := d } } | none => c1
      exec (.mxServiceRun ⟨g, svc⟩) s = .next { s with chip := c2.setGal k ((c2.gal k).mxService (Config.serviceDrawIndex s.chip.free) (srC3 0 s.chip.epoch) s.chip.part.hasTrain) })

/-- Every elementwise vector instruction runs the descriptor in flight that has its opcode (R144, R152, R153, R154, R155, R168, R172, R554). -/
def Obligations.VectorElementwiseRun : Prop :=
  ∀ row ∈ ([
      (.vmov, 0x30, fun g x => g.vxMap1 x id),
      (.vadd, 0x31, fun g x => g.vxMap2 x fAdd),
      (.vsub, 0x32, fun g x => g.vxMap2 x fSub),
      (.vmul, 0x33, fun g x => g.vxMap2 x fMul),
      (.vfma, 0x34, fun g x => g.vxMap3 x fFma),
      (.vmax, 0x35, fun g x => g.vxMap2 x fMax),
      (.vmin, 0x36, fun g x => g.vxMap2 x fMin),
      (.vabs, 0x37, fun g x => g.vxMap1 x fAbs),
      (.vneg, 0x38, fun g x => g.vxMap1 x fNeg),
      (.vcmp, 0x39, fun g x => g.vxCompare x (fRel x.mod)),
      (.vcsel, 0x3A, fun g x => g.vxLanes x true true true fun _ _ a b c => if fRel x.mod a b then some (canonNaN c) else none),
      (.vselb, 0x3B, fun g x => g.vxSelb x),
      (.viota, 0x3C, fun g x => g.vxIota x),
      (.vcvt, 0x3D, fun g x => g.vxCvt x),
      (.viadd, 0x40, fun g x => g.vxIadd x),
      (.visub, 0x41, fun g x => g.vxMap2 x fun a b => a - b),
      (.vimul, 0x42, fun g x => g.vxMap2 x fun a b => a * b),
      (.viand, 0x43, fun g x => g.vxMap2 x fun a b => a &&& b),
      (.vior, 0x44, fun g x => g.vxMap2 x fun a b => a ||| b),
      (.vixor, 0x45, fun g x => g.vxMap2 x fun a b => a ^^^ b),
      (.vishl, 0x46, fun g x => g.vxMap2 x fun a b => a <<< (b.toNat % 32)),
      (.vishr, 0x47, fun g x => g.vxMap2 x fun a b => if bitOf x.mod 0 then a.sshiftRight (b.toNat % 32) else a >>> (b.toNat % 32)),
      (.vicmp, 0x48, fun g x => g.vxCompare x (iRel (x.mod % 8) (bitOf x.mod 3)))] :
        List ((GalId → Fin 2 → Instr) × Nat × (Gallery → VxRun → Gallery × Nat))),
    ∀ (g : GalId) (i : Fin 2) (e : QEntry) (s : State), s.chip.InFlight (galKey g) (1 + i.val) row.2.1 e →
      let k := galKey g
      let x : VxRun := ⟨i.val, e.desc, e.index.toNat, srC3 (1 + i.val) s.chip.epoch⟩
      let r := row.2.2 (s.chip.gal k) x
      let beats := vxBeats (s.chip.gal k) x
      exec (row.1 g i) s = .next { s with chip := s.chip.setGal k ((r.1.rngAdd (descRange e.desc) 4 beats).vxEnd i.val e r.2) }

/-- Every special function and reduction runs the descriptor in flight that has its opcode (R156, R157, R158, R159, R160, R161, R162, R163, R168, R172). -/
def Obligations.VectorSpecialFunctionsRun : Prop :=
  ∀ row ∈ ([
      (.vexp, 0x50, fun g x => g.vxSpecial x fExp),
      (.vexp2, 0x51, fun g x => g.vxSpecial x fExp2),
      (.vlog, 0x52, fun g x => g.vxSpecial x fLog),
      (.vrcp, 0x53, fun g x => g.vxSpecial x fRcp),
      (.vrsqrt, 0x54, fun g x => g.vxSpecial x fRsqrt),
      (.vtanh, 0x55, fun g x => g.vxSpecial x fTanh),
      (.vsigm, 0x56, fun g x => g.vxSpecial x fSigm),
      (.vsilu, 0x57, fun g x => g.vxSpecial x fSilu),
      (.vgelu, 0x58, fun g x => g.vxSpecial x (if bitOf x.mod 0 then fGeluTanh else fGeluErf)),
      (.vrot, 0x59, fun g x => g.vxRot x),
      (.vrsum, 0x60, fun g x => g.vxRsum x),
      (.vrmax, 0x61, fun g x => g.vxReduce x 1 (reduceWord (foldBest fMax (inf32 true)) fMax)),
      (.vrmin, 0x62, fun g x => g.vxReduce x 1 (reduceWord (foldBest fMin (inf32 false)) fMin)),
      (.vramax, 0x63, fun g x => g.vxRamax x),
      (.vtopk, 0x64, fun g x => g.vxTopk x),
      (.vscan, 0x65, fun g x => g.vxScan x),
      (.vcount, 0x66, fun g x => g.vxCount x),
      (.vrankb, 0x67, fun g x => g.vxRankb x)] :
        List ((GalId → Fin 2 → Instr) × Nat × (Gallery → VxRun → Gallery × Nat))),
    ∀ (g : GalId) (i : Fin 2) (e : QEntry) (s : State), s.chip.InFlight (galKey g) (1 + i.val) row.2.1 e →
      let k := galKey g
      let x : VxRun := ⟨i.val, e.desc, e.index.toNat, srC3 (1 + i.val) s.chip.epoch⟩
      let r := row.2.2 (s.chip.gal k) x
      let beats := vxBeats (s.chip.gal k) x
      exec (row.1 g i) s = .next { s with chip := s.chip.setGal k ((r.1.rngAdd (descRange e.desc) 4 beats).vxEnd i.val e r.2) }

/-- Every gather, mask, random and save instruction runs the descriptor in flight that has its opcode (R163, R164, R165, R166, R167, R168, R171, R172). -/
def Obligations.VectorMovesRun : Prop :=
  ∀ row ∈ ([
      (.vgather, 0x6C, fun g x => g.vxGather x),
      (.vscatter, 0x6D, fun g x => g.vxScatter x),
      (.vgathere, 0x6E, fun g x => g.vxGathere x),
      (.mlog, 0x70, fun g x => g.vxMlog x),
      (.mld, 0x71, fun g x => g.vxMld x),
      (.mst, 0x72, fun g x => g.vxMst x),
      (.mpopc, 0x73, fun g x => g.vxMpopc x),
      (.vrand, 0x78, fun g x => g.vxRand x),
      (.vsamp, 0x79, fun g x => g.vxSamp x),
      (.vsave, 0x7E, fun g x => g.vxSave x),
      (.vrestore, 0x7F, fun g x => g.vxRestore x)] :
        List ((GalId → Fin 2 → Instr) × Nat × (Gallery → VxRun → Gallery × Nat))),
    ∀ (g : GalId) (i : Fin 2) (e : QEntry) (s : State), s.chip.InFlight (galKey g) (1 + i.val) row.2.1 e →
      let k := galKey g
      let x : VxRun := ⟨i.val, e.desc, e.index.toNat, srC3 (1 + i.val) s.chip.epoch⟩
      let r := row.2.2 (s.chip.gal k) x
      let beats := vxBeats (s.chip.gal k) x
      exec (row.1 g i) s = .next { s with chip := s.chip.setGal k ((r.1.rngAdd (descRange e.desc) 4 beats).vxEnd i.val e r.2) }

/-- Arcade descriptors send, transfers are delivered and acknowledged, and a retained gallery wakes (R189, R190, R205, R206, R211, R212, R213, R214, R215, R218, R220). -/
def Obligations.ArcadeCommandsRun : Prop :=
  ∀ s : State, let c := s.chip;
    (∀ (g : GalId) (e : QEntry), c.InFlight (galKey g) 4 0xA0 e → 
      exec (.arcPut g) s = .next { s with chip := (c.arcPut (galKey g) e) }) ∧
    (∀ (g : GalId) (e : QEntry), c.InFlight (galKey g) 4 0xA1 e → 
      exec (.arcMcast g) s = .next { s with chip := (c.arcMcast (galKey g) e) }) ∧
    (∀ (g : GalId) (e : QEntry), c.InFlight (galKey g) 4 0xA2 e → 
      exec (.arcIsend g) s = .next { s with chip := (c.arcIsend (galKey g) e) }) ∧
    (∀ (g : GalId) (e : QEntry), c.InFlight (galKey g) 4 0xA3 e → c.hasTower (descF e.desc 8 14 2) = true → 
      exec (.arcSig g) s = .next { s with chip := ((c.arcSend (galKey g) e 0 [mkXfer (galKey g) e (descF e.desc 8 14 2) (descF e.desc 8 7 7) none false none
          (.sig (descF e.desc 8 0 6) (BitVec.ofNat 32 (descF e.desc 12 0 32)))])) }) ∧
    (∀ (g : GalId) (e : QEntry), c.InFlight (galKey g) 4 0xA4 e → 
      exec (.arcMsg g) s = .next { s with chip := (c.arcMsg (galKey g) e) }) ∧
    (∀ (n : Nat) (y x : Xfer), c.stopped = false → c.flight[n]? = some y → y.st = .flying → c.overtakes n y = false → c.wayOpen y = true → c.forkFull n y = false → x = { y with fork := none, sched := y.sched && !c.isFallback (c.xferDst y) } → c.lOpen (c.xferDst y) = true → c.blocked n x = false → c.mustWait (c.xferDst y) x = false → 
      exec (.arcTransferReceive n x.crc) s = .next { s with chip := (c.deliver n (c.xferDst y) x) }) ∧
    (∀ (n : Nat) (y x : Xfer), c.stopped = false → c.flight[n]? = some y → y.st = .flying → c.overtakes n y = false → c.wayOpen y = true → c.forkFull n y = false → x = { y with fork := none, sched := y.sched && !c.isFallback (c.xferDst y) } → c.lOpen (c.xferDst y) = true → c.blocked n x = false → c.mustWait (c.xferDst y) x = true → 
      exec (.arcTransferReceive n x.crc) s = .next { s with chip := (c.setXfer n { x with st := .held, seq := c.nextSeq }) }) ∧
    (∀ (n : Nat) (crc : Half) (y : Xfer), c.stopped = false → c.flight[n]? = some y → y.st = .flying → c.overtakes n y = false → c.wayOpen y = true → c.forkFull n y = false → crc ≠ y.crc → c.blocked n { y with fork := none, sched := y.sched && !c.isFallback (c.xferDst y) } = false → 
      exec (.arcTransferReceive n crc) s = .next { s with chip := (c.setXfer n { y with fork := none, sched := y.sched && !c.isFallback (c.xferDst y), st := .nacked }) }) ∧
    (∀ (n : Nat) (x : Xfer), c.stopped = false → c.flight[n]? = some x → x.st = .acked → c.lOpen x.src = true → 
      exec (.arcAckReceive n) s = .next { s with chip := (c.xferDone n x 0) }) ∧
    (∀ (n : Nat) (x : Xfer), c.stopped = false → c.flight[n]? = some x → x.st = .nacked → c.lOpen x.src = true → x.resends < 3 → 
      exec (.arcAckReceive n) s = .next { s with chip := (c.setXfer n { x with st := .flying, resends := x.resends + 1 }) }) ∧
    (∀ (g : GalId) (sched : Bool) (n : Nat) (x : Xfer), c.stopped = false → c.headHeld (galKey g) sched = some n → c.flight[n]? = some x → c.lOpen (galKey g) = true → c.mustHold (galKey g) x = false → 
      exec (.ingressDeliveryResume g sched) s = .next { s with chip := (c.deliver n (galKey g) x) }) ∧
    (∀ (g : GalId) (head : Half), c.GalWritable (galKey g) → 
      exec (.msgRingHeadWrite g head) s = .next { s with chip := (c.setGal (galKey g) { c.gal (galKey g) with mrhead := head }) }) ∧
    (∀ (t : Fin 4) (p : Fin 104) (n : Nat) (x : Xfer), c.stopped = false → c.flight[n]? = some x → x.st = .flying → x.fork = some (galKey ⟨t, p⟩) → x.told = false → 50000 ≤ (c.act - x.since).toNat → 
      exec (.mcastStall t p n) s = .next { s with chip := ((let c1 : Chip := (c.setXfer n { x with told := true }).report (UsherMsg.mcastStall ((c.setXfer n { x with told := true }).xferDst x) (galKey ⟨t, p⟩ % 104) (x.src % 104) (x.src / 104) x.index)
        c1.event (galKey ⟨t, p⟩ / 104) (104 + galKey ⟨t, p⟩ % 104) 8 0
          (x.dgal + (galKey ⟨t, p⟩ % 104) * 2 ^ 7 + (c1.gal x.src).logical * 2 ^ 14 + (x.src / 104) * 2 ^ 21 + x.index.toNat % 2 ^ 20 * 2 ^ 23))) }) ∧
    (∀ (g : GalId) (cause : Fin 7), c.stopped = false → (c.gal (galKey g)).dom = .retained → c.wakeHolds (galKey g) cause.val = true → ((c.retainLeave (galKey g) cause.val).gal (galKey g)).waiting = none → 
      exec (.retentionWake g cause) s = .next { s with chip := (c.retainLeave (galKey g) cause.val) }) ∧
    (∀ (g : GalId) (cause : Fin 256), c.usherRuns = true → c.hasTower g.tower.val = true → 
      exec (.galleryFence g cause) s = .next { s with chip := (c.usherFence (galKey g) cause.val) })

/-- Stair descriptors move rows and lines, and the usher asks and answers queries over annexes (R242, R246, R247, R248, R249, R277, R278, R279). -/
def Obligations.StairAndAttentionRun : Prop :=
  ∀ s : State, let c := s.chip;
    (∀ (g : GalId) (e : QEntry), c.queueRuns (galKey g) 3 = true → c.stairEntry (galKey g) (isStairOpc 0x80) = some e → 
      exec (.stLoad g) s = .next { s with chip := (c.stMoveRun true (galKey g) e) }) ∧
    (∀ (g : GalId) (e : QEntry), c.queueRuns (galKey g) 3 = true → c.stairEntry (galKey g) (isStairOpc 0x81) = some e → 
      exec (.stStore g) s = .next { s with chip := (c.stMoveRun false (galKey g) e) }) ∧
    (∀ (g : GalId) (e : QEntry), c.queueRuns (galKey g) 3 = true → c.stairEntry (galKey g) (isStairOpc 0x82) = some e → 
      exec (.stGather g) s = .next { s with chip := (c.stGather (galKey g) e) }) ∧
    (∀ (g : GalId) (e : QEntry), c.queueRuns (galKey g) 3 = true → c.stairEntry (galKey g) (isStairOpc 0x83) = some e → 
      exec (.stScatter g) s = .next { s with chip := (c.stScatter (galKey g) e) }) ∧
    (∀ (g : GalId) (e : QEntry), c.queueRuns (galKey g) 3 = true → c.stairEntry (galKey g) (isCmo 0) = some e → 
      exec (.stCmoWriteback g) s = .next { s with chip := ((let r := Chip.stEach (fun i c => c.cmoLine 0 (galKey g) (descF e.desc 8 0 40 / 64 + i)) 0 c (descF e.desc 16 0 40 / 64)
        r.1.stEnd (galKey g) e r.2)) }) ∧
    (∀ (g : GalId) (e : QEntry), c.queueRuns (galKey g) 3 = true → c.stairEntry (galKey g) (isCmo 1) = some e → 
      exec (.stCmoReleasePins g) s = .next { s with chip := ((let r := Chip.stEach (fun i c => c.cmoLine 1 (galKey g) (descF e.desc 8 0 40 / 64 + i)) 0 c (descF e.desc 16 0 40 / 64)
        r.1.stEnd (galKey g) e r.2)) }) ∧
    (∀ (g : GalId) (e : QEntry), c.queueRuns (galKey g) 3 = true → c.stairEntry (galKey g) (isCmo 2) = some e → 
      exec (.stCmoPrefetch g) s = .next { s with chip := ((let r := Chip.stEach (fun i c => c.cmoLine 2 (galKey g) (descF e.desc 8 0 40 / 64 + i)) 0 c (descF e.desc 16 0 40 / 64)
        r.1.stEnd (galKey g) e r.2)) }) ∧
    (∀ (g : GalId) (e : QEntry), c.queueRuns (galKey g) 3 = true → c.stairEntry (galKey g) (isCmo 3) = some e → 
      exec (.stCmoPrefetchPin g) s = .next { s with chip := ((let r := Chip.stEach (fun i c => c.cmoLine 3 (galKey g) (descF e.desc 8 0 40 / 64 + i)) 0 c (descF e.desc 16 0 40 / 64)
        r.1.stEnd (galKey g) e r.2)) }) ∧
    (∀ (g : GalId) (e : QEntry), c.queueRuns (galKey g) 3 = true → c.stairEntry (galKey g) (isCmo 4) = some e → 
      exec (.stCmoFlushInvalidate g) s = .next { s with chip := ((let r := Chip.stEach (fun i c => c.cmoLine 4 (galKey g) (descF e.desc 8 0 40 / 64 + i)) 0 c (descF e.desc 16 0 40 / 64)
        r.1.stEnd (galKey g) e r.2)) }) ∧
    (∀ (l : Fin 5) (c1 : Chip) (q : List Byte), c.usherRuns = true → c.takeMsg l.val 0x10 = some (c1, q) → 
      exec (.attnQuery (.receive l)) s = .next { s with chip := (c1.sendMsg l.val 0x11 false .plain (c1.attnAnswer l.val q)) }) ∧
    (∀ (w : Word) (layer : Fin 255) (t : Fin 4) (k : Fin 64) (q : List Word) (i pos l : Nat) (ls : List Nat), c.usherRuns = true → c.liveIdx w = some i → c.rowPos w = some pos → ((c.linksTo (field (c.cblk (c.tkRoot i) t.val k.val) 32 8)).filter fun l => decide (0x20 ≤ c.linkVer l)) = l ::ls → bitOf (c.cblk (c.tkRoot i) t.val k.val) 63 = true → c.tkRoot i ≠ 0 → q.length % 128 = 0 → q.length ≠ 0 → q.length ≤ 4096 → 
      exec (.attnQuery (.send w layer t k q)) s = .next { s with chip := ((let tag : DWord := BitVec.ofNat 64 (c.free % 2 ^ 40 + c.epoch.toNat % 2 ^ 24 * 2 ^ 40)
        let body := leBytes 4 (field (c.cblk (c.tkRoot i) t.val k.val) 0 32) ++ leBytes 2 layer.val ++ [BitVec.ofNat 8 t.val, BitVec.ofNat 8 (q.length / 128)]
          ++ leBytes 4 pos ++ leBytes 4 (windowLow (c.model (c.tkModel i)).image layer.val pos) ++ leBytes 8 tag.toNat ++ leBytes 8 0
          ++ q.foldr (fun w u => leBytes 4 w.toNat ++ u) []
        ({ c with free := c.free + 1, lk := { c.lk with attn := c.lk.attn ++ [⟨tag, w, pos, layer.val, t.val, k.val, c.act, none, q⟩] } } : Chip).sendMsg l 0x10 false (.attn tag) body)) }) ∧
    (∀ (l : Fin 5) (c1 : Chip) (p : List Byte), c.usherRuns = true → c.takeMsg l.val 0x11 = some (c1, p) → 
      exec (.attnPartial l) s = .next { s with chip := ((c1.attnReceive p).settle) }) ∧
    (∀ (tag : DWord) (a : AttnWait), c.usherRuns = true → (c.lk.attn.find? fun a => a.tag == tag && a.got.isNone) = some a → a.since.toNat + 2000000 ≤ c.act.toNat → 
      exec (.attnPartialTimeout tag) s = .next { s with chip := ((c.attnFail a).settle) })

/-- The memory path serves requests, fills, refreshes, retrains, sleeps and wakes (R229, R233, R235, R238, R251, R253, R254, R257, R258, R339, R54, R55). -/
def Obligations.MemoryPathRuns : Prop :=
  ∀ s : State, let c := s.chip;
    (∀ (tag : Word) (line : BitVec 34) (op : LineOp) (ah : Fin 3) (who : Requester) (r : LineReq), r = ⟨tag.toNat, who, op, ah.val, c.now, false⟩ → c.stopped = false → c.pathStatus line.toNat who = 0 → c.portBusy c.mem.held r line.toNat = false → c.ownHeld r line.toNat = false → c.canServe r line.toNat = true → 
      exec (.sliceRequest tag line op ah who) s = .next { s with chip := ((c.sliceServe r line.toNat).serveHeld (lineHome line.toNat)) }) ∧
    (∀ (tag : Word) (line : BitVec 34) (op : LineOp) (ah : Fin 3) (who : Requester) (r : LineReq), r = ⟨tag.toNat, who, op, ah.val, c.now, false⟩ → c.stopped = false → c.pathStatus line.toNat who = 0 → c.portBusy c.mem.held r line.toNat = false → c.ownHeld r line.toNat = true → 
      exec (.sliceRequest tag line op ah who) s = .next { s with chip := ((c.holdReq r line.toNat true).serveHeld (lineHome line.toNat)) }) ∧
    (∀ (tag : Word) (line : BitVec 34) (op : LineOp) (ah : Fin 3) (who : Requester) (r : LineReq), r = ⟨tag.toNat, who, op, ah.val, c.now, false⟩ → c.stopped = false → c.pathStatus line.toNat who = 0 → (c.portBusy c.mem.held r line.toNat = true ∨ (c.ownHeld r line.toNat = false ∧ c.canServe r line.toNat = false)) → 
      exec (.sliceRequest tag line op ah who) s = .next { s with chip := ((c.holdReq r line.toNat false).serveHeld (lineHome line.toNat)) }) ∧
    (∀ (tag : Word) (line : BitVec 34) (op : LineOp) (ah : Fin 3) (who : Requester) (n : Nat), c.stopped = false → c.pathStatus line.toNat who = n + 1 → 
      exec (.sliceRequest tag line op ah who) s = .next { s with chip := (c.answer tag.toNat (n + 1) 0) }) ∧
    (∀ (line : BitVec 34) (l : Nat) (ws : List LineReq) (d : Line) (p : Bool), c.stopped = false → (c.mem.fills.find? fun f => f.line == line.toNat) = some ⟨l, ws, some (d, p)⟩ → (ws.isEmpty && c.mem.held.any fun h => h.1 == l) = false → c.fillRoom l = true → 
      exec (.sliceFill line) s = .next { s with chip := ((ws.foldl (Chip.serveFill l) (({ c with mem := { c.mem with fills := c.mem.fills.filter fun f => f.line != l } } : Chip), p, d)).1.serveHeld (lineHome l)) }) ∧
    (∀ (line : BitVec 34), c.stopped = false → c.mem.backInv.contains line.toNat = true → 
      exec (.backInvalidate line) s = .next { s with chip := (c.backInvalidate line.toNat) }) ∧
    (∀ (t : Fin 4) (v : Fin 104) (n : Fin 128) (q : VaultReq) (w : Line × Bool), c.stopped = false → (c.queueOf (vaultKey t.val v.val))[n.val]? = some q → q.write = some w → Store.get noMark c.mem.bottomBus (vaultKey t.val v.val) = false → c.vaultAsleep (vaultKey t.val v.val) = false → c.slotsLeft (vaultKey t.val v.val) ≠ 0 → (c.vaultNext (vaultKey t.val v.val)).contains q = true → 
      exec (.vaultRequest t v n) s = .next { s with chip := ((((({ c with mem := { c.mem with vq := c.mem.vq.erase q } } : Chip).vaultMoved (vaultKey t.val v.val) q).reissue (vaultKey t.val v.val)).dramWrite q.line w.1 w.2).serveHeld (lineHome q.line)) }) ∧
    (∀ (t : Fin 4) (v : Fin 104) (n : Fin 128) (q : VaultReq), c.stopped = false → (c.queueOf (vaultKey t.val v.val))[n.val]? = some q → q.write = none → Store.get noMark c.mem.bottomBus (vaultKey t.val v.val) = false → c.vaultAsleep (vaultKey t.val v.val) = false → c.slotsLeft (vaultKey t.val v.val) ≠ 0 → (c.vaultNext (vaultKey t.val v.val)).contains q = true → 
      exec (.vaultRequest t v n) s = .next { s with chip := ((let c1 : Chip := (({ c with mem := { c.mem with vq := c.mem.vq.erase q } } : Chip).vaultMoved (vaultKey t.val v.val) q).reissue (vaultKey t.val v.val)
        let who := match c1.mem.fills.find? fun f => f.line == q.line with
          | some f => f.waiting.head?.map (·.who)
          | none => none
        let r := c1.vaultRead q.line 0 who
        let c2 : Chip := { r.1 with mem := { r.1.mem with fills := r.1.mem.fills.map fun f => if f.line = q.line then { f with got := some (r.2.2, r.2.1) } else f } }
        c2.serveHeld (lineHome q.line))) }) ∧
    (∀ (t : Fin 4) (v : Fin 104) (layer : Fin 16) (bank : Fin 16), c.hasTower t.val = true → c.bit (Reg.vaultCtl t.val v.val) 48 = false → layer.val < c.part.layers → 
      exec (.refresh t v layer bank) s = .next { s with chip := (({ c with mem := { c.mem with
          refreshRow := (Store.modify zeroRow13 c.mem.refreshRow ((vaultKey t.val v.val * 16 + layer.val) * 16 + bank.val) (· + 1))
          openRow := (Store.put zeroNat c.mem.openRow ((vaultKey t.val v.val * 16 + layer.val) * 16 + bank.val) 0) } })) }) ∧
    (∀ (t : Fin 4) (v : Fin 104) (layer : Fin 16) (needed : Byte), c.hasTower t.val = true → c.landingDrift t.val v.val layer.val needed = true → 
      exec (.delayLineCheck t v layer needed) s = .next { s with chip := ({ c with mem := { c.mem with drifted := Store.put noMark c.mem.drifted (vaultKey t.val v.val * 16 + layer.val) true } }) }) ∧
    (∀ (t : Fin 4) (v : Fin 104) (layer : Fin 16) (needed : Byte), Store.get noMark c.mem.drifted (vaultKey t.val v.val * 16 + layer.val) = true → 
      exec (.landingRetrain t v layer needed) s = .next { s with chip := (c.retrainLanding t.val v.val layer.val needed) }) ∧
    (∀ (p : LanePath) (lane : Fin 4608), c.hasPath p = true → lane.val < p.lanes → (∀ t v, p ≠ .vaultToken t v) → 
      exec (.laneFailRetrain p lane) s = .next { s with chip := (c.laneFail p lane.val) }) ∧
    (∀ (t : Fin 4) (v : Fin 104) (lane : Fin 4608), c.hasTower t.val = true → lane.val < (LanePath.vaultToken t v).lanes → 
      exec (.laneFailRetrain (.vaultToken t v) lane) s = .next { s with chip := ((c.tokenSplit (vaultKey t.val v.val)).laneFail (.vaultToken t v) lane.val) }) ∧
    (∀ (b : Fin 4) (forward : Bool) (x : Burst), x.crc = Config.burstCrc x.words → c.stopped = false → c.part.hasBridge b.val = true → Store.get noMark c.mem.bridgeOut b.val = false → 
      exec (.bridgeBurstReceive b forward x) s = .next { s with chip := (c.takeBurst b.val forward x) }) ∧
    (∀ (b : Fin 4) (forward : Bool) (x : Burst), x.crc ≠ Config.burstCrc x.words → c.stopped = false → c.part.hasBridge b.val = true → Store.get noMark c.mem.bridgeOut b.val = false → 
      exec (.bridgeBurstReceive b forward x) s = .next { s with chip := ({ c with mem := { c.mem with bridgeReplay := Store.put noMark c.mem.bridgeReplay (b.val * 2 + b2n forward) true } }) }) ∧
    (∀ (b : Fin 4), c.part.hasBridge b.val = true → Store.get noMark c.mem.bridgeOut b.val = false → c.bridgeDead b.val = true → 
      exec (.bridgeOutOfService b) s = .next { s with chip := (c.bridgeGone b.val) }) ∧
    (∀ (t h : Fin 4), c.hasTower t.val = true → Store.get noMark c.mem.stairOut (t.val * 4 + h.val) = false → c.stairDead t.val h.val = true → 
      exec (.stairOutOfService t h) s = .next { s with chip := (c.stairGone t.val h.val) }) ∧
    (∀ (t : Fin 4) (v : Fin 104), c.hasTower t.val = true → c.vaultAsleep (vaultKey t.val v.val) = false → 
      exec (.selfRefreshEntry t v) s = .next { s with chip := (c.selfRefreshEnter t.val v.val none) }) ∧
    (∀ (t : Fin 4) (v : Fin 104) (written : Nat), c.hasTower t.val = true → c.vaultAsleep (vaultKey t.val v.val) = false → 
      exec (.selfRefreshWritebackTimeout t v written) s = .next { s with chip := (c.selfRefreshEnter t.val v.val (some written)) }) ∧
    (∀ (t : Fin 4) (v : Fin 104) (needed : List Byte), c.bit (Reg.vaultCtl t.val v.val) 48 = true → 
      exec (.selfRefreshExit t v needed) s = .next { s with chip := (c.selfRefreshLeave t.val v.val needed) })

/-- The integer SIMD operations of a chanter, lane by lane (R329). -/
def Obligations.QsimdIntegerLanes : Prop :=
  ∀ row ∈ ([
      (.qsimdAdd, fun W a b => (a + b) % 2 ^ W), (.qsimdSub, fun W a b => (a + 2 ^ W - b) % 2 ^ W), (.qsimdMul, fun W a b => a * b % 2 ^ W),
      (.qsimdSmin, fun W a b => if toSigned W a ≤ toSigned W b then a else b), (.qsimdSmax, fun W a b => if toSigned W a ≤ toSigned W b then b else a),
      (.qsimdUmin, fun _ a b => min a b), (.qsimdUmax, fun _ a b => max a b),
      (.qsimdAnd, fun _ a b => a &&& b), (.qsimdOr, fun _ a b => a ||| b), (.qsimdXor, fun _ a b => a ^^^ b),
      (.qsimdShl, fun W a b => a * 2 ^ (b % W) % 2 ^ W), (.qsimdShr, fun W a b => a / 2 ^ (b % W)),
      (.qsimdSar, fun W a b => wrapInt W (toSigned W a / (2 ^ (b % W) : Nat))), (.qsimdEq, fun W a b => if a = b then 2 ^ W - 1 else 0)] :
        List ((ChanterId → Fin 8 → Fin 32 → Fin 32 → Fin 32 → Instr) × (Nat → Nat → Nat → Nat))),
    ∀ (x : ChanterId) (w : Fin 8) (rd rs1 rs2 : Fin 32) (s : State),
      let k := clKey x.cluster
      let X := s.chip.chanter k x.ch.val
      s.chip.chRuns k x.ch.val = true →
      (w.val < 3 → X.qBusy rd.val = false → X.qBusy rs1.val = false → X.qBusy rs2.val = false →
        let W := 8 * 2 ^ w.val
        exec (row.1 x w rd rs1 rs2) s = .next { s with chip := (s.chip.setChanter k x.ch.val
          (X.doneQ rd.val (qOf W (List.zipWith (row.2 W) (qLanes W (X.qreg rs1.val)) (qLanes W (X.qreg rs2.val)))) 1)) }) ∧
      (3 ≤ w.val → ∃ word : Word, exec (row.1 x w rd rs1 rs2) s = .next { s with chip := s.chip.chTrap k x.ch.val 2 word })

/-- The floating, permuting, lane and checksum instructions of a chanter (R329, R330, R331). -/
def Obligations.ChanterRegisterInstructions : Prop :=
  ∀ (x : ChanterId) (rd rs1 rs2 : Fin 32) (lane : Fin 4) (j : Job) (s : State),
    let k := clKey x.cluster
    let X := s.chip.chanter k x.ch.val
    s.chip.chRuns k x.ch.val = true → X.job = some j → (∀ n : Nat, X.qBusy n = false) →
    (∀ row ∈ ([(.qsimdFadd, fun a b _ => fAdd a b), (.qsimdFmul, fun a b _ => fMul a b), (.qsimdFma, fun a b d => fFma a b d), (.qsimdFmax, fun a b _ => fMax a b)] :
        List ((ChanterId → Fin 32 → Fin 32 → Fin 32 → Instr) × (Word → Word → Word → Word))),
      exec (row.1 x rd rs1 rs2) s = .next { s with chip := (s.chip.setChanter k x.ch.val (X.doneQ rd.val (qOf 32 ((List.range 4).map fun n =>
          (row.2 (BitVec.ofNat 32 (field (X.qreg rs1.val).toNat (32 * n) 32)) (BitVec.ofNat 32 (field (X.qreg rs2.val).toNat (32 * n) 32))
            (BitVec.ofNat 32 (field (X.qreg rd.val).toNat (32 * n) 32))).toNat)) 2)) }) ∧
    exec (.qsimdPermute x rd rs1 rs2) s = .next { s with chip := (s.chip.setChanter k x.ch.val
        (X.doneQ rd.val (qOf 8 ((qLanes 8 (X.qreg rs2.val)).map fun n => field (X.qreg rs1.val).toNat (8 * (n % 16)) 8)) 1)) } ∧
    exec (.qins x lane rd rs1) s = .next { s with chip := (s.chip.setChanter k x.ch.val
        (X.doneQ rd.val (BitVec.ofNat 128 (setField (X.qreg rd.val).toNat (32 * lane.val) 32 (X.hart.get rs1.val).toNat)) 1)) } ∧
    exec (.qext x lane rd rs1) s = .next { s with chip := s.chip.setChanter k x.ch.val (X.doneX rd.val (BitVec.ofNat 32 (field (X.qreg rs1.val).toNat (32 * lane.val) 32)) 1) } ∧
    (qcvtOk (field X.qcvtcfg.toNat 0 4) (field X.qcvtcfg.toNat 4 4) rd.val rs1.val (bitOf X.qcvtcfg.toNat 9) = true →
      exec (.qcvt x rd rs1 rs2) s = .next { s with chip := s.chip.setChanter k x.ch.val ((X.qcvt rd.val rs1.val ((X.hart.get rs2.val).toNat % 256) j.id j.epoch).done 4) }) ∧
    exec (.qcrc x rd rs1 rs2) s = .next { s with chip := (s.chip.setChanter k x.ch.val
        (X.doneX rd.val (BitVec.ofNat 32 (crc32c (X.hart.get rs1.val).toNat (leBytes 16 (X.qreg rs2.val).toNat))) 2)) } ∧
    exec (.qpgen x rd rs1 rs2) s = .next { s with chip := (s.chip.setChanter k x.ch.val
        (X.doneQ rd.val (qOf 32 (philox X.pgkey0.toNat X.pgkey1.toNat (X.hart.get rs1.val).toNat (X.hart.get rs2.val).toNat 0 0)) 2)) }

/-- Line reads, line writes, copies, fences and job ends of a chanter (R322, R324, R326, R327, R328, R332, R342). -/
def Obligations.ChanterLineInstructions : Prop :=
  ∀ (x : ChanterId) (rd rs1 rs2 : Fin 32) (s : State),
    let c := s.chip
    let k := clKey x.cluster
    let i := x.ch.val
    let X := c.chanter k i
    let a := X.hart.get rs1.val
    let b := X.hart.get rs2.val
    (c.chRuns k i = true → rd.val % 4 = 0 → a.toNat % 64 = 0 → ((c.copiesOn k i).chanter k i).ops.length < 32 → (∀ n < 4, X.qBusy (rd.val + n) = false) → 
      exec (.ldl x rd rs1) s = .next { s with chip := (((c.copiesOn k i).opIssue k i (lineAddr X.cseg a / 64) (.read rd.val)).onChanter k i fun y => y.done 1) }) ∧
    (c.chRuns k i = true → rs2.val % 4 = 0 → a.toNat % 64 = 0 → ((c.copiesOn k i).chanter k i).ops.length < 32 → (∀ n < 4, X.qBusy (rs2.val + n) = false) → 
      exec (.stl x rs1 rs2) s = .next { s with chip := ((((c.copiesOn k i).opIssue k i (lineAddr X.cseg a / 64)
        (.write (BitVec.ofNat 512 ((List.range 4).foldr (fun n acc => (X.qreg (rs2.val + n)).toNat + 2 ^ 128 * acc) 0)))).onChanter k i fun y => y.done 1)) }) ∧
    (c.chRuns k i = true → a.toNat % 64 = 0 → b.toNat % 64 = 0 → lineTower (lineAddr X.cseg a / 64) = lineTower (lineAddr X.cseg a / 64 + X.cpcnt.toNat - 1) → lineTower (lineAddr X.csegd b / 64) = lineTower (lineAddr X.csegd b / 64 + X.cpcnt.toNat - 1) → 
      exec (.pcopy x rs1 rs2) s = .next { s with chip := ((((c.copiesOn k i).setChanter k i { X.done 1 with
        copies := ((X.done 1).copies ++ (List.range X.cpcnt.toNat).map fun n => (lineAddr X.cseg a / 64 + n, lineAddr X.csegd b / 64 + n)) }).copiesOn k i)) }) ∧
    (c.chRuns k i = true → (c.copiesOn k i).chDrained k i = true → 
      exec (.fencel x rd) s = .next { s with chip := ((c.copiesOn k i).onChanter k i fun y => { (y.doneX rd.val (y.stat.setWidth 32) 1) with stat := 0, ops := [] }) }) ∧
    (c.chRuns k i = true → (c.copiesOn k i).chDrained k i = true → 
      exec (.jdone x rs1) s = .next { s with chip := (((c.copiesOn k i).onChanter k i fun y => y.done 1).jobEnd k i 0 a.toNat) }) ∧
    (∀ (o : ChOp) (d : Line) (qn : Nat), c.stopped = false → (X.ops.find? fun y => match y.st with | .arrived _ _ => true | .refused => true | _ => false) = some o → o.kind = .read qn → o.st = .arrived false d → 
      exec (.ldlDataArrival x) s = .next { s with chip := (((c.setChanter k i (let y := X.dropOp o
        { y with q := (List.range 4).foldl (fun m n => Store.put zeroQ m (qn + n) (BitVec.ofNat 128 (field d.toNat (128 * n) 128))) y.q })).copiesOn k i)) }) ∧
    (∀ (o : ChOp), c.stopped = false → (X.ops.find? fun y => y.st == .retry) = some o → o.tries < 3 → 
      exec (.lineOpRetry x) s = .next { s with chip := (c.setChanter k i (X.setOp { c.opSent k o with tries := o.tries + 1 })) }) ∧
    (∀ (errs : List SramUpset) (len : Nat) (iw : Rv) (h' : Hart) (c1 : Chip), c1 = errs.foldl (Chip.sramUpset x) c → c.chRuns k i = true → fetchRv (c1.chanter k i).fetchHalf (c1.chanter k i).hart.pc.toNat = .ok (len, iw) → rvExec (c1.chanter k i).hart iw len = .done h' → 
      exec (.chanterInstruction ⟨x, errs⟩) s = .next { s with chip := (c1.setChanter k i { c1.chanter k i with hart := h' }) })

/-- Chanter clusters queue, start and cancel jobs, and share the vault bus (R333, R334, R336, R337, R339, R343, R344, R346, R351). -/
def Obligations.ChanterJobsRun : Prop :=
  ∀ s : State, let c := s.chip;
    (∀ (x : ClusterId) (w7 : DWord), c.stopped = false → (c.cluster (clKey x)).queue.length < 64 → 
      exec (.jobEnqueue x w7) s = .next { s with chip := ((c.setCluster (clKey x) { c.cluster (clKey x) with queue := ((c.cluster (clKey x)).queue ++ [BitVec.ofNat 512
        ((List.range 7).foldr (fun n acc => (Store.get zeroDWord (c.cluster (clKey x)).jobin n).toNat + 2 ^ 64 * acc) w7.toNat)]) })) }) ∧
    (∀ (x : ClusterId) (w7 : DWord), c.stopped = false → 64 ≤ (c.cluster (clKey x)).queue.length → 
      exec (.jobEnqueue x w7) s = .next { s with chip := (c.wrF (Reg.chcStat (clKey x / 104) (clKey x % 104)) 52 1 1) }) ∧
    (∀ (x : ClusterId) (r : Line) (rest : List Line) (i : Nat), c.stopped = false → (c.cluster (clKey x)).queue = r ::rest → c.rdF (Reg.chcCtl (clKey x / 104) (clKey x % 104)) 32 1 = 0 → (recUsh r = true ∨ c.stale (recEpoch r) = false) → c.recBad r = false → c.rangesOf r = some [] → recBg r = false → recTarget r ≠ 0xFF → recTarget r = i → c.chFree (clKey x) i = true → 
      exec (.jobStart x) s = .next { s with chip := (((c.setCluster (clKey x) { c.cluster (clKey x) with queue := rest }).jobRun (clKey x) i ⟨r, [], false⟩).sendWorks) }) ∧
    (∀ (x : ChanterId) (j : Job), c.stopped = false → (c.chanter (clKey x.cluster) x.ch.val).job = some j → j.started = false → (j.ranges.foldl Chip.declare (j.ranges.foldl Chip.cleanRange c)).holdsFit = true → 
      exec (.rangesDeclared x) s = .next { s with chip := ((j.ranges.foldl Chip.declare (j.ranges.foldl Chip.cleanRange c)).jobRun (clKey x.cluster) x.ch.val j) }) ∧
    (∀ (x : ClusterId) (jobid : Word) (r : Line), c.stopped = false → ((c.cluster (clKey x)).queue.find? fun r => recId r == jobid.toNat) = some r → 
      exec (.jobCancel x jobid) s = .next { s with chip := ((c.setCluster (clKey x) { c.cluster (clKey x) with queue := (c.cluster (clKey x)).queue.erase r }).jobReport (clKey x) 0 r 5 0) }) ∧
    (∀ (x : ClusterId) (n : Fin 65) (o : Nat × Nat × ChOp), c.stopped = false → oldestOp (c.bottomOps (clKey x)) = some o → c.topWaits (clKey x) = false → c.bottomOpen (clKey x) = true → n.val ≠ 0 → n.val ≤ c.bottomRoom (clKey x) → 
      exec (.bottomBurst x n) s = .next { s with chip := ((Chip.burstGo { c with mem := { c.mem with
          bottomBus := (Store.put noMark c.mem.bottomBus (clKey x) true)
          burstEnd := (Store.put noMark c.mem.burstEnd (clKey x) true) } } (clKey x) o.2.2.kind.writes n.val)) }) ∧
    (∀ (x : ClusterId), c.stopped = false → Store.get noMark c.mem.bottomBus (clKey x) = true → c.topWaits (clKey x) = true → 
      exec (.tokenHandoff x) s = .next { s with chip := (({ c with mem := { c.mem with
          bottomBus := (Store.put noMark c.mem.bottomBus (clKey x) false)
          burstEnd := (Store.put noMark c.mem.burstEnd (clKey x) false) } })) }) ∧
    (∀ (x : ClusterId) (h : Nat × LineReq), c.stopped = false → (c.mem.held.find? fun h => h.2.own && lineHome h.1 == clKey x) = some h → (Store.get noMark c.mem.bottomBus (clKey x) && !Store.get noMark c.mem.burstEnd (clKey x)) = false → (c.mem.backInv.any fun l => lineHome l == clKey x) = false → c.canServe h.2 h.1 = true → 
      exec (.heldReadRelease x) s = .next { s with chip := ((let c1 : Chip := { c with mem := { c.mem with held := c.mem.held.erase h } }
        let r := Reg.chcHold (clKey x / 104) (clKey x % 104)
        ((((c1.bump r 0 32 1).wrF r 32 16 (max (c1.rdF r 32 16) (min (c.now - h.2.since).toNat 0xFFFF)))).sliceServe h.2 h.1).serveHeld (clKey x))) }) ∧
    (∀ (x : ClusterId), c.stopped = false → c.rdF (Reg.chcCtl x.tower.val x.vault.val) 16 8 ≠ 0 → c.bit (Reg.vaultCtl x.tower.val x.vault.val) 48 = false → c.worksOf (Work.is (.patrol (clKey x))) = [] → 
      exec (.patrolPass x) s = .next { s with chip := ((c.addWorkAt (clKey x) .patrol (.patrol (clKey x)) [(0, 0, 0)]).sendWorks) }) ∧
    (∀ (x : ClusterId) (w : Work) (ws : List Work) (i cur n : Nat) (c1 : Chip), c.stopped = false → c.rdF (Reg.chcCtl x.tower.val x.vault.val) 16 8 ≠ 0 → c.bit (Reg.vaultCtl x.tower.val x.vault.val) 48 = false → c.worksOf (Work.is (.patrol (clKey x))) = w ::ws → w.status = none → c.workRuns w = some i → cur = w.items.foldl (fun _ x => x.1) 0 → Chip.patrolGo (clKey x) (c.patrolLines (clKey x) cur) c = (c1, some n) → 
      exec (.patrolPass x) s = .next { s with chip := (((c1.countLines (clKey x) (n / 128 - cur / 128) false).onUsh fun u =>
          { u with works := u.works.map fun x => if x.id = w.id then { x with items := [(n, 0, 0)] } else x })) }) ∧
    (∀ (x : ClusterId) (w : Work) (ws : List Work) (i cur : Nat) (c1 : Chip), c.stopped = false → c.rdF (Reg.chcCtl x.tower.val x.vault.val) 16 8 ≠ 0 → c.bit (Reg.vaultCtl x.tower.val x.vault.val) 48 = false → c.worksOf (Work.is (.patrol (clKey x))) = w ::ws → w.status = none → c.workRuns w = some i → cur = w.items.foldl (fun _ x => x.1) 0 → Chip.patrolGo (clKey x) (c.patrolLines (clKey x) cur) c = (c1, none) → 
      exec (.patrolPass x) s = .next { s with chip := ((((c1.countLines (clKey x) (c.towerBytes / 64 / 96 - cur / 128) false).jobEnd (clKey x) i 0 (Config.jobResult w.id).toNat).worksGone (Work.is (.patrol (clKey x)))).sendWorks) })

/-- The usher closes an epoch, moves, loads and opens the next (R199, R301, R303, R305, R306, R308, R311, R313, R314, R353). -/
def Obligations.EpochsTurn : Prop :=
  ∀ s : State, let c := s.chip;
    (∀ (phase : Fin 3), c.usherRuns = true → c.epochState = 1 → c.phaseDue phase.val = true → 
      exec (.phasePolicyChange phase) s = .next { s with chip := (c.onUsh fun u => { u with want := phase.val, cause := true }) }) ∧
    (c.usherRuns = true → c.ush.cause = true → c.epochState = 1 → c.nextPlan.isSome = true → 
      exec .changeoverBegin s = .next { s with chip := (c.closingStart.onUsh fun u => { u with cause := false }) }) ∧
    (∀ (copies : List (Fin 16 × Fin 4)), c.usherRuns = true → c.epochState = 2 → c.outstanding = 0 → c.allHeld = true → c.nextPlan.isNone = false → 
      exec (.epochClose copies) s = .next { s with chip := ((let c1 := c.releaseEpochPins
        let c2 := c1.gals.foldl (fun c e => (c.stepCredit e.1).onGal e.1 fun g => { g with carry := 0 }) c1
        let c3 := c2.ush.tables.foldl (fun c t => if t.accepted then c.shareEnergy t.batch else c) c2
        let c4 := c3.onUsh fun u => { u with tables := [], stepNet := [], mbox := [], cause := false }
        let c5 := (c4.liveTickets.foldl (fun c i => if c.tkState i = 4 then c.boundary i else c) c4).buildMoves (copies.map fun x => (x.1.val, x.2.val))
        ((c5.setEpoch c5.epoch.toNat 3 c5.ush.layout.record).movesIssue).settle)) }) ∧
    (c.usherRuns = true → c.epochState = 2 → c.outstanding ≠ 0 → c.ush.since.toNat + 50000000 ≤ c.act.toNat → 
      exec .closingTimeout s = .next { s with chip := ((let c1 := ((c.gals.filter fun e => !c.fenced e.1 && e.2.outstanding != 0).map (·.1)).foldl (fun c k => c.usherFence k 1) c
        let lost := c1.lk.attn.filter fun a => a.got.isNone
        let c2 := c1.removeRows fun t r => ((!t.accepted && c1.stepRetired t) && r.kind == .sample) || lost.any fun a => a.ticket == r.ticket && a.pos == r.pos
        let c3 := (List.range 5).foldl (fun c l => if c.link l = LinkState.reset then c else
          c.onLink l fun x => { x with out := x.out.filter fun r => r.txn.ush, waiting := x.waiting.filter fun r => r.1.ush }) c2
        ({ c3 with lk := { c3.lk with attn := [], outs := [] } }).dropStepJobs)) }) ∧
    (∀ (n : Nat) (c1 : Chip), c.usherRuns = true → c.epochState = 3 → n < c.ush.moves → c.flipped n = false → c.voided n = false → c.worksEnd (c.servesMove n) [] = some (c1, true) → ((c1.moveFlip n).moveKind n = 1 → ∀ i, (c1.moveFlip n).liveIdx (BitVec.ofNat 32 ((c1.moveFlip n).moveObj n)) = some i → (c1.moveFlip n).tkFlag i 1 = false) → 
      exec (.moveFlip n) s = .next { s with chip := ((c1.moveFlip n).settle) }) ∧
    (c.usherRuns = true → c.epochState = 3 → c.sys.ha.towerDue = [] → (∀ n < c.ush.moves, c.flipped n = true ∨ c.voided n = true) → 
      exec .movesComplete s = .next { s with chip := (c.movesComplete) }) ∧
    (∀ (lags : List (Fin 384 × Nat)) (pl : Nat × Nat) (c1 : Chip), c.usherRuns = true → c.nextPlan = some pl → c.epochState = 4 → ((c.loadMaps.placed (c.planSect pl)).all fun x => if c.loadMaps.onFallback x.2.1 x.2.2.1 then (c.gal x.1).shadow else (c.loadMaps.gal x.1).dom == .up) = true → c.loadMaps.loadStages pl.1 (c.planSect pl) = (c1, []) → 
      exec (.epochOpen lags) s = .next { s with chip := (c1.openEpoch pl (c.planSect pl) (lags.map fun x => (x.1.val, x.2))) }) ∧
    (∀ (batch : Nat), c.usherRuns = true → exec (.stepResultsAccept batch) s = .next { s with chip := ((let ws := (c.ush.tables.filter fun t => t.batch == batch).foldl (fun l t => l ++ t.rows.map (·.ticket)) []
        let c1 := ws.foldl (fun c w => match c.liveIdx w with | some i => c.dropMaps i | none => c) (c.acceptTable batch)
        ({ c1 with lk := { c1.lk with attn := c1.lk.attn.filter (fun a => c1.inFlight a.ticket), outs := c1.lk.outs.filter fun a => c1.inFlight a.ticket } }).settle)) }) ∧
    (∀ (t : Fin 4) (col : Fin 8) (jobid : Word) (entry : Byte) (v : Nat), c.usherRuns = true → c.critValue (0x30 + 8 * t.val) = none → c.rdF (Reg.gmap t.val) (8 * col.val + 4) 4 < 13 → ((List.range 104).find? fun v => c.vaultPos (vaultKey t.val v) == 13 * col.val + c.rdF (Reg.gmap t.val) (8 * col.val + 4) 4) = some v → (((c.ownWrF (Reg.chcCtl t.val v) 32 1 1).cluster (vaultKey t.val v)).chanters.any fun e => e.2.job.isSome) = false → 2 ≤ ((List.range 32).filter fun n => !bitOf ((c.ownWrF (Reg.chcCtl t.val v) 32 1 1).rdF (Reg.chcStat t.val v) 0 32) n).length → 
      exec (.chanterFallbackStart t col jobid entry) s = .next { s with chip := ((let c1 := c.ownWrF (Reg.chcCtl t.val v) 32 1 1
        let c2 := ((List.range 32).filter fun n => !bitOf (c1.rdF (Reg.chcStat t.val v) 0 32) n).foldl (fun c2 n =>
          c2.jobRun (vaultKey t.val v) n ⟨BitVec.ofNat 512 (jobid.toNat + c2.epoch.toNat % 2 ^ 24 * 2 ^ 32 + 2 ^ 56 + entry.toNat * 2 ^ 64 + n * 2 ^ 72), [], false⟩) c1
        let c3 := c2.onGal (t.val * 104 + (13 * col.val + c.rdF (Reg.gmap t.val) (8 * col.val + 4) 4)) fun g => { g with shadow := true }
        { c3 with mem := { c3.mem with ways := c3.mem.ways.filter fun e => match e.2 with | some w => (c3.shadowOf (w.line * 64)).isNone | none => true } })) })

/-- The usher's own moves between the states of a ticket (R365, R375, R376, R276, R384, R377, R379, R392, R395). -/
def Obligations.TicketsMove : Prop :=
  ∀ (s : State) (w : Word) (ti : Nat), let c := s.chip; let cm := c.mend ti; c.usherRuns = true → c.liveIdx w = some ti →
    (∀ (d d1 : Chip) (root : Nat), cm.tkState ti = 1 → (if cm.tkRoot ti ≠ 0 then some (cm, cm.tkRoot ti) else cm.newRoot (cm.tkImage ti) 0) = some (d, root) → Chip.readyPos (d.tkPut ti 0x20 8 root) ti 0 = some d1 → d1.tkNtok ti ≠ 1 → 
      exec (.ticketBound w) s = .next { s with chip := ((d1.setState ti 2 0).settle) }) ∧
    (∀ (d d1 : Chip) (root : Nat), cm.tkState ti = 1 → (if cm.tkRoot ti ≠ 0 then some (cm, cm.tkRoot ti) else cm.newRoot (cm.tkImage ti) 0) = some (d, root) → Chip.readyPos (d.tkPut ti 0x20 8 root) ti 0 = some d1 → d1.tkNtok ti = 1 → 
      exec (.ticketBound w) s = .next { s with chip := ((d1.setState ti 3 0).settle) }) ∧
    (cm.tkState ti = 2 → cm.npos ti + 1 = cm.tkNtok ti → cm.tkFlag ti 4 = true → cm.inFlight w = false → (if cm.tkFlag ti 6 then cm.waitingCmd (cm.tkWord ti) 4 else none) = none → 
      exec (.prefillDone w) s = .next { s with chip := ((cm.setState ti 3 0).settle) }) ∧
    (∀ (m : HostCmd), cm.tkState ti = 2 → cm.npos ti + 1 = cm.tkNtok ti → cm.tkFlag ti 4 = true → cm.inFlight w = false → cm.tkFlag ti 6 = true → cm.waitingCmd (cm.tkWord ti) 4 = some m → 
      exec (.prefillDone w) s = .next { s with chip := (((cm.cmdTaken m).parkFor ti 7 0 (some m.ans)).settle) }) ∧
    (∀ (residue pipe limit j : Nat), c.runLimit = some (pipe, limit) → c.nextRunnable = some j → c.running.length < limit → residue < pipe → 
      exec (.runningSetAdmit residue) s = .next { s with chip := (((c.setState j 4 0).setAux j fun x => { x with residue := residue, ran := 0 }).settle) }) ∧
    (∀ (pipe limit j k low : Nat) (rest : List Nat), c.runLimit = some (pipe, limit) → c.nextRunnable = some j → limit ≤ c.running.length → (c.running.any fun n => decide (c.tkPrio n < c.tkPrio j)) = true → low = c.running.foldl (fun n y => min n (c.tkPrio y)) 7 → c.byAge (c.running.filter fun n => c.tkPrio n == low && decide (low < c.tkPrio j ∧ c.rdF Reg.clkcfg 48 16 ≤ (c.aux n).ran)) = k ::rest → 
      exec .priorityPreemption s = .next { s with chip := (((c.setAux k fun x => { x with preempt := true }).boundary k).settle) }) ∧
    (∀ (x : Word) (m : HostCmd) (c1 : Chip), (cm.aux ti).fork = some (x, m) → cm.tkState ti = 8 → cm.worksEnd (Work.is (.fork ti)) [] = some (c1, true) → 
      exec (.forkTablesCopied w) s = .next { s with chip := ((let c2 := (c1.forkPages (c1.tkRoot ti) ((c1.worksOf (Work.is (.fork ti))).flatMap fun w => w.items)).worksGone (Work.is (.fork ti))
        (((c2.setState ti (if (c2.tkFlag ti 3 && c2.allDemoted ti) = true then 6 else 5) m.ans.seq).setAux ti fun x => { x with fork := none }).doneTicket ti m.ans 0 []).settle)) }) ∧
    (cm.tkRoot ti ≠ 0 → cm.tkState ti ≠ 7 → cm.tkState ti ≠ 10 → (cm.rehangOf w).isSome = false → (cm.lostIndices ti).isEmpty = false → 
      exec (.recoveryStart w) s = .next { s with chip := (((let c1 := (cm.tableLines (cm.tkRoot ti)).foldl (fun c e => if Chip.linePoisoned c e.1 then c.memWrite (64 * e.1) (c.memBytes (64 * e.1) 64) else c) cm
        c1.recoverStart ti (c1.tkImage ti) (cm.lostIndices ti)).settle)) }) ∧
    (cm.tkState ti = 9 → (cm.aux ti).lost = [] → (cm.aux ti).fresh = [] → cm.inFlight w = false → 
      exec (.recoveryDone w) s = .next { s with chip := (((let d := (cm.setStateWith ti (cm.tkRstate ti) 0 (putRstate 0)).healthNote 1 3 w.toNat
        if cm.tkRstate ti = 3 then d.parkQueued ti d else d).settle)) }) ∧
    (cm.tkState ti ≠ 10 → cm.tkUnreadable ti = true → exec (.ticketLost w) s = .next { s with chip := ((((cm.flushRunning ti).postDone ti 10 0 none).retire ti []).settle) }) ∧
    (cm.tkState ti = 10 → cm.inFlight w = false → exec (.releaseComplete w) s = .next { s with chip := ((cm.releaseDone ti).settle) })

/-- Demotion, spill, recall and the share of energy (R274, R349, R387, R388, R389, R390, R391, R392, R393). -/
def Obligations.TicketMemoryMoves : Prop :=
  ∀ (s : State) (w : Word) (ti : Nat), let c := s.chip; let cm := c.mend ti; c.usherRuns = true → c.liveIdx w = some ti →
    (∀ (ms : Nat), (cm.rehangOf w).isSome = false → cm.demAfter ti = some ms → cm.tkState ti = 5 → cm.tkHot ti ≠ 8 → field (cm.tk ti 5 1) 0 3 = 0 → (if (cm.aux ti).demAt = 0 then cm.tkSince ti else max (cm.tkSince ti) (cm.aux ti).demAt.toNat) + ms * 1000000 ≤ cm.now.toNat → (cm.demotable ti).isEmpty = false → cm.forkSource (cm.tkWord ti) = false → 
      exec (.demotionStart w) s = .next { s with chip := (((let r := (cm.demotable ti).foldl (fun (r : Chip × List (PageRef × Nat × Nat × Nat)) e =>
          match Chip.takeSlot r.1 e.1.t 1 with
          | none => r
          | some (c, a) => (c, r.2 ++ [({ e.1 with page := 0 }, field e.2.2 0 40, a, e.2.1)])) (cm.setFlag ti 0 true, [])
        ((groupItems r.2).foldl (fun c g => Chip.addWork c g.1.t .demote (.demote ti) g.2) r.1).sendWorks).settle)) }) ∧
    (∀ (failed : List Nat) (c1 : Chip) (ok : Bool), cm.tkFlag ti 0 = true → cm.tkState ti = 5 → cm.worksEnd (Work.is (.demote ti)) failed = some (c1, ok) → 
      exec (.demotionEnd w failed) s = .next { s with chip := (((let c2 := (c1.demoteSettle ti).setAux ti fun x => { x with demAt := c1.now }
        let flags := setField (c2.tk ti 5 1) 0 1 0 ||| (if (c2.pagesOf (c2.tkRoot ti)).any fun e => field e.2.2 40 4 == 8 then 8 else 0)
        if (c2.demotable ti).isEmpty then c2.setStateWith ti 6 0 fun l => setField l 40 8 flags else c2.tkPut ti 5 1 flags).settle)) }) ∧
    (∀ (n : Nat) (t : SpillTo) (c1 : Chip), (c.towers.any fun t => c.framesBelow t (c.rdF Reg.clkcfg 32 7)) = true → c1 = c.onUsh (fun u => { u with spilling := true }) → (c1.liveTickets.any fun ti => c1.tkFlag ti 1 && (c1.aux ti).spillAns.isEmpty) = false → c1.spillNext = some (n, t) → 
      exec .usherSpillPolicy s = .next { s with chip := (c1.spillStart n t none) }) ∧
    (∀ (k : Pack) (t : SpillTo) (c1 : Chip), cm.tkFlag ti 1 = true → (cm.tkState ti = 5 ∨ cm.tkState ti = 6) → cm.forkSource w = false → (cm.rehangOf w).isSome = false → (cm.aux ti).pack = some k → (cm.aux ti).spill = some t → (∀ n, t = .peer n → (cm.aux ti).annex.isSome = true) → cm.worksEnd (Work.is (.spill ti)) [] = some (c1, true) → k.sent = true → (c1.worksGone (Work.is (.spill ti))).spillSending ti = false → 
      exec (.spillCommit w) s = .next { s with chip := (((c1.worksGone (Work.is (.spill ti))).spillCommit ti (c1.tkImage ti)).settle) }) ∧
    (∀ (img : List Byte) (k k1 : Pack) (c1 d : Chip), cm.tkFlag ti 2 = true → cm.tkState ti = 7 → (cm.aux ti).recallAt ≠ 0 → cm.recallImage ti = some img → cm.imageOk ti (cm.modelId (cm.tkModel ti)) img = true → cm.worksEnd (Work.is (.recall ti)) [] = some (c1, true) → (c1.aux ti).pack = some k → k1 = { k with done := k.done + (c1.recallPart ti k).length, off := k.off + ((c1.recallPart ti k).map fun x => x.2.2.1).sum } → ¬ k1.done < ((c1.worksGone (Work.is (.recall ti))).aux ti).img.length → ((c1.worksGone (Work.is (.recall ti))).setPack ti k1).recallCommit ti (c1.tkImage ti) img = some d → 
      exec (.recallCommit w) s = .next { s with chip := (d.settle) }) ∧
    (∀ (err : Bool), cm.tkFlag ti 2 = true → cm.tkState ti = 7 → (((cm.recallImage ti).isNone = true ∧ (cm.aux ti).recallAt ≠ 0 ∧ (cm.aux ti).recallAt.toNat + 49999999 ≤ cm.act.toNat) ∨ (cm.aux ti).recallBad = true ∨ (∃ b, cm.recallImage ti = some b ∧ cm.imageOk ti (cm.modelId (cm.tkModel ti)) b = false)) → 
      exec (.recallFail w err) s = .next { s with chip := (((let c1 := cm.recallDrop ti
        let sp := cm.tk ti 0x30 8
        let c2 := if field sp 0 2 = 2 then c1.closeAnnex (field sp 8 8) (BitVec.ofNat 32 (field sp 16 32)) else c1.freeArea (cm.aux ti).area
        let c3 := (c2.tkPut ti 0x30 8 0).setAux ti fun x => { x with area := none }
        (c3.healthNote 1 2 w.toNat).recoverFor ti (cm.recallState ti) (c3.tkImage ti) (cm.recallLost ti)).settle)) }) ∧
    (∀ (batch : Nat) (pl : Nat × List Byte) (t : RowTable), c.curPlan = some pl → (c.ush.tables.find? fun t => t.batch == batch && !t.shared) = some t → ((c.placed pl.2).filter fun x => !c.fenced x.1).length ≤ (Store.get noNet c.ush.stepNet batch).1 → 
      exec (.ticketEnergyShare batch) s = .next { s with chip := ((let n := t.rows.length
        let ws := t.rows.foldl (fun (l : List Word) r => if l.contains r.ticket then l else l ++ [r.ticket]) []
        let c1 := ws.foldl (fun c1 w => Chip.addEnergy c1 w ((Store.get noNet c.ush.stepNet batch).2 * (t.rows.filter fun r => r.ticket == w).length / (n * microJoule))) c
        (c1.onUsh fun u => { u with stepNet := Store.put noNet u.stepNet batch (0, 0) }).putTable { t with shared := true })) }) ∧
    (∀ (lags : List (Fin 384 × Nat)) (pl : Nat × Nat), c.ush.plan = some pl → c.mayForm (c.planSect pl) = true → 
      exec (.rowTableForm lags) s = .next { s with chip := ((c.formTable pl.1 pl.2 (c.planSect pl) c.ush.batch (lags.map fun x => (x.1.val, x.2))).settle) })

/-- An accepted host command takes effect (R299, R366, R374, R382, R383, R384, R385, R391, R395, R415, R420, R421). -/
def Obligations.HostCommandsTakeEffect : Prop :=
  ∀ (s : State) (q : Fin 256) (good : Bool) (m : HostCmd) (d : Chip), let c := s.chip;
    (∀ (y : Chip), c.Accepts q.val good m d → entryOpc m.entry = 1 → (d.epochState = 1 ∨ m.late = false) → d.admitTicket m = some y → 
      exec (.admitCmd q good) s = .next { s with chip := (y.mapLeft m) }) ∧
    (∀ (i : Nat) (e y : Chip), c.Accepts q.val good m d → entryOpc m.entry = 2 → (d.epochState = 1 ∨ m.late = false) → d.liveIdx (entryTicket m.entry) = some i → e = d.mend i → (e.tkState i = 5 ∨ e.tkState i = 6) → e.tkFlag i 0 = false → e.tkFlag i 1 = false → e.tkNtok i + cmdNtok m.entry ≤ 524288 → e.feedTokens i m = some y → 
      exec (.feed q good) s = .next { s with chip := ((y.resume i m).mapLeft m) }) ∧
    (∀ (i : Nat) (e : Chip), c.Accepts q.val good m d → entryOpc m.entry = 3 → (d.epochState = 1 ∨ m.late = false) → d.liveIdx (entryTicket m.entry) = some i → e = d.mend i → (e.tkState i = 5 ∨ e.tkState i = 6) → e.tkFlag i 0 = false → e.tkFlag i 1 = false → 
      exec (.run q good) s = .next { s with chip := ((e.resume i m).mapLeft m) }) ∧
    (∀ (i : Nat) (e : Chip), c.Accepts q.val true m d → good = true → entryOpc m.entry = 4 → (d.epochState = 1 ∨ m.late = false) → d.liveIdx (entryTicket m.entry) = some i → e = d.mend i → e.tkState i = 3 → 
      exec (.park q) s = .next { s with chip := ((e.parkFor i 7 0 (some m.ans)).mapLeft m) }) ∧
    (∀ (i : Nat) (e y : Chip), c.Accepts q.val good m d → entryOpc m.entry = 5 → d.liveIdx (entryTicket m.entry) = some i → e = d.mend i → e.cmdLate m = false → (e.tkState i = 3 ∨ e.tkState i = 4 ∨ e.tkState i = 5 ∨ e.tkState i = 6) → e.busy i = false → e.rehangOf (e.tkWord i) = none → e.inFlight (e.tkWord i) = false → e.fork i m = some y → 
      exec (.fork q good) s = .next { s with chip := (y.mapLeft m) }) ∧
    (∀ (i : Nat) (e f : Chip), c.Accepts q.val true m d → good = true → entryOpc m.entry = 6 → d.liveIdx (entryTicket m.entry) = some i → e = d.mend i → e.tkState i ≠ 8 → e.tkState i ≠ 10 → e.forkSource (e.tkWord i) = false → f = (match e.rehangOf (e.tkWord i) with | some n => e.memWriteNum (e.moveAddr n + 1) 1 1 | none => e) → (e.tkState i ≠ 4 ∨ f.inFlight (f.tkWord i) = false) → 
      exec (.release q) s = .next { s with chip := ((f.retire i [m.ans]).mapLeft m) }) ∧
    (∀ (i a n : Nat) (e : Chip), c.Accepts q.val true m d → good = true → entryOpc m.entry = 7 → d.liveIdx (entryTicket m.entry) = some i → e = d.mend i → e.cmdLate m = false → (e.tkState i = 5 ∨ e.tkState i = 6) → e.busy i = false → e.rehangOf (e.tkWord i) = none → e.spillTarget i m = some (.host a n false) → e.spillFits i n = true → 
      exec (.spill q) s = .next { s with chip := ((e.spillStart i (.host a n false) (some m.ans)).mapLeft m) }) ∧
    (∀ (i : Nat) (e : Chip), c.Accepts q.val true m d → good = true → entryOpc m.entry = 8 → d.liveIdx (entryTicket m.entry) = some i → e = d.mend i → e.cmdLate m = false → e.tkState i = 7 → e.tkFlag i 2 = false → e.rehangOf (e.tkWord i) = none → 
      exec (.recall q) s = .next { s with chip := ((e.recallStart i (some m.ans)).mapLeft m) }) ∧
    (∀ (i : Nat) (e : Chip), c.Accepts q.val true m d → good = true → entryOpc m.entry = 8 → d.liveIdx (entryTicket m.entry) = some i → e = d.mend i → e.cmdLate m = false → e.tkState i ≠ 7 → e.tkState i ≠ 8 → e.tkState i ≠ 10 → e.tkFlag i 2 = false → e.rehangOf (e.tkWord i) = none → 
      exec (.recall q) s = .next { s with chip := (((((e.remotesOf (e.tkRoot i)).foldl (fun c x => Chip.chunkRecall c i x.1 x.2.1) e).postMove i 5 (some m.ans)
        (leBytes 4 (e.npos i) ++ [BitVec.ofNat 8 (e.tkState i)])).mapLeft m)) }) ∧
    (∀ (i : Nat) (e : Chip), c.Accepts q.val good m d → entryOpc m.entry = 9 → d.liveIdx (entryTicket m.entry) = some i → e = d.mend i → 
      exec (.query q good) s = .next { s with chip := ((e.query i m).mapLeft m) }) ∧
    (c.Accepts q.val good m d → entryOpc m.entry = 0x10 → bitOf (entryN m.entry 26 1) 0 = false → entryN m.entry 25 1 = 0 → 
      exec (.modelLoad q good) s = .next { s with chip := ((d.modelLoad m).mapLeft m) }) ∧
    (c.Accepts q.val good m d → entryOpc m.entry = 0x10 → bitOf (entryN m.entry 26 1) 0 = false → entryN m.entry 25 1 ≠ 0 → 
      exec (.adapterLoad q good) s = .next { s with chip := ((d.modelLoad m).mapLeft m) }) ∧
    (c.Accepts q.val true m d → good = true → entryOpc m.entry = 0x10 → bitOf (entryN m.entry 26 1) 0 = true → 
      exec (.modelUnload q) s = .next { s with chip := ((d.modelUnload m).mapLeft m) }) ∧
    (∀ (y : Chip), c.Accepts q.val good m d → entryOpc m.entry = 0x11 → d.planSelect m = some y → 
      exec (.planSelect q good) s = .next { s with chip := (y.mapLeft m) }) ∧
    (c.Accepts q.val true m d → good = true → entryOpc m.entry = 0x12 → 
      exec (.budgetSet q) s = .next { s with chip := ((d.budgetSet m).mapLeft m) }) ∧
    (c.Accepts q.val good m d → entryOpc m.entry = 0x13 → exec (.negotiate q good) s = .next { s with chip := ((d.negotiate m).mapLeft m) }) ∧
    (c.Accepts q.val good m d → entryOpc m.entry = 0x14 → exec (.journalRead q good) s = .next { s with chip := ((d.journalRead m).mapLeft m) })

/-- Reads and writes of the BAR2 aperture (R261, R402, R403, R404, R405). -/
def Obligations.ApertureAccessesComplete : Prop :=
  ∀ s : State, let c := s.chip;
    (∀ (l : BitVec 30) (d : Chip) (v : Line), c.bar2Open = true → c.barBehind (.read (c.barLine l)) = false → c.sliceRead (c.barLine l) 0 .bar2 = (d, 0, v) → 
      exec (.bar2Read l) s = .next { s with chip := ({ d with host := { d.host with bar2Out := some (.data v) } }) }) ∧
    (∀ (l : BitVec 30) (d : Chip) (v : Line), c.bar2Open = true → c.barBehind (.read (c.barLine l)) = false → c.sliceRead (c.barLine l) 0 .bar2 = (d, 1, v) → 
      exec (.bar2Read l) s = .next { s with chip := (((let e := (d.aperr (c.barLine l) 1).barAnswer .poisoned
        { e with host := { e.host with aerPoison := true } }))) }) ∧
    (∀ (l : BitVec 30) (mask : BitVec 64) (data : BitVec 512) (d : Chip), c.bar2Open = true → (c.isSealed = false ∨ c.bit Reg.hifCtl 2 = true) → c.barBehind (.write (c.barLine l) mask data false) = false → c.sliceWrite (c.barLine l) mask data 0 .bar2 = (d, 0) → 
      exec (.bar2Write l mask data false) s = .next { s with chip := (d) }) ∧
    (∀ (l : BitVec 30) (mask : BitVec 64) (data : BitVec 512) (poison : Bool), c.bar2Open = true → c.isSealed = true → c.bit Reg.hifCtl 2 = false → c.barBehind (.write (c.barLine l) mask data poison) = false → 
      exec (.bar2Write l mask data poison) s = .next { s with chip := (c.bump Reg.hifStat 32 32 1) }) ∧
    (∀ (w : BarWait) (d : Chip), c.host.bar2Wait = [w] → w.op.isDoor = false → c.act.toNat < w.since.toNat + 1000000 → w.last.toNat + 1000 ≤ c.act.toNat → Chip.barTry { c with host := { c.host with bar2Wait := [] } } w.op = (d, false) → 
      exec .bar2Retry s = .next { s with chip := (d) }) ∧
    (∀ (w : BarWait) (l : Nat), c.host.bar2Wait = [w] → w.op = .read l → w.since.toNat + 1000000 ≤ c.act.toNat → 
      exec .bar2Retry s = .next { s with chip := ((({ c with host := { c.host with bar2Wait := [] } } : Chip).aperr l 3).barAnswer .abort) })

/-- Rings, doorbells, interrupts, RUN, resync and the PCIe link (R398, R400, R406, R407, R409, R410, R411, R412, R427, R601). -/
def Obligations.RingsAndDoorbellsRun : Prop :=
  ∀ s : State, let c := s.chip;
    (∀ (q : Fin 256) (v : Word), c.isSealed = true → c.stopped = false → c.barBehind (.sqTail q.val v) = false → c.bit (Reg.sqCfg q.val) 5 = true → v.toNat < c.sqSize q.val → 
      exec (.sqTailDoorbell q v) s = .next { s with chip := (c.setSq q.val { c.sq q.val with tail := BitVec.ofNat 16 v.toNat }) }) ∧
    (∀ (q : Fin 256) (v : Word), c.isSealed = true → c.stopped = false → c.barBehind (.cqHead q.val v) = false → c.cqEnabled q.val = true → v.toNat < c.cqSize q.val → 
      exec (.cqHeadDoorbell q v) s = .next { s with chip := (((let full := decide ((c.cqTail q.val + 1) % c.cqSize q.val = v.toNat)
        let c1 := c.setCq q.val { c.cq q.val with head := BitVec.ofNat 16 v.toNat, fullAt := (if full then (c.cq q.val).fullAt else 0), told := ((c.cq q.val).told && full) }
        c1.postKept q.val (c1.cq q.val).kept.length))) }) ∧
    (∀ (q : Fin 256) (cfg : DWord) (r : RegDef) (nv : Nat), c.Serving → regAt (Reg.sqCfg q.val) = some r → nv = regWrite (Reg.sqCfg q.val) r.fields true (c.rd (Reg.sqCfg q.val)) cfg.toNat (2 ^ 64 - 1) → bitOf cfg.toNat 5 = true → regPairOk (Reg.sqCfg q.val) nv = true → bitOf (c.rd (Reg.sqCfg q.val)) 5 = false → bitOf nv 5 = true → 
      exec (.ringEnable false q cfg) s = .next { s with chip := (((let d := ((c.unlatch (Reg.sqCfg q.val)).wr (Reg.sqCfg q.val) nv)
        (d.wr (Reg.sqStat q.val) 0).setSq q.val { SqState.reset with base := BitVec.ofNat 64 (d.rd (Reg.sqBase q.val)), log2n := field nv 0 5 }))) }) ∧
    (∀ (q : Fin 256) (cfg : DWord) (r : RegDef) (nv : Nat), c.Serving → regAt (Reg.cqCfg q.val) = some r → nv = regWrite (Reg.cqCfg q.val) r.fields true (c.rd (Reg.cqCfg q.val)) cfg.toNat (2 ^ 64 - 1) → bitOf cfg.toNat 5 = true → regPairOk (Reg.cqCfg q.val) nv = true → bitOf (c.rd (Reg.cqCfg q.val)) 5 = false → bitOf nv 5 = true → 
      exec (.ringEnable true q cfg) s = .next { s with chip := (((let d := ((c.unlatch (Reg.cqCfg q.val)).wr (Reg.cqCfg q.val) nv)
        ((d.wrF (Reg.cqCfg q.val) 48 16 0).setCq q.val { CqState.reset with base := BitVec.ofNat 64 (d.rd (Reg.cqBase q.val)), log2n := field nv 0 5, kept := (d.cq q.val).kept }).postKept q.val (d.cq q.val).kept.length))) }) ∧
    (∀ (q : Fin 256), c.usherRuns = true → c.bit Reg.hifCtl 1 = true → c.cqEnabled q.val = true → (c.cq q.val).fullAt ≠ 0 → (c.cq q.val).told = false → (c.cq q.val).fullAt.toNat - 1 + 100000000 ≤ c.act.toNat → 
      exec (.cqFullNotice q) s = .next { s with chip := ((c.setCq q.val { c.cq q.val with told := true }).notice 0x0701 1 q.val 0) }) ∧
    (∀ (q : Fin 256) (d : Chip), c.stopped = false → c.cqEnabled q.val = true → c.bit (Reg.cqCfg q.val) 6 = true → (c.cq q.val).idue = 0 → (c.cq q.val).icount ≠ 0 → (c.rdF (Reg.cqCfg q.val) 24 8 ≤ (c.cq q.val).icount ∨ (c.cq q.val).ifirst.toNat - 1 + c.rdF (Reg.cqCfg q.val) 32 16 * 1000 ≤ c.now.toNat) → d = c.setCq q.val { c.cq q.val with icount := 0, ifirst := 0 } → d.msixOpen (c.rdF (Reg.cqCfg q.val) 8 11) = true → 
      exec (.cqInterrupt q) s = .next { s with chip := ({ d with host := { d.host with interrupts := d.host.interrupts ++ [BitVec.ofNat 11 (c.rdF (Reg.cqCfg q.val) 8 11)] } }) }) ∧
    (∀ (q : Fin 256) (d : Chip), c.stopped = false → c.cqEnabled q.val = true → c.bit (Reg.cqCfg q.val) 6 = true → (c.cq q.val).idue ≠ 0 → d = c.setCq q.val { c.cq q.val with idue := (c.cq q.val).idue - 1 } → d.msixOpen (c.rdF (Reg.cqCfg q.val) 8 11) = false → 
      exec (.cqInterrupt q) s = .next { s with chip := ({ d with host := { d.host with pba := Store.put zeroNat d.host.pba (c.rdF (Reg.cqCfg q.val) 8 11) 1 } }) }) ∧
    (∀ (run : Bool), c.Serving → exec (.hifRunWrite run) s = .next { s with chip := ((c.unlatch Reg.hifCtl).hifRun run) }) ∧
    (c.Serving → exec .resync s = .next { s with chip := ((c.unlatch Reg.hifCtl).resync) }) ∧
    (∀ (e : PcieEvent), c.isSealed = true → exec (.pcieResetEvent e) s = .next { s with chip := (c.resync) }) ∧
    (∀ (width : Fin 5) (rate : Fin 6) (w r : Nat), c.usherRuns = true → (width.val ≠ 4 ∨ rate.val ≠ 5) → w = listGet 1 [1, 2, 4, 8, 16] width.val → r = listGet 64 [(Config.halfRate 0).toNat, 5, 8, 16, 32, 64] rate.val → 
      exec (.pcieLinkDegraded width rate) s = .next { s with chip := (({ c with host := { c.host with pcie := (w, r) } } : Chip).notice 0x0704 1 0 (w + r * 256)) })

/-- Blocks, lanes, training frames and flits of a link (R437, R438, R439, R440, R441, R442, R443, R444, R445, R453, R454, R456). -/
def Obligations.LinkLanesAndFlitsRun : Prop :=
  ∀ (s : State) (l : Fin 5), let c := s.chip;
    (∀ (msg : BitVec 20560) (parity : BitVec 1200) (v : Nat) (good : Bool) (ks : List Nat), (c.linkUp l.val = true ∨ c.linkSt l.val = 1) → blockDecode (msg.toNat + parity.toNat * 2 ^ 20560) = (v, good, ks) → 
      exec (.fecBlockReceive l msg parity true) s = .next { s with chip := ((let d := c.onLink l.val fun x => { x with
          corr := (ks.foldl (fun m k => let n := symbolLane (c.rxLanes l.val) k; Store.put zeroNat m n (Store.get zeroNat m n + 1)) x.corr)
          rxFlits := (x.rxFlits ++ (List.range 10).map fun i => (BitVec.ofNat 2048 (field v (80 + 2048 * i) 2048), good)) }
        (if good = false then d.bump (Reg.linkErr l.val) 16 16 1
        else if field v 64 16 = crc16 (lowBits v 64) then d.framing l.val (v % 2 ^ 80) else d).blockTime l.val)) }) ∧
    (∀ (lane : Fin 9), c.linkUp l.val = true → exec (.linkLaneFail l lane) s = .next { s with chip := (c.laneFails l.val lane.val) }) ∧
    (∀ (lane : Nat), (c.link l.val).fail = some lane → lane ≠ 8 → 
      exec (.spareSwap l) s = .next { s with chip := ((c.onLink l.val fun x => { x with fail := none, spare := some lane, quiet := true, swapLeft := 16 }).swapNoted l.val) }) ∧
    (∀ (t : Nat) (drift : Int), c.linkUp l.val = true → (c.link l.val).rxSpare ≠ some 0 → bitOf (c.rdF (Reg.linkStat l.val) 16 9) 0 = true → 
      exec (.alignmentBlockReceive l [⟨some t, laneWord 0, drift⟩]) s = .next { s with chip := (c.onLink l.val fun x => LinkState.alignLane 0 0 drift { x with mism := Store.put zeroNat x.mism 0 0 }) }) ∧
    (∀ (lane : Fin 9) (control status : Word) (crc : BitVec 16) (ready : Bool), c.linkSt l.val = 1 → crc.toNat = crc16 (lowBits (control.toNat + status.toNat * 2 ^ 32) 64) → 
      exec (.trainingFrameReceive l lane control status crc ready) s = .next { s with chip := ((c.onLink l.val fun x =>
          let y := x.control lane.val control.toNat
          let z := { y with
            ready := (Store.put noBool y.ready lane.val (bitOf status.toNat 8))
            status := (Store.put zeroNat y.status lane.val (setField (Store.get zeroNat y.status lane.val) 8 1 (b2n ready)))
            ask := (Store.put zeroNat y.ask lane.val (nextAsk (Store.get zeroNat y.ask lane.val) status.toNat (Config.tapRequest c.act l.val lane.val) ready)) }
          { z with wire := (z.wire ++ [.levels lane.val (trainFrame (Store.get zeroNat z.ask lane.val) (Store.get zeroNat z.status lane.val) (Config.prbsSeed l.val lane.val))]) })) }) ∧
    (∀ (f : BitVec 2048) (fs : List (BitVec 2048 × Bool)), Store.wf noLink c.lk.link = true → c.linkUp l.val = true → (c.link l.val).rxFlits = (f, true) ::fs → field f.toNat 2016 32 = crc32 (leBytes 252 f.toNat) → bitOf f.toNat 73 = false → bitOf f.toNat 72 = false → bitOf f.toNat 29 = false → field f.toNat 0 12 = (c.link l.val).rxNext.toNat → Store.get zeroNat (c.link l.val).held (field f.toNat 12 2) < vcBuffer (field f.toNat 12 2) → 
      exec (.flitReceive l) s = .next { s with chip := ((let d := c.onLink l.val fun x => { x with
          rxFlits := fs
          credit := ((List.range 4).foldl (fun m k => Store.put zeroNat m k (Store.get zeroNat m k + field f.toNat (32 + 8 * k) 8)) x.credit) }
        let e := (d.unshed l.val).onLink l.val fun x => { x with rxNext := x.rxNext + 1, rxNak := false, naked := false, rxAny := true, lastUse := d.act }
        (e.flitPayload l.val (f.toNat % 2 ^ 16) (leBytes (min 240 (field f.toNat 64 8)) (f.toNat / 2 ^ 96))).pump l.val)) }) ∧
    (c.stopped = false → c.linkUp l.val = true → (c.link l.val).nakSeen = true → 
      exec (.nakReplay l) s = .next { s with chip := ((c.replay l.val).pump l.val) }) ∧
    (c.stopped = false → c.linkUp l.val = true → (c.link l.val).replay.isEmpty = false → (c.link l.val).lastAck.toNat + 4000 ≤ c.act.toNat → 
      exec (.replayTimeout l) s = .next { s with chip := ((c.replay l.val).pump l.val) }) ∧
    (∀ (good : BitVec 9) (boot : Word), c.linkUp l.val = true → (c.link l.val).fast = 1 → laneWidth good.toNat ≠ 0 → 
      exec (.fastRetrain l good boot true) s = .next { s with chip := ((let d := ((((c.bump (Reg.linkErr l.val) 56 8 1).wrF (Reg.linkStat l.val) 4 1 0).linkState l.val 3).wrF (Reg.linkStat l.val) 16 9 good.toNat).notice 0x0502 (openSev 0x0502 l.val) l.val (openDetail 0x0502 l.val)
        let e := (d.sendCaps l.val good.toNat (d.txLanes l.val)).onLink l.val fun x => { x with
          again := x.replay.length, swapLeft := 0, fast := 0, stalls := 0, lctl := none, fail := none, mism := [], quiet := false, nakSeen := false, lastAck := (d.sendCaps l.val good.toNat (d.txLanes l.val)).act, shed := false, spare := (if x.fast = 1 then none else x.spare), rxSpare := (if x.fast = 1 then none else x.rxSpare) }
        (((e.wrF (Reg.linkPartner l.val) 0 32 boot.toNat).meet l.val (e.linkNode l.val) boot).pump l.val).settle)) }) ∧
    (c.linkSt l.val = 2 → c.linkFeat l.val 2 = true → (c.link l.val).flitCount = 0 → (c.link l.val).lastUse.toNat + 100000 ≤ c.act.toNat → 
      exec (.lpidleShed l) s = .next { s with chip := ((c.wrF (Reg.linkStat l.val) 0 3 3).onLink l.val fun x => { x with shed := true }) }) ∧
    (∀ (good : Fin 4), c.linkUp l.val = true → exec (.linkDown l good) s = .next { s with chip := ((c.linkDown l.val).settle) })

/-- Transactions at the receiver and their answers at the requester (R277, R446, R447, R448, R449, R450, R451, R452, R459, R511). -/
def Obligations.LinkTransactionsServed : Prop :=
  ∀ (s : State) (l : Fin 5), let c := s.chip;
    (∀ (d e : Chip) (t : Txn) (a : Annex), c.stopped = false → c.takeTxn l.val 0 (· == 1) = some (d, t) → d.bulkOk l.val t = true → t.data.length = t.len → d.annexFor l.val t true = .inl a → t.offset + t.len ≤ a.len → d.annexPut l a t.offset t.data = (e, true) → t.ackreq = true → 
      exec (.put l) s = .next { s with chip := (e.respond l.val (t.answer 8 0)) }) ∧
    (∀ (d : Chip) (t : Txn) (a : Annex) (r : Chip × Nat × List Byte), c.stopped = false → c.takeTxn l.val 2 (· == 2) = some (d, t) → t.data = [] → d.bulkOk l.val t = true → d.annexFor l.val t false = .inl a → t.offset + t.len ≤ a.len → (c.link l.val).putBefore t.place = false → d.annexGet l a t.offset t.len = r → r.2.1 = 0 → 
      exec (.get l) s = .next { s with chip := (r.1.respond l.val { t.answer 3 0 with len := t.len, data := r.2.2 }) }) ∧
    (∀ (d : Chip) (t : Txn), c.usherRuns = true → c.takeTxn l.val 1 (· == 4) = some (d, t) → t.len ≠ 0 → t.len ≤ (if d.linkVer l.val < 0x20 then 65536 else 2 ^ 20) → t.data.length = t.len → d.kindKnown l.val (field t.arg.toNat 0 16) = true → 
      exec (.msg l) s = .next { s with chip := (({ d with lk := { d.lk with msgs := d.lk.msgs ++ [(l.val, field t.arg.toNat 0 16, t.data)] } } : Chip).respond l.val (t.answer 8 0)) }) ∧
    (∀ (d : Chip) (t : Txn) (a : Annex) (x : Nat) (r : Chip × Nat × Line), c.stopped = false → c.takeTxn l.val 2 (· == 5) = some (d, t) → 0x20 ≤ d.linkVer l.val → (t.len = 4 ∨ (t.len = 8 ∧ d.linkFeat l.val 0 = true)) → t.offset % t.len = 0 → d.annexFor l.val t true = .inl a → t.offset + t.len ≤ a.len → annexAddr a.pieces t.offset = some x → r = d.sliceRead (x / 64) 1 (.link l) → r.2.1 = 0 → 
      exec (.atomic l) s = .next { s with chip := ((let old := field r.2.2.toNat (8 * (x % 64)) (8 * t.len)
        let new := (old + t.arg.toNat) % 2 ^ (8 * t.len)
        (r.1.sliceWrite (x / 64) (BitVec.ofNat 64 ((2 ^ t.len - 1) * 2 ^ (x % 64))) (BitVec.ofNat 512 (new * 2 ^ (8 * (x % 64)))) 1 (.link l)).1.respond l.val { t.answer 6 0 with arg := BitVec.ofNat 64 old })) }) ∧
    (∀ (id : Byte), c.usherRuns = true → c.linkUp l.val = true → Store.get noBool (c.link l.val).sent id.toNat = false → 
      exec (.barrier l (some id)) s = .next { s with chip := ((let d := c.request l.val { c.txn 7 true with arg := BitVec.ofNat 64 (id.toNat + b2n (Store.get noBool (c.link l.val).gens id.toNat) * 256) } .plain
        (d.onLink l.val fun x => { x with sent := Store.put noBool x.sent id.toNat true }).barrierDone l.val id.toNat)) }) ∧
    (∀ (d : Chip) (t : Txn) (id : Nat), c.usherRuns = true → c.takeTxn l.val 3 (· == 7) = some (d, t) → id = field t.arg.toNat 0 8 → Store.get noBool (d.link l.val).got id = false → bitOf t.arg.toNat 8 = Store.get noBool (d.link l.val).gens id → 
      exec (.barrier l none) s = .next { s with chip := ((d.onLink l.val fun x => { x with got := Store.put noBool x.got id true }).barrierDone l.val id) }) ∧
    (∀ (d e : Chip) (t : Txn) (r : LinkReq) (i o : Nat), c.usherRuns = true → c.takeTxn l.val 0 (· == 3) = some (d, t) → d.matchReq l.val t = (e, some r) → t.status = 0 → r.why = .recall i o → 
      exec (.getresp l) s = .next { s with chip := (((let f := e.endReq l.val r
        ({ f with lk := { f.lk with pieces := f.lk.pieces ++ [(i, o, t.data)] } } : Chip).pump l.val).settle)) }) ∧
    (∀ (d e : Chip) (t : Txn) (r : LinkReq), c.stopped = false → c.takeTxn l.val 2 (· == 6) = some (d, t) → d.matchReq l.val t = (e, some r) → 
      exec (.atomresp l) s = .next { s with chip := ((e.endReq l.val r).pump l.val) }) ∧
    (∀ (d e : Chip) (t : Txn) (r : LinkReq), c.usherRuns = true → c.takeTxn l.val 2 (· == 8) = some (d, t) → d.matchReq l.val t = (e, some r) → t.status = 0 → (r.why = .plain ∨ ∃ i, r.why = .spill i) → 
      exec (.done l) s = .next { s with chip := (((e.endReq l.val r).pump l.val).settle) }) ∧
    (∀ (d e : Chip) (t : Txn) (r : LinkReq), c.usherRuns = true → c.takeTxn l.val 2 (· == 8) = some (d, t) → d.matchReq l.val t = (e, some r) → t.status = 3 → 
      exec (.done l) s = .next { s with chip := ((e.onLink l.val fun x => { x with out := x.out.map fun q => if q.txn.tag = r.txn.tag then { q with again := some e.act } else q }).pump l.val) }) ∧
    (∀ (tag : Half) (r : LinkReq) (t0 : DWord), c.usherRuns = true → ((c.link l.val).out.find? fun r => r.txn.tag == tag) = some r → r.again = some t0 → c.linkUp l.val = true → t0.toNat + 20000 ≤ c.act.toNat → 
      exec (.msgBusyResend l tag) s = .next { s with chip := (((c.onLink l.val fun x =>
            LinkState.queueTxn { x with out := x.out.map fun (q : LinkReq) => if q.txn.tag = tag then { q with again := none, since := c.act } else q } r.txn).pump l.val)) }) ∧
    (∀ (tag : Half) (r : LinkReq), c.usherRuns = true → ((c.link l.val).out.find? fun r => r.txn.tag == tag) = some r → r.again = none → r.since.toNat + 10000000 ≤ c.act.toNat → 
      exec (.linkRequestTimeout l tag) s = .next { s with chip := ((((c.endReq l.val r).linkDownEnd l.val r.txn r.why).pump l.val).settle) })

/-- Links are trained, taken down and retrained, and annexes are granted (R277, R434, R439, R453, R454, R455, R456, R457, R458, R459). -/
def Obligations.LinksTrainAndAnnexesOpen : Prop :=
  ∀ (s : State) (l : Fin 5), let c := s.chip;
    (c.Serving → c.part.hasLink l.val = true → c.linkSt l.val ≠ 0 → 
      exec (.linkCtlDown l) s = .next { s with chip := (((c.unlatch (Reg.linkCtl l.val)).linkDown l.val).settle) }) ∧
    (c.Serving → c.part.hasLink l.val = true → c.bit (Reg.linkCtl l.val) 0 = true → 
      exec (.linkCtlRetrain l) s = .next { s with chip := ((c.unlatch (Reg.linkCtl l.val)).trainStart l.val) }) ∧
    (∀ (good112 good224 : BitVec 9) (ver own w112 : Nat), c.part.hasLink l.val = true → c.linkSt l.val = 1 → c.bit (Reg.linkCtl l.val) 0 = true → 16 ≤ (c.link l.val).capCount → ver = min (c.ownOffer l.val) (versionOffered (imN (c.link l.val).caps 4 1) (imN (c.link l.val).caps 5 1)) → ver = 0x10 → own = readyLanes good112.toNat (fun i => bitOf (Store.get zeroNat (c.link l.val).status i) 8) → w112 = min (laneWidth own) (laneWidth (readyLanes (imN (c.link l.val).caps 10 2) fun i => Store.get noBool (c.link l.val).ready i)) → w112 ≠ 0 → imN (c.link l.val).caps 8 1 ≠ c.rdF Reg.node 0 8 → ((List.range 5).any fun m => m != l.val && c.linkUp m) = false → 
      exec (.linkTraining l good112 good224) s = .next { s with chip := (c.linkComesUp l.val (c.link l.val).caps own w112 0 0x10) }) ∧
    (∀ (good112 good224 : BitVec 9), c.part.hasLink l.val = true → c.linkSt l.val = 1 → c.bit (Reg.linkCtl l.val) 0 = true → (c.link l.val).capCount < 16 → 
      exec (.linkTraining l good112 good224) s = .next { s with chip := ((c.linkState l.val 4).onLink l.val fun x => { x with downAt := c.act }) }) ∧
    (c.usherRuns = true → c.part.hasLink l.val = true → c.bit (Reg.linkCtl l.val) 0 = true → c.linkSt l.val = 4 → (c.link l.val).downAt.toNat + 1000000000 ≤ c.act.toNat → 
      exec (.linkRetrainTimer l) s = .next { s with chip := (c.trainStart l.val) }) ∧
    (∀ (f : BitVec 2048) (fs : List (BitVec 2048 × Bool)), (c.link l.val).rxFlits = (f, true) ::fs → bitOf f.toNat 73 = true → field f.toNat 2016 32 = crc32 (leBytes 252 f.toNat) → imN (leBytes 32 (f.toNat / 2 ^ 96)) 0 4 = 0x4D4C4F48 → 
      exec (.capabilityFlitReceive l) s = .next { s with chip := (c.onLink l.val fun x => { x with rxFlits := fs, caps := leBytes 32 (f.toNat / 2 ^ 96), capCount := x.capCount + 1 }) }) ∧
    (∀ (d : Chip) (p : List Byte), c.usherRuns = true → c.takeMsg l.val 1 = some (d, p) → 
      exec (.annexOpen (.receive l)) s = .next { s with chip := ((d.annexGrant l.val p).1.sendMsg l.val 2 true .plain (annexReply (d.annexGrant l.val p).2.1 (d.annexGrant l.val p).2.2 (imN p 16 8))) }) ∧
    (∀ (w : Word) (t : Fin 4) (k : Fin 64) (node : Byte), c.usherRuns = true → 
      exec (.annexOpen (.send w t k node)) s = .next { s with chip := (c.chunkSend w t.val k.val node.toNat) }) ∧
    (∀ (d : Chip) (p : List Byte), c.usherRuns = true → c.takeMsg l.val 2 = some (d, p) → 
      exec (.annexReply l) s = .next { s with chip := ((d.annexAnswer l.val p).settle) }) ∧
    (∀ (d : Chip) (p : List Byte) (a : Annex), c.usherRuns = true → c.takeMsg l.val 3 = some (d, p) → d.annexOf l.val (BitVec.ofNat 32 (imN p 0 4)) = some a → 
      exec (.annexClose l) s = .next { s with chip := ((d.freeAnnex a).settle) }) ∧
    (∀ (d : Chip) (p : List Byte) (m : Nat), c.usherRuns = true → c.takeMsg l.val 4 = some (d, p) → ((List.range 8).find? fun m => d.loaded m && d.modelId m == imN p 0 4) = some m → 
      exec (.weightAsk l) s = .next { s with chip := ((let ps := (imOf (d.model m).image 0x11).filterMap fun q => ((d.model m).weights.find? fun w => w.1 == q.sid).map fun w => (w.2.2, q.len)
        let a : Annex := { id := d.lk.nextAnnex, node := (d.partner l.val).1, boot := (d.partner l.val).2, purpose := 3, len := ps.foldl (fun n x => n + x.2) 0, pieces := ps }
        ({ d with lk := { d.lk with annexes := d.lk.annexes ++ [a], nextAnnex := if d.lk.nextAnnex + 1 = 0 then 1 else d.lk.nextAnnex + 1 } } : Chip).sendMsg l.val 2 true .plain (annexReply a.id.toNat 0 0))) }) ∧
    (∀ (d : Chip) (p : List Byte), c.usherRuns = true → c.takeMsg l.val 4 = some (d, p) → ((List.range 8).find? fun m => d.loaded m && d.modelId m == imN p 0 4) = none → 
      exec (.weightAsk l) s = .next { s with chip := (d.sendMsg l.val 2 true .plain (annexReply 0 2 0)) })

/-- Throttling, voltage steps, cells, staging, current reports and cracks (R463, R465, R466, R467, R468, R469, R470, R471, R472, R473, R474). -/
def Obligations.PowerDeliveryRuns : Prop :=
  ∀ (s : State) (g : GalId), let c := s.chip; let k := galKey g;
    (∀ (current : Nat), c.hasTower g.tower.val = true → c.rdF Reg.ilim 0 16 * 100 < current * c.part.towers → 
      exec (.ilimThrottle g.tower current) s = .next { s with chip := ((c.setVsets ((c.poweredGals g.tower.val).map fun k => (k, min (c.rdF (domReg k) 0 4) (c.rdF (domReg k) 8 4) - 1))).onPower fun x => { x with ilimOn := Store.put noMark x.ilimOn g.tower.val true }) }) ∧
    (∀ (current : Nat), c.hasTower g.tower.val = true → Store.get noMark c.sys.power.ilimOn g.tower.val = true → current * c.part.towers * 100 < c.rdF Reg.ilim 0 16 * 100 * 95 → 
      exec (.ilimThrottle g.tower current) s = .next { s with chip := ((c.onPower fun x => { x with ilimOn := Store.put noMark x.ilimOn g.tower.val false }).notice 0x0306 (openSev 0x0306 g.tower.val) g.tower.val (openDetail 0x0306 g.tower.val)) }) ∧
    (∀ (v : Fin 16), c.usherRuns = true → c.hasTower g.tower.val = true → v.val ≤ c.rdF (domReg k) 0 4 → 
      exec (.vsetChange g v) s = .next { s with chip := (c.setVsets [(k, v.val)]) }) ∧
    (∀ (v : Fin 16), c.usherRuns = true → c.hasTower g.tower.val = true → c.mayRaise k = true → (c.setVsets [(k, v.val)]).withinIlim = true → 
      exec (.vsetChange g v) s = .next { s with chip := (c.setVsets [(k, v.val)]) }) ∧
    (∀ (cell : Fin 4), c.hasTower g.tower.val = true → c.domSt k ≠ 0 → c.cellsFailed k = 0 → 
      exec (.regCellFail g cell) s = .next { s with chip := (((c.wrF (domReg k) (16 + cell.val) 1 1).domsRun [k]).notice 0x0301 1 (g.tower.val * 128 + g.pos.val) (openDetail 0x0301 k)) }) ∧
    (∀ (cell : Fin 4), c.hasTower g.tower.val = true → c.domSt k ≠ 0 → c.cellsFailed k = 1 → c.bit (domReg k) (16 + cell.val) = false → 
      exec (.secondCellFail g cell) s = .next { s with chip := ((c.wrF (domReg k) (16 + cell.val) 1 1).domLost k 2) }) ∧
    (∀ (n : Nat), c.hasTower g.tower.val = true → n = Store.get zeroNat c.sys.power.corrFail g.tower.val + 1 → n ≤ 48 → c.rdF (corrReg g.tower.val) 12 3 ≠ 0 → 
      exec (.corridorCellFail g.tower) s = .next { s with chip := ((let cap := (corridorCap (48 - n)).getD 6
        let d := c.onPower fun x => { x with corrFail := Store.put zeroNat x.corrFail g.tower.val n }
        (((d.wrF (corrReg g.tower.val) 16 4 (min n 15)).wrF (corrReg g.tower.val) 8 4 cap).wrF (corrReg g.tower.val) 28 3 (if cap = 15 then 0 else 1)).domsRun ((List.range 104).map (g.tower.val * 104 + ·)))) }) ∧
    (∀ (trips : Byte), c.mayStage k = true → c.domSt k = 3 → 
      exec (.domainSwitchOn g trips true) s = .next { s with chip := ((c.bump (domReg k) 20 8 trips.toNat).galOn k) }) ∧
    (∀ (trips : Byte) (finished : Bool), c.mayStage k = true → c.domSt k = 0 → 
      exec (.domainSwitchOn g trips finished) s = .next { s with chip := ((let d := ((c.setDomSt k 3).onPower fun x => { x with staging := (Store.put zeroDWord x.staging k (c.now + 1)), stageTold := (Store.put noMark x.stageTold k false) }).bump (domReg k) 20 8 trips.toNat
        if finished then d.galOn k else d)) }) ∧
    (c.domSt k = 3 → (Store.get zeroDWord c.sys.power.staging k).toNat ≠ 0 → (Store.get zeroDWord c.sys.power.staging k).toNat - 1 + 1000000 ≤ c.now.toNat → Store.get noMark c.sys.power.stageTold k = false → 
      exec (.stagingTimeout g) s = .next { s with chip := ((c.onPower fun y => { y with stageTold := Store.put noMark y.stageTold k true }).notice 0x0305 0 (g.tower.val * 128 + g.pos.val) (openDetail 0x0305 k)) }) ∧
    (∀ (recs : List (Half × Half × Half)), c.hasTower g.tower.val = true → recs.length = 130 → 
      exec (.currentSample g.tower recs) s = .next { s with chip := ((let n := c.rdF (Reg.iridx g.tower.val) 0 32
        let bytes := recs.zipIdx.foldr (fun r l =>
          leBytes 2 r.1.1.toNat ++ leBytes 2 r.1.2.1.toNat ++ leBytes 2 r.1.2.2.toNat
            ++ leBytes 2 (c.rdF (Reg.dom g.tower.val r.2) 4 4 + c.rdF (Reg.dom g.tower.val r.2) 12 3 * 16) ++ l) []
        let d := recs.zipIdx.foldl (fun c r => Chip.wrF c (Reg.dom g.tower.val r.2) 32 16 r.1.1.toNat) c
        let e := if d.rdF (Reg.irbase g.tower.val) 0 40 = 0 then d else d.memWrite (d.rdF (Reg.irbase g.tower.val) 0 40 + 1040 * (n % 1024)) bytes
        (e.wrF (Reg.iridx g.tower.val) 0 32 (n + 1)).wrF (Reg.iridx g.tower.val) 32 32 (field e.now.toNat 10 32))) }) ∧
    (∀ (drop share : Word) (model : Nat), c.hasTower g.tower.val = true → 1000 ≤ share.toNat → model = share.toNat * 2 * c.rdF (Reg.bank g.tower.val g.pos.val) 16 16 → model * 5 < drop.toNat * 4000 → drop.toNat * 1000 ≤ share.toNat * 2 * c.rdF (Reg.bank g.tower.val g.pos.val) 0 16 * 3 → (Store.get noCrack c.sys.power.crack k).1 = 9 → c.bankClass k = 0 → 
      exec (.crackAlarm g drop share) s = .next { s with chip := ((let d := c.onPower fun y => { y with crack := Store.put noCrack y.crack k (10, 0) }
        (((d.wrF (Reg.bank g.tower.val g.pos.val) 32 2 1).domsRun [k]).notice 0x0303 1 (g.tower.val * 128 + g.pos.val) (openDetail 0x0303 k)).measure k)) }) ∧
    (∀ (ohms ratio : Half) (seg : Fin 18), (Store.get zeroDWord c.sys.power.measuring k).toNat ≠ 0 → (Store.get zeroDWord c.sys.power.measuring k).toNat - 1 + 100000000 ≤ c.now.toNat → bankClassOf (c.rdF (Reg.bank g.tower.val g.pos.val) 0 16) ohms.toNat ratio.toNat ≤ c.bankClass k → c.bankClass k ≠ 3 → 
      exec (.recoveryMeasurementDone g ohms ratio seg) s = .next { s with chip := ((let d := c.onPower fun y => { y with measuring := Store.put zeroDWord y.measuring k 0 }
        let o := Reg.bank g.tower.val g.pos.val
        (((d.wrF o 16 16 ohms.toNat).wrF o 32 2 (c.bankClass k)).wrF o 34 5 seg.val).domsRun [k])) })

/-- Sensors, comparators, estimates, the thermal stop and the energy budget (R475, R476, R477, R478, R479, R480, R481, R482, R484, R485). -/
def Obligations.ThermalAndBellowsRun : Prop :=
  ∀ (s : State) (t : Fin 4), let c := s.chip;
    (∀ (readings : List (Fin 19 × Fin 104 × Fin 4096)) (ok : List (Fin 19 × Fin 104 × Fin 4096)), c.hasTower t.val = true → ok = readings.filter (fun r => c.hasDie r.1.val && decide (864 ≤ r.2.2.val ∧ r.2.2.val ≤ tcode 110)) → ok ≠ [] → 
      exec (.sensorRead t readings) s = .next { s with chip := ((let d := ok.foldl (fun c r => Chip.wrF c (Reg.sensor t.val r.1.val r.2.1.val) 0 12 r.2.2.val) c
        let e := ok.foldl (fun c r => Chip.thermAct c t.val r.1.val r.2.1.val) d
        let f := if e.stopped then e else e.thermLower t.val
        match ok.find? fun r => decide (tcode 105 ≤ r.2.2.val) && !f.senSusp t.val r.1.val r.2.1.val with
        | some r => f.raiseAlarm t.val r.1.val r.2.1.val false r.2.2.val
        | none => f)) }) ∧
    (∀ (die : Fin 19) (p : Fin 104), c.hasTower t.val = true → c.hasDie die.val = true → c.senSusp t.val die.val p.val = false → 
      exec (.comparatorTrip t die p) s = .next { s with chip := (c.raiseAlarm t.val die.val p.val false (tcode 105)) }) ∧
    (∀ (p : Fin 104) (powers : List Nat), c.hasTower t.val = true → 
      exec (.layerEstimate t p powers) s = .next { s with chip := ((let layers := (List.range c.part.layers).map (· + 1)
        let d := layers.foldl (fun d i =>
          match Chip.estimate c t.val p.val i powers with
          | some e => (Chip.wrF d (Reg.sensor t.val i p.val) 12 12 e).checkSensor t.val i p.val
          | none => d) c
        let e := layers.foldl (fun d i => Chip.thermAct d t.val i p.val) d
        match layers.find? fun i => decide (tcode 105 ≤ e.senEst t.val i p.val) with
        | some i => e.raiseAlarm t.val i p.val true (e.senEst t.val i p.val)
        | none => e)) }) ∧
    (∀ (uj : Word), c.rdF Reg.bellowsCtl 0 2 = 0 → exec (.grantWrite true uj) s = .next { s with chip := (((c.unlatch Reg.grant).wrF Reg.grant 0 32 uj.toNat).onUsh fun u => { u with grantHold := true }) }) ∧
    (∀ (uj : Word), c.Serving → exec (.grantWrite false uj) s = .next { s with chip := ((c.grantWrite 1 uj.toNat (2 ^ 32 - 1))) }) ∧
    (∀ (uj : Nat), c.isSealed = true → exec (.ledgerMeter uj) s = .next { s with chip := ((c.ledgerAdd (-(uj : Int))).onUsh fun u => { u with metered := u.metered + uj, msDone := u.msDone + 1 }) }) ∧
    (∀ (measured : List (GalId × Nat)) (values : List (Fin 91 × DWord)), c.isSealed = true → 
      exec (.bellowsWindowEnd measured values) s = .next { s with chip := ((let c1 := measured.foldl (fun c e => Chip.trueUp c (galKey e.1) e.2) c
        let c2 := c1.gals.foldl (fun c e => Chip.onGal c e.1 fun g => { g with winCharge := 0 }) c1
        let neg := decide (c2.ledger < 0)
        let run := if neg then satAdd 8 (c2.rdF Reg.bellowsStat 20 8) 1 else 0
        let c3 := (c2.bump Reg.bellowsStat 0 16 (b2n neg)).wrF Reg.bellowsStat 20 8 run
        let c4 := (c3.wrF Reg.bellowsStat 32 32 (c3.rdF Reg.bellowsStat 32 32 + 1)).windowVsets
        let c5 := if run = 10 ∧ c4.ush.grant ≠ 0xFFFFFFFF then (c4.notice 0x0302 1 (openUnit 0x0302 0) (openDetail 0x0302 0)).alert 3 else c4
        ((c5.monitors (values.map fun e => (e.1.val, e.2.toNat))).onUsh fun u => { u with rate := u.metered, firstWin := false }).windowStart)) }) ∧
    (c.sys.power.alarm = true → c.thermStopped = false → exec .thermalStop s = .next { s with chip := ((((List.range 4).filter fun t => c.rdF (corrReg t) 12 3 != 0).foldl (fun c t => (Chip.wrF c (corrReg t) 12 3 1).wrF (corrReg t) 4 4 6) (c.warmEnter.wrF Reg.thermStat 0 1 1)).alert 1) })

/-- Error records, retirements and the diagnostic mode (R487, R498, R499, R501, R503, R507, R508). -/
def Obligations.ErrorsAndRetirementsRun : Prop :=
  ∀ (s : State) (t : Fin 4), let c := s.chip;
    (∀ (n from_ : Nat), c.usherRuns = true → c.hasTower t.val = true → n = c.rdF (Reg.elidx t.val) 0 32 → from_ = max (Store.get zeroNat c.ush.scan t.val) (n - 65536) → 
      exec (.errorLogScan t) s = .next { s with chip := ((((List.range (n - from_)).map (from_ + ·)).foldl (fun c i => Chip.scanRecord c t.val i) c).onUsh fun u => { u with scan := Store.put zeroNat u.scan t.val n }) }) ∧
    (c.usherRuns = true → c.rdF Reg.policy 16 8 ≠ 0 → c.sys.ras.decayAt.toNat + c.rdF Reg.policy 16 8 * 3600000000000 ≤ c.act.toNat → 
      exec .ceDecay s = .next { s with chip := ((let d := c.onUsh fun u => { u with ce := (u.ce.map fun e => (e.1, e.2 / 2)).filter fun e => e.2 != 0 }
        d.onRas fun r => { r with decayAt := d.act })) }) ∧
    (∀ (v : Word) (x : FrameId), c.inReset = false → c.thermStopped = false → c.stopped = false → c.hasTower t.val = true → c.rdF (Reg.retstat t.val) 0 2 ≠ 1 → x = { tower := t.val, pos := field v.toNat 0 7, layer := field v.toNat 7 4, bank := field v.toNat 11 4, f := field v.toNat 15 2, whole := bitOf v.toNat 17 } → x.pos < 104 → x.layer < c.part.layers → (x.whole = false ∨ x.f = 0) → (c.reservePos t.val).contains x.pos = false → 
      exec (.retreq t v) s = .next { s with chip := ((c.onRas fun r => { r with due := r.due ++ [⟨x, true⟩] }).wrF (Reg.retstat t.val) 0 4 1) }) ∧
    (∀ (d : RetDue) (y : FrameId) (ys : List FrameId) (e : Chip) (n i : Nat), c.usherRuns = true → (c.sys.ras.due.find? fun d => d.frame.tower == t.val) = some d → (c.onRas fun r => { r with due := r.due.erase d }).retCount d.frame ≤ 128 → (c.onRas fun r => { r with due := r.due.erase d }).reserveList t.val d.frame.whole = y ::ys → (c.onRas fun r => { r with due := r.due.erase d }).pick (ys.length + 1) = (n, e) → (e.sys.ras.entries.find? fun q => q.src == d.frame) = none → ((List.range 8192).find? fun i => !e.sys.ras.entries.any fun q => q.src.tower == t.val && q.index == i) = some i → 
      exec (.retirementStart t) s = .next { s with chip := ((let r : RetEntry := { index := i, src := d.frame, dst := (listGet y (y ::ys) n), active := false, asked := d.asked }
        ((e.onRas fun x => { x with entries := (x.entries.filter fun q => q.src != d.frame) ++ [r], spent := x.spent ++ [] }).retWrite t.val i (retWord r)).retLog d.frame)) }) ∧
    (∀ (index : Fin 8192) (e : RetEntry), c.usherRuns = true → (c.sys.ras.entries.find? fun e => e.src.tower == t.val && e.index == index.val && !e.active) = some e → e.src.whole = false → e.asked = false → 
      exec (.retirementMoveDone t index) s = .next { s with chip := ((let c2 := c.retMove e
        let c3 := (c2.retWrite t.val e.index (retWord { e with active := true })).retLog e.src
        let c4 := c3.wrF (Reg.framecnt t.val) 16 16 (c3.rdF (Reg.framecnt t.val) 16 16 + 0 - 1)
        let c5 := c4.wrF (Reg.framecnt t.val) 32 16 (c4.rdF (Reg.framecnt t.val) 32 16 + 1 - 0)
        let c6 := e.src.frames.foldl (fun c f =>
          (Chip.onUsh c fun u => { u with ce := Store.put zeroNat u.ce ({ e.src with f := f, whole := false } : FrameId).key 0 }).onRas fun r => { r with ue := Store.put zeroNat r.ue ({ e.src with f := f, whole := false } : FrameId).key 0 }) c5
        c6.notice 0x0201 0 (t.val * 128 + e.src.pos) (openDetail 0x0201 e.src.key))) }) ∧
    (∀ (l : Nat) (f : Chip) (syn : List Nat), c.stopped = false → c.diagStatus = 0 → l = c.rdF Reg.diagaddr 6 34 → c.findWay l = none → f = c.flushQueued (fun q => q == l) → syn = f.lineSyndromes l [] → 
      exec .diagReadraw s = .next { s with chip := ((let d := (List.range 8).foldl (fun x i => Chip.wr x (Reg.diagdata i) (field (f.dramData l).toNat (64 * i) 64)) f
        let e := (d.wr Reg.diagchk (leVal ((f.storedCheck l).map fun n => BitVec.ofNat 8 n))).wr Reg.diagsyn (leVal (syn.map fun n => BitVec.ofNat 8 n))
        e.diagResult 0 (diagVerdict syn).1 (Store.get noMark f.mem.raw l) (diagVerdict syn).2)) }) ∧
    (∀ (l : Nat) (f : Chip), c.stopped = false → c.diagStatus = 0 → l = c.rdF Reg.diagaddr 6 34 → c.findWay l = none → f = c.flushQueued (fun q => q == l) → Store.get noMark f.mem.raw l = true → 
      exec .diagWdata s = .next { s with chip := ((f.rawWrite l (BitVec.ofNat 512 ((List.range 8).foldl (fun a i => a + f.rd (Reg.diagdata i) * 2 ^ (64 * i)) 0)) (f.storedCheck l)).diagResult 0 0 true []) }) ∧
    (∀ (l : Nat) (f : Chip), c.stopped = false → c.diagStatus = 0 → l = c.rdF Reg.diagaddr 6 34 → c.findWay l = none → f = c.flushQueued (fun q => q == l) → Store.get noMark f.mem.raw l = true → 
      exec .diagWcheck s = .next { s with chip := ((f.rawWrite l (f.dramData l) ((List.range 8).map fun i => field (f.rd Reg.diagchk) (8 * i) 8)).diagResult 0 0 true []) }) ∧
    (∀ (l : Nat) (f : Chip), c.stopped = false → c.diagStatus = 0 → l = c.rdF Reg.diagaddr 6 34 → c.findWay l = none → f = c.flushQueued (fun q => q == l) → f.rawCount l < 1024 → 
      exec .diagWraw s = .next { s with chip := ((f.rawWrite l (BitVec.ofNat 512 ((List.range 8).foldl (fun a i => a + f.rd (Reg.diagdata i) * 2 ^ (64 * i)) 0)) ((List.range 8).map fun i => field (f.rd Reg.diagchk) (8 * i) 8)).diagResult 0 0 true []) }) ∧
    (∀ (v : Fin 104) (set : Fin 10240) (way : Fin 16) (w : CacheWay) (k : Nat), c.stopped = false → k = (vaultKey t.val v.val * 10240 + set.val) * 16 + way.val → c.way k = some w → w.pin = none → w.valid = true → w.dirty = true → 
      exec (.sliceStorageUe t v set way .tag) s = .next { s with chip := (((c.errLog t.val (vaultKey t.val v.val) 0 (c.vaultPos (vaultKey t.val v.val)) (0, 0, 0) 7 4 [] none).setWay k none).addStale (vaultKey t.val v.val) (.set set.val)) }) ∧
    (∀ (v : Fin 104) (set : Fin 10240) (way : Fin 16) (w : CacheWay) (k : Nat), c.stopped = false → k = (vaultKey t.val v.val * 10240 + set.val) * 16 + way.val → c.way k = some w → w.valid = true → w.dirty = true → 
      exec (.sliceStorageUe t v set way .data) s = .next { s with chip := ((c.errLog t.val (vaultKey t.val v.val) w.line (c.vaultPos (vaultKey t.val v.val)) (c.linePlace w.line) 7 3 [] none).setWay k (some { w with poison := true })) })

/-- Gallery faults, uncorrectable weights and a tower that must be fenced (R458, R510, R511, R512, R513). -/
def Obligations.FaultsAreAnswered : Prop :=
  ∀ s : State, let c := s.chip;
    (∀ (m : UsherMsg) (k : Nat), c.usherRuns = true → (c.reports.find? fun m => (faultAct m).isSome) = some m → faultAct m = some (.fence k) → 
      exec .galleryFault s = .next { s with chip := (Chip.usherFence { c with reports := c.reports.erase m } k 5) }) ∧
    (∀ (m : UsherMsg) (p v : Nat), c.usherRuns = true → (c.reports.find? fun m => (faultAct m).isSome) = some m → faultAct m = some (.cluster p) → c.vaultAt (p / 104) (p % 104) = some v → ((c.cluster (vaultKey (p / 104) v)).chanters.any fun e => e.2.job.isSome) = false → 
      exec .galleryFault s = .next { s with chip := (Chip.clusterReset { c with reports := c.reports.erase m } (vaultKey (p / 104) v)) }) ∧
    (∀ (m : UsherMsg) (k : Nat), c.usherRuns = true → (c.reports.find? fun m => (faultAct m).isSome) = some m → (faultAct m = some (.again k) ∨ faultAct m = some (.stage k)) → c.epochState = 1 → c.planGals.contains k = true → c.fenced k = false → (c.planGals.any fun g => !(c.gal g).hold) = true → 
      exec .galleryFault s = .next { s with chip := (c.planGals.foldl Chip.holdGal c) }) ∧
    (∀ (m : Fin 8) (sid off : Nat) (l : Fin 5) (o : Nat), c.usherRuns = true → o = off / 65536 * 65536 → c.loaded m.val = true → min 65536 (c.sectLeft m.val sid o) ≠ 0 → ((c.model m.val).weights.any fun w => w.1 == sid && c.memPoisoned (w.2.2 + o) (min 65536 (c.sectLeft m.val sid o))) = true → (c.model m.val).reload.contains (sid, o) = false → c.linkUp l.val = true → 
      exec (.weightUe m sid off (some l)) s = .next { s with chip := ((let d := c.setModel m.val { c.model m.val with reload := (c.model m.val).reload ++ [(sid, o)] }
        ({ d with lk := { d.lk with asked := d.lk.asked ++ [((c.partner l.val).1, m.val)] } } : Chip).sendMsg l.val 4 true (.ask (c.partner l.val).1 m.val) (leBytes 4 (d.modelId m.val)))) }) ∧
    (∀ (m : Fin 8) (sid off : Nat) (o : Nat), c.usherRuns = true → o = off / 65536 * 65536 → c.loaded m.val = true → min 65536 (c.sectLeft m.val sid o) ≠ 0 → ((c.model m.val).weights.any fun w => w.1 == sid && c.memPoisoned (w.2.2 + o) (min 65536 (c.sectLeft m.val sid o))) = true → (c.model m.val).reload.contains (sid, o) = false → 
      exec (.weightUe m sid off none) s = .next { s with chip := ((c.setModel m.val { c.model m.val with reload := (c.model m.val).reload ++ [(sid, o)] }).weightNotice m.val sid o) }) ∧
    (∀ (t : Fin 4) (answers : Bool) (sl : Selection) (d : Nat) (e : Chip), c.usherRuns = true → c.hasTower t.val = true → c.ush.tdown.contains t.val = false → c.towerBad t.val = true → t.val ≠ 0 → ((c.onUsh fun u => { u with tdown := u.tdown ++ [t.val] }).notice 0x0207 2 t.val (openDetail 0x0207 t.val)).ush.sel = some sl → ((c.onUsh fun u => { u with tdown := u.tdown ++ [t.val] }).notice 0x0207 2 t.val (openDetail 0x0207 t.val)).planLeft sl = some (d, e) → 
      exec (.towerFence t answers) s = .next { s with chip := ((let keep (p : Nat) : Nat := if e.selectionOk { sl with dplan := d, pplan := p, tplan := 0xFFFF } then p else 0xFFFF
        let f := e.liveTickets.foldl (fun c i =>
              if c.tkRoot i = 0 ∨ c.tkState i = 7 ∨ c.tkState i = 10 ∨ c.tkModel i ≠ sl.midx then c
              else
                let idx := c.towerLost i t.val answers
                let c := c.setFlag i 4 false
                if idx.isEmpty then c else c.recoverStart i (c.model (c.tkModel i)).image idx) e
        ((f.onUsh fun u => { u with sel := some { sl with dplan := d, pplan := (keep sl.pplan), tplan := 0xFFFF }, want := 1 }).changeoverDue).settle)) }) ∧
    (∀ (answers : Bool) (d : Chip), c.usherRuns = true → c.hasTower 0 = true → c.ush.tdown.contains 0 = false → c.towerBad 0 = true → d = (c.onUsh fun u => { u with tdown := u.tdown ++ [0] }).notice 0x0207 2 0 (openDetail 0x0207 0) → 
      exec (.towerFence 0 answers) s = .next { s with chip := ((d.liveTickets.foldl (fun c i => if c.tkState i = 10 then c else ((c.flushRunning i).postDone i 10 0 none).retire i []) d).settle) })

/-- The seven bring-up steps, the broadcast and the end of a step (R506, R516, R517, R518, R519, R520, R522, R523, R524, R528, R529, R530). -/
def Obligations.BringUpStepsRun : Prop :=
  ∀ s : State, let c := s.chip;
    (∀ (f : Fuses) (high : Option (Fin 5)) (unread mismatch : List (Fin 4)) (measured : List (GalId × Half × Half × Fin 18)) (g : Fuses) (fs : List StepFail), c.stepMay 1 = true → g = c.fuses.getD f → fs = c.fuseFails g high unread mismatch measured → 
      exec (.bringStepFuses f high unread mismatch measured) s = .next { s with chip := (if fs = [] then (c.stepBegin 1 []).fuseWork g ((c.stepBegin 1 []).railHigh high) measured else c.stepBegin 1 fs) }) ∧
    (∀ (weak : List (Fin 4)), c.stepMay 2 = true → c.bWarm = false → (c.stepBegin 2 []).bWarm = false → 
      exec (.bringStepRails weak) s = .next { s with chip := ((let d := (c.stepBegin 2 []).onBring fun b => { b with
          fails := ((weak.filter fun t => (c.stepBegin 2 []).hasTower t.val).map fun t => stepFail t.val 6 none none)
          enAt := (c.stepBegin 2 []).now }
        d.onPins fun p => { p with en := 1, pg := 0 })) }) ∧
    (∀ (lanes : List (LanePath × Fin 4608)) (uncal : List (Fin 4 × Fin 104)) (bridges : List (Fin 4)) (codes : List (Fin 4 × Fin 104 × Fin 16 × Byte)) (links : List (Fin 5)) (fs : List StepFail), c.stepMay 3 = true → fs = c.trainFails lanes uncal bridges → 
      exec (.bringStepTrain lanes uncal bridges codes links) s = .next { s with chip := (if fs = [] then (c.stepBegin 3 []).trainWork lanes bridges codes links else c.stepBegin 3 fs) }) ∧
    (∀ (lines : List TestFault) (badCode : List (Fin 4 × Fin 104)) (rtabA rtabB : List Nat) (fs : List StepFail), c.stepMay 4 = true → fs = c.selftestFails lines badCode → 
      exec (.bringStepSelftest lines badCode rtabA rtabB) s = .next { s with chip := (if fs = [] then (c.stepBegin 4 []).selftestWork lines rtabA rtabB else c.stepBegin 4 fs) }) ∧
    (∀ (flash : Option (List Byte × List Byte)) (layout : Layout) (chosen : List (Nat × DWord)) (fs : List StepFail), layout.ok c.part = true → c.stepMay 5 = true → fs = c.imageFails flash → 
      exec (.bringStepImage flash layout chosen) s = .next { s with chip := (if fs = [] then (c.stepBegin 5 []).imageWork flash layout chosen else c.stepBegin 5 fs) }) ∧
    (∀ (late : List Receiver) (weak : List GalId), c.stepMay 6 = true → 
      exec (.bringStepBroadcast late weak true) s = .next { s with chip := ((c.stepBegin 6 []).castWork late weak) }) ∧
    (c.stepMay 7 = true → c.bWarm = false → exec .bringStepSeal s = .next { s with chip := ((let d := (((c.stepBegin 7 []).cloakInit).critWrite 0x10 1).wrF Reg.jhead 0 48 1
        (d.critWrite 0x18 1).wrF Reg.jtail 0 48 1)) }) ∧
    (c.bState = 1 → c.inReset = false → c.stopped = false → c.stepEnds = some [] → 
      exec .bringStepDone s = .next { s with chip := (c.stepWell) }) ∧
    (∀ (f : StepFail) (fs : List StepFail), c.bState = 1 → c.inReset = false → c.stopped = false → c.stepEnds = some (f ::fs) → 
      exec .bringStepDone s = .next { s with chip := (c.stepIll (f ::fs)) }) ∧
    (∀ (n : Fin 8), (c.stepMay n.val = false ∨ c.bWarm = true) → c.inReset = false → c.stopped = false → 
      exec (.bringStepInvalid n) s = .next { s with chip := (c.wrF Reg.bringStatus 7 1 1) }) ∧
    (∀ (who : Receiver) (k : Nat), c.broadcasting = true → (c.sys.bring.recv.any fun r => r.who == who && !r.closed && !r.fenced) = true → k < chunks (c.sectFor who) → 
      exec (.chunkReceive who k false false false []) s = .next { s with chip := ((let bytes := (imB (c.sectFor who) (4096 * k) 4096).zipIdx.map fun x => (4096 * k + x.2, x.1)
        (bytes.foldl (fun c x => Chip.sectPut c who x.1 x.2) c).onRecv who fun r =>
          { r with data := bytes.foldl (fun m x => Memory.setByte m x.1 x.2) r.data, writeBad := r.writeBad, held := if r.held.contains k then r.held else r.held ++ [k] })) }) ∧
    (∀ (who : Receiver) (pass : Bool) (r : RecvState), (c.sys.bring.recv.find? fun r => r.who == who && !r.closed && !r.fenced) = some r → c.broadcasting = true → ((List.range (chunks (c.sectFor who))).all r.held.contains) = false → 
      exec (.chunkEndReceive who pass) s = .next { s with chip := (c.onRecv who fun r => { r with answered := true }) }) ∧
    (∀ (k i : Nat) (pass : Bool) (r : RecvState), (c.sys.bring.recv.find? fun r => r.who == .chanter k i && !r.closed && !r.fenced) = some r → c.broadcasting = true → ((List.range (chunks (c.sectFor (.chanter k i)))).all r.held.contains) = true → (sha384 (Memory.bytes r.data 0 (c.sectFor (.chanter k i)).length) == sha384 (c.sectFor (.chanter k i))) = true → 
      exec (.chunkEndReceive (.chanter k i) pass) s = .next { s with chip := (c.onRecv (.chanter k i) fun r => { r with answered := true, closed := true, okAt := c.now + 1 }) }) ∧
    (∀ (open_ : List RecvState), c.broadcasting = true → open_ = c.sys.bring.recv.filter (fun r => !r.closed && !r.fenced) → open_ ≠ [] → (open_.all (·.answered) || decide (c.sys.bring.endAt.toNat + 10000000 ≤ c.now.toNat)) = true → 
      exec .broadcastRoundEnd s = .next { s with chip := ((if c.sys.bring.round < 3 then
          c.onBring fun b => { b with
            round := (b.round + 1)
            endAt := c.now
            recv := (b.recv.map fun r => if (r.closed || r.fenced) = true then r
              else { r with answered := false, asked := !r.answered || (List.range (chunks (c.sectFor r.who))).all r.held.contains }) }
        else open_.foldl Chip.recvFence c)) }) ∧
    (∀ (g : GalId) (r : RecvState), (c.sys.bring.recv.find? fun r => r.who == .gallery (galKey g) && r.closed && !r.fenced) = some r → c.broadcasting = true → c.hasPassed (galKey g) = false → r.okAt.toNat - 1 + 5000000 ≤ c.now.toNat → 
      exec (.runtimeTestTimeout g) s = .next { s with chip := (c.recvFence r) })

/-- Power-on, cold, warm and tower resets, reset inputs, clock and rails (R480, R532, R533, R534, R535, R538, R540, R569, R572, R574, R575, R582). -/
def Obligations.ResetsRun : Prop :=
  ∀ s : State, let c := s.chip;
    (∀ (board : Board), exec (.powerOnReset board) s = .next { s with chip := (({ Chip.reset with
          part := c.part, free := c.free + 1, fuses := c.fuses, hostMem := c.hostMem, mem := c.mem.cold
          sys := { SysState.reset with pins := { PinState.reset with strap := board.strap.val, trst := board.trst } }
          lk := { Links.reset with boot := c.nextBoot } })) }) ∧
    (exec .coldReset s = .next { s with chip := ((let r : Chip := { Chip.reset with
          part := c.part, pllLocked := c.pllLocked, free := c.free + 1, fuses := c.fuses, hostMem := c.hostMem, mem := c.mem.cold
          regs := (c.regs.filter fun e => decide (0x20 ≤ e.1 ∧ e.1 < 0x40))
          sys := { SysState.reset with pins := { PinState.reset with coldHeld := c.sys.pins.coldHeld, warmHeld := c.sys.pins.warmHeld, trst := c.sys.pins.trst, strap := c.sys.pins.strap } }
          lk := { Links.reset with boot := c.nextBoot } }
        (r.wrF Reg.bringCtl 0 2 (c.rdF Reg.bringCtl 0 2)).wrF Reg.bringStatus 26 2 1)) }) ∧
    (exec .coldrstN s = .next { s with chip := (Chip.coldReset { c with sys := { c.sys with pins := { c.sys.pins with coldHeld := true } } }) }) ∧
    (c.inReset = false → c.thermStopped = false → c.sys.bring.everSealed = true → 
      exec .warmReset s = .next { s with chip := ((c.warmEnter.wrF Reg.bringStatus 26 2 2).warmGo) }) ∧
    (c.inReset = false → c.thermStopped = false → c.sys.bring.everSealed = true → 
      exec .warmrstN s = .next { s with chip := ((let d : Chip := { c with sys := { c.sys with pins := { c.sys.pins with warmHeld := true } } }
        (d.warmEnter.wrF Reg.bringStatus 26 2 2).warmGo)) }) ∧
    (c.inReset = false → exec (.bringResetCold 0x5253) s = .next { s with chip := (c.coldReset) }) ∧
    (c.inReset = false → exec (.bringResetWarm 0x5253) s = .next { s with chip := (c.warmReset) }) ∧
    (∀ (t : Fin 4) (d : Chip), c.inReset = false → c.isSealed = true → c.hasTower t.val = true → t.val ≠ 0 → d = { c with sys := { c.sys with ha := { c.sys.ha with
          towerDue := (if c.sys.ha.towerDue.contains t.val then c.sys.ha.towerDue else c.sys.ha.towerDue ++ [t.val]) } } } → 
      exec (.bringResetTower 0x5253 t) s = .next { s with chip := (if d.epochState = 3 then d else d.onUsh fun u => { u with cause := true }) }) ∧
    (c.inReset = false → c.isSealed = true → exec (.bringResetTakeover 0x5253) s = .next { s with chip := ({ c with sys := { c.sys with ha := { c.sys.ha with takeover := true } } }) }) ∧
    (exec (.resetInputRelease true) s = .next { s with chip := ({ c with sys := { c.sys with pins := { c.sys.pins with coldHeld := false } } }) }) ∧
    (c.sys.pins.warmHeld = true → c.sys.bring.everSealed = true → c.isSealed = false → c.thermStopped = false → 
      exec (.resetInputRelease false) s = .next { s with chip := (Chip.warmGo { c with sys := { c.sys with pins := { c.sys.pins with warmHeld := false } } }) }) ∧
    (c.isSealed = true → exec .perstN s = .next { s with chip := (c.resync) }) ∧
    (c.pllLocked = false → exec .pllLock s = .next { s with chip := ({ c with pllLocked := true, now := 0 }) }) ∧
    (∀ (r : Fin 5), bitOf c.sys.pins.en r.val = true → c.stepIs 2 1 = false → 
      exec (.powerGoodRise r) s = .next { s with chip := (c.onPins fun p => { p with pg := p.pg ||| 2 ^ r.val }) }) ∧
    (∀ (r : Fin 5), bitOf c.sys.pins.en r.val = true → c.stepIs 2 1 = true → c.sys.pins.en = 2 ^ (r.val + 1) - 1 → r.val ≠ 4 → bitOf c.sys.pins.pg r.val = false → 
      exec (.powerGoodRise r) s = .next { s with chip := ((let d := (c.onPins fun p => { p with pg := p.pg ||| 2 ^ r.val }).onPins fun p => { p with en := 2 ^ (r.val + 2) - 1 }
        { d with sys := { d.sys with bring := { d.sys.bring with enAt := (d.now + 200000) } } })) }) ∧
    (∀ (r : Fin 5), bitOf c.sys.pins.pg r.val = true → c.stepIs 2 1 = false → 
      exec (.pgFail (some r)) s = .next { s with chip := ((c.onPins fun p => { p with pg := p.pg - 2 ^ r.val }).coldReset) }) ∧
    (exec (.pgFail none) s = .next { s with chip := (c.coldReset) }) ∧
    (c.bWarm = true → c.stepMay 7 = true → (c.stepBegin 7 []).keptOk = true → 
      exec .warmSeal s = .next { s with chip := ((let d := ((c.stepBegin 7 []).staleScrub (c.stepBegin 7 []).vaultKeys).recover
        let e := if d.sys.bring.hot then (d.notice 0x0404 2 (openUnit 0x0404 0) (openDetail 0x0404 0)).onBring fun b => { b with hot := false } else d
        (e.journalReset 1).stepWell)) }) ∧
    (c.thermStopped = true → c.inReset = false → c.tooHot = false → c.sys.bring.everSealed = true → 
      exec .thermalResume s = .next { s with chip := ((let d := (c.wrF Reg.thermStat 0 1 0).onPins fun p => { p with thermTrip := false }
        (Chip.wrF { d with sys := { d.sys with bring := { d.sys.bring with hot := true } } } Reg.bringStatus 26 2 3).warmGo)) })

/-- Partition and tower resets, the base-die quiesce and the takeover (R221, R535, R536, R537, R538). -/
def Obligations.PartitionsAndTakeoverRun : Prop :=
  ∀ s : State, let c := s.chip;
    (∀ (t : Fin 4) (host : Bool) (v : DWord), c.inReset = false → c.thermStopped = false → c.hasTower t.val = true → c.stopped = false → (host = false ∨ c.isSealed = false) → 
      exec (.partitionReset t host v) s = .next { s with chip := (c.partWrite t.val v.toNat (2 ^ 64 - 1)) }) ∧
    (∀ (t : Fin 4), c.hasTower t.val = true → c.stopped = false → c.thermStopped = false → c.inReset = false → 
      exec (.baseDieQuiesce t) s = .next { s with chip := ((c.quiesce t.val).settle) }) ∧
    (∀ (t : Fin 4), c.usherRuns = true → c.sys.ha.towerDue.contains t.val = true → (c.epochState = 3 ∨ c.epochState = 0) → 
      exec (.towerReset t) s = .next { s with chip := ((c.towerReset t.val).settle) }) ∧
    (c.usherRuns = true → c.bit Reg.bringStatus 25 = true → exec .heartbeatMissed s = .next { s with chip := ({ c with sys := { c.sys with ha := { c.sys.ha with takeover := true } } }) }) ∧
    (∀ (d : Chip), c.usherRuns = true → c.sys.ha.takeover = true → c.bit Reg.bringStatus 25 = true → c.chc = [] → d = c.gals.foldl (fun c e => Chip.holdGal c e.1) c → d.epochState = 1 → d.nextPlan.isSome = true → d.chc = [] → 
      exec .usherTakeover s = .next { s with chip := (d.closingStart) }) ∧
    (∀ (d : Chip), c.usherRuns = true → c.sys.ha.takeover = true → c.bit Reg.bringStatus 25 = true → d = c.gals.foldl (fun c e => Chip.holdGal c e.1) c → d.chc = [] → d.epochState = 0 → 
      exec .usherTakeover s = .next { s with chip := ((let e := (d.resync.settle.recover).journalReset 2
        let f := ((e.wrF Reg.bringStatus 24 1 1).wrF Reg.bringStatus 25 1 0).notice 0x0802 1 0 (openDetail 0x0802 0)
        { f with sys := { f.sys with ha := { f.sys.ha with takeover := false } } })) })

/-- The Whistle is asked for, stops the module and is resumed; watches and fatal errors (R541, R542, R543, R546, R548, R555, R556, R557, R558, R575). -/
def Obligations.WhistleStopsAndResumes : Prop :=
  ∀ s : State, let c := s.chip;
    (c.inReset = false → c.stopped = false → c.rdF Reg.bringStatus 3 2 ≠ 1 → 
      exec .whistleReq s = .next { s with chip := ({ c with dbg := { c.dbg with whistleReq := (c.dbg.whistleReq ||| 1) } }) }) ∧
    (c.inReset = false → c.stopped = false → c.rdF Reg.bringStatus 3 2 ≠ 1 → 
      exec .whistleN s = .next { s with chip := ({ c with dbg := { c.dbg with whistleReq := (c.dbg.whistleReq ||| 4) } }) }) ∧
    (c.inReset = false → c.sys.pins.trst = true → c.stopped = true → 
      exec .jtagWhistle s = .next { s with chip := (((let d : Chip := c.tap 0x20
        d.wrF Reg.wstat 2 8 (d.rdF Reg.wstat 2 8 ||| 2)))) }) ∧
    (∀ (d : Chip), c.inReset = false → c.sys.pins.trst = true → c.stopped = false → c.rdF Reg.bringStatus 3 2 ≠ 1 → d = c.tap 0x20 → 
      exec .jtagWhistle s = .next { s with chip := ({ d with dbg := { d.dbg with whistleReq := (c.dbg.whistleReq ||| 2) } }) }) ∧
    (∀ (mx : List MxStand), c.dbg.whistleReq ≠ 0 → c.stopped = false → c.inReset = false → c.thermStopped = false → c.rdF Reg.bringStatus 3 2 ≠ 1 → 
      exec (.whistle mx) s = .next { s with chip := ((let d := (c.gals.filter fun e => e.2.dom == .up).foldl (fun d e =>
          let at_ := mx.find? fun m => galKey m.gal == e.1
          Chip.onGal d e.1 fun g => g.whistleMx d.act (srC3 0 c.epoch) d.part.hasTrain
            (match at_ with | some m => ⟨m.tile.val, m.row.toNat, m.inLoad⟩ | none => ⟨0, 0, false⟩) (match at_ with | some m => m.flush.val | none => 0)) c
        let e : Chip := { d with dbg := { d.dbg with whistleReq := 0 } }
        let f := (((e.wrF Reg.wstat 0 1 1).wrF Reg.wstat 1 1 0).wrF Reg.wstat 2 8 c.dbg.whistleReq.toNat).bump Reg.wstat 32 32 1
        f.whistleEvent true c.dbg.whistleReq.toNat)) }) ∧
    (c.stopped = true → c.bit Reg.wstat 6 = false → exec .whistleResume s = .next { s with chip := ((let d := c.wrF Reg.wstat 0 1 0
        let e := ((d.gals.filter fun e => e.2.mx.stopped && e.2.mx.cause == 2).foldl (fun c e => Chip.onGal c e.1 fun g => g.mxGo c.act) d).whistleEvent false (c.rdF Reg.wstat 2 8)
        let f := if e.dbg.whistleHold then e.watchRelease else e
        let g := (List.range 256).foldl (fun c q => c.postKept q (c.cq q).kept.length) f
        ((List.range 5).foldl (fun c l => if c.part.hasLink l then Chip.pump c l else c) g).settle)) }) ∧
    (c.inReset = false → c.sys.pins.trst = true → exec .jtagResume s = .next { s with chip := (Chip.whistleEnd (c.tap 0x21)) }) ∧
    (∀ (i : Fin 64) (n : Nat), c.usherRuns = true → c.stepOf (c.watchGals i.val) = some n → c.watchFires i.val n = true → c.dbg.watched.contains i.val = false → c.epochState = 1 → ((c.watchGals i.val).all fun k => (c.gal k).standsHeld) = false → 
      exec (.watchCapture i) s = .next { s with chip := ((c.watchGals i.val).foldl Chip.holdGal c) }) ∧
    (∀ (i : Fin 64) (n : Nat) (d c1 : Chip) (data : List Byte) (ok : Bool), c.usherRuns = true → c.stepOf (c.watchGals i.val) = some n → c.watchFires i.val n = true → c.dbg.watched.contains i.val = false → (c.epochState = 1 ∨ c.epochState = 2) → ((c.watchGals i.val).all fun k => (c.gal k).standsHeld) = true → c.watchData i.val = (c1, data) → c1.dump i.val n data = (d, ok) → 
      exec (.watchCapture i) s = .next { s with chip := ((let e : Chip := { d with dbg := { d.dbg with watched := d.dbg.watched ++ [i.val] } }
        let f := if ok = false then e
          else
            let left := e.rdF (Reg.tw i.val 0) 32 16 - 1
            let c := e.wrF (Reg.tw i.val 0) 32 16 left
            if left = 0 then c.wrF (Reg.tw i.val 0) 0 1 0 else c
        let g := if ok && f.bit (Reg.tw i.val 0) 5 then Chip.requestWhistle { f with dbg := { f.dbg with whistleHold := true } } 5 else f
        if g.epochState ≠ 1 || g.dbg.whistleHold || g.watchLeft n then g else g.watchRelease)) }) ∧
    (∀ (code : Half) (t : Fin 4) (source : Fin 3) (unit : Word) (detail : DWord), c.usherRuns = true → 
      exec (.fatalError code t source unit detail) s = .next { s with chip := ((let d := c.whistleStop (c.dbg.whistleReq.toNat ||| 0x10) []
        let cause := causeRecord d.now code t.val source.val unit detail
        (if d.rd Reg.anxbase = 0 then d else if d.bit Reg.anxctl 1 then d.annexMore cause else d.annexMake (source.val != 2) cause).warmReset)) }) ∧
    (c.inReset = false → c.bit Reg.anxctl 1 = true → exec .anxctlClear s = .next { s with chip := ((c.memWriteNum (c.rd Reg.anxbase + 6) 2 (setField (c.memNum (c.rd Reg.anxbase + 6) 2) 0 1 0)).wrF Reg.anxctl 1 1 0) }) ∧
    (∀ (g : GalId), c.inReset = false → c.thermStopped = false → c.hasTower g.tower.val = true → c.stopped = false → (c.gal (galKey g)).dom = .up → c.fenced (galKey g) = false → 
      exec (.rngctlClr g) s = .next { s with chip := ((c.scanRaise (galKey g)).onGal (galKey g) fun x => { x with rng := [] }) })

/-- Scan access over JTAG, the window and DMA, and the I3C module port (R547, R548, R549, R578, R579, R580). -/
def Obligations.ScanAndModulePortRun : Prop :=
  ∀ s : State, let c := s.chip;
    (∀ (v : Word) (d : Chip), c.inReset = false → c.sys.pins.trst = true → d = c.tap 0x22 → 
      exec (.jtagScansel v) s = .next { s with chip := ({ d with dbg := { d.dbg with jtagSel := (v &&& 0xFFFF) } }) }) ∧
    (∀ (v : DWord) (d : Chip), c.inReset = false → c.sys.pins.trst = true → v.toNat % 8 = 0 → d = c.tap 0x23 → 
      exec (.jtagScanoff v) s = .next { s with chip := ({ d with dbg := { d.dbg with jtagOff := (BitVec.ofNat 48 v.toNat) } }) }) ∧
    (∀ (d : Chip) (st v : Nat), c.inReset = false → c.sys.pins.trst = true → (c.tap 0x24).scanRead c.dbg.jtagSel.toNat c.dbg.jtagOff.toNat 2 = (d, st, v) → 
      exec .jtagScanrd s = .next { s with chip := (Chip.scanSt { d with dbg := { d.dbg with jtagOut := (BitVec.ofNat 64 v), jtagOff := (d.dbg.jtagOff + 8) } } st) }) ∧
    (∀ (v : DWord) (d : Chip) (st : Nat), c.inReset = false → c.sys.pins.trst = true → (c.tap 0x25).scanWrite c.dbg.jtagSel.toNat c.dbg.jtagOff.toNat 2 v.toNat = (d, st) → 
      exec (.jtagScanwr v) s = .next { s with chip := (Chip.scanSt { d with dbg := { d.dbg with jtagOff := (d.dbg.jtagOff + 8) } } st) }) ∧
    (∀ (d : Chip), c.inReset = false → c.sys.pins.trst = true → d = c.tap 0x26 → 
      exec .jtagWstat s = .next { s with chip := ({ d with dbg := { d.dbg with jtagOut := (BitVec.ofNat 64 (c.rd Reg.wstat)) } }) }) ∧
    (c.inReset = false → c.sys.pins.trst = false → exec .jtagWstat s = .next { s with chip := (c.tapHeld) }) ∧
    (∀ (w : Fin 65536) (wide : Bool) (v : DWord) (d : Chip) (st : Nat), c.inReset = false → w.val % (if wide then 8 else 4) = 0 → c.scanWrite (c.rd Reg.scansel) (c.rdF Reg.scanoff 0 48 + w.val) (if wide then 2 else 1) v.toNat = (d, st) → 
      exec (.scanwinAccess w wide (some v)) s = .next { s with chip := (d.scanSt st) }) ∧
    (∀ (w : Fin 65536) (wide : Bool) (d : Chip) (st v : Nat), c.inReset = false → w.val % (if wide then 8 else 4) = 0 → c.scanRead (c.rd Reg.scansel) (c.rdF Reg.scanoff 0 48 + w.val) (if wide then 2 else 1) = (d, st, v) → 
      exec (.scanwinAccess w wide none) s = .next { s with chip := (((let e := d.scanSt st
        { e with host := { e.host with bar0Out := (some (BitVec.ofNat 64 v)) } }))) }) ∧
    (∀ (w : Fin 65536) (wide : Bool), c.inReset = false → w.val % (if wide then 8 else 4) ≠ 0 → 
      exec (.scanwinAccess w wide none) s = .next { s with chip := ({ c with host := { c.host with bar0Out := none } }) }) ∧
    (c.inReset = false → c.dbg.scanDma = false → exec .dmaCopy s = .next { s with chip := (Chip.wrF { c with dbg := { c.dbg with scanDma := true } } Reg.dmactl 1 1 0) }) ∧
    (∀ (d e : Chip) (st : Nat), c.dbg.scanDma = true → c.inReset = false → d = { c with dbg := { c.dbg with scanDma := false } } → d.scanCopy (d.rd Reg.scansel) (d.rd Reg.dmalen / 8) (d.rdF Reg.scanoff 0 48) (d.rd Reg.dmaaddr) = (e, st) → 
      exec (.dmaCopyDone true) s = .next { s with chip := ((e.scanSt st).wrF Reg.dmactl 1 1 1) }) ∧
    (∀ (off : Word), c.inReset = false → exec (.i3cWrite off none) s = .next { s with chip := (c.onPins fun p => { p with pointer := off }) }) ∧
    (∀ (off : Word) (wide : Bool) (v : DWord), c.inReset = false → 
      exec (.i3cWrite off (some (wide, v))) s = .next { s with chip := (c.i3cPut off.toNat v.toNat wide) }) ∧
    (∀ (r : RegDef), c.inReset = false → regAt c.sys.pins.pointer.toNat = some r → i3cReads c.sys.pins.pointer.toNat = true → 
      exec .i3cRead s = .next { s with chip := (c.onPins fun p => { p with readOut := (some (BitVec.ofNat 64 (regRead r.fields (c.plainValue c.sys.pins.pointer.toNat)))), pointer := (p.pointer + BitVec.ofNat 32 (r.width / 8)) }) }) ∧
    (∀ (a : BitVec 7), exec (.i3cDynamicAddress a) s = .next { s with chip := (c.onPins fun p => { p with dynamic := some a }) }) ∧
    (c.sys.pins.dynamic.isSome = true → exec .ibiAcknowledge s = .next { s with chip := ({ c with sys := { c.sys with alerts := (c.sys.alerts.drop 1) } }) })

/-- After reset nothing waits, and every memory is in its canonical form (R224, R532, R566). -/
def Obligations.ResetIsCleanAndCanonical : Prop :=
  State.reset.pending = [] ∧ QueueWf State.reset ∧ Memory.wf State.reset.chip.dram = true ∧ Memory.wf State.reset.chip.hostMem = true ∧
  (∀ k : Nat, Memory.wf (State.reset.chip.gal k).imem = true ∧ Memory.wf (State.reset.chip.gal k).dmem = true ∧ Memory.wf (State.reset.chip.gal k).spad = true) ∧
  (∀ a : Nat, Memory.byte State.reset.chip.dram a = 0)

/-- The address interleave is a bijection between the lines of a tower and the lines of its vaults (R224, R226, R227, R228). -/
def Obligations.InterleaveIsInvertible : Prop :=
  (∀ l : Nat, lineAt (lineTower l) (lineVault l) (lineNum l) = l) ∧
  (∀ l : Nat, lineVault l < 96) ∧
  (∀ t v n : Nat, v < 96 → n < 4 * 11184810 →
    lineTower (lineAt t v n) = t ∧ lineVault (lineAt t v n) = v ∧ lineNum (lineAt t v n) = n)

/-- The line code finds and corrects any one wrong symbol, and tells poison from damage (R488, R489, R490). -/
def Obligations.LineCodeCorrectsOneSymbol : Prop :=
  rsVerdict ((List.range 8).map (rsSyndrome [0, 0, 0, 0, 0, 0, 0, 0])) = .clean ∧
  rsVerdict ((List.range 8).map (rsSyndrome poisonPattern)) = .poison ∧
  (∀ j e : Nat, j < 72 → 0 < e → e < 256 →
    rsVerdict ((List.range 8).map fun n => gfMul e (gfPow (n * j))) = .ce [j] ∧
    rsErrors ((List.range 8).map fun n => gfMul e (gfPow (n * j))) = [(j, e)]) ∧
  (∀ j e : Nat, 72 ≤ j → j < 77 → 0 < e → e < 256 →
    rsVerdict ((List.range 8).map fun n => gfMul e (gfPow (n * j))) = .addr)

/-- Module memory reads back what a unit of the module wrote, and nothing else changes (R5, R224, R231, R233, R237). -/
def Obligations.UnitsReadWhatTheyWrite : Prop :=
  ∀ (c : Chip) (a : Nat) (bs : List Byte), Memory.wf c.dram = true → c.CacheInOrder → c.PathQuiet →
    ((a % 64 = 0 ∧ bs.length % 64 = 0 ∧ bs.length ≤ 4096 ∧ ∀ l : Nat, a / 64 ≤ l → l * 64 < a + bs.length → c.pathStatus l .usher = 0) ∨
      (a % 64 + bs.length ≤ 64 ∧ c.pathStatus (a / 64) .usher = 0 ∧ (c.hitWay (a / 64)).isSome = true) ∨
      (a % 64 + bs.length ≤ 64 ∧ c.pathStatus (a / 64) .usher = 3 ∧ c.linePoisoned (a / 64) = false ∧ c.laneErrors (a / 64) = [] ∧
        c.shadowOf (a / 64 * 64) = none)) →
    (c.memWrite a bs).memBytes a bs.length = bs ∧
    (∀ b n : Nat, b + n ≤ a ∨ a + bs.length ≤ b → (c.memWrite a bs).memBytes b n = c.memBytes b n) ∧
    Memory.wf (c.memWrite a bs).dram = true

/-- The time base read as two halves is one moment's time, however long the reader waits between them (R7, R540). -/
def Obligations.HalvesReadTogether : Prop :=
  ∀ (who : Half) (s : State) (n : Nat), s.pending = [] → s.chip.dbg.stage = [] → s.chip.serves Reg.time = true →
    ∃ t u v : State, exec (.reg64LowHalfRead ⟨who, .bar0⟩ (BitVec.ofNat 26 Reg.time) false) s = .next t ∧ Host.Core.run core n t = .next u ∧
      exec (.reg64LowHalfRead ⟨who, .bar0⟩ (BitVec.ofNat 26 (Reg.time + 4)) false) u = .next v ∧
      t.chip.host.bar0Out = some (BitVec.ofNat 64 (s.chip.now.toNat % 2 ^ 32)) ∧
      v.chip.host.bar0Out = some (BitVec.ofNat 64 (s.chip.now.toNat / 2 ^ 32)) ∧
      v.chip.latch = Store.put noLatch t.chip.latch (latchKey who Reg.time) none

/-- No work moves while the Whistle holds the module, and the usher does nothing where it does not run (R542). -/
def Obligations.StoppedModuleHoldsWork : Prop :=
  (∀ s : State, s.chip.stopped = true →
    (∀ (g : GalId),
        (∀ errs : List GalUpset, exec (.scalarInstruction ⟨g, errs⟩) s = .next s) ∧ exec (.mret g) s = .next s ∧ exec (.issueQueueRoom g) s = .next s ∧
        exec (.fenceqDrained g) s = .next s ∧ exec (.stepHoldRelease g) s = .next s ∧ exec (.waitcConditionMet g) s = .next s ∧
        exec (.waitTimeout g) s = .next s ∧ (∀ clear : Bool, exec (.gctlHalt ⟨g, clear⟩) s = .next s) ∧ exec (.gfaultClear g) s = .next s ∧
        exec (.mxLoad g) s = .next s ∧ exec (.mxStream g) s = .next s ∧ exec (.mxStreamg g) s = .next s ∧
        exec (.mxStreamw g) s = .next s ∧ exec (.mxKloop g) s = .next s ∧ exec (.mxFlush g) s = .next s ∧
        exec (.mxCfg g) s = .next s ∧ exec (.mxSave g) s = .next s ∧ exec (.mxRestore g) s = .next s ∧
        exec (.mxPreemptionStop g) s = .next s ∧ exec (.mxGo g) s = .next s ∧ (∀ svc : Option Desc, exec (.mxServiceRun ⟨g, svc⟩) s = .next s) ∧
        exec (.arcPut g) s = .next s ∧ exec (.arcMcast g) s = .next s ∧ exec (.arcIsend g) s = .next s ∧
        exec (.arcSig g) s = .next s ∧ exec (.arcMsg g) s = .next s ∧ exec (.stLoad g) s = .next s ∧
        exec (.stStore g) s = .next s ∧ exec (.stGather g) s = .next s ∧ exec (.stScatter g) s = .next s ∧
        exec (.stCmoWriteback g) s = .next s ∧ exec (.stCmoReleasePins g) s = .next s ∧ exec (.stCmoPrefetch g) s = .next s ∧
        exec (.stCmoPrefetchPin g) s = .next s ∧ exec (.stCmoFlushInvalidate g) s = .next s) ∧
    (∀ (g : GalId) (rd rs1 : Fin 32) (q : Fin 8) (nb : Bool),
        exec (.issue g rd rs1 q nb) s = .next s) ∧
    (∀ (g : GalId) (rs1 : Fin 32),
        exec (.fenceq g rs1) s = .next s ∧ exec (.step g rs1) s = .next s) ∧
    (∀ (g : GalId) (rd : Fin 32),
        exec (.epoch g rd) s = .next s ∧ exec (.markPop g rd) s = .next s) ∧
    (∀ (g : GalId) (rd rs1 rs2 : Fin 32),
        exec (.waitc g rd rs1 rs2) s = .next s ∧ exec (.waitcPoll g rd rs1 rs2) s = .next s) ∧
    (∀ (g : GalId) (rs1 rs2 : Fin 32),
        exec (.sigc g rs1 rs2) s = .next s ∧ exec (.sigcSet g rs1 rs2) s = .next s) ∧
    (∀ (src dst : GalId),
        exec (.remoteSignalReceive src dst) s = .next s) ∧
    (∀ (g : GalId) (rd rs1 : Fin 32),
        exec (.markPush g rd rs1) s = .next s) ∧
    (∀ (g : GalId) (mask : Fin 32),
        exec (.gctlQrst g mask) s = .next s) ∧
    (∀ (g : GalId) (v : Word),
        exec (.gcredWrite g v) s = .next s) ∧
    (∀ (g : GalId) (q : QueueId),
        exec (.nop g q) s = .next s ∧ exec (.qwait g q) s = .next s ∧ exec (.qwaitTimeout g q) s = .next s) ∧
    (∀ (g : GalId) (q : Option QueueId),
        exec (.coreParityError g q) s = .next s) ∧
    (∀ (g : GalId) (n : Word) (data : List Byte),
        exec (.usherMailboxWrite g n data) s = .next s) ∧
    (∀ (g : GalId) (tile : Fin 64) (row : Half) (inLoad : Bool) (flush : Fin 1025),
        exec (.mxStopDrained g tile row inLoad flush) s = .next s) ∧
    (∀ (g : GalId) (i : Fin 2),
        exec (.vmov g i) s = .next s ∧ exec (.vadd g i) s = .next s ∧ exec (.vsub g i) s = .next s ∧
        exec (.vmul g i) s = .next s ∧ exec (.vfma g i) s = .next s ∧ exec (.vmax g i) s = .next s ∧
        exec (.vmin g i) s = .next s ∧ exec (.vabs g i) s = .next s ∧ exec (.vneg g i) s = .next s ∧
        exec (.vcmp g i) s = .next s ∧ exec (.vcsel g i) s = .next s ∧ exec (.vselb g i) s = .next s ∧
        exec (.viota g i) s = .next s ∧ exec (.vcvt g i) s = .next s ∧ exec (.viadd g i) s = .next s ∧
        exec (.visub g i) s = .next s ∧ exec (.vimul g i) s = .next s ∧ exec (.viand g i) s = .next s ∧
        exec (.vior g i) s = .next s ∧ exec (.vixor g i) s = .next s ∧ exec (.vishl g i) s = .next s ∧
        exec (.vishr g i) s = .next s ∧ exec (.vicmp g i) s = .next s ∧ exec (.vexp g i) s = .next s ∧
        exec (.vexp2 g i) s = .next s ∧ exec (.vlog g i) s = .next s ∧ exec (.vrcp g i) s = .next s ∧
        exec (.vrsqrt g i) s = .next s ∧ exec (.vtanh g i) s = .next s ∧ exec (.vsigm g i) s = .next s ∧
        exec (.vsilu g i) s = .next s ∧ exec (.vgelu g i) s = .next s ∧ exec (.vrot g i) s = .next s ∧
        exec (.vrsum g i) s = .next s ∧ exec (.vrmax g i) s = .next s ∧ exec (.vrmin g i) s = .next s ∧
        exec (.vramax g i) s = .next s ∧ exec (.vtopk g i) s = .next s ∧ exec (.vscan g i) s = .next s ∧
        exec (.vcount g i) s = .next s ∧ exec (.vrankb g i) s = .next s ∧ exec (.vgather g i) s = .next s ∧
        exec (.vscatter g i) s = .next s ∧ exec (.vgathere g i) s = .next s ∧ exec (.mlog g i) s = .next s ∧
        exec (.mld g i) s = .next s ∧ exec (.mst g i) s = .next s ∧ exec (.mpopc g i) s = .next s ∧
        exec (.vrand g i) s = .next s ∧ exec (.vsamp g i) s = .next s ∧ exec (.vsave g i) s = .next s ∧
        exec (.vrestore g i) s = .next s) ∧
    (∀ (g : GalId) (cause : Fin 7),
        exec (.retentionWake g cause) s = .next s) ∧
    (∀ (n : Nat) (crc : Half),
        exec (.arcTransferReceive n crc) s = .next s) ∧
    (∀ (n : Nat),
        exec (.arcAckReceive n) s = .next s ∧ exec (.moveFlip n) s = .next s) ∧
    (∀ (g : GalId) (sched : Bool),
        exec (.ingressDeliveryResume g sched) s = .next s) ∧
    (∀ (g : GalId) (head : Half),
        exec (.msgRingHeadWrite g head) s = .next s) ∧
    (∀ (t : Fin 4) (p : Fin 104) (n : Nat),
        exec (.mcastStall t p n) s = .next s) ∧
    (∀ (g : GalId) (cause : Fin 256),
        exec (.galleryFence g cause) s = .next s) ∧
    (∀ (tag : Word) (line : BitVec 34) (op : LineOp) (ah : Fin 3) (who : Requester),
        exec (.sliceRequest tag line op ah who) s = .next s) ∧
    (∀ (line : BitVec 34),
        exec (.sliceFill line) s = .next s ∧ exec (.backInvalidate line) s = .next s) ∧
    (∀ (t : Fin 4) (v : Fin 104) (n : Fin 128),
        exec (.vaultRequest t v n) s = .next s) ∧
    (∀ (b : Fin 4) (forward : Bool) (x : Burst),
        exec (.bridgeBurstReceive b forward x) s = .next s) ∧
    (∀ (side : AttnSide),
        exec (.attnQuery side) s = .next s) ∧
    (∀ (l : Fin 5),
        exec (.attnPartial l) s = .next s ∧ exec (.nakReplay l) s = .next s ∧ exec (.replayTimeout l) s = .next s ∧
        exec (.put l) s = .next s ∧ exec (.get l) s = .next s ∧ exec (.getresp l) s = .next s ∧
        exec (.msg l) s = .next s ∧ exec (.atomic l) s = .next s ∧ exec (.atomresp l) s = .next s ∧
        exec (.done l) s = .next s ∧ exec (.linkRetrainTimer l) s = .next s ∧ exec (.annexReply l) s = .next s ∧
        exec (.annexClose l) s = .next s ∧ exec (.weightAsk l) s = .next s) ∧
    (∀ (tag : DWord),
        exec (.attnPartialTimeout tag) s = .next s) ∧
    (∀ (phase : Fin 3),
        exec (.phasePolicyChange phase) s = .next s) ∧
    (exec .changeoverBegin s = .next s ∧ exec .closingTimeout s = .next s ∧ exec .movesComplete s = .next s ∧
        exec .priorityPreemption s = .next s ∧ exec .usherSpillPolicy s = .next s ∧ exec .ceDecay s = .next s ∧
        exec .galleryFault s = .next s ∧ exec .heartbeatMissed s = .next s ∧ exec .usherTakeover s = .next s) ∧
    (∀ (copies : List (Fin 16 × Fin 4)),
        exec (.epochClose copies) s = .next s) ∧
    (∀ (lags : List (Fin 384 × Nat)),
        exec (.epochOpen lags) s = .next s ∧ exec (.rowTableForm lags) s = .next s) ∧
    (∀ (batch : Nat),
        exec (.stepResultsAccept batch) s = .next s ∧ exec (.ticketEnergyShare batch) s = .next s) ∧
    (∀ (x : ChanterId) (rd rs1 : Fin 32),
        exec (.ldl x rd rs1) s = .next s) ∧
    (∀ (x : ChanterId),
        exec (.ldlDataArrival x) s = .next s ∧ exec (.lineOpRetry x) s = .next s ∧ exec (.rangesDeclared x) s = .next s ∧
        (∀ errs : List SramUpset, exec (.chanterInstruction ⟨x, errs⟩) s = .next s)) ∧
    (∀ (x : ChanterId) (rs1 rs2 : Fin 32),
        exec (.stl x rs1 rs2) s = .next s ∧ exec (.pcopy x rs1 rs2) s = .next s) ∧
    (∀ (x : ChanterId) (rd : Fin 32),
        exec (.fencel x rd) s = .next s) ∧
    (∀ (x : ChanterId) (rs1 : Fin 32),
        exec (.jdone x rs1) s = .next s) ∧
    (∀ (x : ChanterId) (w : Fin 8) (rd rs1 rs2 : Fin 32),
        exec (.qsimdAdd x w rd rs1 rs2) s = .next s ∧ exec (.qsimdSub x w rd rs1 rs2) s = .next s ∧ exec (.qsimdMul x w rd rs1 rs2) s = .next s ∧
        exec (.qsimdSmin x w rd rs1 rs2) s = .next s ∧ exec (.qsimdSmax x w rd rs1 rs2) s = .next s ∧ exec (.qsimdUmin x w rd rs1 rs2) s = .next s ∧
        exec (.qsimdUmax x w rd rs1 rs2) s = .next s ∧ exec (.qsimdAnd x w rd rs1 rs2) s = .next s ∧ exec (.qsimdOr x w rd rs1 rs2) s = .next s ∧
        exec (.qsimdXor x w rd rs1 rs2) s = .next s ∧ exec (.qsimdShl x w rd rs1 rs2) s = .next s ∧ exec (.qsimdShr x w rd rs1 rs2) s = .next s ∧
        exec (.qsimdSar x w rd rs1 rs2) s = .next s ∧ exec (.qsimdEq x w rd rs1 rs2) s = .next s) ∧
    (∀ (x : ChanterId) (rd rs1 rs2 : Fin 32),
        exec (.qsimdPermute x rd rs1 rs2) s = .next s ∧ exec (.qsimdFadd x rd rs1 rs2) s = .next s ∧ exec (.qsimdFmul x rd rs1 rs2) s = .next s ∧
        exec (.qsimdFma x rd rs1 rs2) s = .next s ∧ exec (.qsimdFmax x rd rs1 rs2) s = .next s ∧ exec (.qcvt x rd rs1 rs2) s = .next s ∧
        exec (.qcrc x rd rs1 rs2) s = .next s ∧ exec (.qpgen x rd rs1 rs2) s = .next s) ∧
    (∀ (x : ChanterId) (lane : Fin 4) (rd rs1 : Fin 32),
        exec (.qins x lane rd rs1) s = .next s ∧ exec (.qext x lane rd rs1) s = .next s) ∧
    (∀ (x : ClusterId) (w7 : DWord),
        exec (.jobEnqueue x w7) s = .next s) ∧
    (∀ (x : ClusterId),
        exec (.jobStart x) s = .next s ∧ exec (.tokenHandoff x) s = .next s ∧ exec (.heldReadRelease x) s = .next s ∧
        exec (.patrolPass x) s = .next s) ∧
    (∀ (x : ClusterId) (jobid : Word),
        exec (.jobCancel x jobid) s = .next s) ∧
    (∀ (x : ClusterId) (n : Fin 65),
        exec (.bottomBurst x n) s = .next s) ∧
    (∀ (t : Fin 4) (col : Fin 8) (jobid : Word) (entry : Byte),
        exec (.chanterFallbackStart t col jobid entry) s = .next s) ∧
    (∀ (sq : Fin 256) (good : Bool),
        exec (.admitCmd sq good) s = .next s ∧ exec (.feed sq good) s = .next s ∧ exec (.run sq good) s = .next s ∧
        exec (.fork sq good) s = .next s ∧ exec (.query sq good) s = .next s ∧ exec (.modelLoad sq good) s = .next s ∧
        exec (.adapterLoad sq good) s = .next s ∧ exec (.planSelect sq good) s = .next s ∧ exec (.negotiate sq good) s = .next s ∧
        exec (.journalRead sq good) s = .next s) ∧
    (∀ (w : Word),
        exec (.ticketBound w) s = .next s ∧ exec (.prefillDone w) s = .next s ∧ exec (.demotionStart w) s = .next s ∧
        exec (.spillCommit w) s = .next s ∧ exec (.recallCommit w) s = .next s ∧ exec (.forkTablesCopied w) s = .next s ∧
        exec (.recoveryStart w) s = .next s ∧ exec (.recoveryDone w) s = .next s ∧ exec (.ticketLost w) s = .next s ∧
        exec (.releaseComplete w) s = .next s) ∧
    (∀ (residue : Nat),
        exec (.runningSetAdmit residue) s = .next s) ∧
    (∀ (w : Word) (failed : List Nat),
        exec (.demotionEnd w failed) s = .next s) ∧
    (∀ (w : Word) (err : Bool),
        exec (.recallFail w err) s = .next s) ∧
    (∀ (sq : Fin 256),
        exec (.park sq) s = .next s ∧ exec (.release sq) s = .next s ∧ exec (.spill sq) s = .next s ∧
        exec (.recall sq) s = .next s ∧ exec (.modelUnload sq) s = .next s ∧ exec (.budgetSet sq) s = .next s) ∧
    (∀ (cq : Fin 256),
        exec (.cqFullNotice cq) s = .next s ∧ exec (.cqInterrupt cq) s = .next s) ∧
    (∀ (width : Fin 5) (rate : Fin 6),
        exec (.pcieLinkDegraded width rate) s = .next s) ∧
    (∀ (l : Fin 5) (side : Option Byte),
        exec (.barrier l side) s = .next s) ∧
    (∀ (l : Fin 5) (tag : Half),
        exec (.linkRequestTimeout l tag) s = .next s ∧ exec (.msgBusyResend l tag) s = .next s) ∧
    (∀ (side : AnnexSide),
        exec (.annexOpen side) s = .next s) ∧
    (∀ (g : GalId) (v : Fin 16),
        exec (.vsetChange g v) s = .next s) ∧
    (∀ (t : Fin 4) (v : Fin 104) (set : Fin 10240) (way : Fin 16) (part : SlicePart),
        exec (.sliceStorageUe t v set way part) s = .next s) ∧
    (∀ (t : Fin 4),
        exec (.errorLogScan t) s = .next s ∧ exec (.retirementStart t) s = .next s ∧ exec (.towerReset t) s = .next s) ∧
    (∀ (t : Fin 4) (index : Fin 8192),
        exec (.retirementMoveDone t index) s = .next s) ∧
    (∀ (m : Fin 8) (sid off : Nat) (partner : Option (Fin 5)),
        exec (.weightUe m sid off partner) s = .next s) ∧
    (∀ (t : Fin 4) (answers : Bool),
        exec (.towerFence t answers) s = .next s) ∧
    (∀ (i : Fin 64),
        exec (.watchCapture i) s = .next s) ∧
    (∀ (code : Half) (t : Fin 4) (source : Fin 3) (unit : Word) (detail : DWord),
        exec (.fatalError code t source unit detail) s = .next s)) ∧
  (∀ s : State, s.chip.usherRuns = false →
    (∀ (g : GalId) (cause : Fin 256),
        exec (.galleryFence g cause) s = .next s) ∧
    (∀ (side : AttnSide),
        exec (.attnQuery side) s = .next s) ∧
    (∀ (l : Fin 5),
        exec (.attnPartial l) s = .next s ∧ exec (.getresp l) s = .next s ∧ exec (.msg l) s = .next s ∧
        exec (.done l) s = .next s ∧ exec (.linkRetrainTimer l) s = .next s ∧ exec (.annexReply l) s = .next s ∧
        exec (.annexClose l) s = .next s ∧ exec (.weightAsk l) s = .next s) ∧
    (∀ (tag : DWord),
        exec (.attnPartialTimeout tag) s = .next s) ∧
    (∀ (phase : Fin 3),
        exec (.phasePolicyChange phase) s = .next s) ∧
    (exec .changeoverBegin s = .next s ∧ exec .closingTimeout s = .next s ∧ exec .movesComplete s = .next s ∧
        exec .priorityPreemption s = .next s ∧ exec .usherSpillPolicy s = .next s ∧ exec .ceDecay s = .next s ∧
        exec .galleryFault s = .next s ∧ exec .heartbeatMissed s = .next s ∧ exec .usherTakeover s = .next s) ∧
    (∀ (copies : List (Fin 16 × Fin 4)),
        exec (.epochClose copies) s = .next s) ∧
    (∀ (n : Nat),
        exec (.moveFlip n) s = .next s) ∧
    (∀ (lags : List (Fin 384 × Nat)),
        exec (.epochOpen lags) s = .next s ∧ exec (.rowTableForm lags) s = .next s) ∧
    (∀ (batch : Nat),
        exec (.stepResultsAccept batch) s = .next s ∧ exec (.ticketEnergyShare batch) s = .next s) ∧
    (∀ (t : Fin 4) (col : Fin 8) (jobid : Word) (entry : Byte),
        exec (.chanterFallbackStart t col jobid entry) s = .next s) ∧
    (∀ (sq : Fin 256) (good : Bool),
        exec (.admitCmd sq good) s = .next s ∧ exec (.feed sq good) s = .next s ∧ exec (.run sq good) s = .next s ∧
        exec (.fork sq good) s = .next s ∧ exec (.query sq good) s = .next s ∧ exec (.modelLoad sq good) s = .next s ∧
        exec (.adapterLoad sq good) s = .next s ∧ exec (.planSelect sq good) s = .next s ∧ exec (.negotiate sq good) s = .next s ∧
        exec (.journalRead sq good) s = .next s) ∧
    (∀ (w : Word),
        exec (.ticketBound w) s = .next s ∧ exec (.prefillDone w) s = .next s ∧ exec (.demotionStart w) s = .next s ∧
        exec (.spillCommit w) s = .next s ∧ exec (.recallCommit w) s = .next s ∧ exec (.forkTablesCopied w) s = .next s ∧
        exec (.recoveryStart w) s = .next s ∧ exec (.recoveryDone w) s = .next s ∧ exec (.ticketLost w) s = .next s ∧
        exec (.releaseComplete w) s = .next s) ∧
    (∀ (residue : Nat),
        exec (.runningSetAdmit residue) s = .next s) ∧
    (∀ (w : Word) (failed : List Nat),
        exec (.demotionEnd w failed) s = .next s) ∧
    (∀ (w : Word) (err : Bool),
        exec (.recallFail w err) s = .next s) ∧
    (∀ (sq : Fin 256),
        exec (.park sq) s = .next s ∧ exec (.release sq) s = .next s ∧ exec (.spill sq) s = .next s ∧
        exec (.recall sq) s = .next s ∧ exec (.modelUnload sq) s = .next s ∧ exec (.budgetSet sq) s = .next s) ∧
    (∀ (cq : Fin 256),
        exec (.cqFullNotice cq) s = .next s) ∧
    (∀ (width : Fin 5) (rate : Fin 6),
        exec (.pcieLinkDegraded width rate) s = .next s) ∧
    (∀ (l : Fin 5) (side : Option Byte),
        exec (.barrier l side) s = .next s) ∧
    (∀ (l : Fin 5) (tag : Half),
        exec (.linkRequestTimeout l tag) s = .next s ∧ exec (.msgBusyResend l tag) s = .next s) ∧
    (∀ (side : AnnexSide),
        exec (.annexOpen side) s = .next s) ∧
    (∀ (g : GalId) (v : Fin 16),
        exec (.vsetChange g v) s = .next s) ∧
    (∀ (t : Fin 4),
        exec (.errorLogScan t) s = .next s ∧ exec (.retirementStart t) s = .next s ∧ exec (.towerReset t) s = .next s) ∧
    (∀ (t : Fin 4) (index : Fin 8192),
        exec (.retirementMoveDone t index) s = .next s) ∧
    (∀ (m : Fin 8) (sid off : Nat) (partner : Option (Fin 5)),
        exec (.weightUe m sid off partner) s = .next s) ∧
    (∀ (t : Fin 4) (answers : Bool),
        exec (.towerFence t answers) s = .next s) ∧
    (∀ (i : Fin 64),
        exec (.watchCapture i) s = .next s) ∧
    (∀ (code : Half) (t : Fin 4) (source : Fin 3) (unit : Word) (detail : DWord),
        exec (.fatalError code t source unit detail) s = .next s))

/-- What the matrix and vector cores do stays in their gallery, and in their own core (R57, R72, R119, R125, R144, R172). -/
def Obligations.GalleryCommandsStayInTheirGallery : Prop :=
  (∀ (g : GalId) (i : Fin 2) (s t : State), ∀ c ∈ ([
      .vmov g i, .vadd g i, .vsub g i, .vmul g i, .vfma g i, .vmax g i, .vmin g i, .vabs g i,
      .vneg g i, .vcmp g i, .vcsel g i, .vselb g i, .viota g i, .vcvt g i, .viadd g i, .visub g i,
      .vimul g i, .viand g i, .vior g i, .vixor g i, .vishl g i, .vishr g i, .vicmp g i, .vexp g i,
      .vexp2 g i, .vlog g i, .vrcp g i, .vrsqrt g i, .vtanh g i, .vsigm g i, .vsilu g i, .vgelu g i,
      .vrot g i, .vrsum g i, .vrmax g i, .vrmin g i, .vramax g i, .vtopk g i, .vscan g i, .vcount g i,
      .vrankb g i, .vgather g i, .vscatter g i, .vgathere g i, .mlog g i, .mld g i, .mst g i, .mpopc g i,
      .vrand g i, .vsamp g i, .vsave g i, .vrestore g i] : List Instr),
    exec c s = .next t → s.OnlyGallery t (galKey g) ∧ t.chip.free = s.chip.free ∧ (s.chip.gal (galKey g)).OnlyVx (t.chip.gal (galKey g)) i.val) ∧
  (∀ (g : GalId) (svc : Option Desc) (tile : Fin 64) (row : Half) (inLoad : Bool) (flush : Fin 1025) (s t : State), ∀ c ∈ ([
      .mxLoad g, .mxStream g, .mxStreamg g, .mxStreamw g, .mxKloop g, .mxFlush g, .mxCfg g, .mxSave g,
      .mxRestore g, .mxPreemptionStop g, .mxServiceRun ⟨g, svc⟩,
      .mxStopDrained g tile row inLoad flush] : List Instr),
    exec c s = .next t → s.OnlyGallery t (galKey g) ∧ (s.chip.gal (galKey g)).OnlyMx (t.chip.gal (galKey g))) ∧
  (∀ (g : GalId) (s t : State), exec (.mxGo g) s = .next t → s.OnlyGallery t (galKey g) ∧
    let G := s.chip.gal (galKey g)
    (if s.chip.stopped = false ∧ s.chip.galOnline (galKey g) = true ∧ G.mx.stopped = true then G.timersResume s.chip.act else G).OnlyMx (t.chip.gal (galKey g)))

/-- An elementwise vector operation writes nothing but its destination (R148, R149, R151, R152, R153). -/
def Obligations.ElementwiseWritesOnlyItsDestination : Prop :=
  ∀ (g : GalId) (i : Fin 2) (s t : State) (e : QEntry), ∀ p ∈ ([
      (0x30, .vmov g i), (0x31, .vadd g i), (0x32, .vsub g i), (0x33, .vmul g i), (0x34, .vfma g i), (0x35, .vmax g i),
      (0x36, .vmin g i), (0x37, .vabs g i), (0x38, .vneg g i), (0x41, .visub g i), (0x42, .vimul g i), (0x43, .viand g i),
      (0x44, .vior g i), (0x45, .vixor g i), (0x46, .vishl g i), (0x47, .vishr g i)] : List (Nat × Instr)),
    s.chip.InFlight (galKey g) (1 + i.val) p.1 e → exec p.2 s = .next t →
    let x : VxRun := { core := i.val, d := e.desc, issue := e.index.toNat, c3 := srC3 (1 + i.val) s.chip.epoch }
    let G := s.chip.gal (galKey g)
    let H := t.chip.gal (galKey g)
    (∀ k : Nat, ¬ InVxReg x.dst k → (H.vx i.val).word k = (G.vx i.val).word k) ∧
    (∀ m : Nat, (H.vx i.val).mask m = (G.vx i.val).mask m) ∧
    (∀ a : Nat, (x.dst < 0xC ∨ ¬ x.Stores a) → Memory.byte H.spad a = Memory.byte G.spad a)

/-- Maximum, minimum, absolute value and negation of FP32 words (R153). -/
def Obligations.MinMaxAndSignRules : Prop :=
  (∀ a b : Word, isNaN32 a = true → isNaN32 b = true → fMax a b = nan32 ∧ fMin a b = nan32) ∧
  (∀ a b : Word, isNaN32 a = true → isNaN32 b = false → fMax a b = b ∧ fMin a b = b ∧ fMax b a = b ∧ fMin b a = b) ∧
  (∀ a b : Word, isNaN32 a = false → isNaN32 b = false →
    (fMax a b = a ∨ fMax a b = b) ∧ (fMin a b = a ∨ fMin a b = b) ∧
    fKey a ≤ fKey (fMax a b) ∧ fKey b ≤ fKey (fMax a b) ∧ fKey (fMin a b) ≤ fKey a ∧ fKey (fMin a b) ≤ fKey b) ∧
  fKey 0x80000000#32 < fKey 0#32 ∧
  (∀ a : Word, isNaN32 a = true → fAbs a = nan32 ∧ fNeg a = nan32) ∧
  (∀ a : Word, isNaN32 a = false → (∀ n : Nat, n < 32 →
    (fAbs a).getLsbD n = (a.getLsbD n && n != 31) ∧ (fNeg a).getLsbD n = (a.getLsbD n != (n == 31)))) ∧
  (∀ (g : GalId) (i : Fin 2) (s : State),
    exec (.vmax g i) s = s.onVx g i 0x35 (fun G x => G.vxMap2 x fMax) ∧ exec (.vmin g i) s = s.onVx g i 0x36 (fun G x => G.vxMap2 x fMin) ∧
    exec (.vabs g i) s = s.onVx g i 0x37 (fun G x => G.vxMap1 x fAbs) ∧ exec (.vneg g i) s = s.onVx g i 0x38 (fun G x => G.vxMap1 x fNeg))

/-- Trap entry sets TACT, MRET clears it, and a trap while TACT is set halts the core (R90). -/
def Obligations.TrapsEnterOnce : Prop :=
  ∀ (g : GalId) (errs : List GalUpset) (s : State), s.chip.CoreReady (galKey g) →
    let k := galKey g
    let c1 := errs.foldl (Chip.upset g) s.chip
    let G := c1.gal k
    let T := c1.trapping k
    (∃ n : Nat, T = { G.rngBeats n with hart := { G.hart with mcycle := G.hart.mcycle + BitVec.ofNat 64 n } }) ∧
    (∀ (len : Nat) (i : Rv) (cause tval : Word), fetchRv G.fetchHalf G.hart.pc.toNat = .ok (len, i) → rvExec G.hart i len = .trap cause tval →
      (∃ t : State, exec (.scalarInstruction ⟨g, errs⟩) s = .next t ∧
        (G.tact = false → t.chip.gal k = { T with hart := T.hart.trapEntry cause tval G.hart.pc, tact := true } ∧
          ∃ lgal : Nat, UsherMsg.trap k false lgal cause G.hart.pc tval G.gstep s.chip.epoch G.topRange ∈ t.chip.reports) ∧
        (G.tact = true → t.chip.gal k = { T with halt := true, waitAt := c1.act } ∧
          ∃ lgal : Nat, UsherMsg.trap k true lgal cause G.hart.pc tval G.gstep s.chip.epoch G.topRange ∈ t.chip.reports))) ∧
    (∃ t : State, exec (.mret g) s = .next t ∧ (t.chip.gal k).tact = false) ∧
    (∀ (len : Nat) (i : Rv) (cause tval : Word), fetchRv G.fetchHalf G.hart.pc.toNat = .ok (len, i) → rvExec G.hart i len = .trap cause tval →
      G.tact = false → 0x10000 ≤ G.hart.mtvec.toNat + 1 →
      ∃ t u : State, exec (.scalarInstruction ⟨g, errs⟩) s = .next t ∧ exec (.scalarInstruction ⟨g, []⟩) t = .next u ∧ (t.chip.gal k).tact = true ∧
        (u.chip.gal k).halt = true ∧ (u.chip.gal k).tact = true ∧
        (u.chip.gal k).hart = { (t.chip.gal k).hart with mcycle := (u.chip.gal k).hart.mcycle })

/-- A core parity error halts without the handler (R92). -/
def Obligations.CoreParityErrorHalts : Prop :=
  ∀ (g : GalId) (s : State), s.chip.GalWritable (galKey g) →
    let k := galKey g
    let G := s.chip.gal k
    (∃ t : State, exec (.coreParityError g none) s = .next t ∧
      t.chip = ((s.chip.setGal k { G.haltAt s.chip.act with dead := true }).report (.machineCheck k true 0)).galLog g 8 9 ∧
      (t.chip.gal k).halt = true ∧ (t.chip.gal k).hart = G.hart ∧ (t.chip.gal k).tact = G.tact ∧ .machineCheck k true 0 ∈ t.chip.reports ∧
      ∀ errs : List GalUpset, exec (.scalarInstruction ⟨g, errs⟩) t = .next t) ∧
    (∀ q : QueueId, ∃ t : State, exec (.coreParityError g (some q)) s = .next t ∧
      t.chip = ((s.chip.setGal k (G.setQueue (queueNum q) { G.queue (queueNum q) with halted := true })).report (.machineCheck k false (queueNum q))).galLog g 8 9 ∧
      (t.chip.gal k).queue (queueNum q) = { G.queue (queueNum q) with halted := true } ∧
      (t.chip.gal k).hart = G.hart ∧ (t.chip.gal k).tact = G.tact ∧ (t.chip.gal k).fault = G.fault ∧ t.chip.queueRuns k (queueNum q) = false ∧
      .machineCheck k false (queueNum q) ∈ t.chip.reports)

/-- A cold or power-on reset loses every session and starts at STATE = NONE (R318). -/
def Obligations.ColdResetLosesSessions : Prop :=
  ∀ s : State,
    (∃ t : State, exec .coldReset s = .next t ∧ t.chip.ush = UsherState.reset ∧ t.chip.dram = [] ∧
      (∀ i : Nat, t.chip.tkState i = 0) ∧ t.chip.epochState = 0) ∧
    (∀ board : Board, ∃ t : State, exec (.powerOnReset board) s = .next t ∧ t.chip.ush = UsherState.reset ∧ t.chip.dram = [] ∧
      (∀ i : Nat, t.chip.tkState i = 0) ∧ t.chip.epochState = 0)

/-- The time base restarts at a cold or power-on reset alone (R480, R534, R536, R540, R542, R543). -/
def Obligations.TimeBaseSurvivesResets : Prop :=
  ∀ s t : State,
    (∀ board : Board, exec (.powerOnReset board) s = .next t → t.chip.now = 0) ∧
    (exec .coldReset s = .next t → t.chip.now = 0) ∧
    (∀ (cold : Bool) (mx : List MxStand), ∀ c ∈ ([.whistle mx, .thermalStop, .resetInputRelease cold, .whistleReq, .whistleN, .whistleResume, .jtagWhistle, .jtagResume] : List Instr),
      exec c s = .next t → t.chip.now = s.chip.now ∧ t.chip.pllLocked = s.chip.pllLocked) ∧
    (s.chip.sys.bring.everSealed = true → ∀ (key : Half), ∀ c ∈ ([.warmReset, .warmrstN, .bringResetWarm key, .thermalResume] : List Instr),
      exec c s = .next t → t.chip.now = s.chip.now ∧ t.chip.pllLocked = s.chip.pllLocked)
end

