-- ==== Sys2Proof/Laws/Chanter.lean ====
section
/-! SUPPORT. What a word of the chanter extension does (R325 to R331): its fields, and one lemma for each of its opcodes. -/

namespace Sys2Proof.Laws

open Sys2Proof.Machine

/-- The six fields of an extension word are the operands it was made of. -/
theorem rWord_fields (op rd f3 rs1 rs2 f7 : Nat) (h0 : op < 128) (h1 : rd < 32) (h2 : f3 < 8) (h3 : rs1 < 32) (h4 : rs2 < 32) (h5 : f7 < 128) :
    field (rWord op rd f3 rs1 rs2 f7).toNat 0 7 = op ∧ field (rWord op rd f3 rs1 rs2 f7).toNat 7 5 = rd ∧
    field (rWord op rd f3 rs1 rs2 f7).toNat 12 3 = f3 ∧ field (rWord op rd f3 rs1 rs2 f7).toNat 15 5 = rs1 ∧
    field (rWord op rd f3 rs1 rs2 f7).toNat 20 5 = rs2 ∧ field (rWord op rd f3 rs1 rs2 f7).toNat 25 7 = f7 := by
  simp only [rWord, BitVec.toNat_ofNat, field]
  omega

/-- A word that the extension takes is what happens at pc. -/
theorem chWord_of_some {c c' : Chip} {k i : Nat} {w : Word} (hr : c.chRuns k i = true) (h : c.chCustom k i w = some c') :
    c.chWord k i w = c' := by
  unfold Chip.chWord; rw [if_pos hr, h]

/-- A word that the extension does not know raises the illegal-instruction exception. -/
theorem chWord_of_none {c : Chip} {k i : Nat} {w : Word} (h : c.chCustom k i w = none) : c.chWord k i w = c.chTrap k i 2 w := by
  unfold Chip.chWord; rw [h]; split <;> simp_all

/-- Outside a job every word of the extension raises the illegal-instruction exception (R325). -/
theorem chWord_idle {c : Chip} {k i : Nat} {w : Word} (hr : c.chRuns k i = false) : c.chWord k i w = c.chTrap k i 2 w := by
  unfold Chip.chWord; simp [hr]

/-- A SIMD word with a legal operation on registers that no read in flight will write. -/
theorem chCustom_simd (c : Chip) (k i : Nat) (n : Word) (v : BitVec 128) (h : field n.toNat 0 7 = 0x2B)
    (hv : simdOp (field n.toNat 12 3) (field n.toNat 25 7) ((c.chanter k i).qreg (field n.toNat 15 5))
      ((c.chanter k i).qreg (field n.toNat 20 5)) ((c.chanter k i).qreg (field n.toNat 7 5)) = some v)
    (b1 : (c.chanter k i).qBusy (field n.toNat 7 5) = false) (b2 : (c.chanter k i).qBusy (field n.toNat 15 5) = false)
    (b3 : (c.chanter k i).qBusy (field n.toNat 20 5) = false) :
    c.chCustom k i n = some (c.setChanter k i ((c.chanter k i).doneQ (field n.toNat 7 5) v (if field n.toNat 12 3 = 3 then 2 else 1))) := by
  unfold Chip.chCustom
  dsimp only
  rw [if_neg (by omega), if_pos h, hv]
  simp [b1, b2, b3]

/-- A SIMD word with an illegal operation. -/
theorem chCustom_simd_illegal (c : Chip) (k i : Nat) (n : Word) (h : field n.toNat 0 7 = 0x2B)
    (hv : simdOp (field n.toNat 12 3) (field n.toNat 25 7) ((c.chanter k i).qreg (field n.toNat 15 5))
      ((c.chanter k i).qreg (field n.toNat 20 5)) ((c.chanter k i).qreg (field n.toNat 7 5)) = none) : c.chCustom k i n = none := by
  unfold Chip.chCustom
  dsimp only
  rw [if_neg (by omega), if_pos h, hv]

/-- A SIMD command's word, legal and waiting for nothing. -/
theorem chWord_simd (c : Chip) (k i rd w rs1 rs2 f7 : Nat) (h1 : rd < 32) (h2 : w < 8) (h3 : rs1 < 32) (h4 : rs2 < 32) (h5 : f7 < 128) (v : BitVec 128)
    (hv : simdOp w f7 ((c.chanter k i).qreg rs1) ((c.chanter k i).qreg rs2) ((c.chanter k i).qreg rd) = some v)
    (b1 : (c.chanter k i).qBusy rd = false) (b2 : (c.chanter k i).qBusy rs1 = false) (b3 : (c.chanter k i).qBusy rs2 = false)
    (hr : c.chRuns k i = true) :
    c.chWord k i (rWord 0x2B rd w rs1 rs2 f7) = c.setChanter k i ((c.chanter k i).doneQ rd v (if w = 3 then 2 else 1)) := by
  obtain ⟨e0, e1, e2, e3, e4, e5⟩ := rWord_fields 0x2B rd w rs1 rs2 f7 (by omega) h1 h2 h3 h4 h5
  generalize rWord 0x2B rd w rs1 rs2 f7 = n at *
  subst e1 e2 e3 e4 e5
  exact chWord_of_some hr (chCustom_simd c k i n v e0 hv b1 b2 b3)

/-- A SIMD command's word with an operation its width does not have. -/
theorem chWord_simd_illegal (c : Chip) (k i rd w rs1 rs2 f7 : Nat) (h1 : rd < 32) (h2 : w < 8) (h3 : rs1 < 32) (h4 : rs2 < 32) (h5 : f7 < 128)
    (hv : simdOp w f7 ((c.chanter k i).qreg rs1) ((c.chanter k i).qreg rs2) ((c.chanter k i).qreg rd) = none) :
    c.chWord k i (rWord 0x2B rd w rs1 rs2 f7) = c.chTrap k i 2 (rWord 0x2B rd w rs1 rs2 f7) := by
  obtain ⟨e0, e1, e2, e3, e4, e5⟩ := rWord_fields 0x2B rd w rs1 rs2 f7 (by omega) h1 h2 h3 h4 h5
  generalize rWord 0x2B rd w rs1 rs2 f7 = n at *
  subst e1 e2 e3 e4 e5
  exact chWord_of_none (chCustom_simd_illegal c k i n e0 hv)

/-- QINS: a scalar register into a lane of a register that no read in flight will write. -/
theorem chCustom_qins (c : Chip) (k i : Nat) (n : Word) (e0 : field n.toNat 0 7 = 0x5B) (a : field n.toNat 12 3 = 0) (b : field n.toNat 20 5 = 0)
    (d : field n.toNat 25 7 < 4) (b1 : (c.chanter k i).qBusy (field n.toNat 7 5) = false) :
    c.chCustom k i n = some (c.setChanter k i ((c.chanter k i).doneQ (field n.toNat 7 5) (BitVec.ofNat 128
      (setField ((c.chanter k i).qreg (field n.toNat 7 5)).toNat (32 * field n.toNat 25 7) 32 ((c.chanter k i).hart.get (field n.toNat 15 5)).toNat)) 1)) := by
  unfold Chip.chCustom
  dsimp only
  rw [if_neg (by omega), if_neg (by omega), if_pos e0]
  simp only [a]
  rw [if_neg (by omega), b1]
  rfl

/-- QEXT: a lane into a scalar register. -/
theorem chCustom_qext (c : Chip) (k i : Nat) (n : Word) (e0 : field n.toNat 0 7 = 0x5B) (a : field n.toNat 12 3 = 1) (b : field n.toNat 20 5 = 0)
    (d : field n.toNat 25 7 < 4) (b1 : (c.chanter k i).qBusy (field n.toNat 15 5) = false) :
    c.chCustom k i n = some (c.setChanter k i ((c.chanter k i).doneX (field n.toNat 7 5)
      (BitVec.ofNat 32 (field ((c.chanter k i).qreg (field n.toNat 15 5)).toNat (32 * field n.toNat 25 7) 32)) 1)) := by
  unfold Chip.chCustom
  dsimp only
  rw [if_neg (by omega), if_neg (by omega), if_pos e0]
  simp only [a]
  rw [if_neg (by omega), b1]
  rfl

/-- QCVT with a legal configuration, on groups that no read in flight will write (R330). -/
theorem chCustom_qcvt (c : Chip) (k i : Nat) (n : Word) (j : Job) (e0 : field n.toNat 0 7 = 0x5B) (a : field n.toNat 12 3 = 2) (d : field n.toNat 25 7 = 0)
    (hj : (c.chanter k i).job = some j)
    (ok : qcvtOk (field (c.chanter k i).qcvtcfg.toNat 0 4) (field (c.chanter k i).qcvtcfg.toNat 4 4) (field n.toNat 7 5) (field n.toNat 15 5)
      (bitOf (c.chanter k i).qcvtcfg.toNat 9) = true)
    (b : ∀ m : Nat, (c.chanter k i).qBusy m = false) :
    c.chCustom k i n = some (c.setChanter k i (((c.chanter k i).qcvt (field n.toNat 7 5) (field n.toNat 15 5)
      (((c.chanter k i).hart.get (field n.toNat 20 5)).toNat % 256) j.id j.epoch).done 4)) := by
  unfold Chip.chCustom
  dsimp only
  rw [if_neg (by omega), if_neg (by omega), if_pos e0]
  simp only [a]
  rw [if_neg (by simp [d, ok]), hj]
  simp only [b]
  rw [if_neg (by simp)]

/-- QCRC (R331). -/
theorem chCustom_qcrc (c : Chip) (k i : Nat) (n : Word) (e0 : field n.toNat 0 7 = 0x5B) (a : field n.toNat 12 3 = 3) (d : field n.toNat 25 7 = 0)
    (b1 : (c.chanter k i).qBusy (field n.toNat 20 5) = false) :
    c.chCustom k i n = some (c.setChanter k i ((c.chanter k i).doneX (field n.toNat 7 5)
      (BitVec.ofNat 32 (crc32c ((c.chanter k i).hart.get (field n.toNat 15 5)).toNat (leBytes 16 ((c.chanter k i).qreg (field n.toNat 20 5)).toNat))) 2)) := by
  unfold Chip.chCustom
  dsimp only
  rw [if_neg (by omega), if_neg (by omega), if_pos e0]
  simp only [a]
  rw [if_neg (by omega), b1]
  rfl

/-- QPGEN (R331). -/
theorem chCustom_qpgen (c : Chip) (k i : Nat) (n : Word) (e0 : field n.toNat 0 7 = 0x5B) (a : field n.toNat 12 3 = 4) (d : field n.toNat 25 7 = 0)
    (b1 : (c.chanter k i).qBusy (field n.toNat 7 5) = false) :
    c.chCustom k i n = some (c.setChanter k i ((c.chanter k i).doneQ (field n.toNat 7 5)
      (qOf 32 (philox (c.chanter k i).pgkey0.toNat (c.chanter k i).pgkey1.toNat ((c.chanter k i).hart.get (field n.toNat 15 5)).toNat
        ((c.chanter k i).hart.get (field n.toNat 20 5)).toNat 0 0)) 2)) := by
  unfold Chip.chCustom
  dsimp only
  rw [if_neg (by omega), if_neg (by omega), if_pos e0]
  simp only [a]
  rw [if_neg (by omega), b1]
  rfl

/-- LDL of an aligned line into a group that no read in flight will write, with a free place (R326). -/
theorem chCustom_ldl (c : Chip) (k i : Nat) (n : Word) (e0 : field n.toNat 0 7 = 0x0B) (e5 : field n.toNat 25 7 = 0) (a : field n.toNat 12 3 = 0)
    (b : field n.toNat 20 5 = 0) (d : field n.toNat 7 5 % 4 = 0) (al : ((c.chanter k i).hart.get (field n.toNat 15 5)).toNat % 64 = 0)
    (hl : ((c.copiesOn k i).chanter k i).ops.length < 32) (hb : ∀ j < 4, (c.chanter k i).qBusy (field n.toNat 7 5 + j) = false) :
    c.chCustom k i n = some (((c.copiesOn k i).opIssue k i (lineAddr (c.chanter k i).cseg ((c.chanter k i).hart.get (field n.toNat 15 5)) / 64)
      (.read (field n.toNat 7 5))).onChanter k i fun x => x.done 1) := by
  have hq : (List.range 4).any (fun j => (c.chanter k i).qBusy (field n.toNat 7 5 + j)) = false := by
    rw [List.any_eq_false]; intro j hj; simp [hb j (List.mem_range.mp hj)]
  unfold Chip.chCustom
  dsimp only
  rw [if_pos ⟨e0, e5⟩]
  simp only [a]
  rw [if_neg (by omega), if_neg (by omega), if_neg (by rw [hq]; simpa using hl)]

/-- STL of a group that no read in flight will write, with a free place (R326). -/
theorem chCustom_stl (c : Chip) (k i : Nat) (n : Word) (e0 : field n.toNat 0 7 = 0x0B) (e5 : field n.toNat 25 7 = 0) (a : field n.toNat 12 3 = 1)
    (b : field n.toNat 7 5 = 0) (d : field n.toNat 20 5 % 4 = 0) (al : ((c.chanter k i).hart.get (field n.toNat 15 5)).toNat % 64 = 0)
    (hl : ((c.copiesOn k i).chanter k i).ops.length < 32) (hb : ∀ j < 4, (c.chanter k i).qBusy (field n.toNat 20 5 + j) = false) :
    c.chCustom k i n = some (((c.copiesOn k i).opIssue k i (lineAddr (c.chanter k i).cseg ((c.chanter k i).hart.get (field n.toNat 15 5)) / 64)
      (.write (BitVec.ofNat 512 ((List.range 4).foldr (fun j acc => ((c.chanter k i).qreg (field n.toNat 20 5 + j)).toNat + 2 ^ 128 * acc) 0)))).onChanter k i
        fun x => x.done 1) := by
  have hq : (List.range 4).any (fun j => (c.chanter k i).qBusy (field n.toNat 20 5 + j)) = false := by
    rw [List.any_eq_false]; intro j hj; simp [hb j (List.mem_range.mp hj)]
  unfold Chip.chCustom
  dsimp only
  rw [if_pos ⟨e0, e5⟩]
  simp only [a]
  rw [if_neg (by omega), if_neg (by omega), if_neg (by rw [hq]; simpa using hl)]

/-- PCOPY of aligned lines that stay in one tower each (R328). -/
theorem chCustom_pcopy (c : Chip) (k i : Nat) (n : Word) (e0 : field n.toNat 0 7 = 0x0B) (e5 : field n.toNat 25 7 = 0) (a : field n.toNat 12 3 = 2)
    (b : field n.toNat 7 5 = 0) (al : ((c.chanter k i).hart.get (field n.toNat 15 5)).toNat % 64 = 0)
    (bl : ((c.chanter k i).hart.get (field n.toNat 20 5)).toNat % 64 = 0) :
    let x := c.chanter k i
    let src := lineAddr x.cseg (x.hart.get (field n.toNat 15 5)) / 64
    let dst := lineAddr x.csegd (x.hart.get (field n.toNat 20 5)) / 64
    let cnt := x.cpcnt.toNat
    lineTower src = lineTower (src + cnt - 1) → lineTower dst = lineTower (dst + cnt - 1) →
    c.chCustom k i n = some ((((c.copiesOn k i).setChanter k i
      { x.done 1 with copies := (x.done 1).copies ++ (List.range cnt).map fun j => (src + j, dst + j) })).copiesOn k i) := by
  intro x src dst cnt h1 h2
  unfold Chip.chCustom
  dsimp only
  rw [if_pos ⟨e0, e5⟩]
  simp only [a]
  rw [if_neg (by omega), if_neg (by omega), if_neg (by omega)]
  rw [if_neg (by simp only [x, src, dst, cnt] at h1 h2; simp [h1, h2])]

/-- FENCEL with nothing in flight (R327). -/
theorem chCustom_fencel (c : Chip) (k i : Nat) (n : Word) (e0 : field n.toNat 0 7 = 0x0B) (e5 : field n.toNat 25 7 = 0) (a : field n.toNat 12 3 = 3)
    (b : field n.toNat 15 5 = 0) (d : field n.toNat 20 5 = 0) (hd : (c.copiesOn k i).chDrained k i = true) :
    c.chCustom k i n = some ((c.copiesOn k i).onChanter k i fun x =>
      { (x.doneX (field n.toNat 7 5) (x.stat.setWidth 32) 1) with stat := 0, ops := [] }) := by
  unfold Chip.chCustom
  dsimp only
  rw [if_pos ⟨e0, e5⟩]
  simp only [a]
  rw [if_neg (by omega), if_pos hd]

/-- JDONE with nothing in flight (R332). -/
theorem chCustom_jdone (c : Chip) (k i : Nat) (n : Word) (e0 : field n.toNat 0 7 = 0x0B) (e5 : field n.toNat 25 7 = 0) (a : field n.toNat 12 3 = 4)
    (b : field n.toNat 7 5 = 0) (d : field n.toNat 20 5 = 0) (hd : (c.copiesOn k i).chDrained k i = true) :
    c.chCustom k i n = some (((c.copiesOn k i).onChanter k i fun x => x.done 1).jobEnd k i 0 ((c.chanter k i).hart.get (field n.toNat 15 5)).toNat) := by
  unfold Chip.chCustom
  dsimp only
  rw [if_pos ⟨e0, e5⟩]
  simp only [a]
  rw [if_neg (by omega), if_pos hd]

end Sys2Proof.Laws
end

