-- ==== Sys2Proof/Laws/Exec.lean ====
section
/-! SUPPORT. The shapes that meanings share: what each of them does where its condition holds, and that it changes nothing where the condition fails. -/

namespace Sys2Proof.Laws

open Sys2Proof.Machine

variable (s : State)

/-- A meaning of the plain shape answers a next state with the same queue. -/
theorem onChip_next (f : Chip → Chip) : s.onChip f = .next { s with chip := f s.chip } := rfl

/-- Two states are one when their queues and modules are. -/
theorem state_eta : ({ s with chip := s.chip } : State) = s := rfl

theorem onLive_runs (f : Chip → Chip) (h : s.chip.stopped = false) : s.onLive f = .next { s with chip := f s.chip } := by
  simp [State.onLive, State.onChip, h]

theorem onLive_held (f : Chip → Chip) (h : s.chip.stopped = true) : s.onLive f = .next s := by simp [State.onLive, State.onChip, h]

theorem onUsher_runs (f : Chip → Chip) (h : s.chip.usherRuns = true) : s.onUsher f = .next { s with chip := f s.chip } := by
  simp [State.onUsher, State.onChip, h]

theorem onUsher_held (f : Chip → Chip) (h : s.chip.usherRuns = false) : s.onUsher f = .next s := by simp [State.onUsher, State.onChip, h]

theorem onTicket_live (w : Word) (f : Chip → Nat → Chip) (i : Nat) (h : s.chip.usherRuns = true) (hi : s.chip.liveIdx w = some i) :
    s.onTicket w f = .next { s with chip := (f (s.chip.mend i) i).settle } := by
  simp [State.onTicket, State.onUsher, State.onChip, h, hi]

theorem onTicket_dead (w : Word) (f : Chip → Nat → Chip) (hi : s.chip.liveIdx w = none) : s.onTicket w f = .next s := by
  simp [State.onTicket, State.onUsher, State.onChip, hi]

theorem onQueue_runs (g : GalId) (q : Nat) (f : Chip → Nat → Chip) (h : s.chip.queueRuns (galKey g) q = true) :
    s.onQueue g q f = .next { s with chip := f s.chip (galKey g) } := by
  simp [State.onQueue, State.onChip, h]

theorem onQueue_held (g : GalId) (q : Nat) (f : Chip → Nat → Chip) (h : s.chip.queueRuns (galKey g) q = false) : s.onQueue g q f = .next s := by
  simp [State.onQueue, State.onChip, h]

theorem onInstr_runs (g : GalId) (f : Chip → Nat → Chip) (h : s.chip.galRuns (galKey g) = true) (hi : (s.chip.gal (galKey g)).irq = false)
    (hw : (s.chip.gal (galKey g)).waiting = none) : s.onInstr g f = .next { s with chip := f s.chip (galKey g) } := by
  simp [State.onInstr, State.onChip, Chip.galInstr, h, hi, hw]

theorem onInstr_interrupt (g : GalId) (f : Chip → Nat → Chip) (h : s.chip.galRuns (galKey g) = true) (hi : (s.chip.gal (galKey g)).irq = true) :
    s.onInstr g f = .next { s with chip := s.chip.galTrap (galKey g) 0x80000010#32 0 } := by
  simp [State.onInstr, State.onChip, Chip.galInstr, h, hi]

theorem onInstr_held (g : GalId) (f : Chip → Nat → Chip) (h : s.chip.galRuns (galKey g) = false) : s.onInstr g f = .next s := by
  simp [State.onInstr, State.onChip, Chip.galInstr, h]

theorem onWait_runs (g : GalId) (f : Chip → Nat → Chip) (h : s.chip.stopped = false) (hl : (s.chip.gal (galKey g)).live = true)
    (hd : (s.chip.gal (galKey g)).dead = false) : s.onWait g f = .next { s with chip := f s.chip (galKey g) } := by
  simp [State.onWait, State.onChip, h, hl, hd]

theorem onWait_held (g : GalId) (f : Chip → Nat → Chip) (h : (s.chip.gal (galKey g)).live = false) : s.onWait g f = .next s := by
  simp [State.onWait, State.onChip, h]

theorem onGalReg_runs (g : GalId) (f : Gallery → Gallery) (h : s.chip.stopped = false) (hg : s.chip.galOnline (galKey g) = true) :
    s.onGalReg g f = .next { s with chip := s.chip.onGal (galKey g) f } := by
  simp [State.onGalReg, State.onLive, State.onChip, h, hg]

theorem onGalReg_off (g : GalId) (f : Gallery → Gallery) (hg : s.chip.galOnline (galKey g) = false) : s.onGalReg g f = .next s := by
  simp [State.onGalReg, State.onLive, State.onChip, hg]

theorem onChanter_runs (x : ChanterId) (free : Bool) (f : Chip → Nat → Nat → Chip) (h : s.chip.chRuns (clKey x.cluster) x.ch.val = true) :
    s.onChanter x free f = .next { s with chip := f s.chip (clKey x.cluster) x.ch.val } := by
  simp [State.onChanter, State.onChip, h]

theorem onChanter_held (x : ChanterId) (f : Chip → Nat → Nat → Chip) (h : s.chip.chRuns (clKey x.cluster) x.ch.val = false) :
    s.onChanter x false f = .next s := by
  simp [State.onChanter, State.onChip, h]

/-- A chanter without a job takes what its boot ROM may (R352). -/
theorem onChanter_idle (x : ChanterId) (f : Chip → Nat → Nat → Chip) (h : s.chip.chIdle (clKey x.cluster) x.ch.val = true) :
    s.onChanter x true f = .next { s with chip := f s.chip (clKey x.cluster) x.ch.val } := by
  simp [State.onChanter, State.onChip, h]

theorem onHostWrite_served (f : Chip → Chip) (h : s.chip.isSealed = true) (hs : s.chip.stopped = false) : s.onHostWrite f = .next { s with chip := f s.chip } := by
  simp [State.onHostWrite, State.onChip, h, hs]

theorem onHostWrite_unserved (f : Chip → Chip) (h : s.chip.isSealed = false) : s.onHostWrite f = .next s := by simp [State.onHostWrite, State.onChip, h]

theorem onHostWrite_counted (f : Chip → Chip) (h : s.chip.isSealed = true) (hs : s.chip.stopped = true) :
    s.onHostWrite f = .next { s with chip := s.chip.bump Reg.wstat 16 16 1 } := by
  simp [State.onHostWrite, State.onChip, h, hs]

/-- A host command row: the command at the head of its queue is taken, and what may take effect does. -/
theorem takeHost_runs (q : Fin 256) (good : Bool) (ok : Line → Bool) (h : s.chip.usherRuns = true) :
    s.takeHost q good ok = .next { s with chip := (s.chip.takeCmd q.val (fun e => ok e || !opcKnown (entryOpc e)) good).settle } := by
  simp [State.takeHost, State.onUsher, State.onChip, h]

theorem onStep_starts (n : Nat) (fails : Chip → List StepFail) (work : Chip → Chip) (h : s.chip.stepMay n = true) (hf : fails s.chip = []) :
    s.onStep n fails work = .next { s with chip := work (s.chip.stepBegin n []) } := by
  simp [State.onStep, State.onChip, h, hf]

theorem onStep_refused (n : Nat) (fails : Chip → List StepFail) (work : Chip → Chip) (h : s.chip.stepMay n = false) :
    s.onStep n fails work = .next { s with chip := s.chip.stepErr } := by
  simp [State.onStep, State.onChip, h]

theorem onJtag_runs (ir : Byte) (f : Chip → Chip) (h : s.chip.inReset = false) (ht : s.chip.sys.pins.trst = true) :
    s.onJtag ir f = .next { s with chip := f (s.chip.tap ir) } := by
  simp [State.onJtag, State.onChip, h, ht]

/-- With TRST_N low the TAP stays in Test-Logic-Reset (R580). -/
theorem onJtag_held (ir : Byte) (f : Chip → Chip) (h : s.chip.inReset = false) (ht : s.chip.sys.pins.trst = false) : s.onJtag ir f = .next { s with chip := s.chip.tapHeld } := by
  simp [State.onJtag, State.onChip, h, ht]

/-- A step takes the command at the front of the queue. -/
theorem step_cons (c : Instr) (rest : List Instr) (h : s.pending = c :: rest) : step s = exec c { s with pending := rest } := by
  simp [step, h]

/-- A step with nothing queued is a tick. -/
theorem step_nil (h : s.pending = []) : step s = .next { s with chip := s.chip.tick } := by simp [step, h]

end Sys2Proof.Laws
end

