-- ==== Sys2Proof/Laws/State.lean ====
section
/-! SUPPORT. What each named update of the module leaves alone: one lemma for each field of the module and each update that does not write it. -/

namespace Sys2Proof.Laws

open Sys2Proof.Machine

variable (c : Chip)

@[simp] theorem wr_part (o v : Nat) : (c.wr o v).part = c.part := rfl
@[simp] theorem wr_now (o v : Nat) : (c.wr o v).now = c.now := rfl
@[simp] theorem wr_pllLocked (o v : Nat) : (c.wr o v).pllLocked = c.pllLocked := rfl
@[simp] theorem wr_free (o v : Nat) : (c.wr o v).free = c.free := rfl
@[simp] theorem wr_fuses (o v : Nat) : (c.wr o v).fuses = c.fuses := rfl
@[simp] theorem wr_latch (o v : Nat) : (c.wr o v).latch = c.latch := rfl
@[simp] theorem wr_gals (o v : Nat) : (c.wr o v).gals = c.gals := rfl
@[simp] theorem wr_flight (o v : Nat) : (c.wr o v).flight = c.flight := rfl
@[simp] theorem wr_rsigs (o v : Nat) : (c.wr o v).rsigs = c.rsigs := rfl
@[simp] theorem wr_flows (o v : Nat) : (c.wr o v).flows = c.flows := rfl
@[simp] theorem wr_reports (o v : Nat) : (c.wr o v).reports = c.reports := rfl
@[simp] theorem wr_dram (o v : Nat) : (c.wr o v).dram = c.dram := rfl
@[simp] theorem wr_mem (o v : Nat) : (c.wr o v).mem = c.mem := rfl
@[simp] theorem wr_chc (o v : Nat) : (c.wr o v).chc = c.chc := rfl
@[simp] theorem wr_opSeq (o v : Nat) : (c.wr o v).opSeq = c.opSeq := rfl
@[simp] theorem wr_hostMem (o v : Nat) : (c.wr o v).hostMem = c.hostMem := rfl
@[simp] theorem wr_host (o v : Nat) : (c.wr o v).host = c.host := rfl
@[simp] theorem wr_sys (o v : Nat) : (c.wr o v).sys = c.sys := rfl
@[simp] theorem wr_ush (o v : Nat) : (c.wr o v).ush = c.ush := rfl
@[simp] theorem wr_lk (o v : Nat) : (c.wr o v).lk = c.lk := rfl
@[simp] theorem wr_dbg (o v : Nat) : (c.wr o v).dbg = c.dbg := rfl

@[simp] theorem wrF_part (o lo n v : Nat) : (c.wrF o lo n v).part = c.part := rfl
@[simp] theorem wrF_now (o lo n v : Nat) : (c.wrF o lo n v).now = c.now := rfl
@[simp] theorem wrF_pllLocked (o lo n v : Nat) : (c.wrF o lo n v).pllLocked = c.pllLocked := rfl
@[simp] theorem wrF_free (o lo n v : Nat) : (c.wrF o lo n v).free = c.free := rfl
@[simp] theorem wrF_fuses (o lo n v : Nat) : (c.wrF o lo n v).fuses = c.fuses := rfl
@[simp] theorem wrF_latch (o lo n v : Nat) : (c.wrF o lo n v).latch = c.latch := rfl
@[simp] theorem wrF_gals (o lo n v : Nat) : (c.wrF o lo n v).gals = c.gals := rfl
@[simp] theorem wrF_flight (o lo n v : Nat) : (c.wrF o lo n v).flight = c.flight := rfl
@[simp] theorem wrF_rsigs (o lo n v : Nat) : (c.wrF o lo n v).rsigs = c.rsigs := rfl
@[simp] theorem wrF_flows (o lo n v : Nat) : (c.wrF o lo n v).flows = c.flows := rfl
@[simp] theorem wrF_reports (o lo n v : Nat) : (c.wrF o lo n v).reports = c.reports := rfl
@[simp] theorem wrF_dram (o lo n v : Nat) : (c.wrF o lo n v).dram = c.dram := rfl
@[simp] theorem wrF_mem (o lo n v : Nat) : (c.wrF o lo n v).mem = c.mem := rfl
@[simp] theorem wrF_chc (o lo n v : Nat) : (c.wrF o lo n v).chc = c.chc := rfl
@[simp] theorem wrF_opSeq (o lo n v : Nat) : (c.wrF o lo n v).opSeq = c.opSeq := rfl
@[simp] theorem wrF_hostMem (o lo n v : Nat) : (c.wrF o lo n v).hostMem = c.hostMem := rfl
@[simp] theorem wrF_host (o lo n v : Nat) : (c.wrF o lo n v).host = c.host := rfl
@[simp] theorem wrF_sys (o lo n v : Nat) : (c.wrF o lo n v).sys = c.sys := rfl
@[simp] theorem wrF_ush (o lo n v : Nat) : (c.wrF o lo n v).ush = c.ush := rfl
@[simp] theorem wrF_lk (o lo n v : Nat) : (c.wrF o lo n v).lk = c.lk := rfl
@[simp] theorem wrF_dbg (o lo n v : Nat) : (c.wrF o lo n v).dbg = c.dbg := rfl

@[simp] theorem bump_part (o lo n v : Nat) : (c.bump o lo n v).part = c.part := rfl
@[simp] theorem bump_now (o lo n v : Nat) : (c.bump o lo n v).now = c.now := rfl
@[simp] theorem bump_pllLocked (o lo n v : Nat) : (c.bump o lo n v).pllLocked = c.pllLocked := rfl
@[simp] theorem bump_free (o lo n v : Nat) : (c.bump o lo n v).free = c.free := rfl
@[simp] theorem bump_fuses (o lo n v : Nat) : (c.bump o lo n v).fuses = c.fuses := rfl
@[simp] theorem bump_latch (o lo n v : Nat) : (c.bump o lo n v).latch = c.latch := rfl
@[simp] theorem bump_gals (o lo n v : Nat) : (c.bump o lo n v).gals = c.gals := rfl
@[simp] theorem bump_flight (o lo n v : Nat) : (c.bump o lo n v).flight = c.flight := rfl
@[simp] theorem bump_rsigs (o lo n v : Nat) : (c.bump o lo n v).rsigs = c.rsigs := rfl
@[simp] theorem bump_flows (o lo n v : Nat) : (c.bump o lo n v).flows = c.flows := rfl
@[simp] theorem bump_reports (o lo n v : Nat) : (c.bump o lo n v).reports = c.reports := rfl
@[simp] theorem bump_dram (o lo n v : Nat) : (c.bump o lo n v).dram = c.dram := rfl
@[simp] theorem bump_mem (o lo n v : Nat) : (c.bump o lo n v).mem = c.mem := rfl
@[simp] theorem bump_chc (o lo n v : Nat) : (c.bump o lo n v).chc = c.chc := rfl
@[simp] theorem bump_opSeq (o lo n v : Nat) : (c.bump o lo n v).opSeq = c.opSeq := rfl
@[simp] theorem bump_hostMem (o lo n v : Nat) : (c.bump o lo n v).hostMem = c.hostMem := rfl
@[simp] theorem bump_host (o lo n v : Nat) : (c.bump o lo n v).host = c.host := rfl
@[simp] theorem bump_sys (o lo n v : Nat) : (c.bump o lo n v).sys = c.sys := rfl
@[simp] theorem bump_ush (o lo n v : Nat) : (c.bump o lo n v).ush = c.ush := rfl
@[simp] theorem bump_lk (o lo n v : Nat) : (c.bump o lo n v).lk = c.lk := rfl
@[simp] theorem bump_dbg (o lo n v : Nat) : (c.bump o lo n v).dbg = c.dbg := rfl

@[simp] theorem unlatch_part (o : Nat) : (c.unlatch o).part = c.part := rfl
@[simp] theorem unlatch_now (o : Nat) : (c.unlatch o).now = c.now := rfl
@[simp] theorem unlatch_pllLocked (o : Nat) : (c.unlatch o).pllLocked = c.pllLocked := rfl
@[simp] theorem unlatch_free (o : Nat) : (c.unlatch o).free = c.free := rfl
@[simp] theorem unlatch_regs (o : Nat) : (c.unlatch o).regs = c.regs := rfl
@[simp] theorem unlatch_fuses (o : Nat) : (c.unlatch o).fuses = c.fuses := rfl
@[simp] theorem unlatch_gals (o : Nat) : (c.unlatch o).gals = c.gals := rfl
@[simp] theorem unlatch_flight (o : Nat) : (c.unlatch o).flight = c.flight := rfl
@[simp] theorem unlatch_rsigs (o : Nat) : (c.unlatch o).rsigs = c.rsigs := rfl
@[simp] theorem unlatch_flows (o : Nat) : (c.unlatch o).flows = c.flows := rfl
@[simp] theorem unlatch_reports (o : Nat) : (c.unlatch o).reports = c.reports := rfl
@[simp] theorem unlatch_dram (o : Nat) : (c.unlatch o).dram = c.dram := rfl
@[simp] theorem unlatch_mem (o : Nat) : (c.unlatch o).mem = c.mem := rfl
@[simp] theorem unlatch_chc (o : Nat) : (c.unlatch o).chc = c.chc := rfl
@[simp] theorem unlatch_opSeq (o : Nat) : (c.unlatch o).opSeq = c.opSeq := rfl
@[simp] theorem unlatch_hostMem (o : Nat) : (c.unlatch o).hostMem = c.hostMem := rfl
@[simp] theorem unlatch_host (o : Nat) : (c.unlatch o).host = c.host := rfl
@[simp] theorem unlatch_sys (o : Nat) : (c.unlatch o).sys = c.sys := rfl
@[simp] theorem unlatch_ush (o : Nat) : (c.unlatch o).ush = c.ush := rfl
@[simp] theorem unlatch_lk (o : Nat) : (c.unlatch o).lk = c.lk := rfl
@[simp] theorem unlatch_dbg (o : Nat) : (c.unlatch o).dbg = c.dbg := rfl

@[simp] theorem setGal_part (k : Nat) (g : Gallery) : (c.setGal k g).part = c.part := rfl
@[simp] theorem setGal_now (k : Nat) (g : Gallery) : (c.setGal k g).now = c.now := rfl
@[simp] theorem setGal_pllLocked (k : Nat) (g : Gallery) : (c.setGal k g).pllLocked = c.pllLocked := rfl
@[simp] theorem setGal_free (k : Nat) (g : Gallery) : (c.setGal k g).free = c.free := rfl
@[simp] theorem setGal_regs (k : Nat) (g : Gallery) : (c.setGal k g).regs = c.regs := rfl
@[simp] theorem setGal_fuses (k : Nat) (g : Gallery) : (c.setGal k g).fuses = c.fuses := rfl
@[simp] theorem setGal_latch (k : Nat) (g : Gallery) : (c.setGal k g).latch = c.latch := rfl
@[simp] theorem setGal_flight (k : Nat) (g : Gallery) : (c.setGal k g).flight = c.flight := rfl
@[simp] theorem setGal_rsigs (k : Nat) (g : Gallery) : (c.setGal k g).rsigs = c.rsigs := rfl
@[simp] theorem setGal_flows (k : Nat) (g : Gallery) : (c.setGal k g).flows = c.flows := rfl
@[simp] theorem setGal_reports (k : Nat) (g : Gallery) : (c.setGal k g).reports = c.reports := rfl
@[simp] theorem setGal_dram (k : Nat) (g : Gallery) : (c.setGal k g).dram = c.dram := rfl
@[simp] theorem setGal_mem (k : Nat) (g : Gallery) : (c.setGal k g).mem = c.mem := rfl
@[simp] theorem setGal_chc (k : Nat) (g : Gallery) : (c.setGal k g).chc = c.chc := rfl
@[simp] theorem setGal_opSeq (k : Nat) (g : Gallery) : (c.setGal k g).opSeq = c.opSeq := rfl
@[simp] theorem setGal_hostMem (k : Nat) (g : Gallery) : (c.setGal k g).hostMem = c.hostMem := rfl
@[simp] theorem setGal_host (k : Nat) (g : Gallery) : (c.setGal k g).host = c.host := rfl
@[simp] theorem setGal_sys (k : Nat) (g : Gallery) : (c.setGal k g).sys = c.sys := rfl
@[simp] theorem setGal_ush (k : Nat) (g : Gallery) : (c.setGal k g).ush = c.ush := rfl
@[simp] theorem setGal_lk (k : Nat) (g : Gallery) : (c.setGal k g).lk = c.lk := rfl
@[simp] theorem setGal_dbg (k : Nat) (g : Gallery) : (c.setGal k g).dbg = c.dbg := rfl

@[simp] theorem onGal_part (k : Nat) (f : Gallery → Gallery) : (c.onGal k f).part = c.part := rfl
@[simp] theorem onGal_now (k : Nat) (f : Gallery → Gallery) : (c.onGal k f).now = c.now := rfl
@[simp] theorem onGal_pllLocked (k : Nat) (f : Gallery → Gallery) : (c.onGal k f).pllLocked = c.pllLocked := rfl
@[simp] theorem onGal_free (k : Nat) (f : Gallery → Gallery) : (c.onGal k f).free = c.free := rfl
@[simp] theorem onGal_regs (k : Nat) (f : Gallery → Gallery) : (c.onGal k f).regs = c.regs := rfl
@[simp] theorem onGal_fuses (k : Nat) (f : Gallery → Gallery) : (c.onGal k f).fuses = c.fuses := rfl
@[simp] theorem onGal_latch (k : Nat) (f : Gallery → Gallery) : (c.onGal k f).latch = c.latch := rfl
@[simp] theorem onGal_flight (k : Nat) (f : Gallery → Gallery) : (c.onGal k f).flight = c.flight := rfl
@[simp] theorem onGal_rsigs (k : Nat) (f : Gallery → Gallery) : (c.onGal k f).rsigs = c.rsigs := rfl
@[simp] theorem onGal_flows (k : Nat) (f : Gallery → Gallery) : (c.onGal k f).flows = c.flows := rfl
@[simp] theorem onGal_reports (k : Nat) (f : Gallery → Gallery) : (c.onGal k f).reports = c.reports := rfl
@[simp] theorem onGal_dram (k : Nat) (f : Gallery → Gallery) : (c.onGal k f).dram = c.dram := rfl
@[simp] theorem onGal_mem (k : Nat) (f : Gallery → Gallery) : (c.onGal k f).mem = c.mem := rfl
@[simp] theorem onGal_chc (k : Nat) (f : Gallery → Gallery) : (c.onGal k f).chc = c.chc := rfl
@[simp] theorem onGal_opSeq (k : Nat) (f : Gallery → Gallery) : (c.onGal k f).opSeq = c.opSeq := rfl
@[simp] theorem onGal_hostMem (k : Nat) (f : Gallery → Gallery) : (c.onGal k f).hostMem = c.hostMem := rfl
@[simp] theorem onGal_host (k : Nat) (f : Gallery → Gallery) : (c.onGal k f).host = c.host := rfl
@[simp] theorem onGal_sys (k : Nat) (f : Gallery → Gallery) : (c.onGal k f).sys = c.sys := rfl
@[simp] theorem onGal_ush (k : Nat) (f : Gallery → Gallery) : (c.onGal k f).ush = c.ush := rfl
@[simp] theorem onGal_lk (k : Nat) (f : Gallery → Gallery) : (c.onGal k f).lk = c.lk := rfl
@[simp] theorem onGal_dbg (k : Nat) (f : Gallery → Gallery) : (c.onGal k f).dbg = c.dbg := rfl

@[simp] theorem report_part (m : UsherMsg) : (c.report m).part = c.part := rfl
@[simp] theorem report_now (m : UsherMsg) : (c.report m).now = c.now := rfl
@[simp] theorem report_pllLocked (m : UsherMsg) : (c.report m).pllLocked = c.pllLocked := rfl
@[simp] theorem report_free (m : UsherMsg) : (c.report m).free = c.free := rfl
@[simp] theorem report_regs (m : UsherMsg) : (c.report m).regs = c.regs := rfl
@[simp] theorem report_fuses (m : UsherMsg) : (c.report m).fuses = c.fuses := rfl
@[simp] theorem report_latch (m : UsherMsg) : (c.report m).latch = c.latch := rfl
@[simp] theorem report_gals (m : UsherMsg) : (c.report m).gals = c.gals := rfl
@[simp] theorem report_flight (m : UsherMsg) : (c.report m).flight = c.flight := rfl
@[simp] theorem report_rsigs (m : UsherMsg) : (c.report m).rsigs = c.rsigs := rfl
@[simp] theorem report_flows (m : UsherMsg) : (c.report m).flows = c.flows := rfl
@[simp] theorem report_dram (m : UsherMsg) : (c.report m).dram = c.dram := rfl
@[simp] theorem report_mem (m : UsherMsg) : (c.report m).mem = c.mem := rfl
@[simp] theorem report_chc (m : UsherMsg) : (c.report m).chc = c.chc := rfl
@[simp] theorem report_opSeq (m : UsherMsg) : (c.report m).opSeq = c.opSeq := rfl
@[simp] theorem report_hostMem (m : UsherMsg) : (c.report m).hostMem = c.hostMem := rfl
@[simp] theorem report_host (m : UsherMsg) : (c.report m).host = c.host := rfl
@[simp] theorem report_sys (m : UsherMsg) : (c.report m).sys = c.sys := rfl
@[simp] theorem report_ush (m : UsherMsg) : (c.report m).ush = c.ush := rfl
@[simp] theorem report_lk (m : UsherMsg) : (c.report m).lk = c.lk := rfl
@[simp] theorem report_dbg (m : UsherMsg) : (c.report m).dbg = c.dbg := rfl

@[simp] theorem onBring_part (f : BringState → BringState) : (c.onBring f).part = c.part := rfl
@[simp] theorem onBring_now (f : BringState → BringState) : (c.onBring f).now = c.now := rfl
@[simp] theorem onBring_pllLocked (f : BringState → BringState) : (c.onBring f).pllLocked = c.pllLocked := rfl
@[simp] theorem onBring_free (f : BringState → BringState) : (c.onBring f).free = c.free := rfl
@[simp] theorem onBring_regs (f : BringState → BringState) : (c.onBring f).regs = c.regs := rfl
@[simp] theorem onBring_fuses (f : BringState → BringState) : (c.onBring f).fuses = c.fuses := rfl
@[simp] theorem onBring_latch (f : BringState → BringState) : (c.onBring f).latch = c.latch := rfl
@[simp] theorem onBring_gals (f : BringState → BringState) : (c.onBring f).gals = c.gals := rfl
@[simp] theorem onBring_flight (f : BringState → BringState) : (c.onBring f).flight = c.flight := rfl
@[simp] theorem onBring_rsigs (f : BringState → BringState) : (c.onBring f).rsigs = c.rsigs := rfl
@[simp] theorem onBring_flows (f : BringState → BringState) : (c.onBring f).flows = c.flows := rfl
@[simp] theorem onBring_reports (f : BringState → BringState) : (c.onBring f).reports = c.reports := rfl
@[simp] theorem onBring_dram (f : BringState → BringState) : (c.onBring f).dram = c.dram := rfl
@[simp] theorem onBring_mem (f : BringState → BringState) : (c.onBring f).mem = c.mem := rfl
@[simp] theorem onBring_chc (f : BringState → BringState) : (c.onBring f).chc = c.chc := rfl
@[simp] theorem onBring_opSeq (f : BringState → BringState) : (c.onBring f).opSeq = c.opSeq := rfl
@[simp] theorem onBring_hostMem (f : BringState → BringState) : (c.onBring f).hostMem = c.hostMem := rfl
@[simp] theorem onBring_host (f : BringState → BringState) : (c.onBring f).host = c.host := rfl
@[simp] theorem onBring_ush (f : BringState → BringState) : (c.onBring f).ush = c.ush := rfl
@[simp] theorem onBring_lk (f : BringState → BringState) : (c.onBring f).lk = c.lk := rfl
@[simp] theorem onBring_dbg (f : BringState → BringState) : (c.onBring f).dbg = c.dbg := rfl

@[simp] theorem onPins_part (f : PinState → PinState) : (c.onPins f).part = c.part := rfl
@[simp] theorem onPins_now (f : PinState → PinState) : (c.onPins f).now = c.now := rfl
@[simp] theorem onPins_pllLocked (f : PinState → PinState) : (c.onPins f).pllLocked = c.pllLocked := rfl
@[simp] theorem onPins_free (f : PinState → PinState) : (c.onPins f).free = c.free := rfl
@[simp] theorem onPins_regs (f : PinState → PinState) : (c.onPins f).regs = c.regs := rfl
@[simp] theorem onPins_fuses (f : PinState → PinState) : (c.onPins f).fuses = c.fuses := rfl
@[simp] theorem onPins_latch (f : PinState → PinState) : (c.onPins f).latch = c.latch := rfl
@[simp] theorem onPins_gals (f : PinState → PinState) : (c.onPins f).gals = c.gals := rfl
@[simp] theorem onPins_flight (f : PinState → PinState) : (c.onPins f).flight = c.flight := rfl
@[simp] theorem onPins_rsigs (f : PinState → PinState) : (c.onPins f).rsigs = c.rsigs := rfl
@[simp] theorem onPins_flows (f : PinState → PinState) : (c.onPins f).flows = c.flows := rfl
@[simp] theorem onPins_reports (f : PinState → PinState) : (c.onPins f).reports = c.reports := rfl
@[simp] theorem onPins_dram (f : PinState → PinState) : (c.onPins f).dram = c.dram := rfl
@[simp] theorem onPins_mem (f : PinState → PinState) : (c.onPins f).mem = c.mem := rfl
@[simp] theorem onPins_chc (f : PinState → PinState) : (c.onPins f).chc = c.chc := rfl
@[simp] theorem onPins_opSeq (f : PinState → PinState) : (c.onPins f).opSeq = c.opSeq := rfl
@[simp] theorem onPins_hostMem (f : PinState → PinState) : (c.onPins f).hostMem = c.hostMem := rfl
@[simp] theorem onPins_host (f : PinState → PinState) : (c.onPins f).host = c.host := rfl
@[simp] theorem onPins_ush (f : PinState → PinState) : (c.onPins f).ush = c.ush := rfl
@[simp] theorem onPins_lk (f : PinState → PinState) : (c.onPins f).lk = c.lk := rfl
@[simp] theorem onPins_dbg (f : PinState → PinState) : (c.onPins f).dbg = c.dbg := rfl

@[simp] theorem onPower_part (f : PowerState → PowerState) : (c.onPower f).part = c.part := rfl
@[simp] theorem onPower_now (f : PowerState → PowerState) : (c.onPower f).now = c.now := rfl
@[simp] theorem onPower_pllLocked (f : PowerState → PowerState) : (c.onPower f).pllLocked = c.pllLocked := rfl
@[simp] theorem onPower_free (f : PowerState → PowerState) : (c.onPower f).free = c.free := rfl
@[simp] theorem onPower_regs (f : PowerState → PowerState) : (c.onPower f).regs = c.regs := rfl
@[simp] theorem onPower_fuses (f : PowerState → PowerState) : (c.onPower f).fuses = c.fuses := rfl
@[simp] theorem onPower_latch (f : PowerState → PowerState) : (c.onPower f).latch = c.latch := rfl
@[simp] theorem onPower_gals (f : PowerState → PowerState) : (c.onPower f).gals = c.gals := rfl
@[simp] theorem onPower_flight (f : PowerState → PowerState) : (c.onPower f).flight = c.flight := rfl
@[simp] theorem onPower_rsigs (f : PowerState → PowerState) : (c.onPower f).rsigs = c.rsigs := rfl
@[simp] theorem onPower_flows (f : PowerState → PowerState) : (c.onPower f).flows = c.flows := rfl
@[simp] theorem onPower_reports (f : PowerState → PowerState) : (c.onPower f).reports = c.reports := rfl
@[simp] theorem onPower_dram (f : PowerState → PowerState) : (c.onPower f).dram = c.dram := rfl
@[simp] theorem onPower_mem (f : PowerState → PowerState) : (c.onPower f).mem = c.mem := rfl
@[simp] theorem onPower_chc (f : PowerState → PowerState) : (c.onPower f).chc = c.chc := rfl
@[simp] theorem onPower_opSeq (f : PowerState → PowerState) : (c.onPower f).opSeq = c.opSeq := rfl
@[simp] theorem onPower_hostMem (f : PowerState → PowerState) : (c.onPower f).hostMem = c.hostMem := rfl
@[simp] theorem onPower_host (f : PowerState → PowerState) : (c.onPower f).host = c.host := rfl
@[simp] theorem onPower_ush (f : PowerState → PowerState) : (c.onPower f).ush = c.ush := rfl
@[simp] theorem onPower_lk (f : PowerState → PowerState) : (c.onPower f).lk = c.lk := rfl
@[simp] theorem onPower_dbg (f : PowerState → PowerState) : (c.onPower f).dbg = c.dbg := rfl

@[simp] theorem onRas_part (f : RasState → RasState) : (c.onRas f).part = c.part := rfl
@[simp] theorem onRas_now (f : RasState → RasState) : (c.onRas f).now = c.now := rfl
@[simp] theorem onRas_pllLocked (f : RasState → RasState) : (c.onRas f).pllLocked = c.pllLocked := rfl
@[simp] theorem onRas_free (f : RasState → RasState) : (c.onRas f).free = c.free := rfl
@[simp] theorem onRas_regs (f : RasState → RasState) : (c.onRas f).regs = c.regs := rfl
@[simp] theorem onRas_fuses (f : RasState → RasState) : (c.onRas f).fuses = c.fuses := rfl
@[simp] theorem onRas_latch (f : RasState → RasState) : (c.onRas f).latch = c.latch := rfl
@[simp] theorem onRas_gals (f : RasState → RasState) : (c.onRas f).gals = c.gals := rfl
@[simp] theorem onRas_flight (f : RasState → RasState) : (c.onRas f).flight = c.flight := rfl
@[simp] theorem onRas_rsigs (f : RasState → RasState) : (c.onRas f).rsigs = c.rsigs := rfl
@[simp] theorem onRas_flows (f : RasState → RasState) : (c.onRas f).flows = c.flows := rfl
@[simp] theorem onRas_reports (f : RasState → RasState) : (c.onRas f).reports = c.reports := rfl
@[simp] theorem onRas_dram (f : RasState → RasState) : (c.onRas f).dram = c.dram := rfl
@[simp] theorem onRas_mem (f : RasState → RasState) : (c.onRas f).mem = c.mem := rfl
@[simp] theorem onRas_chc (f : RasState → RasState) : (c.onRas f).chc = c.chc := rfl
@[simp] theorem onRas_opSeq (f : RasState → RasState) : (c.onRas f).opSeq = c.opSeq := rfl
@[simp] theorem onRas_hostMem (f : RasState → RasState) : (c.onRas f).hostMem = c.hostMem := rfl
@[simp] theorem onRas_host (f : RasState → RasState) : (c.onRas f).host = c.host := rfl
@[simp] theorem onRas_ush (f : RasState → RasState) : (c.onRas f).ush = c.ush := rfl
@[simp] theorem onRas_lk (f : RasState → RasState) : (c.onRas f).lk = c.lk := rfl
@[simp] theorem onRas_dbg (f : RasState → RasState) : (c.onRas f).dbg = c.dbg := rfl

@[simp] theorem onUsh_part (f : UsherState → UsherState) : (c.onUsh f).part = c.part := rfl
@[simp] theorem onUsh_now (f : UsherState → UsherState) : (c.onUsh f).now = c.now := rfl
@[simp] theorem onUsh_pllLocked (f : UsherState → UsherState) : (c.onUsh f).pllLocked = c.pllLocked := rfl
@[simp] theorem onUsh_free (f : UsherState → UsherState) : (c.onUsh f).free = c.free := rfl
@[simp] theorem onUsh_regs (f : UsherState → UsherState) : (c.onUsh f).regs = c.regs := rfl
@[simp] theorem onUsh_fuses (f : UsherState → UsherState) : (c.onUsh f).fuses = c.fuses := rfl
@[simp] theorem onUsh_latch (f : UsherState → UsherState) : (c.onUsh f).latch = c.latch := rfl
@[simp] theorem onUsh_gals (f : UsherState → UsherState) : (c.onUsh f).gals = c.gals := rfl
@[simp] theorem onUsh_flight (f : UsherState → UsherState) : (c.onUsh f).flight = c.flight := rfl
@[simp] theorem onUsh_rsigs (f : UsherState → UsherState) : (c.onUsh f).rsigs = c.rsigs := rfl
@[simp] theorem onUsh_flows (f : UsherState → UsherState) : (c.onUsh f).flows = c.flows := rfl
@[simp] theorem onUsh_reports (f : UsherState → UsherState) : (c.onUsh f).reports = c.reports := rfl
@[simp] theorem onUsh_dram (f : UsherState → UsherState) : (c.onUsh f).dram = c.dram := rfl
@[simp] theorem onUsh_mem (f : UsherState → UsherState) : (c.onUsh f).mem = c.mem := rfl
@[simp] theorem onUsh_chc (f : UsherState → UsherState) : (c.onUsh f).chc = c.chc := rfl
@[simp] theorem onUsh_opSeq (f : UsherState → UsherState) : (c.onUsh f).opSeq = c.opSeq := rfl
@[simp] theorem onUsh_hostMem (f : UsherState → UsherState) : (c.onUsh f).hostMem = c.hostMem := rfl
@[simp] theorem onUsh_host (f : UsherState → UsherState) : (c.onUsh f).host = c.host := rfl
@[simp] theorem onUsh_sys (f : UsherState → UsherState) : (c.onUsh f).sys = c.sys := rfl
@[simp] theorem onUsh_lk (f : UsherState → UsherState) : (c.onUsh f).lk = c.lk := rfl
@[simp] theorem onUsh_dbg (f : UsherState → UsherState) : (c.onUsh f).dbg = c.dbg := rfl

@[simp] theorem setSq_part (q : Nat) (v : SqState) : (c.setSq q v).part = c.part := rfl
@[simp] theorem setSq_now (q : Nat) (v : SqState) : (c.setSq q v).now = c.now := rfl
@[simp] theorem setSq_pllLocked (q : Nat) (v : SqState) : (c.setSq q v).pllLocked = c.pllLocked := rfl
@[simp] theorem setSq_free (q : Nat) (v : SqState) : (c.setSq q v).free = c.free := rfl
@[simp] theorem setSq_regs (q : Nat) (v : SqState) : (c.setSq q v).regs = c.regs := rfl
@[simp] theorem setSq_fuses (q : Nat) (v : SqState) : (c.setSq q v).fuses = c.fuses := rfl
@[simp] theorem setSq_latch (q : Nat) (v : SqState) : (c.setSq q v).latch = c.latch := rfl
@[simp] theorem setSq_gals (q : Nat) (v : SqState) : (c.setSq q v).gals = c.gals := rfl
@[simp] theorem setSq_flight (q : Nat) (v : SqState) : (c.setSq q v).flight = c.flight := rfl
@[simp] theorem setSq_rsigs (q : Nat) (v : SqState) : (c.setSq q v).rsigs = c.rsigs := rfl
@[simp] theorem setSq_flows (q : Nat) (v : SqState) : (c.setSq q v).flows = c.flows := rfl
@[simp] theorem setSq_reports (q : Nat) (v : SqState) : (c.setSq q v).reports = c.reports := rfl
@[simp] theorem setSq_dram (q : Nat) (v : SqState) : (c.setSq q v).dram = c.dram := rfl
@[simp] theorem setSq_mem (q : Nat) (v : SqState) : (c.setSq q v).mem = c.mem := rfl
@[simp] theorem setSq_chc (q : Nat) (v : SqState) : (c.setSq q v).chc = c.chc := rfl
@[simp] theorem setSq_opSeq (q : Nat) (v : SqState) : (c.setSq q v).opSeq = c.opSeq := rfl
@[simp] theorem setSq_hostMem (q : Nat) (v : SqState) : (c.setSq q v).hostMem = c.hostMem := rfl
@[simp] theorem setSq_sys (q : Nat) (v : SqState) : (c.setSq q v).sys = c.sys := rfl
@[simp] theorem setSq_ush (q : Nat) (v : SqState) : (c.setSq q v).ush = c.ush := rfl
@[simp] theorem setSq_lk (q : Nat) (v : SqState) : (c.setSq q v).lk = c.lk := rfl
@[simp] theorem setSq_dbg (q : Nat) (v : SqState) : (c.setSq q v).dbg = c.dbg := rfl

@[simp] theorem setCq_part (q : Nat) (v : CqState) : (c.setCq q v).part = c.part := rfl
@[simp] theorem setCq_now (q : Nat) (v : CqState) : (c.setCq q v).now = c.now := rfl
@[simp] theorem setCq_pllLocked (q : Nat) (v : CqState) : (c.setCq q v).pllLocked = c.pllLocked := rfl
@[simp] theorem setCq_free (q : Nat) (v : CqState) : (c.setCq q v).free = c.free := rfl
@[simp] theorem setCq_regs (q : Nat) (v : CqState) : (c.setCq q v).regs = c.regs := rfl
@[simp] theorem setCq_fuses (q : Nat) (v : CqState) : (c.setCq q v).fuses = c.fuses := rfl
@[simp] theorem setCq_latch (q : Nat) (v : CqState) : (c.setCq q v).latch = c.latch := rfl
@[simp] theorem setCq_gals (q : Nat) (v : CqState) : (c.setCq q v).gals = c.gals := rfl
@[simp] theorem setCq_flight (q : Nat) (v : CqState) : (c.setCq q v).flight = c.flight := rfl
@[simp] theorem setCq_rsigs (q : Nat) (v : CqState) : (c.setCq q v).rsigs = c.rsigs := rfl
@[simp] theorem setCq_flows (q : Nat) (v : CqState) : (c.setCq q v).flows = c.flows := rfl
@[simp] theorem setCq_reports (q : Nat) (v : CqState) : (c.setCq q v).reports = c.reports := rfl
@[simp] theorem setCq_dram (q : Nat) (v : CqState) : (c.setCq q v).dram = c.dram := rfl
@[simp] theorem setCq_mem (q : Nat) (v : CqState) : (c.setCq q v).mem = c.mem := rfl
@[simp] theorem setCq_chc (q : Nat) (v : CqState) : (c.setCq q v).chc = c.chc := rfl
@[simp] theorem setCq_opSeq (q : Nat) (v : CqState) : (c.setCq q v).opSeq = c.opSeq := rfl
@[simp] theorem setCq_hostMem (q : Nat) (v : CqState) : (c.setCq q v).hostMem = c.hostMem := rfl
@[simp] theorem setCq_sys (q : Nat) (v : CqState) : (c.setCq q v).sys = c.sys := rfl
@[simp] theorem setCq_ush (q : Nat) (v : CqState) : (c.setCq q v).ush = c.ush := rfl
@[simp] theorem setCq_lk (q : Nat) (v : CqState) : (c.setCq q v).lk = c.lk := rfl
@[simp] theorem setCq_dbg (q : Nat) (v : CqState) : (c.setCq q v).dbg = c.dbg := rfl

@[simp] theorem barAnswer_part (a : BarAnswer) : (c.barAnswer a).part = c.part := rfl
@[simp] theorem barAnswer_now (a : BarAnswer) : (c.barAnswer a).now = c.now := rfl
@[simp] theorem barAnswer_pllLocked (a : BarAnswer) : (c.barAnswer a).pllLocked = c.pllLocked := rfl
@[simp] theorem barAnswer_free (a : BarAnswer) : (c.barAnswer a).free = c.free := rfl
@[simp] theorem barAnswer_regs (a : BarAnswer) : (c.barAnswer a).regs = c.regs := rfl
@[simp] theorem barAnswer_fuses (a : BarAnswer) : (c.barAnswer a).fuses = c.fuses := rfl
@[simp] theorem barAnswer_latch (a : BarAnswer) : (c.barAnswer a).latch = c.latch := rfl
@[simp] theorem barAnswer_gals (a : BarAnswer) : (c.barAnswer a).gals = c.gals := rfl
@[simp] theorem barAnswer_flight (a : BarAnswer) : (c.barAnswer a).flight = c.flight := rfl
@[simp] theorem barAnswer_rsigs (a : BarAnswer) : (c.barAnswer a).rsigs = c.rsigs := rfl
@[simp] theorem barAnswer_flows (a : BarAnswer) : (c.barAnswer a).flows = c.flows := rfl
@[simp] theorem barAnswer_reports (a : BarAnswer) : (c.barAnswer a).reports = c.reports := rfl
@[simp] theorem barAnswer_dram (a : BarAnswer) : (c.barAnswer a).dram = c.dram := rfl
@[simp] theorem barAnswer_mem (a : BarAnswer) : (c.barAnswer a).mem = c.mem := rfl
@[simp] theorem barAnswer_chc (a : BarAnswer) : (c.barAnswer a).chc = c.chc := rfl
@[simp] theorem barAnswer_opSeq (a : BarAnswer) : (c.barAnswer a).opSeq = c.opSeq := rfl
@[simp] theorem barAnswer_hostMem (a : BarAnswer) : (c.barAnswer a).hostMem = c.hostMem := rfl
@[simp] theorem barAnswer_sys (a : BarAnswer) : (c.barAnswer a).sys = c.sys := rfl
@[simp] theorem barAnswer_ush (a : BarAnswer) : (c.barAnswer a).ush = c.ush := rfl
@[simp] theorem barAnswer_lk (a : BarAnswer) : (c.barAnswer a).lk = c.lk := rfl
@[simp] theorem barAnswer_dbg (a : BarAnswer) : (c.barAnswer a).dbg = c.dbg := rfl

@[simp] theorem setCluster_part (k : Nat) (x : Cluster) : (c.setCluster k x).part = c.part := rfl
@[simp] theorem setCluster_now (k : Nat) (x : Cluster) : (c.setCluster k x).now = c.now := rfl
@[simp] theorem setCluster_pllLocked (k : Nat) (x : Cluster) : (c.setCluster k x).pllLocked = c.pllLocked := rfl
@[simp] theorem setCluster_free (k : Nat) (x : Cluster) : (c.setCluster k x).free = c.free := rfl
@[simp] theorem setCluster_fuses (k : Nat) (x : Cluster) : (c.setCluster k x).fuses = c.fuses := rfl
@[simp] theorem setCluster_latch (k : Nat) (x : Cluster) : (c.setCluster k x).latch = c.latch := rfl
@[simp] theorem setCluster_gals (k : Nat) (x : Cluster) : (c.setCluster k x).gals = c.gals := rfl
@[simp] theorem setCluster_flight (k : Nat) (x : Cluster) : (c.setCluster k x).flight = c.flight := rfl
@[simp] theorem setCluster_rsigs (k : Nat) (x : Cluster) : (c.setCluster k x).rsigs = c.rsigs := rfl
@[simp] theorem setCluster_flows (k : Nat) (x : Cluster) : (c.setCluster k x).flows = c.flows := rfl
@[simp] theorem setCluster_reports (k : Nat) (x : Cluster) : (c.setCluster k x).reports = c.reports := rfl
@[simp] theorem setCluster_dram (k : Nat) (x : Cluster) : (c.setCluster k x).dram = c.dram := rfl
@[simp] theorem setCluster_mem (k : Nat) (x : Cluster) : (c.setCluster k x).mem = c.mem := rfl
@[simp] theorem setCluster_opSeq (k : Nat) (x : Cluster) : (c.setCluster k x).opSeq = c.opSeq := rfl
@[simp] theorem setCluster_hostMem (k : Nat) (x : Cluster) : (c.setCluster k x).hostMem = c.hostMem := rfl
@[simp] theorem setCluster_host (k : Nat) (x : Cluster) : (c.setCluster k x).host = c.host := rfl
@[simp] theorem setCluster_sys (k : Nat) (x : Cluster) : (c.setCluster k x).sys = c.sys := rfl
@[simp] theorem setCluster_ush (k : Nat) (x : Cluster) : (c.setCluster k x).ush = c.ush := rfl
@[simp] theorem setCluster_lk (k : Nat) (x : Cluster) : (c.setCluster k x).lk = c.lk := rfl
@[simp] theorem setCluster_dbg (k : Nat) (x : Cluster) : (c.setCluster k x).dbg = c.dbg := rfl

@[simp] theorem setChanter_part (k i : Nat) (x : Chanter) : (c.setChanter k i x).part = c.part := rfl
@[simp] theorem setChanter_now (k i : Nat) (x : Chanter) : (c.setChanter k i x).now = c.now := rfl
@[simp] theorem setChanter_pllLocked (k i : Nat) (x : Chanter) : (c.setChanter k i x).pllLocked = c.pllLocked := rfl
@[simp] theorem setChanter_free (k i : Nat) (x : Chanter) : (c.setChanter k i x).free = c.free := rfl
@[simp] theorem setChanter_fuses (k i : Nat) (x : Chanter) : (c.setChanter k i x).fuses = c.fuses := rfl
@[simp] theorem setChanter_latch (k i : Nat) (x : Chanter) : (c.setChanter k i x).latch = c.latch := rfl
@[simp] theorem setChanter_gals (k i : Nat) (x : Chanter) : (c.setChanter k i x).gals = c.gals := rfl
@[simp] theorem setChanter_flight (k i : Nat) (x : Chanter) : (c.setChanter k i x).flight = c.flight := rfl
@[simp] theorem setChanter_rsigs (k i : Nat) (x : Chanter) : (c.setChanter k i x).rsigs = c.rsigs := rfl
@[simp] theorem setChanter_flows (k i : Nat) (x : Chanter) : (c.setChanter k i x).flows = c.flows := rfl
@[simp] theorem setChanter_reports (k i : Nat) (x : Chanter) : (c.setChanter k i x).reports = c.reports := rfl
@[simp] theorem setChanter_dram (k i : Nat) (x : Chanter) : (c.setChanter k i x).dram = c.dram := rfl
@[simp] theorem setChanter_mem (k i : Nat) (x : Chanter) : (c.setChanter k i x).mem = c.mem := rfl
@[simp] theorem setChanter_opSeq (k i : Nat) (x : Chanter) : (c.setChanter k i x).opSeq = c.opSeq := rfl
@[simp] theorem setChanter_hostMem (k i : Nat) (x : Chanter) : (c.setChanter k i x).hostMem = c.hostMem := rfl
@[simp] theorem setChanter_host (k i : Nat) (x : Chanter) : (c.setChanter k i x).host = c.host := rfl
@[simp] theorem setChanter_sys (k i : Nat) (x : Chanter) : (c.setChanter k i x).sys = c.sys := rfl
@[simp] theorem setChanter_ush (k i : Nat) (x : Chanter) : (c.setChanter k i x).ush = c.ush := rfl
@[simp] theorem setChanter_lk (k i : Nat) (x : Chanter) : (c.setChanter k i x).lk = c.lk := rfl
@[simp] theorem setChanter_dbg (k i : Nat) (x : Chanter) : (c.setChanter k i x).dbg = c.dbg := rfl

@[simp] theorem setWay_part (k : Nat) (w : Option CacheWay) : (c.setWay k w).part = c.part := rfl
@[simp] theorem setWay_now (k : Nat) (w : Option CacheWay) : (c.setWay k w).now = c.now := rfl
@[simp] theorem setWay_pllLocked (k : Nat) (w : Option CacheWay) : (c.setWay k w).pllLocked = c.pllLocked := rfl
@[simp] theorem setWay_free (k : Nat) (w : Option CacheWay) : (c.setWay k w).free = c.free := rfl
@[simp] theorem setWay_fuses (k : Nat) (w : Option CacheWay) : (c.setWay k w).fuses = c.fuses := rfl
@[simp] theorem setWay_latch (k : Nat) (w : Option CacheWay) : (c.setWay k w).latch = c.latch := rfl
@[simp] theorem setWay_gals (k : Nat) (w : Option CacheWay) : (c.setWay k w).gals = c.gals := rfl
@[simp] theorem setWay_flight (k : Nat) (w : Option CacheWay) : (c.setWay k w).flight = c.flight := rfl
@[simp] theorem setWay_rsigs (k : Nat) (w : Option CacheWay) : (c.setWay k w).rsigs = c.rsigs := rfl
@[simp] theorem setWay_flows (k : Nat) (w : Option CacheWay) : (c.setWay k w).flows = c.flows := rfl
@[simp] theorem setWay_reports (k : Nat) (w : Option CacheWay) : (c.setWay k w).reports = c.reports := rfl
@[simp] theorem setWay_dram (k : Nat) (w : Option CacheWay) : (c.setWay k w).dram = c.dram := rfl
@[simp] theorem setWay_chc (k : Nat) (w : Option CacheWay) : (c.setWay k w).chc = c.chc := rfl
@[simp] theorem setWay_opSeq (k : Nat) (w : Option CacheWay) : (c.setWay k w).opSeq = c.opSeq := rfl
@[simp] theorem setWay_hostMem (k : Nat) (w : Option CacheWay) : (c.setWay k w).hostMem = c.hostMem := rfl
@[simp] theorem setWay_host (k : Nat) (w : Option CacheWay) : (c.setWay k w).host = c.host := rfl
@[simp] theorem setWay_sys (k : Nat) (w : Option CacheWay) : (c.setWay k w).sys = c.sys := rfl
@[simp] theorem setWay_ush (k : Nat) (w : Option CacheWay) : (c.setWay k w).ush = c.ush := rfl
@[simp] theorem setWay_lk (k : Nat) (w : Option CacheWay) : (c.setWay k w).lk = c.lk := rfl
@[simp] theorem setWay_dbg (k : Nat) (w : Option CacheWay) : (c.setWay k w).dbg = c.dbg := rfl

@[simp] theorem touch_part (k : Nat) (b : Bool) : (c.touch k b).part = c.part := rfl
@[simp] theorem touch_now (k : Nat) (b : Bool) : (c.touch k b).now = c.now := rfl
@[simp] theorem touch_pllLocked (k : Nat) (b : Bool) : (c.touch k b).pllLocked = c.pllLocked := rfl
@[simp] theorem touch_free (k : Nat) (b : Bool) : (c.touch k b).free = c.free := rfl
@[simp] theorem touch_regs (k : Nat) (b : Bool) : (c.touch k b).regs = c.regs := rfl
@[simp] theorem touch_fuses (k : Nat) (b : Bool) : (c.touch k b).fuses = c.fuses := rfl
@[simp] theorem touch_latch (k : Nat) (b : Bool) : (c.touch k b).latch = c.latch := rfl
@[simp] theorem touch_gals (k : Nat) (b : Bool) : (c.touch k b).gals = c.gals := rfl
@[simp] theorem touch_flight (k : Nat) (b : Bool) : (c.touch k b).flight = c.flight := rfl
@[simp] theorem touch_rsigs (k : Nat) (b : Bool) : (c.touch k b).rsigs = c.rsigs := rfl
@[simp] theorem touch_flows (k : Nat) (b : Bool) : (c.touch k b).flows = c.flows := rfl
@[simp] theorem touch_reports (k : Nat) (b : Bool) : (c.touch k b).reports = c.reports := rfl
@[simp] theorem touch_dram (k : Nat) (b : Bool) : (c.touch k b).dram = c.dram := rfl
@[simp] theorem touch_chc (k : Nat) (b : Bool) : (c.touch k b).chc = c.chc := rfl
@[simp] theorem touch_opSeq (k : Nat) (b : Bool) : (c.touch k b).opSeq = c.opSeq := rfl
@[simp] theorem touch_hostMem (k : Nat) (b : Bool) : (c.touch k b).hostMem = c.hostMem := rfl
@[simp] theorem touch_host (k : Nat) (b : Bool) : (c.touch k b).host = c.host := rfl
@[simp] theorem touch_sys (k : Nat) (b : Bool) : (c.touch k b).sys = c.sys := rfl
@[simp] theorem touch_ush (k : Nat) (b : Bool) : (c.touch k b).ush = c.ush := rfl
@[simp] theorem touch_lk (k : Nat) (b : Bool) : (c.touch k b).lk = c.lk := rfl
@[simp] theorem touch_dbg (k : Nat) (b : Bool) : (c.touch k b).dbg = c.dbg := rfl

@[simp] theorem dramWrite_part (l : Nat) (d : Line) (p : Bool) : (c.dramWrite l d p).part = c.part := by unfold Chip.dramWrite; rfl
@[simp] theorem dramWrite_now (l : Nat) (d : Line) (p : Bool) : (c.dramWrite l d p).now = c.now := by unfold Chip.dramWrite; rfl
@[simp] theorem dramWrite_pllLocked (l : Nat) (d : Line) (p : Bool) : (c.dramWrite l d p).pllLocked = c.pllLocked := by unfold Chip.dramWrite; rfl
@[simp] theorem dramWrite_free (l : Nat) (d : Line) (p : Bool) : (c.dramWrite l d p).free = c.free := by unfold Chip.dramWrite; rfl
@[simp] theorem dramWrite_regs (l : Nat) (d : Line) (p : Bool) : (c.dramWrite l d p).regs = c.regs := by unfold Chip.dramWrite; rfl
@[simp] theorem dramWrite_fuses (l : Nat) (d : Line) (p : Bool) : (c.dramWrite l d p).fuses = c.fuses := by unfold Chip.dramWrite; rfl
@[simp] theorem dramWrite_latch (l : Nat) (d : Line) (p : Bool) : (c.dramWrite l d p).latch = c.latch := by unfold Chip.dramWrite; rfl
@[simp] theorem dramWrite_gals (l : Nat) (d : Line) (p : Bool) : (c.dramWrite l d p).gals = c.gals := by unfold Chip.dramWrite; rfl
@[simp] theorem dramWrite_flight (l : Nat) (d : Line) (p : Bool) : (c.dramWrite l d p).flight = c.flight := by unfold Chip.dramWrite; rfl
@[simp] theorem dramWrite_rsigs (l : Nat) (d : Line) (p : Bool) : (c.dramWrite l d p).rsigs = c.rsigs := by unfold Chip.dramWrite; rfl
@[simp] theorem dramWrite_flows (l : Nat) (d : Line) (p : Bool) : (c.dramWrite l d p).flows = c.flows := by unfold Chip.dramWrite; rfl
@[simp] theorem dramWrite_reports (l : Nat) (d : Line) (p : Bool) : (c.dramWrite l d p).reports = c.reports := by unfold Chip.dramWrite; rfl
@[simp] theorem dramWrite_chc (l : Nat) (d : Line) (p : Bool) : (c.dramWrite l d p).chc = c.chc := by unfold Chip.dramWrite; rfl
@[simp] theorem dramWrite_opSeq (l : Nat) (d : Line) (p : Bool) : (c.dramWrite l d p).opSeq = c.opSeq := by unfold Chip.dramWrite; rfl
@[simp] theorem dramWrite_hostMem (l : Nat) (d : Line) (p : Bool) : (c.dramWrite l d p).hostMem = c.hostMem := by unfold Chip.dramWrite; rfl
@[simp] theorem dramWrite_host (l : Nat) (d : Line) (p : Bool) : (c.dramWrite l d p).host = c.host := by unfold Chip.dramWrite; rfl
@[simp] theorem dramWrite_sys (l : Nat) (d : Line) (p : Bool) : (c.dramWrite l d p).sys = c.sys := by unfold Chip.dramWrite; rfl
@[simp] theorem dramWrite_ush (l : Nat) (d : Line) (p : Bool) : (c.dramWrite l d p).ush = c.ush := by unfold Chip.dramWrite; rfl
@[simp] theorem dramWrite_lk (l : Nat) (d : Line) (p : Bool) : (c.dramWrite l d p).lk = c.lk := by unfold Chip.dramWrite; rfl
@[simp] theorem dramWrite_dbg (l : Nat) (d : Line) (p : Bool) : (c.dramWrite l d p).dbg = c.dbg := by unfold Chip.dramWrite; rfl

@[simp] theorem onLink_part (l : Nat) (f : LinkState → LinkState) : (c.onLink l f).part = c.part := rfl
@[simp] theorem onLink_now (l : Nat) (f : LinkState → LinkState) : (c.onLink l f).now = c.now := rfl
@[simp] theorem onLink_pllLocked (l : Nat) (f : LinkState → LinkState) : (c.onLink l f).pllLocked = c.pllLocked := rfl
@[simp] theorem onLink_free (l : Nat) (f : LinkState → LinkState) : (c.onLink l f).free = c.free := rfl
@[simp] theorem onLink_regs (l : Nat) (f : LinkState → LinkState) : (c.onLink l f).regs = c.regs := rfl
@[simp] theorem onLink_fuses (l : Nat) (f : LinkState → LinkState) : (c.onLink l f).fuses = c.fuses := rfl
@[simp] theorem onLink_latch (l : Nat) (f : LinkState → LinkState) : (c.onLink l f).latch = c.latch := rfl
@[simp] theorem onLink_gals (l : Nat) (f : LinkState → LinkState) : (c.onLink l f).gals = c.gals := rfl
@[simp] theorem onLink_flight (l : Nat) (f : LinkState → LinkState) : (c.onLink l f).flight = c.flight := rfl
@[simp] theorem onLink_rsigs (l : Nat) (f : LinkState → LinkState) : (c.onLink l f).rsigs = c.rsigs := rfl
@[simp] theorem onLink_flows (l : Nat) (f : LinkState → LinkState) : (c.onLink l f).flows = c.flows := rfl
@[simp] theorem onLink_reports (l : Nat) (f : LinkState → LinkState) : (c.onLink l f).reports = c.reports := rfl
@[simp] theorem onLink_dram (l : Nat) (f : LinkState → LinkState) : (c.onLink l f).dram = c.dram := rfl
@[simp] theorem onLink_mem (l : Nat) (f : LinkState → LinkState) : (c.onLink l f).mem = c.mem := rfl
@[simp] theorem onLink_chc (l : Nat) (f : LinkState → LinkState) : (c.onLink l f).chc = c.chc := rfl
@[simp] theorem onLink_opSeq (l : Nat) (f : LinkState → LinkState) : (c.onLink l f).opSeq = c.opSeq := rfl
@[simp] theorem onLink_hostMem (l : Nat) (f : LinkState → LinkState) : (c.onLink l f).hostMem = c.hostMem := rfl
@[simp] theorem onLink_host (l : Nat) (f : LinkState → LinkState) : (c.onLink l f).host = c.host := rfl
@[simp] theorem onLink_sys (l : Nat) (f : LinkState → LinkState) : (c.onLink l f).sys = c.sys := rfl
@[simp] theorem onLink_ush (l : Nat) (f : LinkState → LinkState) : (c.onLink l f).ush = c.ush := rfl
@[simp] theorem onLink_dbg (l : Nat) (f : LinkState → LinkState) : (c.onLink l f).dbg = c.dbg := rfl

@[simp] theorem alert_part (n : Nat) : (c.alert n).part = c.part := rfl
@[simp] theorem alert_now (n : Nat) : (c.alert n).now = c.now := rfl
@[simp] theorem alert_pllLocked (n : Nat) : (c.alert n).pllLocked = c.pllLocked := rfl
@[simp] theorem alert_free (n : Nat) : (c.alert n).free = c.free := rfl
@[simp] theorem alert_regs (n : Nat) : (c.alert n).regs = c.regs := rfl
@[simp] theorem alert_fuses (n : Nat) : (c.alert n).fuses = c.fuses := rfl
@[simp] theorem alert_latch (n : Nat) : (c.alert n).latch = c.latch := rfl
@[simp] theorem alert_gals (n : Nat) : (c.alert n).gals = c.gals := rfl
@[simp] theorem alert_flight (n : Nat) : (c.alert n).flight = c.flight := rfl
@[simp] theorem alert_rsigs (n : Nat) : (c.alert n).rsigs = c.rsigs := rfl
@[simp] theorem alert_flows (n : Nat) : (c.alert n).flows = c.flows := rfl
@[simp] theorem alert_reports (n : Nat) : (c.alert n).reports = c.reports := rfl
@[simp] theorem alert_dram (n : Nat) : (c.alert n).dram = c.dram := rfl
@[simp] theorem alert_mem (n : Nat) : (c.alert n).mem = c.mem := rfl
@[simp] theorem alert_chc (n : Nat) : (c.alert n).chc = c.chc := rfl
@[simp] theorem alert_opSeq (n : Nat) : (c.alert n).opSeq = c.opSeq := rfl
@[simp] theorem alert_hostMem (n : Nat) : (c.alert n).hostMem = c.hostMem := rfl
@[simp] theorem alert_host (n : Nat) : (c.alert n).host = c.host := rfl
@[simp] theorem alert_ush (n : Nat) : (c.alert n).ush = c.ush := rfl
@[simp] theorem alert_lk (n : Nat) : (c.alert n).lk = c.lk := rfl
@[simp] theorem alert_dbg (n : Nat) : (c.alert n).dbg = c.dbg := rfl

@[simp] theorem letGo_part (who : Half) (o : Nat) : (c.letGo who o).part = c.part := rfl
@[simp] theorem letGo_now (who : Half) (o : Nat) : (c.letGo who o).now = c.now := rfl
@[simp] theorem letGo_pllLocked (who : Half) (o : Nat) : (c.letGo who o).pllLocked = c.pllLocked := rfl
@[simp] theorem letGo_free (who : Half) (o : Nat) : (c.letGo who o).free = c.free := rfl
@[simp] theorem letGo_regs (who : Half) (o : Nat) : (c.letGo who o).regs = c.regs := rfl
@[simp] theorem letGo_fuses (who : Half) (o : Nat) : (c.letGo who o).fuses = c.fuses := rfl
@[simp] theorem letGo_gals (who : Half) (o : Nat) : (c.letGo who o).gals = c.gals := rfl
@[simp] theorem letGo_flight (who : Half) (o : Nat) : (c.letGo who o).flight = c.flight := rfl
@[simp] theorem letGo_rsigs (who : Half) (o : Nat) : (c.letGo who o).rsigs = c.rsigs := rfl
@[simp] theorem letGo_flows (who : Half) (o : Nat) : (c.letGo who o).flows = c.flows := rfl
@[simp] theorem letGo_reports (who : Half) (o : Nat) : (c.letGo who o).reports = c.reports := rfl
@[simp] theorem letGo_dram (who : Half) (o : Nat) : (c.letGo who o).dram = c.dram := rfl
@[simp] theorem letGo_mem (who : Half) (o : Nat) : (c.letGo who o).mem = c.mem := rfl
@[simp] theorem letGo_chc (who : Half) (o : Nat) : (c.letGo who o).chc = c.chc := rfl
@[simp] theorem letGo_opSeq (who : Half) (o : Nat) : (c.letGo who o).opSeq = c.opSeq := rfl
@[simp] theorem letGo_hostMem (who : Half) (o : Nat) : (c.letGo who o).hostMem = c.hostMem := rfl
@[simp] theorem letGo_host (who : Half) (o : Nat) : (c.letGo who o).host = c.host := rfl
@[simp] theorem letGo_sys (who : Half) (o : Nat) : (c.letGo who o).sys = c.sys := rfl
@[simp] theorem letGo_ush (who : Half) (o : Nat) : (c.letGo who o).ush = c.ush := rfl
@[simp] theorem letGo_lk (who : Half) (o : Nat) : (c.letGo who o).lk = c.lk := rfl
@[simp] theorem letGo_dbg (who : Half) (o : Nat) : (c.letGo who o).dbg = c.dbg := rfl

@[simp] theorem forward_part (l : Nat) (d : Line) (p : Bool) : (c.forward l d p).part = c.part := rfl
@[simp] theorem forward_now (l : Nat) (d : Line) (p : Bool) : (c.forward l d p).now = c.now := rfl
@[simp] theorem forward_pllLocked (l : Nat) (d : Line) (p : Bool) : (c.forward l d p).pllLocked = c.pllLocked := rfl
@[simp] theorem forward_free (l : Nat) (d : Line) (p : Bool) : (c.forward l d p).free = c.free := rfl
@[simp] theorem forward_regs (l : Nat) (d : Line) (p : Bool) : (c.forward l d p).regs = c.regs := rfl
@[simp] theorem forward_fuses (l : Nat) (d : Line) (p : Bool) : (c.forward l d p).fuses = c.fuses := rfl
@[simp] theorem forward_latch (l : Nat) (d : Line) (p : Bool) : (c.forward l d p).latch = c.latch := rfl
@[simp] theorem forward_gals (l : Nat) (d : Line) (p : Bool) : (c.forward l d p).gals = c.gals := rfl
@[simp] theorem forward_flight (l : Nat) (d : Line) (p : Bool) : (c.forward l d p).flight = c.flight := rfl
@[simp] theorem forward_rsigs (l : Nat) (d : Line) (p : Bool) : (c.forward l d p).rsigs = c.rsigs := rfl
@[simp] theorem forward_flows (l : Nat) (d : Line) (p : Bool) : (c.forward l d p).flows = c.flows := rfl
@[simp] theorem forward_reports (l : Nat) (d : Line) (p : Bool) : (c.forward l d p).reports = c.reports := rfl
@[simp] theorem forward_dram (l : Nat) (d : Line) (p : Bool) : (c.forward l d p).dram = c.dram := rfl
@[simp] theorem forward_chc (l : Nat) (d : Line) (p : Bool) : (c.forward l d p).chc = c.chc := rfl
@[simp] theorem forward_opSeq (l : Nat) (d : Line) (p : Bool) : (c.forward l d p).opSeq = c.opSeq := rfl
@[simp] theorem forward_hostMem (l : Nat) (d : Line) (p : Bool) : (c.forward l d p).hostMem = c.hostMem := rfl
@[simp] theorem forward_host (l : Nat) (d : Line) (p : Bool) : (c.forward l d p).host = c.host := rfl
@[simp] theorem forward_sys (l : Nat) (d : Line) (p : Bool) : (c.forward l d p).sys = c.sys := rfl
@[simp] theorem forward_ush (l : Nat) (d : Line) (p : Bool) : (c.forward l d p).ush = c.ush := rfl
@[simp] theorem forward_lk (l : Nat) (d : Line) (p : Bool) : (c.forward l d p).lk = c.lk := rfl
@[simp] theorem forward_dbg (l : Nat) (d : Line) (p : Bool) : (c.forward l d p).dbg = c.dbg := rfl

@[simp] theorem tap_part (ir : Byte) : (c.tap ir).part = c.part := rfl
@[simp] theorem tap_now (ir : Byte) : (c.tap ir).now = c.now := rfl
@[simp] theorem tap_pllLocked (ir : Byte) : (c.tap ir).pllLocked = c.pllLocked := rfl
@[simp] theorem tap_free (ir : Byte) : (c.tap ir).free = c.free := rfl
@[simp] theorem tap_regs (ir : Byte) : (c.tap ir).regs = c.regs := rfl
@[simp] theorem tap_fuses (ir : Byte) : (c.tap ir).fuses = c.fuses := rfl
@[simp] theorem tap_latch (ir : Byte) : (c.tap ir).latch = c.latch := rfl
@[simp] theorem tap_gals (ir : Byte) : (c.tap ir).gals = c.gals := rfl
@[simp] theorem tap_flight (ir : Byte) : (c.tap ir).flight = c.flight := rfl
@[simp] theorem tap_rsigs (ir : Byte) : (c.tap ir).rsigs = c.rsigs := rfl
@[simp] theorem tap_flows (ir : Byte) : (c.tap ir).flows = c.flows := rfl
@[simp] theorem tap_reports (ir : Byte) : (c.tap ir).reports = c.reports := rfl
@[simp] theorem tap_dram (ir : Byte) : (c.tap ir).dram = c.dram := rfl
@[simp] theorem tap_mem (ir : Byte) : (c.tap ir).mem = c.mem := rfl
@[simp] theorem tap_chc (ir : Byte) : (c.tap ir).chc = c.chc := rfl
@[simp] theorem tap_opSeq (ir : Byte) : (c.tap ir).opSeq = c.opSeq := rfl
@[simp] theorem tap_hostMem (ir : Byte) : (c.tap ir).hostMem = c.hostMem := rfl
@[simp] theorem tap_host (ir : Byte) : (c.tap ir).host = c.host := rfl
@[simp] theorem tap_ush (ir : Byte) : (c.tap ir).ush = c.ush := rfl
@[simp] theorem tap_lk (ir : Byte) : (c.tap ir).lk = c.lk := rfl
@[simp] theorem tap_sys (ir : Byte) : (c.tap ir).sys = c.sys := rfl

@[simp] theorem tapHeld_part : (c.tapHeld).part = c.part := rfl
@[simp] theorem tapHeld_now : (c.tapHeld).now = c.now := rfl
@[simp] theorem tapHeld_pllLocked : (c.tapHeld).pllLocked = c.pllLocked := rfl
@[simp] theorem tapHeld_free : (c.tapHeld).free = c.free := rfl
@[simp] theorem tapHeld_regs : (c.tapHeld).regs = c.regs := rfl
@[simp] theorem tapHeld_fuses : (c.tapHeld).fuses = c.fuses := rfl
@[simp] theorem tapHeld_latch : (c.tapHeld).latch = c.latch := rfl
@[simp] theorem tapHeld_gals : (c.tapHeld).gals = c.gals := rfl
@[simp] theorem tapHeld_flight : (c.tapHeld).flight = c.flight := rfl
@[simp] theorem tapHeld_rsigs : (c.tapHeld).rsigs = c.rsigs := rfl
@[simp] theorem tapHeld_flows : (c.tapHeld).flows = c.flows := rfl
@[simp] theorem tapHeld_reports : (c.tapHeld).reports = c.reports := rfl
@[simp] theorem tapHeld_dram : (c.tapHeld).dram = c.dram := rfl
@[simp] theorem tapHeld_mem : (c.tapHeld).mem = c.mem := rfl
@[simp] theorem tapHeld_chc : (c.tapHeld).chc = c.chc := rfl
@[simp] theorem tapHeld_opSeq : (c.tapHeld).opSeq = c.opSeq := rfl
@[simp] theorem tapHeld_hostMem : (c.tapHeld).hostMem = c.hostMem := rfl
@[simp] theorem tapHeld_host : (c.tapHeld).host = c.host := rfl
@[simp] theorem tapHeld_ush : (c.tapHeld).ush = c.ush := rfl
@[simp] theorem tapHeld_lk : (c.tapHeld).lk = c.lk := rfl
@[simp] theorem tapHeld_sys : (c.tapHeld).sys = c.sys := rfl

end Sys2Proof.Laws
end

