-- ==== Sys2Proof/Laws/Store.lean ====
section
/-! SUPPORT. The laws of sparse stores and byte memories: read after write, every other key alone, and the canonical form kept. -/

namespace Sys2Proof.Laws

variable {α : Type} [DecidableEq α] {d : Nat → α}

/-- A store whose keys start past k reads at k as an unlisted key. -/
theorem get_below {m : Store α} {lo k : Nat} (h : Store.wfFrom d lo m = true) (hk : k < lo) : Store.get d m k = d k := by
  induction m generalizing lo with
  | nil => rfl
  | cons e m ih =>
    obtain ⟨j, v⟩ := e
    simp only [Store.wfFrom, Bool.and_eq_true, decide_eq_true_eq] at h
    have hj : k ≠ j := by omega
    simp only [Store.get, hj, if_false]
    exact ih h.2 (by omega)

/-- Read after write, in a canonical store. -/
theorem get_put_same {m : Store α} {lo : Nat} (h : Store.wfFrom d lo m = true) (k : Nat) (v : α) : Store.get d (Store.put d m k v) k = v := by
  induction m generalizing lo with
  | nil => by_cases hv : v = d k <;> simp [Store.put, Store.get, hv]
  | cons e m ih =>
    obtain ⟨j, w⟩ := e
    have hm := h
    simp only [Store.wfFrom, Bool.and_eq_true, decide_eq_true_eq] at h
    simp only [Store.put]
    split
    · split
      · rename_i hk hv
        have hw : Store.wfFrom d j ((j, w) :: m) = true := by simp [Store.wfFrom, h.1.2, h.2]
        rw [get_below hw hk, hv]
      · simp [Store.get]
    · split
      · rename_i hk
        split
        · rename_i hv
          rw [get_below h.2 (by omega), hv]
        · simp [Store.get]
      · rename_i hk
        simp only [Store.get, hk, if_false]
        exact ih h.2

/-- A key reads back what was written, in any store, where that is not what an unlisted key reads as. -/
theorem get_put_changed (m : Store α) (k : Nat) (v : α) (h : v ≠ d k) : Store.get d (Store.put d m k v) k = v := by
  induction m with
  | nil => simp [Store.put, h, Store.get]
  | cons e m ih =>
    obtain ⟨j, w⟩ := e
    simp only [Store.put, h, if_false]
    split
    · simp [Store.get]
    · split
      · simp [Store.get]
      · next h2 => simp [Store.get, h2, ih]

/-- A write leaves every other key alone, in any store. -/
theorem get_put_other (m : Store α) {k i : Nat} (v : α) (h : i ≠ k) : Store.get d (Store.put d m k v) i = Store.get d m i := by
  induction m with
  | nil => by_cases hv : v = d k <;> simp [Store.put, Store.get, hv, h]
  | cons e m ih =>
    obtain ⟨j, w⟩ := e
    simp only [Store.put]
    split
    · split <;> simp [Store.get, h]
    · split
      · rename_i hk
        have hij : i ≠ j := by omega
        split <;> simp [Store.get, hij, h]
      · simp only [Store.get, ih]

/-- A write keeps the canonical form. -/
theorem put_wfFrom {m : Store α} {lo : Nat} (h : Store.wfFrom d lo m = true) {k : Nat} (hk : lo ≤ k) (v : α) :
    Store.wfFrom d lo (Store.put d m k v) = true := by
  induction m generalizing lo with
  | nil => by_cases hv : v = d k <;> simp [Store.put, Store.wfFrom, hv, hk]
  | cons e m ih =>
    obtain ⟨j, w⟩ := e
    have hm := h
    simp only [Store.wfFrom, Bool.and_eq_true, decide_eq_true_eq] at h
    simp only [Store.put]
    split
    · split
      · exact hm
      · rename_i hj hv
        simp [Store.wfFrom, hk, hv, h.1.2, h.2]
        omega
    · split
      · rename_i hkj
        subst hkj
        split
        · exact (by
            cases m with
            | nil => rfl
            | cons a t =>
              have := h.2
              simp only [Store.wfFrom, Bool.and_eq_true, decide_eq_true_eq] at this ⊢
              exact ⟨⟨by omega, this.1.2⟩, this.2⟩)
        · rename_i hv
          simp [Store.wfFrom, hk, hv, h.2]
      · simp only [Store.wfFrom, Bool.and_eq_true, decide_eq_true_eq]
        exact ⟨h.1, ih h.2 (by omega)⟩

/-- A write keeps the canonical form of a store. -/
theorem put_wf {m : Store α} (h : Store.wf d m = true) (k : Nat) (v : α) : Store.wf d (Store.put d m k v) = true :=
  put_wfFrom h (Nat.zero_le k) v

/-- A canonical store from `lo` is one from any lower bound. -/
theorem wfFrom_mono {m : Store α} {lo hi : Nat} (h : Store.wfFrom d hi m = true) (hl : lo ≤ hi) : Store.wfFrom d lo m = true := by
  cases m with
  | nil => rfl
  | cons e m =>
    simp only [Store.wfFrom, Bool.and_eq_true, decide_eq_true_eq] at h ⊢
    exact ⟨⟨by omega, h.1.2⟩, h.2⟩

/-- Clearing a range keeps the canonical form. -/
theorem clear_wfFrom {m : Store α} {lo : Nat} (h : Store.wfFrom d lo m = true) (a n : Nat) : Store.wfFrom d lo (Store.clear m a n) = true := by
  induction m generalizing lo with
  | nil => rfl
  | cons e m ih =>
    have h' := h
    simp only [Store.wfFrom, Bool.and_eq_true, decide_eq_true_eq] at h'
    have hr := ih h'.2
    unfold Store.clear at hr ⊢
    rw [List.filter_cons]
    split
    · simp only [Store.wfFrom, Bool.and_eq_true, decide_eq_true_eq]
      exact ⟨h'.1, hr⟩
    · exact wfFrom_mono hr (by omega)

/-- A cleared key reads as an unlisted one; any other as before. -/
theorem get_clear (m : Store α) (a n k : Nat) : Store.get d (Store.clear m a n) k = if a ≤ k ∧ k < a + n then d k else Store.get d m k := by
  unfold Store.clear
  induction m with
  | nil => simp [Store.get]
  | cons e m ih =>
    obtain ⟨j, v⟩ := e
    rw [List.filter_cons]
    split
    · rename_i hj
      simp only [Store.get, ih]
      split
      · rename_i hkj
        subst hkj
        have hk : ¬ (a ≤ k ∧ k < a + n) := by
          intro h
          simp [h.1, h.2] at hj
        simp [hk]
      · rfl
    · rename_i hj
      rw [ih]
      simp only [Store.get]
      split
      · rfl
      · rename_i hn
        have hj' : a ≤ j ∧ j < a + n := by simpa using hj
        have : k ≠ j := by rintro rfl; exact hn hj'
        simp [this]

/-! ### Byte memories -/

/-- Writing a byte keeps a memory canonical. -/
theorem setByte_wf {m : Store Byte} (h : Memory.wf m = true) (a : Nat) (b : Byte) : Memory.wf (Memory.setByte m a b) = true := put_wf h a b

/-- Writing bytes keeps a memory canonical. -/
theorem setBytes_wf {m : Store Byte} (h : Memory.wf m = true) (a : Nat) (bs : List Byte) : Memory.wf (Memory.setBytes m a bs) = true := by
  induction bs generalizing m a with
  | nil => exact h
  | cons b bs ih => exact ih (setByte_wf h a b) (a + 1)

/-- Writing a number keeps a memory canonical. -/
theorem setNum_wf {m : Store Byte} (h : Memory.wf m = true) (a n v : Nat) : Memory.wf (Memory.setNum m a n v) = true := setBytes_wf h a _

/-- Copying keeps the destination canonical. -/
theorem copy_wf {m : Store Byte} (h : Memory.wf m = true) (src : Store Byte) (a b n : Nat) : Memory.wf (Memory.copy src a m b n) = true :=
  setBytes_wf h b _

/-- Zeroing keeps a memory canonical. -/
theorem zero_wf {m : Store Byte} (h : Memory.wf m = true) (a n : Nat) : Memory.wf (Memory.zero m a n) = true := clear_wfFrom h a n

/-- Writing bytes leaves every byte outside them alone, in any memory. -/
theorem byte_setBytes_other (m : Store Byte) (a : Nat) (bs : List Byte) {i : Nat} (h : i < a ∨ a + bs.length ≤ i) :
    Memory.byte (Memory.setBytes m a bs) i = Memory.byte m i := by
  induction bs generalizing m a with
  | nil => rfl
  | cons b bs ih =>
    simp only [List.length_cons] at h
    rw [Memory.setBytes, ih _ _ (by omega)]
    exact get_put_other m b (by omega)

/-- Each byte written reads back, in a canonical memory. -/
theorem byte_setBytes_same {m : Store Byte} (hm : Memory.wf m = true) (a : Nat) (bs : List Byte) (i : Nat) (h : i < bs.length) :
    Memory.byte (Memory.setBytes m a bs) (a + i) = bs[i] := by
  induction bs generalizing m a i with
  | nil => simp at h
  | cons b bs ih =>
    rw [Memory.setBytes]
    cases i with
    | zero =>
      rw [byte_setBytes_other _ _ _ (by omega)]
      exact get_put_same hm a b
    | succ n =>
      have := ih (setByte_wf hm a b) (a + 1) n (by simpa using h)
      rw [show a + 1 + n = a + (n + 1) by omega] at this
      simpa using this

/-- The bytes written read back whole, in a canonical memory. -/
theorem bytes_setBytes {m : Store Byte} (hm : Memory.wf m = true) (a : Nat) (bs : List Byte) : Memory.bytes (Memory.setBytes m a bs) a bs.length = bs := by
  suffices h : ∀ (n i : Nat), n + i = bs.length → Memory.bytes (Memory.setBytes m a bs) (a + i) n = bs.drop i by simpa using h bs.length 0 rfl
  intro n
  induction n with
  | zero => intro i hi; rw [List.drop_of_length_le (by omega)]; rfl
  | succ n ih =>
    intro i hi
    have hl : i < bs.length := by omega
    rw [Memory.bytes, show a + i + 1 = a + (i + 1) by omega, ih (i + 1) (by omega), byte_setBytes_same hm a bs i hl]
    exact (List.drop_eq_getElem_cons hl).symm

/-! ### Numbers and their bytes -/

/-- A little-endian byte string has the length asked for. -/
@[simp] theorem leBytes_length (n v : Nat) : (leBytes n v).length = n := by
  induction n generalizing v with
  | zero => rfl
  | succ n ih => simp [leBytes, ih]

/-- The bytes of a number spell it, modulo their width. -/
theorem leVal_leBytes (n v : Nat) : leVal (leBytes n v) = v % 256 ^ n := by
  induction n generalizing v with
  | zero => simp [leBytes, leVal, Nat.mod_one]
  | succ n ih =>
    have h : 256 ^ (n + 1) = 256 * 256 ^ n := Nat.pow_succ'
    rw [leBytes, leVal, ih, BitVec.toNat_ofNat, h, Nat.mod_mul]

/-- A number written reads back modulo its width, in a canonical memory. -/
theorem num_setNum {m : Store Byte} (hm : Memory.wf m = true) (a n v : Nat) : Memory.num (Memory.setNum m a n v) a n = v % 256 ^ n := by
  have h := bytes_setBytes hm a (leBytes n v)
  rw [leBytes_length] at h
  rw [Memory.num, Memory.setNum, h, leVal_leBytes]

end Sys2Proof.Laws
end

