-- ==== Sys2Proof/Laws/Memory.lean ====
section
/-! SUPPORT. What the operations of the memory path do to the module: they touch the memory path, DRAM and registers alone, and keep DRAM canonical. -/

namespace Sys2Proof.Laws

open Sys2Proof.Machine

/-- d is c with another memory path, other DRAM bytes and other registers, and perhaps AER's report of an internal error (R405). -/
def MemOnly (c d : Chip) : Prop := ∃ m r g a, d = { c with mem := m, dram := r, regs := g, host := { c.host with aerInternal := a } }

theorem MemOnly.refl (c : Chip) : MemOnly c c := ⟨_, _, _, _, rfl⟩

theorem MemOnly.trans {a b c : Chip} (h : MemOnly a b) (g : MemOnly b c) : MemOnly a c := by
  obtain ⟨_, _, _, _, rfl⟩ := h
  obtain ⟨_, _, _, _, rfl⟩ := g
  exact ⟨_, _, _, _, rfl⟩

/-- What every operation of the memory path keeps: it reaches no other unit, and DRAM stays canonical. -/
def MemStep (c d : Chip) : Prop := MemOnly c d ∧ (Memory.wf c.dram = true → Memory.wf d.dram = true)

theorem MemStep.refl (c : Chip) : MemStep c c := ⟨.refl c, id⟩

theorem MemStep.trans {a b c : Chip} (h : MemStep a b) (g : MemStep b c) : MemStep a c := ⟨h.1.trans g.1, g.2 ∘ h.2⟩

/-- An update of the memory path's own records and registers. -/
theorem MemStep.of_mem {c : Chip} (m : MemState) (g : Store DWord) : MemStep c { c with mem := m, regs := g } := ⟨⟨_, _, _, _, rfl⟩, id⟩

/-- A fold of such operations. -/
theorem MemStep.foldl {α : Type} (f : Chip → α → Chip) (h : ∀ c x, MemStep c (f c x)) (l : List α) (c : Chip) : MemStep c (l.foldl f c) := by
  induction l generalizing c with
  | nil => exact .refl c
  | cons x l ih => exact (h c x).trans (ih _)

variable (c : Chip)

theorem wr_memStep (o v : Nat) : MemStep c (c.wr o v) := .of_mem ..
theorem wrF_memStep (o lo n v : Nat) : MemStep c (c.wrF o lo n v) := .of_mem ..
theorem bump_memStep (o lo n v : Nat) : MemStep c (c.bump o lo n v) := .of_mem ..
theorem setWay_memStep (k : Nat) (w : Option CacheWay) : MemStep c (c.setWay k w) := .of_mem ..
theorem touch_memStep (k : Nat) (b : Bool) : MemStep c (c.touch k b) := .of_mem ..
theorem forward_memStep (l : Nat) (d : Line) (p : Bool) : MemStep c (c.forward l d p) := .of_mem ..

theorem forward_blank (l n : Nat) (d : Line) (p : Bool) : (c.forward l d p).blank n = c.blank n := by unfold Chip.blank; rfl

/-- What a whole-line write stores. -/
theorem dramWrite_dram (l : Nat) (d : Line) (p : Bool) :
    (c.dramWrite l d p).dram = Memory.setNum c.dram (l * 64) 64 (addErrors d (errPlaces (c.laneErrors l)) ^^^ c.blank l).toNat := by
  unfold Chip.dramWrite
  dsimp only
  rw [forward_blank, forward_dram]

theorem dramWrite_memStep (l : Nat) (d : Line) (p : Bool) : MemStep c (c.dramWrite l d p) := by
  refine ⟨?_, fun h => ?_⟩
  · unfold Chip.dramWrite; exact ⟨_, _, _, _, rfl⟩
  · rw [dramWrite_dram]
    generalize BitVec.toNat _ = v
    exact setNum_wf h _ _ _

theorem vaultWrite_memStep (l : Nat) (d : Line) (p : Bool) : MemStep c (c.vaultWrite l d p) := by
  unfold Chip.vaultWrite
  dsimp only
  split
  · exact .of_mem ..
  · exact dramWrite_memStep ..

theorem evict_memStep (k : Nat) : MemStep c (c.evict k) := by
  unfold Chip.evict
  split
  · dsimp only
    split
    · exact (vaultWrite_memStep ..).trans (setWay_memStep ..)
    · exact setWay_memStep ..
  · exact .refl c

theorem allocate_memStep (l : Nat) : MemStep c (c.allocate l).1 := evict_memStep ..

theorem pinFor_memStep (k ah : Nat) (w : Requester) : MemStep c (c.pinFor k ah w) := by
  unfold Chip.pinFor
  split
  · unfold Chip.pinWay
    split
    · split
      · exact .refl c
      · split
        · exact bump_memStep ..
        · exact setWay_memStep ..
    · exact .refl c
  · exact .refl c

theorem fillWay_memStep (l : Nat) (d : Line) (b p : Bool) : MemStep c (c.fillWay l d b p).1 := by
  unfold Chip.fillWay
  split
  · split
    · exact setWay_memStep ..
    · exact .refl c
  · exact (allocate_memStep ..).trans (setWay_memStep ..)

theorem reissue_memStep (v : Nat) : MemStep c (c.reissue v) := .of_mem ..

theorem backInvalidate_memStep (l : Nat) : MemStep c (c.backInvalidate l) := by
  unfold Chip.backInvalidate
  dsimp only
  have h : ∀ (x y : Chip), MemStep x y → MemStep x
      (match y.findWay l with
        | some k =>
          match y.way k with
          | some w => if w.pin.isSome then y.setWay k (some { w with valid := false, dirty := false, poison := false }) else y.setWay k none
          | none => y
        | none => y) := by
    intro x y h
    refine h.trans ?_
    split
    · split
      · split
        · exact setWay_memStep ..
        · exact setWay_memStep ..
      · exact .refl _
    · exact .refl _
  exact h c _ (.of_mem ..)

theorem backFirst_memStep (l : Nat) : MemStep c (c.backFirst l) := by
  unfold Chip.backFirst
  split
  · exact backInvalidate_memStep ..
  · exact .refl c

theorem countHit_memStep (l : Nat) (b : Bool) : MemStep c (c.countHit l b) := wr_memStep ..

theorem hitWrite_memStep (l k : Nat) (w : CacheWay) (m : BitVec 64) (d : Line) (ah : Nat) (who : Requester) :
    MemStep c (c.hitWrite l k w m d ah who) := by
  unfold Chip.hitWrite
  dsimp only
  refine MemStep.trans ?_ (pinFor_memStep ..)
  have h : ∀ (b : Bool) (x : Chip), MemStep c x → MemStep c (if b then x else x.touch k false) := by
    intro b x h; cases b
    · exact h.trans (touch_memStep ..)
    · exact h
  apply h
  split
  · exact (setWay_memStep ..).trans (vaultWrite_memStep ..)
  · exact setWay_memStep ..

theorem missWrite_memStep (l : Nat) (b : Bool) (d : Line) (p : Bool) (ah : Nat) (who : Requester) : MemStep c (c.missWrite l b d p ah who) := by
  unfold Chip.missWrite
  dsimp only
  have h : MemStep c (if c.inRange l = true then c.vaultWrite l d p else c) := by
    split
    · exact vaultWrite_memStep ..
    · exact .refl c
  generalize (if c.inRange l = true then c.vaultWrite l d p else c) = x at h ⊢
  refine h.trans ?_
  split
  · exact .refl x
  · split
    · split
      · exact .refl x
      · exact vaultWrite_memStep ..
    · exact (fillWay_memStep ..).trans ((touch_memStep ..).trans (pinFor_memStep ..))

theorem logMerge_memStep (l : Nat) (m : BitVec 64) (d : Line) : MemStep c (c.logMerge l m d) := by
  unfold Chip.logMerge
  dsimp only
  refine (backFirst_memStep c l).trans ?_
  split
  · exact (countHit_memStep ..).trans (hitWrite_memStep ..)
  · exact (countHit_memStep ..).trans (missWrite_memStep ..)

theorem pokeNow_memStep (l : Nat) (m : BitVec 64) (d : Line) : MemStep c (c.pokeNow l m d) := by
  unfold Chip.pokeNow
  dsimp only
  refine MemStep.trans ?_ (dramWrite_memStep ..)
  refine (backFirst_memStep c l).trans ?_
  split
  · exact setWay_memStep ..
  · exact .refl _

/-- A write of bytes by line requests that keep to the memory path. -/
theorem pokeGo_memStep (w : Chip → Nat → BitVec 64 → Line → Chip) (hw : ∀ c l m d, MemStep c (w c l m d)) (n a : Nat) (bs : List Byte) :
    MemStep c (c.pokeGo w n a bs) := by
  induction n generalizing c a bs with
  | zero => exact .refl c
  | succ n ih =>
    unfold Chip.pokeGo
    split
    · exact .refl c
    · refine MemStep.trans ?_ (ih _ _ _)
      unfold Chip.pokeBy
      split
      · exact hw ..
      · exact .refl c
      · exact pokeNow_memStep ..

/-! ### The error log and the decoder -/

/-- Writing a log record. -/
theorem errLog_memStep (t u l pp : Nat) (pl : Nat × Nat × Nat) (k s : Nat) (sy : List Nat) (w : Option Requester) :
    MemStep c (c.errLog t u l pp pl k s sy w) := by
  unfold Chip.errLog
  dsimp only
  have h : MemStep c (if (ueKind k && w != some .bar2) = true then { c with host := { c.host with aerInternal := true } } else c) := by
    split
    · exact ⟨⟨_, _, _, _, rfl⟩, id⟩
    · exact .refl c
  generalize (if (ueKind k && w != some .bar2) = true then ({ c with host := { c.host with aerInternal := true } } : Chip) else c) = x at h ⊢
  refine h.trans ?_
  split
  · refine MemStep.trans ?_ (wrF_memStep ..)
    refine MemStep.trans ?_ (pokeGo_memStep _ _ (fun c _ _ _ => logMerge_memStep c ..) ..)
    exact .of_mem ..
  · exact bump_memStep ..

theorem lineLog_memStep (l k s : Nat) (sy : List Nat) (w : Option Requester) : MemStep c (c.lineLog l k s sy w) := errLog_memStep ..

theorem mapLane_memStep (p : LanePath) (n : Nat) : MemStep c (c.mapLane p n) := by
  unfold Chip.mapLane
  dsimp only
  split <;> exact .of_mem ..

theorem groupRetrain_memStep (l n : Nat) : MemStep c (c.groupRetrain l n) := by
  unfold Chip.groupRetrain
  dsimp only
  exact (MemStep.foldl _ (fun c b => mapLane_memStep ..) _ _).trans (lineLog_memStep ..)

theorem noteCorr_memStep (l : Nat) (sy : List Nat) : MemStep c (c.noteCorr l sy) := by
  unfold Chip.noteCorr
  dsimp only
  apply MemStep.foldl
  intro c k
  split
  · exact (MemStep.of_mem { c.mem with corrCnt := _ } c.regs).trans (groupRetrain_memStep ..)
  · exact .of_mem ..

/-- A line crosses the bus and its decoder. -/
theorem decodeRead_memStep (l s : Nat) (w : Option Requester) : MemStep c (c.decodeRead l s w).1 := by
  unfold Chip.decodeRead
  dsimp only
  refine (MemStep.of_mem { c.mem with lineReads := c.mem.lineReads + 1 } c.regs).trans ?_
  have note : ∀ (x : Chip) (pos : List Nat), MemStep x (if s = 0 then x.noteCorr l pos else x) := by
    intro x pos
    split
    · exact noteCorr_memStep ..
    · exact .refl x
  split
  · exact lineLog_memStep ..
  · split
    · exact note ..
    · exact (lineLog_memStep ..).trans (note ..)
    all_goals exact lineLog_memStep ..

theorem vaultRead_memStep (l s : Nat) (w : Option Requester) : MemStep c (c.vaultRead l s w).1 := by
  unfold Chip.vaultRead
  split
  · exact .refl c
  · exact decodeRead_memStep ..

/-! ### Requests and units' writes -/

theorem answer_memStep (n st : Nat) (d : Line) : MemStep c (c.answer n st d) := .of_mem ..

theorem hitRead_memStep (k : Nat) (w : CacheWay) (ah : Nat) (who : Requester) : MemStep c (c.hitRead k w ah who).1 := by
  unfold Chip.hitRead
  dsimp only
  refine MemStep.trans ?_ (pinFor_memStep ..)
  split
  · exact .refl c
  · exact touch_memStep ..

theorem serveNow_memStep (r : LineReq) (l : Nat) : MemStep c (c.serveNow r l) := by
  unfold Chip.serveNow
  split
  · exact (countHit_memStep ..).trans ((hitRead_memStep ..).trans (answer_memStep ..))
  · exact (countHit_memStep ..).trans ((hitWrite_memStep ..).trans (answer_memStep ..))
  · exact .refl c
  · exact (countHit_memStep ..).trans ((missWrite_memStep ..).trans (answer_memStep ..))

theorem startFill_memStep (l : Nat) (ws : List LineReq) : MemStep c (c.startFill l ws) := .of_mem ..

theorem sliceServe_memStep (r : LineReq) (l : Nat) : MemStep c (c.sliceServe r l) := by
  unfold Chip.sliceServe
  dsimp only
  refine (backFirst_memStep c l).trans ?_
  split
  · exact (countHit_memStep ..).trans (.of_mem ..)
  · split
    · exact serveNow_memStep ..
    · exact (countHit_memStep ..).trans (startFill_memStep ..)

theorem holdReq_memStep (r : LineReq) (l : Nat) (own : Bool) : MemStep c (c.holdReq r l own) := by
  unfold Chip.holdReq
  dsimp only
  split
  · exact MemStep.trans (.of_mem ..) (startFill_memStep ..)
  · exact .of_mem ..

theorem takeTurn_memStep (ahead : List (Nat × LineReq)) (r : LineReq) (l : Nat) : MemStep c (c.takeTurn ahead r l) := by
  unfold Chip.takeTurn
  split
  · exact holdReq_memStep ..
  · split
    · exact holdReq_memStep ..
    · split
      · exact sliceServe_memStep ..
      · exact holdReq_memStep ..

theorem serveHeld_memStep (k : Nat) : MemStep c (c.serveHeld k) := by
  unfold Chip.serveHeld
  dsimp only
  refine MemStep.trans (MemStep.of_mem _ c.regs) (MemStep.foldl _ ?_ _ _)
  intro c h
  split
  · exact .of_mem ..
  · exact takeTurn_memStep ..

theorem serveFill_memStep (l : Nat) (q : Chip × Bool × Line) (r : LineReq) : MemStep q.1 (Chip.serveFill l q r).1 := by
  obtain ⟨c, p, d⟩ := q
  unfold Chip.serveFill
  dsimp only
  split
  · exact (hitRead_memStep ..).trans (answer_memStep ..)
  · exact (hitWrite_memStep ..).trans (answer_memStep ..)
  · refine MemStep.trans ?_ (answer_memStep ..)
    split
    · exact .refl c
    · exact (fillWay_memStep ..).trans ((touch_memStep ..).trans (pinFor_memStep ..))
  · exact (missWrite_memStep ..).trans (answer_memStep ..)

theorem serveFills_memStep (l : Nat) (ws : List LineReq) (q : Chip × Bool × Line) : MemStep q.1 (ws.foldl (Chip.serveFill l) q).1 := by
  induction ws generalizing q with
  | nil => exact .refl q.1
  | cons w ws ih => exact (serveFill_memStep l q w).trans (ih _)

theorem sliceFill_memStep (l : Nat) : MemStep c (c.sliceFill l) := by
  unfold Chip.sliceFill
  split
  · split
    · exact .refl c
    · exact MemStep.trans (MemStep.of_mem _ c.regs) ((serveFills_memStep _ _ (_, _, _)).trans (serveHeld_memStep ..))
  · exact .refl c

theorem heldRelease_memStep (k : Nat) : MemStep c (c.heldRelease k) := by
  unfold Chip.heldRelease
  dsimp only
  split
  · exact .refl c
  · split
    · exact .refl c
    · refine MemStep.trans ?_ (serveHeld_memStep ..)
      refine MemStep.trans ?_ (sliceServe_memStep ..)
      exact MemStep.trans (MemStep.of_mem _ c.regs) ((bump_memStep ..).trans (wrF_memStep ..))

theorem vaultMoved_memStep (k : Nat) (q : VaultReq) : MemStep c (c.vaultMoved k q) := .of_mem ..

theorem vaultServe_memStep (k : Nat) (q : VaultReq) : MemStep c (c.vaultServe k q) := by
  unfold Chip.vaultServe
  dsimp only
  have h : ∀ x, MemStep c x → MemStep c ((x.vaultMoved k q).reissue k) := fun x h => h.trans ((vaultMoved_memStep x k q).trans (reissue_memStep _ k))
  split
  · exact (h _ (.of_mem ..)).trans ((dramWrite_memStep ..).trans (serveHeld_memStep ..))
  · exact (h _ (.of_mem ..)).trans ((vaultRead_memStep ..).trans (MemStep.trans (.of_mem ..) (serveHeld_memStep ..)))

theorem vaultTurn_memStep (k : Nat) : MemStep c (c.vaultTurn k) := by
  unfold Chip.vaultTurn
  split
  · exact .refl c
  · dsimp only
    refine MemStep.trans (b := c.topTakes k) (.of_mem ..) ?_
    split
    · exact vaultServe_memStep ..
    · exact .refl _

theorem pathStep_memStep (k : Nat) : MemStep c (c.pathStep k) := by
  unfold Chip.pathStep
  split
  · exact sliceFill_memStep ..
  · dsimp only
    split
    · exact vaultTurn_memStep ..
    · exact (MemStep.foldl _ (fun c l => backInvalidate_memStep c l) _ _).trans (MemStep.trans (.of_mem ..) (heldRelease_memStep ..))

theorem pathRun_memStep (k n : Nat) : MemStep c (Chip.pathRun k n c).1 := by
  induction n generalizing c with
  | zero => exact .of_mem ..
  | succ n ih =>
    unfold Chip.pathRun
    split
    · exact .of_mem ..
    · exact (pathStep_memStep c k).trans (ih _)

/-- A line request of a command, whatever it asks. -/
theorem lineAsk_memStep (l : Nat) (op : LineOp) (ah : Nat) (who : Requester) : MemStep c (c.lineAsk l op ah who).1 := by
  unfold Chip.lineAsk
  split
  · exact ((takeTurn_memStep ..).trans (serveHeld_memStep ..)).trans (pathRun_memStep ..)
  · exact .refl c

theorem sliceRead_memStep (l ah : Nat) (who : Requester) : MemStep c (c.sliceRead l ah who).1 := lineAsk_memStep ..

theorem sliceWrite_memStep (l : Nat) (m : BitVec 64) (d : Line) (ah : Nat) (who : Requester) : MemStep c (c.sliceWrite l m d ah who).1 := lineAsk_memStep ..

/-- A write of module memory by a unit. -/
theorem memWriteAs_memStep (who : Requester) (a : Nat) (bs : List Byte) : MemStep c (Chip.memWriteAs who c a bs) :=
  pokeGo_memStep c _ (fun c l m d => sliceWrite_memStep c l m d 0 who) ..

theorem memWrite_memStep (a : Nat) (bs : List Byte) : MemStep c (c.memWrite a bs) := memWriteAs_memStep c .usher a bs

/-- A read of module memory by a unit. -/
theorem fetchGo_memStep (who : Requester) (ah n a k : Nat) : MemStep c (Chip.fetchGo who ah n a k c).1 := by
  induction n generalizing c a k with
  | zero => exact .refl c
  | succ n ih =>
    unfold Chip.fetchGo
    split
    · exact .refl c
    · dsimp only
      exact (sliceRead_memStep ..).trans (ih _ _ _)

theorem memFetch_memStep (a n : Nat) : MemStep c (c.memFetch a n).1 := fetchGo_memStep ..

theorem memWrite_memOnly (a : Nat) (bs : List Byte) : MemOnly c (c.memWrite a bs) := (memWrite_memStep c a bs).1

/-- A write of any length keeps DRAM canonical. -/
theorem memWrite_wf (a : Nat) (bs : List Byte) (h : Memory.wf c.dram = true) : Memory.wf (c.memWrite a bs).dram = true := (memWrite_memStep c a bs).2 h

end Sys2Proof.Laws
end

