-- ==== Sys2Proof/Laws/Ops.lean ====
section
/-! SUPPORT. What the shared operations do: galleries by key, writes of module memory, events and trap entry. -/

namespace Sys2Proof.Laws

open Sys2Proof.Machine

/-! ### Galleries -/

/-- A gallery that is put back at something else than its reset state is there, whatever the store. -/
theorem gal_setGal (c : Chip) (k : Nat) (g : Gallery) (h : g ≠ Gallery.reset) : (c.setGal k g).gal k = g := get_put_changed _ k g h

/-- Putting a gallery back leaves the others. -/
theorem gal_setGal_other (c : Chip) {k n : Nat} (g : Gallery) (h : n ≠ k) : (c.setGal k g).gal n = c.gal n := get_put_other _ g h

/-- A register reads back what was written, where that is not its reset value. -/
theorem rd_wr_changed (c : Chip) (off v : Nat) (h : BitVec.ofNat 64 v ≠ regReset off) : (c.wr off v).rd off = v % 2 ^ 64 := by
  simp [Chip.rd, Chip.wr, get_put_changed _ off _ h]

/-- A write of a register leaves the others. -/
theorem rd_wr_other (c : Chip) {off o : Nat} (v : Nat) (h : o ≠ off) : (c.wr off v).rd o = c.rd o := by
  simp [Chip.rd, Chip.wr, get_put_other _ _ h]

/-! ### Events and traps -/

/-- d is c with other registers and other staged events or Whistle requests. -/
def EventOnly (c d : Chip) : Prop := ∃ g b, d = { c with regs := g, dbg := b }

theorem EventOnly.refl (c : Chip) : EventOnly c c := ⟨_, _, rfl⟩

theorem EventOnly.trans {a b c : Chip} (h : EventOnly a b) (g : EventOnly b c) : EventOnly a c := by
  obtain ⟨_, _, rfl⟩ := h
  obtain ⟨_, _, rfl⟩ := g
  exact ⟨_, _, rfl⟩

theorem requestWhistle_eventOnly (c : Chip) (n : Nat) : EventOnly c (c.requestWhistle n) := by
  unfold Chip.requestWhistle
  dsimp only
  split
  · exact ⟨_, _, rfl⟩
  · split <;> exact ⟨_, _, rfl⟩

theorem trigger_eventOnly (c : Chip) (t u k r j : Nat) : EventOnly c (c.trigger t u k r j) := by
  unfold Chip.trigger
  dsimp only
  split
  · split
    · exact EventOnly.trans ⟨_, _, rfl⟩ (requestWhistle_eventOnly ..)
    · exact ⟨_, _, rfl⟩
  · exact EventOnly.refl c

/-- An event touches the triggers, the counts and the staging buffers alone. -/
theorem event_eventOnly (c : Chip) (t u k r d : Nat) : EventOnly c (c.event t u k r d) := by
  have h : EventOnly c ([0, 1, 2, 3].foldl (fun c j => c.trigger t u k r j) c) :=
    (((trigger_eventOnly ..).trans (trigger_eventOnly ..)).trans (trigger_eventOnly ..)).trans (trigger_eventOnly ..)
  unfold Chip.event
  dsimp only
  split
  · exact h
  · split
    · exact h.trans ⟨_, _, rfl⟩
    · exact h.trans ⟨_, _, rfl⟩

/-- What a trap leaves in the gallery, and the record it sends (R87, R89, R90). -/
theorem galTrap_gal (c : Chip) (k : Nat) (cause tval : Word) :
    (c.galTrap k cause tval).gal k =
      (if (c.trapping k).tact then { c.trapping k with halt := true, waiting := none, waitAt := c.act }
       else { c.trapping k with hart := (c.trapping k).hart.trapEntry cause tval (c.trapping k).hart.pc, tact := true, waiting := none }) ∧
    (c.galTrap k cause tval).reports = c.reports ++ [.trap k (c.trapping k).tact (c.trapping k).lgal.toNat cause (c.trapping k).hart.pc tval
      (c.trapping k).gstep c.epoch (c.trapping k).topRange] := by
  unfold Chip.galTrap
  dsimp only
  generalize c.trapping k = g
  obtain ⟨_, _, h⟩ := ((event_eventOnly ((c.setGal k (if g.tact = true then { g with halt := true, waiting := none, waitAt := c.act }
    else { g with hart := g.hart.trapEntry cause tval g.hart.pc, tact := true, waiting := none })).report
      (.trap k g.tact g.lgal.toNat cause g.hart.pc tval g.gstep c.epoch g.topRange)) ..).trans (event_eventOnly ..)).trans (event_eventOnly ..)
  rw [h]
  refine ⟨gal_setGal c k _ ?_, rfl⟩
  split
  · intro e; have := congrArg Gallery.halt e; cases this
  · intro e; have := congrArg Gallery.tact e; cases this

end Sys2Proof.Laws
end

