-- ==== Sys2Proof/Tests/Slice0.lean ====
section
/-! SUPPORT. The tests of the model: the well-formedness smoke, the spec's worked examples, and for every obligation with hypotheses a state and operands
that meet them, clause by clause (wit_ and the obligation's name). -/

open Sys2Proof Sys2Proof.Machine

namespace Sys2Proof.Tests

set_option Elab.async false

theorem and2 {a0 a1 r : Prop} (h : a0 ∧ a1) (x : r) : a0 ∧ a1 ∧ r := ⟨h.1, h.2, x⟩
theorem and3 {a0 a1 a2 r : Prop} (h : a0 ∧ a1 ∧ a2) (x : r) : a0 ∧ a1 ∧ a2 ∧ r := ⟨h.1, h.2.1, h.2.2, x⟩
theorem and4 {a0 a1 a2 a3 r : Prop} (h : a0 ∧ a1 ∧ a2 ∧ a3) (x : r) : a0 ∧ a1 ∧ a2 ∧ a3 ∧ r := ⟨h.1, h.2.1, h.2.2.1, h.2.2.2, x⟩
theorem and5 {a0 a1 a2 a3 a4 r : Prop} (h : a0 ∧ a1 ∧ a2 ∧ a3 ∧ a4) (x : r) : a0 ∧ a1 ∧ a2 ∧ a3 ∧ a4 ∧ r := ⟨h.1, h.2.1, h.2.2.1, h.2.2.2.1, h.2.2.2.2, x⟩
theorem and6 {a0 a1 a2 a3 a4 a5 r : Prop} (h : a0 ∧ a1 ∧ a2 ∧ a3 ∧ a4 ∧ a5) (x : r) : a0 ∧ a1 ∧ a2 ∧ a3 ∧ a4 ∧ a5 ∧ r := ⟨h.1, h.2.1, h.2.2.1, h.2.2.2.1, h.2.2.2.2.1, h.2.2.2.2.2, x⟩
theorem and7 {a0 a1 a2 a3 a4 a5 a6 r : Prop} (h : a0 ∧ a1 ∧ a2 ∧ a3 ∧ a4 ∧ a5 ∧ a6) (x : r) : a0 ∧ a1 ∧ a2 ∧ a3 ∧ a4 ∧ a5 ∧ a6 ∧ r := ⟨h.1, h.2.1, h.2.2.1, h.2.2.2.1, h.2.2.2.2.1, h.2.2.2.2.2.1, h.2.2.2.2.2.2, x⟩
theorem and8 {a0 a1 a2 a3 a4 a5 a6 a7 r : Prop} (h : a0 ∧ a1 ∧ a2 ∧ a3 ∧ a4 ∧ a5 ∧ a6 ∧ a7) (x : r) : a0 ∧ a1 ∧ a2 ∧ a3 ∧ a4 ∧ a5 ∧ a6 ∧ a7 ∧ r := ⟨h.1, h.2.1, h.2.2.1, h.2.2.2.1, h.2.2.2.2.1, h.2.2.2.2.2.1, h.2.2.2.2.2.2.1, h.2.2.2.2.2.2.2, x⟩
/-- Sealed, the usher running. -/
def up : Chip := Chip.reset.wr Reg.bringStatus 0x20
/-- A descriptor of an opcode in flight. -/
def qe (opc : Nat) : QEntry := ⟨BitVec.ofNat 256 opc, 0, .running, 0, 0⟩
/-- Gallery 0 of tower 0 switched on, with changes. -/
def gup (f : Gallery → Gallery) : Chip := up.setGal 0 (f { Gallery.reset with dom := .up })
/-- Queue q holds one descriptor of an opcode in flight. -/
def fl (q opc : Nat) (g : Gallery) : Gallery := g.setQueue q { Queue.reset with entries := [qe opc] }
/-- A message of one byte on its way to logical gallery 0 of tower 0. -/
def xf : Xfer := { src := 0, index := 0, dtower := 0, dgal := 0, sched := false, mcast := false, kind := .msg [1], rctr := none, epoch := 0, resends := 0, st := .flying, flow := 0, crc := 0, seq := 0, fork := none, since := 0, told := false }
def arc (x : Xfer) : Chip := { up.setGal 1 { Gallery.reset with dom := .up, stage := 1 } with flight := [x] }
/-- A chanter with a job that runs. -/
def chn : Chanter := { Chanter.reset with job := some ⟨0, [], true⟩ }
def chq (f : Chanter → Chanter) : Chip := up.setChanter 0 0 (f chn)
def op0 : ChOp := { seq := 0, line := 0, kind := .read 0, tries := 0, st := .queued }
/-- A model image: a decode plan, id 1, PIPE 1, one row; a model record; an attention record; a weight section; a head map. -/
def img : List Byte := leBytes 448 (5 * 2 ^ 64 + 64 * 2 ^ 192 + 32 * 2 ^ 512 + 224 * 2 ^ 576 + 64 * 2 ^ 640 + 16 * 2 ^ 768 + 288 * 2 ^ 832 + 64 * 2 ^ 896 + 20 * 2 ^ 1024 + 352 * 2 ^ 1088 + 16 * 2 ^ 1152 + 17 * 2 ^ 1280 + 1 * 2 ^ 1424 + 19 * 2 ^ 1536 + 368 * 2 ^ 1600 + 80 * 2 ^ 1664 + 1 * 2 ^ 1824 + 1 * 2 ^ 1840 + 257 * 2 ^ 1864 + 10 * 2 ^ 2432 + 1 * 2 ^ 2720 + 65535 * 2 ^ 2736 + 1 * 2 ^ 2816)
def sl : Selection := { midx := 0, longp := 0, pfmin := 0, pfwait := 0, pfmax := 0, dplan := 1, pplan := 0xFFFF, tplan := 1, tickets := [], ans := none }
/-- An usher with tables at 2 MiB and 4 MiB, one ticket, one model and its plan. -/
def ush1 : UsherState := { UsherState.reset with
    layout := { Layout.reset with dt0 := 0x10000000, dt1 := 0x20000000, ssp0 := 0x800000, ssp1 := 0x900000, moves := 0xA00000, flips := 0xB00000 }
    tabled := true, freeNext := 1, sel := some sl, plan := some (0, 1)
    models := [(0, { ModelSlot.empty with image := img })] }
def uk (d : Store Byte) (f : UsherState → UsherState) : Chip := { up with ush := f ush1, dram := d }
def ep (n : Nat) (c : Chip) : Chip := c.wr Reg.epoch (n * 2 ^ 32)
def at_ (n : Nat) (c : Chip) : Chip := { c with now := BitVec.ofNat 64 n }
/-- A sealed module with a ring at host address 0 that holds n entries, and a usher with a ticket. -/
def hc (n v : Nat) (l st : Store Byte) (f : UsherState → UsherState) : Chip :=
  let c := (((((uk st f).wr Reg.epoch (2 ^ 32)).wr Reg.hifCtl 2).wr (Reg.sqCfg 0) 0x160).wr (Reg.cqCfg 0) 0x20).wr Reg.hifFeat 0x3FF
  { c with
    host := { HostState.reset with negotiated := true, sq := [(0, { tail := BitVec.ofNat 16 n, base := 0, log2n := 6 })], cq := [(0, { CqState.reset with log2n := 6 })] }
    hostMem := (((leBytes 192 v).zipIdx.filter fun x => x.1 != 0).map fun x => (x.2, x.1)) ++ l }
/-- The command accepted, and the module beside it. -/
def acM0 (c : Chip) : HostCmd := (c.takeCmd 0 (fun _ => true) true).host.accepted.headD ⟨0, 0, 0, [], [], none, false, false⟩
def acD (c : Chip) : Chip := let t := c.takeCmd 0 (fun _ => true) true; { t with host := { t.host with accepted := [] } }
def acM (c : Chip) : HostCmd := { acM0 c with late := (acD c).cmdLate (acM0 c) }
theorem acc (c : Chip) (h : c.usherRuns = true ∧ c.sqReady 0 = true ∧ c.sqTurn 0 = true ∧ (acM c).entry = c.sqEntry 0 (c.sqHead 0) ∧ (acM c).fed = false ∧
    (c.takeCmd 0 (fun _ => true) true).host.accepted = [acM0 c]) : c.Accepts 0 true (acM c) (acD c) := by
  obtain ⟨h1, h2, h3, h4, h5, h6⟩ := h
  refine ⟨h1, h2, h3, h4, h5, rfl, acM0 c, rfl, ?_⟩
  rw [← h6]; rfl
theorem opt_get {α : Type} (x : Option α) (h : x.isSome = true) : x = some (x.get h) := by simp
def h83 : Chip := { (uk [(0x10000004, 0x5)] id).wr Reg.hifFeat 2 with host := { HostState.reset with areas := [(0x1000, 0x10000000)] } }
def h92 : Chip := hc 1 0x1000000000000000000003 [] [(0x10000004, 0x5), (0x10000005, 0x10), (0x10000010, 0x1)] id
def h93 : Chip := hc 1 0x1000000000000000000004 [] [(0x10000004, 0x3), (0x10000005, 0x10), (0x10000010, 0x1)] id
def h95 : Chip := hc 1 0x1000000000000000000006 [] [(0x10000004, 0x5), (0x10000005, 0x10), (0x10000010, 0x1)] id
def h96 : Chip := hc 1 0x1000000000000000010000000000000000000000000000001000000000000000000007 [] [(0x10000004, 0x5), (0x10000005, 0x10), (0x10000010, 0x1)] id
def h97 : Chip := hc 1 0x1000000000000000000008 [] [(0x10000004, 0x7)] id
def h98 : Chip := hc 1 0x20000000000001000000000000000000009 [(0x201, 0x10), (0x209, 0x10), (0x20C, 2)] [(0x10000004, 0x5), (0x10000005, 0x10), (0x10000010, 0x1)] id
def h99 : Chip := hc 1 0x10000000000000000000000000000000020000000000000000000000000000000010 [(0x201, 0x10), (0x209, 0x10), (0x20C, 2)] [(0x10000004, 0x5), (0x10000005, 0x10), (0x10000010, 0x1)] id
def h100 : Chip := hc 1 0x10000000000000000100000000000000020000000000000000000000000000000010 [(0x201, 0x10), (0x209, 0x10), (0x20C, 2)] [(0x10000004, 0x5), (0x10000005, 0x10), (0x10000010, 0x1)] id
def h101 : Chip := hc 1 0x10000000000000000000000000000000000000000000000000010 [] [(0x10000004, 0x5), (0x10000005, 0x10), (0x10000010, 0x1)] id
def h102 : Chip := hc 1 0x11 [] [(0x10000004, 0x5), (0x10000005, 0x10), (0x10000010, 0x1)] id
def h103 : Chip := hc 1 0x12 [] [(0x10000004, 0x5), (0x10000005, 0x10), (0x10000010, 0x1)] id
def h104 : Chip := hc 1 0x13 [] [(0x10000004, 0x5), (0x10000005, 0x10), (0x10000010, 0x1)] id
def h105 : Chip := hc 1 0x10000000000000000000000000000020000000000000000000000000000000014 [(0x201, 0x10), (0x209, 0x10), (0x20C, 2)] [(0x10000004, 0x5), (0x10000005, 0x10), (0x10000010, 0x1)] id
def h91 : Chip := hc 2 0x1000000000000000000000004001000000000000000010002 [] [(0x620002, 0x64), (0x62000a, 0x66), (0x10000004, 0x5), (0x10000005, 0x10), (0x10000010, 0x1), (0x10000062, 0x62), (0x1000006a, 0x62)] id

def tx (ty len : Nat) (d : List Byte) : Txn := { type := ty, ackreq := true, ush := true, tag := 0, epoch := 0, status := 0, offset := 0, annex := 1, len := len, arg := 0, data := d }
def an : Annex := { id := 1, node := 0, boot := 0, purpose := 1, len := 64, pieces := [(0x600000, 64)] }
/-- Link 0 up at version 2.0, the usher running, an annex granted to its partner. -/
def lk (f : LinkState → LinkState) : Chip := { (uk [] id).wr (Reg.linkStat 0) 0x2002 with lk := { Links.reset with annexes := [an], link := [(0, f { LinkState.reset with nextTag := 1 })] } }
/-- Transactions that have come on channel vc. -/
def lin (vc : Nat) (t : Txn) (o : List LinkReq) : Chip := lk fun x => { x with inbox := [(vc, [t])], out := o }
def lou (o : List LinkReq) : Chip := lk fun x => { x with out := o }
def rq (w : LinkWhy) (again : Option DWord) : LinkReq := { txn := tx 2 64 [], why := w, since := 0, again := again }
def msg (l : List (Nat × Nat × List Byte)) : Chip := let c := lk id; { c with lk := { c.lk with msgs := l } }
/-- Before seal: bring-up at step n in a state. -/
def dn (v : Nat) (b : BringState → BringState) : Chip := { Chip.reset.wr Reg.bringStatus v with sys := { SysState.reset with bring := b BringState.reset } }
def fz : Fuses := { part := .ihl4t768, layers := [12, 12, 12, 12], badGal := [], badBus := [], badSlice := [], badFoot := [], rowRep := [], badCh := [], badLanes := [], base := [], keys := [], keyrev := 0, svnmin := 0 }
def rx (w : Receiver) : RecvState := { who := w, data := [], held := [], writeBad := false, answered := true, asked := false, okAt := 1, closed := false, fenced := false }
/-- A firmware image whose gallery section is one byte. -/
def fw : List Byte := leBytes 128 (2 ^ 64 + 64 * 2 ^ 192 + 2 * 2 ^ 512 + 96 * 2 ^ 576 + 2 ^ 640)
def pw (f : PowerState → PowerState) (c : Chip) : Chip := { c with sys := { c.sys with power := f PowerState.reset } }
def pins (f : PinState → PinState) (c : Chip) : Chip := { c with sys := { c.sys with pins := f PinState.reset } }
def bf (c : Chip) : Chip := { c with sys := { c.sys with bring := { BringState.reset with everSealed := true } } }
def dg : Chip := ((up.wr Reg.diagctl 1).wr (Reg.diagarea 0) 0x600000).wr Reg.diagaddr 0x600000
def me (f : MemState → MemState) (c : Chip) : Chip := { c with mem := f c.mem }
def fr (p : Nat) : FrameId := { tower := 0, pos := p, layer := 0, bank := 0, f := 0, whole := false }
def rp (m : UsherMsg) (c : Chip) : Chip := { c with reports := [m] }
def flit : BitVec 2048 := BitVec.ofNat 2048 (crc32 (leBytes 252 0) * 2 ^ 2016)
def capf : BitVec 2048 := let v := 2 ^ 73 + 0x4D4C4F48 * 2 ^ 96; BitVec.ofNat 2048 (v + crc32 (leBytes 252 v) * 2 ^ 2016)
def rtc : Chip := { up.wr (Reg.vmap 0 96) 0x81 with sys := { SysState.reset with ras := { RasState.reset with due := [⟨fr 0, false⟩] } } }
def rte : Chip := rtc.onRas fun r => { r with due := r.due.erase ⟨fr 0, false⟩ }
theorem head_tail (l : List FrameId) (h : l ≠ []) : l = l.head h :: l.tail := by simp
theorem rte_ne : rte.reserveList 0 false ≠ [] := by decide +kernel
def imgT : List Byte := imB img 0 232 ++ [1] ++ img.drop 233
def tfc (n : Nat) : Chip := me (fun m => { m with stairOut := [(n, true), (n + 1, true)] }) (uk [] id)
def tfd (n t : Nat) : Chip := ((tfc n).onUsh fun u => { u with tdown := u.tdown ++ [t] }).notice 0x0207 2 t (openDetail 0x0207 t)
theorem tf_left : ((tfd 4 1).planLeft sl).isSome = true := by decide +kernel
def sb (n : Nat) : Chip := ep n ({ (uk [] id).wr Reg.bringStatus 0x2000020 with sys := { SysState.reset with ha := { HaState.reset with takeover := true } } })
def wt : Chip := (ep 1 (((uk [] id).wr (Reg.tw 0 0) 0x10009).setGal 1 { Gallery.reset with dom := .up, stepped := true, hold := true, waiting := some (.step 0) }))
def dmc : Chip := { up with dbg := { DebugState.reset with scanDma := true } }
def dmd : Chip := { dmc with dbg := { dmc.dbg with scanDma := false } }
def blk (c : Chip) (a n : Nat) : Chip := Chip.onUsh { c with free := c.free + 1 } fun x => { x with blocks := Store.put zeroNat x.blocks a n }
theorem takeBlock_one (c : Chip) (t n align a : Nat)
    (h : (c.ush.frames.filter fun e => e.1 / 2 ^ 17 == t && e.2 == .blocks).foldl (fun l e => l ++ c.gaps e.1 n align) [] = [a]) :
    c.takeBlock t n align = some (blk c a n, a) := by
  unfold Chip.takeBlock
  simp only [h, List.isEmpty_cons, Chip.pick, List.length_singleton, Nat.mod_one, Bool.false_eq_true, if_false, Option.map_some]
  rfl
theorem listGet_one (n : Nat) : listGet 0 [0] n = 0 := by cases n <;> simp [listGet]
theorem pickTowers_one (c : Chip) (h : c.workTowers = [0]) : c.pickTowers = ((0, 0), { c with free := c.free + 2 }) := by
  simp [Chip.pickTowers, h, Chip.pick, listGet_one]
theorem takeTwo_one (c : Chip) (n align a b : Nat) (h : c.workTowers = [0] ∧
    (c.ush.frames.filter fun e => e.1 / 2 ^ 17 == 0 && e.2 == .blocks).foldl (fun l e => l ++ Chip.gaps { c with free := c.free + 2 } e.1 n align) [] = [a] ∧
    ((blk { c with free := c.free + 2 } a n).ush.frames.filter fun e => e.1 / 2 ^ 17 == 0 && e.2 == .blocks).foldl (fun l e => l ++ (blk { c with free := c.free + 2 } a n).gaps e.1 n align) [] = [b]) :
    c.takeTwo n align = some (blk (blk { c with free := c.free + 2 } a n) b n, a, b) := by
  rw [Chip.takeTwo, pickTowers_one c h.1]
  dsimp only
  rw [takeBlock_one _ _ _ _ a h.2.1]
  dsimp only
  rw [takeBlock_one _ _ _ _ b h.2.2]
def cb (n : Byte) : Chip := uk [(0x10000004, 1), (0x10000010, n)] fun u => { u with frames := [(6, .blocks)] }
def rootAt (c : Chip) (a : Nat) : Chip := (blk c a 64).memWrite a (leBytes 4 0x5450564B ++ leBytes 2 1 ++ [0, 0] ++ leBytes 4 0 ++ leBytes 52 0)
abbrev cbm (n : Byte) : Chip := (cb n).mend 0
def cb1 (n : Byte) : Chip := (rootAt (cbm n) 0xC00000).tkPut 0 0x20 8 0xC00000
theorem cb_root (n : Byte) (h : n = 1 ∨ n = 2) : (cbm n).newRoot ((cbm n).tkImage 0) 0 = some (rootAt (cbm n) 0xC00000, 0xC00000) := by
  obtain rfl | rfl := h <;> (rw [Chip.newRoot, Chip.newRootOf, takeBlock_one _ _ _ _ 0xC00000 (by decide +kernel)]; decide +kernel)
theorem cb_bind (n : Byte) (h : n = 1 ∨ n = 2) :
    (if (cbm n).tkRoot 0 ≠ 0 then some (cbm n, (cbm n).tkRoot 0) else (cbm n).newRoot ((cbm n).tkImage 0) 0) = some (rootAt (cbm n) 0xC00000, 0xC00000) := by
  rw [if_neg (by obtain rfl | rfl := h <;> decide +kernel), cb_root n h]
theorem cb_ready (n : Byte) (h : n = 1 ∨ n = 2) : Chip.readyPos (cb1 n) 0 0 = some (cb1 n) := by
  obtain rfl | rfl := h <;> decide +kernel

def spi0 : List Byte := leBytes 128 (0x4C4C5053 + 2 ^ 32 + 0x100000 * 2 ^ 64 + 128 * 2 ^ 448)
def spi : List Byte := spi0.take 0x1C ++ leBytes 4 (imageCrc spi0) ++ spi0.drop 0x20
def pk0 : Pack := ⟨0, 0, false, 0, false⟩
def rc : Chip := { (uk [(0x10000004, 7), (0x10000005, 4)] fun u => { u with frames := [(6, .blocks)], aux := [(0, { TkAux.empty with imgLen := 128, recallAt := 1, pack := some pk0 })] }) with
  lk := { Links.reset with pieces := [(0, 0, spi)] } }
def rcs : Chip := (rc.mend 0).sendWorks
def rcq : Chip := (rcs.worksGone (Work.is (.recall 0))).setPack 0 pk0
theorem rc_commit : ∃ d : Chip, rcq.recallCommit 0 (rcs.tkImage 0) spi = some d := by
  have h : rcq.newRoot (rcs.tkImage 0) 0 = some (rootAt rcq 0xC00000, 0xC00000) := by
    rw [Chip.newRoot, Chip.newRootOf, takeBlock_one _ _ _ _ 0xC00000 (by decide +kernel)]; decide +kernel
  have e : (rcq.aux 0).npos = 0 := by decide +kernel
  rw [Chip.recallCommit]; dsimp only; rw [e, h]; dsimp only
  exact ⟨_, opt_get _ (by decide +kernel)⟩
theorem rc_ok : (rc.mend 0).recallImage 0 = some spi ∧ (rc.mend 0).imageOk 0 ((rc.mend 0).modelId ((rc.mend 0).tkModel 0)) spi = true := by decide +kernel
def fr6 (u : UsherState) : UsherState := { u with frames := [(6, .blocks)], tdown := [1, 2, 3] }
def h90 : Chip := hc 3 (1 + 2 * 2 ^ 8 + 2 * 2 ^ 16 + 68 * 2 ^ 96 + 2 ^ 192) [] [] fr6
def h94 : Chip := hc 1 (5 + 0x100000 * 2 ^ 64) [] [(0x10000004, 3), (0x20000004, 3)] fr6
def tok (c : Chip) (n a b : Nat) : Chip := blk (blk { c with free := c.free + 2 } a n) b n
def newLogAt (c : Chip) (a b : Nat) : Chip := ((tok c 512 a b).memWrite a (leBytes 512 0)).memWrite b (leBytes 512 0)
theorem newLog_one (c : Chip) (a b : Nat) (h : c.takeTwo 512 64 = some (tok c 512 a b, a, b)) : c.newLog = some (newLogAt c a b, a, b) := by
  simp only [Chip.newLog, h, Option.map_some, newLogAt]
def a90 : Chip := (acD h90).onUsh fun x => { x with freeNext := 2 }
theorem log90 : a90.newLog = some (newLogAt a90 0xC00000 0xC00200, 0xC00000, 0xC00200) :=
  newLog_one _ _ _ (takeTwo_one _ _ _ _ _ (by decide +kernel))
def b94 : Chip := (acD h94).mend 0
theorem fork94 : ∃ y : Chip, b94.fork 0 (acM h94) = some y := by
  have h1 : b94.takeIndex = some (b94.onUsh fun x => { x with freeNext := 2 }, 1) := by decide +kernel
  have h2 : (b94.onUsh fun x => { x with freeNext := 2 }).newLog = some (newLogAt (b94.onUsh fun x => { x with freeNext := 2 }) 0xC00000 0xC00200, 0xC00000, 0xC00200) :=
    newLog_one _ _ _ (takeTwo_one _ _ _ _ _ (by decide +kernel))
  rw [Chip.fork, h1]; dsimp only; rw [h2]; dsimp only
  rw [show (List.range ((newLogAt (b94.onUsh fun x => { x with freeNext := 2 }) 0xC00000 0xC00200).tkNtok 0)).map (fun p => (newLogAt (b94.onUsh fun x => { x with freeNext := 2 }) 0xC00000 0xC00200).logEntry 0 p) = [] by decide +kernel]
  rw [Chip.logAppend]; dsimp only
  rw [Chip.forkTables, Chip.newRootOf, takeBlock_one _ _ _ _ 0xC00400 (by decide +kernel)]
  exact ⟨_, opt_get _ (by decide +kernel)⟩

def a91 : Chip := (newLogAt a90 0xC00000 0xC00200).tkPutAll 1 (putParams (acM h90).payload
  (paramDefaults + (newLogAt a90 0xC00000 0xC00200).tkTicket 1 + payN (acM h90).payload 48 1 * 2 ^ (8 * 7) + payN (acM h90).payload 49 1 * 2 ^ (8 * 8)
    + payN (acM h90).payload 50 1 * 2 ^ (8 * 9) + entryCring (acM h90).entry * 2 ^ (8 * 0xC) + 0xFFFF * 2 ^ (8 * 0xE) + payN (acM h90).payload 40 8 * 2 ^ (8 * 0x50)
    + 0xC00000 * 2 ^ (8 * 0x60) + 0xC00200 * 2 ^ (8 * 0x68)))
theorem log91 : a91.takeTwo 65536 64 = some (tok a91 65536 0xC00400 0xC10400, 0xC00400, 0xC10400) :=
  takeTwo_one _ _ _ _ _ (by decide +kernel)
theorem put91 : ∃ d : Chip, a91.logPut 1 (a91.tkNtok 1) 0 = some d := by
  rw [show a91.tkNtok 1 = 0 by decide +kernel]
  unfold Chip.logPut
  simp only [show a91.segAddr 1 0 0 = 0 by decide +kernel, log91, ne_eq, not_true, if_false, Option.map_some]
  exact ⟨_, rfl⟩
theorem admit90 : ∃ y : Chip, (acD h90).admitTicket (acM h90) = some y := by
  have h1 : (acD h90).takeIndex = some (a90, 1) := by decide +kernel
  have h0 : entrySTOPS (acM h90).entry = false := by decide +kernel
  obtain ⟨d, hd⟩ := put91
  unfold Chip.admitTicket
  simp only [h0, h1, log90, Bool.false_eq_true, if_false]
  rw [show cmdTokens (acM h90).entry (acM h90).payload = [0] by decide +kernel]
  have e := a91.eq_1.symm
  simp only [Chip.logAppend, e, hd]
  have hm : mapLen (acM h90).entry = 0 := by decide +kernel
  simp only [Chip.keepMap, hm, if_true]
  exact ⟨_, rfl⟩
def h97b : Chip := hc 1 0x1000000000000000000008 [] [(0x10000004, 0x5), (0x10000005, 0x10), (0x10000010, 0x1)] id
/-- TRST_N high. -/
def jt (c : Chip) : Chip := { c with sys := { c.sys with pins := { c.sys.pins with trst := true } } }
theorem worksEnd_none (c : Chip) (p : Work → Bool) (h : c.worksOf p = []) : c.worksEnd p [] = some (c.sendWorks, true) := by
  simp [Chip.worksEnd, h]
def pwk : Work := ⟨0, 0, .patrol, .patrol 0, [(0, 0, 0)], true, none⟩
/-- Cluster 0 patrols: its job runs on chanter 0. -/
def pt (f : MemState → MemState) : Chip := ({ chq id with mem := f up.mem }.onUsh fun u => { u with works := [pwk] }).wr (Reg.chcCtl 0 0) 0x80000
def pto : Chip := pt fun m => { m with raw := [(0, true)] }
theorem pto_lines : pto.patrolLines 0 0 = [0] := by
  have h : ∀ (l : List Nat) (f : Nat → Nat → Bool), l = [0] → l.mergeSort f = [0] := by
    rintro _ f rfl; exact List.mergeSort_singleton ..
  exact h _ _ (by decide +kernel)
theorem patrol_end (v : Nat) (c : Chip) (l : List Nat) (h : l = []) : Chip.patrolGo v l c = (c, none) := by subst h; rfl
theorem pt_lines : (pt id).patrolLines 0 0 = [] := by
  have h : ∀ (l : List Nat) (f : Nat → Nat → Bool), l = [] → l.mergeSort f = [] := by
    rintro _ f rfl; exact List.mergeSort_nil ..
  exact h _ _ (by decide +kernel)
def pt65 : Chip × Option Nat := Chip.patrolGo 0 [0] pto
theorem pt65_some : pt65.2.isSome = true := by decide +kernel
theorem pt65_eq : Chip.patrolGo 0 (pto.patrolLines 0 0) pto = (pt65.1, some (pt65.2.get pt65_some)) := by
  rw [pto_lines]; exact Prod.ext rfl (opt_get _ _)
def h79m : HostCmd := ⟨1, 0, BitVec.ofNat 512 (4 + 0x100000 * 2 ^ 64), [], [], none, false, false⟩
def h79 : Chip := let c := uk [(0x10000004, 0x2), (0x10000005, 0x50), (0x10000010, 0x1)] id; { c with host := { c.host with accepted := [h79m] } }
def h89 : Chip := h83.onUsh fun u => { u with spilling := true }
theorem h89_next : h89.spillNext = some (0, .host 0x1000 4096 true) := by
  have h : ∀ (l : List Nat) (f : Nat → Nat → Bool), l = [0] → l.mergeSort f = [0] := by
    rintro _ f rfl; exact List.mergeSort_singleton ..
  rw [Chip.spillNext, h _ _ (by decide +kernel)]; decide +kernel
theorem pool83 : h83.framesBelow 0 (h83.rdF Reg.clkcfg 32 7) = true := by
  have h : ∀ n : Nat, 0 < n → decide (h83.rdF (Reg.kvfree 0) 0 24 * 100 < h83.rdF Reg.clkcfg 32 7 * n) = true := by
    intro n hn
    rw [show h83.rdF (Reg.kvfree 0) 0 24 = 0 by decide +kernel, show h83.rdF Reg.clkcfg 32 7 = 8 by decide +kernel]
    exact decide_eq_true (by omega)
  exact h _ (List.length_pos_of_mem (a := 1) (List.mem_filter.2 ⟨List.mem_range.2 (by norm_num), by decide +kernel⟩))
def cqi (i d : Nat) (l : Store Word) : Chip :=
  let c := (hc 1 0 [] [] id).wr (Reg.cqCfg 0) 0x60
  at_ 100000000 { c with host := { c.host with cq := [(0, { CqState.reset with icount := i, ifirst := 1, idue := d })], cfg := l, msix := [(3, 0)] } }
theorem fec_any (msg : BitVec 20560) (parity : BitVec 1200) :
    ∃ (v : Nat) (good : Bool) (ks : List Nat), blockDecode (msg.toNat + parity.toNat * 2 ^ 20560) = (v, good, ks) := ⟨_, _, _, rfl⟩
/-- A layout inside the usher's own frames. -/
def lay : Layout :=
  let at_ (a : Nat) : List Nat := (List.range 4).map fun t => t * 2 ^ 38 + a
  { Layout.reset with header := 0x1000, record := 0x2000, dt0 := 2 ^ 27, dt1 := 2 ^ 38 + 2 ^ 27, ssp0 := 2 ^ 28, ssp1 := 2 ^ 38 + 2 ^ 28, moves := 0x12000000, flips := 0x18000000,
                      rows := at_ 0x20000000, result := at_ 0x20200000, shadow := at_ 0x21000000, work := at_ 0x28000000, stage := (at_ 0x30000000).map fun a => (a, 2 ^ 21), owned := [(0, 2 ^ 19)] }

/-! ### States and operands that meet the hypotheses of the obligations -/

/-- A gallery whose core runs, with one instruction at 0 and x2 = 0x10000. -/
def gi (v : Nat) : Chip := gup fun g => { g with imem := ((leBytes 4 v).zipIdx.filter fun x => x.1 != 0).map fun x => (x.2, x.1), hart := Hart.reset.set 2 0x10000#32 }
def gz : GalId := ⟨0, 0⟩

theorem wit_IdleStepCountsTime : ∃ s : State, s.pending = [] ∧ s.chip.dbg.stage = [] := ⟨State.reset, rfl, rfl⟩
theorem wit_MemoryStaysCanonical : ∃ s t : State, Memory.wf s.chip.dram = true ∧ step s = .next t ∧ s.pending ≠ [] :=
  ⟨{ State.reset with pending := [.pllLock] }, _, by decide, rfl, by decide⟩
theorem wit_RegisterFieldsDisjoint : ∃ (off : Nat) (d : RegDef), regAt off = some d := ⟨Reg.ver, _, rfl⟩
theorem wit_WriteRulesOfFields : ∃ (off : Nat) (d : RegDef) (f : RegField) (old : Nat), regAt off = some d ∧ f ∈ d.fields ∧ old < 2 ^ d.width :=
  ⟨Reg.policy, (regAt Reg.policy).get (by decide +kernel), ((regAt Reg.policy).get (by decide +kernel)).fields.head (by decide +kernel), 0, opt_get _ _, List.head_mem _, by decide +kernel⟩
theorem wit_ReadsShowFields : ∃ (off : Nat) (d : RegDef) (f : RegField) (i : Nat), regAt off = some d ∧ f ∈ d.fields ∧ ∀ f ∈ d.fields, i < f.lo ∨ f.lo + f.len ≤ i :=
  ⟨Reg.policy, (regAt Reg.policy).get (by decide +kernel), ((regAt Reg.policy).get (by decide +kernel)).fields.head (by decide +kernel), 64, opt_get _ _, List.head_mem _, by decide +kernel⟩
theorem wit_RegisterReadsComplete :
    (∃ (c : Chip) (who : Half) (off high : BitVec 26) (d : RegDef), regAt off.toNat = some d ∧ (c.inReset = false ∧ c.absent off.toNat = false ∧ c.pageOf off.toNat = none ∧
      c.serves off.toNat = true ∧ ¬ (Reg.scanwin ≤ off.toNat ∧ off.toNat < Reg.scanwin + 0x10000)) ∧ d.width = 64 ∧ off.toNat % 8 = 0 ∧ high.toNat = off.toNat + 4 ∧
      regAt high.toNat = none ∧ c.serves high.toNat = true ∧ Store.get noLatch c.latch (latchKey who off.toNat) = none) ∧
    (∃ (c : Chip) (who : Half) (off high : BitVec 26) (d : RegDef) (w : Word), regAt off.toNat = some d ∧ d.width = 64 ∧ off.toNat % 8 = 0 ∧ high.toNat = off.toNat + 4 ∧
      regAt high.toNat = none ∧ c.serves high.toNat = true ∧ Store.get noLatch c.latch (latchKey who off.toNat) = some w) ∧
    (∃ (c : Chip) (off : BitVec 26) (d : RegDef), regAt off.toNat = some d ∧ d.width = 32 ∧ off.toNat % 4 = 0 ∧ c.serves off.toNat = true ∧ c.absent off.toNat = false ∧
      c.pageOf off.toNat = none) :=
  ⟨⟨up, 0, 0x10, 0x14, (regAt 0x10).get (by decide +kernel), opt_get _ _, by decide +kernel, by decide +kernel, by decide, by decide, by decide +kernel, by decide +kernel, by decide +kernel⟩,
   ⟨{ up with latch := [(latchKey 0 0x10, some 1)] }, 0, 0x10, 0x14, (regAt 0x10).get (by decide +kernel), 1, opt_get _ _, by decide +kernel, by decide, by decide, by decide +kernel, by decide +kernel, by decide +kernel⟩,
   ⟨up, 8, (regAt 8).get (by decide +kernel), opt_get _ _, by decide +kernel, by decide, by decide +kernel, by decide +kernel, by decide +kernel⟩⟩
theorem wit_RegisterWritesComplete :
    (∃ (c : Chip) (off high : BitVec 26) (d : RegDef), regAt off.toNat = some d ∧ d.width = 64 ∧ off.toNat % 8 = 0 ∧ c.inReset = false ∧ c.dropsWrite off.toNat = false ∧
      c.takesWrite off.toNat = true ∧ ¬ (Reg.scanwin ≤ off.toNat ∧ off.toNat < Reg.scanwin + 0x10000) ∧ regAt high.toNat = none ∧ high.toNat = off.toNat + 4 ∧
      high.toNat % 8 = 4 ∧ c.dropsWrite high.toNat = false) ∧
    (∃ (off : BitVec 26) (size : Fin 4097), ¬ ((size.val = 4 ∨ size.val = 8) ∧ off.toNat % size.val = 0)) :=
  ⟨⟨up, BitVec.ofNat 26 Reg.policy, BitVec.ofNat 26 (Reg.policy + 4), (regAt (BitVec.ofNat 26 Reg.policy).toNat).get (by decide +kernel), opt_get _ _, by decide +kernel⟩, 2, 4, by decide⟩
theorem wit_WritesThatAreIgnored :
    (∃ (c : Chip) (off : BitVec 26) (b : Nat), off.toNat % 4 = 0 ∧ off.toNat / 0x100000 = b ∧ c.stopped = true ∧ b ≠ 4 ∧ b ≠ 6 ∧ off.toNat ≠ Reg.bringReset ∧ c.inReset = false) ∧
    (∃ (c : Chip) (off : BitVec 26) (t : Nat), c.stopped = false ∧ c.inReset = false ∧ off.toNat % 4 = 0 ∧ c.isSealed = true ∧ towerOf off.toNat = some t ∧
      (∀ o, off.toNat - 4 ≤ o → o ≤ off.toNat + 4 → sealedTowerOk t o = false)) ∧
    (∃ (c : Chip) (off : BitVec 26), c.isSealed = false ∧ off.toNat / 0x100000 ∈ [2, 3, 4, 5, 7] ∧ off.toNat / 8 ≠ Reg.node / 8 ∧ c.thermStopped = false ∧ c.stopped = false) ∧
    (∃ (c : Chip) (off : BitVec 26), c.stopped = false ∧ ∀ o, off.toNat - 4 ≤ o → o ≤ off.toNat + 4 → c.absent o = true) ∧
    (∃ (c : Chip) (off : BitVec 26), c.stopped = false ∧ ∀ o, off.toNat - 4 ≤ o → o ≤ off.toNat + 4 → regAt o = none) := by
  refine ⟨⟨up.wr Reg.wstat 1, 0x200000, 2, by decide +kernel⟩, ⟨up, 0x1000000, 0, by decide +kernel, by decide +kernel, by decide, by decide +kernel, by decide +kernel, ?_⟩,
    ⟨Chip.reset, 0x200000, by decide +kernel⟩, ⟨{ up with part := .ihl3t576 }, 0x1C00008, by decide +kernel, ?_⟩, ⟨up, 0x180008, by decide +kernel, ?_⟩⟩
  · intro o h1 h2
    have : o = 0xfffffc ∨ o = 0xfffffd ∨ o = 0xfffffe ∨ o = 0xffffff ∨ o = 0x1000000 ∨ o = 0x1000001 ∨ o = 0x1000002 ∨ o = 0x1000003 ∨ o = 0x1000004 := by
      simp at h1 h2; omega
    rcases this with rfl | rfl | rfl | rfl | rfl | rfl | rfl | rfl | rfl <;> decide +kernel
  · intro o h1 h2
    have : o = 0x1C00004 ∨ o = 0x1C00005 ∨ o = 0x1C00006 ∨ o = 0x1C00007 ∨ o = 0x1C00008 ∨ o = 0x1C00009 ∨ o = 0x1C0000A ∨ o = 0x1C0000B ∨ o = 0x1C0000C := by
      simp at h1 h2; omega
    rcases this with rfl | rfl | rfl | rfl | rfl | rfl | rfl | rfl | rfl <;> decide +kernel
  · intro o h1 h2
    have : o = 0x180004 ∨ o = 0x180005 ∨ o = 0x180006 ∨ o = 0x180007 ∨ o = 0x180008 ∨ o = 0x180009 ∨ o = 0x18000a ∨ o = 0x18000b ∨ o = 0x18000c := by
      simp at h1 h2; omega
    rcases this with rfl | rfl | rfl | rfl | rfl | rfl | rfl | rfl | rfl <;> decide +kernel
/-- One error that an instruction finds, in a word of its own data memory. -/
def up1 (c : Chip) : Chip := [(⟨.dmem 8, true⟩ : GalUpset)].foldl (Chip.upset gz) c
theorem wit_ScalarInstructionsRetire : ((up1 (gi 0x13)).CoreReady 0 ∧ (gi 0x13).CoreReady 0) ∧
    (∃ (c : Chip) (g : GalId) (len : Nat) (i : Rv) (h : Hart), c.CoreReady (galKey g) ∧ fetchRv (c.gal (galKey g)).fetchHalf (c.gal (galKey g)).hart.pc.toNat = .ok (len, i) ∧
      rvExec (c.gal (galKey g)).hart i len = .done h) ∧
    (∃ (c : Chip) (g : GalId) (len b rd v : Nat) (i : Rv) (sg : Bool) (a : Word), c.CoreReady (galKey g) ∧
      fetchRv (c.gal (galKey g)).fetchHalf (c.gal (galKey g)).hart.pc.toNat = .ok (len, i) ∧ rvExec (c.gal (galKey g)).hart i len = .load b sg rd a ∧ (c.gal (galKey g)).load b a.toNat = .ok v) ∧
    (∃ (c : Chip) (g : GalId) (len b : Nat) (i : Rv) (a v : Word) (G : Gallery), c.CoreReady (galKey g) ∧
      fetchRv (c.gal (galKey g)).fetchHalf (c.gal (galKey g)).hart.pc.toNat = .ok (len, i) ∧ rvExec (c.gal (galKey g)).hart i len = .store b a v ∧
      (c.gal (galKey g)).store b a.toNat (v.toNat % 2 ^ (8 * b)) = .ok G) ∧
    (∃ (c : Chip) (g : GalId) (len rd n : Nat) (op : RvCsr) (i : Rv) (v old : Word) (wr : Bool), c.CoreReady (galKey g) ∧
      fetchRv (c.gal (galKey g)).fetchHalf (c.gal (galKey g)).hart.pc.toNat = .ok (len, i) ∧ rvExec (c.gal (galKey g)).hart i len = .csr op rd n v wr ∧
      (c.gal (galKey g)).csrRead (galKey g) n = some old ∧ (wr = true → n < 0xC00)) :=
  ⟨by unfold Chip.CoreReady; decide +kernel, ⟨gi 0x13, gz, 4, _, _, by unfold Chip.CoreReady; decide +kernel, rfl, rfl⟩, ⟨gi 0x00012083, gz, 4, _, _, _, _, _, _, by unfold Chip.CoreReady; decide +kernel, rfl, rfl, rfl⟩,
   ⟨gi 0x00112023, gz, 4, _, _, _, _, _, by unfold Chip.CoreReady; decide +kernel, rfl, rfl, rfl⟩, ⟨gi 0x34011073, gz, 4, _, _, _, _, _, _, _, by unfold Chip.CoreReady; decide +kernel, rfl, rfl, rfl, by decide +kernel⟩⟩
theorem wit_IssueQueuesTheDescriptor :
    (∃ (c : Chip) (g : GalId) (rs1 : Fin 32) (q : Fin 8) (addr : Word), c.CoreReady (galKey g) ∧ addr = c.xreg (galKey g) rs1 ∧
      issueReject c.epoch q.val addr.toNat (descAt (c.gal (galKey g)).dmem addr.toNat) = none ∧ (c.gal (galKey g)).eccBad 0x2000000 addr.toNat 32 = false ∧
      ((c.gal (galKey g)).queue q.val).entries.length < queueDepth q.val) ∧
    (∃ (c : Chip) (g : GalId) (rs1 : Fin 32) (q : Fin 8) (addr : Word), c.CoreReady (galKey g) ∧ addr = c.xreg (galKey g) rs1 ∧
      issueReject c.epoch q.val addr.toNat (descAt (c.gal (galKey g)).dmem addr.toNat) = none ∧ (c.gal (galKey g)).eccBad 0x2000000 addr.toNat 32 = false ∧
      queueDepth q.val ≤ ((c.gal (galKey g)).queue q.val).entries.length) ∧
    (∃ (c : Chip) (g : GalId) (qn rdn : Nat) (addr : Word), c.CoreWaits (galKey g) ∧ (c.gal (galKey g)).waiting = some (.issue rdn qn addr) ∧
      ((c.gal (galKey g)).queue qn).entries.length < queueDepth qn) ∧
    (∃ (c : Chip) (g : GalId) (mask : Nat), c.CoreWaits (galKey g) ∧ (c.gal (galKey g)).waiting = some (.fenceq mask) ∧ (c.gal (galKey g)).drained mask = true) :=
  ⟨⟨gi 0, gz, 2, 0, 0x10000, by unfold Chip.CoreReady; decide +kernel⟩,
   ⟨gup fun g => ({ g with hart := Hart.reset.set 2 0x10000#32 } : Gallery).setQueue 0 { Queue.reset with entries := List.replicate 16 (qe 0) }, gz, 2, 0, 0x10000,
    by unfold Chip.CoreReady; decide +kernel⟩,
   ⟨gup fun g => { g with halt := true, waiting := some (.issue 1 0 0x10000) }, gz, 0, 1, 0x10000, by unfold Chip.CoreWaits; decide +kernel⟩,
   ⟨gup fun g => { g with waiting := some (.fenceq 31) }, gz, 31, by unfold Chip.CoreWaits; decide +kernel⟩⟩
theorem wit_StepsAndEpochsRetire :
    (∃ (c : Chip) (g : GalId), c.CoreReady (galKey g) ∧ (c.gal (galKey g)).hold = false) ∧
    (∃ (c : Chip) (g : GalId), c.CoreReady (galKey g) ∧ (c.gal (galKey g)).hold = true) ∧
    (∃ (c c1 : Chip) (g : GalId) (n : Word), c1 = c.setGal (galKey g) { c.gal (galKey g) with hold := false } ∧ c.stopped = false ∧ (c1.gal (galKey g)).waiting = some (.step n) ∧
      (c1.gal (galKey g)).hold = false ∧ (c1.gal (galKey g)).drained 31 = true ∧ (c1.gal (galKey g)).live = true ∧ (c1.gal (galKey g)).dead = false) ∧
    (∃ (c : Chip) (g : GalId) (data : List Byte), c.stopped = false ∧ (c.gal (galKey g)).dom ≠ .retained ∧ data.length ≤ 2048 ∧
      (c.gal (galKey g)).counter 63 + Store.get zeroWord (c.gal (galKey g)).pend 63 = 0 ∧ (c.gal (galKey g)).stepped = false) ∧
    (∃ (c : Chip) (g : GalId) (n : Word), c.stopped = false ∧ (c.gal (galKey g)).dom ≠ .retained ∧
      (c.gal (galKey g)).counter 63 + Store.get zeroWord (c.gal (galKey g)).pend 63 = n ∧ n ≠ 0 ∧ (c.gal (galKey g)).stepped = true ∧ (c.gal (galKey g)).gstep + 1 = n) :=
  ⟨⟨gup id, gz, by unfold Chip.CoreReady; decide +kernel⟩, ⟨gup fun g => { g with hold := true }, gz, by unfold Chip.CoreReady; decide +kernel⟩,
   ⟨gup fun g => { g with hold := true, waiting := some (.step 3) }, _, gz, 3, rfl, by decide +kernel⟩, ⟨gup id, gz, List.replicate 2048 1, by decide +kernel⟩,
   ⟨gup fun g => { g with stepped := true, gstep := 4, ctr := [(63, 5)] }, gz, 5, by decide +kernel⟩⟩
theorem wit_WaitsAndSignalsRetire :
    (∃ (c : Chip) (g : GalId) (rs1 rs2 : Fin 32), c.CoreReady (galKey g) ∧ (c.gal (galKey g)).condMet ((c.xreg (galKey g) rs1).toNat % 64) (c.xreg (galKey g) rs2) = true) ∧
    (∃ (c : Chip) (g : GalId) (rs1 rs2 : Fin 32), c.CoreReady (galKey g) ∧ (c.gal (galKey g)).condMet ((c.xreg (galKey g) rs1).toNat % 64) (c.xreg (galKey g) rs2) = false ∧ (c.gal (galKey g)).retnArm = false) ∧
    (∃ (c : Chip) (g : GalId) (rdn n : Nat) (target : Word), c.CoreWaits (galKey g) ∧ (c.gal (galKey g)).waiting = some (.waitc rdn n target) ∧ (c.gal (galKey g)).condMet n target = true) ∧
    (∃ (c : Chip) (g : GalId) (rdn n : Nat) (target : Word), c.CoreWaits (galKey g) ∧ (c.gal (galKey g)).waiting = some (.waitc rdn n target) ∧ (c.gal (galKey g)).condMet n target = false ∧
      c.pastLimit (galKey g) (c.gal (galKey g)).waitAt = true) ∧
    (∃ (c : Chip) (g : GalId) (rs1 : Fin 32), c.CoreReady (galKey g) ∧ badSignal true (c.xreg (galKey g) rs1).toNat = false ∧ badSignal false (c.xreg (galKey g) rs1).toNat = false ∧
      bitOf (c.xreg (galKey g) rs1).toNat 6 = false ∧ (c.gal (galKey g)).dom ≠ .retained) ∧
    (∃ (c : Chip) (g : GalId) (rs1 : Fin 32), c.CoreReady (galKey g) ∧ badSignal false (c.xreg (galKey g) rs1).toNat = false ∧
      bitOf (c.xreg (galKey g) rs1).toNat 6 = true ∧ field (c.xreg (galKey g) rs1).toNat 8 7 = (c.gal (galKey g)).lgal.toNat ∧ (c.gal (galKey g)).dom ≠ .retained) ∧
    (∃ (c : Chip) (g : GalId) (rs1 : Fin 32), c.CoreReady (galKey g) ∧ badSignal false (c.xreg (galKey g) rs1).toNat = false ∧
      bitOf (c.xreg (galKey g) rs1).toNat 6 = true ∧ field (c.xreg (galKey g) rs1).toNat 8 7 ≠ (c.gal (galKey g)).lgal.toNat) ∧
    (∃ (c : Chip) (g src : GalId) (sig : RSig) (later : List RSig), c.stopped = false ∧ c.rsigs = sig :: later ∧ sig.src = galKey src ∧ c.logKey sig.dtower sig.dgal = galKey g ∧
      c.lOpen (galKey g) = true ∧ c.stale (sig.epoch.toNat % 2 ^ 24) = false) :=
  ⟨⟨gup id, gz, 0, 0, by unfold Chip.CoreReady; decide +kernel⟩, ⟨gi 0, gz, 0, 2, by unfold Chip.CoreReady; decide +kernel⟩,
   ⟨gup fun g => { g with waiting := some (.waitc 1 0 0) }, gz, 1, 0, 0, by unfold Chip.CoreWaits; decide +kernel⟩,
   ⟨at_ 10000001 (gup fun g => { g with waiting := some (.waitc 1 0 5) }), gz, 1, 0, 5, by unfold Chip.CoreWaits; decide +kernel⟩,
   ⟨gup id, gz, 0, by unfold Chip.CoreReady; decide +kernel⟩,
   ⟨gup fun g => { g with hart := Hart.reset.set 2 0x40#32 }, gz, 2, by unfold Chip.CoreReady; decide +kernel⟩,
   ⟨gup fun g => { g with hart := Hart.reset.set 2 0x5F40#32 }, gz, 2, by unfold Chip.CoreReady; decide +kernel⟩,
   ⟨{ arc xf with flight := [], rsigs := [{ src := 5, dtower := 0, dgal := 0, ctr := 3, val := 1, epoch := 0 }] }, ⟨0, 1⟩, ⟨0, 5⟩, _, [], by decide +kernel, rfl, by decide +kernel⟩⟩
theorem wit_MarksAndGalleryRegisters :
    (∃ (c : Chip) (g : GalId), c.CoreReady (galKey g) ∧ (c.gal (galKey g)).marks.length < 8) ∧
    (∃ (c : Chip) (g : GalId) (m : Half) (ms : List Half), c.CoreReady (galKey g) ∧ (c.gal (galKey g)).marks = m :: ms) ∧
    (∃ (c : Chip) (g : GalId), c.GalWritable (galKey g) ∧ (c.gal (galKey g)).halt = true ∧ (c.gal (galKey g)).dead = false) ∧
    (∃ (c d : Chip) (g : GalId), c.GalWritable (galKey g) ∧ (c.gal (galKey g)).halt = false ∧ d.GalWritable (galKey g) ∧ (d.gal (galKey g)).dead = true) ∧
    (∃ (c : Chip) (g : GalId), c.GalWritable (galKey g) ∧ (c.gal (galKey g)).stepped = true) :=
  ⟨⟨gup fun g => { g with marks := List.replicate 7 1 }, gz, by unfold Chip.CoreReady; decide +kernel⟩,
   ⟨gup fun g => { g with marks := [7] }, gz, 7, [], by unfold Chip.CoreReady; decide +kernel⟩,
   ⟨gup fun g => { g with halt := true }, gz, by unfold Chip.GalWritable; decide +kernel⟩,
   ⟨gup id, gup fun g => { g with halt := true, dead := true }, gz, by unfold Chip.GalWritable; decide +kernel⟩,
   ⟨gup fun g => { g with stepped := true }, gz, by unfold Chip.GalWritable; decide +kernel⟩⟩
theorem wit_DescriptorsStartAndComplete :
    (∃ (c c1 : Chip) (g : GalId) (q : QueueId) (errs : List GalUpset) (e : QEntry), c1 = errs.foldl (Chip.upset g) c ∧ errs ≠ [] ∧
      (((c1.gal (galKey g)).queue (queueNum q)).entries.find? fun x => x.st == .waiting) = some e ∧ c.queueRuns (galKey g) (queueNum q) = true ∧ c1.queueRuns (galKey g) (queueNum q) = true ∧
      (c1.gal (galKey g)).earlier (queueNum q) e.index = [] ∧
      slotOk (queueNum q) (c1.gal (galKey g)).mx.stopped e.desc ((c1.gal (galKey g)).earlier (queueNum q) e.index) = true) ∧
    (∃ (c : Chip) (g : GalId) (q : QueueId) (e : QEntry) (before after : List QEntry), ((c.gal (galKey g)).queue (queueNum q)).entries = before ++ e :: after ∧
      (∀ x ∈ before, ∀ m : Nat, x.st ≠ .ended m) ∧ (queueNum q < 3 → before = []) ∧ e.st = .ended 0 ∧ ((c.gal (galKey g)).queue (queueNum q)).halted = false ∧ c.stopped = false) ∧
    (∃ (c : Chip) (g : GalId) (e : QEntry), ((c.gal (galKey g)).queue 0).entries = [e] ∧ e.st = .ended 0 ∧ ((c.gal (galKey g)).queue 0).halted = false ∧ c.stopped = false ∧
      (c.gal (galKey g)).mx.stopped = false) ∧
    (∃ (c : Chip) (g : GalId) (q : QueueId) (e : QEntry), c.InFlight (galKey g) (queueNum q) 0 e) ∧
    (∃ (c : Chip) (g : GalId) (q : QueueId) (e : QEntry), c.InFlight (galKey g) (queueNum q) 1 e ∧ (c.gal (galKey g)).condMet (descF e.desc 8 0 6) (BitVec.ofNat 32 (descF e.desc 12 0 32)) = true) ∧
    (∃ (c : Chip) (g : GalId) (q : QueueId) (e : QEntry), c.InFlight (galKey g) (queueNum q) 1 e ∧ (c.gal (galKey g)).condMet (descF e.desc 8 0 6) (BitVec.ofNat 32 (descF e.desc 12 0 32)) = false ∧
      c.pastLimit (galKey g) e.since = true) :=
  ⟨⟨gup fun g => g.setQueue 0 { Queue.reset with entries := [⟨0x10, 0, .waiting, 0, 0⟩] }, _, gz, .mx, [⟨.spad 64, true⟩], ⟨0x10, 0, .waiting, 0, 0⟩, rfl, by decide +kernel⟩,
   ⟨gup fun g => g.setQueue 3 { Queue.reset with entries := [qe 0x80, ⟨0x80, 1, .ended 0, 0, 0⟩] }, gz, .stair, ⟨0x80, 1, .ended 0, 0, 0⟩, [qe 0x80], [], by decide +kernel,
      fun x hx m h => by rw [List.mem_singleton.mp hx] at h; exact EntrySt.noConfusion h, fun h => absurd h (by decide), rfl, by decide +kernel⟩,
   ⟨gup fun g => g.setQueue 0 { Queue.reset with entries := [⟨0x10, 0, .ended 0, 0, 0⟩] }, gz, ⟨0x10, 0, .ended 0, 0, 0⟩, by decide +kernel⟩,
   ⟨gup (fl 0 0), gz, .mx, qe 0, by unfold Chip.InFlight; decide +kernel⟩, ⟨gup (fl 0 1), gz, .mx, qe 1, by unfold Chip.InFlight; decide +kernel⟩,
   ⟨at_ 10000001 (gup (fl 0 (1 + 5 * 2 ^ 96))), gz, .mx, qe (1 + 5 * 2 ^ 96), by unfold Chip.InFlight; decide +kernel⟩⟩
/-- Each opcode of a list in flight on queue q. -/
def AllInFlight (q : Nat) (ops : List Nat) : Prop := ∀ o ∈ ops, (gup (fl q o)).queueRuns 0 q = true ∧ ((gup (fl q o)).gal 0).runningEntry q (· == o) = some (qe o)
theorem wit_MatrixDescriptorsRun : AllInFlight 0 [0x10, 0x11, 0x12, 0x13, 0x14, 0x15, 0x16, 0x17, 0x18] ∧
    ((∀ o ∈ [0x10, 0x11, 0x12, 0x13, 0x14], ((gup (fl 0 o)).gal 0).arrayWaits (qe o) = false) ∧ ((gup (fl 0 0x15)).gal 0).flushWaits (qe 0x15) = false) ∧
    (∃ (c : Chip) (g : GalId), c.GalWritable (galKey g) ∧ (c.gal (galKey g)).mx.stopped = false) ∧
    (∃ (c : Chip) (g : GalId), c.stopped = false ∧ (c.gal (galKey g)).live = true ∧ (c.gal (galKey g)).mx.stopped = false ∧ (c.gal (galKey g)).mx.stopReq ≠ 0) ∧
    (∃ (c : Chip) (g : GalId), c.GalWritable (galKey g) ∧ (c.gal (galKey g)).mx.stopped = true ∧ (c.gal (galKey g)).mx.displ = false) ∧
    (∃ (c : Chip) (g : GalId) (r : TileRec) (G : Gallery), c.GalWritable (galKey g) ∧ (c.gal (galKey g)).mx.stopped = true ∧ (c.gal (galKey g)).mx.displ = true ∧
      (c.gal (galKey g)).mx.stopTile = some r ∧
      G = { (c.gal (galKey g)).timersResume c.act with mx := { (c.gal (galKey g)).mx with stopped := false, cause := 0, displ := false, stopTile := none } } ∧
      (G.loadTile G.topRange.toNat r).2 = 0) :=
  ⟨by unfold AllInFlight; decide +kernel, by decide +kernel, ⟨gup id, gz, by unfold Chip.GalWritable; decide +kernel⟩,
   ⟨gup fun g => { g with mx := { MxCore.reset with stopReq := 3 } }, gz, by decide +kernel⟩,
   ⟨gup fun g => { g with mx := { MxCore.reset with stopped := true } }, gz, by unfold Chip.GalWritable; decide +kernel⟩,
   ⟨gup fun g => { g with mx := { MxCore.reset with stopped := true, displ := true, stopTile := some ⟨4, false, 0, 0⟩ } }, gz, ⟨4, false, 0, 0⟩, _,
    by unfold Chip.GalWritable; decide +kernel, by decide +kernel, by decide +kernel, by decide +kernel, rfl, by decide +kernel⟩⟩
theorem wit_VectorElementwiseRun : ∀ q ∈ [1, 2], AllInFlight q [0x30, 0x31, 0x32, 0x33, 0x34, 0x35, 0x36, 0x37, 0x38, 0x39, 0x3A, 0x3B, 0x3C, 0x3D, 0x40, 0x41, 0x42, 0x43, 0x44, 0x45, 0x46, 0x47, 0x48] := by
  unfold AllInFlight; decide +kernel
theorem wit_VectorSpecialFunctionsRun : ∀ q ∈ [1, 2], AllInFlight q [0x50, 0x51, 0x52, 0x53, 0x54, 0x55, 0x56, 0x57, 0x58, 0x59, 0x60, 0x61, 0x62, 0x63, 0x64, 0x65, 0x66, 0x67] := by
  unfold AllInFlight; decide +kernel
theorem wit_VectorMovesRun : ∀ q ∈ [1, 2], AllInFlight q [0x6C, 0x6D, 0x6E, 0x70, 0x71, 0x72, 0x73, 0x78, 0x79, 0x7E, 0x7F] := by
  unfold AllInFlight; decide +kernel
theorem wit_QsimdIntegerLanes : ∃ (c : Chip) (x : ChanterId) (w w' : Fin 8) (rd rs1 rs2 : Fin 32), c.chRuns (clKey x.cluster) x.ch.val = true ∧ w.val < 3 ∧ 3 ≤ w'.val ∧
    (c.chanter (clKey x.cluster) x.ch.val).qBusy rd.val = false ∧ (c.chanter (clKey x.cluster) x.ch.val).qBusy rs1.val = false ∧ (c.chanter (clKey x.cluster) x.ch.val).qBusy rs2.val = false :=
  ⟨chq id, ⟨⟨0, 0⟩, 0⟩, 2, 3, 0, 1, 2, by decide +kernel⟩
theorem wit_ChanterRegisterInstructions : ∃ (c : Chip) (x : ChanterId) (rd rs1 : Fin 32) (j : Job), c.chRuns (clKey x.cluster) x.ch.val = true ∧ (c.chanter (clKey x.cluster) x.ch.val).job = some j ∧
    (∀ n : Nat, (c.chanter (clKey x.cluster) x.ch.val).qBusy n = false) ∧ qcvtOk (field (c.chanter (clKey x.cluster) x.ch.val).qcvtcfg.toNat 0 4)
      (field (c.chanter (clKey x.cluster) x.ch.val).qcvtcfg.toNat 4 4) rd.val rs1.val (bitOf (c.chanter (clKey x.cluster) x.ch.val).qcvtcfg.toNat 9) = true :=
  ⟨chq id, ⟨⟨0, 0⟩, 0⟩, 0, 4, ⟨0, [], true⟩, by decide +kernel, by decide +kernel, fun n => by
    rw [Chanter.qBusy, show ((chq id).chanter (clKey ⟨0, 0⟩) (0 : Fin 32).val).ops = [] by decide +kernel]; rfl, by decide +kernel⟩
theorem wit_InterleaveIsInvertible : ∃ t v n : Nat, v < 96 ∧ n < 4 * 11184810 ∧ lineAt t v n ≠ 0 := ⟨3, 95, 4 * 11184809, by decide +kernel⟩
theorem wit_LineCodeCorrectsOneSymbol : (∃ j e : Nat, j < 72 ∧ 0 < e ∧ e < 256) ∧ ∃ j e : Nat, 72 ≤ j ∧ j < 77 ∧ 0 < e ∧ e < 256 := ⟨⟨71, 255, by decide⟩, 76, 255, by decide⟩
theorem cacheInOrder_of_empty (c : Chip) (h : c.mem.backInv = [] ∧ c.mem.ways = []) : c.CacheInOrder :=
  ⟨h.1, fun k w e => by rw [Chip.way, h.2] at e; cases e⟩
/-- Module address 64 held by its slice. -/
def held1 : Chip := { up with mem := { MemState.reset with ways := [(setKey 1 * 16, some ⟨1, true, false, false, none, 0⟩)] } }
theorem held1_inOrder : held1.CacheInOrder := by
  refine ⟨rfl, fun k w e => ?_⟩
  by_cases h : k = setKey 1 * 16
  · subst h
    obtain rfl : (⟨1, true, false, false, none, 0⟩ : CacheWay) = w := Option.some.inj ((by decide +kernel : some _ = held1.way (setKey 1 * 16)).trans e)
    decide +kernel
  · rw [Chip.way, held1, Store.get, if_neg h] at e; cases e
theorem wit_UnitsReadWhatTheyWrite :
    (∃ (c : Chip) (a b n : Nat) (bs : List Byte), Memory.wf c.dram = true ∧ c.CacheInOrder ∧ c.PathQuiet ∧ a = 64 ∧ bs.length = 128 ∧ bs.length ≤ 4096 ∧
      c.pathStatus 1 .usher = 0 ∧ c.pathStatus 2 .usher = 0 ∧ (b + n ≤ a ∨ a + bs.length ≤ b)) ∧
    (∃ (c : Chip) (a : Nat) (bs : List Byte), Memory.wf c.dram = true ∧ c.CacheInOrder ∧ c.PathQuiet ∧ bs ≠ [] ∧
      a % 64 + bs.length ≤ 64 ∧ c.pathStatus (a / 64) .usher = 0 ∧ (c.hitWay (a / 64)).isSome = true) ∧
    (∃ (c : Chip) (a : Nat) (bs : List Byte), Memory.wf c.dram = true ∧ c.CacheInOrder ∧ c.PathQuiet ∧ bs ≠ [] ∧
      a % 64 + bs.length ≤ 64 ∧ c.pathStatus (a / 64) .usher = 3 ∧ c.linePoisoned (a / 64) = false ∧ c.laneErrors (a / 64) = [] ∧ c.shadowOf (a / 64 * 64) = none) :=
  ⟨⟨up, 64, 192, 8, List.replicate 128 7, rfl, cacheInOrder_of_empty _ ⟨rfl, rfl⟩, ⟨rfl, rfl, rfl⟩, by decide +kernel⟩,
   ⟨held1, 70, [1, 2, 3], rfl, held1_inOrder, ⟨rfl, rfl, rfl⟩, by decide +kernel⟩,
   ⟨up.wr (Reg.vaultCtl 0 0) (2 ^ 48), 0, [1, 2, 3, 4], rfl, cacheInOrder_of_empty _ ⟨rfl, rfl⟩, ⟨rfl, rfl, rfl⟩, by decide +kernel⟩⟩
theorem wit_HalvesReadTogether : ∃ s : State, s.pending = [] ∧ s.chip.dbg.stage = [] ∧ s.chip.serves Reg.time = true := ⟨State.reset, rfl, rfl, by decide +kernel⟩
theorem wit_StoppedModuleHoldsWork : (∃ s : State, s.chip.stopped = true) ∧ ∃ s : State, s.chip.usherRuns = false := ⟨⟨⟨[], up.wr Reg.wstat 1⟩, by decide +kernel⟩, State.reset, by decide +kernel⟩
theorem wit_GalleryCommandsStayInTheirGallery : ∃ s t v w : State, exec (.vadd gz 0) s = .next t ∧ exec (.mxCfg gz) s = .next v ∧ exec (.mxGo gz) s = .next w :=
  ⟨⟨[], gup fun g => fl 0 0x16 (fl 1 0x31 g)⟩, _, _, _, rfl, rfl, rfl⟩
theorem wit_ElementwiseWritesOnlyItsDestination : ∃ s t : State, s.chip.InFlight (galKey gz) 1 0x31 (qe 0x31) ∧ exec (.vadd gz 0) s = .next t :=
  ⟨⟨[], gup (fl 1 0x31)⟩, _, by unfold Chip.InFlight; decide +kernel, rfl⟩
theorem wit_MinMaxAndSignRules : ∃ a b : Word, isNaN32 a = true ∧ isNaN32 b = false := ⟨0x7FC00000, 0x80000000, by decide⟩
theorem wit_TrapsEnterOnce : ∃ (c d : Chip) (g : GalId) (len : Nat) (i : Rv) (cause tval : Word), c.CoreReady (galKey g) ∧
    fetchRv (c.gal (galKey g)).fetchHalf (c.gal (galKey g)).hart.pc.toNat = .ok (len, i) ∧ rvExec (c.gal (galKey g)).hart i len = .trap cause tval ∧
    (c.gal (galKey g)).tact = false ∧ 0x10000 ≤ (c.gal (galKey g)).hart.mtvec.toNat + 1 ∧
    d.CoreReady (galKey g) ∧ (d.gal (galKey g)).tact = true ∧ fetchRv (d.gal (galKey g)).fetchHalf (d.gal (galKey g)).hart.pc.toNat = .ok (len, i) ∧
    rvExec (d.gal (galKey g)).hart i len = .trap cause tval :=
  ⟨gup fun g => { g with imem := [(0, 0x73)], hart := { Hart.reset with mtvec := 0x10000 } }, gup fun g => { g with tact := true, imem := [(0, 0x73)], hart := { Hart.reset with mtvec := 0x10000 } }, gz, 4, _, _, _,
    by unfold Chip.CoreReady; decide +kernel, rfl, rfl, by decide +kernel, by decide +kernel, by unfold Chip.CoreReady; decide +kernel, by decide +kernel, rfl, rfl⟩
theorem wit_CoreParityErrorHalts : ∃ (c : Chip) (g : GalId), c.GalWritable (galKey g) := ⟨gup id, gz, by unfold Chip.GalWritable; decide +kernel⟩
theorem wit_TimeBaseSurvivesResets : ∃ s t : State, s.chip.sys.bring.everSealed = true ∧ exec .warmReset s = .next t := ⟨⟨[], bf up⟩, _, rfl, rfl⟩

set_option maxRecDepth 4000 in
theorem wit_ArcadeCommandsRun :
    (∃ (c : Chip) (g : GalId) (e : QEntry), c.InFlight (galKey g) 4 0xA0 e) ∧
    (∃ (c : Chip) (g : GalId) (e : QEntry), c.InFlight (galKey g) 4 0xA1 e) ∧
    (∃ (c : Chip) (g : GalId) (e : QEntry), c.InFlight (galKey g) 4 0xA2 e) ∧
    (∃ (c : Chip) (g : GalId) (e : QEntry), c.InFlight (galKey g) 4 0xA3 e ∧ c.hasTower (descF e.desc 8 14 2) = true) ∧
    (∃ (c : Chip) (g : GalId) (e : QEntry), c.InFlight (galKey g) 4 0xA4 e) ∧
    (∃ (c : Chip) (n : Nat) (y : Xfer) (x : Xfer), c.stopped = false ∧ c.flight[n]? = some y ∧ y.st = .flying ∧ c.overtakes n y = false ∧ c.wayOpen y = true ∧ c.forkFull n y = false ∧ x = { y with fork := none, sched := y.sched && !c.isFallback (c.xferDst y) } ∧ c.lOpen (c.xferDst y) = true ∧ c.blocked n x = false ∧ c.mustWait (c.xferDst y) x = false) ∧
    (∃ (c : Chip) (n : Nat) (y : Xfer) (x : Xfer), c.stopped = false ∧ c.flight[n]? = some y ∧ y.st = .flying ∧ c.overtakes n y = false ∧ c.wayOpen y = true ∧ c.forkFull n y = false ∧ x = { y with fork := none, sched := y.sched && !c.isFallback (c.xferDst y) } ∧ c.lOpen (c.xferDst y) = true ∧ c.blocked n x = false ∧ c.mustWait (c.xferDst y) x = true) ∧
    (∃ (c : Chip) (n : Nat) (crc : Half) (y : Xfer), c.stopped = false ∧ c.flight[n]? = some y ∧ y.st = .flying ∧ c.overtakes n y = false ∧ c.wayOpen y = true ∧ c.forkFull n y = false ∧ crc ≠ y.crc ∧ c.blocked n { y with fork := none, sched := y.sched && !c.isFallback (c.xferDst y) } = false) ∧
    (∃ (c : Chip) (n : Nat) (x : Xfer), c.stopped = false ∧ c.flight[n]? = some x ∧ x.st = .acked ∧ c.lOpen x.src = true) ∧
    (∃ (c : Chip) (n : Nat) (x : Xfer), c.stopped = false ∧ c.flight[n]? = some x ∧ x.st = .nacked ∧ c.lOpen x.src = true ∧ x.resends < 3) ∧
    (∃ (c : Chip) (g : GalId) (sched : Bool) (n : Nat) (x : Xfer), c.stopped = false ∧ c.headHeld (galKey g) sched = some n ∧ c.flight[n]? = some x ∧ c.lOpen (galKey g) = true ∧ c.mustHold (galKey g) x = false) ∧
    (∃ (c : Chip) (g : GalId) (head : Half), c.GalWritable (galKey g)) ∧
    (∃ (c : Chip) (t : Fin 4) (p : Fin 104) (n : Nat) (x : Xfer), c.stopped = false ∧ c.flight[n]? = some x ∧ x.st = .flying ∧ x.fork = some (galKey ⟨t, p⟩) ∧ x.told = false ∧ 50000 ≤ (c.act - x.since).toNat) ∧
    (∃ (c : Chip) (g : GalId) (cause : Fin 7), c.stopped = false ∧ (c.gal (galKey g)).dom = .retained ∧ c.wakeHolds (galKey g) cause.val = true ∧ ((c.retainLeave (galKey g) cause.val).gal (galKey g)).waiting = none) ∧
    (∃ (c : Chip) (g : GalId) (cause : Fin 256), c.usherRuns = true ∧ c.hasTower g.tower.val = true) :=
  ⟨⟨gup (fl 4 160), ⟨0, 0⟩, qe 160, by unfold Chip.InFlight; decide +kernel⟩,
   ⟨gup (fl 4 161), ⟨0, 0⟩, qe 161, by unfold Chip.InFlight; decide +kernel⟩,
   ⟨gup (fl 4 162), ⟨0, 0⟩, qe 162, by unfold Chip.InFlight; decide +kernel⟩,
   ⟨gup (fl 4 163), ⟨0, 0⟩, qe 163, by unfold Chip.InFlight; decide +kernel⟩,
   ⟨gup (fl 4 164), ⟨0, 0⟩, qe 164, by unfold Chip.InFlight; decide +kernel⟩,
   ⟨arc xf, 0, xf, xf, by decide +kernel⟩,
   ⟨{ up.setGal 1 { Gallery.reset with dom := .retained, stage := 1, retnArm := true } with flight := [xf] }, 0, xf, xf, by decide +kernel⟩,
   ⟨arc xf, 0, 1, xf, by decide +kernel⟩,
   ⟨{ up.setGal 0 { Gallery.reset with dom := .up, stage := 1 } with flight := [{ xf with st := .acked }] }, 0, { xf with st := .acked }, by decide +kernel⟩,
   ⟨{ up.setGal 0 { Gallery.reset with dom := .up, stage := 1 } with flight := [{ xf with st := .nacked }] }, 0, { xf with st := .nacked }, by decide +kernel⟩,
   ⟨arc { xf with st := .held }, ⟨0, 1⟩, false, 0, { xf with st := .held }, by decide +kernel⟩,
   ⟨gup id, ⟨0, 0⟩, 0, by unfold Chip.GalWritable; decide +kernel⟩,
   ⟨at_ 50000 { up with flight := [{ xf with mcast := true, fork := some 0 }] }, 0, 0, 0, { xf with mcast := true, fork := some 0 }, by decide +kernel⟩,
   ⟨gup fun g => { g with dom := .retained }, ⟨0, 0⟩, 3, by decide +kernel⟩,
   ⟨up, ⟨0, 0⟩, 0, by decide +kernel⟩⟩

set_option maxRecDepth 4000 in
theorem wit_StairAndAttentionRun :
    (∃ (c : Chip) (g : GalId) (e : QEntry), c.queueRuns (galKey g) 3 = true ∧ c.stairEntry (galKey g) (isStairOpc 0x80) = some e) ∧
    (∃ (c : Chip) (g : GalId) (e : QEntry), c.queueRuns (galKey g) 3 = true ∧ c.stairEntry (galKey g) (isStairOpc 0x81) = some e) ∧
    (∃ (c : Chip) (g : GalId) (e : QEntry), c.queueRuns (galKey g) 3 = true ∧ c.stairEntry (galKey g) (isStairOpc 0x82) = some e) ∧
    (∃ (c : Chip) (g : GalId) (e : QEntry), c.queueRuns (galKey g) 3 = true ∧ c.stairEntry (galKey g) (isStairOpc 0x83) = some e) ∧
    (∃ (c : Chip) (g : GalId) (e : QEntry), c.queueRuns (galKey g) 3 = true ∧ c.stairEntry (galKey g) (isCmo 0) = some e) ∧
    (∃ (c : Chip) (g : GalId) (e : QEntry), c.queueRuns (galKey g) 3 = true ∧ c.stairEntry (galKey g) (isCmo 1) = some e) ∧
    (∃ (c : Chip) (g : GalId) (e : QEntry), c.queueRuns (galKey g) 3 = true ∧ c.stairEntry (galKey g) (isCmo 2) = some e) ∧
    (∃ (c : Chip) (g : GalId) (e : QEntry), c.queueRuns (galKey g) 3 = true ∧ c.stairEntry (galKey g) (isCmo 3) = some e) ∧
    (∃ (c : Chip) (g : GalId) (e : QEntry), c.queueRuns (galKey g) 3 = true ∧ c.stairEntry (galKey g) (isCmo 4) = some e) ∧
    (∃ (c : Chip) (l : Fin 5) (c1 : Chip) (q : List Byte), c.usherRuns = true ∧ c.takeMsg l.val 0x10 = some (c1, q)) ∧
    (∃ (c : Chip) (w : Word) (layer : Fin 255) (t : Fin 4) (k : Fin 64) (q : List Word) (i : Nat) (pos : Nat) (l : Nat) (ls : List Nat), c.usherRuns = true ∧ c.liveIdx w = some i ∧ c.rowPos w = some pos ∧ ((c.linksTo (field (c.cblk (c.tkRoot i) t.val k.val) 32 8)).filter fun l => decide (0x20 ≤ c.linkVer l)) = l ::ls ∧ bitOf (c.cblk (c.tkRoot i) t.val k.val) 63 = true ∧ c.tkRoot i ≠ 0 ∧ q.length % 128 = 0 ∧ q.length ≠ 0 ∧ q.length ≤ 4096) ∧
    (∃ (c : Chip) (l : Fin 5) (c1 : Chip) (p : List Byte), c.usherRuns = true ∧ c.takeMsg l.val 0x11 = some (c1, p)) ∧
    (∃ (c : Chip) (tag : DWord) (a : AttnWait), c.usherRuns = true ∧ (c.lk.attn.find? fun a => a.tag == tag && a.got.isNone) = some a ∧ a.since.toNat + 2000000 ≤ c.act.toNat) :=
  ⟨⟨gup (fl 3 128), ⟨0, 0⟩, qe 128, by decide +kernel⟩,
   ⟨gup (fl 3 129), ⟨0, 0⟩, qe 129, by decide +kernel⟩,
   ⟨gup (fl 3 130), ⟨0, 0⟩, qe 130, by decide +kernel⟩,
   ⟨gup (fl 3 131), ⟨0, 0⟩, qe 131, by decide +kernel⟩,
   ⟨gup (fl 3 (0x84 + 0 * 2 ^ 104)), ⟨0, 0⟩, qe (0x84 + 0 * 2 ^ 104), by decide +kernel⟩,
   ⟨gup (fl 3 (0x84 + 1 * 2 ^ 104)), ⟨0, 0⟩, qe (0x84 + 1 * 2 ^ 104), by decide +kernel⟩,
   ⟨gup (fl 3 (0x84 + 2 * 2 ^ 104)), ⟨0, 0⟩, qe (0x84 + 2 * 2 ^ 104), by decide +kernel⟩,
   ⟨gup (fl 3 (0x84 + 3 * 2 ^ 104)), ⟨0, 0⟩, qe (0x84 + 3 * 2 ^ 104), by decide +kernel⟩,
   ⟨gup (fl 3 (0x84 + 4 * 2 ^ 104)), ⟨0, 0⟩, qe (0x84 + 4 * 2 ^ 104), by decide +kernel⟩,
   ⟨{ up with lk := { Links.reset with msgs := [(0, 0x10, [])] } }, 0, up, [], by decide +kernel⟩,
   ⟨{ (uk [(0x10000004, 4), (0x10000022, 0x60), (0x600012, 0x70), (0x700007, 0x80)] fun u => { u with tables := [⟨0, [], 1, [⟨0, 0x100000, 3, .sample, [], false⟩], false, false⟩] }).wr (Reg.linkStat 0) 0x2002 with latch := [] }, 0x100000, 0, 0, 0, List.replicate 128 0, 0, 3, 0, [], by decide +kernel⟩,
   ⟨{ up with lk := { Links.reset with msgs := [(0, 0x11, [])] } }, 0, up, [], by decide +kernel⟩,
   ⟨at_ 2000000 { up with lk := { Links.reset with attn := [{ tag := 0, ticket := 0, pos := 0, layer := 0, tower := 0, chunk := 0, since := 0, got := none, q := [] }] } }, 0, { tag := 0, ticket := 0, pos := 0, layer := 0, tower := 0, chunk := 0, since := 0, got := none, q := [] }, by decide +kernel⟩⟩

set_option maxRecDepth 4000 in
theorem wit_MemoryPathRuns :
    (∃ (c : Chip) (tag : Word) (line : BitVec 34) (op : LineOp) (ah : Fin 3) (who : Requester) (r : LineReq), r = ⟨tag.toNat, who, op, ah.val, c.now, false⟩ ∧ c.stopped = false ∧ c.pathStatus line.toNat who = 0 ∧ c.portBusy c.mem.held r line.toNat = false ∧ c.ownHeld r line.toNat = false ∧ c.canServe r line.toNat = true) ∧
    (∃ (c : Chip) (tag : Word) (line : BitVec 34) (op : LineOp) (ah : Fin 3) (who : Requester) (r : LineReq), r = ⟨tag.toNat, who, op, ah.val, c.now, false⟩ ∧ c.stopped = false ∧ c.pathStatus line.toNat who = 0 ∧ c.portBusy c.mem.held r line.toNat = false ∧ c.ownHeld r line.toNat = true) ∧
    (∃ (c : Chip) (tag : Word) (line : BitVec 34) (op : LineOp) (ah : Fin 3) (who : Requester) (r : LineReq), r = ⟨tag.toNat, who, op, ah.val, c.now, false⟩ ∧ c.stopped = false ∧ c.pathStatus line.toNat who = 0 ∧ (c.portBusy c.mem.held r line.toNat = true ∨ (c.ownHeld r line.toNat = false ∧ c.canServe r line.toNat = false))) ∧
    (∃ (c : Chip) (tag : Word) (line : BitVec 34) (op : LineOp) (ah : Fin 3) (who : Requester) (n : Nat), c.stopped = false ∧ c.pathStatus line.toNat who = n + 1) ∧
    (∃ (c : Chip) (line : BitVec 34) (l : Nat) (ws : List LineReq) (d : Line) (p : Bool), c.stopped = false ∧ (c.mem.fills.find? fun f => f.line == line.toNat) = some ⟨l, ws, some (d, p)⟩ ∧ (ws.isEmpty && c.mem.held.any fun h => h.1 == l) = false ∧ c.fillRoom l = true) ∧
    (∃ (c : Chip) (line : BitVec 34), c.stopped = false ∧ c.mem.backInv.contains line.toNat = true) ∧
    (∃ (c : Chip) (t : Fin 4) (v : Fin 104) (n : Fin 128) (q : VaultReq) (w : Line × Bool), c.stopped = false ∧ (c.queueOf (vaultKey t.val v.val))[n.val]? = some q ∧ q.write = some w ∧ Store.get noMark c.mem.bottomBus (vaultKey t.val v.val) = false ∧ c.vaultAsleep (vaultKey t.val v.val) = false ∧ c.slotsLeft (vaultKey t.val v.val) ≠ 0 ∧ (c.vaultNext (vaultKey t.val v.val)).contains q = true) ∧
    (∃ (c : Chip) (t : Fin 4) (v : Fin 104) (n : Fin 128) (q : VaultReq), c.stopped = false ∧ (c.queueOf (vaultKey t.val v.val))[n.val]? = some q ∧ q.write = none ∧ Store.get noMark c.mem.bottomBus (vaultKey t.val v.val) = false ∧ c.vaultAsleep (vaultKey t.val v.val) = false ∧ c.slotsLeft (vaultKey t.val v.val) ≠ 0 ∧ (c.vaultNext (vaultKey t.val v.val)).contains q = true) ∧
    (∃ (c : Chip) (t : Fin 4) (v : Fin 104) (layer : Fin 16) (bank : Fin 16), c.hasTower t.val = true ∧ c.bit (Reg.vaultCtl t.val v.val) 48 = false ∧ layer.val < c.part.layers) ∧
    (∃ (c : Chip) (t : Fin 4) (v : Fin 104) (layer : Fin 16) (needed : Byte), c.hasTower t.val = true ∧ c.landingDrift t.val v.val layer.val needed = true) ∧
    (∃ (c : Chip) (t : Fin 4) (v : Fin 104) (layer : Fin 16) (needed : Byte), Store.get noMark c.mem.drifted (vaultKey t.val v.val * 16 + layer.val) = true) ∧
    (∃ (c : Chip) (p : LanePath) (lane : Fin 4608), c.hasPath p = true ∧ lane.val < p.lanes ∧ (∀ t v, p ≠ .vaultToken t v)) ∧
    (∃ (c : Chip) (t : Fin 4) (v : Fin 104) (lane : Fin 4608), c.hasTower t.val = true ∧ lane.val < (LanePath.vaultToken t v).lanes) ∧
    (∃ (c : Chip) (b : Fin 4) (forward : Bool) (x : Burst), x.crc = Config.burstCrc x.words ∧ c.stopped = false ∧ c.part.hasBridge b.val = true ∧ Store.get noMark c.mem.bridgeOut b.val = false) ∧
    (∃ (c : Chip) (b : Fin 4) (forward : Bool) (x : Burst), x.crc ≠ Config.burstCrc x.words ∧ c.stopped = false ∧ c.part.hasBridge b.val = true ∧ Store.get noMark c.mem.bridgeOut b.val = false) ∧
    (∃ (c : Chip) (b : Fin 4), c.part.hasBridge b.val = true ∧ Store.get noMark c.mem.bridgeOut b.val = false ∧ c.bridgeDead b.val = true) ∧
    (∃ (c : Chip) (t : Fin 4) (h : Fin 4), c.hasTower t.val = true ∧ Store.get noMark c.mem.stairOut (t.val * 4 + h.val) = false ∧ c.stairDead t.val h.val = true) ∧
    (∃ (c : Chip) (t : Fin 4) (v : Fin 104), c.hasTower t.val = true ∧ c.vaultAsleep (vaultKey t.val v.val) = false) ∧
    (∃ (c : Chip) (t : Fin 4) (v : Fin 104) (written : Nat), c.hasTower t.val = true ∧ c.vaultAsleep (vaultKey t.val v.val) = false) ∧
    (∃ (c : Chip) (t : Fin 4) (v : Fin 104) (needed : List Byte), c.bit (Reg.vaultCtl t.val v.val) 48 = true) :=
  ⟨⟨up, 0, 0, .read, 0, .usher, _, ⟨rfl, by decide +kernel⟩⟩,
   ⟨{ up with mem := { MemState.reset with ownCnt := [(holdKey 0, 1)], bottomBus := [(0, true)] } }, 0, 0, .read, 0, .usher, _, ⟨rfl, and3 (by decide +kernel) ((by simp [Chip.ownHeld, Chip.inOwn, Store.get, Store.put, lineHome, noMark, zeroNat]; exact .inl (by decide +kernel)))⟩⟩,
   ⟨{ up with mem := { MemState.reset with held := [(0, ⟨0, .usher, .read, 0, 0, false⟩)] } }, 0, 0, .read, 0, .usher, _, ⟨rfl, by decide +kernel⟩⟩,
   ⟨up, 0, BitVec.ofNat 34 (2 ^ 33 + 2 ^ 32 - 1), .read, 0, .usher, 1, by decide +kernel⟩,
   ⟨{ up with mem := { MemState.reset with fills := [⟨0, [], some (0, false)⟩] } }, 0, 0, [], 0, false, by decide +kernel⟩,
   ⟨{ up with mem := { MemState.reset with backInv := [0] } }, 0, by decide +kernel⟩,
   ⟨{ up with mem := { MemState.reset with vq := [⟨0, 0, some (0, false), 0⟩] } }, 0, 0, 0, ⟨0, 0, some (0, false), 0⟩, (0, false), by decide +kernel⟩,
   ⟨{ up with mem := { MemState.reset with vq := [⟨0, 0, none, 0⟩] } }, 0, 0, 0, ⟨0, 0, none, 0⟩, by decide +kernel⟩,
   ⟨up, 0, 0, 0, 0, by decide +kernel⟩,
   ⟨up, 0, 0, 0, 9, by decide +kernel⟩,
   ⟨{ up with mem := { MemState.reset with drifted := [(0, true)] } }, 0, 0, 0, 0, by decide +kernel⟩,
   ⟨up, .stair 0 0 true, 0, by decide +kernel⟩,
   ⟨up, 0, 0, 0, by decide +kernel⟩,
   ⟨up, 0, false, ⟨0, [], Config.burstCrc []⟩, ⟨rfl, by decide +kernel⟩⟩,
   ⟨up, 0, false, ⟨0, [], Config.burstCrc [] + 1⟩, ⟨(by simp), by decide +kernel⟩⟩,
   ⟨me (fun m => { m with badLanes := [(2000, [0, 1, 2, 3])] }) up, 0, by decide +kernel⟩,
   ⟨me (fun m => { m with badLanes := [(1000, [0, 1, 2, 3])] }) up, 0, 0, by decide +kernel⟩,
   ⟨up, 0, 0, by decide +kernel⟩,
   ⟨up, 0, 0, 0, by decide +kernel⟩,
   ⟨up.wr (Reg.vaultCtl 0 0) (2 ^ 48), 0, 0, [], by decide +kernel⟩⟩

set_option maxRecDepth 4000 in
theorem wit_ChanterLineInstructions :
    (∃ (c : Chip) (x : ChanterId) (rd : Fin 32) (rs1 : Fin 32) (rs2 : Fin 32), c.chRuns (clKey x.cluster) x.ch.val = true ∧ rd.val % 4 = 0 ∧ ((c.chanter (clKey x.cluster) x.ch.val).hart.get rs1.val).toNat % 64 = 0 ∧ ((c.copiesOn (clKey x.cluster) x.ch.val).chanter (clKey x.cluster) x.ch.val).ops.length < 32 ∧ (∀ n < 4, (c.chanter (clKey x.cluster) x.ch.val).qBusy (rd.val + n) = false)) ∧
    (∃ (c : Chip) (x : ChanterId) (rd : Fin 32) (rs1 : Fin 32) (rs2 : Fin 32), c.chRuns (clKey x.cluster) x.ch.val = true ∧ rs2.val % 4 = 0 ∧ ((c.chanter (clKey x.cluster) x.ch.val).hart.get rs1.val).toNat % 64 = 0 ∧ ((c.copiesOn (clKey x.cluster) x.ch.val).chanter (clKey x.cluster) x.ch.val).ops.length < 32 ∧ (∀ n < 4, (c.chanter (clKey x.cluster) x.ch.val).qBusy (rs2.val + n) = false)) ∧
    (∃ (c : Chip) (x : ChanterId) (rd : Fin 32) (rs1 : Fin 32) (rs2 : Fin 32), c.chRuns (clKey x.cluster) x.ch.val = true ∧ ((c.chanter (clKey x.cluster) x.ch.val).hart.get rs1.val).toNat % 64 = 0 ∧ ((c.chanter (clKey x.cluster) x.ch.val).hart.get rs2.val).toNat % 64 = 0 ∧ lineTower (lineAddr (c.chanter (clKey x.cluster) x.ch.val).cseg ((c.chanter (clKey x.cluster) x.ch.val).hart.get rs1.val) / 64) = lineTower (lineAddr (c.chanter (clKey x.cluster) x.ch.val).cseg ((c.chanter (clKey x.cluster) x.ch.val).hart.get rs1.val) / 64 + (c.chanter (clKey x.cluster) x.ch.val).cpcnt.toNat - 1) ∧ lineTower (lineAddr (c.chanter (clKey x.cluster) x.ch.val).csegd ((c.chanter (clKey x.cluster) x.ch.val).hart.get rs2.val) / 64) = lineTower (lineAddr (c.chanter (clKey x.cluster) x.ch.val).csegd ((c.chanter (clKey x.cluster) x.ch.val).hart.get rs2.val) / 64 + (c.chanter (clKey x.cluster) x.ch.val).cpcnt.toNat - 1)) ∧
    (∃ (c : Chip) (x : ChanterId) (rd : Fin 32) (rs1 : Fin 32) (rs2 : Fin 32), c.chRuns (clKey x.cluster) x.ch.val = true ∧ (c.copiesOn (clKey x.cluster) x.ch.val).chDrained (clKey x.cluster) x.ch.val = true) ∧
    (∃ (c : Chip) (x : ChanterId) (rd : Fin 32) (rs1 : Fin 32) (rs2 : Fin 32), c.chRuns (clKey x.cluster) x.ch.val = true ∧ (c.copiesOn (clKey x.cluster) x.ch.val).chDrained (clKey x.cluster) x.ch.val = true) ∧
    (∃ (c : Chip) (x : ChanterId) (rd : Fin 32) (rs1 : Fin 32) (rs2 : Fin 32) (o : ChOp) (d : Line) (qn : Nat), c.stopped = false ∧ ((c.chanter (clKey x.cluster) x.ch.val).ops.find? fun y => match y.st with | .arrived _ _ => true | .refused => true | _ => false) = some o ∧ o.kind = .read qn ∧ o.st = .arrived false d) ∧
    (∃ (c : Chip) (x : ChanterId) (rd : Fin 32) (rs1 : Fin 32) (rs2 : Fin 32) (o : ChOp), c.stopped = false ∧ ((c.chanter (clKey x.cluster) x.ch.val).ops.find? fun y => y.st == .retry) = some o ∧ o.tries < 3) ∧
    (∃ (c : Chip) (x : ChanterId) (rd : Fin 32) (rs1 : Fin 32) (rs2 : Fin 32) (errs : List SramUpset) (len : Nat) (iw : Rv) (h' : Hart) (c1 : Chip), c1 = errs.foldl (Chip.sramUpset x) c ∧ c.chRuns (clKey x.cluster) x.ch.val = true ∧ fetchRv (c1.chanter (clKey x.cluster) x.ch.val).fetchHalf (c1.chanter (clKey x.cluster) x.ch.val).hart.pc.toNat = .ok (len, iw) ∧ rvExec (c1.chanter (clKey x.cluster) x.ch.val).hart iw len = .done h') :=
  ⟨⟨chq id, ⟨⟨0, 0⟩, 0⟩, 0, 0, 0, by decide +kernel⟩,
   ⟨chq id, ⟨⟨0, 0⟩, 0⟩, 0, 0, 0, by decide +kernel⟩,
   ⟨chq id, ⟨⟨0, 0⟩, 0⟩, 0, 0, 0, by decide +kernel⟩,
   ⟨chq id, ⟨⟨0, 0⟩, 0⟩, 0, 0, 0, by decide +kernel⟩,
   ⟨chq id, ⟨⟨0, 0⟩, 0⟩, 0, 0, 0, by decide +kernel⟩,
   ⟨chq fun x => { x with ops := [{ op0 with st := .arrived false 0 }] }, ⟨⟨0, 0⟩, 0⟩, 0, 0, 0, { op0 with st := .arrived false 0 }, 0, 0, by decide +kernel⟩,
   ⟨chq fun x => { x with ops := [{ op0 with st := .retry }] }, ⟨⟨0, 0⟩, 0⟩, 0, 0, 0, { op0 with st := .retry }, by decide +kernel⟩,
   ⟨chq fun x => { x with sram := [(0, 0x13)] }, ⟨⟨0, 0⟩, 0⟩, 0, 0, 0, [], 4, _, _, _, ⟨rfl, ⟨by decide +kernel, ⟨rfl, rfl⟩⟩⟩⟩⟩

set_option maxRecDepth 4000 in
theorem wit_ChanterJobsRun :
    (∃ (c : Chip) (x : ClusterId) (w7 : DWord), c.stopped = false ∧ (c.cluster (clKey x)).queue.length < 64) ∧
    (∃ (c : Chip) (x : ClusterId) (w7 : DWord), c.stopped = false ∧ 64 ≤ (c.cluster (clKey x)).queue.length) ∧
    (∃ (c : Chip) (x : ClusterId) (r : Line) (rest : List Line) (i : Nat), c.stopped = false ∧ (c.cluster (clKey x)).queue = r ::rest ∧ c.rdF (Reg.chcCtl (clKey x / 104) (clKey x % 104)) 32 1 = 0 ∧ (recUsh r = true ∨ c.stale (recEpoch r) = false) ∧ c.recBad r = false ∧ c.rangesOf r = some [] ∧ recBg r = false ∧ recTarget r ≠ 0xFF ∧ recTarget r = i ∧ c.chFree (clKey x) i = true) ∧
    (∃ (c : Chip) (x : ChanterId) (j : Job), c.stopped = false ∧ (c.chanter (clKey x.cluster) x.ch.val).job = some j ∧ j.started = false ∧ (j.ranges.foldl Chip.declare (j.ranges.foldl Chip.cleanRange c)).holdsFit = true) ∧
    (∃ (c : Chip) (x : ClusterId) (jobid : Word) (r : Line), c.stopped = false ∧ ((c.cluster (clKey x)).queue.find? fun r => recId r == jobid.toNat) = some r) ∧
    (∃ (c : Chip) (x : ClusterId) (n : Fin 65) (o : Nat × Nat × ChOp), c.stopped = false ∧ oldestOp (c.bottomOps (clKey x)) = some o ∧ c.topWaits (clKey x) = false ∧ c.bottomOpen (clKey x) = true ∧ n.val ≠ 0 ∧ n.val ≤ c.bottomRoom (clKey x)) ∧
    (∃ (c : Chip) (x : ClusterId), c.stopped = false ∧ Store.get noMark c.mem.bottomBus (clKey x) = true ∧ c.topWaits (clKey x) = true) ∧
    (∃ (c : Chip) (x : ClusterId) (h : Nat × LineReq), c.stopped = false ∧ (c.mem.held.find? fun h => h.2.own && lineHome h.1 == clKey x) = some h ∧ (Store.get noMark c.mem.bottomBus (clKey x) && !Store.get noMark c.mem.burstEnd (clKey x)) = false ∧ (c.mem.backInv.any fun l => lineHome l == clKey x) = false ∧ c.canServe h.2 h.1 = true) ∧
    (∃ (c : Chip) (x : ClusterId), c.stopped = false ∧ c.rdF (Reg.chcCtl x.tower.val x.vault.val) 16 8 ≠ 0 ∧ c.bit (Reg.vaultCtl x.tower.val x.vault.val) 48 = false ∧ c.worksOf (Work.is (.patrol (clKey x))) = []) ∧
    (∃ (c : Chip) (x : ClusterId) (w : Work) (ws : List Work) (i : Nat) (cur : Nat) (n : Nat) (c1 : Chip), c.stopped = false ∧ c.rdF (Reg.chcCtl x.tower.val x.vault.val) 16 8 ≠ 0 ∧ c.bit (Reg.vaultCtl x.tower.val x.vault.val) 48 = false ∧ c.worksOf (Work.is (.patrol (clKey x))) = w ::ws ∧ w.status = none ∧ c.workRuns w = some i ∧ cur = w.items.foldl (fun _ x => x.1) 0 ∧ Chip.patrolGo (clKey x) (c.patrolLines (clKey x) cur) c = (c1, some n)) ∧
    (∃ (c : Chip) (x : ClusterId) (w : Work) (ws : List Work) (i : Nat) (cur : Nat) (c1 : Chip), c.stopped = false ∧ c.rdF (Reg.chcCtl x.tower.val x.vault.val) 16 8 ≠ 0 ∧ c.bit (Reg.vaultCtl x.tower.val x.vault.val) 48 = false ∧ c.worksOf (Work.is (.patrol (clKey x))) = w ::ws ∧ w.status = none ∧ c.workRuns w = some i ∧ cur = w.items.foldl (fun _ x => x.1) 0 ∧ Chip.patrolGo (clKey x) (c.patrolLines (clKey x) cur) c = (c1, none)) :=
  ⟨⟨up, ⟨0, 0⟩, 0, by decide +kernel⟩,
   ⟨up.setCluster 0 { Cluster.reset with queue := List.replicate 64 0 }, ⟨0, 0⟩, 0, by decide +kernel⟩,
   ⟨{ up.setCluster 0 { Cluster.reset with queue := [0] } with sys := { SysState.reset with fwEntries := [0] } }, ⟨0, 0⟩, 0, [], 0, by decide +kernel⟩,
   ⟨chq fun x => { x with job := some ⟨0, [], false⟩ }, ⟨⟨0, 0⟩, 0⟩, ⟨0, [], false⟩, by decide +kernel⟩,
   ⟨up.setCluster 0 { Cluster.reset with queue := [0] }, ⟨0, 0⟩, 0, 0, by decide +kernel⟩,
   ⟨chq fun x => { x with ops := [op0] }, ⟨0, 0⟩, 1, (0, 0, op0), by decide +kernel⟩,
   ⟨{ up with mem := { MemState.reset with bottomBus := [(0, true)], held := [(0, ⟨0, .usher, .read, 0, 0, true⟩)] } }, ⟨0, 0⟩, by decide +kernel⟩,
   ⟨{ up with mem := { MemState.reset with held := [(0, ⟨0, .usher, .read, 0, 0, true⟩)] } }, ⟨0, 0⟩, (0, ⟨0, .usher, .read, 0, 0, true⟩), by decide +kernel⟩,
   ⟨up, ⟨0, 0⟩, by decide +kernel⟩,
   ⟨pto, ⟨0, 0⟩, pwk, [], 0, 0, pt65.2.get pt65_some, pt65.1, and6 (by decide +kernel) ⟨rfl, pt65_eq⟩⟩,
   ⟨pt id, ⟨0, 0⟩, pwk, [], 0, 0, pt id, and6 (by decide +kernel) ⟨rfl, patrol_end _ _ _ pt_lines⟩⟩⟩

set_option maxRecDepth 4000 in
theorem wit_EpochsTurn :
    (∃ (c : Chip) (phase : Fin 3), c.usherRuns = true ∧ c.epochState = 1 ∧ c.phaseDue phase.val = true) ∧
    (∃ (c : Chip), c.usherRuns = true ∧ c.ush.cause = true ∧ c.epochState = 1 ∧ c.nextPlan.isSome = true) ∧
    (∃ (c : Chip) (copies : List (Fin 16 × Fin 4)), c.usherRuns = true ∧ c.epochState = 2 ∧ c.outstanding = 0 ∧ c.allHeld = true ∧ c.nextPlan.isNone = false) ∧
    (∃ (c : Chip), c.usherRuns = true ∧ c.epochState = 2 ∧ c.outstanding ≠ 0 ∧ c.ush.since.toNat + 50000000 ≤ c.act.toNat) ∧
    (∃ (c : Chip) (n : Nat) (c1 : Chip), c.usherRuns = true ∧ c.epochState = 3 ∧ n < c.ush.moves ∧ c.flipped n = false ∧ c.voided n = false ∧ c.worksEnd (c.servesMove n) [] = some (c1, true) ∧ ((c1.moveFlip n).moveKind n = 1 → ∀ i, (c1.moveFlip n).liveIdx (BitVec.ofNat 32 ((c1.moveFlip n).moveObj n)) = some i → (c1.moveFlip n).tkFlag i 1 = false)) ∧
    (∃ (c : Chip), c.usherRuns = true ∧ c.epochState = 3 ∧ c.sys.ha.towerDue = [] ∧ (∀ n < c.ush.moves, c.flipped n = true ∨ c.voided n = true)) ∧
    (∃ (c : Chip) (lags : List (Fin 384 × Nat)) (pl : Nat × Nat) (c1 : Chip), c.usherRuns = true ∧ c.nextPlan = some pl ∧ c.epochState = 4 ∧ ((c.loadMaps.placed (c.planSect pl)).all fun x => if c.loadMaps.onFallback x.2.1 x.2.2.1 then (c.gal x.1).shadow else (c.loadMaps.gal x.1).dom == .up) = true ∧ c.loadMaps.loadStages pl.1 (c.planSect pl) = (c1, [])) ∧
    (∃ (c : Chip) (batch : Nat), c.usherRuns = true) ∧
    (∃ (c : Chip) (t : Fin 4) (col : Fin 8) (jobid : Word) (entry : Byte) (v : Nat), c.usherRuns = true ∧ c.critValue (0x30 + 8 * t.val) = none ∧ c.rdF (Reg.gmap t.val) (8 * col.val + 4) 4 < 13 ∧ ((List.range 104).find? fun v => c.vaultPos (vaultKey t.val v) == 13 * col.val + c.rdF (Reg.gmap t.val) (8 * col.val + 4) 4) = some v ∧ (((c.ownWrF (Reg.chcCtl t.val v) 32 1 1).cluster (vaultKey t.val v)).chanters.any fun e => e.2.job.isSome) = false ∧ 2 ≤ ((List.range 32).filter fun n => !bitOf ((c.ownWrF (Reg.chcCtl t.val v) 32 1 1).rdF (Reg.chcStat t.val v) 0 32) n).length) :=
  ⟨⟨ep 1 (uk [] id), 2, by decide +kernel⟩,
   ⟨ep 1 (uk [] fun u => { u with cause := true }), by decide +kernel⟩,
   ⟨ep 2 (uk [] id), [], by decide +kernel⟩,
   ⟨ep 2 (at_ 50000000 (gup (fl 0 0))), by decide +kernel⟩,
   ⟨ep 3 (uk [] fun u => { u with moves := 1 }), 0, (ep 3 (uk [] fun u => { u with moves := 1 })).sendWorks, and5 (by decide +kernel) ⟨worksEnd_none _ _ (by decide +kernel), fun h => absurd h (by decide +kernel)⟩⟩,
   ⟨ep 3 (uk [] id), by decide +kernel⟩,
   ⟨ep 4 (uk [] id), [], (0, 1), (ep 4 (uk [] id)).loadMaps, and4 (by decide +kernel) ((by rfl))⟩,
   ⟨up, 0, by decide +kernel⟩,
   ⟨{ up.wr (Reg.gmap 0) 0 with dram := [(0x30, 1), (0x130, 2), (0x230, 3)] }, 0, 0, 0, 0, 0, by decide +kernel⟩⟩

set_option maxRecDepth 4000 in
theorem wit_TicketsMove_1 :
    (∃ (c : Chip) (w : Word) (ti : Nat) (d : Chip) (d1 : Chip) (root : Nat), c.usherRuns = true ∧ c.liveIdx w = some ti ∧ (c.mend ti).tkState ti = 1 ∧ (if (c.mend ti).tkRoot ti ≠ 0 then some ((c.mend ti), (c.mend ti).tkRoot ti) else (c.mend ti).newRoot ((c.mend ti).tkImage ti) 0) = some (d, root) ∧ Chip.readyPos (d.tkPut ti 0x20 8 root) ti 0 = some d1 ∧ d1.tkNtok ti ≠ 1) ∧
    (∃ (c : Chip) (w : Word) (ti : Nat) (d : Chip) (d1 : Chip) (root : Nat), c.usherRuns = true ∧ c.liveIdx w = some ti ∧ (c.mend ti).tkState ti = 1 ∧ (if (c.mend ti).tkRoot ti ≠ 0 then some ((c.mend ti), (c.mend ti).tkRoot ti) else (c.mend ti).newRoot ((c.mend ti).tkImage ti) 0) = some (d, root) ∧ Chip.readyPos (d.tkPut ti 0x20 8 root) ti 0 = some d1 ∧ d1.tkNtok ti = 1) ∧
    (∃ (c : Chip) (w : Word) (ti : Nat), c.usherRuns = true ∧ c.liveIdx w = some ti ∧ (c.mend ti).tkState ti = 2 ∧ (c.mend ti).npos ti + 1 = (c.mend ti).tkNtok ti ∧ (c.mend ti).tkFlag ti 4 = true ∧ (c.mend ti).inFlight w = false ∧ (if (c.mend ti).tkFlag ti 6 then (c.mend ti).waitingCmd ((c.mend ti).tkWord ti) 4 else none) = none) ∧
    (∃ (c : Chip) (w : Word) (ti : Nat) (m : HostCmd), c.usherRuns = true ∧ c.liveIdx w = some ti ∧ (c.mend ti).tkState ti = 2 ∧ (c.mend ti).npos ti + 1 = (c.mend ti).tkNtok ti ∧ (c.mend ti).tkFlag ti 4 = true ∧ (c.mend ti).inFlight w = false ∧ (c.mend ti).tkFlag ti 6 = true ∧ (c.mend ti).waitingCmd ((c.mend ti).tkWord ti) 4 = some m) ∧
    (∃ (c : Chip) (w : Word) (ti : Nat) (residue : Nat) (pipe : Nat) (limit : Nat) (j : Nat), c.usherRuns = true ∧ c.liveIdx w = some ti ∧ c.runLimit = some (pipe, limit) ∧ c.nextRunnable = some j ∧ c.running.length < limit ∧ residue < pipe) ∧
    (∃ (c : Chip) (w : Word) (ti : Nat) (pipe : Nat) (limit : Nat) (j : Nat) (k : Nat) (low : Nat) (rest : List Nat), c.usherRuns = true ∧ c.liveIdx w = some ti ∧ c.runLimit = some (pipe, limit) ∧ c.nextRunnable = some j ∧ limit ≤ c.running.length ∧ (c.running.any fun n => decide (c.tkPrio n < c.tkPrio j)) = true ∧ low = c.running.foldl (fun n y => min n (c.tkPrio y)) 7 ∧ c.byAge (c.running.filter fun n => c.tkPrio n == low && decide (low < c.tkPrio j ∧ c.rdF Reg.clkcfg 48 16 ≤ (c.aux n).ran)) = k ::rest) :=
  ⟨⟨cb 2, 0x100000, 0, rootAt (cbm 2) 0xC00000, cb1 2, 0xC00000, and3 (by decide +kernel) ⟨cb_bind 2 (by decide), ⟨cb_ready 2 (by decide), by decide +kernel⟩⟩⟩,
   ⟨cb 1, 0x100000, 0, rootAt (cbm 1) 0xC00000, cb1 1, 0xC00000, and3 (by decide +kernel) ⟨cb_bind 1 (by decide), ⟨cb_ready 1 (by decide), by decide +kernel⟩⟩⟩,
   ⟨uk [(0x10000004, 0x2), (0x10000005, 0x10), (0x10000010, 0x1)] id, 0x100000, 0, by decide +kernel⟩,
   ⟨h79, 0x100000, 0, h79m, by decide +kernel⟩,
   ⟨uk [(0x10000004, 0x3), (0x10000005, 0x10), (0x10000010, 0x1)] id, 0x100000, 0, 0, 1, 1, 0, by decide +kernel⟩,
   ⟨uk [(0x10000004, 0x4), (0x10000084, 0x3), (0x10000085, 0x10), (0x10000086, 0x1)] fun u => { u with freeNext := 2, aux := [(0, { TkAux.empty with ran := 1024 })] }, 0x100000, 0, 1, 1, 1, 0, 0, [], by decide +kernel⟩⟩

set_option maxRecDepth 4000 in
theorem wit_TicketsMove_2 :
    (∃ (c : Chip) (w : Word) (ti : Nat) (x : Word) (m : HostCmd) (c1 : Chip), c.usherRuns = true ∧ c.liveIdx w = some ti ∧ ((c.mend ti).aux ti).fork = some (x, m) ∧ (c.mend ti).tkState ti = 8 ∧ (c.mend ti).worksEnd (Work.is (.fork ti)) [] = some (c1, true)) ∧
    (∃ (c : Chip) (w : Word) (ti : Nat), c.usherRuns = true ∧ c.liveIdx w = some ti ∧ (c.mend ti).tkRoot ti ≠ 0 ∧ (c.mend ti).tkState ti ≠ 7 ∧ (c.mend ti).tkState ti ≠ 10 ∧ ((c.mend ti).rehangOf w).isSome = false ∧ ((c.mend ti).lostIndices ti).isEmpty = false) ∧
    (∃ (c : Chip) (w : Word) (ti : Nat), c.usherRuns = true ∧ c.liveIdx w = some ti ∧ (c.mend ti).tkState ti = 9 ∧ ((c.mend ti).aux ti).lost = [] ∧ ((c.mend ti).aux ti).fresh = [] ∧ (c.mend ti).inFlight w = false) ∧
    (∃ (c : Chip) (w : Word) (ti : Nat), c.usherRuns = true ∧ c.liveIdx w = some ti ∧ (c.mend ti).tkState ti ≠ 10 ∧ (c.mend ti).tkUnreadable ti = true) ∧
    (∃ (c : Chip) (w : Word) (ti : Nat), c.usherRuns = true ∧ c.liveIdx w = some ti ∧ (c.mend ti).tkState ti = 10 ∧ (c.mend ti).inFlight w = false) :=
  ⟨⟨uk [(0x10000004, 0x8)] fun u => { u with aux := [(0, { TkAux.empty with fork := some (0, ⟨0, 0, 0, [], [], none, false, false⟩) })] }, 0x100000, 0, 0, ⟨0, 0, 0, [], [], none, false, false⟩, ((uk [(0x10000004, 0x8)] fun u => { u with aux := [(0, { TkAux.empty with fork := some (0, ⟨0, 0, 0, [], [], none, false, false⟩) })] }).mend 0).sendWorks, and4 (by decide +kernel) (worksEnd_none _ _ (by decide +kernel))⟩,
   ⟨{ uk [(0x600008, 0x1), (0x10000004, 0x5), (0x10000010, 0x1), (0x10000022, 0x60)] id with mem := { MemState.reset with raw := [(0x18000, true)] } }, 0x100000, 0, by decide +kernel⟩,
   ⟨uk [(0x10000004, 0x9)] id, 0x100000, 0, by decide +kernel⟩,
   ⟨{ uk [(0x10000004, 5), (0x20000004, 5)] id with mem := { MemState.reset with raw := [(0x400000, true), (0x800000, true)] } }, 0x100000, 0, by decide +kernel⟩,
   ⟨uk [(0x10000004, 0xa)] id, 0x100000, 0, by decide +kernel⟩⟩

set_option maxRecDepth 4000 in
theorem wit_TicketMemoryMoves_1 :
    (∃ (c : Chip) (w : Word) (ti : Nat) (ms : Nat), c.usherRuns = true ∧ c.liveIdx w = some ti ∧ ((c.mend ti).rehangOf w).isSome = false ∧ (c.mend ti).demAfter ti = some ms ∧ (c.mend ti).tkState ti = 5 ∧ (c.mend ti).tkHot ti ≠ 8 ∧ field ((c.mend ti).tk ti 5 1) 0 3 = 0 ∧ (if ((c.mend ti).aux ti).demAt = 0 then (c.mend ti).tkSince ti else max ((c.mend ti).tkSince ti) ((c.mend ti).aux ti).demAt.toNat) + ms * 1000000 ≤ (c.mend ti).now.toNat ∧ ((c.mend ti).demotable ti).isEmpty = false ∧ (c.mend ti).forkSource ((c.mend ti).tkWord ti) = false) ∧
    (∃ (c : Chip) (w : Word) (ti : Nat) (failed : List Nat) (c1 : Chip) (ok : Bool), c.usherRuns = true ∧ c.liveIdx w = some ti ∧ (c.mend ti).tkFlag ti 0 = true ∧ (c.mend ti).tkState ti = 5 ∧ (c.mend ti).worksEnd (Work.is (.demote ti)) failed = some (c1, ok)) ∧
    (∃ (c : Chip) (w : Word) (ti : Nat) (n : Nat) (t : SpillTo) (c1 : Chip), c.usherRuns = true ∧ c.liveIdx w = some ti ∧ (c.towers.any fun t => c.framesBelow t (c.rdF Reg.clkcfg 32 7)) = true ∧ c1 = c.onUsh (fun u => { u with spilling := true }) ∧ (c1.liveTickets.any fun ti => c1.tkFlag ti 1 && (c1.aux ti).spillAns.isEmpty) = false ∧ c1.spillNext = some (n, t)) ∧
    (∃ (c : Chip) (w : Word) (ti : Nat) (k : Pack) (t : SpillTo) (c1 : Chip), c.usherRuns = true ∧ c.liveIdx w = some ti ∧ (c.mend ti).tkFlag ti 1 = true ∧ ((c.mend ti).tkState ti = 5 ∨ (c.mend ti).tkState ti = 6) ∧ (c.mend ti).forkSource w = false ∧ ((c.mend ti).rehangOf w).isSome = false ∧ ((c.mend ti).aux ti).pack = some k ∧ ((c.mend ti).aux ti).spill = some t ∧ (∀ n, t = .peer n → ((c.mend ti).aux ti).annex.isSome = true) ∧ (c.mend ti).worksEnd (Work.is (.spill ti)) [] = some (c1, true) ∧ k.sent = true ∧ (c1.worksGone (Work.is (.spill ti))).spillSending ti = false) :=
  ⟨⟨at_ 1000000 (uk [(0x600006, 0x1), (0x600008, 0x80), (0x600012, 0x70), (0x600015, 0x1), (0x700002, 0x80), (0x800003, 0x1), (0x10000004, 0x5), (0x1000001c, 0x1), (0x10000022, 0x60)] id), 0x100000, 0, 1, by decide +kernel⟩,
   ⟨uk [(0x10000004, 0x5), (0x10000005, 0x1)] id, 0x100000, 0, [], ((uk [(0x10000004, 0x5), (0x10000005, 0x1)] id).mend 0).sendWorks, true, and4 (by decide +kernel) (worksEnd_none _ _ (by decide +kernel))⟩,
   ⟨h83, 0x100000, 0, 0, .host 0x1000 4096 true, h89, and2 (by decide +kernel) ⟨List.any_eq_true.2 ⟨0, by decide +kernel, pool83⟩, ⟨rfl, ⟨by decide +kernel, h89_next⟩⟩⟩⟩,
   ⟨(uk [(0x10000004, 0x5), (0x10000005, 0x2)] fun u => { u with aux := [(0, { TkAux.empty with spill := some (.host 0 0 false), pack := some ⟨0, 0, true, 0, true⟩ })] }), 0x100000, 0, ⟨0, 0, true, 0, true⟩, .host 0 0 false, ((uk [(0x10000004, 0x5), (0x10000005, 0x2)] fun u => { u with aux := [(0, { TkAux.empty with spill := some (.host 0 0 false), pack := some ⟨0, 0, true, 0, true⟩ })] }).mend 0).sendWorks, and8 (by decide +kernel) ⟨(by rintro n h; cases h), ⟨worksEnd_none _ _ (by decide +kernel), by decide +kernel⟩⟩⟩⟩

set_option maxRecDepth 4000 in
theorem wit_TicketMemoryMoves_2 :
    (∃ (c : Chip) (w : Word) (ti : Nat) (img : List Byte) (k : Pack) (k1 : Pack) (c1 : Chip) (d : Chip), c.usherRuns = true ∧ c.liveIdx w = some ti ∧ (c.mend ti).tkFlag ti 2 = true ∧ (c.mend ti).tkState ti = 7 ∧ ((c.mend ti).aux ti).recallAt ≠ 0 ∧ (c.mend ti).recallImage ti = some img ∧ (c.mend ti).imageOk ti ((c.mend ti).modelId ((c.mend ti).tkModel ti)) img = true ∧ (c.mend ti).worksEnd (Work.is (.recall ti)) [] = some (c1, true) ∧ (c1.aux ti).pack = some k ∧ k1 = { k with done := k.done + (c1.recallPart ti k).length, off := k.off + ((c1.recallPart ti k).map fun x => x.2.2.1).sum } ∧ ¬ k1.done < ((c1.worksGone (Work.is (.recall ti))).aux ti).img.length ∧ ((c1.worksGone (Work.is (.recall ti))).setPack ti k1).recallCommit ti (c1.tkImage ti) img = some d) ∧
    (∃ (c : Chip) (w : Word) (ti : Nat) (err : Bool), c.usherRuns = true ∧ c.liveIdx w = some ti ∧ (c.mend ti).tkFlag ti 2 = true ∧ (c.mend ti).tkState ti = 7 ∧ ((((c.mend ti).recallImage ti).isNone = true ∧ ((c.mend ti).aux ti).recallAt ≠ 0 ∧ ((c.mend ti).aux ti).recallAt.toNat + 49999999 ≤ (c.mend ti).act.toNat) ∨ ((c.mend ti).aux ti).recallBad = true ∨ (∃ b, (c.mend ti).recallImage ti = some b ∧ (c.mend ti).imageOk ti ((c.mend ti).modelId ((c.mend ti).tkModel ti)) b = false))) ∧
    (∃ (c : Chip) (w : Word) (ti : Nat) (batch : Nat) (pl : Nat × List Byte) (t : RowTable), c.usherRuns = true ∧ c.liveIdx w = some ti ∧ c.curPlan = some pl ∧ (c.ush.tables.find? fun t => t.batch == batch && !t.shared) = some t ∧ ((c.placed pl.2).filter fun x => !c.fenced x.1).length ≤ (Store.get noNet c.ush.stepNet batch).1) ∧
    (∃ (c : Chip) (w : Word) (ti : Nat) (lags : List (Fin 384 × Nat)) (pl : Nat × Nat), c.usherRuns = true ∧ c.liveIdx w = some ti ∧ c.ush.plan = some pl ∧ c.mayForm (c.planSect pl) = true) :=
  ⟨⟨rc, 0x100000, 0, spi, pk0, pk0, rcs, rc_commit.choose, and5 (by decide +kernel) ⟨rc_ok.1, ⟨rc_ok.2, ⟨worksEnd_none _ _ (by decide +kernel), and3 (by decide +kernel) (rc_commit.choose_spec)⟩⟩⟩⟩,
   ⟨at_ 50000000 (uk [(0x10000004, 0x7), (0x10000005, 0x4)] id), 0x100000, 0, false, by decide +kernel⟩,
   ⟨uk [(0x10000004, 0x4)] fun u => { u with tables := [⟨0, [], 0, [], false, false⟩] }, 0x100000, 0, 0, (0, (uk [] id).planSect (0, 1)), ⟨0, [], 0, [], false, false⟩, by decide +kernel⟩,
   ⟨ep 1 (uk [(0x10000004, 0x4)] id), 0x100000, 0, [], (0, 1), by decide +kernel⟩⟩

set_option maxRecDepth 4000 in
theorem wit_HostCommandsTakeEffect_1 :
    (∃ (c : Chip) (q : Fin 256) (good : Bool) (m : HostCmd) (d : Chip) (y : Chip), c.Accepts q.val good m d ∧ entryOpc m.entry = 1 ∧ (d.epochState = 1 ∨ m.late = false) ∧ d.admitTicket m = some y) ∧
    (∃ (c : Chip) (q : Fin 256) (good : Bool) (m : HostCmd) (d : Chip) (i : Nat) (e : Chip) (y : Chip), c.Accepts q.val good m d ∧ entryOpc m.entry = 2 ∧ (d.epochState = 1 ∨ m.late = false) ∧ d.liveIdx (entryTicket m.entry) = some i ∧ e = d.mend i ∧ (e.tkState i = 5 ∨ e.tkState i = 6) ∧ e.tkFlag i 0 = false ∧ e.tkFlag i 1 = false ∧ e.tkNtok i + cmdNtok m.entry ≤ 524288 ∧ e.feedTokens i m = some y) :=
  ⟨⟨h90, 0, true, acM h90, acD h90, admit90.choose, ⟨acc _ (by decide +kernel), and2 (by decide +kernel) (admit90.choose_spec)⟩⟩,
   ⟨h91, 0, true, acM h91, acD h91, 0, ((acD h91).mend 0), (((acD h91).mend 0).feedTokens 0 (acM h91)).get (by decide +kernel), ⟨acc _ (by decide +kernel), and8 (by decide +kernel) (opt_get _ _)⟩⟩⟩

set_option maxRecDepth 4000 in
theorem wit_HostCommandsTakeEffect_2 :
    (∃ (c : Chip) (q : Fin 256) (good : Bool) (m : HostCmd) (d : Chip) (i : Nat) (e : Chip), c.Accepts q.val good m d ∧ entryOpc m.entry = 3 ∧ (d.epochState = 1 ∨ m.late = false) ∧ d.liveIdx (entryTicket m.entry) = some i ∧ e = d.mend i ∧ (e.tkState i = 5 ∨ e.tkState i = 6) ∧ e.tkFlag i 0 = false ∧ e.tkFlag i 1 = false) ∧
    (∃ (c : Chip) (q : Fin 256) (good : Bool) (m : HostCmd) (d : Chip) (i : Nat) (e : Chip), c.Accepts q.val true m d ∧ good = true ∧ entryOpc m.entry = 4 ∧ (d.epochState = 1 ∨ m.late = false) ∧ d.liveIdx (entryTicket m.entry) = some i ∧ e = d.mend i ∧ e.tkState i = 3) :=
  ⟨⟨h92, 0, true, acM h92, acD h92, 0, ((acD h92).mend 0), ⟨acc _ (by decide +kernel), by decide +kernel⟩⟩,
   ⟨h93, 0, true, acM h93, acD h93, 0, ((acD h93).mend 0), ⟨acc _ (by decide +kernel), by decide +kernel⟩⟩⟩

set_option maxRecDepth 4000 in
theorem wit_HostCommandsTakeEffect_3 :
    (∃ (c : Chip) (q : Fin 256) (good : Bool) (m : HostCmd) (d : Chip) (i : Nat) (e : Chip) (y : Chip), c.Accepts q.val good m d ∧ entryOpc m.entry = 5 ∧ d.liveIdx (entryTicket m.entry) = some i ∧ e = d.mend i ∧ e.cmdLate m = false ∧ (e.tkState i = 3 ∨ e.tkState i = 4 ∨ e.tkState i = 5 ∨ e.tkState i = 6) ∧ e.busy i = false ∧ e.rehangOf (e.tkWord i) = none ∧ e.inFlight (e.tkWord i) = false ∧ e.fork i m = some y) ∧
    (∃ (c : Chip) (q : Fin 256) (good : Bool) (m : HostCmd) (d : Chip) (i : Nat) (e : Chip) (f : Chip), c.Accepts q.val true m d ∧ good = true ∧ entryOpc m.entry = 6 ∧ d.liveIdx (entryTicket m.entry) = some i ∧ e = d.mend i ∧ e.tkState i ≠ 8 ∧ e.tkState i ≠ 10 ∧ e.forkSource (e.tkWord i) = false ∧ f = (match e.rehangOf (e.tkWord i) with | some n => e.memWriteNum (e.moveAddr n + 1) 1 1 | none => e) ∧ (e.tkState i ≠ 4 ∨ f.inFlight (f.tkWord i) = false)) :=
  ⟨⟨h94, 0, true, acM h94, acD h94, 0, b94, fork94.choose, ⟨acc _ (by decide +kernel), and2 (by decide +kernel) ⟨rfl, and5 (by decide +kernel) (fork94.choose_spec)⟩⟩⟩,
   ⟨h95, 0, true, acM h95, acD h95, 0, ((acD h95).mend 0), ((acD h95).mend 0), ⟨acc _ (by decide +kernel), and7 (by decide +kernel) ⟨rfl, by decide +kernel⟩⟩⟩⟩

set_option maxRecDepth 4000 in
theorem wit_HostCommandsTakeEffect_4 :
    (∃ (c : Chip) (q : Fin 256) (good : Bool) (m : HostCmd) (d : Chip) (i : Nat) (a : Nat) (n : Nat) (e : Chip), c.Accepts q.val true m d ∧ good = true ∧ entryOpc m.entry = 7 ∧ d.liveIdx (entryTicket m.entry) = some i ∧ e = d.mend i ∧ e.cmdLate m = false ∧ (e.tkState i = 5 ∨ e.tkState i = 6) ∧ e.busy i = false ∧ e.rehangOf (e.tkWord i) = none ∧ e.spillTarget i m = some (.host a n false) ∧ e.spillFits i n = true) ∧
    (∃ (c : Chip) (q : Fin 256) (good : Bool) (m : HostCmd) (d : Chip) (i : Nat) (e : Chip), c.Accepts q.val true m d ∧ good = true ∧ entryOpc m.entry = 8 ∧ d.liveIdx (entryTicket m.entry) = some i ∧ e = d.mend i ∧ e.cmdLate m = false ∧ e.tkState i = 7 ∧ e.tkFlag i 2 = false ∧ e.rehangOf (e.tkWord i) = none) :=
  ⟨⟨h96, 0, true, acM h96, acD h96, 0, 0x10000, 0x100000, ((acD h96).mend 0), ⟨acc _ (by decide +kernel), by decide +kernel⟩⟩,
   ⟨h97, 0, true, acM h97, acD h97, 0, ((acD h97).mend 0), ⟨acc _ (by decide +kernel), by decide +kernel⟩⟩⟩

set_option maxRecDepth 4000 in
theorem wit_HostCommandsTakeEffect_5 :
    (∃ (c : Chip) (q : Fin 256) (good : Bool) (m : HostCmd) (d : Chip) (i : Nat) (e : Chip), c.Accepts q.val true m d ∧ good = true ∧ entryOpc m.entry = 8 ∧ d.liveIdx (entryTicket m.entry) = some i ∧ e = d.mend i ∧ e.cmdLate m = false ∧ e.tkState i ≠ 7 ∧ e.tkState i ≠ 8 ∧ e.tkState i ≠ 10 ∧ e.tkFlag i 2 = false ∧ e.rehangOf (e.tkWord i) = none) ∧
    (∃ (c : Chip) (q : Fin 256) (good : Bool) (m : HostCmd) (d : Chip) (i : Nat) (e : Chip), c.Accepts q.val good m d ∧ entryOpc m.entry = 9 ∧ d.liveIdx (entryTicket m.entry) = some i ∧ e = d.mend i) :=
  ⟨⟨h97b, 0, true, acM h97b, acD h97b, 0, ((acD h97b).mend 0), ⟨acc _ (by decide +kernel), by decide +kernel⟩⟩,
   ⟨h98, 0, true, acM h98, acD h98, 0, ((acD h98).mend 0), ⟨acc _ (by decide +kernel), by decide +kernel⟩⟩⟩

set_option maxRecDepth 4000 in
theorem wit_HostCommandsTakeEffect_6 :
    (∃ (c : Chip) (q : Fin 256) (good : Bool) (m : HostCmd) (d : Chip), c.Accepts q.val good m d ∧ entryOpc m.entry = 0x10 ∧ bitOf (entryN m.entry 26 1) 0 = false ∧ entryN m.entry 25 1 = 0) ∧
    (∃ (c : Chip) (q : Fin 256) (good : Bool) (m : HostCmd) (d : Chip), c.Accepts q.val good m d ∧ entryOpc m.entry = 0x10 ∧ bitOf (entryN m.entry 26 1) 0 = false ∧ entryN m.entry 25 1 ≠ 0) :=
  ⟨⟨h99, 0, true, acM h99, acD h99, ⟨acc _ (by decide +kernel), by decide +kernel⟩⟩,
   ⟨h100, 0, true, acM h100, acD h100, ⟨acc _ (by decide +kernel), by decide +kernel⟩⟩⟩

set_option maxRecDepth 4000 in
theorem wit_HostCommandsTakeEffect_7 :
    (∃ (c : Chip) (q : Fin 256) (good : Bool) (m : HostCmd) (d : Chip), c.Accepts q.val true m d ∧ good = true ∧ entryOpc m.entry = 0x10 ∧ bitOf (entryN m.entry 26 1) 0 = true) ∧
    (∃ (c : Chip) (q : Fin 256) (good : Bool) (m : HostCmd) (d : Chip) (y : Chip), c.Accepts q.val good m d ∧ entryOpc m.entry = 0x11 ∧ d.planSelect m = some y) :=
  ⟨⟨h101, 0, true, acM h101, acD h101, ⟨acc _ (by decide +kernel), by decide +kernel⟩⟩,
   ⟨h102, 0, true, acM h102, acD h102, ((acD h102).planSelect (acM h102)).get (by decide +kernel), ⟨acc _ (by decide +kernel), ⟨by decide +kernel, opt_get _ _⟩⟩⟩⟩

set_option maxRecDepth 4000 in
theorem wit_HostCommandsTakeEffect_8 :
    (∃ (c : Chip) (q : Fin 256) (good : Bool) (m : HostCmd) (d : Chip), c.Accepts q.val true m d ∧ good = true ∧ entryOpc m.entry = 0x12) ∧
    (∃ (c : Chip) (q : Fin 256) (good : Bool) (m : HostCmd) (d : Chip), c.Accepts q.val good m d ∧ entryOpc m.entry = 0x13) :=
  ⟨⟨h103, 0, true, acM h103, acD h103, ⟨acc _ (by decide +kernel), by decide +kernel⟩⟩,
   ⟨h104, 0, true, acM h104, acD h104, ⟨acc _ (by decide +kernel), by decide +kernel⟩⟩⟩

set_option maxRecDepth 4000 in
theorem wit_HostCommandsTakeEffect_9 : (∃ (c : Chip) (q : Fin 256) (good : Bool) (m : HostCmd) (d : Chip), c.Accepts q.val good m d ∧ entryOpc m.entry = 0x14) :=
  ⟨h105, 0, true, acM h105, acD h105, ⟨acc _ (by decide +kernel), by decide +kernel⟩⟩

set_option maxRecDepth 4000 in
theorem wit_ApertureAccessesComplete :
    (∃ (c : Chip) (l : BitVec 30) (d : Chip) (v : Line), c.bar2Open = true ∧ c.barBehind (.read (c.barLine l)) = false ∧ c.sliceRead (c.barLine l) 0 .bar2 = (d, 0, v)) ∧
    (∃ (c : Chip) (l : BitVec 30) (d : Chip) (v : Line), c.bar2Open = true ∧ c.barBehind (.read (c.barLine l)) = false ∧ c.sliceRead (c.barLine l) 0 .bar2 = (d, 1, v)) ∧
    (∃ (c : Chip) (l : BitVec 30) (mask : BitVec 64) (data : BitVec 512) (d : Chip), c.bar2Open = true ∧ (c.isSealed = false ∨ c.bit Reg.hifCtl 2 = true) ∧ c.barBehind (.write (c.barLine l) mask data false) = false ∧ c.sliceWrite (c.barLine l) mask data 0 .bar2 = (d, 0)) ∧
    (∃ (c : Chip) (l : BitVec 30) (mask : BitVec 64) (data : BitVec 512) (poison : Bool), c.bar2Open = true ∧ c.isSealed = true ∧ c.bit Reg.hifCtl 2 = false ∧ c.barBehind (.write (c.barLine l) mask data poison) = false) ∧
    (∃ (c : Chip) (w : BarWait) (d : Chip), c.host.bar2Wait = [w] ∧ w.op.isDoor = false ∧ c.act.toNat < w.since.toNat + 1000000 ∧ w.last.toNat + 1000 ≤ c.act.toNat ∧ Chip.barTry { c with host := { c.host with bar2Wait := [] } } w.op = (d, false)) ∧
    (∃ (c : Chip) (w : BarWait) (l : Nat), c.host.bar2Wait = [w] ∧ w.op = .read l ∧ w.since.toNat + 1000000 ≤ c.act.toNat) :=
  ⟨⟨up, 0, (up.sliceRead (up.barLine 0) 0 .bar2).1, (up.sliceRead (up.barLine 0) 0 .bar2).2.2, by decide +kernel⟩,
   ⟨me (fun m => { m with raw := [(0, true)] }) up, 0, ((me (fun m => { m with raw := [(0, true)] }) up).sliceRead 0 0 .bar2).1, ((me (fun m => { m with raw := [(0, true)] }) up).sliceRead 0 0 .bar2).2.2, by decide +kernel⟩,
   ⟨up.wr Reg.hifCtl 4, 0, 0, 0, ((up.wr Reg.hifCtl 4).sliceWrite 0 0 0 0 .bar2).1, by decide +kernel⟩,
   ⟨up, 0, 0, 0, false, by decide +kernel⟩,
   ⟨at_ 1000 { up with host := { HostState.reset with bar2Wait := [⟨.read 0, 0, 0⟩] } }, ⟨.read 0, 0, 0⟩, ((at_ 1000 { up with host := { HostState.reset with bar2Wait := [] } }).barTry (.read 0)).1, by decide +kernel⟩,
   ⟨at_ 1000000 { up with host := { HostState.reset with bar2Wait := [⟨.read 0, 0, 0⟩] } }, ⟨.read 0, 0, 0⟩, 0, by decide +kernel⟩⟩

set_option maxRecDepth 4000 in
theorem wit_RingsAndDoorbellsRun :
    (∃ (c : Chip) (q : Fin 256) (v : Word), c.isSealed = true ∧ c.stopped = false ∧ c.barBehind (.sqTail q.val v) = false ∧ c.bit (Reg.sqCfg q.val) 5 = true ∧ v.toNat < c.sqSize q.val) ∧
    (∃ (c : Chip) (q : Fin 256) (v : Word), c.isSealed = true ∧ c.stopped = false ∧ c.barBehind (.cqHead q.val v) = false ∧ c.cqEnabled q.val = true ∧ v.toNat < c.cqSize q.val) ∧
    (∃ (c : Chip) (q : Fin 256) (cfg : DWord) (r : RegDef) (nv : Nat), c.Serving ∧ regAt (Reg.sqCfg q.val) = some r ∧ nv = regWrite (Reg.sqCfg q.val) r.fields true (c.rd (Reg.sqCfg q.val)) cfg.toNat (2 ^ 64 - 1) ∧ bitOf cfg.toNat 5 = true ∧ regPairOk (Reg.sqCfg q.val) nv = true ∧ bitOf (c.rd (Reg.sqCfg q.val)) 5 = false ∧ bitOf nv 5 = true) ∧
    (∃ (c : Chip) (q : Fin 256) (cfg : DWord) (r : RegDef) (nv : Nat), c.Serving ∧ regAt (Reg.cqCfg q.val) = some r ∧ nv = regWrite (Reg.cqCfg q.val) r.fields true (c.rd (Reg.cqCfg q.val)) cfg.toNat (2 ^ 64 - 1) ∧ bitOf cfg.toNat 5 = true ∧ regPairOk (Reg.cqCfg q.val) nv = true ∧ bitOf (c.rd (Reg.cqCfg q.val)) 5 = false ∧ bitOf nv 5 = true) ∧
    (∃ (c : Chip) (q : Fin 256), c.usherRuns = true ∧ c.bit Reg.hifCtl 1 = true ∧ c.cqEnabled q.val = true ∧ (c.cq q.val).fullAt ≠ 0 ∧ (c.cq q.val).told = false ∧ (c.cq q.val).fullAt.toNat - 1 + 100000000 ≤ c.act.toNat) ∧
    (∃ (c : Chip) (q : Fin 256) (d : Chip), c.stopped = false ∧ c.cqEnabled q.val = true ∧ c.bit (Reg.cqCfg q.val) 6 = true ∧ (c.cq q.val).idue = 0 ∧ (c.cq q.val).icount ≠ 0 ∧ (c.rdF (Reg.cqCfg q.val) 24 8 ≤ (c.cq q.val).icount ∨ (c.cq q.val).ifirst.toNat - 1 + c.rdF (Reg.cqCfg q.val) 32 16 * 1000 ≤ c.now.toNat) ∧ d = c.setCq q.val { c.cq q.val with icount := 0, ifirst := 0 } ∧ d.msixOpen (c.rdF (Reg.cqCfg q.val) 8 11) = true) ∧
    (∃ (c : Chip) (q : Fin 256) (d : Chip), c.stopped = false ∧ c.cqEnabled q.val = true ∧ c.bit (Reg.cqCfg q.val) 6 = true ∧ (c.cq q.val).idue ≠ 0 ∧ d = c.setCq q.val { c.cq q.val with idue := (c.cq q.val).idue - 1 } ∧ d.msixOpen (c.rdF (Reg.cqCfg q.val) 8 11) = false) ∧
    (∃ (c : Chip) (run : Bool), c.Serving) ∧
    (∃ (c : Chip), c.Serving) ∧
    (∃ (c : Chip) (e : PcieEvent), c.isSealed = true) ∧
    (∃ (c : Chip) (width : Fin 5) (rate : Fin 6) (w : Nat) (r : Nat), c.usherRuns = true ∧ (width.val ≠ 4 ∨ rate.val ≠ 5) ∧ w = listGet 1 [1, 2, 4, 8, 16] width.val ∧ r = listGet 64 [(Config.halfRate 0).toNat, 5, 8, 16, 32, 64] rate.val) :=
  ⟨⟨hc 1 0 [] [] id, 0, 0, by decide +kernel⟩,
   ⟨hc 1 0 [] [] id, 0, 0, by decide +kernel⟩,
   ⟨up, 0, 0x126, (regAt (Reg.sqCfg 0)).get (by decide +kernel), regWrite (Reg.sqCfg 0) ((regAt (Reg.sqCfg 0)).get (by decide +kernel)).fields true (up.rd (Reg.sqCfg 0)) 0x126 (2 ^ 64 - 1), ⟨(by refine ⟨?_, ?_⟩ <;> decide +kernel), ⟨opt_get _ _, ⟨rfl, by decide +kernel⟩⟩⟩⟩,
   ⟨up, 0, 0x26, (regAt (Reg.cqCfg 0)).get (by decide +kernel), regWrite (Reg.cqCfg 0) ((regAt (Reg.cqCfg 0)).get (by decide +kernel)).fields true (up.rd (Reg.cqCfg 0)) 0x26 (2 ^ 64 - 1), ⟨(by refine ⟨?_, ?_⟩ <;> decide +kernel), ⟨opt_get _ _, ⟨rfl, by decide +kernel⟩⟩⟩⟩,
   ⟨at_ 100000000 (let c := hc 1 0 [] [] id; { c with host := { c.host with cq := [(0, { CqState.reset with fullAt := 1 })] } }), 0, by decide +kernel⟩,
   ⟨cqi 1 0 [(0x90, 0x80000000)], 0, (cqi 1 0 [(0x90, 0x80000000)]).setCq 0 { (cqi 1 0 [(0x90, 0x80000000)]).cq 0 with icount := 0, ifirst := 0 }, and6 (by decide +kernel) ⟨rfl, by decide +kernel⟩⟩,
   ⟨cqi 1 1 [], 0, (cqi 1 1 []).setCq 0 { (cqi 1 1 []).cq 0 with idue := ((cqi 1 1 []).cq 0).idue - 1 }, and4 (by decide +kernel) ⟨rfl, by decide +kernel⟩⟩,
   ⟨up, false, by unfold Chip.Serving; decide +kernel⟩,
   ⟨up, by unfold Chip.Serving; decide +kernel⟩,
   ⟨up, .flr, by decide +kernel⟩,
   ⟨up, 0, 0, 1, listGet 64 [(Config.halfRate 0).toNat, 5, 8, 16, 32, 64] 0, and3 (by decide +kernel) (rfl)⟩⟩

set_option maxRecDepth 4000 in
theorem wit_LinkLanesAndFlitsRun :
    (∃ (c : Chip) (l : Fin 5) (msg : BitVec 20560) (parity : BitVec 1200) (v : Nat) (good : Bool) (ks : List Nat), (c.linkUp l.val = true ∨ c.linkSt l.val = 1) ∧ blockDecode (msg.toNat + parity.toNat * 2 ^ 20560) = (v, good, ks)) ∧
    (∃ (c : Chip) (l : Fin 5) (lane : Fin 9), c.linkUp l.val = true) ∧
    (∃ (c : Chip) (l : Fin 5) (lane : Nat), (c.link l.val).fail = some lane ∧ lane ≠ 8) ∧
    (∃ (c : Chip) (l : Fin 5) (t : Nat) (drift : Int), c.linkUp l.val = true ∧ (c.link l.val).rxSpare ≠ some 0 ∧ bitOf (c.rdF (Reg.linkStat l.val) 16 9) 0 = true) ∧
    (∃ (c : Chip) (l : Fin 5) (lane : Fin 9) (control : Word) (status : Word) (crc : BitVec 16) (ready : Bool), c.linkSt l.val = 1 ∧ crc.toNat = crc16 (lowBits (control.toNat + status.toNat * 2 ^ 32) 64)) ∧
    (∃ (c : Chip) (l : Fin 5) (f : BitVec 2048) (fs : List (BitVec 2048 × Bool)), Store.wf noLink c.lk.link = true ∧ c.linkUp l.val = true ∧ (c.link l.val).rxFlits = (f, true) ::fs ∧ field f.toNat 2016 32 = crc32 (leBytes 252 f.toNat) ∧ bitOf f.toNat 73 = false ∧ bitOf f.toNat 72 = false ∧ bitOf f.toNat 29 = false ∧ field f.toNat 0 12 = (c.link l.val).rxNext.toNat ∧ Store.get zeroNat (c.link l.val).held (field f.toNat 12 2) < vcBuffer (field f.toNat 12 2)) ∧
    (∃ (c : Chip) (l : Fin 5), c.stopped = false ∧ c.linkUp l.val = true ∧ (c.link l.val).nakSeen = true) ∧
    (∃ (c : Chip) (l : Fin 5), c.stopped = false ∧ c.linkUp l.val = true ∧ (c.link l.val).replay.isEmpty = false ∧ (c.link l.val).lastAck.toNat + 4000 ≤ c.act.toNat) ∧
    (∃ (c : Chip) (l : Fin 5) (good : BitVec 9) (boot : Word), c.linkUp l.val = true ∧ (c.link l.val).fast = 1 ∧ laneWidth good.toNat ≠ 0) ∧
    (∃ (c : Chip) (l : Fin 5), c.linkSt l.val = 2 ∧ c.linkFeat l.val 2 = true ∧ (c.link l.val).flitCount = 0 ∧ (c.link l.val).lastUse.toNat + 100000 ≤ c.act.toNat) ∧
    (∃ (c : Chip) (l : Fin 5) (good : Fin 4), c.linkUp l.val = true) :=
  ⟨⟨lk id, 0, 0, 0, (fec_any 0 0).choose, (fec_any 0 0).choose_spec.choose, (fec_any 0 0).choose_spec.choose_spec.choose, ⟨by decide +kernel, (fec_any 0 0).choose_spec.choose_spec.choose_spec⟩⟩,
   ⟨lk id, 0, 0, by decide +kernel⟩,
   ⟨lk fun x => { x with fail := some 0 }, 0, 0, by decide +kernel⟩,
   ⟨(lk id).wr (Reg.linkStat 0) 0x12002, 0, 0, 0, by decide +kernel⟩,
   ⟨(lk id).wr (Reg.linkStat 0) 1, 0, 0, 0, 0, BitVec.ofNat 16 (crc16 (lowBits 0 64)), false, by decide +kernel⟩,
   ⟨lk fun x => { x with rxFlits := [(flit, true)] }, 0, flit, [], by decide +kernel⟩,
   ⟨lk fun x => { x with nakSeen := true }, 0, by decide +kernel⟩,
   ⟨at_ 4000 (lk fun x => { x with replay := [⟨0, 0, true, true, []⟩] }), 0, by decide +kernel⟩,
   ⟨lk fun x => { x with fast := 1 }, 0, 0x1FF, 0, by decide +kernel⟩,
   ⟨at_ 100000 ((lk id).wr (Reg.linkStat 0) 0x40000000002), 0, by decide +kernel⟩,
   ⟨lk id, 0, 0, by decide +kernel⟩⟩

set_option maxRecDepth 4000 in
theorem wit_LinkTransactionsServed :
    (∃ (c : Chip) (l : Fin 5) (d : Chip) (e : Chip) (t : Txn) (a : Annex), c.stopped = false ∧ c.takeTxn l.val 0 (· == 1) = some (d, t) ∧ d.bulkOk l.val t = true ∧ t.data.length = t.len ∧ d.annexFor l.val t true = .inl a ∧ t.offset + t.len ≤ a.len ∧ d.annexPut l a t.offset t.data = (e, true) ∧ t.ackreq = true) ∧
    (∃ (c : Chip) (l : Fin 5) (d : Chip) (t : Txn) (a : Annex) (r : Chip × Nat × List Byte), c.stopped = false ∧ c.takeTxn l.val 2 (· == 2) = some (d, t) ∧ t.data = [] ∧ d.bulkOk l.val t = true ∧ d.annexFor l.val t false = .inl a ∧ t.offset + t.len ≤ a.len ∧ (c.link l.val).putBefore t.place = false ∧ d.annexGet l a t.offset t.len = r ∧ r.2.1 = 0) ∧
    (∃ (c : Chip) (l : Fin 5) (d : Chip) (t : Txn), c.usherRuns = true ∧ c.takeTxn l.val 1 (· == 4) = some (d, t) ∧ t.len ≠ 0 ∧ t.len ≤ (if d.linkVer l.val < 0x20 then 65536 else 2 ^ 20) ∧ t.data.length = t.len ∧ d.kindKnown l.val (field t.arg.toNat 0 16) = true) ∧
    (∃ (c : Chip) (l : Fin 5) (d : Chip) (t : Txn) (a : Annex) (x : Nat) (r : Chip × Nat × Line), c.stopped = false ∧ c.takeTxn l.val 2 (· == 5) = some (d, t) ∧ 0x20 ≤ d.linkVer l.val ∧ (t.len = 4 ∨ (t.len = 8 ∧ d.linkFeat l.val 0 = true)) ∧ t.offset % t.len = 0 ∧ d.annexFor l.val t true = .inl a ∧ t.offset + t.len ≤ a.len ∧ annexAddr a.pieces t.offset = some x ∧ r = d.sliceRead (x / 64) 1 (.link l) ∧ r.2.1 = 0) ∧
    (∃ (c : Chip) (l : Fin 5) (id : Byte), c.usherRuns = true ∧ c.linkUp l.val = true ∧ Store.get noBool (c.link l.val).sent id.toNat = false) ∧
    (∃ (c : Chip) (l : Fin 5) (d : Chip) (t : Txn) (id : Nat), c.usherRuns = true ∧ c.takeTxn l.val 3 (· == 7) = some (d, t) ∧ id = field t.arg.toNat 0 8 ∧ Store.get noBool (d.link l.val).got id = false ∧ bitOf t.arg.toNat 8 = Store.get noBool (d.link l.val).gens id) ∧
    (∃ (c : Chip) (l : Fin 5) (d : Chip) (e : Chip) (t : Txn) (r : LinkReq) (i : Nat) (o : Nat), c.usherRuns = true ∧ c.takeTxn l.val 0 (· == 3) = some (d, t) ∧ d.matchReq l.val t = (e, some r) ∧ t.status = 0 ∧ r.why = .recall i o) ∧
    (∃ (c : Chip) (l : Fin 5) (d : Chip) (e : Chip) (t : Txn) (r : LinkReq), c.stopped = false ∧ c.takeTxn l.val 2 (· == 6) = some (d, t) ∧ d.matchReq l.val t = (e, some r)) ∧
    (∃ (c : Chip) (l : Fin 5) (d : Chip) (e : Chip) (t : Txn) (r : LinkReq), c.usherRuns = true ∧ c.takeTxn l.val 2 (· == 8) = some (d, t) ∧ d.matchReq l.val t = (e, some r) ∧ t.status = 0 ∧ (r.why = .plain ∨ ∃ i, r.why = .spill i)) ∧
    (∃ (c : Chip) (l : Fin 5) (d : Chip) (e : Chip) (t : Txn) (r : LinkReq), c.usherRuns = true ∧ c.takeTxn l.val 2 (· == 8) = some (d, t) ∧ d.matchReq l.val t = (e, some r) ∧ t.status = 3) ∧
    (∃ (c : Chip) (l : Fin 5) (tag : Half) (r : LinkReq) (t0 : DWord), c.usherRuns = true ∧ ((c.link l.val).out.find? fun r => r.txn.tag == tag) = some r ∧ r.again = some t0 ∧ c.linkUp l.val = true ∧ t0.toNat + 20000 ≤ c.act.toNat) ∧
    (∃ (c : Chip) (l : Fin 5) (tag : Half) (r : LinkReq), c.usherRuns = true ∧ ((c.link l.val).out.find? fun r => r.txn.tag == tag) = some r ∧ r.again = none ∧ r.since.toNat + 10000000 ≤ c.act.toNat) :=
  ⟨⟨lin 0 (tx 1 64 (List.replicate 64 0)) [], 0, lou [], ((lou []).annexPut 0 an 0 (List.replicate 64 0)).1, tx 1 64 (List.replicate 64 0), an, by decide +kernel⟩,
   ⟨lin 2 (tx 2 64 []) [], 0, lou [], tx 2 64 [], an, (lou []).annexGet 0 an 0 64, by decide +kernel⟩,
   ⟨lin 1 ({ tx 4 1 [0] with arg := 1 }) [], 0, lou [], { tx 4 1 [0] with arg := 1 }, by decide +kernel⟩,
   ⟨lin 2 (tx 5 4 []) [], 0, lou [], tx 5 4 [], an, 0x600000, (lou []).sliceRead 0x18000 1 (.link 0), by decide +kernel⟩,
   ⟨lk id, 0, 0, by decide +kernel⟩,
   ⟨lin 3 (tx 7 0 []) [], 0, lou [], tx 7 0 [], 0, by decide +kernel⟩,
   ⟨lin 0 (tx 3 0 []) [rq (.recall 0 0) none], 0, lou [rq (.recall 0 0) none], lou [rq (.recall 0 0) none], tx 3 0 [], rq (.recall 0 0) none, 0, 0, by decide +kernel⟩,
   ⟨lin 2 (tx 6 0 []) [rq .plain none], 0, lou [rq .plain none], lou [rq .plain none], tx 6 0 [], rq .plain none, by decide +kernel⟩,
   ⟨lin 2 (tx 8 0 []) [rq .plain none], 0, lou [rq .plain none], lou [rq .plain none], tx 8 0 [], rq .plain none, and4 (by decide +kernel) (.inl rfl)⟩,
   ⟨lin 2 ({ tx 8 0 [] with status := 3 }) [rq .plain none], 0, lou [rq .plain none], lou [rq .plain none], { tx 8 0 [] with status := 3 }, rq .plain none, by decide +kernel⟩,
   ⟨at_ 20000 (lou [rq .plain (some 0)]), 0, 0, rq .plain (some 0), 0, by decide +kernel⟩,
   ⟨at_ 10000000 (lou [rq .plain none]), 0, 0, rq .plain none, by decide +kernel⟩⟩

set_option maxRecDepth 4000 in
theorem wit_LinksTrainAndAnnexesOpen :
    (∃ (c : Chip) (l : Fin 5), c.Serving ∧ c.part.hasLink l.val = true ∧ c.linkSt l.val ≠ 0) ∧
    (∃ (c : Chip) (l : Fin 5), c.Serving ∧ c.part.hasLink l.val = true ∧ c.bit (Reg.linkCtl l.val) 0 = true) ∧
    (∃ (c : Chip) (l : Fin 5) (good112 : BitVec 9) (good224 : BitVec 9) (ver : Nat) (own : Nat) (w112 : Nat), c.part.hasLink l.val = true ∧ c.linkSt l.val = 1 ∧ c.bit (Reg.linkCtl l.val) 0 = true ∧ 16 ≤ (c.link l.val).capCount ∧ ver = min (c.ownOffer l.val) (versionOffered (imN (c.link l.val).caps 4 1) (imN (c.link l.val).caps 5 1)) ∧ ver = 0x10 ∧ own = readyLanes good112.toNat (fun i => bitOf (Store.get zeroNat (c.link l.val).status i) 8) ∧ w112 = min (laneWidth own) (laneWidth (readyLanes (imN (c.link l.val).caps 10 2) fun i => Store.get noBool (c.link l.val).ready i)) ∧ w112 ≠ 0 ∧ imN (c.link l.val).caps 8 1 ≠ c.rdF Reg.node 0 8 ∧ ((List.range 5).any fun m => m != l.val && c.linkUp m) = false) ∧
    (∃ (c : Chip) (l : Fin 5) (good112 : BitVec 9) (good224 : BitVec 9), c.part.hasLink l.val = true ∧ c.linkSt l.val = 1 ∧ c.bit (Reg.linkCtl l.val) 0 = true ∧ (c.link l.val).capCount < 16) ∧
    (∃ (c : Chip) (l : Fin 5), c.usherRuns = true ∧ c.part.hasLink l.val = true ∧ c.bit (Reg.linkCtl l.val) 0 = true ∧ c.linkSt l.val = 4 ∧ (c.link l.val).downAt.toNat + 1000000000 ≤ c.act.toNat) ∧
    (∃ (c : Chip) (l : Fin 5) (f : BitVec 2048) (fs : List (BitVec 2048 × Bool)), (c.link l.val).rxFlits = (f, true) ::fs ∧ bitOf f.toNat 73 = true ∧ field f.toNat 2016 32 = crc32 (leBytes 252 f.toNat) ∧ imN (leBytes 32 (f.toNat / 2 ^ 96)) 0 4 = 0x4D4C4F48) ∧
    (∃ (c : Chip) (l : Fin 5) (d : Chip) (p : List Byte), c.usherRuns = true ∧ c.takeMsg l.val 1 = some (d, p)) ∧
    (∃ (c : Chip) (l : Fin 5) (w : Word) (t : Fin 4) (k : Fin 64) (node : Byte), c.usherRuns = true) ∧
    (∃ (c : Chip) (l : Fin 5) (d : Chip) (p : List Byte), c.usherRuns = true ∧ c.takeMsg l.val 2 = some (d, p)) ∧
    (∃ (c : Chip) (l : Fin 5) (d : Chip) (p : List Byte) (a : Annex), c.usherRuns = true ∧ c.takeMsg l.val 3 = some (d, p) ∧ d.annexOf l.val (BitVec.ofNat 32 (imN p 0 4)) = some a) ∧
    (∃ (c : Chip) (l : Fin 5) (d : Chip) (p : List Byte) (m : Nat), c.usherRuns = true ∧ c.takeMsg l.val 4 = some (d, p) ∧ ((List.range 8).find? fun m => d.loaded m && d.modelId m == imN p 0 4) = some m) ∧
    (∃ (c : Chip) (l : Fin 5) (d : Chip) (p : List Byte), c.usherRuns = true ∧ c.takeMsg l.val 4 = some (d, p) ∧ ((List.range 8).find? fun m => d.loaded m && d.modelId m == imN p 0 4) = none) :=
  ⟨⟨lk id, 0, by unfold Chip.Serving; decide +kernel⟩,
   ⟨up.wr (Reg.linkCtl 0) 1, 0, by unfold Chip.Serving; decide +kernel⟩,
   ⟨((lk fun x => { x with capCount := 16, caps := leBytes 32 (2 ^ 32 + 2 ^ 64 + 0x1FF * 2 ^ 80), status := (List.range 9).map fun i => (i, 0x100), ready := (List.range 9).map fun i => (i, true) }).wr (Reg.linkCtl 0) 1).wr (Reg.linkStat 0) 1, 0, 0x1FF, 0, 0x10, 0x1FF, 8, by decide +kernel⟩,
   ⟨(up.wr (Reg.linkCtl 0) 1).wr (Reg.linkStat 0) 1, 0, 0, 0, by decide +kernel⟩,
   ⟨at_ 1000000000 ((up.wr (Reg.linkCtl 0) 1).wr (Reg.linkStat 0) 4), 0, by decide +kernel⟩,
   ⟨lk fun x => { x with rxFlits := [(capf, true)] }, 0, capf, [], by decide +kernel⟩,
   ⟨msg [(0, 1, [])], 0, msg [], [], by decide +kernel⟩,
   ⟨up, 0, 0, 0, 0, 0, by decide +kernel⟩,
   ⟨msg [(0, 2, [])], 0, msg [], [], by decide +kernel⟩,
   ⟨msg [(0, 3, [1])], 0, msg [], [1], an, by decide +kernel⟩,
   ⟨msg [(0, 4, [0])], 0, msg [], [0], 0, by decide +kernel⟩,
   ⟨msg [(0, 4, [1])], 0, msg [], [1], by decide +kernel⟩⟩

set_option maxRecDepth 4000 in
theorem wit_PowerDeliveryRuns :
    (∃ (c : Chip) (g : GalId) (current : Nat), c.hasTower g.tower.val = true ∧ c.rdF Reg.ilim 0 16 * 100 < current * c.part.towers) ∧
    (∃ (c : Chip) (g : GalId) (current : Nat), c.hasTower g.tower.val = true ∧ Store.get noMark c.sys.power.ilimOn g.tower.val = true ∧ current * c.part.towers * 100 < c.rdF Reg.ilim 0 16 * 100 * 95) ∧
    (∃ (c : Chip) (g : GalId) (v : Fin 16), c.usherRuns = true ∧ c.hasTower g.tower.val = true ∧ v.val ≤ c.rdF (domReg (galKey g)) 0 4) ∧
    (∃ (c : Chip) (g : GalId) (v : Fin 16), c.usherRuns = true ∧ c.hasTower g.tower.val = true ∧ c.mayRaise (galKey g) = true ∧ (c.setVsets [((galKey g), v.val)]).withinIlim = true) ∧
    (∃ (c : Chip) (g : GalId) (cell : Fin 4), c.hasTower g.tower.val = true ∧ c.domSt (galKey g) ≠ 0 ∧ c.cellsFailed (galKey g) = 0) ∧
    (∃ (c : Chip) (g : GalId) (cell : Fin 4), c.hasTower g.tower.val = true ∧ c.domSt (galKey g) ≠ 0 ∧ c.cellsFailed (galKey g) = 1 ∧ c.bit (domReg (galKey g)) (16 + cell.val) = false) ∧
    (∃ (c : Chip) (g : GalId) (n : Nat), c.hasTower g.tower.val = true ∧ n = Store.get zeroNat c.sys.power.corrFail g.tower.val + 1 ∧ n ≤ 48 ∧ c.rdF (corrReg g.tower.val) 12 3 ≠ 0) ∧
    (∃ (c : Chip) (g : GalId) (trips : Byte), c.mayStage (galKey g) = true ∧ c.domSt (galKey g) = 3) ∧
    (∃ (c : Chip) (g : GalId) (trips : Byte) (finished : Bool), c.mayStage (galKey g) = true ∧ c.domSt (galKey g) = 0) ∧
    (∃ (c : Chip) (g : GalId), c.domSt (galKey g) = 3 ∧ (Store.get zeroDWord c.sys.power.staging (galKey g)).toNat ≠ 0 ∧ (Store.get zeroDWord c.sys.power.staging (galKey g)).toNat - 1 + 1000000 ≤ c.now.toNat ∧ Store.get noMark c.sys.power.stageTold (galKey g) = false) ∧
    (∃ (c : Chip) (g : GalId) (recs : List (Half × Half × Half)), c.hasTower g.tower.val = true ∧ recs.length = 130) ∧
    (∃ (c : Chip) (g : GalId) (drop : Word) (share : Word) (model : Nat), c.hasTower g.tower.val = true ∧ 1000 ≤ share.toNat ∧ model = share.toNat * 2 * c.rdF (Reg.bank g.tower.val g.pos.val) 16 16 ∧ model * 5 < drop.toNat * 4000 ∧ drop.toNat * 1000 ≤ share.toNat * 2 * c.rdF (Reg.bank g.tower.val g.pos.val) 0 16 * 3 ∧ (Store.get noCrack c.sys.power.crack (galKey g)).1 = 9 ∧ c.bankClass (galKey g) = 0) ∧
    (∃ (c : Chip) (g : GalId) (ohms : Half) (ratio : Half) (seg : Fin 18), (Store.get zeroDWord c.sys.power.measuring (galKey g)).toNat ≠ 0 ∧ (Store.get zeroDWord c.sys.power.measuring (galKey g)).toNat - 1 + 100000000 ≤ c.now.toNat ∧ bankClassOf (c.rdF (Reg.bank g.tower.val g.pos.val) 0 16) ohms.toNat ratio.toNat ≤ c.bankClass (galKey g) ∧ c.bankClass (galKey g) ≠ 3) :=
  ⟨⟨up, ⟨0, 0⟩, 1000000, by decide +kernel⟩,
   ⟨pw (fun x => { x with ilimOn := [(0, true)] }) up, ⟨0, 0⟩, 0, by decide +kernel⟩,
   ⟨up, ⟨0, 0⟩, 0, by decide +kernel⟩,
   ⟨up, ⟨0, 0⟩, 0, by decide +kernel⟩,
   ⟨up.wr (Reg.dom 0 0) 0x1F06, ⟨0, 0⟩, 0, by decide +kernel⟩,
   ⟨up.wr (Reg.dom 0 0) 0x21F06, ⟨0, 0⟩, 0, by decide +kernel⟩,
   ⟨up.wr (Reg.dom 0 104) 0x1F06, ⟨0, 0⟩, 1, by decide +kernel⟩,
   ⟨(up.wr (Reg.dom 0 104) 0x1F06).wr (Reg.dom 0 0) 0x3F06, ⟨0, 0⟩, 0, by decide +kernel⟩,
   ⟨up.wr (Reg.dom 0 104) 0x1F06, ⟨0, 0⟩, 0, false, by decide +kernel⟩,
   ⟨at_ 1000000 (pw (fun x => { x with staging := [(0, 1)] }) (up.wr (Reg.dom 0 0) 0x3F06)), ⟨0, 0⟩, by decide +kernel⟩,
   ⟨up, ⟨0, 0⟩, List.replicate 130 (0, 0, 0), by decide +kernel⟩,
   ⟨pw (fun x => { x with crack := [(0, (9, 0))] }) (up.wr (Reg.bank 0 0) (10 * 2 ^ 16 + 10)), ⟨0, 0⟩, 30, 1000, 20000, by decide +kernel⟩,
   ⟨at_ 100000000 (pw (fun x => { x with measuring := [(0, 1)] }) (up.wr (Reg.bank 0 0) (10 * 2 ^ 16))), ⟨0, 0⟩, 0, 0, 0, by decide +kernel⟩⟩

set_option maxRecDepth 4000 in
theorem wit_ThermalAndBellowsRun :
    (∃ (c : Chip) (t : Fin 4) (readings : List (Fin 19 × Fin 104 × Fin 4096)) (ok : List (Fin 19 × Fin 104 × Fin 4096)), c.hasTower t.val = true ∧ ok = readings.filter (fun r => c.hasDie r.1.val && decide (864 ≤ r.2.2.val ∧ r.2.2.val ≤ tcode 110)) ∧ ok ≠ []) ∧
    (∃ (c : Chip) (t : Fin 4) (die : Fin 19) (p : Fin 104), c.hasTower t.val = true ∧ c.hasDie die.val = true ∧ c.senSusp t.val die.val p.val = false) ∧
    (∃ (c : Chip) (t : Fin 4) (p : Fin 104) (powers : List Nat), c.hasTower t.val = true) ∧
    (∃ (c : Chip) (t : Fin 4) (uj : Word), c.rdF Reg.bellowsCtl 0 2 = 0) ∧
    (∃ (c : Chip) (t : Fin 4) (uj : Word), c.Serving) ∧
    (∃ (c : Chip) (t : Fin 4) (uj : Nat), c.isSealed = true) ∧
    (∃ (c : Chip) (t : Fin 4) (measured : List (GalId × Nat)) (values : List (Fin 91 × DWord)), c.isSealed = true) ∧
    (∃ (c : Chip) (t : Fin 4), c.sys.power.alarm = true ∧ c.thermStopped = false) :=
  ⟨⟨up, 0, [(0, 0, 900)], [(0, 0, 900)], by decide +kernel⟩,
   ⟨up, 0, 0, 0, by decide +kernel⟩,
   ⟨up, 0, 0, [], by decide +kernel⟩,
   ⟨up, 0, 0, by decide +kernel⟩,
   ⟨up, 0, 0, by unfold Chip.Serving; decide +kernel⟩,
   ⟨up, 0, 0, by decide +kernel⟩,
   ⟨up, 0, [], [], by decide +kernel⟩,
   ⟨pw (fun x => { x with alarm := true }) up, 0, by decide +kernel⟩⟩

set_option maxRecDepth 4000 in
theorem wit_ErrorsAndRetirementsRun :
    (∃ (c : Chip) (t : Fin 4) (n : Nat) (from_ : Nat), c.usherRuns = true ∧ c.hasTower t.val = true ∧ n = c.rdF (Reg.elidx t.val) 0 32 ∧ from_ = max (Store.get zeroNat c.ush.scan t.val) (n - 65536)) ∧
    (∃ (c : Chip) (t : Fin 4), c.usherRuns = true ∧ c.rdF Reg.policy 16 8 ≠ 0 ∧ c.sys.ras.decayAt.toNat + c.rdF Reg.policy 16 8 * 3600000000000 ≤ c.act.toNat) ∧
    (∃ (c : Chip) (t : Fin 4) (v : Word) (x : FrameId), c.inReset = false ∧ c.thermStopped = false ∧ c.stopped = false ∧ c.hasTower t.val = true ∧ c.rdF (Reg.retstat t.val) 0 2 ≠ 1 ∧ x = { tower := t.val, pos := field v.toNat 0 7, layer := field v.toNat 7 4, bank := field v.toNat 11 4, f := field v.toNat 15 2, whole := bitOf v.toNat 17 } ∧ x.pos < 104 ∧ x.layer < c.part.layers ∧ (x.whole = false ∨ x.f = 0) ∧ (c.reservePos t.val).contains x.pos = false) ∧
    (∃ (c : Chip) (t : Fin 4) (d : RetDue) (y : FrameId) (ys : List FrameId) (e : Chip) (n : Nat) (i : Nat), c.usherRuns = true ∧ (c.sys.ras.due.find? fun d => d.frame.tower == t.val) = some d ∧ (c.onRas fun r => { r with due := r.due.erase d }).retCount d.frame ≤ 128 ∧ (c.onRas fun r => { r with due := r.due.erase d }).reserveList t.val d.frame.whole = y ::ys ∧ (c.onRas fun r => { r with due := r.due.erase d }).pick (ys.length + 1) = (n, e) ∧ (e.sys.ras.entries.find? fun q => q.src == d.frame) = none ∧ ((List.range 8192).find? fun i => !e.sys.ras.entries.any fun q => q.src.tower == t.val && q.index == i) = some i) ∧
    (∃ (c : Chip) (t : Fin 4) (index : Fin 8192) (e : RetEntry), c.usherRuns = true ∧ (c.sys.ras.entries.find? fun e => e.src.tower == t.val && e.index == index.val && !e.active) = some e ∧ e.src.whole = false ∧ e.asked = false) ∧
    (∃ (c : Chip) (t : Fin 4) (l : Nat) (f : Chip) (syn : List Nat), c.stopped = false ∧ c.diagStatus = 0 ∧ l = c.rdF Reg.diagaddr 6 34 ∧ c.findWay l = none ∧ f = c.flushQueued (fun q => q == l) ∧ syn = f.lineSyndromes l []) ∧
    (∃ (c : Chip) (t : Fin 4) (l : Nat) (f : Chip), c.stopped = false ∧ c.diagStatus = 0 ∧ l = c.rdF Reg.diagaddr 6 34 ∧ c.findWay l = none ∧ f = c.flushQueued (fun q => q == l) ∧ Store.get noMark f.mem.raw l = true) ∧
    (∃ (c : Chip) (t : Fin 4) (l : Nat) (f : Chip), c.stopped = false ∧ c.diagStatus = 0 ∧ l = c.rdF Reg.diagaddr 6 34 ∧ c.findWay l = none ∧ f = c.flushQueued (fun q => q == l) ∧ Store.get noMark f.mem.raw l = true) ∧
    (∃ (c : Chip) (t : Fin 4) (l : Nat) (f : Chip), c.stopped = false ∧ c.diagStatus = 0 ∧ l = c.rdF Reg.diagaddr 6 34 ∧ c.findWay l = none ∧ f = c.flushQueued (fun q => q == l) ∧ f.rawCount l < 1024) ∧
    (∃ (c : Chip) (t : Fin 4) (v : Fin 104) (set : Fin 10240) (way : Fin 16) (w : CacheWay) (k : Nat), c.stopped = false ∧ k = (vaultKey t.val v.val * 10240 + set.val) * 16 + way.val ∧ c.way k = some w ∧ w.pin = none ∧ w.valid = true ∧ w.dirty = true) ∧
    (∃ (c : Chip) (t : Fin 4) (v : Fin 104) (set : Fin 10240) (way : Fin 16) (w : CacheWay) (k : Nat), c.stopped = false ∧ k = (vaultKey t.val v.val * 10240 + set.val) * 16 + way.val ∧ c.way k = some w ∧ w.valid = true ∧ w.dirty = true) :=
  ⟨⟨up, 0, 0, 0, by decide +kernel⟩,
   ⟨at_ 86400000000000 up, 0, by decide +kernel⟩,
   ⟨up, 0, 0, fr 0, by decide +kernel⟩,
   ⟨rtc, 0, ⟨fr 0, false⟩, (rte.reserveList 0 false).head rte_ne, (rte.reserveList 0 false).tail, (rte.pick ((rte.reserveList 0 false).tail.length + 1)).2, (rte.pick ((rte.reserveList 0 false).tail.length + 1)).1, 0, and3 (by decide +kernel) ⟨head_tail _ _, ⟨rfl, by decide +kernel⟩⟩⟩,
   ⟨{ up with sys := { SysState.reset with ras := { RasState.reset with entries := [⟨0, fr 0, fr 1, false, false⟩] } } }, 0, 0, ⟨0, fr 0, fr 1, false, false⟩, by decide +kernel⟩,
   ⟨dg, 0, 0x18000, _, _, and4 (by decide +kernel) ⟨rfl, rfl⟩⟩,
   ⟨me (fun m => { m with raw := [(0x18000, true)] }) dg, 0, 0x18000, _, and4 (by decide +kernel) ⟨rfl, by decide +kernel⟩⟩,
   ⟨me (fun m => { m with raw := [(0x18000, true)] }) dg, 0, 0x18000, _, and4 (by decide +kernel) ⟨rfl, by decide +kernel⟩⟩,
   ⟨dg, 0, 0x18000, _, and4 (by decide +kernel) ⟨rfl, by decide +kernel⟩⟩,
   ⟨me (fun m => { m with ways := [(0, some ⟨0, true, true, false, none, 0⟩)] }) up, 0, 0, 0, 0, ⟨0, true, true, false, none, 0⟩, 0, by decide +kernel⟩,
   ⟨me (fun m => { m with ways := [(0, some ⟨0, true, true, false, none, 0⟩)] }) up, 0, 0, 0, 0, ⟨0, true, true, false, none, 0⟩, 0, by decide +kernel⟩⟩

set_option maxRecDepth 4000 in
theorem wit_FaultsAreAnswered :
    (∃ (c : Chip) (m : UsherMsg) (k : Nat), c.usherRuns = true ∧ (c.reports.find? fun m => (faultAct m).isSome) = some m ∧ faultAct m = some (.fence k)) ∧
    (∃ (c : Chip) (m : UsherMsg) (p : Nat) (v : Nat), c.usherRuns = true ∧ (c.reports.find? fun m => (faultAct m).isSome) = some m ∧ faultAct m = some (.cluster p) ∧ c.vaultAt (p / 104) (p % 104) = some v ∧ ((c.cluster (vaultKey (p / 104) v)).chanters.any fun e => e.2.job.isSome) = false) ∧
    (∃ (c : Chip) (m : UsherMsg) (k : Nat), c.usherRuns = true ∧ (c.reports.find? fun m => (faultAct m).isSome) = some m ∧ (faultAct m = some (.again k) ∨ faultAct m = some (.stage k)) ∧ c.epochState = 1 ∧ c.planGals.contains k = true ∧ c.fenced k = false ∧ (c.planGals.any fun g => !(c.gal g).hold) = true) ∧
    (∃ (c : Chip) (m : Fin 8) (sid : Nat) (off : Nat) (l : Fin 5) (o : Nat), c.usherRuns = true ∧ o = off / 65536 * 65536 ∧ c.loaded m.val = true ∧ min 65536 (c.sectLeft m.val sid o) ≠ 0 ∧ ((c.model m.val).weights.any fun w => w.1 == sid && c.memPoisoned (w.2.2 + o) (min 65536 (c.sectLeft m.val sid o))) = true ∧ (c.model m.val).reload.contains (sid, o) = false ∧ c.linkUp l.val = true) ∧
    (∃ (c : Chip) (m : Fin 8) (sid : Nat) (off : Nat) (o : Nat), c.usherRuns = true ∧ o = off / 65536 * 65536 ∧ c.loaded m.val = true ∧ min 65536 (c.sectLeft m.val sid o) ≠ 0 ∧ ((c.model m.val).weights.any fun w => w.1 == sid && c.memPoisoned (w.2.2 + o) (min 65536 (c.sectLeft m.val sid o))) = true ∧ (c.model m.val).reload.contains (sid, o) = false) ∧
    (∃ (c : Chip) (t : Fin 4) (answers : Bool) (sl : Selection) (d : Nat) (e : Chip), c.usherRuns = true ∧ c.hasTower t.val = true ∧ c.ush.tdown.contains t.val = false ∧ c.towerBad t.val = true ∧ t.val ≠ 0 ∧ ((c.onUsh fun u => { u with tdown := u.tdown ++ [t.val] }).notice 0x0207 2 t.val (openDetail 0x0207 t.val)).ush.sel = some sl ∧ ((c.onUsh fun u => { u with tdown := u.tdown ++ [t.val] }).notice 0x0207 2 t.val (openDetail 0x0207 t.val)).planLeft sl = some (d, e)) ∧
    (∃ (c : Chip) (answers : Bool) (d : Chip), c.usherRuns = true ∧ c.hasTower 0 = true ∧ c.ush.tdown.contains 0 = false ∧ c.towerBad 0 = true ∧ d = (c.onUsh fun u => { u with tdown := u.tdown ++ [0] }).notice 0x0207 2 0 (openDetail 0x0207 0)) :=
  ⟨⟨rp (.trap 0 true 0 0 0 0 0 0 0) up, .trap 0 true 0 0 0 0 0 0 0, 0, by decide +kernel⟩,
   ⟨rp (.chanterTrap 0 0 true 0 0 0 0 0 0) up, .chanterTrap 0 0 true 0 0 0 0 0 0, 0, 0, by decide +kernel⟩,
   ⟨rp (.queueFault 1 0 2 0) (ep 1 (uk [] fun u => { u with models := [(0, { ModelSlot.empty with image := imgT })] })), .queueFault 1 0 2 0, 1, by decide +kernel⟩,
   ⟨me (fun m => { m with raw := [(0x18000, true)] }) ((uk [] fun u => { u with models := [(0, { ModelSlot.empty with image := img, weights := [(0, 0, 0x600000)] })] }).wr (Reg.linkStat 0) 2), 0, 0, 0, 0, 0, by decide +kernel⟩,
   ⟨me (fun m => { m with raw := [(0x18000, true)] }) ((uk [] fun u => { u with models := [(0, { ModelSlot.empty with image := img, weights := [(0, 0, 0x600000)] })] }).wr (Reg.linkStat 0) 2), 0, 0, 0, 0, by decide +kernel⟩,
   ⟨tfc 4, 1, false, sl, (((tfd 4 1).planLeft sl).get tf_left).1, (((tfd 4 1).planLeft sl).get tf_left).2, and6 (by decide +kernel) (opt_get _ tf_left)⟩,
   ⟨tfc 0, false, tfd 0 0, and4 (by decide +kernel) (rfl)⟩⟩

set_option maxRecDepth 4000 in
theorem wit_BringUpStepsRun :
    (∃ (c : Chip) (f : Fuses) (high : Option (Fin 5)) (unread : List (Fin 4)) (mismatch : List (Fin 4)) (measured : List (GalId × Half × Half × Fin 18)) (g : Fuses) (fs : List StepFail), c.stepMay 1 = true ∧ g = c.fuses.getD f ∧ fs = c.fuseFails g high unread mismatch measured) ∧
    (∃ (c : Chip) (weak : List (Fin 4)), c.stepMay 2 = true ∧ c.bWarm = false ∧ (c.stepBegin 2 []).bWarm = false) ∧
    (∃ (c : Chip) (lanes : List (LanePath × Fin 4608)) (uncal : List (Fin 4 × Fin 104)) (bridges : List (Fin 4)) (codes : List (Fin 4 × Fin 104 × Fin 16 × Byte)) (links : List (Fin 5)) (fs : List StepFail), c.stepMay 3 = true ∧ fs = c.trainFails lanes uncal bridges) ∧
    (∃ (c : Chip) (lines : List TestFault) (badCode : List (Fin 4 × Fin 104)) (rtabA : List Nat) (rtabB : List Nat) (fs : List StepFail), c.stepMay 4 = true ∧ fs = c.selftestFails lines badCode) ∧
    (∃ (c : Chip) (flash : Option (List Byte × List Byte)) (layout : Layout) (chosen : List (Nat × DWord)) (fs : List StepFail), layout.ok c.part = true ∧ c.stepMay 5 = true ∧ fs = c.imageFails flash) ∧
    (∃ (c : Chip) (late : List Receiver) (weak : List GalId), c.stepMay 6 = true) ∧
    (∃ (c : Chip), c.stepMay 7 = true ∧ c.bWarm = false) ∧
    (∃ (c : Chip), c.bState = 1 ∧ c.inReset = false ∧ c.stopped = false ∧ c.stepEnds = some []) ∧
    (∃ (c : Chip) (f : StepFail) (fs : List StepFail), c.bState = 1 ∧ c.inReset = false ∧ c.stopped = false ∧ c.stepEnds = some (f ::fs)) ∧
    (∃ (c : Chip) (n : Fin 8), (c.stepMay n.val = false ∨ c.bWarm = true) ∧ c.inReset = false ∧ c.stopped = false) ∧
    (∃ (c : Chip) (who : Receiver) (k : Nat), c.broadcasting = true ∧ (c.sys.bring.recv.any fun r => r.who == who && !r.closed && !r.fenced) = true ∧ k < chunks (c.sectFor who)) ∧
    (∃ (c : Chip) (who : Receiver) (pass : Bool) (r : RecvState), (c.sys.bring.recv.find? fun r => r.who == who && !r.closed && !r.fenced) = some r ∧ c.broadcasting = true ∧ ((List.range (chunks (c.sectFor who))).all r.held.contains) = false) ∧
    (∃ (c : Chip) (k : Nat) (i : Nat) (pass : Bool) (r : RecvState), (c.sys.bring.recv.find? fun r => r.who == .chanter k i && !r.closed && !r.fenced) = some r ∧ c.broadcasting = true ∧ ((List.range (chunks (c.sectFor (.chanter k i)))).all r.held.contains) = true ∧ (sha384 (Memory.bytes r.data 0 (c.sectFor (.chanter k i)).length) == sha384 (c.sectFor (.chanter k i))) = true) ∧
    (∃ (c : Chip) (open_ : List RecvState), c.broadcasting = true ∧ open_ = c.sys.bring.recv.filter (fun r => !r.closed && !r.fenced) ∧ open_ ≠ [] ∧ (open_.all (·.answered) || decide (c.sys.bring.endAt.toNat + 10000000 ≤ c.now.toNat)) = true) ∧
    (∃ (c : Chip) (g : GalId) (r : RecvState), (c.sys.bring.recv.find? fun r => r.who == .gallery (galKey g) && r.closed && !r.fenced) = some r ∧ c.broadcasting = true ∧ c.hasPassed (galKey g) = false ∧ r.okAt.toNat - 1 + 5000000 ≤ c.now.toNat) :=
  ⟨⟨dn 0 id, fz, none, [], [], [], _, _, ⟨by decide +kernel, ⟨rfl, rfl⟩⟩⟩,
   ⟨dn 0x11 id, [], by decide +kernel⟩,
   ⟨dn 0x12 id, [], [], [], [], [], _, ⟨by decide +kernel, rfl⟩⟩,
   ⟨dn 0x13 id, [], [], [], [], _, ⟨by decide +kernel, rfl⟩⟩,
   ⟨dn 0x14 id, none, lay, [], _, and2 (by decide +kernel) (rfl)⟩,
   ⟨dn 0x15 id, [], [], by decide +kernel⟩,
   ⟨dn 0x16 id, by decide +kernel⟩,
   ⟨dn 0x9 id, by decide +kernel⟩,
   ⟨dn 0x9 fun b => { b with fails := [⟨0, 1, 0, 0⟩] }, ⟨0, 1, 0, 0⟩, [], by decide +kernel⟩,
   ⟨up, 0, by decide +kernel⟩,
   ⟨dn 0xE fun b => { b with recv := [rx (.gallery 0)], image := fw }, .gallery 0, 0, by decide +kernel⟩,
   ⟨dn 0xE fun b => { b with recv := [rx (.gallery 0)], image := fw }, .gallery 0, false, rx (.gallery 0), by decide +kernel⟩,
   ⟨dn 0xE fun b => { b with recv := [rx (.chanter 0 0)] }, 0, 0, false, rx (.chanter 0 0), by decide +kernel⟩,
   ⟨dn 0xE fun b => { b with recv := [rx (.gallery 0)] }, [rx (.gallery 0)], by decide +kernel⟩,
   ⟨at_ 5000000 (dn 0xE fun b => { b with recv := [{ rx (.gallery 0) with closed := true }] }), ⟨0, 0⟩, { rx (.gallery 0) with closed := true }, by decide +kernel⟩⟩

set_option maxRecDepth 4000 in
theorem wit_ResetsRun :
    (∃ (c : Chip), c.inReset = false ∧ c.thermStopped = false ∧ c.sys.bring.everSealed = true) ∧
    (∃ (c : Chip), c.inReset = false ∧ c.thermStopped = false ∧ c.sys.bring.everSealed = true) ∧
    (∃ (c : Chip), c.inReset = false) ∧
    (∃ (c : Chip), c.inReset = false) ∧
    (∃ (c : Chip) (t : Fin 4) (d : Chip), c.inReset = false ∧ c.isSealed = true ∧ c.hasTower t.val = true ∧ t.val ≠ 0 ∧ d = { c with sys := { c.sys with ha := { c.sys.ha with           towerDue := (if c.sys.ha.towerDue.contains t.val then c.sys.ha.towerDue else c.sys.ha.towerDue ++ [t.val]) } } }) ∧
    (∃ (c : Chip), c.inReset = false ∧ c.isSealed = true) ∧
    (∃ (c : Chip), c.sys.pins.warmHeld = true ∧ c.sys.bring.everSealed = true ∧ c.isSealed = false ∧ c.thermStopped = false) ∧
    (∃ (c : Chip), c.isSealed = true) ∧
    (∃ (c : Chip), c.pllLocked = false) ∧
    (∃ (c : Chip) (r : Fin 5), bitOf c.sys.pins.en r.val = true ∧ c.stepIs 2 1 = false) ∧
    (∃ (c : Chip) (r : Fin 5), bitOf c.sys.pins.en r.val = true ∧ c.stepIs 2 1 = true ∧ c.sys.pins.en = 2 ^ (r.val + 1) - 1 ∧ r.val ≠ 4 ∧ bitOf c.sys.pins.pg r.val = false) ∧
    (∃ (c : Chip) (r : Fin 5), bitOf c.sys.pins.pg r.val = true ∧ c.stepIs 2 1 = false) ∧
    (∃ (c : Chip), c.bWarm = true ∧ c.stepMay 7 = true ∧ (c.stepBegin 7 []).keptOk = true) ∧
    (∃ (c : Chip), c.thermStopped = true ∧ c.inReset = false ∧ c.tooHot = false ∧ c.sys.bring.everSealed = true) :=
  ⟨⟨bf up, by decide +kernel⟩,
   ⟨bf up, by decide +kernel⟩,
   ⟨up, by decide +kernel⟩,
   ⟨up, by decide +kernel⟩,
   ⟨up, 1, _, and4 (by decide +kernel) (rfl)⟩,
   ⟨up, by decide +kernel⟩,
   ⟨pins (fun p => { p with warmHeld := true }) (bf Chip.reset), by decide +kernel⟩,
   ⟨up, by decide +kernel⟩,
   ⟨Chip.reset, by decide +kernel⟩,
   ⟨pins (fun p => { p with en := 1 }) up, 0, by decide +kernel⟩,
   ⟨pins (fun p => { p with en := 1 }) (Chip.reset.wr Reg.bringStatus 0xA), 0, by decide +kernel⟩,
   ⟨pins (fun p => { p with pg := 1 }) up, 0, by decide +kernel⟩,
   ⟨{ (uk [(0xf8, 0x54), (0xf9, 0x43), (0xfa, 0x52), (0xfb, 0x57), (0xfc, 0x1), (0x1f8, 0x54), (0x1f9, 0x43), (0x1fa, 0x52), (0x1fb, 0x57), (0x1fc, 0x1), (0x2f8, 0x54), (0x2f9, 0x43), (0x2fa, 0x52), (0x2fb, 0x57), (0x2fc, 0x1), (0x600000, 0x43), (0x600001, 0x4c), (0x600002, 0x52), (0x600003, 0x4b)] fun u => { u with layout := { u.layout with header := 0x600000 } }).wr Reg.bringStatus 0x56 with latch := [] }, by decide +kernel⟩,
   ⟨bf (up.wr Reg.thermStat 1), by decide +kernel⟩⟩

set_option maxRecDepth 4000 in
theorem wit_PartitionsAndTakeoverRun :
    (∃ (c : Chip) (t : Fin 4) (host : Bool) (v : DWord), c.inReset = false ∧ c.thermStopped = false ∧ c.hasTower t.val = true ∧ c.stopped = false ∧ (host = false ∨ c.isSealed = false)) ∧
    (∃ (c : Chip) (t : Fin 4), c.hasTower t.val = true ∧ c.stopped = false ∧ c.thermStopped = false ∧ c.inReset = false) ∧
    (∃ (c : Chip) (t : Fin 4), c.usherRuns = true ∧ c.sys.ha.towerDue.contains t.val = true ∧ (c.epochState = 3 ∨ c.epochState = 0)) ∧
    (∃ (c : Chip), c.usherRuns = true ∧ c.bit Reg.bringStatus 25 = true) ∧
    (∃ (c : Chip) (d : Chip), c.usherRuns = true ∧ c.sys.ha.takeover = true ∧ c.bit Reg.bringStatus 25 = true ∧ c.chc = [] ∧ d = c.gals.foldl (fun c e => Chip.holdGal c e.1) c ∧ d.epochState = 1 ∧ d.nextPlan.isSome = true ∧ d.chc = []) ∧
    (∃ (c : Chip) (d : Chip), c.usherRuns = true ∧ c.sys.ha.takeover = true ∧ c.bit Reg.bringStatus 25 = true ∧ d = c.gals.foldl (fun c e => Chip.holdGal c e.1) c ∧ d.chc = [] ∧ d.epochState = 0) :=
  ⟨⟨up, 0, false, 0, by decide +kernel⟩,
   ⟨up, 0, by decide +kernel⟩,
   ⟨{ up with sys := { SysState.reset with ha := { HaState.reset with towerDue := [1] } } }, 1, by decide +kernel⟩,
   ⟨up.wr Reg.bringStatus 0x2000020, by decide +kernel⟩,
   ⟨sb 1, sb 1, by decide +kernel⟩,
   ⟨sb 0, sb 0, by decide +kernel⟩⟩

set_option maxRecDepth 4000 in
theorem wit_WhistleStopsAndResumes :
    (∃ (c : Chip), c.inReset = false ∧ c.stopped = false ∧ c.rdF Reg.bringStatus 3 2 ≠ 1) ∧
    (∃ (c : Chip), c.inReset = false ∧ c.stopped = false ∧ c.rdF Reg.bringStatus 3 2 ≠ 1) ∧
    (∃ (c : Chip), c.inReset = false ∧ c.sys.pins.trst = true ∧ c.stopped = true) ∧
    (∃ (c : Chip) (d : Chip), c.inReset = false ∧ c.sys.pins.trst = true ∧ c.stopped = false ∧ c.rdF Reg.bringStatus 3 2 ≠ 1 ∧ d = c.tap 0x20) ∧
    (∃ (c : Chip) (mx : List MxStand), c.dbg.whistleReq ≠ 0 ∧ c.stopped = false ∧ c.inReset = false ∧ c.thermStopped = false ∧ c.rdF Reg.bringStatus 3 2 ≠ 1) ∧
    (∃ (c : Chip), c.stopped = true ∧ c.bit Reg.wstat 6 = false) ∧
    (∃ (c : Chip), c.inReset = false ∧ c.sys.pins.trst = true) ∧
    (∃ (c : Chip) (i : Fin 64) (n : Nat), c.usherRuns = true ∧ c.stepOf (c.watchGals i.val) = some n ∧ c.watchFires i.val n = true ∧ c.dbg.watched.contains i.val = false ∧ c.epochState = 1 ∧ ((c.watchGals i.val).all fun k => (c.gal k).standsHeld) = false) ∧
    (∃ (c : Chip) (i : Fin 64) (n : Nat) (d : Chip) (c1 : Chip) (data : List Byte) (ok : Bool), c.usherRuns = true ∧ c.stepOf (c.watchGals i.val) = some n ∧ c.watchFires i.val n = true ∧ c.dbg.watched.contains i.val = false ∧ (c.epochState = 1 ∨ c.epochState = 2) ∧ ((c.watchGals i.val).all fun k => (c.gal k).standsHeld) = true ∧ c.watchData i.val = (c1, data) ∧ c1.dump i.val n data = (d, ok)) ∧
    (∃ (c : Chip) (code : Half) (t : Fin 4) (source : Fin 3) (unit : Word) (detail : DWord), c.usherRuns = true) ∧
    (∃ (c : Chip), c.inReset = false ∧ c.bit Reg.anxctl 1 = true) ∧
    (∃ (c : Chip) (g : GalId), c.inReset = false ∧ c.thermStopped = false ∧ c.hasTower g.tower.val = true ∧ c.stopped = false ∧ (c.gal (galKey g)).dom = .up ∧ c.fenced (galKey g) = false) :=
  ⟨⟨up, by decide +kernel⟩,
   ⟨up, by decide +kernel⟩,
   ⟨jt (up.wr Reg.wstat 1), by decide +kernel⟩,
   ⟨jt up, _, and4 (by decide +kernel) (rfl)⟩,
   ⟨{ up with dbg := { DebugState.reset with whistleReq := 1 } }, [], by decide +kernel⟩,
   ⟨up.wr Reg.wstat 1, by decide +kernel⟩,
   ⟨jt up, by decide +kernel⟩,
   ⟨(ep 1 (((uk [] id).wr (Reg.tw 0 0) 0x10009).setGal 1 { Gallery.reset with dom := .up, stepped := true, hold := false, waiting := none })), 0, 0, by decide +kernel⟩,
   ⟨wt, 0, 0, ((wt.watchData 0).1.dump 0 0 (wt.watchData 0).2).1, (wt.watchData 0).1, (wt.watchData 0).2, ((wt.watchData 0).1.dump 0 0 (wt.watchData 0).2).2, and6 (by decide +kernel) ⟨Prod.mk.eta.symm, Prod.mk.eta.symm⟩⟩,
   ⟨up, 0, 0, 0, 0, 0, by decide +kernel⟩,
   ⟨up.wr Reg.anxctl 2, by decide +kernel⟩,
   ⟨gup id, ⟨0, 0⟩, by decide +kernel⟩⟩

set_option maxRecDepth 4000 in
theorem wit_ScanAndModulePortRun :
    (∃ (c : Chip) (v : Word) (d : Chip), c.inReset = false ∧ c.sys.pins.trst = true ∧ d = c.tap 0x22) ∧
    (∃ (c : Chip) (v : DWord) (d : Chip), c.inReset = false ∧ c.sys.pins.trst = true ∧ v.toNat % 8 = 0 ∧ d = c.tap 0x23) ∧
    (∃ (c : Chip) (d : Chip) (st : Nat) (v : Nat), c.inReset = false ∧ c.sys.pins.trst = true ∧ (c.tap 0x24).scanRead c.dbg.jtagSel.toNat c.dbg.jtagOff.toNat 2 = (d, st, v)) ∧
    (∃ (c : Chip) (v : DWord) (d : Chip) (st : Nat), c.inReset = false ∧ c.sys.pins.trst = true ∧ (c.tap 0x25).scanWrite c.dbg.jtagSel.toNat c.dbg.jtagOff.toNat 2 v.toNat = (d, st)) ∧
    (∃ (c : Chip) (d : Chip), c.inReset = false ∧ c.sys.pins.trst = true ∧ d = c.tap 0x26) ∧
    (∃ (c : Chip), c.inReset = false ∧ c.sys.pins.trst = false) ∧
    (∃ (c : Chip) (w : Fin 65536) (wide : Bool) (v : DWord) (d : Chip) (st : Nat), c.inReset = false ∧ w.val % (if wide then 8 else 4) = 0 ∧ c.scanWrite (c.rd Reg.scansel) (c.rdF Reg.scanoff 0 48 + w.val) (if wide then 2 else 1) v.toNat = (d, st)) ∧
    (∃ (c : Chip) (w : Fin 65536) (wide : Bool) (d : Chip) (st : Nat) (v : Nat), c.inReset = false ∧ w.val % (if wide then 8 else 4) = 0 ∧ c.scanRead (c.rd Reg.scansel) (c.rdF Reg.scanoff 0 48 + w.val) (if wide then 2 else 1) = (d, st, v)) ∧
    (∃ (c : Chip) (w : Fin 65536) (wide : Bool), c.inReset = false ∧ w.val % (if wide then 8 else 4) ≠ 0) ∧
    (∃ (c : Chip), c.inReset = false ∧ c.dbg.scanDma = false) ∧
    (∃ (c : Chip) (d : Chip) (e : Chip) (st : Nat), c.dbg.scanDma = true ∧ c.inReset = false ∧ d = { c with dbg := { c.dbg with scanDma := false } } ∧ d.scanCopy (d.rd Reg.scansel) (d.rd Reg.dmalen / 8) (d.rdF Reg.scanoff 0 48) (d.rd Reg.dmaaddr) = (e, st)) ∧
    (∃ (c : Chip) (off : Word), c.inReset = false) ∧
    (∃ (c : Chip) (off : Word) (wide : Bool) (v : DWord), c.inReset = false) ∧
    (∃ (c : Chip) (r : RegDef), c.inReset = false ∧ regAt c.sys.pins.pointer.toNat = some r ∧ i3cReads c.sys.pins.pointer.toNat = true) ∧
    (∃ (c : Chip), c.sys.pins.dynamic.isSome = true) :=
  ⟨⟨jt up, 0, _, and2 (by decide +kernel) (rfl)⟩,
   ⟨jt up, 0, _, and3 (by decide +kernel) (rfl)⟩,
   ⟨jt up, _, _, _, and2 (by decide +kernel) (rfl)⟩,
   ⟨jt up, 0, _, _, and2 (by decide +kernel) (rfl)⟩,
   ⟨jt up, _, and2 (by decide +kernel) (rfl)⟩,
   ⟨up, by decide +kernel⟩,
   ⟨up, 0, false, 0, _, _, and2 (by decide +kernel) (rfl)⟩,
   ⟨up, 0, false, _, _, _, and2 (by decide +kernel) (rfl)⟩,
   ⟨up, 1, false, by decide +kernel⟩,
   ⟨up, by decide +kernel⟩,
   ⟨dmc, dmd, _, _, and2 (by decide +kernel) ⟨rfl, rfl⟩⟩,
   ⟨up, 0, by decide +kernel⟩,
   ⟨up, 0, false, 0, by decide +kernel⟩,
   ⟨up, _, ⟨by decide +kernel, ⟨rfl, by decide +kernel⟩⟩⟩,
   ⟨pins (fun p => { p with dynamic := some 1 }) up, by decide +kernel⟩⟩

/-! ### Well-formed commands: one refused by each check -/

theorem smoke_read : (Instr.reg64LowHalfRead ⟨0, .bar0⟩ 4 true).wf = false ∧ (Instr.reg64LowHalfRead ⟨0, .bar0⟩ 4 false).wf = true := by decide
theorem smoke_write : (Instr.registerWrite ⟨⟨0, .bar0⟩, 6⟩ false 0).wf = false ∧ (Instr.registerWrite ⟨⟨0, .bar0⟩, 8⟩ true 0).wf = true := by decide
theorem smoke_misaligned : (Instr.bar0MisalignedAccess 8 8 false).wf = false ∧ (Instr.bar0MisalignedAccess 4 8 false).wf = true := by decide
theorem smoke_scanwin : (Instr.scanwinAccess 4 true none).wf = false := by decide
theorem smoke_mailbox : (Instr.usherMailboxWrite gz 0 (List.replicate 2049 0)).wf = false := by decide +kernel
theorem smoke_alignment : (Instr.alignmentBlockReceive 0 (List.replicate 10 ⟨none, 0, 0⟩)).wf = false := by decide
theorem smoke_lane : (Instr.laneFailRetrain (.vaultToken 0 0) 4607).wf = false ∧ (Instr.bringStepTrain [(.vaultToken 0 0, 4607)] [] [] [] []).wf = false := by decide
theorem smoke_layers : (Instr.layerEstimate 0 0 (List.replicate 20 0)).wf = false := by decide
theorem smoke_current : (Instr.currentSample 0 (List.replicate 131 (0, 0, 0))).wf = false := by decide +kernel
theorem smoke_sensors : (Instr.sensorRead 0 [(0, 5, 900), (0, 5, 901)]).wf = false ∧ (Instr.sensorRead 0 [(0, 5, 900), (1, 5, 901)]).wf = true := by decide
theorem smoke_bellows : (Instr.bellowsWindowEnd [(gz, 1), (gz, 2)] []).wf = false ∧ (Instr.bellowsWindowEnd [] [(0, 1), (0, 2)]).wf = false := by decide

/-! ### The spec's worked examples -/

/-- Example 9-1: module address 0x9A_4C3F_2E40, line number 0x9A_4C3F_2E40 / 64. -/
theorem test_address_example : let l := 0x9A4C3F2E40 / 64
    lineTower l = 2 ∧ lineVault l = 17 ∧ lineNum l = 18383521 ∧ Chip.reset.linePlace l = (8, 10, 4488) ∧ lineNum l % 10240 = 2721 := by decide +kernel
/-- Example 8-1: with out row 5 in column 3 and 12 elsewhere, the way from GALLERY[30] to GALLERY[40] and to GALLERY[54], and the router that holds the copies
of GALLERY[52]. -/
theorem test_multicast_example : let out := fun col : Nat => if col = 3 then 5 else 12
    gridPath out false (2, 6) (3, 4) = [((2, 6), .ne), ((3, 7), .s), ((3, 6), .s2)] ∧
    gridPath out false (2, 6) (4, 6) = [((2, 6), .ne), ((3, 7), .se)] ∧
    forkOf (2, 6) ([28, 29, 31, 40, 41, 42, 43, 52, 53, 54, 55].map gridOf) (4, 4) = some (4, 5) := by decide +kernel
/-- Example 20-1: three registers. -/
theorem test_register_example : Reg.chcCtl 3 17 + 0x48 = 0x01CA1148 ∧ Reg.cqCfg 3 = 0x00203038 ∧ towerOf 0x01939020 = some 2 ∧
    Chip.reset.pageOf 0x01939020 = some (some (Chip.reset.logKey 2 57), 0x20) := by decide +kernel
/-- Example 5-1: the block's scale code and RNE codes, and what two formats read back. The other elements of the block are zero. -/
theorem test_block_example : Fmt.convertBlock .mxE2m1 (fun _ => .nearestEven) false false 0 [0x40533333, 0xBF99999A, 0x3EBD70A4, 0x3E000000] = (0x7E, [7, 0xC, 1, 0]) ∧
    Fmt.convertMag .mxE2m1 (.stochastic 0x9A3C) false false false 1 4 = 1 ∧
    Fmt.toFp32 .mxE2m1 false 0x7E 7 = 0x40400000#32 ∧ Fmt.toFp32 .mxE2m1 false 0x7E 0xC = 0xBF800000#32 ∧ Fmt.toFp32 .mxE2m1 false 0x7E 1 = 0x3E800000#32 := by decide +kernel
/-- What holds after a step or a command that goes on. -/
def after (r : Host.Outcome State Fault Refusal) (f : State → Bool) : Bool := match r with | .next s => f s | _ => false
/-- R7: the low half of TIME latches the high half, and the high half read answers from the latch although time has passed the carry. -/
theorem test_time_latch : after (step ⟨[.reg64LowHalfRead ⟨1, .bar0⟩ (BitVec.ofNat 26 Reg.time) false, .reg64LowHalfRead ⟨1, .bar0⟩ (BitVec.ofNat 26 (Reg.time + 4)) false],
      { Chip.reset with pllLocked := true, now := 0xFFFFFFFF }⟩) (fun s => s.chip.host.bar0Out == some 0xFFFFFFFF#64 &&
    after (step { s with chip := { s.chip with now := 0x100000000 } }) fun t => t.chip.host.bar0Out == some 0#64 && t.pending == []) = true := by decide +kernel
/-- R59: a scalar addi x1, x0, -1: x1 takes the value and the pc moves by 4. -/
theorem test_addi : after (exec (.scalarInstruction ⟨gz, []⟩) ⟨[], gi 0xFFF00093⟩) (fun s => (s.chip.gal 0).hart.get 1 == 0xFFFFFFFF#32 && (s.chip.gal 0).hart.pc == 4#32) = true := by
  decide +kernel
/-- R90, R91: an environment call traps with cause 11, saves its own address and sets the trap state; the handler is at mtvec. -/
theorem test_ecall : after (exec (.scalarInstruction ⟨gz, []⟩) ⟨[], gup fun g => { g with imem := [(0, 0x73)], hart := { Hart.reset with mtvec := 0x100 } }⟩)
    (fun s => (s.chip.gal 0).hart.mcause == 11#32 && (s.chip.gal 0).hart.mepc == 0#32 && (s.chip.gal 0).hart.pc == 0x100#32 && (s.chip.gal 0).tact) = true := by decide +kernel
/-- R144, R152: VADD of V0 and V1 into V2, one lane: 1.5 + 2.25 = 3.75. -/
theorem test_vadd_lane : fAdd 0x3FC00000 0x40100000 = 0x40700000#32 := by decide +kernel
/-- R152 to R154: adding numbers of opposite sign that cancel gives +0, and the maximum of -0 and +0 is +0. -/
theorem test_zero_signs : fAdd 0x3F800000 0xBF800000 = 0#32 ∧ fMax 0x80000000 0 = 0#32 ∧ fMin 0x80000000 0 = 0x80000000#32 := by decide +kernel
/-- The table gives no encoding, so no word spells a command and the front of the queue stays as it was. -/
theorem test_no_words : decodeTableWord 32 0x13 = none ∧ State.withFetchWord State.reset 32 0x13 = State.reset := by decide +kernel

end Sys2Proof.Tests
end

section
namespace Sys2Proof.Laws
open Sys2Proof.Machine

theorem testBit_field (x lo len i : Nat) : (field x lo len).testBit i = (decide (i < len) && x.testBit (lo + i)) := by
  rw [field, Nat.testBit_mod_two_pow, Nat.testBit_div_two_pow, Nat.add_comm i lo]

theorem field_lt (x lo len : Nat) : field x lo len < 2 ^ len := Nat.mod_lt _ (Nat.two_pow_pos len)

theorem bitOf_eq_testBit (x i : Nat) : bitOf x i = x.testBit i := by
  rw [bitOf, field, pow_one, Nat.testBit_eq_decide_div_mod_eq]
  exact beq_eq_decide ..

/-- A number is its bits below a field, the field, and its bits above. -/
theorem setField_eq (x lo len v : Nat) :
    setField x lo len v = 2 ^ lo * (2 ^ len * (x / 2 ^ lo / 2 ^ len) + v % 2 ^ len) + x % 2 ^ lo := by
  have hx : 2 ^ lo * (x / 2 ^ lo) + x % 2 ^ lo = x := Nat.div_add_mod ..
  have hq : 2 ^ len * (x / 2 ^ lo / 2 ^ len) + field x lo len = x / 2 ^ lo := Nat.div_add_mod ..
  rw [setField]
  generalize field x lo len = f at *
  generalize x / 2 ^ lo / 2 ^ len = q at *
  rw [← hq, Nat.mul_add] at hx
  rw [Nat.mul_add, Nat.mul_comm f, Nat.mul_comm (v % _)]
  omega

/-- Setting a field sets its bits and no other. -/
theorem testBit_setField (x lo len v i : Nat) :
    (setField x lo len v).testBit i = if lo ≤ i ∧ i < lo + len then v.testBit (i - lo) else x.testBit i := by
  rw [setField_eq, Nat.testBit_two_pow_mul_add _ (Nat.mod_lt _ (Nat.two_pow_pos lo))]
  by_cases hlo : i < lo
  · rw [if_pos hlo, if_neg (by omega), Nat.testBit_mod_two_pow, decide_eq_true hlo, Bool.true_and]
  · rw [if_neg hlo, Nat.testBit_two_pow_mul_add _ (Nat.mod_lt _ (Nat.two_pow_pos len))]
    by_cases hi : i - lo < len
    · rw [if_pos hi, if_pos (by omega), Nat.testBit_mod_two_pow, decide_eq_true hi, Bool.true_and]
    · rw [if_neg hi, if_neg (by omega), Nat.testBit_div_two_pow, Nat.testBit_div_two_pow]
      congr 1; omega

theorem field_setField_same (x lo len v : Nat) : field (setField x lo len v) lo len = v % 2 ^ len := by
  refine Nat.eq_of_testBit_eq fun i => ?_
  rw [testBit_field, testBit_setField, Nat.testBit_mod_two_pow]
  by_cases hi : i < len
  · rw [if_pos (by omega), Nat.add_sub_cancel_left]
  · simp [hi]

/-- Setting a field leaves every field that shares no bit with it. -/
theorem field_setField_disjoint (x v : Nat) {lo len lo' len' : Nat} (h : lo + len ≤ lo' ∨ lo' + len' ≤ lo) :
    field (setField x lo len v) lo' len' = field x lo' len' := by
  refine Nat.eq_of_testBit_eq fun i => ?_
  rw [testBit_field, testBit_field, testBit_setField]
  by_cases hi : i < len'
  · rw [if_neg (by omega)]
  · simp [hi]

/-! ### The register tables -/

/-- Two fields share no bit. -/
abbrev Apart (f h : RegField) : Prop := f.lo + f.len ≤ h.lo ∨ h.lo + h.len ≤ f.lo

/-- A field is at least one bit long, lies inside a width, and can hold its legal range. -/
abbrev Fits (w : Nat) (f : RegField) : Prop := 0 < f.len ∧ f.lo + f.len ≤ w ∧ f.min ≤ f.max ∧ f.max < 2 ^ f.len

/-- What the map promises of a register: its width, and fields that fit it and share no bit. -/
def Neat (d : RegDef) : Prop := (d.width = 32 ∨ d.width = 64) ∧ (∀ f ∈ d.fields, Fits d.width f) ∧ d.fields.Pairwise Apart

/-- The test of `Neat`, which computes. -/
def neat (d : RegDef) : Bool := (d.width == 32 || d.width == 64) && d.fields.all (Fits d.width ·) && decide (d.fields.Pairwise Apart)

theorem neat_iff (d : RegDef) : neat d = true ↔ Neat d := by
  simp [neat, Neat, and_assoc]

/-- What a table may answer at offset o: no register, or a neat one whose offset is a multiple of its size. -/
def Neatly (o : Nat) (r : Option RegDef) : Prop := ∀ d, r = some d → Neat d ∧ o % (d.width / 8) = 0

/-- A row of a table, or the end of one. -/
theorem neatly_row {o : Nat} {r : Option RegDef} (hr : r.all neat = true) (ho : o % (r.elim 1 (·.width / 8)) = 0) : Neatly o r := by
  rintro d rfl; exact ⟨(neat_iff d).mp hr, ho⟩

theorem neatly_ite {o : Nat} {p : Prop} [Decidable p] {a b : Option RegDef} (ha : p → Neatly o a) (hb : ¬ p → Neatly o b) :
    Neatly o (if p then a else b) := by
  split
  · exact ha ‹p›
  · exact hb ‹¬ p›

/-- A block whose base is a multiple of 8 keeps the alignment of its offsets. -/
theorem Neatly.rebase {o : Nat} {r : Option RegDef} (h : Neatly o r) {n : Nat} (hn : n % 8 = o % 8) : Neatly n r := by
  intro d hd
  obtain ⟨hneat, ho⟩ := h d hd
  refine ⟨hneat, ?_⟩
  rcases hneat.1 with hw | hw <;> rw [hw] at ho ⊢ <;> omega

theorem regMod_neatly (o : Nat) : Neatly o (regMod o) := by
  unfold regMod
  repeat' refine neatly_ite (fun _ => ?_) (fun _ => ?_)
  all_goals exact neatly_row rfl (by simp only [roReg, Option.elim]; omega)

theorem regBring_neatly (o : Nat) : Neatly o (regBring o) := by
  unfold regBring
  repeat' refine neatly_ite (fun _ => ?_) (fun _ => ?_)
  all_goals exact neatly_row rfl (by simp only [roReg, Option.elim]; omega)

theorem regHif_neatly (o : Nat) : Neatly o (regHif o) := by
  unfold regHif
  repeat' refine neatly_ite (fun _ => ?_) (fun _ => ?_)
  all_goals exact neatly_row rfl (by simp only [roReg, Option.elim]; omega)

theorem regPower_neatly (o : Nat) : Neatly o (regPower o) := by
  unfold regPower
  repeat' refine neatly_ite (fun _ => ?_) (fun _ => ?_)
  all_goals exact neatly_row rfl (by simp only [roReg, Option.elim]; omega)

theorem regTherm_neatly (o : Nat) : Neatly o (regTherm o) := by
  unfold regTherm
  repeat' refine neatly_ite (fun _ => ?_) (fun _ => ?_)
  all_goals exact neatly_row rfl (by simp only [Option.elim]; omega)

theorem regRas_neatly (o : Nat) : Neatly o (regRas o) := by
  unfold regRas
  repeat' refine neatly_ite (fun _ => ?_) (fun _ => ?_)
  all_goals exact neatly_row rfl (by simp only [roReg, Option.elim]; omega)

theorem regDebug_neatly (o : Nat) : Neatly o (regDebug o) := by
  unfold regDebug
  repeat' first | refine neatly_ite (fun _ => ?_) (fun _ => ?_) | split
  all_goals exact neatly_row rfl (by simp only [roReg, Option.elim]; omega)

theorem regHolmund_neatly (o : Nat) : Neatly o (regHolmund o) := by
  unfold regHolmund
  repeat' first | refine neatly_ite (fun _ => ?_) (fun _ => ?_) | split
  all_goals exact neatly_row rfl (by simp only [roReg, Option.elim]; omega)

theorem regTower_neatly (o : Nat) : Neatly o (regTower o) := by
  unfold regTower
  repeat' first | refine neatly_ite (fun _ => ?_) (fun _ => ?_) | split
  all_goals exact neatly_row rfl (by simp only [roReg, Option.elim]; omega)

theorem regGallery_neatly (o : Nat) : Neatly o (regGallery o) := by
  unfold regGallery
  repeat' refine neatly_ite (fun _ => ?_) (fun _ => ?_)
  all_goals exact neatly_row rfl (by simp only [roReg, Option.elim]; omega)

theorem regAt_neatly (off : Nat) : Neatly off (regAt off) := by
  unfold regAt
  refine neatly_ite (fun _ => regMod_neatly off) fun _ => ?_
  refine neatly_ite (fun _ => (regBring_neatly _).rebase (by omega)) fun _ => ?_
  refine neatly_ite (fun _ => (regHif_neatly _).rebase (by omega)) fun _ => ?_
  refine neatly_ite (fun _ => (regPower_neatly _).rebase (by omega)) fun _ => ?_
  refine neatly_ite (fun _ => (regTherm_neatly _).rebase (by omega)) fun _ => ?_
  refine neatly_ite (fun _ => (regRas_neatly _).rebase (by omega)) fun _ => ?_
  refine neatly_ite (fun _ => (regDebug_neatly _).rebase (by omega)) fun _ => ?_
  refine neatly_ite (fun _ => (regHolmund_neatly _).rebase (by omega)) fun _ => ?_
  refine neatly_ite (fun _ => neatly_row rfl (by simp only [Option.elim]; omega)) fun _ => ?_
  refine neatly_ite (fun _ => ?_) fun _ => neatly_row rfl (by simp only [Option.elim]; omega)
  refine neatly_ite (fun _ => (regTower_neatly _).rebase (by omega)) fun _ => ?_
  refine neatly_ite (fun _ => (regGallery_neatly _).rebase (by omega)) fun _ => ?_
  exact neatly_ite (fun _ => (regGallery_neatly _).rebase (by omega)) fun _ => neatly_row rfl (by simp only [Option.elim]; omega)

/-- The fields of a register of the map share no bit. -/
theorem regAt_apart {off : Nat} {d : RegDef} (h : regAt off = some d) : d.fields.Pairwise Apart := (regAt_neatly off d h).1.2.2

/-! ### Writing and reading by fields -/

/-- A step of a fold over fields: at field f it touches no field apart from f, and what it leaves in f depends on what f held alone. -/
structure FieldStep (op : Nat → RegField → Nat) : Prop where
  frame : ∀ x f h, Apart f h → field (op x f) h.lo h.len = field x h.lo h.len
  cur : ∀ x y f, field x f.lo f.len = field y f.lo f.len → field (op x f) f.lo f.len = field (op y f) f.lo f.len

theorem Apart.symm {f h : RegField} (a : Apart f h) : Apart h f := Or.symm a

/-- A fold leaves a field apart from every field of its list. -/
theorem FieldStep.foldl_frame {op : Nat → RegField → Nat} (hop : FieldStep op) {h : RegField} {l : List RegField} (hl : ∀ f ∈ l, Apart f h)
    (x : Nat) : field (l.foldl op x) h.lo h.len = field x h.lo h.len := by
  induction l generalizing x with
  | nil => rfl
  | cons f l ih =>
    rw [List.foldl_cons, ih (fun g hg => hl g (List.mem_cons_of_mem _ hg)), hop.frame x f h (hl f List.mem_cons_self)]

/-- A field of the list ends as its own step leaves it. -/
theorem FieldStep.foldl_mem {op : Nat → RegField → Nat} (hop : FieldStep op) {f : RegField} {l : List RegField} (hl : l.Pairwise Apart)
    (hf : f ∈ l) (x : Nat) : field (l.foldl op x) f.lo f.len = field (op x f) f.lo f.len := by
  induction l generalizing x with
  | nil => cases hf
  | cons g l ih =>
    obtain ⟨hg, hl⟩ := List.pairwise_cons.mp hl
    rw [List.foldl_cons]
    rcases List.mem_cons.mp hf with rfl | hf
    · exact hop.foldl_frame (fun h hh => (hg h hh).symm) _
    · rw [ih hl hf, hop.cur _ x f (hop.frame x g f (hg f hf))]

/-- The step of a write: a field is set to a value that depends on what it held, or left. -/
theorem fieldWrite_eq (off : Nat) (isSealed : Bool) (v mask x : Nat) (f : RegField) :
    let part := field mask f.lo f.len
    let cur := field x f.lo f.len
    let put := (field v f.lo f.len &&& part) ||| (cur &&& (2 ^ f.len - 1 - part))
    field (fieldWrite off isSealed v mask x f) f.lo f.len =
      match f.acc with
      | .rw => if part ≠ 0 ∧ fieldLegal off f put = true then put else cur
      | .rwl => if isSealed = false ∧ part ≠ 0 ∧ fieldLegal off f put = true then put else cur
      | .w1c => if field v f.lo f.len &&& part ≠ 0 then 0 else cur
      | _ => cur := by
  intro part cur put
  have hput : put % 2 ^ f.len = put :=
    Nat.mod_eq_of_lt (Nat.or_lt_two_pow (Nat.and_lt_two_pow _ (field_lt ..)) (Nat.lt_of_le_of_lt Nat.and_le_left (field_lt ..)))
  unfold fieldWrite
  cases f.acc <;> dsimp only
  case rw => rw [apply_ite (field · f.lo f.len), field_setField_same, hput]
  case rwl => rw [apply_ite (field · f.lo f.len), field_setField_same, hput]; simp [and_assoc, part, put, cur]
  case w1c => rw [apply_ite (field · f.lo f.len), field_setField_same, Nat.zero_mod]

theorem fieldWrite_frame (off : Nat) (isSealed : Bool) (v mask x : Nat) {f h : RegField} (a : Apart f h) :
    field (fieldWrite off isSealed v mask x f) h.lo h.len = field x h.lo h.len := by
  unfold fieldWrite
  dsimp only
  split
  case h_1 | h_2 | h_3 => split <;> [exact field_setField_disjoint _ _ a; rfl]
  all_goals rfl

theorem fieldWrite_step (off : Nat) (isSealed : Bool) (v mask : Nat) : FieldStep (fieldWrite off isSealed v mask) where
  frame x _ _ a := fieldWrite_frame off isSealed v mask x a
  cur x y f e := by rw [fieldWrite_eq, fieldWrite_eq, e]

/-- What a read shows of one field, over what it has gathered. -/
def showField (v acc : Nat) (f : RegField) : Nat := if f.acc = .wo then acc else setField acc f.lo f.len (field v f.lo f.len)

theorem regRead_eq (l : List RegField) (v : Nat) : regRead l v = l.foldl (showField v) 0 := by
  unfold regRead
  congr 1
  funext acc f
  unfold showField
  cases f.acc <;> rfl

theorem showField_same (v x : Nat) (f : RegField) :
    field (showField v x f) f.lo f.len = if f.acc = .wo then field x f.lo f.len else field v f.lo f.len := by
  rw [showField, apply_ite (field · f.lo f.len), field_setField_same, Nat.mod_eq_of_lt (field_lt ..)]

theorem showField_frame (v x : Nat) {f h : RegField} (a : Apart f h) : field (showField v x f) h.lo h.len = field x h.lo h.len := by
  unfold showField
  split
  · rfl
  · exact field_setField_disjoint _ _ a

theorem showField_step (v : Nat) : FieldStep (showField v) where
  frame x _ _ a := showField_frame v x a
  cur x y f e := by rw [showField_same, showField_same, e]

/-- The whole register as one field reads as it is. -/
theorem regRead_whole (w v : Nat) : regRead (roReg w 0).fields v = v % 2 ^ w := by
  show setField 0 0 w (field v 0 w) = _
  simp [setField, field]

end Sys2Proof.Laws

namespace Sys2Proof.Proofs
open Sys2Proof.Machine Sys2Proof.Laws

/-- Settles O7: every row of the register map is neat, and its block keeps the alignment of its offsets. -/
theorem registerFieldsDisjoint : Obligations.RegisterFieldsDisjoint := by
  intro off d h
  obtain ⟨⟨hw, hf, ha⟩, ho⟩ := regAt_neatly off d h
  exact ⟨hw, ho, hf, ha⟩

/-- Settles O8: the write of a register works field by field, and no two fields share a bit. -/
theorem writeRulesOfFields : Obligations.WriteRulesOfFields := by
  intro off d f isSealed old v mask h hf _
  have hstep := fieldWrite_step off isSealed v mask
  rw [regWrite, hstep.foldl_mem (regAt_apart h) hf]
  exact fieldWrite_eq off isSealed v mask old f

/-- Settles O9: a read gathers its fields one by one, from zero. -/
theorem readsShowFields : Obligations.ReadsShowFields := by
  intro off d v h
  have hstep := showField_step v
  rw [regRead_eq]
  refine ⟨fun f hf => ?_, fun i hi => ?_⟩
  · rw [hstep.foldl_mem (regAt_apart h) hf, showField_same]
    simp [field]
  · have hbit : field (d.fields.foldl (showField v) 0) i 1 = field 0 i 1 :=
      hstep.foldl_frame (h := fld i 1 .ro) (fun f hf => (hi f hf).symm) 0
    rw [bitOf, hbit]
    simp [field]

end Sys2Proof.Proofs
end

section
/-! SUPPORT. What a step can do: it takes the front of the queue and changes the module, and never stops. -/

namespace Sys2Proof.Laws

open Sys2Proof.Machine

/-- Every meaning answers a next state that differs in the module alone: it is of the plain shape `State.onChip`, or chooses between two that are. -/
theorem exec_next (c : Instr) (s : State) : ∃ chip' : Chip, exec c s = .next { s with chip := chip' } := by
  cases c
  case grantWrite i3c uj => cases i3c <;> exact ⟨_, rfl⟩
  case bringStepImage flash layout chosen =>
    show ∃ chip', execBringStepImage flash layout chosen s = _
    unfold execBringStepImage
    split <;> exact ⟨_, rfl⟩
  all_goals exact ⟨_, rfl⟩

/-- A step answers a next state whose queue is the queue without its front. -/
theorem step_next (s : State) : ∃ chip' : Chip, step s = .next ⟨s.pending.tail, chip'⟩ := by
  cases h : s.pending with
  | nil => exact ⟨_, by rw [step_nil s h, h]; rfl⟩
  | cons c rest => rw [step_cons s c rest h]; exact exec_next c { s with pending := rest }

/-- A run of k + 1 steps is a step and a run of k. -/
theorem run_succ (M : Host.Core) {s t : M.State} (h : M.step s = .next t) (k : Nat) : M.run (k + 1) s = M.run k t := by
  rw [Host.Core.run, h]

/-- A run of k steps answers a next state whose queue is the first queue without its first k commands. -/
theorem run_next (k : Nat) (s : State) : ∃ t : State, Host.Core.run core k s = .next t ∧ t.pending = s.pending.drop k := by
  induction k generalizing s with
  | zero => exact ⟨s, rfl, rfl⟩
  | succ k ih =>
    obtain ⟨chip', hstep⟩ := step_next s
    obtain ⟨t, hrun, ht⟩ := ih ⟨s.pending.tail, chip'⟩
    exact ⟨t, by exact (run_succ core hstep k).trans hrun, by rw [ht, List.drop_tail]⟩

theorem queueWf_of_drop {s t : State} {k : Nat} (h : t.pending = s.pending.drop k) (hs : QueueWf s) : QueueWf t :=
  fun c hc => hs c (List.mem_of_mem_drop (h ▸ hc))

/-! ### Idle steps -/

/-- The module n ns later, with no event staged (R540, R544). -/
def Idled (c : Chip) (n : Nat) : Chip :=
  { c with
    now := if c.pllLocked then c.now + BitVec.ofNat 64 n else c.now
    dbg := { c.dbg with paused := if c.pllLocked && c.stopped then c.dbg.paused + BitVec.ofNat 64 n else c.dbg.paused } }

theorem idled_stopped (c : Chip) (n : Nat) : (Idled c n).stopped = c.stopped := rfl

theorem idled_zero (c : Chip) : Idled c 0 = c := by simp [Idled]

theorem idled_idled (c : Chip) (m n : Nat) : Idled (Idled c m) n = Idled c (m + n) := by
  rw [Idled, idled_stopped]
  cases hp : c.pllLocked <;> cases hs : c.stopped <;> simp [Idled, hp, hs, BitVec.ofNat_add, BitVec.add_assoc]

theorem nanosecond_eq (c : Chip) : c.nanosecond = Idled c 1 := by
  have key : ∀ p q : Bool,
      (if !p then c
        else if q then { c with now := c.now + 1, dbg := { c.dbg with paused := c.dbg.paused + 1 } } else { c with now := c.now + 1 }) =
      { c with now := if p then c.now + 1 else c.now, dbg := { c.dbg with paused := if p && q then c.dbg.paused + 1 else c.dbg.paused } } := by
    rintro (_ | _) (_ | _) <;> rfl
  exact key c.pllLocked c.stopped

/-- d is c but for what staged events leave that go into their rings by writes of memory. -/
def Drained (c d : Chip) : Prop :=
  ∃ x g, MemOnly { c with dbg := { c.dbg with stage := x, ringIdx := g } } d

theorem Drained.of_memOnly {c d : Chip} (h : MemOnly c d) : Drained c d := ⟨c.dbg.stage, c.dbg.ringIdx, h⟩

theorem Drained.refl (c : Chip) : Drained c c := .of_memOnly (.refl c)

theorem Drained.trans {a b c : Chip} (h : Drained a b) (g : Drained b c) : Drained a c := by
  obtain ⟨_, _, _, _, _, _, rfl⟩ := h
  obtain ⟨x, y, _, _, _, _, rfl⟩ := g
  exact ⟨x, y, _, _, _, _, rfl⟩

theorem ringWrite_drained (c : Chip) (key : Nat) (e : EventEntry) : Drained c (c.ringWrite key e) := by
  unfold Chip.ringWrite
  dsimp only
  exact (Drained.of_memOnly (memWrite_memOnly c ..)).trans ⟨_, _, .refl _⟩

theorem Drained.foldl {α : Type} (f : Chip → α → Chip) (hf : ∀ c x, Drained c (f c x)) (l : List α) (c : Chip) : Drained c (l.foldl f c) := by
  induction l generalizing c with
  | nil => exact .refl c
  | cons x l ih => exact (hf c x).trans (ih _)

theorem drainEvents_drained (c : Chip) : Drained c c.drainEvents := by
  unfold Chip.drainEvents
  dsimp only
  refine Drained.trans ⟨_, _, .refl _⟩ (Drained.foldl _ (fun c e => ?_) _ _)
  exact Drained.foldl _ (fun c x => ringWrite_drained c e.1 x) _ _

theorem tick_drained (c : Chip) : Drained (Idled c 1) c.tick := by
  unfold Chip.tick
  rw [nanosecond_eq]
  dsimp only
  split
  · exact .refl _
  · exact drainEvents_drained _

/-- Without staged events nothing drains. -/
theorem drainEvents_of_nil {c : Chip} (h : c.dbg.stage = []) : c.drainEvents = c := by
  unfold Chip.drainEvents
  simp only [h, List.filter_nil, List.foldl_nil]
  rw [← h]

theorem tick_of_nil {c : Chip} (h : c.dbg.stage = []) : c.tick = Idled c 1 := by
  unfold Chip.tick
  dsimp only
  rw [nanosecond_eq, drainEvents_of_nil (c := Idled c 1) h, ite_self]

/-- With nothing queued and nothing staged, n steps are n ns. -/
theorem run_idle {s : State} (hq : s.pending = []) (hst : s.chip.dbg.stage = []) (n : Nat) :
    Host.Core.run core n s = .next { s with chip := Idled s.chip n } := by
  induction n generalizing s with
  | zero => rw [idled_zero]; rfl
  | succ n ih =>
    have hstep : step s = .next { s with chip := Idled s.chip 1 } := by rw [step_nil s hq, tick_of_nil hst]
    rw [run_succ core hstep, ih (s := { s with chip := Idled s.chip 1 }) hq hst, idled_idled, Nat.add_comm 1 n]

end Sys2Proof.Laws

namespace Sys2Proof.Proofs
open Sys2Proof.Machine Sys2Proof.Laws

/-- Settles O2: a tick is one ns and a drain of staged events, which is nothing where none is staged. -/
theorem idleStepCountsTime : Obligations.IdleStepCountsTime := by
  intro s hq
  refine ⟨⟨_, step_nil s hq, hq, ?_⟩, fun hst n => run_idle hq hst n⟩
  obtain ⟨_, _, _, _, _, _, hd⟩ := tick_drained s.chip
  rw [hd]
  exact ⟨rfl, rfl, rfl⟩

/-- Settles O3. -/
theorem everyCommandAnswersNext : Obligations.EveryCommandAnswersNext := exec_next

/-- Settles O4, by induction on the number of steps. -/
theorem runsNeverStop : Obligations.RunsNeverStop := by
  refine ⟨fun s k => ?_, fun s k => ?_⟩ <;> obtain ⟨t, hrun, ht⟩ := run_next k s
  · exact ⟨t, hrun, ht, queueWf_of_drop ht⟩
  · exact ⟨t, hrun⟩
end Sys2Proof.Proofs
end

section
/-! SUPPORT. Accesses of BAR0 (R7, R9, R544, R562, R565): what a read of each width answers and latches, and the ways a write is dropped. -/

namespace Sys2Proof.Laws

open Sys2Proof.Machine

/-! ### Reads -/

/-- The module after a read that left d and answered v. -/
def Answered (d : Chip) (v : Nat) : Chip := { d with host := { d.host with bar0Out := some (BitVec.ofNat 64 v) } }

theorem exec_read {who : Half} {off : BitVec 26} {wide : Bool} {s : State} (hr : s.chip.inReset = false)
    (ha : off.toNat % (if wide then 8 else 4) = 0) :
    exec (.reg64LowHalfRead ⟨who, .bar0⟩ off wide) s =
      .next { s with chip := Answered (s.chip.bar0Read who off.toNat wide).1 (s.chip.bar0Read who off.toNat wide).2 } := by
  show execReg64LowHalfRead ⟨who, .bar0⟩ off wide s = _
  unfold execReg64LowHalfRead
  rw [onChip_next]
  rw [if_neg (by simp [hr, ha])]
  rfl

/-- Whether an offset is served depends on its block. -/
theorem serves_block (c : Chip) {o off : Nat} (h : o / 0x00100000 = off / 0x00100000) : c.serves o = c.serves off := by
  simp only [Chip.serves, h]

section
variable {c : Chip} {who : Half} {off : Nat} {d : RegDef}

theorem regValue_plain (hd : regAt off = some d) (ha : c.absent off = false) (hp : c.pageOf off = none) :
    c.regValue off = (c, regRead d.fields (c.plainValue off)) := by
  simp [Chip.regValue, hd, ha, hp]

/-- An aligned 64-bit read of a 64-bit register of a served block. -/
theorem bar0Read_wide (hd : regAt off = some d) (ha : c.absent off = false) (hp : c.pageOf off = none) (hs : c.serves off = true)
    (hw : ¬ (Reg.scanwin ≤ off ∧ off < Reg.scanwin + 0x10000)) (h64 : d.width = 64) :
    c.bar0Read who off true =
      ({ c with latch := Store.put noLatch c.latch (latchKey who off) none }, regRead d.fields (c.plainValue off)) := by
  have hwide : wideReg off = true := by simp [wideReg, hd, h64]
  simp [Chip.bar0Read, hs, hw, hwide, regValue_plain hd ha hp]

/-- A 32-bit read of an offset at which a register begins: of a wide register it is the low half. -/
theorem bar0Read_begin (hd : regAt off = some d) (ha : c.absent off = false) (hp : c.pageOf off = none) (hs : c.serves off = true)
    (hw : ¬ (Reg.scanwin ≤ off ∧ off < Reg.scanwin + 0x10000)) :
    c.bar0Read who off false =
      if d.width = 64 then
        ({ c with latch := Store.put noLatch c.latch (latchKey who off) (some (BitVec.ofNat 32 (regRead d.fields (c.plainValue off) / 2 ^ 32))) },
          regRead d.fields (c.plainValue off) % 2 ^ 32)
      else (c, regRead d.fields (c.plainValue off)) := by
  simp [Chip.bar0Read, hs, hw, Chip.read32, hd, regValue_plain hd ha hp]

/-- A 32-bit read of the high half of a 64-bit register, of which the requester holds the latched word. -/
theorem bar0Read_high_latched {high : Nat} {w : Word} (hd : regAt off = some d) (hs : c.serves high = true)
    (hw : ¬ (Reg.scanwin ≤ off ∧ off < Reg.scanwin + 0x10000)) (h64 : d.width = 64) (h8 : off % 8 = 0) (hh : high = off + 4) (hn : regAt high = none)
    (hl : Store.get noLatch c.latch (latchKey who off) = some w) :
    c.bar0Read who high false = ({ c with latch := Store.put noLatch c.latch (latchKey who off) none }, w.toNat) := by
  have hwide : wideReg off = true := by simp [wideReg, hd, h64]
  have hw' : ¬ (Reg.scanwin ≤ high ∧ high < Reg.scanwin + 0x10000) := by rw [Reg.scanwin] at hw ⊢; omega
  subst hh
  have h4 : (off + 4) % 8 = 4 := by omega
  simp only [Chip.bar0Read, hs, Bool.not_true, Bool.false_eq_true, if_false, hw', Chip.read32, hn, h4, Nat.add_sub_cancel, hwide, and_self, if_true, hl]

/-- The same with no latched word held. -/
theorem bar0Read_high_current {high : Nat} (hd : regAt off = some d) (ha : c.absent off = false) (hp : c.pageOf off = none) (hs : c.serves high = true)
    (hw : ¬ (Reg.scanwin ≤ off ∧ off < Reg.scanwin + 0x10000)) (h64 : d.width = 64) (h8 : off % 8 = 0) (hh : high = off + 4) (hn : regAt high = none)
    (hl : Store.get noLatch c.latch (latchKey who off) = none) :
    c.bar0Read who high false = (c, regRead d.fields (c.plainValue off) / 2 ^ 32) := by
  have hwide : wideReg off = true := by simp [wideReg, hd, h64]
  have hw' : ¬ (Reg.scanwin ≤ high ∧ high < Reg.scanwin + 0x10000) := by rw [Reg.scanwin] at hw ⊢; omega
  subst hh
  have h4 : (off + 4) % 8 = 4 := by omega
  simp only [Chip.bar0Read, hs, Bool.not_true, Bool.false_eq_true, if_false, hw', Chip.read32, hn, h4, Nat.add_sub_cancel, hwide, and_self,
    if_true, hl, regValue_plain hd ha hp]
end

/-! ### The time base -/

theorem regAt_time : regAt Reg.time = some (roReg 64 0) := rfl

theorem time_value (c : Chip) : regRead (roReg 64 0).fields (c.plainValue Reg.time) = c.now.toNat := by
  rw [regRead_whole, Nat.mod_eq_of_lt]
  · rfl
  · exact c.now.isLt

/-- The module after the low half of the time base was read. -/
def TimeLatched (c : Chip) (who : Half) : Chip :=
  Answered { c with latch := Store.put noLatch c.latch (latchKey who Reg.time) (some (BitVec.ofNat 32 (c.now.toNat / 2 ^ 32))) } (c.now.toNat % 2 ^ 32)

theorem exec_time_low {who : Half} {s : State} (hs : s.chip.serves Reg.time = true) (hr : s.chip.inReset = false) :
    exec (.reg64LowHalfRead ⟨who, .bar0⟩ (BitVec.ofNat 26 Reg.time) false) s = .next { s with chip := TimeLatched s.chip who } := by
  have hread := bar0Read_begin (c := s.chip) (who := who) regAt_time rfl rfl hs (by decide)
  rw [time_value, if_pos (show (roReg 64 0).width = 64 from rfl)] at hread
  rw [exec_read hr rfl, show (BitVec.ofNat 26 Reg.time).toNat = Reg.time from rfl, hread]
  rfl

/-- The high half answers what the requester's latch holds. -/
theorem exec_time_high {who : Half} {s : State} {w : Word} (hs : s.chip.serves Reg.time = true) (hr : s.chip.inReset = false)
    (hl : Store.get noLatch s.chip.latch (latchKey who Reg.time) = some w) :
    exec (.reg64LowHalfRead ⟨who, .bar0⟩ (BitVec.ofNat 26 (Reg.time + 4)) false) s =
      .next { s with chip := Answered { s.chip with latch := Store.put noLatch s.chip.latch (latchKey who Reg.time) none } w.toNat } := by
  have hread := bar0Read_high_latched (high := Reg.time + 4) regAt_time (serves_block s.chip rfl ▸ hs) (by decide) rfl rfl rfl rfl hl
  rw [exec_read hr rfl, show (BitVec.ofNat 26 (Reg.time + 4)).toNat = Reg.time + 4 from rfl, hread]

theorem inReset_of_serves {c : Chip} {off : Nat} (h : c.serves off = true) : c.inReset = false := by
  cases hr : c.inReset with
  | false => rfl
  | true => simp [Chip.serves, hr] at h

/-! ### Writes -/

theorem exec_write {who : Half} {off : BitVec 26} {wide : Bool} {v : DWord} {s : State} (ha : off.toNat % (if wide then 8 else 4) = 0) :
    exec (.registerWrite ⟨⟨who, .bar0⟩, off⟩ wide v) s =
      .next { s with chip := (s.chip.letGo who off.toNat).bar0Write off.toNat wide v.toNat } := by
  show execRegisterWrite ⟨⟨who, .bar0⟩, off⟩ wide v s = _
  unfold execRegisterWrite
  rw [onChip_next, if_pos ha]
  rfl

/-- No write of the register that begins at o has an effect: it is not taken, no register begins there, or its unit is absent. -/
def Deaf (c : Chip) (o : Nat) : Prop := c.takesWrite o = false ∨ regAt o = none ∨ c.absent o = true

theorem Deaf.regPut {c : Chip} {o : Nat} (h : Deaf c o) (ht : c.takesWrite o = true) (v mask : Nat) : c.regPut o v mask = c := by
  unfold Chip.regPut
  rcases h with h | h | h
  · rw [h] at ht; cases ht
  · rw [h]
  · split
    · rfl
    · rw [if_pos h]

theorem Deaf.write32 {c : Chip} {off : Nat} (h : ∀ o, o / 8 = off / 8 → o % 4 = 0 → Deaf c o) (h4 : off % 4 = 0) (v : Nat) : c.write32 off v = c := by
  unfold Chip.write32
  split
  · split
    · exact (h off rfl h4).regPut ‹_› _ _
    · rfl
  · split
    · next hw => exact (h (off - 4) (by omega) (by omega)).regPut hw.2.2 _ _
    · rfl

/-- A write into eight bytes that are deaf is dropped. -/
theorem bar0Write_deaf {c : Chip} {off : Nat} {wide : Bool} (hd : c.dropsWrite off = false) (hw : ¬ (Reg.scanwin ≤ off ∧ off < Reg.scanwin + 0x10000))
    (ha : off % (if wide then 8 else 4) = 0) (h : ∀ o, o / 8 = off / 8 → o % 4 = 0 → Deaf c o) (v : Nat) : c.bar0Write off wide v = c := by
  unfold Chip.bar0Write
  rw [hd, if_neg hw]
  cases wide
  · simp [Deaf.write32 h ha]
  · have h8 : off % 8 = 0 := ha
    have hhigh : ∀ o, o / 8 = (off + 4) / 8 → o % 4 = 0 → Deaf c o := fun o ho => h o (by omega)
    simp only [Bool.not_true, Bool.false_eq_true, if_false, Deaf.write32 h (by omega), Deaf.write32 hhigh (by omega)]
    by_cases ht : c.takesWrite off = true
    · simp [ht, (h off rfl (by omega)).regPut ht]
    · simp [ht]

/-- While the module is stopped a write is dropped and counted (R544). -/
theorem bar0Write_stopped {c : Chip} {off : Nat} (hr : c.inReset = false) (hd : c.dropsWrite off = true) (wide : Bool) (v : Nat) :
    c.bar0Write off wide v = c.bump Reg.wstat 16 16 1 := by
  simp [Chip.bar0Write, hr, hd]

theorem dropsWrite_running {c : Chip} (h : c.stopped = false) (off : Nat) : c.dropsWrite off = false := by
  simp [Chip.dropsWrite, h]

theorem dropsWrite_stopped {c : Chip} {off : Nat} (h : c.stopped = true) (h4 : off / 0x100000 ≠ 4) (h6 : off / 0x100000 ≠ 6) (hb : off ≠ Reg.bringReset) :
    c.dropsWrite off = true := by
  simp [Chip.dropsWrite, h, h4, h6, hb]

/-- After seal a tower window takes what R565 leaves open alone. -/
theorem takesWrite_sealed {c : Chip} {o t : Nat} (hs : c.isSealed = true) (ht : towerOf o = some t) (hok : sealedTowerOk t o = false) :
    c.takesWrite o = false := by
  simp [Chip.takesWrite, ht, hs, hok]

/-- Before seal the blocks HIF, POWER, THERM, RAS and HOLMUND take no write but NODE's (R399, R527). -/
theorem takesWrite_unsealed {c : Chip} {o : Nat} (hs : c.isSealed = false) (ht : c.thermStopped = false) (hb : o / 0x100000 ∈ [2, 3, 4, 5, 7])
    (hn : o ≠ Reg.node) : c.takesWrite o = false := by
  simp only [List.mem_cons, List.not_mem_nil, or_false] at hb
  have htower : towerOf o = none := if_neg (by omega)
  have hserves : c.serves o = false := by
    unfold Chip.serves
    rcases hb with hb | hb | hb | hb | hb <;> simp [hs, ht, hb]
  simp [Chip.takesWrite, htower, hserves, hn]

theorem towerOf_group {o off : Nat} (h : o / 8 = off / 8) : towerOf o = towerOf off := by
  unfold towerOf
  by_cases hin : 0x01000000 ≤ off ∧ off < 0x02000000
  · rw [if_pos hin, if_pos (by omega)]
    exact congrArg some (by omega)
  · rw [if_neg hin, if_neg (by omega)]

end Sys2Proof.Laws

namespace Sys2Proof.Proofs
open Sys2Proof.Machine Sys2Proof.Laws

/-- Settles O10: what a read of each width and half answers. -/
theorem registerReadsComplete : Obligations.RegisterReadsComplete := by
  intro who off d s hd hr ha hp hs hw
  refine ⟨fun h64 h8 => ?_, fun h64 h4 => ?_, fun h32 h4 => ?_, fun high h64 h8 hh hn hs' w hl => ?_, fun high h64 h8 hh hn hs' hl => ?_⟩
  · rw [exec_read hr h8, bar0Read_wide hd ha hp hs hw h64]; rfl
  · rw [exec_read hr h4, bar0Read_begin hd ha hp hs hw, if_pos h64]; rfl
  · rw [exec_read hr h4, bar0Read_begin hd ha hp hs hw, if_neg (by omega)]; rfl
  · have h4 : high.toNat % 4 = 0 := by omega
    rw [exec_read hr h4, bar0Read_high_latched hd hs' hw h64 h8 hh hn hl]; rfl
  · have h4 : high.toNat % 4 = 0 := by omega
    rw [exec_read hr h4, bar0Read_high_current hd ha hp hs' hw h64 h8 hh hn hl]; rfl

/-- Settles O52: idle steps leave the latch that the low half's read set. -/
theorem halvesReadTogether : Obligations.HalvesReadTogether := by
  intro who s n hq hst hs
  have hr := inReset_of_serves hs
  have hnow : s.chip.now.toNat / 2 ^ 32 < 2 ^ 32 := by omega
  have hlatch : Store.get noLatch (Idled (TimeLatched s.chip who) n).latch (latchKey who Reg.time) =
      some (BitVec.ofNat 32 (s.chip.now.toNat / 2 ^ 32)) := get_put_changed _ _ _ nofun
  refine ⟨_, _, _, exec_time_low hs hr, run_idle (s := { s with chip := TimeLatched s.chip who }) hq hst n, exec_time_high hs hr hlatch, rfl, ?_, rfl⟩
  rw [BitVec.toNat_ofNat, Nat.mod_eq_of_lt hnow]
  rfl

/-- Settles O12: the offsets that a write could reach are deaf, or the module is stopped. -/
theorem writesThatAreIgnored : Obligations.WritesThatAreIgnored := by
  intro who off wide v s ha hr
  have h4 : off.toNat % 4 = 0 := by cases wide <;> simp at ha <;> omega
  let c := s.chip.letGo who off.toNat
  have near : ∀ {o}, o / 8 = off.toNat / 8 → o % 4 = 0 → off.toNat - 4 ≤ o ∧ o ≤ off.toNat + 4 := fun ho h4o => by omega
  refine ⟨fun b hb hs h4b h6b hne => ?_, fun hs hw => ?_⟩
  · subst hb
    rw [exec_write ha, bar0Write_stopped (c := c) hr (dropsWrite_stopped (c := c) hs h4b h6b hne)]
  · have deaf (h : ∀ o, o / 8 = off.toNat / 8 → o % 4 = 0 → Deaf c o) :
        exec (.registerWrite ⟨⟨who, .bar0⟩, off⟩ wide v) s = .next { s with chip := s.chip.letGo who off.toNat } := by
      rw [exec_write ha, bar0Write_deaf (dropsWrite_running (c := c) hs _) hw ha h]
    refine ⟨fun t hseal ht hok => deaf fun o ho h4o => .inl ?_, fun hseal hb hn hth => deaf fun o ho h4o => .inl ?_,
      fun habs => deaf fun o ho h4o => .inr (.inr ?_), fun hnone => deaf fun o ho h4o => .inr (.inl ?_)⟩
    · exact takesWrite_sealed (c := c) hseal (towerOf_group ho ▸ ht) (hok o (near ho h4o).1 (near ho h4o).2)
    · have hblock : o / 0x100000 = off.toNat / 0x100000 := by omega
      exact takesWrite_unsealed (c := c) hseal hth (hblock ▸ hb) (by rintro rfl; exact hn ho.symm)
    · exact habs o (near ho h4o).1 (near ho h4o).2
    · exact hnone o (near ho h4o).1 (near ho h4o).2

end Sys2Proof.Proofs
end

section
/-! SUPPORT. A module whose list of check differences names one line twice. A write takes the first entry out, and what is read after it meets the
second: the statement about units' writes asks that DRAM be canonical, but not that this list be. -/

namespace Sys2Proof.Laws

open Sys2Proof.Machine

/-- Vault 0 of tower 0 is asleep, and line 0 has two check differences: none, and the one that a wrong bit in its first byte leaves (R489). -/
def twiceListed : Chip :=
  { Chip.reset with
    regs := [(Reg.vaultCtl 0 0, BitVec.ofNat 64 (2 ^ 48))]
    mem := { MemState.reset with chk := [(0, 0), (0, storedDelta (List.replicate 8 0 ++ 1 :: List.replicate 63 0))] } }

theorem twiceListed_cacheInOrder : twiceListed.CacheInOrder := by
  refine ⟨rfl, fun k w h => ?_⟩
  have hnone : twiceListed.way k = none := rfl
  rw [hnone] at h
  cases h

theorem twiceListed_path :
    twiceListed.pathStatus 0 .usher = 3 ∧ twiceListed.linePoisoned 0 = false ∧ twiceListed.laneErrors 0 = [] ∧ twiceListed.shadowOf 0 = none := by
  decide +kernel

/-- The byte that is written as 0 reads back as 1: the second check difference has the decoder correct a good byte. -/
theorem twiceListed_reads_one : (twiceListed.memWrite 0 [0]).memBytes 0 1 = [1] := by decide +kernel

end Sys2Proof.Laws

namespace Sys2Proof.Proofs
open Sys2Proof.Machine Sys2Proof.Laws

/-- Refutes O51: with the list of check differences not in canonical form, a byte written as 0 to a line whose vault is asleep reads back as 1. -/
theorem not_unitsReadWhatTheyWrite : ¬ Obligations.UnitsReadWhatTheyWrite := by
  intro h
  obtain ⟨hpath, hpoison, hlanes, hshadow⟩ := twiceListed_path
  obtain ⟨hread, _, _⟩ := h twiceListed 0 [0] rfl twiceListed_cacheInOrder ⟨rfl, rfl, rfl⟩
    (.inr (.inr ⟨by decide, hpath, hpoison, hlanes, hshadow⟩))
  rw [List.length_singleton, twiceListed_reads_one] at hread
  exact absurd hread (by decide)

end Sys2Proof.Proofs
end

section
/-! SUPPORT. Module memory stays in its canonical form: the form is kept by every operation on the module, in the order of the model's
files, and so by every command and by a step with nothing queued. An operation that answers a module and more is said to keep it in
its part that is a module, one that may answer nothing in whatever it answers. -/

namespace Sys2Proof.Laws

open Sys2Proof.Machine

/-- Module memory is in its canonical form. -/
def Canon (c : Chip) : Prop := Memory.wf c.dram = true

/-- A meaning's answer, if it goes on, has module memory in its canonical form. -/
def CanonNext (r : Host.Outcome State Fault Refusal) : Prop := ∀ t, r = .next t → Canon t.chip

/-- An update of other fields. -/
theorem Canon.mk {part now pllLocked free regs fuses latch gals flight rsigs flows reports dram mem chc opSeq hostMem host sys ush lk dbg} (h : Memory.wf dram = true) :
    Canon
      ⟨part, now, pllLocked, free, regs, fuses, latch, gals, flight, rsigs, flows, reports, dram, mem, chc, opSeq, hostMem, host, sys, ush, lk, dbg⟩ := h

theorem Canon.ite {p : Prop} [Decidable p] {a b : Chip} (ha : Canon a) (hb : Canon b) : Canon (if p then a else b) := by
  split <;> assumption

theorem Canon.of_fst {α : Type} {p : Chip × α} {c : Chip} {x : α} (h : Canon p.1) (e : p = (c, x)) : Canon c := by rw [e] at h; exact h

theorem Canon.of_snd {α : Type} {p : α × Chip} {c : Chip} {x : α} (h : Canon p.2) (e : p = (x, c)) : Canon c := by rw [e] at h; exact h

theorem Canon.foldl {α : Type} {f : Chip → α → Chip} {c : Chip} {l : List α} (h : Canon c) (hf : ∀ c x, Canon c → Canon (f c x)) : Canon (l.foldl f c) := by
  induction l generalizing c with
  | nil => exact h
  | cons x l ih => exact ih (hf c x h)

/-- A fold that carries more than the module. -/
theorem Canon.foldl_fst {α β : Type} {f : Chip × β → α → Chip × β} {p : Chip × β} {l : List α} (h : Canon p.1)
    (hf : ∀ p x, Canon p.1 → Canon (f p x).1) : Canon (l.foldl f p).1 := by
  induction l generalizing p with
  | nil => exact h
  | cons x l ih => exact ih (hf p x h)

/-- A fold that may fail. -/
theorem Canon.foldl_opt {α : Type} {f : Option Chip → α → Option Chip} {o : Option Chip} {l : List α} (h : ∀ c ∈ o, Canon c)
    (hf : ∀ o x, (∀ c ∈ o, Canon c) → ∀ c ∈ f o x, Canon c) : ∀ c ∈ l.foldl f o, Canon c := by
  induction l generalizing o with
  | nil => exact h
  | cons x l ih => exact ih (hf o x h)

/-- The same, where the fold carries more than the module. -/
theorem Canon.foldl_opt_fst {α β : Type} {f : Option (Chip × β) → α → Option (Chip × β)} {o : Option (Chip × β)} {l : List α}
    (h : ∀ p ∈ o, Canon p.1) (hf : ∀ o x, (∀ p ∈ o, Canon p.1) → ∀ p ∈ f o x, Canon p.1) : ∀ p ∈ l.foldl f o, Canon p.1 := by
  induction l generalizing o with
  | nil => exact h
  | cons x l ih => exact ih (hf o x h)

theorem Canon.getD {o : Option Chip} {c : Chip} (ho : ∀ d ∈ o, Canon d) (h : Canon c) : Canon (o.getD c) := by
  cases o with
  | none => exact h
  | some d => exact ho d rfl

theorem forall_mem_some {α : Type} {a : α} {P : α → Prop} (h : P a) : ∀ d ∈ some a, P d := by
  rintro _ ⟨⟩; exact h

theorem forall_mem_none {α : Type} {P : α → Prop} : ∀ d ∈ (none : Option α), P d := nofun

theorem forall_mem_bind {α β : Type} {o : Option α} {f : α → Option β} {P : β → Prop} (h : ∀ x ∈ o, ∀ y ∈ f x, P y) : ∀ y ∈ o.bind f, P y := by
  cases o with
  | none => nofun
  | some x => exact h x rfl

/-! ### The state -/

theorem Canon.reset : Canon Chip.reset := rfl

/-! ### Operations on the state -/

theorem CanonNext.onChip {s : Machine.State} (h : Canon s.chip) {f : Chip → Chip} (hf : ∀ c, Canon c → Canon (f c)) : CanonNext (s.onChip f) := by
  rintro _ ⟨⟩
  exact hf _ h

theorem Canon.wr {c : Chip} (h : Canon c) {off v} : Canon (c.wr off v) := (wr_memStep ..).2 h

theorem Canon.unlatch {c : Chip} (h : Canon c) {off} : Canon (c.unlatch off) := .mk h

theorem Canon.wrF {c : Chip} (h : Canon c) {off lo len v} : Canon (c.wrF off lo len v) := (wrF_memStep ..).2 h

theorem Canon.ownWrF {c : Chip} (h : Canon c) {off lo len v} : Canon (c.ownWrF off lo len v) := h.wrF.unlatch

theorem Canon.bump {c : Chip} (h : Canon c) {off lo len n} : Canon (c.bump off lo len n) := (bump_memStep ..).2 h

theorem Canon.fresh {c : Chip} (h : Canon c) : Canon c.fresh.2 := .mk h

theorem Canon.setGal {c : Chip} (h : Canon c) {k g} : Canon (c.setGal k g) := .mk h

theorem Canon.onGal {c : Chip} (h : Canon c) {k f} : Canon (c.onGal k f) := h.setGal

theorem Canon.setDomSt {c : Chip} (h : Canon c) {k st} : Canon (c.setDomSt k st) := h.wrF

theorem Canon.domRun {c : Chip} (h : Canon c) {k} : Canon (c.domRun k) := by
  unfold Chip.domRun
  extract_lets cap1 c2
  have h3 : Canon c2 := h.wrF.wrF
  clear_value c2
  split
  · exact h3.wrF
  · exact h3.wrF
  · exact h3
  · exact h3.wrF

theorem Canon.corridor {c : Chip} (h : Canon c) {t} : Canon (c.corridor t) := .ite h h.wrF.wrF

theorem Canon.domsRun {c : Chip} (h : Canon c) {ks} : Canon (c.domsRun ks) := by
  unfold Chip.domsRun
  extract_lets c1
  have h2 : Canon c1 := .foldl h fun _ _ hd => hd.domRun
  clear_value c1
  exact .foldl h2 fun _ _ hd => .ite hd.corridor hd

theorem Canon.setVsets {c : Chip} (h : Canon c) {l} : Canon (c.setVsets l) := (Canon.foldl h fun _ _ hd => hd.ownWrF).domsRun

theorem Canon.requestWhistle {c : Chip} (h : Canon c) {causeBit} : Canon (c.requestWhistle causeBit) :=
  (Canon.ite h.wrF (Canon.mk (Canon.ite h.wrF h)))

theorem Canon.trigger {c : Chip} (h : Canon c) {t unit kind range k} : Canon (c.trigger t unit kind range k) := by
  unfold Chip.trigger
  extract_lets v1 n2
  exact .ite (.ite h.wr.requestWhistle h.wr) h

theorem Canon.event {c : Chip} (h : Canon c) {t unit kind range data} : Canon (c.event t unit kind range data) := by
  unfold Chip.event
  extract_lets c1 key2 q3 e4 x5
  have h6 : Canon c1 := .foldl h fun _ _ hd => hd.trigger
  clear_value c1
  exact .ite h6 (.ite (.mk h6) h6.bump)

theorem Canon.report {c : Chip} (h : Canon c) {m} : Canon (c.report m) := .mk h

theorem Canon.ledgerAdd {c : Chip} (h : Canon c) {d} : Canon (c.ledgerAdd d) := .ite h.wr h

theorem Canon.closeStep {c : Chip} (h : Canon c) {n net} : Canon (c.closeStep n net) := by
  unfold Chip.closeStep
  extract_lets x1 x2
  exact .mk h

theorem Canon.stepCredit {c : Chip} (h : Canon c) {k} : Canon (c.stepCredit k) := by
  unfold Chip.stepCredit
  extract_lets g1 credit2 carry3 c4
  have h5 : Canon c4 := h.setGal
  clear_value c4
  exact .ite h5.closeStep.ledgerAdd h

theorem Canon.stepCharge {c : Chip} (h : Canon c) {k n} : Canon (c.stepCharge k n) := by
  unfold Chip.stepCharge
  extract_lets g1 eclass2 v3 x4 carry5 c6
  have h7 : Canon c6 := h.setGal
  clear_value c6
  exact h7.ledgerAdd

/-! ### Galleries -/

theorem Canon.galTrap {c : Chip} (h : Canon c) {k cause tval} : Canon (c.galTrap k cause tval) := by
  unfold Chip.galTrap
  extract_lets g1 t2 p3 dbl4 g5 c6 r7 c8 c9
  have h10 : Canon c6 := h.setGal.report
  have h11 : Canon c8 := h10.event
  have h12 : Canon c9 := h11.event
  clear_value c6 c8 c9
  exact h12.event

theorem Canon.galInstr {f : Chip → Chip} {c : Chip} (h : Canon c) (hf : ∀ y0, Canon y0 → Canon (f y0)) {k} : Canon (c.galInstr k f) :=
  .ite (.ite h.galTrap (.ite h (hf _ h))) h

theorem Canon.issue {c : Chip} (h : Canon c) {k rd q nb addr} : Canon (c.issue k rd q nb addr) := by
  unfold Chip.issue
  extract_lets g1 a2 d3 v4 idx5 e6 g7
  split
  · exact h.galTrap
  · exact .ite h.galTrap (.ite h.setGal (.ite h.setGal h.setGal))

theorem Canon.fenceq {c : Chip} (h : Canon c) {k mask} : Canon (c.fenceq k mask) := by
  unfold Chip.fenceq
  extract_lets g1
  exact .ite h.setGal h.setGal

theorem Canon.stepRetire {c : Chip} (h : Canon c) {k n} : Canon (c.stepRetire k n) := by
  unfold Chip.stepRetire
  extract_lets c1 c2 c3
  have h4 : Canon c1 := h.stepCredit
  have h5 : Canon c2 := h4.onGal
  have h6 : Canon c3 := h5.stepCharge
  clear_value c1 c2 c3
  exact h6.event

theorem Canon.heldCredit {c : Chip} (h : Canon c) {k} : Canon (c.heldCredit k) := .ite h.stepCredit h

theorem Canon.step {c : Chip} (h : Canon c) {k n} : Canon (c.step k n) := .ite h.onGal.heldCredit h.stepRetire

theorem Canon.stepResume {c : Chip} (h : Canon c) {k} : Canon (c.stepResume k) := by
  unfold Chip.stepResume
  extract_lets g1
  split
  · exact .ite h.setGal.stepRetire h
  · exact h

theorem Canon.epochInstr {c : Chip} (h : Canon c) {k rd} : Canon (c.epochInstr k rd) := h.onGal

theorem Canon.retainEnter {c : Chip} (h : Canon c) {k} : Canon (c.retainEnter k) := by
  unfold Chip.retainEnter
  extract_lets t1 p2 c3 c4
  have h5 : Canon c3 := h.onGal
  have h6 : Canon c4 := h5.wrF.wrF
  clear_value c3 c4
  exact h6.event

theorem Canon.waitc {c : Chip} (h : Canon c) {k rd poll ctr target} : Canon (c.waitc k rd poll ctr target) := by
  unfold Chip.waitc
  extract_lets g1 met2 g3 g4 c5
  have h6 : Canon c5 := h.setGal
  clear_value c5
  exact .ite h.setGal (.ite h.setGal (.ite (.ite h6.retainEnter h6) h.setGal))

theorem Canon.sigc {c : Chip} (h : Canon c) {k set target val} : Canon (c.sigc k set target val) := by
  unfold Chip.sigc
  extract_lets g1 x2 ctr3 x4 c5
  have h6 : Canon c5 := h.setGal
  clear_value c5
  exact .ite h.galTrap (.ite h.setGal (.ite h.setGal (.mk h6)))

theorem Canon.markPush {c : Chip} (h : Canon c) {k rd id} : Canon (c.markPush k rd id) := by
  unfold Chip.markPush
  extract_lets g1 x2
  exact .ite h.galTrap h.setGal

theorem Canon.markPop {c : Chip} (h : Canon c) {k rd} : Canon (c.markPop k rd) := by
  unfold Chip.markPop
  extract_lets g1
  split
  · exact h.galTrap
  · exact h.setGal

theorem Canon.galMret {c : Chip} (h : Canon c) {k} : Canon (c.galMret k) := h.onGal

theorem Canon.galCustom {c : Chip} (h : Canon c) {k w} : ∀ d ∈ c.galCustom k w, Canon d := by
  unfold Chip.galCustom
  extract_lets x1 g2 rd3 f4 rs5 rs6 f7 a8 b9
  clear_value x1 g2 rd3 f4 rs5 rs6 f7 a8 b9
  split
  · split
    · split
      · exact forall_mem_some h.issue
      · exact forall_mem_none
    · split
      · exact forall_mem_some h.fenceq
      · exact forall_mem_none
    · split
      · exact forall_mem_some h.step
      · exact forall_mem_none
    · split
      · exact forall_mem_some h.epochInstr
      · exact forall_mem_none
    · exact forall_mem_none
  · split
    · split
      · split
        · exact forall_mem_some h.waitc
        · exact forall_mem_none
      · split
        · exact forall_mem_some h.sigc
        · exact forall_mem_none
      · split
        · exact forall_mem_some h.markPush
        · split
          · exact forall_mem_some h.markPop
          · exact forall_mem_none
      · exact forall_mem_none
    · exact forall_mem_none

theorem Canon.scalarInstr {c : Chip} (h : Canon c) {k} : Canon (c.scalarInstr k) := by
  unfold Chip.scalarInstr
  extract_lets g1 h2 x3
  split
  · exact h.galTrap
  · extract_lets bits4 illegal5 next6
    have h7 : Canon illegal5 := h.galTrap
    clear_value illegal5
    split
    · exact h.setGal
    · split
      · exact h.galTrap
      · extract_lets cost8 x9
        exact h.setGal
    · split
      · exact h.galTrap
      · extract_lets cost10 x11
        exact h.setGal
    · split
      · exact h7
      · exact .ite h7 h.setGal
    · exact h.galTrap
    · exact h.galMret
    · split
      next d13 e14 =>
        have h15 : Canon d13 := h.galCustom _ e14
        exact h15
      · exact h7

theorem Canon.issueRoom {c : Chip} (h : Canon c) {k} : Canon (c.issueRoom k) := by
  unfold Chip.issueRoom
  split
  · exact .ite h.setGal.issue h
  · exact h

theorem Canon.fenceqDrained {c : Chip} (h : Canon c) {k} : Canon (c.fenceqDrained k) := by
  unfold Chip.fenceqDrained
  split
  · exact .ite h.setGal h
  · exact h.stepResume
  · exact h

theorem Canon.waitcMet {c : Chip} (h : Canon c) {k} : Canon (c.waitcMet k) := by
  unfold Chip.waitcMet
  extract_lets g1
  split
  · exact .ite h.setGal h
  · exact h

theorem Canon.retainLeave {c : Chip} (h : Canon c) {k cause} : Canon (c.retainLeave k cause) := by
  unfold Chip.retainLeave
  extract_lets g1 g2 c3 c4
  have h5 : Canon c3 := h.setGal.wrF
  have h6 : Canon c4 := h5.setDomSt.domsRun
  clear_value c3 c4
  exact .ite h6.event h

theorem Canon.waitTimeout {c : Chip} (h : Canon c) {k} : Canon (c.waitTimeout k) := by
  unfold Chip.waitTimeout
  extract_lets g1
  split
  · exact h
  · split
    · exact .ite h.waitcMet h.galTrap
    · exact .ite h h.galTrap
    · exact .ite h h.galTrap
    · exact h

theorem Canon.scanRaise {c : Chip} (h : Canon c) {k} : Canon (c.scanRaise k) := .ite h.retainLeave h

theorem Canon.retentionWake {c : Chip} (h : Canon c) {k cause} : Canon (c.retentionWake k cause) := by
  unfold Chip.retentionWake
  split
  · extract_lets c1
    have h2 : Canon c1 := h.retainLeave
    clear_value c1
    split
    · exact .ite h2.waitcMet (.ite h2.waitTimeout h2)
    · exact h2
  · exact h

theorem Canon.holdGal {c : Chip} (h : Canon c) {k} : Canon (c.holdGal k) := h.retentionWake.onGal.heldCredit

theorem Canon.holdRelease {c : Chip} (h : Canon c) {k} : Canon (c.holdRelease k) := h.onGal.stepResume

theorem Canon.rsigReceive {c : Chip} (h : Canon c) {src dst} : Canon (c.rsigReceive src dst) := by
  unfold Chip.rsigReceive
  extract_lets hit1 c2
  have h3 : Canon c2 := .mk h
  clear_value c2
  split
  · exact h
  · exact .ite (.ite h3.onGal h3.bump) h3.bump

theorem Canon.mailboxWrite {c : Chip} (h : Canon c) {k n data} : Canon (c.mailboxWrite k n data) := by
  unfold Chip.mailboxWrite
  extract_lets g1
  exact .ite h.retentionWake.onGal h

theorem Canon.parityError {c : Chip} (h : Canon c) {k q} : Canon (c.parityError k q) := by
  unfold Chip.parityError
  split
  · exact h.onGal.report
  · exact h.onGal.report

/-! ### The memory path -/

theorem Canon.setWay {c : Chip} (h : Canon c) {k w} : Canon (c.setWay k w) := (setWay_memStep ..).2 h

theorem Canon.touch {c : Chip} (h : Canon c) {k at_} : Canon (c.touch k at_) := (touch_memStep ..).2 h

theorem Canon.forward {c : Chip} (h : Canon c) {l d poison} : Canon (c.forward l d poison) := (forward_memStep ..).2 h

theorem Canon.dramWrite {c : Chip} (h : Canon c) {l d poison} : Canon (c.dramWrite l d poison) := (dramWrite_memStep ..).2 h

theorem Canon.vaultWrite {c : Chip} (h : Canon c) {l d poison} : Canon (c.vaultWrite l d poison) := (vaultWrite_memStep ..).2 h

theorem Canon.evict {c : Chip} (h : Canon c) {k} : Canon (c.evict k) := (evict_memStep ..).2 h

theorem Canon.allocate {c : Chip} (h : Canon c) {l} : Canon (c.allocate l).1 := (allocate_memStep ..).2 h

theorem Canon.pinWay {c : Chip} (h : Canon c) {k o} : Canon (c.pinWay k o) := by
  unfold Chip.pinWay
  split
  · exact .ite h (.ite h.bump h.setWay)
  · exact h

theorem Canon.pinFor {c : Chip} (h : Canon c) {k ah who} : Canon (c.pinFor k ah who) := (pinFor_memStep ..).2 h

theorem Canon.fillWay {c : Chip} (h : Canon c) {l d dirty poison} : Canon (c.fillWay l d dirty poison).1 := (fillWay_memStep ..).2 h

theorem Canon.reissue {c : Chip} (h : Canon c) {vk} : Canon (c.reissue vk) := (reissue_memStep ..).2 h

theorem Canon.backInvalidate {c : Chip} (h : Canon c) {l} : Canon (c.backInvalidate l) := (backInvalidate_memStep ..).2 h

theorem Canon.backFirst {c : Chip} (h : Canon c) {l} : Canon (c.backFirst l) := (backFirst_memStep ..).2 h

theorem Canon.countHit {c : Chip} (h : Canon c) {l hit} : Canon (c.countHit l hit) := (countHit_memStep ..).2 h

theorem Canon.hitRead {c : Chip} (h : Canon c) {k w ah who} : Canon (c.hitRead k w ah who).1 := (hitRead_memStep ..).2 h

theorem Canon.hitWrite {c : Chip} (h : Canon c) {l k w mask d ah who} : Canon (c.hitWrite l k w mask d ah who) := (hitWrite_memStep ..).2 h

theorem Canon.missWrite {c : Chip} (h : Canon c) {l whole nd np ah who} : Canon (c.missWrite l whole nd np ah who) := (missWrite_memStep ..).2 h

theorem Canon.logMerge {c : Chip} (h : Canon c) {l mask d} : Canon (c.logMerge l mask d) := (logMerge_memStep ..).2 h

theorem Canon.pokeNow {c : Chip} (h : Canon c) {l mask d} : Canon (c.pokeNow l mask d) := (pokeNow_memStep ..).2 h

theorem Canon.pokeBy {write : Chip → ℕ → BitVec 64 → Line → Chip} {c : Chip} (h : Canon c) (hf : ∀ y0 y1 y2 y3, Canon y0 → Canon (write y0 y1 y2 y3))
    {l o bs} : Canon (c.pokeBy write l o bs) := by
  unfold Chip.pokeBy
  split
  · exact hf _ _ _ _ h
  · exact h
  · exact h.pokeNow

theorem Canon.pokeGo {write : Chip → ℕ → BitVec 64 → Line → Chip} {c : Chip} (h : Canon c)
    (hf : ∀ y0 y1 y2 y3, Canon y0 → Canon (write y0 y1 y2 y3)) {n a bs} : Canon (c.pokeGo write n a bs) := by
  induction n generalizing c a bs with
  | zero => exact h
  | succ n ih =>
    unfold Chip.pokeGo
    split
    · exact h
    · exact ih (h.pokeBy hf)

theorem Canon.poisonLine {c : Chip} (h : Canon c) {l} : Canon (c.poisonLine l) := by
  unfold Chip.poisonLine
  split
  · exact h.setWay.dramWrite
  · exact h.dramWrite

theorem Canon.logWrite {c : Chip} (h : Canon c) {a bs} : Canon (c.logWrite a bs) := .pokeGo h (fun _ _ _ _ hd => hd.logMerge)

theorem Canon.errLog {c : Chip} (h : Canon c) {t unit line ppos place kind src syms who} : Canon (c.errLog t unit line ppos place kind src syms who) := (errLog_memStep ..).2 h

theorem Canon.lineLog {c : Chip} (h : Canon c) {l kind src syms who} : Canon (c.lineLog l kind src syms who) := (lineLog_memStep ..).2 h

theorem Canon.mapLane {c : Chip} (h : Canon c) {p lane} : Canon (c.mapLane p lane) := (mapLane_memStep ..).2 h

theorem Canon.groupRetrain {c : Chip} (h : Canon c) {l group} : Canon (c.groupRetrain l group) := (groupRetrain_memStep ..).2 h

theorem Canon.noteCorr {c : Chip} (h : Canon c) {l syms} : Canon (c.noteCorr l syms) := (noteCorr_memStep ..).2 h

theorem Canon.decodeRead {c : Chip} (h : Canon c) {l src who} : Canon (c.decodeRead l src who).1 := (decodeRead_memStep ..).2 h

theorem Canon.vaultRead {c : Chip} (h : Canon c) {l src who} : Canon (c.vaultRead l src who).1 := (vaultRead_memStep ..).2 h

theorem Canon.answer {c : Chip} (h : Canon c) {tag status d} : Canon (c.answer tag status d) := (answer_memStep ..).2 h

theorem Canon.serveNow {c : Chip} (h : Canon c) {r l} : Canon (c.serveNow r l) := (serveNow_memStep ..).2 h

theorem Canon.startFill {c : Chip} (h : Canon c) {l ws} : Canon (c.startFill l ws) := (startFill_memStep ..).2 h

theorem Canon.sliceServe {c : Chip} (h : Canon c) {r l} : Canon (c.sliceServe r l) := (sliceServe_memStep ..).2 h

theorem Canon.holdReq {c : Chip} (h : Canon c) {r l own} : Canon (c.holdReq r l own) := (holdReq_memStep ..).2 h

theorem Canon.takeTurn {c : Chip} (h : Canon c) {ahead r l} : Canon (c.takeTurn ahead r l) := (takeTurn_memStep ..).2 h

theorem Canon.serveHeld {c : Chip} (h : Canon c) {sk} : Canon (c.serveHeld sk) := (serveHeld_memStep ..).2 h

theorem Canon.serveFill {q : Chip × Bool × Line} (h : Canon q.1) {l r} : Canon (Chip.serveFill l q r).1 := (serveFill_memStep ..).2 h

theorem Canon.sliceFill {c : Chip} (h : Canon c) {line} : Canon (c.sliceFill line) := (sliceFill_memStep ..).2 h

theorem Canon.heldRelease {c : Chip} (h : Canon c) {vk} : Canon (c.heldRelease vk) := (heldRelease_memStep ..).2 h

theorem Canon.slotsTake {c : Chip} (h : Canon c) {vk n bottom} : Canon (c.slotsTake vk n bottom) := by
  unfold Chip.slotsTake
  extract_lets u1 x2
  exact .mk h

theorem Canon.vaultMoved {c : Chip} (h : Canon c) {vk q} : Canon (c.vaultMoved vk q) := (vaultMoved_memStep ..).2 h

theorem Canon.vaultServe {c : Chip} (h : Canon c) {vk q} : Canon (c.vaultServe vk q) := (vaultServe_memStep ..).2 h

theorem Canon.topTakes {c : Chip} (h : Canon c) {vk} : Canon (c.topTakes vk) := .mk h

theorem Canon.vaultTurn {c : Chip} (h : Canon c) {vk} : Canon (c.vaultTurn vk) := (vaultTurn_memStep ..).2 h

theorem Canon.pathStep {c : Chip} (h : Canon c) {sk} : Canon (c.pathStep sk) := (pathStep_memStep ..).2 h

theorem Canon.pathRun {a2 : Chip} (h : Canon a2) {sk a} : Canon (a2.pathRun sk a).1 := (pathRun_memStep ..).2 h

theorem Canon.lineAsk {c : Chip} (h : Canon c) {l op ah who} : Canon (c.lineAsk l op ah who).1 := (lineAsk_memStep ..).2 h

theorem Canon.sliceRead {c : Chip} (h : Canon c) {l ah who} : Canon (c.sliceRead l ah who).1 := (sliceRead_memStep ..).2 h

theorem Canon.sliceWrite {c : Chip} (h : Canon c) {l mask d ah who} : Canon (c.sliceWrite l mask d ah who).1 := (sliceWrite_memStep ..).2 h

theorem Canon.vaultRun {a2 : Chip} (h : Canon a2) {p a} : Canon (a2.vaultRun p a) := by
  induction a generalizing p a2 with
  | zero =>
    unfold Chip.vaultRun
    exact h
  | succ n ih =>
    unfold Chip.vaultRun
    split
    · exact ih h.vaultTurn
    · exact h

theorem Canon.flushQueued {c : Chip} (h : Canon c) {p} : Canon (c.flushQueued p) := h.vaultRun

theorem Canon.memWriteAs {c : Chip} (h : Canon c) {who a bs} : Canon (c.memWriteAs who a bs) := (memWriteAs_memStep ..).2 h

theorem Canon.memWrite {c : Chip} (h : Canon c) {a bs} : Canon (c.memWrite a bs) := (memWrite_memStep ..).2 h

theorem Canon.memWriteNum {c : Chip} (h : Canon c) {a n v} : Canon (c.memWriteNum a n v) := h.memWrite

theorem Canon.fetchGo {a5 : Chip} (h : Canon a5) {who ah a a3 a4} : Canon (a5.fetchGo who ah a a3 a4).1 := (fetchGo_memStep ..).2 h

theorem Canon.memFetch {c : Chip} (h : Canon c) {a n} : Canon (c.memFetch a n).1 := (memFetch_memStep ..).2 h

theorem Canon.memTouchAs {c : Chip} (h : Canon c) {who a n} : Canon (c.memTouchAs who a n) := h.fetchGo

theorem Canon.memTouch {c : Chip} (h : Canon c) {a n} : Canon (c.memTouch a n) := h.memFetch

theorem Canon.copyMem {c : Chip} (h : Canon c) {src dst n} : Canon (c.copyMem src dst n) := by
  unfold Chip.copyMem
  extract_lets bad1 r2
  have h3 : Canon r2.1 := h.memFetch
  clear_value r2
  exact .foldl h3.memWrite fun _ _ hd => hd.poisonLine

theorem Canon.makeRoom {c : Chip} (h : Canon c) {l} : Canon (c.makeRoom l) := .ite h h.vaultTurn

theorem Canon.cleanWay {c : Chip} (h : Canon c) {k} : Canon (c.cleanWay k) := by
  unfold Chip.cleanWay
  split
  · exact .ite h.makeRoom.vaultWrite.setWay h
  · exact h

theorem Canon.releaseEpochPins {c : Chip} (h : Canon c) : Canon c.releaseEpochPins := by
  unfold Chip.releaseEpochPins
  refine .foldl h fun d1 x3 h2 => ?_
  split
  · exact .ite h2.setWay h2
  · exact h2

theorem Canon.addStale {c : Chip} (h : Canon c) {sk e} : Canon (c.addStale sk e) := by
  unfold Chip.addStale
  extract_lets l1 x2
  exact .ite (.mk h) (.mk h)

theorem Canon.rawToPoison {c : Chip} (h : Canon c) {vk} : Canon (c.rawToPoison vk) := .foldl h fun _ _ hd => hd.dramWrite

theorem Canon.drainSlice {c : Chip} (h : Canon c) {sk} : Canon (c.drainSlice sk) := by
  unfold Chip.drainSlice
  extract_lets here1 ans2 held3 c4 x5
  have h6 : Canon c4 := h.flushQueued
  clear_value c4
  exact .mk h6

theorem Canon.dropSlice {c : Chip} (h : Canon c) {sk} : Canon (c.dropSlice sk) := by
  unfold Chip.dropSlice
  extract_lets c1 x2
  have h3 : Canon c1 := .foldl h fun _ _ hd => hd.setWay
  clear_value c1
  exact .mk h3

theorem Canon.selfRefreshEnter {c : Chip} (h : Canon c) {t v limit} : Canon (c.selfRefreshEnter t v limit) := by
  unfold Chip.selfRefreshEnter
  extract_lets sk1 c2 dirty3 n4 c5 lost6 c7 c8 c9 x10
  have h11 : Canon c2 := h.drainSlice
  have h12 : Canon c5 := (Canon.foldl h11 fun _ _ hd => hd.cleanWay).flushQueued
  have h13 : Canon c7 := h12.wrF
  have h14 : Canon c8 := by
    unfold c8
    refine .foldl h13 fun d15 x17 h16 => ?_
    split
    · exact h16.addStale
    · exact h16
  have h18 : Canon c9 := h14.rawToPoison.topTakes.wrF
  clear_value c2 c5 c7 c8 c9
  exact (Canon.mk h18).dropSlice

theorem Canon.retrainLanding {c : Chip} (h : Canon c) {t v layer needed} : Canon (c.retrainLanding t v layer needed) := by
  unfold Chip.retrainLanding
  extract_lets k1 x2 c3
  have h4 : Canon c3 := .mk h
  clear_value c3
  exact h4.bump

theorem Canon.selfRefreshLeave {c : Chip} (h : Canon c) {t v needed} : Canon (c.selfRefreshLeave t v needed) := by
  unfold Chip.selfRefreshLeave
  extract_lets c1
  have h2 : Canon c1 := .foldl h fun _ _ hd => .ite hd.retrainLanding hd
  clear_value c1
  exact h2.wrF

/-! ### The scalar core -/

theorem CanonNext.onLive {s : Machine.State} (h : Canon s.chip) {f : Chip → Chip} (hf : ∀ c, Canon c → Canon (f c)) : CanonNext (s.onLive f) :=
  onChip h fun c h => .ite h (hf c h)

theorem CanonNext.onInstr {s : Machine.State} (h : Canon s.chip) {f : Chip → Nat → Chip} (hf : ∀ c k, Canon c → Canon (f c k)) {g} :
    CanonNext (s.onInstr g f) :=
  onChip h fun _ h => h.galInstr fun c h => hf c _ h

theorem CanonNext.onWait {s : Machine.State} (h : Canon s.chip) {f : Chip → Nat → Chip} (hf : ∀ c k, Canon c → Canon (f c k)) {g} :
    CanonNext (s.onWait g f) :=
  onChip h fun c h => .ite (hf c _ h) h

theorem Canon.galLog {c : Chip} (h : Canon c) {g kind src} : Canon (c.galLog g kind src) := h.errLog

theorem Canon.upset {c : Chip} (h : Canon c) {g u} : Canon (c.upset g u) := by
  unfold Chip.upset
  extract_lets k1 mem2
  have hf_mem2 : ∀ y3 y4, Canon (mem2 y3 y4) := by
    intro y3 y4
    unfold mem2
    exact .ite h.onGal.galLog h.galLog
  split
  · exact hf_mem2 _ _
  · exact hf_mem2 _ _
  · exact hf_mem2 _ _
  · exact h.onGal.galLog
  · extract_lets put5
    exact h.onGal.galLog

theorem CanonNext.execScalarInstruction {s : Machine.State} (h : Canon s.chip) {x} : CanonNext (execScalarInstruction x s) :=
  onInstr h fun _ _ h => (Canon.foldl h fun _ _ hd => hd.upset).scalarInstr

theorem CanonNext.execMret {s : Machine.State} (h : Canon s.chip) {g} : CanonNext (execMret g s) :=
  onInstr h fun _ _ h => h.galMret

theorem CanonNext.execIssue {s : Machine.State} (h : Canon s.chip) {g rd rs1 q nb} : CanonNext (execIssue g rd rs1 q nb s) :=
  onInstr h fun _ _ h => h.issue

theorem CanonNext.execIssueQueueRoom {s : Machine.State} (h : Canon s.chip) {g} : CanonNext (execIssueQueueRoom g s) :=
  onWait h fun _ _ h => h.issueRoom

theorem CanonNext.execFenceq {s : Machine.State} (h : Canon s.chip) {g rs1} : CanonNext (execFenceq g rs1 s) :=
  onInstr h fun _ _ h => h.fenceq

theorem CanonNext.execFenceqDrained {s : Machine.State} (h : Canon s.chip) {g} : CanonNext (execFenceqDrained g s) :=
  onWait h fun _ _ h => h.fenceqDrained

theorem CanonNext.execStep {s : Machine.State} (h : Canon s.chip) {g rs1} : CanonNext (execStep g rs1 s) :=
  onInstr h fun _ _ h => h.step

theorem CanonNext.execStepHoldRelease {s : Machine.State} (h : Canon s.chip) {g} : CanonNext (execStepHoldRelease g s) :=
  onLive h fun _ h => h.holdRelease

theorem CanonNext.execEpoch {s : Machine.State} (h : Canon s.chip) {g rd} : CanonNext (execEpoch g rd s) :=
  onInstr h fun _ _ h => h.epochInstr

theorem CanonNext.execWaitc {s : Machine.State} (h : Canon s.chip) {g rd rs1 rs2} : CanonNext (execWaitc g rd rs1 rs2 s) :=
  onInstr h fun _ _ h => h.waitc

theorem CanonNext.execWaitcPoll {s : Machine.State} (h : Canon s.chip) {g rd rs1 rs2} : CanonNext (execWaitcPoll g rd rs1 rs2 s) :=
  onInstr h fun _ _ h => h.waitc

theorem CanonNext.execWaitcConditionMet {s : Machine.State} (h : Canon s.chip) {g} : CanonNext (execWaitcConditionMet g s) :=
  onWait h fun _ _ h => h.waitcMet

theorem CanonNext.execWaitTimeout {s : Machine.State} (h : Canon s.chip) {g} : CanonNext (execWaitTimeout g s) :=
  onWait h fun _ _ h => h.waitTimeout

theorem CanonNext.execSigc {s : Machine.State} (h : Canon s.chip) {g rs1 rs2} : CanonNext (execSigc g rs1 rs2 s) :=
  onInstr h fun _ _ h => h.sigc

theorem CanonNext.execSigcSet {s : Machine.State} (h : Canon s.chip) {g rs1 rs2} : CanonNext (execSigcSet g rs1 rs2 s) :=
  onInstr h fun _ _ h => h.sigc

theorem CanonNext.execRemoteSignalReceive {s : Machine.State} (h : Canon s.chip) {src dst} : CanonNext (execRemoteSignalReceive src dst s) :=
  onLive h fun _ h => h.rsigReceive

theorem CanonNext.execMarkPush {s : Machine.State} (h : Canon s.chip) {g rd rs1} : CanonNext (execMarkPush g rd rs1 s) :=
  onInstr h fun _ _ h => h.markPush

theorem CanonNext.execMarkPop {s : Machine.State} (h : Canon s.chip) {g rd} : CanonNext (execMarkPop g rd s) :=
  onInstr h fun _ _ h => h.markPop

theorem CanonNext.onGalReg {s : Machine.State} (h : Canon s.chip) {g f} : CanonNext (s.onGalReg g f) :=
  onLive h fun _ h => .ite h.onGal h

theorem Canon.haltClear {c : Chip} (h : Canon c) {k} : Canon (c.haltClear k) := by
  unfold Chip.haltClear
  extract_lets g1 x2
  exact .ite h.setGal h

theorem CanonNext.execGctlHalt {s : Machine.State} (h : Canon s.chip) {x} : CanonNext (execGctlHalt x s) := by
  refine onLive h fun c h => ?_
  extract_lets k1
  clear_value k1
  exact .ite h (.ite h.haltClear h.onGal)

theorem CanonNext.execGctlQrst {s : Machine.State} (h : Canon s.chip) {g mask} : CanonNext (execGctlQrst g mask s) := by
  refine onLive h fun c h => ?_
  extract_lets k1
  clear_value k1
  exact .ite h h.onGal.heldCredit

theorem CanonNext.execGfaultClear {s : Machine.State} (h : Canon s.chip) {g} : CanonNext (execGfaultClear g s) :=
  onGalReg h

theorem CanonNext.execGcredWrite {s : Machine.State} (h : Canon s.chip) {g v} : CanonNext (execGcredWrite g v s) :=
  onGalReg h

theorem CanonNext.execCoreParityError {s : Machine.State} (h : Canon s.chip) {g q} : CanonNext (execCoreParityError g q s) :=
  onLive h fun _ h => Canon.ite h.parityError.galLog h

theorem CanonNext.execUsherMailboxWrite {s : Machine.State} (h : Canon s.chip) {g n data} : CanonNext (execUsherMailboxWrite g n data s) :=
  onLive h fun _ h => Canon.ite h h.mailboxWrite

/-! ### Matrix commands -/

theorem CanonNext.onQueue {s : Machine.State} (h : Canon s.chip) {f : Chip → Nat → Chip} (hf : ∀ c k, Canon c → Canon (f c k)) {g q} :
    CanonNext (s.onQueue g q f) :=
  onChip h fun c h => .ite (hf c _ h) h

theorem Canon.mxRun {c : Chip} (h : Canon c) {k opc} : Canon (c.mxRun k opc) := h.onGal

theorem CanonNext.execMxLoad {s : Machine.State} (h : Canon s.chip) {g} : CanonNext (execMxLoad g s) :=
  onQueue h fun _ _ h => h.mxRun

theorem CanonNext.execMxStream {s : Machine.State} (h : Canon s.chip) {g} : CanonNext (execMxStream g s) :=
  onQueue h fun _ _ h => h.mxRun

theorem CanonNext.execMxStreamg {s : Machine.State} (h : Canon s.chip) {g} : CanonNext (execMxStreamg g s) :=
  onQueue h fun _ _ h => h.mxRun

theorem CanonNext.execMxStreamw {s : Machine.State} (h : Canon s.chip) {g} : CanonNext (execMxStreamw g s) :=
  onQueue h fun _ _ h => h.mxRun

theorem CanonNext.execMxKloop {s : Machine.State} (h : Canon s.chip) {g} : CanonNext (execMxKloop g s) :=
  onQueue h fun _ _ h => h.mxRun

theorem CanonNext.execMxFlush {s : Machine.State} (h : Canon s.chip) {g} : CanonNext (execMxFlush g s) :=
  onQueue h fun _ _ h => h.onGal

theorem CanonNext.execMxCfg {s : Machine.State} (h : Canon s.chip) {g} : CanonNext (execMxCfg g s) :=
  onQueue h fun _ _ h => h.onGal

theorem CanonNext.execMxSave {s : Machine.State} (h : Canon s.chip) {g} : CanonNext (execMxSave g s) :=
  onQueue h fun _ _ h => h.onGal

theorem CanonNext.execMxRestore {s : Machine.State} (h : Canon s.chip) {g} : CanonNext (execMxRestore g s) :=
  onQueue h fun _ _ h => h.onGal

theorem CanonNext.execMxPreemptionStop {s : Machine.State} (h : Canon s.chip) {g} : CanonNext (execMxPreemptionStop g s) :=
  onGalReg h

theorem CanonNext.execMxStopDrained {s : Machine.State} (h : Canon s.chip) {g tile row inLoad flush} : CanonNext
    (execMxStopDrained g tile row inLoad flush s) := by
  refine onLive h fun c h => ?_
  extract_lets k1 x2 c3 y4
  clear_value k1 x2 c3 y4
  exact .ite h h.setGal

theorem CanonNext.execMxGo {s : Machine.State} (h : Canon s.chip) {g} : CanonNext (execMxGo g s) := by
  refine onLive h fun c h => ?_
  extract_lets k1
  clear_value k1
  exact .ite h.onGal h

theorem CanonNext.execMxServiceRun {s : Machine.State} (h : Canon s.chip) {x} : CanonNext (execMxServiceRun x s) := by
  refine onLive h fun c h => ?_
  extract_lets k1 n2
  have h3 : Canon n2.2 := h.fresh
  clear_value k1 n2
  split
  · exact h
  · refine Canon.onGal ?_
    split
    · exact h3.onGal
    · exact h3

/-! ### The arcade -/

theorem Canon.setArc {c : Chip} (h : Canon c) {k e st} : Canon (c.setArc k e st) := h.onGal

theorem Canon.arcSend {c : Chip} (h : Canon c) {k e status xs} : Canon (c.arcSend k e status xs) := .ite h.setArc (.mk h.onGal.setArc)

theorem Canon.arcPut {c : Chip} (h : Canon c) {k e} : Canon (c.arcPut k e) := by
  unfold Chip.arcPut
  extract_lets d1 g2 rb3 nr4 sstr5 dstr6 sa7 da8 dt9 dg10 sch11 flowOk12
  exact .ite h.setArc (.ite h.setArc (.ite h.setArc (.ite h.setArc h.arcSend)))

theorem Canon.arcMcast {c : Chip} (h : Canon c) {k e} : Canon (c.arcMcast k e) := by
  unfold Chip.arcMcast
  extract_lets d1 g2 nb3 sa4 da5 sch6 fl7 rect8 ts9 flowOk10
  exact .ite h.setArc (.ite h.setArc (.ite h.setArc h.arcSend))

theorem Canon.arcIsend {c : Chip} (h : Canon c) {k e} : Canon (c.arcIsend k e) := by
  unfold Chip.arcIsend
  extract_lets d1 g2 n3 ta4 s5 r6
  exact .ite h.setArc (.ite h.setArc h.arcSend)

theorem Canon.arcSig {c : Chip} (h : Canon c) {k e} : Canon (c.arcSig k e) := by
  unfold Chip.arcSig
  extract_lets d1 dt2
  exact .ite h.setArc h.arcSend

theorem Canon.arcMsg {c : Chip} (h : Canon c) {k e} : Canon (c.arcMsg k e) := by
  unfold Chip.arcMsg
  extract_lets d1 g2 sa3 n4
  exact .ite h.setArc (.ite h.setArc (.ite h.setArc h.arcSend))

theorem Canon.arcRun {f : Chip → ℕ → QEntry → Chip} {c : Chip} (h : Canon c) (hf : ∀ y0 y1 y2, Canon y0 → Canon (f y0 y1 y2)) {k opc} : Canon
    (c.arcRun k opc f) := by
  unfold Chip.arcRun
  split
  · exact h
  · exact hf _ _ _ h

theorem Canon.setXfer {c : Chip} (h : Canon c) {n x} : Canon (c.setXfer n x) := .mk h

theorem Canon.shadowSend {c : Chip} (h : Canon c) {t ls} : Canon (c.shadowSend t ls) := .foldl h fun _ _ hd => hd.sliceWrite

theorem Canon.deliverAt {c : Chip} (h : Canon c) {n k x} : Canon (c.deliverAt n k x) := by
  unfold Chip.deliverAt
  split
  · exact h.bump.setXfer
  · split
    · exact h.onGal.setXfer
    · extract_lets g1 l2 base3 g4 g5 g6
      exact .ite h.setXfer h.setGal.setXfer
    · extract_lets g7 g8
      exact h.setGal.setXfer

theorem Canon.deliver {c : Chip} (h : Canon c) {n k x} : Canon (c.deliver n k x) := .ite h.deliverAt (.ite h h.deliverAt.shadowSend)

theorem Canon.refuse {c : Chip} (h : Canon c) {n k x} : Canon (c.refuse n k x) := by
  unfold Chip.refuse
  extract_lets c1
  have h2 : Canon c1 := by
    unfold c1
    split
    · exact h.bump
    · exact h
  clear_value c1
  exact h2.setXfer

theorem Canon.backPressure {c : Chip} (h : Canon c) {n x} : Canon (c.backPressure n x) := by
  unfold Chip.backPressure
  split
  · exact h
  · extract_lets f1
    exact .ite h.setXfer h

theorem Canon.xferReceive {c : Chip} (h : Canon c) {n crc} : Canon (c.xferReceive n crc) := by
  unfold Chip.xferReceive
  split
  · exact h
  · extract_lets k1 x2
    exact .ite h (.ite h.backPressure (.ite h.setXfer (.ite h.refuse (.ite h.setXfer h.deliver))))

theorem Canon.ingressResume {c : Chip} (h : Canon c) {k sched} : Canon (c.ingressResume k sched) := by
  unfold Chip.ingressResume
  split
  · exact h
  · split
    · exact h
    · exact .ite h.refuse (.ite h h.deliver)

theorem Canon.xferGone {c : Chip} (h : Canon c) {n x} : Canon (c.xferGone n x) := by
  unfold Chip.xferGone
  extract_lets rest1
  exact .mk h

theorem Canon.xferDone {c : Chip} (h : Canon c) {n x status} : Canon (c.xferDone n x status) := by
  unfold Chip.xferDone
  extract_lets c1
  have h2 : Canon c1 := h.xferGone
  clear_value c1
  split
  · exact h2
  · split
    · extract_lets st3
      exact .ite h2.setArc h2.setArc
    · exact h2

theorem Canon.dropXfers {c : Chip} (h : Canon c) {p} : Canon (c.dropXfers p) := by
  unfold Chip.dropXfers
  extract_lets lost1
  exact .mk h

theorem Canon.ackReceive {c : Chip} (h : Canon c) {n} : Canon (c.ackReceive n) := by
  unfold Chip.ackReceive
  split
  · exact h
  · split
    · exact h.xferGone
    · split
      · exact h.xferDone
      · exact h.xferDone
      · exact .ite h.setXfer h.xferDone
      · exact h

theorem Canon.refuseHeld {c : Chip} (h : Canon c) {k a} : Canon (c.refuseHeld k a) := by
  induction a with
  | zero =>
    unfold Chip.refuseHeld
    exact h
  | succ n ih =>
    unfold Chip.refuseHeld
    extract_lets c1
    have h2 : Canon c1 := ih
    clear_value c1
    split
    · exact .ite h2.refuse h2
    · exact h2

theorem Canon.fenceGallery {c : Chip} (h : Canon c) {k cause} : Canon (c.fenceGallery k cause) := by
  unfold Chip.fenceGallery
  extract_lets c1 c2
  have h3 : Canon c1 := h.ownWrF.event
  have h4 : Canon c2 := .ite h3.wrF h3
  clear_value c1 c2
  exact h4.refuseHeld.dropXfers

theorem Canon.mcastStall {c : Chip} (h : Canon c) {fork n} : Canon (c.mcastStall fork n) := by
  unfold Chip.mcastStall
  split
  · exact h
  · exact .ite h.setXfer.report.event h

/-! ### Commands of the arcade -/

theorem CanonNext.execArcPut {s : Machine.State} (h : Canon s.chip) {g} : CanonNext (execArcPut g s) :=
  onQueue h fun _ _ h => (.arcRun h (fun _ _ _ hd => hd.arcPut))

theorem CanonNext.execArcMcast {s : Machine.State} (h : Canon s.chip) {g} : CanonNext (execArcMcast g s) :=
  onQueue h fun _ _ h => (.arcRun h (fun _ _ _ hd => hd.arcMcast))

theorem CanonNext.execArcIsend {s : Machine.State} (h : Canon s.chip) {g} : CanonNext (execArcIsend g s) :=
  onQueue h fun _ _ h => (.arcRun h (fun _ _ _ hd => hd.arcIsend))

theorem CanonNext.execArcSig {s : Machine.State} (h : Canon s.chip) {g} : CanonNext (execArcSig g s) :=
  onQueue h fun _ _ h => (.arcRun h (fun _ _ _ hd => hd.arcSig))

theorem CanonNext.execArcMsg {s : Machine.State} (h : Canon s.chip) {g} : CanonNext (execArcMsg g s) :=
  onQueue h fun _ _ h => (.arcRun h (fun _ _ _ hd => hd.arcMsg))

theorem CanonNext.execArcTransferReceive {s : Machine.State} (h : Canon s.chip) {n crc} : CanonNext (execArcTransferReceive n crc s) :=
  onLive h fun _ h => h.xferReceive

theorem CanonNext.execArcAckReceive {s : Machine.State} (h : Canon s.chip) {n} : CanonNext (execArcAckReceive n s) :=
  onLive h fun _ h => h.ackReceive

theorem CanonNext.execIngressDeliveryResume {s : Machine.State} (h : Canon s.chip) {g sched} : CanonNext (execIngressDeliveryResume g sched s) :=
  onLive h fun _ h => h.ingressResume

theorem CanonNext.execMsgRingHeadWrite {s : Machine.State} (h : Canon s.chip) {g head} : CanonNext (execMsgRingHeadWrite g head s) :=
  onGalReg h

theorem CanonNext.execMcastStall {s : Machine.State} (h : Canon s.chip) {t p n} : CanonNext (execMcastStall t p n s) :=
  onLive h fun _ h => h.mcastStall

theorem CanonNext.execRetentionWake {s : Machine.State} (h : Canon s.chip) {g cause} : CanonNext (execRetentionWake g cause s) :=
  onLive h fun _ h => Canon.ite h.retentionWake h

/-! ### The journal -/

theorem Canon.critWrite {c : Chip} (h : Canon c) {off v} : Canon (c.critWrite off v) := .foldl h fun _ _ hd => hd.memWriteNum

theorem Canon.critRead {c : Chip} (h : Canon c) {off} : Canon (c.critRead off).1 := by
  unfold Chip.critRead
  extract_lets c1
  have h2 : Canon c1 := Canon.foldl h fun _ _ h40 => h40.memTouch
  clear_value c1
  split
  · exact h2
  · exact Canon.foldl h2 fun _ _ hd => (Canon.ite hd (Canon.ite hd hd.memWriteNum).memWriteNum)

theorem Canon.journal {c : Chip} (h : Canon c) {kind ticket body} : Canon (c.journal kind ticket body) := by
  unfold Chip.journal
  extract_lets s1 e2 c3 c4 h5 c6 x7
  have h8 : Canon c3 := h.memWrite
  have h9 : Canon c4 := h8.critWrite.wrF
  have h10 : Canon c6 := .ite h9.critWrite.wrF h9
  clear_value c3 c4 c6
  exact .ite h10 (.mk h10)

theorem Canon.setCq {c : Chip} (h : Canon c) {q v} : Canon (c.setCq q v) := .mk h

theorem Canon.postNow {c : Chip} (h : Canon c) {q m} : Canon (c.postNow q m) := by
  unfold Chip.postNow
  extract_lets idx1 own2 c3 seq4 r5 e6 nt7 c8 c9 n10 due11
  have h12 : Canon c3 := .ite h.journal h
  have h13 : Canon c8 := .mk h12
  have h14 : Canon c9 := h13.wrF
  clear_value c3 c8 c9
  exact h14.setCq

theorem Canon.post {c : Chip} (h : Canon c) {q m} : Canon (c.post q m) := .ite (.ite h.journal h) (.ite h.setCq h.postNow)

theorem Canon.postKept {c : Chip} (h : Canon c) {q a} : Canon (c.postKept q a) := by
  induction a generalizing c q with
  | zero =>
    unfold Chip.postKept
    exact h
  | succ n ih =>
    unfold Chip.postKept
    split
    · exact h
    · exact .ite (ih h.setCq.postNow) h

theorem Canon.noticeNow {c : Chip} (h : Canon c) {code sev unit detail} : Canon (c.noticeNow code sev unit detail) := by
  unfold Chip.noticeNow
  extract_lets body1 c2
  have h3 : Canon c2 := h.journal
  clear_value c2
  exact h3.post

theorem Canon.alert {c : Chip} (h : Canon c) {cause} : Canon (c.alert cause) := .mk h

theorem Canon.notice {c : Chip} (h : Canon c) {code sev unit detail} : Canon (c.notice code sev unit detail) :=
  .ite (.ite h.noticeNow.alert h.noticeNow) (.mk h)

theorem Canon.healthNote {c : Chip} (h : Canon c) {page i n} : Canon (c.healthNote page i n) := by
  unfold Chip.healthNote
  extract_lets code1
  exact h.notice

theorem Canon.postEarly {c : Chip} (h : Canon c) : Canon c.postEarly := by
  unfold Chip.postEarly
  extract_lets l1 x2
  exact .foldl (.mk h) fun _ _ hd => hd.notice

/-! ### The stair -/

theorem Canon.stReadGo {a5 : Chip} (h : Canon a5) {k ah a a3 a4} : Canon (a5.stReadGo k ah a a3 a4).1 := by
  induction a generalizing k ah a3 a4 a5 with
  | zero =>
    unfold Chip.stReadGo
    exact h
  | succ n ih =>
    unfold Chip.stReadGo
    split
    · exact h
    · extract_lets m1
      split
      · split
        next d3 _ _ e6 =>
          have h7 : Canon d3 := .of_fst h.sliceRead e6
          split
          · split
            next d9 _ e11 =>
              have h12 : Canon d9 := .of_fst (ih h7) e11
              exact h12
          · exact h7
      · exact h

theorem Canon.stRead {c : Chip} (h : Canon c) {k rid ah a n} : Canon (c.stRead k rid ah a n).1 := by
  unfold Chip.stRead
  split
  next d2 _ e4 =>
    have h5 : Canon d2 := .of_fst h.stReadGo e4
    split
    · exact h5.onGal
    · exact h5

theorem Canon.stWriteGo {a5 : Chip} (h : Canon a5) {k ah a a3 a4} : Canon (a5.stWriteGo k ah a a3 a4).1 := by
  induction a generalizing k ah a3 a4 a5 with
  | zero =>
    unfold Chip.stWriteGo
    exact h
  | succ n ih =>
    unfold Chip.stWriteGo
    split
    · exact h
    · extract_lets m1 sh2
      split
      · split
        next d4 _ e6 =>
          have h7 : Canon d4 := .of_fst h.sliceWrite e6
          split
          · exact ih h7
          · exact h7
      · exact h

theorem Canon.stWrite {c : Chip} (h : Canon c) {k rid ah a bs} : Canon (c.stWrite k rid ah a bs).1 := by
  unfold Chip.stWrite
  split
  next d2 _ e4 =>
    have h5 : Canon d2 := .of_fst h.stWriteGo e4
    split
    · exact h5.onGal
    · exact h5

theorem Canon.stEach {f : ℕ → Chip → Chip × Option StFault} {c : Chip} (h : Canon c) (hf : ∀ y0 y1, Canon y1 → Canon (f y0 y1).1) {i a} : Canon
    (c.stEach f i a).1 := by
  induction a generalizing f i c with
  | zero =>
    unfold Chip.stEach
    exact h
  | succ n ih =>
    unfold Chip.stEach
    split
    next d2 e3 =>
      have h4 : Canon d2 := .of_fst (hf _ _ h) e3
      refine ih ?_ ?_
      · exact h4
      · intro x5 d6 h7
        exact hf _ _ h7
    · exact hf _ _ h

theorem Canon.stSpadPut {c : Chip} (h : Canon c) {k a bs} : Canon (c.stSpadPut k a bs).1 := by
  unfold Chip.stSpadPut
  split
  · exact h.onGal
  · exact h

theorem Canon.stMemRow {c : Chip} (h : Canon c) {m s r e0 n} : Canon (c.stMemRow m s r e0 n).1 := by
  unfold Chip.stMemRow
  extract_lets f1
  split
  next d3 _ e5 =>
    have h6 : Canon d3 := .of_fst h.stRead e5
    exact h6
  next d8 _ e10 =>
    have h11 : Canon d8 := .of_fst h.stRead e10
    split
    · split
      next d13 _ e15 =>
        have h16 : Canon d13 := .of_fst h11.stRead e15
        exact h16
      next d18 _ e20 =>
        have h21 : Canon d18 := .of_fst h11.stRead e20
        exact h21
    · exact h11

theorem Canon.stMemPut {c : Chip} (h : Canon c) {m s r e0 q} : Canon (c.stMemPut m s r e0 q).1 := by
  unfold Chip.stMemPut
  extract_lets f1
  split
  next d3 e4 =>
    have h5 : Canon d3 := .of_fst h.stWrite e4
    split
    · exact h5.stWrite
    · exact h5
  · exact h.stWrite

theorem Canon.stSpadRowPut {c : Chip} (h : Canon c) {m len r e0 q} : Canon (c.stSpadRowPut m len r e0 q).1 := by
  unfold Chip.stSpadRowPut
  extract_lets a1
  split
  next d3 e4 =>
    have h5 : Canon d3 := .of_fst h.stSpadPut e4
    exact h5.stSpadPut
  · exact h.stSpadPut

theorem Canon.stLoadRow {c : Chip} (h : Canon c) {m s r} : Canon (c.stLoadRow m s r).1 := by
  unfold Chip.stLoadRow
  split
  · split
    next d2 _ e4 =>
      have h5 : Canon d2 := .of_fst h.stMemRow e4
      exact h5
    next d7 _ e9 =>
      have h10 : Canon d7 := .of_fst h.stMemRow e9
      exact h10.stSpadRowPut
  · exact h

theorem Canon.stStoreRow {c : Chip} (h : Canon c) {m s r} : Canon (c.stStoreRow m s r).1 := by
  unfold Chip.stStoreRow
  split
  · split
    · exact h
    · exact h.stMemPut
  · exact h

theorem Canon.gather {α : Type} {f : Nat → Chip → Chip × Except StFault α} {c : Chip} (h : Canon c)
    (hf : ∀ i c, Canon c → Canon (f i c).1) {i n} : Canon (Chip.gather f i c n).1 := by
  induction n generalizing c i with
  | zero => exact h
  | succ n ih =>
    unfold Chip.gather
    split
    next d _ e => exact .of_fst (hf _ _ h) e
    next d _ e =>
      have h1 : Canon d := .of_fst (hf _ _ h) e
      split
      next e' => exact .of_fst (ih h1) e'
      next e' => exact .of_fst (ih h1) e'

theorem Canon.stLoadBand {c : Chip} (h : Canon c) {m s cb} : Canon (c.stLoadBand m s cb).1 := by
  unfold Chip.stLoadBand
  split
  next d2 _ e4 =>
    have h5 : Canon d2 := .of_fst (.gather h (fun _ _ hd => hd.stMemRow)) e4
    exact h5
  next d7 _ e9 =>
    have h10 : Canon d7 := .of_fst (.gather h (fun _ _ hd => hd.stMemRow)) e9
    refine Canon.stEach ?_ ?_
    · exact h10
    · intro x11 d12 h13
      extract_lets row14
      clear_value row14
      split
      · exact h13.stSpadRowPut
      · exact h13

theorem Canon.stStoreBand {c : Chip} (h : Canon c) {m s rb} : Canon (c.stStoreBand m s rb).1 := by
  unfold Chip.stStoreBand
  extract_lets read1
  have hf_read1 : ∀ y2 y3, Canon y3 → Canon (read1 y2 y3).1 := by
    intro y2 y3 h4
    unfold read1
    split
    · exact h4
    · exact h4
  split
  next d6 _ e8 =>
    have h9 : Canon d6 := .of_fst (.gather h (fun _ _ hd => (hf_read1 _ _ hd))) e8
    exact h9
  next d11 _ e13 =>
    have h14 : Canon d11 := .of_fst (.gather h (fun _ _ hd => (hf_read1 _ _ hd))) e13
    exact .stEach h14 (fun _ _ hd => hd.stMemPut)

theorem Canon.stEnd {c : Chip} (h : Canon c) {k e r} : Canon (c.stEnd k e r) := h.onGal

theorem Canon.stMoveRun {c : Chip} (h : Canon c) {load k e} : Canon (c.stMoveRun load k e) := by
  unfold Chip.stMoveRun
  extract_lets m
  split
  · exact h.stEnd
  next s _ =>
    split
    next d r e1 =>
    refine Canon.stEnd (Canon.of_fst ?_ e1)
    split
    · split
      · exact h.stEach fun _ _ h => h.stLoadBand
      · exact h.stEach fun _ _ h => h.stStoreBand
    · refine h.stEach fun _ _ h => ?_
      split
      · exact h.stLoadRow
      · exact h.stStoreRow

theorem Canon.stGatherEntry {c : Chip} (h : Canon c) {e k x row0 rows} : Canon (c.stGatherEntry e k x row0 rows).1 := by
  unfold Chip.stGatherEntry
  extract_lets el1 pr2 m3 a4 b5 sb6 s7
  refine Canon.stEach ?_ ?_
  · exact h
  · intro x8 d9 h10
    split
    · split
      next d12 _ e14 =>
        have h15 : Canon d12 := .of_fst h10.stMemRow e14
        exact h15
      next d17 _ e19 =>
        have h20 : Canon d17 := .of_fst h10.stMemRow e19
        exact h20.stSpadRowPut
    · exact h10

theorem Canon.stGather {c : Chip} (h : Canon c) {k e} : Canon (c.stGather k e) := by
  unfold Chip.stGather
  extract_lets d1 la2 n3 pr4 last5
  split
  · exact h.stEnd
  · split
    next d7 _ e9 =>
      have h10 : Canon d7 := by
        refine Canon.of_fst ?_ e9
        refine Canon.stEach ?_ ?_
        · exact h
        · intro x11 d12 h13
          extract_lets x14
          split
          · exact h13
          · split
            · exact h13
            · exact h13.stGatherEntry
      exact h10.stEnd

theorem Canon.stScatter {c : Chip} (h : Canon c) {k e} : Canon (c.stScatter k e) := by
  unfold Chip.stScatter
  extract_lets d1 la2 n3 el4
  split
  · exact h.stEnd
  · split
    next d6 _ e8 =>
      have h9 : Canon d6 := by
        refine Canon.of_fst ?_ e8
        refine Canon.stEach ?_ ?_
        · exact h
        · intro x10 d11 h12
          extract_lets x13 m14 s15
          split
          · exact h12
          · split
            · exact h12
            · exact h12.stStoreRow
      exact h9.stEnd

theorem Canon.cmoLine {c : Chip} (h : Canon c) {op k l} : Canon (c.cmoLine op k l).1 := by
  unfold Chip.cmoLine
  split
  · split
    · split
      · exact h.sliceRead
      · exact h.sliceRead
      · split
        · exact h
        · split
          · split
            · exact .ite h.setWay h
            · exact h
          · exact .ite h.cleanWay.setWay h.cleanWay
    · exact h
  · exact h

theorem Canon.stCmo {c : Chip} (h : Canon c) {op k e} : Canon (c.stCmo op k e) := by
  unfold Chip.stCmo
  extract_lets d1 l2
  split
  next d4 _ e6 =>
    have h7 : Canon d4 := .of_fst (.stEach h (fun _ _ hd => hd.cmoLine)) e6
    exact h7.stEnd

theorem Canon.stairRun {f : Chip → ℕ → QEntry → Chip} {c : Chip} (h : Canon c) (hf : ∀ y0 y1 y2, Canon y0 → Canon (f y0 y1 y2)) {k p} : Canon
    (c.stairRun k p f) := by
  unfold Chip.stairRun
  split
  · exact hf _ _ _ h
  · exact h

/-! ### Chanters -/

theorem Canon.setCluster {c : Chip} (h : Canon c) {k x} : Canon (c.setCluster k x) := by
  unfold Chip.setCluster
  extract_lets r1
  exact (Canon.mk h).wr

theorem Canon.setChanter {c : Chip} (h : Canon c) {k i x} : Canon (c.setChanter k i x) := by
  unfold Chip.setChanter
  extract_lets v1
  exact h.setCluster

theorem Canon.onChanter {c : Chip} (h : Canon c) {k i f} : Canon (c.onChanter k i f) := h.setChanter

theorem Canon.declare {c : Chip} (h : Canon c) {r} : Canon (c.declare r) := by
  unfold Chip.declare
  refine .foldl h fun d1 x3 h2 => ?_
  extract_lets k4 x5
  exact .mk h2

theorem Canon.release {c : Chip} (h : Canon c) {r} : Canon (c.release r) := by
  unfold Chip.release
  refine .foldl h fun d1 x3 h2 => ?_
  extract_lets k4 x5
  exact .mk h2

theorem Canon.cleanRange {c : Chip} (h : Canon c) {r} : Canon (c.cleanRange r) := by
  unfold Chip.cleanRange
  extract_lets c1
  have h2 : Canon c1 := h.flushQueued
  clear_value c1
  refine .foldl h2 fun d3 x5 h4 => ?_
  split
  · exact .ite h4.cleanWay h4
  · exact h4

theorem Canon.jobEvent {c : Chip} (h : Canon c) {k i start status id} : Canon (c.jobEvent k i start status id) := h.event

theorem Canon.workEnded {c : Chip} (h : Canon c) {k id status} : Canon (c.workEnded k id status) := by
  unfold Chip.workEnded
  extract_lets mark1 x2
  exact .mk h

theorem Canon.jobReport {c : Chip} (h : Canon c) {k i r status result} : Canon (c.jobReport k i r status result) := h.workEnded.report.jobEvent

theorem Canon.jobEnd {c : Chip} (h : Canon c) {k i status result} : Canon (c.jobEnd k i status result) := by
  unfold Chip.jobEnd
  split
  · exact h
  · extract_lets c1 c2
    have h3 : Canon c1 := .ite (.foldl h fun _ _ hd => hd.release) h
    have h4 : Canon c2 := h3.onChanter
    clear_value c1 c2
    exact h4.jobReport

theorem Canon.jobRun {c : Chip} (h : Canon c) {k i j} : Canon (c.jobRun k i j) := by
  unfold Chip.jobRun
  extract_lets x1 x2 x3 x4
  exact h.setChanter.jobEvent

theorem Canon.jobStart {c : Chip} (h : Canon c) {k} : Canon (c.jobStart k) := by
  unfold Chip.jobStart
  extract_lets v1 bgRunning2
  clear_value v1 bgRunning2
  split
  · exact h
  · split
    · exact h
    · extract_lets drop3 pick4
      have h5 : Canon drop3 := h.setCluster
      clear_value drop3 pick4
      split
      · exact h5.bump.jobReport
      · split
        · exact h5.jobReport
        · split
          · exact h
          · split
            · exact h
            · exact .ite (.ite h5.jobRun h5.onChanter) h

theorem Canon.rangesDeclared {c : Chip} (h : Canon c) {k i} : Canon (c.rangesDeclared k i) := by
  unfold Chip.rangesDeclared
  split
  · exact Canon.ite h (Canon.ite (Canon.foldl (Canon.foldl h fun _ _ h35 => h35.cleanRange) fun _ _ hd => hd.declare).jobRun h)
  · exact h

theorem Canon.abortJobs {c : Chip} (h : Canon c) {k} : Canon (c.abortJobs k) := by
  unfold Chip.abortJobs
  extract_lets c1 q2 x3 c4
  have h5 : Canon c1 := .foldl h fun _ _ hd => hd.jobEnd
  have h6 : Canon c4 := h5.setCluster
  clear_value c1 c4
  exact .foldl h6 fun _ _ hd => hd.jobReport

theorem Canon.opIssue {c : Chip} (h : Canon c) {k i line kind} : Canon (c.opIssue k i line kind) := by
  unfold Chip.opIssue
  extract_lets x1 ok2 st3 c4
  have h5 : Canon c4 := .mk h
  clear_value x1 ok2 st3 c4
  split
  · exact h5.setChanter
  · exact h5.setChanter
  · exact h5.setChanter

theorem Canon.opFill {c : Chip} (h : Canon c) {k i a} : Canon (c.opFill k i a) := by
  induction a generalizing c k i with
  | zero =>
    unfold Chip.opFill
    exact h
  | succ n ih =>
    unfold Chip.opFill
    extract_lets c1 x2
    have h3 : Canon c1 := h.onChanter
    clear_value c1
    split
    · exact h3
    · exact .ite (ih h3.setChanter.opIssue) h3

theorem Canon.copiesOn {c : Chip} (h : Canon c) {k i} : Canon (c.copiesOn k i) := h.opFill

theorem Canon.countLines {c : Chip} (h : Canon c) {vk n wr} : Canon (c.countLines vk n wr) := h.bump

theorem Canon.bottomRead {c : Chip} (h : Canon c) {k vk l} : Canon (c.bottomRead k vk l).1 := h.decodeRead.countLines

theorem Canon.bottomWrite {c : Chip} (h : Canon c) {vk l d} : Canon (c.bottomWrite vk l d) := h.dramWrite.countLines

theorem Canon.bottomDo_wr {c : Chip} (h : Canon c) {vk k i o d} : Canon (Chip.bottomDo.wr vk c k i o d) := by
  unfold Chip.bottomDo.wr
  exact (Canon.mk h.bottomWrite).onChanter

theorem Canon.bottomDo {c : Chip} (h : Canon c) {vk e} : Canon (c.bottomDo vk e) := by
  unfold Chip.bottomDo
  split
  next k i o =>
  extract_lets c1
  have h1 : Canon c1 := h.slotsTake
  clear_value c1
  split
  · split
    next d _ _ e =>
    have h2 : Canon d := .of_fst h1.bottomRead e
    exact h2.onChanter
  · split
    next d _ _ e =>
    have h2 : Canon d := .of_fst h1.bottomRead e
    exact .ite h2.onChanter.copiesOn (.ite h2.onChanter h2.onChanter.copiesOn)
  · exact h1.bottomDo_wr
  · exact h1.bottomDo_wr

theorem Canon.burstGo {c : Chip} (h : Canon c) {vk wr a} : Canon (c.burstGo vk wr a) := by
  induction a generalizing c vk wr with
  | zero =>
    unfold Chip.burstGo
    exact h
  | succ n ih =>
    unfold Chip.burstGo
    split
    · exact .ite (ih h.bottomDo) h
    · exact h

theorem Canon.bottomBurst {c : Chip} (h : Canon c) {vk n} : Canon (c.bottomBurst vk n) := by
  unfold Chip.bottomBurst
  extract_lets n1 held2 atEnd3 may4 x5 c6
  have h7 : Canon c6 := .mk h
  clear_value c6
  split
  · exact .ite h7.burstGo h
  · exact h

theorem Canon.abandonBurst {c : Chip} (h : Canon c) {vk wr a} : Canon (c.abandonBurst vk wr a) := by
  induction a generalizing c vk wr with
  | zero =>
    unfold Chip.abandonBurst
    exact h
  | succ n ih =>
    unfold Chip.abandonBurst
    split
    · exact .ite (ih h.onChanter) h
    · exact h

theorem Canon.tokenSplit {c : Chip} (h : Canon c) {vk} : Canon (c.tokenSplit vk) := by
  unfold Chip.tokenSplit
  extract_lets x1 c2
  have h3 : Canon c2 := .mk h
  clear_value c2
  split
  · exact h3.abandonBurst
  · exact h3

theorem Canon.tokenHandoff {c : Chip} (h : Canon c) {vk} : Canon (c.tokenHandoff vk) := by
  unfold Chip.tokenHandoff
  extract_lets held1 x2 set3
  have hf_set3 : ∀ y4, Canon (set3 y4) := by
    intro y4
    unfold set3
    exact .mk h
  exact .ite (.ite (hf_set3 _) h) (.ite (hf_set3 _) h)

theorem Canon.readArrive {c : Chip} (h : Canon c) {k i} : Canon (c.readArrive k i) := by
  unfold Chip.readArrive
  extract_lets x1 here2
  split
  · exact h
  · extract_lets qn3 put4 x5 x6
    exact h.setChanter.copiesOn

theorem Canon.opGiveUp {c : Chip} (h : Canon c) {k i o} : Canon (c.opGiveUp k i o) := h.onChanter.copiesOn

theorem Canon.opRetry {c : Chip} (h : Canon c) {k i} : Canon (c.opRetry k i) := by
  unfold Chip.opRetry
  extract_lets x1
  split
  · exact h
  · exact .ite h.setChanter h.opGiveUp

theorem Canon.opsComplete {c : Chip} (h : Canon c) {k i n} : Canon (c.opsComplete k i n) := by
  induction n generalizing c with
  | zero => exact h
  | succ n ih =>
    have e : c.opsComplete k i (n + 1) = match (c.chanter k i).ops.find? fun o => o.st == .queued || o.st == .retry with
      | some o =>
        if c.chWay k o.line then Chip.opsComplete (c.bottomDo (lineHome o.line) (k, i, o)) k i n
        else Chip.opsComplete (c.opGiveUp k i o) k i n
      | none =>
        if (c.chanter k i).ops.any fun o => (match o.st with | .arrived _ _ => true | .refused => true | _ => false)
        then Chip.opsComplete (c.readArrive k i) k i n else c := rfl
    rw [e]
    split
    · exact .ite (ih h.bottomDo) (ih h.opGiveUp)
    · exact .ite (ih h.readArrive) h

theorem Canon.jobCancel {c : Chip} (h : Canon c) {k id} : Canon (c.jobCancel k id) := by
  unfold Chip.jobCancel
  extract_lets v1
  split
  · exact h.setCluster.jobReport
  · split
    · exact h.onChanter.opsComplete.jobEnd
    · exact h

theorem Canon.chTrap {c : Chip} (h : Canon c) {k i cause tval} : Canon (c.chTrap k i cause tval) := by
  unfold Chip.chTrap
  extract_lets x1 t2 p3 g4 c5 c6 c7 c8
  have h9 : Canon c5 := h.report
  have h10 : Canon c6 := h9.event
  have h11 : Canon c7 := h10.event
  have h12 : Canon c8 := h11.event
  clear_value c5 c6 c7 c8
  exact .ite h12.jobEnd h12.setChanter

/-- A store of a chanter that is answered at all. -/
theorem Canon.chStore {c d : Chip} (h : Canon c) {k i b a v n} (e : c.chStore k i b a v = .ok (d, n)) : Canon d := by
  unfold Chip.chStore at e
  dsimp only at e
  split at e
  · cases e
  · split at e
    · cases e; exact h.onChanter
    · split at e
      · cases e; exact h.onChanter
      · cases e

theorem Canon.chCustom {c : Chip} (h : Canon c) {k i w} : ∀ d ∈ c.chCustom k i w, Canon d := by
  unfold Chip.chCustom
  extract_lets n1 x2 rd3 f4 r5 r6 f7 a8 b9 op10 put11 c12 full13 d14 s15 d16 cnt17 crosses18 x19 cfg20 je21
  have hf_put11 : ∀ y22, ∀ d ∈ put11 y22, Canon d := by
    intro y22
    unfold put11
    exact forall_mem_some h.setChanter
  have h23 : Canon c12 := h.copiesOn
  clear_value n1 x2 rd3 f4 r5 r6 f7 a8 b9 op10 c12 full13 d14 s15 d16 cnt17 x19 cfg20 je21
  split
  · split
    · split
      · exact forall_mem_none
      · split
        · exact forall_mem_some h.chTrap
        · split
          · exact forall_mem_some h
          · exact forall_mem_some h23.opIssue.onChanter
    · split
      · exact forall_mem_none
      · split
        · exact forall_mem_some h.chTrap
        · split
          · exact forall_mem_some h
          · exact forall_mem_some h23.opIssue.onChanter
    · split
      · exact forall_mem_none
      · split
        · exact forall_mem_some h.chTrap
        · split
          · exact forall_mem_some h.chTrap
          · split
            · exact hf_put11 _
            · exact forall_mem_some h23.setChanter.copiesOn
    · split
      · exact forall_mem_none
      · split
        · exact forall_mem_some h23.onChanter
        · exact forall_mem_some h23
    · split
      · exact forall_mem_none
      · split
        · exact forall_mem_some h23.onChanter.jobEnd
        · exact forall_mem_some h23
    · exact forall_mem_none
  · split
    · split
      · exact forall_mem_none
      · split
        · exact forall_mem_some h
        · exact hf_put11 _
    · split
      · split
        · split
          · exact forall_mem_none
          · split
            · exact forall_mem_some h
            · exact hf_put11 _
        · split
          · exact forall_mem_none
          · split
            · exact forall_mem_some h
            · exact hf_put11 _
        · split
          · exact forall_mem_none
          · split
            · exact forall_mem_some h
            · exact hf_put11 _
        · split
          · exact forall_mem_none
          · split
            · exact forall_mem_some h
            · exact hf_put11 _
        · split
          · exact forall_mem_none
          · split
            · exact forall_mem_some h
            · exact hf_put11 _
        · exact forall_mem_none
      · exact forall_mem_none

theorem Canon.chWord {c : Chip} (h : Canon c) {k i w} : Canon (c.chWord k i w) := by
  unfold Chip.chWord
  split
  next d e =>
    split at e
    · exact h.chCustom _ e
    · cases e
  · exact h.chTrap

theorem Canon.chInstr {c : Chip} (h : Canon c) {k i} : Canon (c.chInstr k i) := by
  unfold Chip.chInstr
  extract_lets x hart
  clear_value x hart
  split
  · exact h.chTrap
  · extract_lets illegal next
    have hi : Canon illegal := h.chTrap
    clear_value illegal
    split
    · exact h.setChanter
    · split
      · exact h.chTrap
      · exact h.setChanter
    · split
      · exact h.chTrap
      next e => exact (h.chStore e).onChanter
    · split
      · exact hi
      · split
        · exact hi
        · exact h.setChanter
    · exact h.chTrap
    · exact h.setChanter
    · exact h.chWord

/-! ### The cloakroom -/

theorem Canon.onUsh {c : Chip} (h : Canon c) {f} : Canon (c.onUsh f) := .mk h

theorem Canon.pick {c : Chip} (h : Canon c) {n} : Canon (c.pick n).2 := .mk h

theorem Canon.setFrame {c : Chip} (h : Canon c) {f u} : Canon (c.setFrame f u) := by
  unfold Chip.setFrame
  extract_lets t1 n2 n3
  exact h.onUsh.wrF

theorem Canon.takeFrames {c : Chip} (h : Canon c) {t k u} : ∀ d ∈ c.takeFrames t k u, Canon d.1 := by
  unfold Chip.takeFrames
  split
  next d3 e4 =>
    have h5 : Canon d3 := .of_snd h.pick e4
    split
    · exact forall_mem_none
    · exact forall_mem_some (.foldl h5 fun _ _ hd => hd.setFrame)

theorem Canon.takeSlot {c : Chip} (h : Canon c) {t cls} : ∀ d ∈ c.takeSlot t cls, Canon d.1 := by
  unfold Chip.takeSlot
  extract_lets part1 r2
  have h3 : ∀ d ∈ r2, Canon d.1 := by
    unfold r2
    split
    · exact h.takeFrames
    · split
      next d6 e7 =>
        have h8 : Canon d6 := .of_snd h.pick e7
        exact forall_mem_some h8
  clear_value part1 r2
  split
  · exact forall_mem_none
  next d10 _ =>
    have h12 : Canon d10 := h3 _ rfl
    extract_lets l13
    clear_value l13
    split
    next d16 e17 =>
      have h18 : Canon d16 := .of_snd h12.pick e17
      have h19 : Canon d10 := h3 _ rfl
      extract_lets a20
      clear_value a20
      exact forall_mem_some h18.onUsh

theorem Canon.slotInc {c : Chip} (h : Canon c) {a} : Canon (c.slotInc a) := h.onUsh

theorem Canon.slotDrop {c : Chip} (h : Canon c) {a} : Canon (c.slotDrop a) := by
  unfold Chip.slotDrop
  extract_lets c1 f2
  have h3 : Canon c1 := h.onUsh
  clear_value c1
  exact .ite h3 h3.setFrame

theorem Canon.slotDec {c : Chip} (h : Canon c) {a} : Canon (c.slotDec a) := .ite h.onUsh h.slotDrop

theorem Canon.payOwed {c : Chip} (h : Canon c) : Canon c.payOwed := .foldl h.onUsh fun _ _ hd => hd.slotDrop

theorem Canon.takeBlock {c : Chip} (h : Canon c) {t n align} : ∀ d ∈ c.takeBlock t n align, Canon d.1 := by
  unfold Chip.takeBlock
  extract_lets fit1 r2
  have h3 : ∀ d ∈ r2, Canon d.1 := by
    unfold r2
    split
    · refine Option.forall_mem_map.mpr fun r4 e5 => ?_
      have h6 : Canon r4.1 := h.takeFrames _ e5
      exact h6
    · split
      next d9 e10 =>
        have h11 : Canon d9 := .of_snd h.pick e10
        exact forall_mem_some h11
  clear_value r2
  refine Option.forall_mem_map.mpr fun r12 e13 => ?_
  have h14 : Canon r12.1 := h3 _ e13
  exact h14.onUsh

theorem Canon.freeBlock {c : Chip} (h : Canon c) {a} : Canon (c.freeBlock a) := by
  unfold Chip.freeBlock
  extract_lets n1 c2
  have h3 : Canon c2 := h.onUsh
  clear_value c2
  split
  · exact h
  · refine .foldl h3 fun d4 x6 h5 => ?_
    extract_lets f7
    exact .ite h5 h5.setFrame

theorem Canon.tkPut {c : Chip} (h : Canon c) {i off n v} : Canon (c.tkPut i off n v) := by
  unfold Chip.tkPut
  extract_lets base1 line2
  exact h.memWrite.memWrite

theorem Canon.setFlag {c : Chip} (h : Canon c) {i b v} : Canon (c.setFlag i b v) := h.tkPut

theorem Canon.setAux {c : Chip} (h : Canon c) {i f} : Canon (c.setAux i f) := h.onUsh

theorem Canon.setNpos {c : Chip} (h : Canon c) {i n} : Canon (c.setNpos i n) := .ite h h.memWriteNum

theorem Canon.tkCount {c : Chip} (h : Canon c) {old new} : Canon (c.tkCount old new) := by
  unfold Chip.tkCount
  extract_lets c1
  have h2 : Canon c1 := h.wrF
  clear_value c1
  exact h2.wrF

theorem Canon.setStateWith {c : Chip} (h : Canon c) {i new seq put} : Canon (c.setStateWith i new seq put) := by
  unfold Chip.setStateWith
  extract_lets old1 line2 c3 c4 body5
  have h6 : Canon c3 := h.tkPut
  have h7 : Canon c4 := h6.tkCount
  clear_value c3 c4
  exact h7.journal

theorem Canon.setState {c : Chip} (h : Canon c) {i new seq} : Canon (c.setState i new seq) := h.setStateWith

theorem Canon.pickTowers {c : Chip} (h : Canon c) : Canon c.pickTowers.2 := by
  unfold Chip.pickTowers
  extract_lets l1 n2
  split
  next d5 e6 =>
    have h7 : Canon d5 := .of_snd h.pick e6
    split
    next d10 e11 =>
      have h12 : Canon d10 := .of_snd h7.pick e11
      exact h12

theorem Canon.takeTwo {c : Chip} (h : Canon c) {n align} : ∀ d ∈ c.takeTwo n align, Canon d.1 := by
  unfold Chip.takeTwo
  split
  next d3 e4 =>
    have h5 : Canon d3 := .of_snd h.pickTowers e4
    split
    · exact forall_mem_none
    next d7 _ e9 =>
      have h10 : Canon d7 := h5.takeBlock _ e9
      split
      · exact forall_mem_none
      next d12 _ e14 =>
        have h15 : Canon d12 := h10.takeBlock _ e14
        exact forall_mem_some h15

theorem Canon.logPut {c : Chip} (h : Canon c) {i p v} : ∀ d ∈ c.logPut i p v, Canon d := by
  unfold Chip.logPut
  extract_lets r1
  have h2 : ∀ d ∈ r1, Canon d := by
    unfold r1
    split
    · exact forall_mem_some h
    · refine Option.forall_mem_map.mpr fun r3 e4 => ?_
      have h5 : Canon r3.1 := h.takeTwo _ e4
      exact .foldl h5 fun _ _ hd => hd.memWriteNum.memWriteNum
  clear_value r1
  refine Option.forall_mem_map.mpr fun r6 e7 => ?_
  have h8 : Canon r6 := h2 _ e7
  exact h8.memWriteNum.memWriteNum

theorem Canon.logAppend {c : Chip} (h : Canon c) {i a} : ∀ d ∈ c.logAppend i a, Canon d := by
  induction a generalizing c i with
  | nil =>
    unfold Chip.logAppend
    exact forall_mem_some h
  | cons x l ih =>
    unfold Chip.logAppend
    split
    · exact forall_mem_none
    next d2 e3 =>
      have h4 : Canon d2 := h.logPut _ e3
      exact ih h4.tkPut

theorem Canon.newRootOf {c : Chip} (h : Canon c) {layers npos heads} : ∀ d ∈ c.newRootOf layers npos heads, Canon d.1 := by
  unfold Chip.newRootOf
  split
  · exact forall_mem_none
  next d2 _ e4 =>
    have h5 : Canon d2 := h.takeBlock _ e4
    extract_lets c6
    have h7 : Canon c6 := h5.memWrite
    clear_value c6
    refine .foldl_opt_fst (forall_mem_some h7) fun o8 x10 h9 => ?_
    split
    · exact forall_mem_none
    next d12 _ =>
      have h14 : Canon d12 := h9 _ rfl
      extract_lets ht15
      clear_value ht15
      split
      · exact forall_mem_some h14
      · split
        · exact forall_mem_none
        next d17 _ e19 =>
          have h20 : Canon d17 := h14.takeBlock _ e19
          have h21 : Canon d12 := h9 _ rfl
          exact forall_mem_some h20.memWrite.memWriteNum

theorem Canon.newRoot {c : Chip} (h : Canon c) {im npos} : ∀ d ∈ c.newRoot im npos, Canon d.1 := h.newRootOf

theorem Canon.needChunk {c : Chip} (h : Canon c) {root t k} : ∀ d ∈ c.needChunk root t k, Canon d := by
  unfold Chip.needChunk
  split
  · exact fun | _, rfl => h
  · extract_lets n1
    refine Option.forall_mem_map.mpr fun r2 e3 => ?_
    have h4 : Canon r2.1 := h.takeBlock _ e3
    exact h4.memWrite.memWriteNum

theorem Canon.putEntry {c : Chip} (h : Canon c) {a slot fmt} : Canon (c.putEntry a slot fmt) := h.memWriteNum

theorem Canon.copyPage {c : Chip} (h : Canon c) {src dst fmt} : Canon (c.copyPage src dst fmt) := h.copyMem

theorem Canon.readyPage {c : Chip} (h : Canon c) {root hot r} : ∀ d ∈ c.readyPage root hot r, Canon d := by
  unfold Chip.readyPage
  split
  · exact forall_mem_none
  next d2 e3 =>
    have h4 : Canon d2 := h.needChunk _ e3
    split
    · exact forall_mem_some h4
    · extract_lets e5 fmt6
      split
      · refine Option.forall_mem_map.mpr fun r7 e8 => ?_
        have h9 : Canon r7.1 := h4.takeSlot _ e8
        exact h9.putEntry
      · split
        · refine Option.forall_mem_map.mpr fun r10 e11 => ?_
          have h12 : Canon r10.1 := h4.takeSlot _ e11
          exact h12.copyPage.putEntry.slotDec
        · exact forall_mem_some h4

theorem Canon.readyPos {c : Chip} (h : Canon c) {i pos} : ∀ d ∈ c.readyPos i pos, Canon d := by
  unfold Chip.readyPos
  extract_lets root1
  refine .foldl_opt (forall_mem_some h) fun o2 x4 h3 => ?_
  split
  · exact forall_mem_none
  next d6 =>
    have h7 : Canon d6 := h3 _ rfl
    exact h7.readyPage

theorem Canon.dropTables {c : Chip} (h : Canon c) {root} : Canon (c.dropTables root) :=
  (Canon.ite h (Canon.foldl (Canon.foldl h fun _ _ h35 => h35.slotDec) fun _ _ hd => (Canon.ite hd (Canon.foldl hd fun _ _ h32 =>
    (Canon.ite h32 h32.freeBlock)).freeBlock)).freeBlock)

theorem Canon.takeStop {c : Chip} (h : Canon c) {b} : ∀ d ∈ c.takeStop b, Canon d.1 := by
  unfold Chip.takeStop
  split
  · exact forall_mem_some h.onUsh
  · split
    · exact forall_mem_none
    · extract_lets c1
      have h2 : Canon c1 := h.memWrite.memWrite
      clear_value c1
      exact forall_mem_some h2.onUsh

theorem Canon.dropStop {c : Chip} (h : Canon c) {n} : Canon (c.dropStop n) := .ite h h.onUsh

theorem Canon.shareStop {c : Chip} (h : Canon c) {n} : Canon (c.shareStop n) := .ite h h.onUsh

theorem Canon.mendTwin {c : Chip} (h : Canon c) {a b n both} : Canon (c.mendTwin a b n both) := by
  unfold Chip.mendTwin
  extract_lets c1
  have h2 : Canon c1 := h.memTouch
  clear_value c1
  refine .foldl h2 fun d3 x5 h4 => ?_
  extract_lets x6 y7
  exact .ite h4.memWrite (.ite h4.memWrite h4)

theorem Canon.mend {c : Chip} (h : Canon c) {i} : Canon (c.mend i) := by
  unfold Chip.mend
  extract_lets c1 n2 c3 c4
  have h5 : Canon c1 := h.mendTwin
  have h6 : Canon c3 := .ite h5 h5.mendTwin
  have h7 : Canon c4 := h6.mendTwin
  clear_value c1 c3 c4
  exact .foldl h7 fun _ _ hd => hd.mendTwin

theorem Canon.twinSync {c : Chip} (h : Canon c) {a b n} : Canon (c.twinSync a b n) := by
  unfold Chip.twinSync
  refine .foldl h fun d1 x3 h2 => ?_
  extract_lets x4 y5
  exact .ite (.ite h2 h2.memWrite) (.ite h2.memWrite h2)

theorem Canon.takeIndex {c : Chip} (h : Canon c) : ∀ d ∈ c.takeIndex, Canon d.1 := by
  unfold Chip.takeIndex
  split
  · exact forall_mem_some h.onUsh
  · split
    · exact forall_mem_none
    · exact forall_mem_some h.onUsh

theorem Canon.dropLog {c : Chip} (h : Canon c) {i} : Canon (c.dropLog i) := by
  unfold Chip.dropLog
  extract_lets segs1 c2
  have h3 : Canon c2 := .foldl h fun _ _ hd => .ite hd hd.freeBlock
  clear_value c2
  exact h3.freeBlock.freeBlock

/-! ### Links -/

theorem Canon.setLink {c : Chip} (h : Canon c) {l x} : Canon (c.setLink l x) := .mk h

theorem Canon.onLink {c : Chip} (h : Canon c) {l f} : Canon (c.onLink l f) := h.setLink

theorem Canon.unshed {c : Chip} (h : Canon c) {l} : Canon (c.unshed l) := .ite h.wrF.onLink h

theorem Canon.pumpFlits {c : Chip} (h : Canon c) {l} : Canon (c.pumpFlits l) := .ite h h.unshed.onLink

theorem Canon.blockTime {c : Chip} (h : Canon c) {l} : Canon (c.blockTime l) := .ite h h.onLink

theorem Canon.pump {c : Chip} (h : Canon c) {l} : Canon (c.pump l) := .ite h.onLink.pumpFlits h

theorem Canon.request {c : Chip} (h : Canon c) {l t w} : Canon (c.request l t w) := h.onLink.pump

theorem Canon.respond {c : Chip} (h : Canon c) {l t} : Canon (c.respond l t) := .ite h.onLink.pumpFlits h

theorem Canon.sendMsg {c : Chip} (h : Canon c) {l kind ush w data} : Canon (c.sendMsg l kind ush w data) := h.request

theorem Canon.putAll {c : Chip} (h : Canon c) {node annex w off bs} : Canon (c.putAll node annex w off bs) := by
  unfold Chip.putAll
  refine .foldl h fun d1 x3 h2 => ?_
  split
  · exact h2
  · extract_lets n4 d5 x6
    exact h2.request

theorem Canon.getAll {c : Chip} (h : Canon c) {node annex why n} : Canon (c.getAll node annex why n) := by
  unfold Chip.getAll
  refine .foldl h fun d1 x3 h2 => ?_
  split
  · exact h2
  · exact h2.request

theorem Canon.closeAnnex {c : Chip} (h : Canon c) {node annex} : Canon (c.closeAnnex node annex) := by
  unfold Chip.closeAnnex
  split
  · exact h
  · exact h.sendMsg

theorem Canon.weightsDone {c : Chip} (h : Canon c) {m} : Canon (c.weightsDone m) := by
  unfold Chip.weightsDone
  extract_lets c1 x2
  have h3 : Canon c1 := .foldl h fun _ _ hd => hd.closeAnnex
  clear_value c1
  exact .mk h3

theorem Canon.dropReqs {c : Chip} (h : Canon c) {f} : Canon (c.dropReqs f) := .foldl h fun _ _ hd => .ite hd hd.onLink

theorem Canon.annexFrames {c : Chip} (h : Canon c) {t n l} : ∀ d ∈ c.annexFrames t n l, Canon d.1 := by
  induction n generalizing c l with
  | zero => unfold Chip.annexFrames; exact forall_mem_some h
  | succ n ih =>
    unfold Chip.annexFrames
    split
    · exact forall_mem_none
    next d f e =>
      refine ih (Canon.foldl_opt_fst forall_mem_none (fun o x ho => ?_) _ e : Canon (d, f).1)
      split
      · exact ho
      · exact h.takeFrames

theorem Canon.freeAnnex {c : Chip} (h : Canon c) {a} : Canon (c.freeAnnex a) := by
  unfold Chip.freeAnnex
  extract_lets c1 x2
  have h3 : Canon c1 := .ite h (.foldl h fun _ _ hd => hd.setFrame)
  clear_value c1
  exact .mk h3

/-! ### Works of the usher -/

theorem Canon.enqueueJob {c : Chip} (h : Canon c) {k w7} : Canon (c.enqueueJob k w7) := by
  unfold Chip.enqueueJob
  extract_lets v1 r2
  exact .ite h.wrF h.setCluster

theorem Canon.sendWork {c : Chip} (h : Canon c) {w} : Canon (c.sendWork w) := by
  unfold Chip.sendWork
  extract_lets rs1 a2 c3 r4 v5 c6
  have h7 : Canon c3 := .ite h h.memWrite
  have h8 : Canon c6 := h7.setCluster
  clear_value c3 c6
  exact h8.enqueueJob.onUsh

theorem Canon.sendWorks {c : Chip} (h : Canon c) : Canon c.sendWorks := .foldl h fun _ _ hd => .ite hd hd.sendWork

theorem Canon.workCluster {c : Chip} (h : Canon c) {t} : Canon (c.workCluster t).2 := by
  unfold Chip.workCluster
  extract_lets of1 l2
  split
  next d5 e6 =>
    have h7 : Canon d5 := .of_snd h.pick e6
    exact h7

theorem Canon.addWorkAt {c : Chip} (h : Canon c) {k kind why items} : Canon (c.addWorkAt k kind why items) := h.onUsh

theorem Canon.addWork {c : Chip} (h : Canon c) {t kind why items} : Canon (c.addWork t kind why items) := by
  unfold Chip.addWork
  extract_lets r1
  have h2 : Canon r1.2 := h.workCluster
  clear_value r1
  exact h2.addWorkAt

theorem Canon.addCopies {c : Chip} (h : Canon c) {why items} : Canon (c.addCopies why items) := by
  unfold Chip.addCopies
  refine .foldl h fun d1 x3 h2 => ?_
  extract_lets l4
  exact .foldl h2 fun _ _ hd => hd.addWork

theorem Canon.jobLine {c : Chip} (h : Canon c) {k src dst} : Canon (c.jobLine k src dst) := by
  unfold Chip.jobLine
  extract_lets r1
  have h2 : Canon r1.1 := h.bottomRead
  clear_value r1
  exact .ite h2.poisonLine h2.bottomWrite.backInvalidate

theorem Canon.jobCopy {c : Chip} (h : Canon c) {k x} : Canon (c.jobCopy k x) := .foldl h fun _ _ hd => hd.jobLine

theorem Canon.jobRead {a3 : Chip} (h : Canon a3) {k l a} : Canon (a3.jobRead k l a).1 := by
  induction a generalizing k l a3 with
  | zero =>
    unfold Chip.jobRead
    exact h
  | succ n ih =>
    unfold Chip.jobRead
    exact ih h.bottomRead

theorem Canon.jobWrite {c : Chip} (h : Canon c) {a bs} : Canon (c.jobWrite a bs) := .foldl h fun _ _ hd => hd.bottomWrite.backInvalidate

theorem Canon.jobDemote {c : Chip} (h : Canon c) {k x} : Canon (c.jobDemote k x) := by
  unfold Chip.jobDemote
  extract_lets l1 e2 v3 r4
  have h5 : Canon e2.1 := h.bottomRead
  have h6 : Canon r4.1 := h5.jobRead
  clear_value e2 r4
  split
  · exact h6
  · split
    · exact h6
    · extract_lets c7 e8
      have h9 : Canon c7 := h6.jobWrite
      have h10 : Canon e8.1 := h9.bottomRead
      clear_value c7 e8
      exact h10.bottomWrite.backInvalidate

theorem Canon.workDo {c : Chip} (h : Canon c) {w} : Canon (c.workDo w) := by
  unfold Chip.workDo
  extract_lets rs1 c2
  have h3 : Canon c2 := h.flushQueued
  clear_value c2
  split
  · exact .foldl h3 fun _ _ hd => hd.jobCopy
  · exact .foldl h3 fun _ _ hd => hd.jobDemote
  · exact .foldl h3 fun _ _ hd => hd.jobRead
  · exact h3

theorem Canon.worksEnd {c : Chip} (h : Canon c) {p failed} : ∀ d ∈ c.worksEnd p failed, Canon d.1 := by
  unfold Chip.worksEnd
  extract_lets ws1 c2
  have h3 : Canon c2 := by
    unfold c2
    refine .foldl h fun d4 x6 h5 => ?_
    split
    · exact h5
    · exact .ite h5.jobEnd h5.workDo.jobEnd
  clear_value c2
  split
  · exact forall_mem_none
  · exact forall_mem_some h3.sendWorks

theorem Canon.worksAgain {c : Chip} (h : Canon c) {p} : Canon (c.worksAgain p) :=
  (Canon.foldl h fun _ _ hd => (Canon.ite hd hd.workCluster.onUsh)).sendWorks

theorem Canon.worksGone {c : Chip} (h : Canon c) {p} : Canon (c.worksGone p) := h.onUsh

theorem Canon.worksDrop {c : Chip} (h : Canon c) {p} : Canon (c.worksDrop p) := (Canon.foldl h fun _ _ hd => (Canon.ite hd.jobCancel hd)).worksGone

theorem Canon.patrolGo {a2 : Chip} (h : Canon a2) {vk a} : Canon (a2.patrolGo vk a).1 := by
  induction a generalizing vk a2 with
  | nil =>
    unfold Chip.patrolGo
    exact h
  | cons x l ih =>
    unfold Chip.patrolGo
    split
    · exact ih (.mk h)
    · exact h.decodeRead

theorem Canon.patrolPass {c : Chip} (h : Canon c) {vk} : Canon (c.patrolPass vk) := by
  unfold Chip.patrolPass
  extract_lets p1
  split
  · exact h.addWorkAt.sendWorks
  · split
    · exact h.worksGone.addWorkAt.sendWorks
    · split
      · exact h
      · extract_lets cur2 r3
        have h4 : Canon r3.1 := h.patrolGo
        clear_value r3
        split
        · exact h4.countLines.onUsh
        · exact h4.countLines.jobEnd.worksGone.sendWorks

/-! ### Sessions -/

theorem Canon.cmdTaken {c : Chip} (h : Canon c) {m} : Canon (c.cmdTaken m) := .mk h

theorem Canon.postFor {c : Chip} (h : Canon c) {ring ans type count ticket body} : Canon (c.postFor ring ans type count ticket body) := by
  unfold Chip.postFor
  extract_lets m1
  exact h.post

theorem Canon.postDone {c : Chip} (h : Canon c) {i reason status ans} : Canon (c.postDone i reason status ans) := h.postFor

theorem Canon.postMove {c : Chip} (h : Canon c) {i type ans body} : Canon (c.postMove i type ans body) := .ite h.postFor h.journal

theorem Canon.postTokens {c : Chip} (h : Canon c) {i n} : Canon (c.postTokens i n) := by
  unfold Chip.postTokens
  extract_lets p1 toks2 c3
  have h4 : Canon c3 := h.postFor
  clear_value c3
  exact h4.setAux

theorem Canon.postGroups {c : Chip} (h : Canon c) {i a} : Canon (c.postGroups i a) := by
  induction a generalizing c i with
  | zero =>
    unfold Chip.postGroups
    exact h
  | succ n ih =>
    unfold Chip.postGroups
    exact .ite (ih h.postTokens) h

theorem Canon.flushTokens {c : Chip} (h : Canon c) {i} : Canon (c.flushTokens i) := by
  unfold Chip.flushTokens
  extract_lets c1
  have h2 : Canon c1 := h.postGroups
  clear_value c1
  exact .ite h2 h2.postTokens

theorem Canon.parkFor {c : Chip} (h : Canon c) {i reason idx ans} : Canon (c.parkFor i reason idx ans) := by
  unfold Chip.parkFor
  extract_lets seq1 c2 c3 c4
  have h5 : Canon c2 := h.flushTokens
  have h6 : Canon c3 := h5.setStateWith
  have h7 : Canon c4 := h6.setAux
  clear_value c2 c3 c4
  exact .ite h7.postFor h7.postDone

theorem Canon.sampled {c : Chip} (h : Canon c) {i pos tok} : ∀ d ∈ c.sampled i pos tok, Canon d := by
  unfold Chip.sampled
  refine Option.forall_mem_map.mpr fun r1 e2 => ?_
  have h3 : Canon r1 := h.logAppend _ e2
  extract_lets c4 p5
  have h6 : Canon c4 := h3.setNpos
  clear_value c4 p5
  split
  · extract_lets c7
    have h8 : Canon c7 := by
      unfold c7
      split
      · refine Canon.getD ?_ ?_
        · exact h6.logPut
        · exact h6
      · exact h6
    clear_value c7
    exact h8.parkFor
  · exact h6.postGroups

theorem Canon.freeArea {c : Chip} (h : Canon c) {a} : Canon (c.freeArea a) := by
  unfold Chip.freeArea
  split
  · exact .mk h
  · exact h

theorem Canon.closeAnnexes {c : Chip} (h : Canon c) {i} : Canon (c.closeAnnexes i) := by
  unfold Chip.closeAnnexes
  extract_lets c1 sp2
  have h3 : Canon c1 := by
    unfold c1
    refine .foldl h fun d4 x6 h5 => ?_
    extract_lets node7 a8
    exact .ite h5 h5.closeAnnex
  clear_value c1
  exact .ite h3.closeAnnex h3

theorem Canon.dropChunks {c : Chip} (h : Canon c) {i} : Canon (c.dropChunks i) := by
  unfold Chip.dropChunks
  extract_lets c1 c2 x3
  have h4 : Canon c1 := h.dropReqs
  have h5 : Canon c2 := by
    unfold c2
    refine .foldl h4 fun d6 x8 h7 => ?_
    split
    · exact h7.closeAnnex
    · exact h7
  clear_value c1 c2
  exact .mk h5

theorem Canon.unstage {c : Chip} (h : Canon c) {i} : Canon (c.unstage i) := h.onUsh.setAux

theorem Canon.spillAbandon {c : Chip} (h : Canon c) {i} : Canon (c.spillAbandon i) := by
  unfold Chip.spillAbandon
  extract_lets x1 c2 c3 c4 c5
  have h6 : Canon c2 := h.worksDrop.unstage
  have h7 : Canon c3 := h6.dropReqs
  have h8 : Canon c4 := by
    unfold c4
    split
    · exact h7.closeAnnex
    · exact h7
  have h9 : Canon c5 := by
    unfold c5
    split
    · exact h8.freeArea
    · exact h8
  clear_value c2 c3 c4 c5
  exact h9.setFlag.setAux

theorem Canon.recallDrop {c : Chip} (h : Canon c) {i} : Canon (c.recallDrop i) := by
  unfold Chip.recallDrop
  extract_lets c1 c2 c3 x4 c5
  have h6 : Canon c1 := h.worksDrop.unstage
  have h7 : Canon c2 := .foldl h6 fun _ _ hd => hd.slotDec
  have h8 : Canon c3 := h7.dropReqs
  have h9 : Canon c5 := .mk h8
  clear_value c1 c2 c3 c5
  exact h9.setFlag.setAux

theorem Canon.demoteSettle {c : Chip} (h : Canon c) {i} : Canon (c.demoteSettle i) := by
  unfold Chip.demoteSettle
  extract_lets refs1 ws2 c3
  have h4 : Canon c3 := by
    unfold c3
    refine .foldl h fun d5 x7 h6 => ?_
    refine .foldl h6 fun d8 x10 h9 => ?_
    split
    · exact h9.slotDec
    · extract_lets c11
      have h12 : Canon c11 := h9.slotDec
      clear_value c11
      split
      · exact h12.setAux
      · exact h12
  clear_value c3
  exact h4.worksGone

theorem Canon.forkPages {c : Chip} (h : Canon c) {root items} : Canon (c.forkPages root items) := by
  unfold Chip.forkPages
  refine .foldl h fun d1 x3 h2 => ?_
  split
  · exact h2.putEntry
  · exact h2

theorem Canon.forkSettle {c : Chip} (h : Canon c) {i} : Canon (c.forkSettle i) := by
  unfold Chip.forkSettle
  extract_lets ws1 c2
  have h3 : Canon c2 := .foldl h.worksDrop fun _ _ hd => .foldl hd fun _ _ h39 => h39.copyMem
  clear_value c2
  exact h3.forkPages

theorem Canon.forksSettle {c : Chip} (h : Canon c) {i} : Canon (c.forksSettle i) := by
  unfold Chip.forksSettle
  extract_lets w1
  exact .foldl h fun _ _ hd => hd.forkSettle

theorem Canon.dropWork {c : Chip} (h : Canon c) {i} : Canon (c.dropWork i) := by
  unfold Chip.dropWork
  extract_lets c1 c2 c3
  have h4 : Canon c1 := Canon.ite (Canon.foldl h fun _ _ hd => (Canon.ite hd.jobCancel hd)).demoteSettle h
  have h5 : Canon c2 := Canon.ite h4.spillAbandon h4
  have h6 : Canon c3 := Canon.ite h5.recallDrop h5
  clear_value c1 c2 c3
  exact h6.setFlag

theorem Canon.postError {c : Chip} (h : Canon c) {a ticket code off} : Canon (c.postError a ticket code off) := by
  unfold Chip.postError
  extract_lets ring1
  exact h.postFor

theorem Canon.flushRunning {c : Chip} (h : Canon c) {i} : Canon (c.flushRunning i) := .ite h.flushTokens h

theorem Canon.retire {c : Chip} (h : Canon c) {i ans} : Canon (c.retire i ans) := by
  unfold Chip.retire
  extract_lets c1 c2 c3 c4
  have h5 : Canon c1 := h.dropWork
  have h6 : Canon c2 := h5.forksSettle
  have h7 : Canon c3 := h6.flushRunning
  have h8 : Canon c4 := h7.setAux
  clear_value c1 c2 c3 c4
  exact h8.setState

theorem Canon.releaseDone {c : Chip} (h : Canon c) {i} : Canon (c.releaseDone i) := by
  unfold Chip.releaseDone
  extract_lets x1 w2 body3 ring4 c5 c6 c7 c8 c9 c10 c11 c12 c13
  have h14 : Canon c5 := h.dropChunks.closeAnnexes
  have h15 : Canon c6 := h14.dropTables
  have h16 : Canon c7 := h15.dropLog
  have h17 : Canon c8 := h16.dropStop
  have h18 : Canon c9 := .foldl h17 fun _ _ hd => hd.freeBlock
  have h19 : Canon c10 := h18.freeArea
  have h20 : Canon c11 := h19.setStateWith
  have h21 : Canon c12 := h20.tkPut.tkPut
  have h22 : Canon c13 := h21.onUsh
  clear_value c5 c6 c7 c8 c9 c10 c11 c12 c13
  exact .foldl h22 fun _ _ hd => hd.postFor

theorem Canon.boundary {c : Chip} (h : Canon c) {i} : Canon (c.boundary i) := .ite h h.setState.setAux

theorem Canon.demoteStart {c : Chip} (h : Canon c) {i} : Canon (c.demoteStart i) := by
  unfold Chip.demoteStart
  extract_lets x1 from2 r3
  have h4 : Canon r3.1 := by
    unfold r3
    refine .foldl_fst h.setFlag fun p5 x7 h6 => ?_
    split
    · exact h6
    next d9 _ e11 =>
      have h12 : Canon d9 := h6.takeSlot _ e11
      exact h12
  clear_value r3
  split
  · exact h
  · exact Canon.ite (Canon.foldl h4 fun _ _ hd => hd.addWork).sendWorks h

theorem Canon.demoteEnd {c : Chip} (h : Canon c) {i failed} : Canon (c.demoteEnd i failed) := by
  unfold Chip.demoteEnd
  split
  · exact h
  · split
    · exact h
    next d2 _ e4 =>
      have h5 : Canon d2 := h.worksEnd _ e4
      extract_lets c6 mixed7 flags8
      have h9 : Canon c6 := h5.demoteSettle.setAux
      clear_value c6
      exact .ite h9.setStateWith h9.tkPut

theorem Canon.setPack {c : Chip} (h : Canon c) {i k} : Canon (c.setPack i k) := h.setAux

theorem Canon.spillWindow {c : Chip} (h : Canon c) {i k} : Canon (c.spillWindow i k) := h.addCopies.setPack.sendWorks

theorem Canon.spillSum {c : Chip} (h : Canon c) {i k} : Canon (c.spillSum i k) := by
  unfold Chip.spillSum
  extract_lets w1
  exact (Canon.foldl h fun _ _ hd => hd.addWork).setPack.sendWorks

theorem Canon.spillStage {c : Chip} (h : Canon c) {i mid} : Canon (c.spillStage i mid) := .ite h h.onUsh.spillWindow

theorem Canon.spillPut {c : Chip} (h : Canon c) {i off bs} : Canon (c.spillPut i off bs) := by
  unfold Chip.spillPut
  split
  · exact .mk h
  · exact h.putAll
  · exact h

theorem Canon.spillCommit {c : Chip} (h : Canon c) {i im} : Canon (c.spillCommit i im) := by
  unfold Chip.spillCommit
  extract_lets x1 np2 root3 len4 img5 rem6 map7
  split
  · exact h
  · extract_lets loc8 area9 c10 c11 c12 body13
    have h14 : Canon c10 := h.unstage.setAux
    have h15 : Canon c11 := h14.setStateWith
    have h16 : Canon c12 := h15.dropTables
    clear_value c10 c11 c12
    exact .ite h16.postMove (.foldl h16 fun _ _ hd => hd.postMove)

theorem Canon.spillOn {c : Chip} (h : Canon c) {i mid im k} : Canon (c.spillOn i mid im k) := by
  unfold Chip.spillOn
  extract_lets w1 c2 r3 c4 k5 h6 s7 c8
  have h9 : Canon c2 := h.worksGone
  have h10 : Canon r3.1 := by
    unfold r3
    refine .foldl_fst h9 fun p11 x13 h12 => ?_
    exact h12.fetchGo
  have h14 : Canon c4 := h10.spillPut
  have h15 : Canon c8 := h14.memWrite.spillPut.setPack
  clear_value c2 r3 c4 c8
  exact .ite (.ite h9 h9.spillCommit) (.ite h9.spillAbandon (.ite h9.spillSum (.ite h14.spillWindow (.ite h15 h15.spillCommit))))

theorem Canon.recallPage {c : Chip} (h : Canon c) {who root fmt r bs} : ∀ d ∈ c.recallPage who root fmt r bs, Canon d := by
  unfold Chip.recallPage
  split
  · exact forall_mem_none
  next d2 e3 =>
    have h4 : Canon d2 := h.needChunk _ e3
    split
    next d8 _ _ e11 =>
      have h12 : Canon d8 := h4.takeSlot _ e11
      exact forall_mem_some h12.memWriteAs.putEntry
    · exact forall_mem_none

theorem Canon.recallPages {node root rs fs off bs} {c : Chip} (h : Canon c) : ∀ d ∈ c.recallPages node root rs fs off bs, Canon d := by
  induction rs generalizing fs off bs c with
  | nil => unfold Chip.recallPages; exact forall_mem_some h
  | cons r rs ih =>
    cases fs with
    | nil => unfold Chip.recallPages; exact forall_mem_some h
    | cons f fs =>
      unfold Chip.recallPages
      extract_lets fmt
      split
      · exact forall_mem_none
      next d e => exact ih (h.recallPage _ e)

theorem Canon.recallSlots {c : Chip} (h : Canon c) {a} : ∀ d ∈ c.recallSlots a, Canon d.1 := by
  induction a generalizing c with
  | nil =>
    unfold Chip.recallSlots
    exact forall_mem_some h
  | cons x l ih =>
    unfold Chip.recallSlots
    split
    · exact forall_mem_none
    next d2 _ e4 =>
      have h5 : Canon d2 := h.takeSlot _ e4
      refine Option.forall_mem_map.mpr fun r6 e7 => ?_
      have h8 : Canon r6.1 := (ih h5) _ e7
      exact h8

theorem Canon.recallBegin {c : Chip} (h : Canon c) {i im} : Canon (c.recallBegin i im) := by
  unfold Chip.recallBegin
  extract_lets x1 img2
  split
  · exact h.onUsh
  next d4 _ e6 =>
    have h7 : Canon d4 := h.recallSlots _ e6
    extract_lets c8 sp9
    have h10 : Canon c8 := h7.setAux
    clear_value c8
    exact .ite h10.getAll h10

theorem Canon.recallCommit {c : Chip} (h : Canon c) {i im img} : ∀ d ∈ c.recallCommit i im img, Canon d := by
  unfold Chip.recallCommit
  extract_lets x1 pages2
  split
  · exact forall_mem_none
  next d4 _ e6 =>
    have h7 : Canon d4 := h.newRoot _ e6
    extract_lets c8 r9
    have h10 : Canon c8 := by
      unfold c8
      refine .foldl h7 fun d11 x13 h12 => ?_
      extract_lets e14
      exact .ite h12 h12.memWriteNum
    have h15 : ∀ d ∈ r9, Canon d := by
      unfold r9
      refine .foldl_opt (forall_mem_some h10) fun o16 x18 h17 => ?_
      split
      · exact forall_mem_none
      next d20 =>
        have h21 : Canon d20 := h17 _ rfl
        refine Option.forall_mem_map.mpr fun r22 e23 => ?_
        have h24 : Canon r22 := h21.needChunk _ e23
        split
        · exact h24.putEntry
        · exact h24
    clear_value c8 r9
    split
    · exact forall_mem_none
    next d26 =>
      have h27 : Canon d26 := h15 _ rfl
      extract_lets st28 sp29 c30 c31 x32 c33 c34 c35 body36
      have h37 : Canon c30 := h27.setStateWith
      have h38 : Canon c31 := h37.freeArea.unstage
      have h39 : Canon c33 := .mk h38
      have hd : Canon c34 := h39.setAux
      have h41 : Canon c35 := .ite hd.closeAnnex hd
      clear_value c30 c31 c33 c34 c35
      exact forall_mem_some (.ite h41.postMove (.foldl h41 fun _ _ h39 => h39.postMove))

theorem Canon.recallWindow {c : Chip} (h : Canon c) {i img k} : Canon (c.recallWindow i img k) := by
  unfold Chip.recallWindow
  extract_lets w1 c2
  have h3 : Canon c2 := .foldl h fun _ _ hd => hd.memWriteAs
  clear_value c2
  exact h3.addCopies.setPack.sendWorks

theorem Canon.recallOn {c : Chip} (h : Canon c) {i im img} : Canon (c.recallOn i im img) := by
  unfold Chip.recallOn
  split
  · exact .ite h h.onUsh.recallWindow
  · extract_lets w1 k2 c3 c4
    have h5 : Canon c3 := h.worksGone
    have h6 : Canon c4 := h5.setPack
    clear_value w1 k2 c3 c4
    split
    · exact h5.recallWindow
    · refine Canon.getD ?_ ?_
      · exact h6.recallCommit
      · exact h6.onUsh

theorem Canon.freshIndex {c : Chip} (h : Canon c) {root hot lskip idx} : ∀ d ∈ c.freshIndex root hot lskip idx, Canon d := by
  unfold Chip.freshIndex
  refine .foldl_opt (forall_mem_some h) fun o1 x3 h2 => ?_
  split
  · exact forall_mem_none
  next d5 =>
    have h6 : Canon d5 := h2 _ rfl
    split
    · exact forall_mem_none
    next d8 e9 =>
      have h10 : Canon d8 := h6.needChunk _ e9
      have h11 : Canon d5 := h2 _ rfl
      split
      · exact forall_mem_some h10
      · extract_lets e12
        refine Option.forall_mem_map.mpr fun r13 e14 => ?_
        have h15 : Canon r13.1 := h10.takeSlot _ e14
        extract_lets c16
        have h17 : Canon c16 := h15.putEntry
        clear_value c16
        exact .ite h17 h17.slotDec

theorem Canon.refresh {c : Chip} (h : Canon c) {i im} : Canon (c.refresh i im) := by
  unfold Chip.refresh
  extract_lets x1 rooted2
  have h3 : ∀ d ∈ rooted2, Canon d := by
    unfold rooted2
    split
    · exact forall_mem_some h
    · refine Option.forall_mem_map.mpr fun r4 e5 => ?_
      have h6 : Canon r4.1 := h.newRoot _ e5
      exact (Canon.foldl h6 fun _ _ hd => hd.memWriteNum).tkPut
  clear_value rooted2
  split
  · exact h
  next d8 =>
    have h9 : Canon d8 := h3 _ rfl
    refine .foldl h9 fun d10 x12 h11 => ?_
    split
    · exact h11
    next d14 e15 =>
      have h16 : Canon d14 := h11.freshIndex _ e15
      have h17 : Canon d8 := h3 _ rfl
      exact h16.setAux

theorem Canon.recoverFor {c : Chip} (h : Canon c) {i rst im idx} : Canon (c.recoverFor i rst im idx) := by
  unfold Chip.recoverFor
  extract_lets st1 c2 c3 c4 c5 c6
  have h7 : Canon c2 := h.dropWork.forksSettle
  have h8 : Canon c3 := h7.flushRunning
  have h9 : Canon c4 := .ite h8 h8.setStateWith
  have h10 : Canon c5 := h9.setAux
  have h11 : Canon c6 := h10.onUsh
  clear_value c2 c3 c4 c5 c6
  exact h11.refresh

theorem Canon.recoverStart {c : Chip} (h : Canon c) {i im idx} : Canon (c.recoverStart i im idx) := h.recoverFor

/-! ### Epochs -/

theorem Canon.setModel {c : Chip} (h : Canon c) {m v} : Canon (c.setModel m v) := h.onUsh

theorem Canon.setEpoch {c : Chip} (h : Canon c) {epoch state crec} : Canon (c.setEpoch epoch state crec) := by
  unfold Chip.setEpoch
  extract_lets c1 c2
  have h3 : Canon c1 := h.critWrite
  have h4 : Canon c2 := h3.wrF.wrF.event
  clear_value c1 c2
  exact h4.onUsh

theorem Canon.journalEpoch {c : Chip} (h : Canon c) {what} : Canon (c.journalEpoch what) := h.journal

theorem Canon.loadMaps {c : Chip} (h : Canon c) : Canon c.loadMaps := by
  unfold Chip.loadMaps
  refine .foldl h fun d1 x3 h2 => ?_
  extract_lets v4 c5 c6
  have h7 : Canon c5 := h2.wr
  have h8 : Canon c6 := by
    unfold c6
    refine .foldl h7 fun d9 x11 h10 => ?_
    extract_lets fb12
    exact h10.onGal
  clear_value c5 c6
  exact .foldl h8 fun _ _ hd => hd.onGal

theorem Canon.closingStart {c : Chip} (h : Canon c) : Canon c.closingStart :=
  (Canon.ite h (Canon.foldl h fun _ _ hd => hd.holdGal).setEpoch.journalEpoch)

theorem Canon.putMove {c : Chip} (h : Canon c) {n kind obj src dst len} : Canon (c.putMove n kind obj src dst len) := by
  unfold Chip.putMove
  extract_lets c1
  have h2 : Canon c1 := h.memWrite
  clear_value c1
  exact .foldl h2 fun _ _ hd => hd.memWriteNum

theorem Canon.repairFlip {c : Chip} (h : Canon c) {n} : Canon (c.repairFlip n) := by
  unfold Chip.repairFlip
  extract_lets read1
  split
  · exact h
  · exact .foldl h fun _ _ hd => .ite hd hd.memWriteNum

theorem Canon.rehangTables {c : Chip} (h : Canon c) {i} : ∀ d ∈ c.rehangTables i, Canon d.1 := by
  unfold Chip.rehangTables
  extract_lets old1 im2 map3
  split
  · exact forall_mem_none
  next d5 _ e7 =>
    have h8 : Canon d5 := h.newRoot _ e7
    extract_lets c9 n10 r11
    have h12 : Canon c9 := .foldl h8 fun _ _ hd => hd.memWriteNum
    have h13 : ∀ d ∈ r11, Canon d := by
      unfold r11
      refine .foldl_opt (forall_mem_some h12) fun o14 x16 h15 => ?_
      split
      · exact forall_mem_none
      next d18 =>
        have h19 : Canon d18 := h15 _ rfl
        split
        · exact forall_mem_none
        next d21 e22 =>
          have h23 : Canon d21 := h19.needChunk _ e22
          have h24 : Canon d18 := h15 _ rfl
          split
          · exact forall_mem_some h23
          · extract_lets src25 fmt26
            split
            · exact forall_mem_some h23.slotInc.putEntry
            · split
              · exact forall_mem_some h23.slotInc.putEntry
              · refine Option.forall_mem_map.mpr fun r27 e28 => ?_
                have h29 : Canon r27.1 := h23.takeSlot _ e28
                exact h29.onUsh.putEntry
    clear_value c9 r11
    refine Option.forall_mem_map.mpr fun r30 e31 => ?_
    have h32 : Canon r30 := h13 _ e31
    exact h32

theorem Canon.moveWorks {c : Chip} (h : Canon c) {n} : Canon (c.moveWorks n) := by
  unfold Chip.moveWorks
  extract_lets have1 l2
  exact .ite (.foldl h fun _ _ hd => hd.addWork) h.addCopies

theorem Canon.movesIssue {c : Chip} (h : Canon c) : Canon c.movesIssue := (Canon.foldl h fun _ _ hd => (Canon.ite hd hd.moveWorks)).sendWorks

theorem Canon.postFlip {c : Chip} (h : Canon c) {n} : Canon (c.postFlip n) := by
  unfold Chip.postFlip
  extract_lets dst1 o2 plan3 m4 x5
  split
  · split
    · exact h
    · exact h.tkPut
  · exact h.setModel
  · exact h.critWrite

theorem Canon.moveFlip {c : Chip} (h : Canon c) {n} : Canon (c.moveFlip n) := by
  unfold Chip.moveFlip
  extract_lets v1
  exact (Canon.foldl h fun _ _ hd => hd.memWriteNum).postFlip

theorem Canon.moveEnd {c : Chip} (h : Canon c) {n} : Canon (c.moveEnd n) := by
  unfold Chip.moveEnd
  extract_lets p1
  split
  · exact h
  next d3 e4 =>
    have h5 : Canon d3 := h.worksEnd _ e4
    exact h5.worksAgain
  next d7 e8 =>
    have h9 : Canon d7 := h.worksEnd _ e8
    extract_lets c10
    have h11 : Canon c10 := h9.moveFlip
    clear_value c10
    split
    · exact .ite h11.worksDrop.unstage h11
    · exact h11

theorem Canon.addMap {c : Chip} (h : Canon c) {t} : Canon (c.addMap t) := by
  unfold Chip.addMap
  split
  · exact h
  · exact .ite h h.memWriteNum.putMove.onUsh.memWriteNum

theorem Canon.addRehang {c : Chip} (h : Canon c) {i} : Canon (c.addRehang i) := by
  unfold Chip.addRehang
  split
  · exact h
  next d2 _ e4 =>
    have h5 : Canon d2 := h.rehangTables _ e4
    extract_lets c6
    have h7 : Canon c6 := h5.putMove
    clear_value c6
    exact h7.onUsh

theorem Canon.addCopy {c : Chip} (h : Canon c) {r t} : Canon (c.addCopy r t) := by
  unfold Chip.addCopy
  split
  · exact h
  · extract_lets pl1 n2
    split
    · exact h
    · split
      · exact h
      next d4 _ e6 =>
        have h7 : Canon d4 := h.takeFrames _ e6
        extract_lets x8 c9 c10
        have h11 : Canon c9 := h7.setModel
        have h12 : Canon c10 := h11.putMove
        clear_value c9 c10
        exact h12.onUsh

theorem Canon.putRecord {c : Chip} (h : Canon c) : Canon c.putRecord := by
  unfold Chip.putRecord
  extract_lets p1 y2
  exact h.memWrite

theorem Canon.buildMoves {c : Chip} (h : Canon c) {copies} : Canon (c.buildMoves copies) := by
  unfold Chip.buildMoves
  extract_lets c1 c2 c3
  have h4 : Canon c1 := h.onUsh
  have h5 : Canon c2 := Canon.foldl h4 fun _ _ h40 => (Canon.ite h40 h40.addMap)
  have h6 : Canon c3 := Canon.ite (Canon.foldl h5 fun _ _ hd => (Canon.ite hd.addRehang hd)) h5
  clear_value c1 c2 c3
  exact (Canon.foldl h6 fun _ _ hd => hd.addCopy).putRecord

theorem Canon.firstLoading {c : Chip} (h : Canon c) : Canon c.firstLoading := by
  unfold Chip.firstLoading
  extract_lets c1 c2 c3
  have h4 : Canon c1 := h.onUsh
  have h5 : Canon c2 := (Canon.foldl h4 fun _ _ hd => hd.addMap).putRecord
  have h6 : Canon c3 := Canon.foldl h5 fun _ _ h40 => h40.moveFlip
  clear_value c1 c2 c3
  exact h6.setEpoch

theorem Canon.changeoverDue {c : Chip} (h : Canon c) : Canon c.changeoverDue := by
  unfold Chip.changeoverDue
  extract_lets c1
  have h2 : Canon c1 := h.onUsh
  clear_value c1
  exact .ite (.ite h2.firstLoading h2) h2

theorem Canon.movesComplete {c : Chip} (h : Canon c) : Canon c.movesComplete := by
  unfold Chip.movesComplete
  extract_lets c1 c2 c3
  have h4 : Canon c1 := .foldl h fun _ _ hd => hd.repairFlip
  have h5 : Canon c2 := .foldl h4 fun _ _ hd => .ite hd.dropTables hd
  have h6 : Canon c3 := h5.onUsh.worksDrop
  clear_value c1 c2 c3
  exact h6.setEpoch.payOwed

theorem Canon.planRelease {c : Chip} (h : Canon c) : Canon c.planRelease := .ite h (.foldl h fun _ _ hd => hd.holdRelease)

theorem Canon.usherFence {c : Chip} (h : Canon c) {k cause} : Canon (c.usherFence k cause) := by
  unfold Chip.usherFence
  extract_lets t1 c2 n3 c4 c5
  have h6 : Canon c2 := h.fenceGallery.notice
  have h7 : Canon c4 := h6.addMap
  have h8 : Canon c5 := .ite (.foldl h6 fun _ _ hd => hd.holdGal) h6
  clear_value c2 c4 c5
  exact .ite (.ite h7.moveFlip h7) h8.onUsh

theorem Canon.stageLoad {c : Chip} (h : Canon c) {midx p s t g k sid} : Canon (c.stageLoad midx p s t g k sid).1 := by
  unfold Chip.stageLoad
  extract_lets x1 im2 dm3 kept4 sp5 swin6 x7 c8
  have h9 : Canon c8 := h.setGal
  clear_value c8
  refine .foldl_fst h9 fun p10 x12 h11 => ?_
  split
  · exact (Canon.ite h11.onGal.stEnd h11.onGal.stMoveRun).onGal
  · exact h11

theorem Canon.loadStages {c : Chip} (h : Canon c) {midx p} : Canon (c.loadStages midx p).1 := by
  unfold Chip.loadStages
  refine .foldl_fst h fun p1 x3 h2 => ?_
  split
  · exact h2
  · split
    next d5 _ e7 =>
      have h8 : Canon d5 := .of_fst h2.stageLoad e7
      split
      · exact h8
      · exact h8

theorem Canon.galOff {c : Chip} (h : Canon c) {k} : Canon (c.galOff k) := h.setDomSt.domsRun.onGal

theorem Canon.idleOff {c : Chip} (h : Canon c) {p} : Canon (c.idleOff p) := by
  unfold Chip.idleOff
  extract_lets used1
  exact .foldl h fun _ _ hd => .ite hd hd.galOff

/-! ### The host interface -/

theorem Canon.setSq {c : Chip} (h : Canon c) {q v} : Canon (c.setSq q v) := .mk h

theorem Canon.serve {c : Chip} (h : Canon c) {q} : Canon (c.serve q) := by
  unfold Chip.serve
  extract_lets base1 x2
  exact .mk h

theorem Canon.journalCmd {c : Chip} (h : Canon c) {q e err} : Canon (c.journalCmd q e err).1 := h.journal

theorem Canon.rejectCmd {c : Chip} (h : Canon c) {q e seq x} : Canon (c.rejectCmd q e seq x) := h.postError

theorem Canon.sqAdvance {c : Chip} (h : Canon c) {q n} : Canon (c.sqAdvance q n) := h.wrF

theorem Canon.overlong {c : Chip} (h : Canon c) {q} : Canon (c.overlong q) := by
  unfold Chip.overlong
  extract_lets e1 idx2
  split
  next d4 _ e6 =>
    have h7 : Canon d4 := .of_fst h.journalCmd e6
    extract_lets c8
    have h9 : Canon c8 := h7.rejectCmd
    clear_value c8
    exact h9.sqAdvance.wrF.notice

theorem Canon.mapCopy {c : Chip} (h : Canon c) {e p} : Canon (c.mapCopy e p).1 := by
  unfold Chip.mapCopy
  split
  · exact h
  · split
    next d2 _ e4 =>
      have h5 : Canon d2 := h.takeBlock _ e4
      exact h5.memWrite
    · exact h

theorem Canon.acceptCmd {c : Chip} (h : Canon c) {q e seq p bufs} : Canon (c.acceptCmd q e seq p bufs) := by
  unfold Chip.acceptCmd
  split
  next d2 _ e4 =>
    have h5 : Canon d2 := .of_fst h.mapCopy e4
    extract_lets m6 x7
    exact .mk h5

theorem Canon.takeCmd {c : Chip} (h : Canon c) {q ok good} : Canon (c.takeCmd q ok good) := by
  unfold Chip.takeCmd
  extract_lets e1 c2 n3 list4 bufs5 raw6 p7 err8
  have h9 : Canon c2 := h.serve
  clear_value e1 c2 n3 list4 bufs5 raw6 p7 err8
  split
  · exact h
  · split
    · exact h.serve.overlong
    · split
      next d11 _ e13 =>
        have h14 : Canon d11 := .of_fst h9.journalCmd e13
        extract_lets c15
        have h16 : Canon c15 := by
          unfold c15
          split
          · have h19 : Canon d11 := .of_fst h9.journalCmd e13
            exact h19.rejectCmd
          · have h21 : Canon d11 := .of_fst h9.journalCmd e13
            exact h21.acceptCmd
        clear_value c15
        exact h16.sqAdvance

/-! ### Effects of host commands -/

theorem Canon.doneCommand {c : Chip} (h : Canon c) {a status result} : Canon (c.doneCommand a status result) := h.postFor

theorem Canon.doneCapacity {c : Chip} (h : Canon c) {a} : Canon (c.doneCapacity a) := h.postFor

theorem Canon.doneTicket {c : Chip} (h : Canon c) {i a status result} : Canon (c.doneTicket i a status result) := h.postFor

theorem Canon.tkPutAll {c : Chip} (h : Canon c) {i d} : Canon (c.tkPutAll i d) := h.tkPut.tkPut

theorem Canon.newLog {c : Chip} (h : Canon c) : ∀ d ∈ c.newLog, Canon d.1 := by
  unfold Chip.newLog
  refine Option.forall_mem_map.mpr fun a ha => ?_
  have h1 : Canon a.1 := h.takeTwo a ha
  generalize leBytes 512 0 = l
  exact h1.memWrite.memWrite

theorem Canon.keepMap {c : Chip} (h : Canon c) {i first n m} : ∀ d ∈ c.keepMap i first n m, Canon d := by
  unfold Chip.keepMap
  extract_lets join1
  have hf_join1 : ∀ y2 y4, Canon y2 → Canon (join1 y2 y4) := by
    intro y2 y4 h3
    unfold join1
    exact h3.setAux
  split
  · exact forall_mem_some h
  · split
    · exact forall_mem_some (hf_join1 _ _ h)
    · split
      next d6 _ e8 =>
        have h9 : Canon d6 := .of_fst h.mapCopy e8
        exact forall_mem_some (hf_join1 _ _ h9)
      next d11 e12 =>
        have h13 : Canon d11 := .of_fst h.mapCopy e12
        exact forall_mem_none

theorem Canon.mapLeft {c : Chip} (h : Canon c) {m} : Canon (c.mapLeft m) := by
  unfold Chip.mapLeft
  split
  · exact .ite h h.freeBlock
  · exact h

theorem Canon.dropMaps {c : Chip} (h : Canon c) {i} : Canon (c.dropMaps i) := by
  unfold Chip.dropMaps
  extract_lets l1
  exact Canon.ite h (Canon.foldl h fun _ _ hd => hd.freeBlock).setAux

theorem Canon.admitTicket {c : Chip} (h : Canon c) {m} : ∀ d ∈ c.admitTicket m, Canon d := by
  unfold Chip.admitTicket
  extract_lets e1 p2 toks3 sr4
  have h5 : ∀ d ∈ sr4, Canon d.1 := by
    unfold sr4
    split
    · exact h.takeStop
    · exact forall_mem_some h
  clear_value e1 p2 toks3 sr4
  split
  · exact forall_mem_none
  next d7 _ =>
    have h9 : Canon d7 := h5 _ rfl
    split
    · exact forall_mem_none
    next d11 _ e13 =>
      have h14 : Canon d11 := h9.takeIndex _ e13
      have h15 : Canon d7 := h5 _ rfl
      split
      · exact forall_mem_none
      next d17 _ _ e20 =>
        have h21 : Canon d17 := h14.newLog _ e20
        have h22 : Canon d7 := h5 _ rfl
        extract_lets d23 c24
        have h25 : Canon c24 := h21.tkPutAll
        clear_value d23 c24
        split
        · exact forall_mem_none
        next d27 e28 =>
          have h29 : Canon d27 := h25.logAppend _ e28
          have h30 : Canon d7 := h5 _ rfl
          split
          · exact forall_mem_none
          next d32 e33 =>
            have h34 : Canon d32 := h29.keepMap _ e33
            have h35 : Canon d7 := h5 _ rfl
            extract_lets c36 c37 c38
            have h39 : Canon c36 := h34.tkPut.setFlag.setAux
            have hd : Canon c37 := by
              unfold c37
              split
              next d42 _ e44 =>
                have h45 : Canon d42 := h39.newRoot _ e44
                have h46 : Canon d7 := h5 _ rfl
                exact h45.tkPut
              · exact h39
            have h47 : Canon c38 := hd.doneTicket
            clear_value c36 c37 c38
            exact forall_mem_some h47.setState

theorem Canon.feedTokens {c : Chip} (h : Canon c) {i m} : ∀ d ∈ c.feedTokens i m, Canon d := by
  unfold Chip.feedTokens
  extract_lets first1
  split
  · exact forall_mem_none
  next d3 e4 =>
    have h5 : Canon d3 := h.logAppend _ e4
    refine Option.forall_mem_map.mpr fun r6 e7 => ?_
    have h8 : Canon r6 := h5.keepMap _ e7
    exact h8.setAux

theorem Canon.resume {c : Chip} (h : Canon c) {i m} : Canon (c.resume i m) := by
  unfold Chip.resume
  extract_lets d1 d2 d3
  exact h.tkPut.setStateWith.setAux

theorem Canon.spillStart {c : Chip} (h : Canon c) {i tgt ans} : Canon (c.spillStart i tgt ans) := by
  unfold Chip.spillStart
  extract_lets c1 x2 c3 c4 c5
  have h6 : Canon c1 := h.setFlag
  have h7 : Canon c3 := by
    unfold c3
    split
    · exact .mk h6
    · exact h6
  have h11 : Canon c4 := h7.setAux
  have h12 : Canon c5 := h11.spillStage
  clear_value c1 c3 c4 c5
  split
  · exact h12
  · split
    · exact h12.spillAbandon
    · exact h12.sendMsg

theorem Canon.recallStart {c : Chip} (h : Canon c) {i ans} : Canon (c.recallStart i ans) := h.setFlag.setAux.recallBegin

theorem Canon.chunkRecall {c : Chip} (h : Canon c) {i t k} : Canon (c.chunkRecall i t k) := by
  unfold Chip.chunkRecall
  extract_lets b1 node2 annex3 x4 c5 x6
  have h7 : Canon c5 := .mk h
  clear_value c5
  split
  · exact h
  · split
    · exact h
    · exact h7.request

theorem Canon.forkSlots {c : Chip} (h : Canon c) {j src} : ∀ d ∈ c.forkSlots j src, Canon d := by
  unfold Chip.forkSlots
  refine .foldl_opt (forall_mem_some h) fun o1 x3 h2 => ?_
  split
  · exact forall_mem_none
  next d5 =>
    have h6 : Canon d5 := h2 _ rfl
    extract_lets s7 fmt8
    split
    · exact forall_mem_some h6.slotInc
    · refine Option.forall_mem_map.mpr fun r9 e10 => ?_
      have h11 : Canon r9.1 := h6.takeSlot _ e10
      exact h11.addWork

theorem Canon.forkTables {c : Chip} (h : Canon c) {j src} : ∀ d ∈ c.forkTables j src, Canon d.1 := by
  unfold Chip.forkTables
  split
  · exact forall_mem_none
  next d2 _ e4 =>
    have h5 : Canon d2 := h.newRootOf _ e4
    extract_lets c6 r7
    have h8 : Canon c6 := .foldl h5 fun _ _ hd => hd.memWriteNum
    have h9 : ∀ d ∈ r7, Canon d := by
      unfold r7
      refine .foldl_opt (forall_mem_some h8) fun o10 x12 h11 => ?_
      split
      · exact forall_mem_none
      next d14 =>
        have h15 : Canon d14 := h11 _ rfl
        refine Option.forall_mem_map.mpr fun r16 e17 => ?_
        have h18 : Canon r16 := h15.needChunk _ e17
        extract_lets a19 b20
        exact .foldl h18 fun _ _ hd => hd.addWork
    clear_value c6 r7
    split
    · exact forall_mem_none
    next d22 =>
      have h23 : Canon d22 := h9 _ rfl
      refine Option.forall_mem_map.mpr fun r24 e25 => ?_
      have h26 : Canon r24 := h23.forkSlots _ e25
      exact h26.sendWorks

theorem Canon.forkMaps {c : Chip} (h : Canon c) {i j} : ∀ d ∈ c.forkMaps i j, Canon d := by
  unfold Chip.forkMaps
  refine .foldl_opt (forall_mem_some h) fun o1 x3 h2 => ?_
  split
  · exact forall_mem_none
  next d5 =>
    have h6 : Canon d5 := h2 _ rfl
    refine Option.forall_mem_map.mpr fun r7 e8 => ?_
    have h9 : Canon r7.1 := h6.takeBlock _ e8
    exact h9.copyMem.setAux

theorem Canon.fork {c : Chip} (h : Canon c) {i m} : ∀ d ∈ c.fork i m, Canon d := by
  unfold Chip.fork
  split
  · exact forall_mem_none
  next d2 _ e4 =>
    have h5 : Canon d2 := h.takeIndex _ e4
    split
    · exact forall_mem_none
    next d7 _ _ e10 =>
      have h11 : Canon d7 := h5.newLog _ e10
      extract_lets src12 d13 d14 d15 d16 toks17 c18
      have h19 : Canon c18 := h11.tkPutAll
      clear_value c18
      split
      · exact forall_mem_none
      next d21 e22 =>
        have h23 : Canon d21 := h19.logAppend _ e22
        split
        · exact forall_mem_none
        next d25 _ e27 =>
          have h28 : Canon d25 := h23.forkTables _ e27
          split
          · exact forall_mem_none
          next d30 e31 =>
            have h32 : Canon d30 := h28.tkPut.forkMaps _ e31
            extract_lets c33 c34
            have h35 : Canon c33 := h32.shareStop
            have h36 : Canon c34 := h35.setAux
            clear_value c33 c34
            exact forall_mem_some h36.setState

theorem Canon.query {c : Chip} (h : Canon c) {i m} : Canon (c.query i m) := by
  unfold Chip.query
  extract_lets e1 room2 n3 log4 out5
  exact (Canon.mk h).doneTicket

theorem Canon.journalRead {c : Chip} (h : Canon c) {m} : Canon (c.journalRead m) := by
  unfold Chip.journalRead
  extract_lets e1 from2 n3 at4 c5 out6
  have h7 : Canon c5 := Canon.foldl h fun _ _ h40 => h40.memTouch
  clear_value c5
  exact (Canon.mk h7).doneCommand

theorem Canon.negotiate {c : Chip} (h : Canon c) {m} : Canon (c.negotiate m) := by
  unfold Chip.negotiate
  extract_lets e1 stands2 old3 live4 areas5
  split
  · exact h.doneCommand
  · extract_lets feat6 c7 x8 c9
    have h10 : Canon c7 := h.wrF.wrF.wr
    have h11 : Canon c9 := .mk h10
    clear_value c7 c9
    exact .ite h.doneCommand h11.doneCommand

theorem Canon.budgetSet {c : Chip} (h : Canon c) {m} : Canon (c.budgetSet m) := .ite h.doneCommand h.wr.onUsh.doneCommand

theorem Canon.planSelect {c : Chip} (h : Canon c) {m} : ∀ d ∈ c.planSelect m, Canon d := by
  unfold Chip.planSelect
  extract_lets s1
  split
  · exact forall_mem_some h.doneCommand
  · split
    · exact forall_mem_none
    · split
      · exact forall_mem_some h.onUsh.changeoverDue
      · exact forall_mem_some h.onUsh

theorem Canon.placeRun {c : Chip} (h : Canon c) {im t ss n} : ∀ d ∈ c.placeRun im t ss n, Canon d.1 := by
  unfold Chip.placeRun
  split
  · extract_lets rest1 total2 k3
    split
    · exact fun | _, rfl => h
    · refine Option.forall_mem_map.mpr fun r4 e5 => ?_
      have h6 : Canon r4.1 := h.takeFrames _ e5
      extract_lets base7 c8
      have h9 : Canon c8 := by
        unfold c8
        refine .foldl h6 fun d10 x12 h11 => ?_
        split
        · exact h11.memWrite
        · exact h11
      clear_value c8
      exact h9

theorem Canon.placeIn {c : Chip} (h : Canon c) {im t ss n} : ∀ d ∈ c.placeIn im t ss n, Canon d.1 := by
  unfold Chip.placeIn
  split
  next x2 e3 =>
    have h4 : Canon (x2.1) := h.placeRun _ e3
    exact forall_mem_some h4
  · extract_lets r5
    have h6 : ∀ d ∈ r5, Canon d.1 := by
      unfold r5
      refine .foldl_opt_fst (forall_mem_some h) fun o7 x9 h8 => ?_
      split
      · exact forall_mem_none
      next d11 _ _ =>
        have h14 : Canon d11 := h8 _ rfl
        refine Option.forall_mem_map.mpr fun r15 e16 => ?_
        have h17 : Canon r15.1 := h14.placeRun _ e16
        exact h17
    clear_value r5
    split
    · exact forall_mem_none
    next d19 _ _ =>
      have h22 : Canon d19 := h6 _ rfl
      refine Option.forall_mem_map.mpr fun r23 e24 => ?_
      have h25 : Canon r23.1 := h22.placeRun _ e24
      exact h25

theorem Canon.placeModel {c : Chip} (h : Canon c) {midx im} : ∀ d ∈ c.placeModel midx im, Canon d := by
  unfold Chip.placeModel
  extract_lets places1 r2 x3
  have h4 : ∀ d ∈ r2, Canon d.1 := by
    unfold r2
    refine .foldl_opt_fst (forall_mem_some h) fun o5 x7 h6 => ?_
    split
    · exact forall_mem_none
    next d9 _ _ _ =>
      have h13 : Canon d9 := h6 _ rfl
      split
      · exact forall_mem_some h13
      · split
        · exact forall_mem_none
        next d15 _ _ _ e19 =>
          have h20 : Canon d15 := h13.placeIn _ e19
          have h21 : Canon d9 := h6 _ rfl
          exact forall_mem_some h20
  clear_value places1 r2 x3
  refine Option.forall_mem_map.mpr fun r22 e23 => ?_
  have h24 : Canon r22.1 := h4 _ e23
  exact h24.setModel

theorem Canon.putAdapters {c : Chip} (h : Canon c) {midx p} : Canon (c.putAdapters midx p) :=
  .ite h (.foldl h fun _ _ hd => .foldl hd fun _ _ h38 => h38.memWriteNum)

theorem Canon.adaptersNow {c : Chip} (h : Canon c) {midx} : Canon (c.adaptersNow midx) := by
  unfold Chip.adaptersNow
  split
  · exact .ite h.putAdapters h
  · exact h

theorem Canon.placeAdapter {c : Chip} (h : Canon c) {midx n im} : ∀ d ∈ c.placeAdapter midx n im, Canon d := by
  unfold Chip.placeAdapter
  extract_lets r1
  have h2 : ∀ d ∈ r1, Canon d.1 := by
    unfold r1
    refine .foldl_opt_fst (forall_mem_some h) fun o3 x5 h4 => ?_
    split
    · exact forall_mem_none
    next d7 _ =>
      have h9 : Canon d7 := h4 _ rfl
      split
      · exact forall_mem_none
      next d11 _ _ _ e15 =>
        have h16 : Canon d11 := h9.placeIn _ e15
        have h17 : Canon d7 := h4 _ rfl
        exact forall_mem_some h16
  clear_value r1
  refine Option.forall_mem_map.mpr fun r18 e19 => ?_
  have h20 : Canon r18.1 := h2 _ e19
  exact h20.setModel.adaptersNow

theorem Canon.dropAdapter {c : Chip} (h : Canon c) {midx n} : Canon (c.dropAdapter midx n) := by
  unfold Chip.dropAdapter
  extract_lets l1 c2 x3
  have h4 : Canon c2 := .foldl h fun _ _ hd => .foldl hd fun _ _ h39 => h39.setFrame
  clear_value c2
  exact h4.setModel.adaptersNow

theorem Canon.modelUnload {c : Chip} (h : Canon c) {m} : Canon (c.modelUnload m) := by
  unfold Chip.modelUnload
  extract_lets midx1 n2 res3 c4 c5
  have h6 : Canon c4 := .foldl h fun _ _ hd => hd.dropAdapter
  have h7 : Canon c5 := .foldl h6 fun _ _ hd => hd.setFrame
  clear_value c4 c5
  exact .ite h.doneCommand (.ite h.dropAdapter.doneCommand h7.setModel.doneCommand)

theorem Canon.reloadRanges {c : Chip} (h : Canon c) {midx im} : Canon (c.reloadRanges midx im) := by
  unfold Chip.reloadRanges
  extract_lets s1 c2 x3
  have h4 : Canon c2 := by
    unfold c2
    refine .foldl h fun d5 x7 h6 => ?_
    split
    · exact h6
    · extract_lets bs8
      exact .foldl h6 fun _ _ hd => hd.memWrite
  clear_value c2
  exact h4.setModel.weightsDone

theorem Canon.modelLoad {c : Chip} (h : Canon c) {m} : Canon (c.modelLoad m) := by
  unfold Chip.modelLoad
  extract_lets midx1 n2 im3 res4 fail5 bad6
  have hf_fail5 : ∀ y7, Canon (fail5 y7) := by
    intro y7
    unfold fail5
    exact h.doneCommand
  split
  · exact hf_fail5 _
  · split
    · exact hf_fail5 _
    · split
      · split
        · exact .ite (hf_fail5 _) (.ite (hf_fail5 _) h.reloadRanges.doneCommand)
        · split
          · exact hf_fail5 _
          · split
            · exact hf_fail5 _
            next d9 e10 =>
              have h11 : Canon d9 := h.placeModel _ e10
              exact .ite h11.doneCommand (hf_fail5 _)
      · split
        · exact hf_fail5 _
        · split
          · exact hf_fail5 _
          · split
            · exact hf_fail5 _
            next d13 e14 =>
              have h15 : Canon d13 := h.placeAdapter _ e14
              exact h15.doneCommand

/-- The module that a command which was asked to take effect leaves. -/
def triedChip : Tried → Chip
  | .done c => c
  | .wait c => c

theorem Canon.tried_ite {p : Prop} [Decidable p] {a b : Tried} (ha : Canon (triedChip a)) (hb : Canon (triedChip b)) :
    Canon (triedChip (if p then a else b)) := by
  split <;> assumption

theorem Canon.tried_done {c : Chip} (h : Canon c) : Canon (triedChip (.done c)) := h

theorem Canon.tried_wait {c : Chip} (h : Canon c) : Canon (triedChip (.wait c)) := h

theorem Canon.tryResume {c : Chip} (h : Canon c) {i m} : Canon (triedChip (c.tryResume i m)) := by
  unfold Chip.tryResume
  extract_lets st rst go
  have hgo : ∀ c, Canon c → Canon (triedChip (go c)) := by
    intro c h
    refine tried_ite h.resume (tried_ite h.postError ?_)
    split
    next d e => exact (h.feedTokens d e).resume
    · exact h
  clear_value go
  exact tried_ite (tried_ite h (tried_ite (hgo _ h.spillAbandon) (hgo _ h))) (tried_ite (tried_ite h h.recallStart)
    (tried_ite h (tried_ite h.resume h.postError)))

theorem Canon.tryPark {c : Chip} (h : Canon c) {i m} : Canon (triedChip (c.tryPark i m)) :=
  tried_ite (tried_done h.parkFor) (tried_ite (tried_ite h (tried_done h.parkFor)) (tried_ite (tried_done h.postDone)
    (tried_ite (tried_wait h.setFlag) (tried_done h.postError))))

theorem Canon.tryFork {c : Chip} (h : Canon c) {i m} : Canon (triedChip (c.tryFork i m)) := by
  refine tried_ite h.postError (tried_ite h (tried_ite h.recallStart ?_))
  split
  next d e => exact h.fork d e
  · exact h.doneCapacity

theorem Canon.trySpill {c : Chip} (h : Canon c) {i m} : Canon (triedChip (c.trySpill i m)) := by
  unfold Chip.trySpill
  extract_lets st sp
  refine tried_ite h (tried_ite (tried_done h.postMove) (tried_ite ?_ (tried_done h.postError)))
  split
  · exact tried_done h.postError
  · exact tried_ite (tried_done h.postError) (tried_done h.spillStart)
  · exact tried_done h.spillStart

theorem Canon.tryRecall {c : Chip} (h : Canon c) {i m} : Canon (triedChip (c.tryRecall i m)) :=
  tried_ite h.postError (tried_ite h (tried_ite h.recallStart (Canon.postMove (h.foldl fun _ _ h => h.chunkRecall))))

theorem Canon.tryRelease {c : Chip} (h : Canon c) {i m} : Canon (triedChip (c.tryRelease i m)) := by
  unfold Chip.tryRelease
  extract_lets st join c1
  have h1 : Canon c1 := by
    unfold c1
    split
    · exact h.memWriteNum
    · exact h
  exact tried_ite (tried_done h.postError) (tried_ite h (tried_ite (tried_done h.setAux)
    (tried_ite (tried_wait h1.flushTokens.setAux) (tried_done h1.retire))))

theorem Canon.tryCmd {c : Chip} (h : Canon c) {m} : Canon (triedChip (c.tryCmd m)) := by
  unfold Chip.tryCmd
  extract_lets opc opened
  clear_value opc opened
  refine tried_ite ?_ ?_
  · split
    · exact tried_done h.postError
    next i _ =>
      extract_lets c1
      have h1 : Canon c1 := h.mend
      clear_value c1
      refine tried_ite (tried_ite h1 (tried_done h1.postError)) ?_
      split
      · exact tried_ite h1.tryResume h1
      · exact tried_ite h1.tryResume h1
      · exact tried_ite h1.tryPark h1
      · exact tried_ite h1 h1.tryFork
      · exact h1.tryRelease
      · exact tried_ite h1 h1.trySpill
      · exact tried_ite h1 h1.tryRecall
      · exact tried_done h1.query
  · split
    · refine tried_ite ?_ h
      split
      next d e => exact h.admitTicket d e
      · exact tried_done h.doneCapacity
    · exact tried_done (.ite h.modelUnload h.modelLoad)
    · split
      next d e => exact h.planSelect d e
      · exact h
    · exact tried_done h.budgetSet
    · exact tried_done h.negotiate
    · exact tried_done h.journalRead

theorem Canon.resumeEarly {c : Chip} (h : Canon c) {m} : Canon (c.resumeEarly m).1 := by
  unfold Chip.resumeEarly
  extract_lets opc1
  split
  · exact h
  · split
    · exact h
    · split
      · exact h
      · split
        · exact h.setFlag
        · split
          · exact h
          · split
            next d3 e4 =>
              have h5 : Canon d3 := h.feedTokens _ e4
              exact h5.setFlag
            · exact h.setFlag

theorem Canon.settleGo {c : Chip} (h : Canon c) {blocked l} : Canon (c.settleGo blocked l).1 := by
  induction l generalizing c blocked with
  | nil => exact h
  | cons m l ih =>
    unfold Chip.settleGo
    extract_lets w opc m1
    split
    · split
      next d _ e => exact ih (.of_fst h.resumeEarly e)
    · have ht : Canon (triedChip (c.tryCmd m1)) := h.tryCmd
      split
      next d e =>
        rw [e] at ht
        exact ih (Canon.mapLeft ht)
      next d e =>
        rw [e] at ht
        split
        next d' _ e' => exact ih (.of_fst (Canon.resumeEarly ht) e')

theorem Canon.settle {c : Chip} (h : Canon c) : Canon c.settle := by
  unfold Chip.settle
  extract_lets x1 r2 x3 x4
  have h5 : Canon r2.1 := (Canon.mk h).settleGo
  have h6 : Canon x3 := h5
  clear_value r2 x3
  exact Canon.mk h6

/-! ### Rows of the step table -/

theorem Canon.rowStops {c : Chip} (h : Canon c) {b pipe} : Canon (c.rowStops b pipe) := .foldl h fun _ _ hd => (.ite hd.parkFor (.ite hd.parkFor hd))

theorem Canon.readyPrefill {c : Chip} (h : Canon c) {plan i pos} : ∀ d ∈ c.readyPrefill plan i pos, Canon d := by
  unfold Chip.readyPrefill
  extract_lets root1
  refine .foldl_opt (forall_mem_some h) fun o2 x4 h3 => ?_
  split
  · exact forall_mem_none
  next d6 =>
    have h7 : Canon d6 := h3 _ rfl
    split
    · exact forall_mem_none
    next d9 e10 =>
      have h11 : Canon d9 := h7.needChunk _ e10
      have h12 : Canon d6 := h3 _ rfl
      split
      · exact forall_mem_some h11
      · split
        · extract_lets t13
          refine Option.forall_mem_map.mpr fun r14 e15 => ?_
          have h16 : Canon r14.1 := h11.takeSlot _ e15
          extract_lets c17
          have h18 : Canon c17 := h16.putEntry
          clear_value c17
          exact .ite h18 h18.setFlag
        · exact forall_mem_some h11

theorem Canon.lacking {c : Chip} (h : Canon c) : Canon c.lacking := h.onUsh

theorem Canon.fitRows {plan phase park f n l} {c : Chip} (h : Canon c) : ∀ d ∈ c.fitRows plan phase park f n l, Canon d.1 := by
  induction f generalizing n l c with
  | zero => unfold Chip.fitRows; exact forall_mem_some h
  | succ f ih =>
    unfold Chip.fitRows
    split
    · exact forall_mem_some h
    · exact forall_mem_some h
    · exact forall_mem_some h
    next i pos k l hf =>
      cases hf
      extract_lets ready run v
      have hr : ∀ d ∈ ready, Canon d := by
        unfold ready
        split
        · exact h.readyPrefill
        · split
          · exact forall_mem_some h
          · exact h.readyPos
      clear_value ready run v
      split
      · exact Option.forall_mem_map.mpr fun d e => (ih (hr _ rfl) d e : Canon d.1)
      · split
        · exact ih h.lacking
        · split
          · exact forall_mem_none
          · exact ih h.parkFor

theorem Canon.rowsFit {c : Chip} (h : Canon c) {plan phase step limit want} : Canon (c.rowsFit plan phase step limit want).1 := by
  unfold Chip.rowsFit
  extract_lets f1 waits2 d3
  have h4 : Canon d3 := (Canon.ite h.pick h).lacking
  clear_value d3
  split
  next x6 e7 =>
    have h8 : Canon (x6.1) := h.onUsh.fitRows _ e7
    exact h8
  · split
    · exact h4
    · split
      next x10 e11 =>
        have h12 : Canon (x10.1) := h4.fitRows _ e11
        exact h12
      · exact h4

theorem Canon.recoveryRoom {c : Chip} (h : Canon c) : Canon c.recoveryRoom := by
  unfold Chip.recoveryRoom
  split
  · exact h
  · split
    · exact h.lacking
    · split
      · exact h.parkFor.lacking
      · exact h.lacking

theorem Canon.writeMailboxes {c : Chip} (h : Canon c) {midx p step eclass} : Canon (c.writeMailboxes midx p step eclass) := by
  unfold Chip.writeMailboxes
  refine .foldl h fun d1 x3 h2 => ?_
  split
  · exact h2
  · split
    · extract_lets mb4 c5
      have h6 : Canon c5 := h2.mailboxWrite
      clear_value c5
      exact h6.onUsh

theorem Canon.formRows {c : Chip} (h : Canon c) {midx plan p step lags k limit want} : Canon (c.formRows midx plan p step lags k limit want) := by
  unfold Chip.formRows
  split
  next d2 e3 =>
    have h4 : Canon d2 := .of_fst h.rowsFit e3
    exact h4
  next d6 _ e8 =>
    have h9 : Canon d6 := .of_fst h.rowsFit e8
    extract_lets infos10 bytes11 c12 c13 c14
    have h15 : Canon c12 := .foldl h9 fun _ _ hd => hd.memWrite.memWrite
    have h16 : Canon c13 := .foldl h15 fun _ _ hd => hd.setAux
    have h17 : Canon c14 := h16.onUsh
    clear_value c12 c13 c14
    exact h17.writeMailboxes

theorem Canon.formTable {c : Chip} (h : Canon c) {midx plan p step lags} : Canon (c.formTable midx plan p step lags) := by
  unfold Chip.formTable
  split
  · exact .ite h.formRows h
  · extract_lets c1 c2 c3 nec4 want5
    have h6 : Canon c1 := .foldl h fun _ _ hd => hd.refresh
    have h7 : Canon c2 := h6.recoveryRoom
    have h8 : Canon c3 := .ite h7.rowStops h7
    clear_value c1 c2 c3
    exact h8.formRows

theorem Canon.resultsOf {c : Chip} (h : Canon c) {p batch r} : Canon (c.resultsOf p batch r).1 := by
  unfold Chip.resultsOf
  extract_lets q1
  have h2 : Canon q1.1 := by
    unfold q1
    refine .foldl_fst h fun p3 x5 h4 => ?_
    exact h4.memFetch
  clear_value q1
  exact h2

theorem Canon.integrityEvent {c : Chip} (h : Canon c) : Canon c.integrityEvent := h.errLog

theorem Canon.attnClear {c : Chip} (h : Canon c) {w pos} : Canon (c.attnClear w pos) := .mk h

theorem Canon.takeRecord {c : Chip} (h : Canon c) {x t b} : Canon (c.takeRecord x t b).1 := by
  unfold Chip.takeRecord
  extract_lets x'
  split
  · exact h.bump
  · split
    · exact h
    next i _ =>
      extract_lets c1 c2
      have h1 : Canon c1 := h.mend
      clear_value c1
      split
      · exact .ite h1.bump h1.bump.integrityEvent
      · split
        · exact h1
        · split
          · exact h1.onUsh
          next d e => exact h1.attnClear.sampled _ e

theorem Canon.acceptRow {c : Chip} (h : Canon c) {p batch x} : Canon (c.acceptRow p batch x).1 := by
  unfold Chip.acceptRow
  split
  · exact h
  · extract_lets q1
    have h2 : Canon q1.1 := h.resultsOf
    clear_value q1
    refine .foldl_fst h2 fun p3 x5 h4 => ?_
    exact h4.takeRecord

theorem Canon.finishRow {c : Chip} (h : Canon c) {x} : Canon (c.finishRow x).1 := by
  unfold Chip.finishRow
  split
  · exact h
  · split
    · exact h
    · exact .ite (.ite h.setNpos h) h.setAux

theorem Canon.putTable {c : Chip} (h : Canon c) {t} : Canon (c.putTable t) := h.onUsh

theorem Canon.eachRow {f : Chip → RowInfo → Chip × RowInfo} {a : Chip} (h : Canon a) (hf : ∀ y0 y1, Canon y0 → Canon (f y0 y1).1) {a2} : Canon
    (a.eachRow f a2).1 := by
  induction a2 generalizing f a with
  | nil =>
    unfold Chip.eachRow
    exact h
  | cons x l ih =>
    unfold Chip.eachRow
    extract_lets r1 q2
    have h3 : Canon r1.1 := hf _ _ h
    have h4 : Canon q2.1 := by
      unfold q2
      refine ih ?_ ?_
      · exact h3
      · intro d5 x6 h7
        exact hf _ _ h7
    clear_value r1 q2
    exact h4

theorem Canon.acceptTable {c : Chip} (h : Canon c) {batch} : Canon (c.acceptTable batch) := by
  unfold Chip.acceptTable
  split
  · split
    · exact h
    · split
      next d2 _ e4 =>
        have h5 : Canon d2 := .of_fst (.eachRow h (fun _ _ hd => hd.acceptRow)) e4
        split
        next d7 _ e9 =>
          have h10 : Canon d7 := .of_fst (.eachRow h5 (fun _ _ hd => hd.finishRow)) e9
          extract_lets all11 c12 c13
          have h14 : Canon c12 := h10.putTable
          have h15 : Canon c13 := .ite (.foldl h14 fun _ _ hd => hd.onGal) h14
          clear_value c12 c13
          split
          · refine .foldl h15 fun d16 x18 h17 => ?_
            split
            · exact h17.boundary
            · exact h17
          · exact h15
  · exact h

theorem Canon.removeRows {c : Chip} (h : Canon c) {f} : Canon (c.removeRows f) := h.onUsh

theorem Canon.addEnergy {c : Chip} (h : Canon c) {w uj} : Canon (c.addEnergy w uj) := by
  unfold Chip.addEnergy
  split
  · exact h
  · exact h.tkPut

theorem Canon.shareEnergy {c : Chip} (h : Canon c) {batch} : Canon (c.shareEnergy batch) := by
  unfold Chip.shareEnergy
  split
  · extract_lets net1 n2 ws3 c4
    have h5 : Canon c4 := .foldl h fun _ _ hd => hd.addEnergy
    clear_value c4
    exact .ite h h5.onUsh.putTable
  · exact h

/-! ### Commands of epochs -/

theorem CanonNext.onUsher {s : Machine.State} (h : Canon s.chip) {f : Chip → Chip} (hf : ∀ c, Canon c → Canon (f c)) : CanonNext (s.onUsher f) :=
  onChip h fun c h => .ite (hf c h) h

theorem CanonNext.execGalleryFence {s : Machine.State} (h : Canon s.chip) {g cause} : CanonNext (execGalleryFence g cause s) :=
  onUsher h fun _ h => Canon.ite h.usherFence h

theorem CanonNext.execPhasePolicyChange {s : Machine.State} (h : Canon s.chip) {phase} : CanonNext (execPhasePolicyChange phase s) :=
  onUsher h fun _ h => Canon.ite h.onUsh h

theorem CanonNext.execChangeoverBegin {s : Machine.State} (h : Canon s.chip) : CanonNext (execChangeoverBegin s) :=
  onUsher h fun _ h => Canon.ite h.closingStart.onUsh h

theorem CanonNext.execEpochClose {s : Machine.State} (h : Canon s.chip) {copies} : CanonNext (execEpochClose copies s) :=
  onUsher h fun _ h => (Canon.ite h (Canon.foldl (Canon.foldl (Canon.foldl h.releaseEpochPins fun _ _ h26 => h26.stepCredit.onGal) fun _ _ h27 =>
    (Canon.ite h27.shareEnergy h27)).onUsh fun _ _ hd => (Canon.ite hd.boundary hd)).buildMoves.setEpoch.movesIssue.settle)

theorem Canon.dropStepJobs {c : Chip} (h : Canon c) : Canon c.dropStepJobs := by
  unfold Chip.dropStepJobs
  refine .foldl h fun d1 x3 h2 => ?_
  extract_lets ids4
  exact .foldl h2 fun _ _ hd => hd.jobCancel

theorem CanonNext.execClosingTimeout {s : Machine.State} (h : Canon s.chip) : CanonNext (execClosingTimeout s) :=
  onUsher h fun _ h => (Canon.ite h (Canon.mk (Canon.foldl (Canon.foldl h fun _ _ h29 => h29.usherFence).removeRows fun _ _ hd =>
    (Canon.ite hd hd.onLink))).dropStepJobs)

theorem CanonNext.execMoveFlip {s : Machine.State} (h : Canon s.chip) {n} : CanonNext (execMoveFlip n s) :=
  onUsher h fun _ h => Canon.ite h.moveEnd.settle h

theorem CanonNext.execMovesComplete {s : Machine.State} (h : Canon s.chip) : CanonNext (execMovesComplete s) :=
  onUsher h fun _ h => Canon.ite h.movesComplete h

theorem Canon.recordedSelection {c : Chip} (h : Canon c) {s} : Canon (c.recordedSelection s) := by
  unfold Chip.recordedSelection
  extract_lets same1 c2
  have h3 : Canon c2 := by
    unfold c2
    split
    · exact h.doneCommand
    · exact h
  clear_value c2
  exact .ite h3.onUsh h.onUsh

/-- The one that asked for a selection is answered. -/
theorem Canon.selAnswer {c : Chip} (h : Canon c) {s : Selection} : Canon (match s.ans with | some a => c.doneCommand a 0 [] | none => c) := by
  split
  · exact h.doneCommand
  · exact h

/-- The selection that waits for an epoch is taken. -/
theorem Canon.takeNextSel {c : Chip} (h : Canon c) : Canon (match c.ush.nextSel with | some s => c.recordedSelection s | none => c) := by
  split
  · exact h.recordedSelection
  · exact h

theorem Canon.openEpoch {c : Chip} (h : Canon c) {pl p lags} : Canon (c.openEpoch pl p lags) := by
  unfold Chip.openEpoch
  extract_lets c1 c2 c3 c4 c5 c6
  have h1 : Canon c1 := .mk h
  have h2 : Canon c2 := h1.putAdapters.idleOff
  have h3 : Canon c3 := h2.onUsh
  have h4 : Canon c4 := h3.setEpoch.wrF.journalEpoch
  clear_value c4
  have h5 : Canon c5 := by
    unfold c5
    cases c4.ush.sel with
    | none => exact h4
    | some s => exact h4.selAnswer.onUsh
  clear_value c5
  have h6 : Canon c6 := h5.takeNextSel
  clear_value c6
  exact h6.formTable.settle

theorem CanonNext.execEpochOpen {s : Machine.State} (h : Canon s.chip) {lags} : CanonNext (execEpochOpen lags s) := by
  refine onUsher h fun c h => ?_
  split
  · exact h
  · extract_lets p1 m2 ready3 r4
    have h5 : Canon m2 := h.loadMaps
    have h6 : Canon r4.1 := h5.loadStages
    clear_value p1 m2 ready3 r4
    split
    · exact h
    · split
      · exact h6.openEpoch
      · exact .foldl h fun _ _ hd => hd.usherFence

theorem CanonNext.execStepResultsAccept {s : Machine.State} (h : Canon s.chip) {batch} : CanonNext (execStepResultsAccept batch s) := by
  refine onUsher h fun c h => ?_
  extract_lets ws1 c2 c3 x4
  have h5 : Canon c2 := h.acceptTable
  have h6 : Canon c3 := by
    unfold c3
    refine .foldl h5 fun d7 x9 h8 => ?_
    split
    · exact h8.dropMaps
    · exact h8
  clear_value ws1 c2 c3 x4
  exact (Canon.mk h6).settle

theorem CanonNext.execChanterFallbackStart {s : Machine.State} (h : Canon s.chip) {t col jobid entry} : CanonNext
    (execChanterFallbackStart t col jobid entry s) := by
  refine onUsher h fun c h => ?_
  extract_lets fb1 pos2
  clear_value fb1 pos2
  split
  · exact h
  · extract_lets k3 c4 avail5 c6 c7 x8
    have h9 : Canon c4 := h.ownWrF
    have h10 : Canon c6 := by
      unfold c6
      refine .foldl h9 fun d11 x13 h12 => ?_
      extract_lets r14
      clear_value r14
      exact h12.jobRun
    have h15 : Canon c7 := h10.onGal
    clear_value k3 c4 avail5 c6 c7 x8
    exact .ite h9 (.mk h15)

/-! ### Attention -/

theorem Canon.takeMsg {c : Chip} (h : Canon c) {l kind} : ∀ d ∈ c.takeMsg l kind, Canon d.1 := by
  unfold Chip.takeMsg
  split
  · exact forall_mem_none
  · extract_lets i1 x2
    exact forall_mem_some (.mk h)

theorem Canon.attnSend {c : Chip} (h : Canon c) {w layer t k q} : Canon (c.attnSend w layer t k q) := by
  unfold Chip.attnSend
  split
  · extract_lets b1 node2 tag3 body4 a5 x6 c7
    have h8 : Canon c7 := .mk h
    clear_value c7
    split
    · exact h
    · exact .ite h h8.sendMsg
  · exact h

theorem Canon.recoverChunk {c : Chip} (h : Canon c) {i t k} : Canon (c.recoverChunk i t k) := by
  unfold Chip.recoverChunk
  extract_lets root1 b2 c3 c4
  have h5 : Canon c3 := .ite h h.closeAnnex
  have h6 : Canon c4 := h5.memWriteNum
  clear_value c3 c4
  exact .ite h h6.recoverStart

theorem Canon.attnFail {c : Chip} (h : Canon c) {a} : Canon (c.attnFail a) := by
  unfold Chip.attnFail
  extract_lets x1 c2 c3
  have h4 : Canon c2 := .mk h
  have h5 : Canon c3 := h4.removeRows
  clear_value c2 c3
  split
  · exact h5.recoverChunk
  · exact h5

theorem Canon.attnMerge {c : Chip} (h : Canon c) {i a} : Canon (c.attnMerge i a) := by
  unfold Chip.attnMerge
  extract_lets root1 scale2 here3 due4 parts5 out6 x7
  exact .ite h (.ite h (.mk h))

theorem Canon.attnReceive {c : Chip} (h : Canon c) {p} : Canon (c.attnReceive p) := by
  unfold Chip.attnReceive
  extract_lets tag1 x2
  split
  · exact h.bump
  · split
    · exact h
    · split
      · exact h.attnFail
      · split
        · exact h
        · extract_lets b3
          exact (Canon.mk h).attnMerge

theorem CanonNext.execAttnQuery {s : Machine.State} (h : Canon s.chip) {side} : CanonNext (execAttnQuery side s) := by
  refine onUsher h fun c h => ?_
  split
  · split
    · exact h
    next d2 _ e4 =>
      have h5 : Canon d2 := h.takeMsg _ e4
      exact h5.sendMsg
  · exact h.attnSend

theorem CanonNext.execAttnPartial {s : Machine.State} (h : Canon s.chip) {l} : CanonNext (execAttnPartial l s) := by
  refine onUsher h fun c h => ?_
  split
  · exact h
  next d2 _ e4 =>
    have h5 : Canon d2 := h.takeMsg _ e4
    exact h5.attnReceive.settle

theorem CanonNext.execAttnPartialTimeout {s : Machine.State} (h : Canon s.chip) {tag} : CanonNext (execAttnPartialTimeout tag s) := by
  refine onUsher h fun c h => ?_
  split
  · exact h
  · exact .ite h h.attnFail.settle

/-! ### Memory commands -/

theorem Canon.sliceRequest {c : Chip} (h : Canon c) {r l} : Canon (c.sliceRequest r l) := by
  unfold Chip.sliceRequest
  split
  · exact h.takeTurn.serveHeld
  · exact h.answer

theorem CanonNext.execSliceRequest {s : Machine.State} (h : Canon s.chip) {tag line op ah who} : CanonNext (execSliceRequest tag line op ah who s) :=
  onLive h fun _ h => h.sliceRequest

theorem CanonNext.execSliceFill {s : Machine.State} (h : Canon s.chip) {line} : CanonNext (execSliceFill line s) :=
  onLive h fun _ h => h.sliceFill

theorem CanonNext.execBackInvalidate {s : Machine.State} (h : Canon s.chip) {line} : CanonNext (execBackInvalidate line s) :=
  onLive h fun _ h => Canon.ite h.backInvalidate h

theorem CanonNext.execVaultRequest {s : Machine.State} (h : Canon s.chip) {t v n} : CanonNext (execVaultRequest t v n s) := by
  refine onLive h fun c h => ?_
  extract_lets vk1
  clear_value vk1
  split
  · exact .ite h h.vaultServe
  · exact h

theorem CanonNext.execRefresh {s : Machine.State} (h : Canon s.chip) {t v layer bank} : CanonNext (execRefresh t v layer bank s) :=
  onChip h fun _ h => (.ite h (.mk h))

theorem CanonNext.execDelayLineCheck {s : Machine.State} (h : Canon s.chip) {t v layer needed} : CanonNext (execDelayLineCheck t v layer needed s) :=
  onChip h fun _ h => (.ite (.mk h) h)

theorem CanonNext.execLandingRetrain {s : Machine.State} (h : Canon s.chip) {t v layer needed} : CanonNext (execLandingRetrain t v layer needed s) :=
  onChip h fun _ h => Canon.ite h.retrainLanding h

theorem Canon.laneFail {c : Chip} (h : Canon c) {p lane} : Canon (c.laneFail p lane) := by
  unfold Chip.laneFail
  extract_lets free1 at2 c3
  have h4 : Canon c3 := h.mapLane.errLog
  clear_value c3
  split
  · exact .ite h4 h4.notice
  · exact .ite h4 h4.notice
  · exact h4

theorem Canon.retryWhere {c : Chip} (h : Canon c) {p} : Canon (c.retryWhere p) := by
  unfold Chip.retryWhere
  extract_lets ans1 fills2 x3
  exact .mk h

theorem Canon.takeBurst {c : Chip} (h : Canon c) {b forward x} : Canon (c.takeBurst b forward x) := by
  unfold Chip.takeBurst
  extract_lets k1 win2 came3 fwd4 fwd5 x6
  exact .mk h

theorem CanonNext.execBridgeBurstReceive {s : Machine.State} (h : Canon s.chip) {b forward x} : CanonNext (execBridgeBurstReceive b forward x s) :=
  onLive h fun _ h => (.ite h (.ite h.takeBurst (.mk h)))

theorem Canon.bridgeClear {c : Chip} (h : Canon c) {b} : Canon (c.bridgeClear b) := .foldl h fun _ _ hd => .mk hd

theorem Canon.bridgeGone {c : Chip} (h : Canon c) {b} : Canon (c.bridgeGone b) := by
  unfold Chip.bridgeGone
  extract_lets c1 x2
  have h3 : Canon c1 := h.retryWhere.bridgeClear
  clear_value c1
  exact (Canon.mk h3).healthNote

theorem CanonNext.execBridgeOutOfService {s : Machine.State} (h : Canon s.chip) {b} : CanonNext (execBridgeOutOfService b s) :=
  onChip h fun _ h => Canon.ite h h.bridgeGone

theorem Canon.stairGone {c : Chip} (h : Canon c) {t h2} : Canon (c.stairGone t h2) := by
  unfold Chip.stairGone
  extract_lets k1 x2
  exact (Canon.mk h).healthNote

theorem CanonNext.execStairOutOfService {s : Machine.State} (h : Canon s.chip) {t h1} : CanonNext (execStairOutOfService t h1 s) :=
  onChip h fun _ h => Canon.ite h h.stairGone

theorem CanonNext.execSelfRefreshEntry {s : Machine.State} (h : Canon s.chip) {t v} : CanonNext (execSelfRefreshEntry t v s) :=
  onChip h fun _ h => Canon.ite h.selfRefreshEnter h

theorem CanonNext.execSelfRefreshWritebackTimeout {s : Machine.State} (h : Canon s.chip) {t v written} : CanonNext
    (execSelfRefreshWritebackTimeout t v written s) :=
  onChip h fun _ h => Canon.ite h.selfRefreshEnter h

theorem CanonNext.execSelfRefreshExit {s : Machine.State} (h : Canon s.chip) {t v needed} : CanonNext (execSelfRefreshExit t v needed s) :=
  onChip h fun _ h => Canon.ite h.selfRefreshLeave h

/-! ### Commands of chanters -/

theorem CanonNext.onChanter {s : Machine.State} (h : Canon s.chip) {f : Chip → Nat → Nat → Chip} (hf : ∀ c k i, Canon c → Canon (f c k i)) {x free} :
    CanonNext (s.onChanter x free f) :=
  onChip h fun c h => .ite (hf c _ _ h) h

theorem CanonNext.onExt {s : Machine.State} (h : Canon s.chip) {x op rd f3 rs1 rs2 f7} : CanonNext (s.onExt x op rd f3 rs1 rs2 f7) :=
  onChanter h fun _ _ _ h => h.chWord

theorem Canon.sramUpset {c : Chip} (h : Canon c) {x u} : Canon (c.sramUpset x u) := by
  unfold Chip.sramUpset
  extract_lets k1 c2
  have h3 : Canon c2 := .ite h.onChanter h
  clear_value c2
  exact h3.errLog

theorem CanonNext.execChanterInstruction {s : Machine.State} (h : Canon s.chip) {x} : CanonNext (execChanterInstruction x s) :=
  onChanter h fun _ _ _ h => (Canon.foldl h fun _ _ hd => hd.sramUpset).chInstr

theorem CanonNext.execLdl {s : Machine.State} (h : Canon s.chip) {x rd rs1} : CanonNext (execLdl x rd rs1 s) :=
  onExt h

theorem CanonNext.execLdlDataArrival {s : Machine.State} (h : Canon s.chip) {x} : CanonNext (execLdlDataArrival x s) :=
  onLive h fun _ h => h.readArrive

theorem CanonNext.execStl {s : Machine.State} (h : Canon s.chip) {x rs1 rs2} : CanonNext (execStl x rs1 rs2 s) :=
  onExt h

theorem CanonNext.execLineOpRetry {s : Machine.State} (h : Canon s.chip) {x} : CanonNext (execLineOpRetry x s) :=
  onLive h fun _ h => h.opRetry

theorem CanonNext.execPcopy {s : Machine.State} (h : Canon s.chip) {x rs1 rs2} : CanonNext (execPcopy x rs1 rs2 s) :=
  onExt h

theorem CanonNext.execFencel {s : Machine.State} (h : Canon s.chip) {x rd} : CanonNext (execFencel x rd s) :=
  onExt h

theorem CanonNext.execJdone {s : Machine.State} (h : Canon s.chip) {x rs1} : CanonNext (execJdone x rs1 s) :=
  onExt h

theorem CanonNext.execQsimdAdd {s : Machine.State} (h : Canon s.chip) {x w rd rs1 rs2} : CanonNext (execQsimdAdd x w rd rs1 rs2 s) :=
  onExt h

theorem CanonNext.execQsimdSub {s : Machine.State} (h : Canon s.chip) {x w rd rs1 rs2} : CanonNext (execQsimdSub x w rd rs1 rs2 s) :=
  onExt h

theorem CanonNext.execQsimdMul {s : Machine.State} (h : Canon s.chip) {x w rd rs1 rs2} : CanonNext (execQsimdMul x w rd rs1 rs2 s) :=
  onExt h

theorem CanonNext.execQsimdSmin {s : Machine.State} (h : Canon s.chip) {x w rd rs1 rs2} : CanonNext (execQsimdSmin x w rd rs1 rs2 s) :=
  onExt h

theorem CanonNext.execQsimdSmax {s : Machine.State} (h : Canon s.chip) {x w rd rs1 rs2} : CanonNext (execQsimdSmax x w rd rs1 rs2 s) :=
  onExt h

theorem CanonNext.execQsimdUmin {s : Machine.State} (h : Canon s.chip) {x w rd rs1 rs2} : CanonNext (execQsimdUmin x w rd rs1 rs2 s) :=
  onExt h

theorem CanonNext.execQsimdUmax {s : Machine.State} (h : Canon s.chip) {x w rd rs1 rs2} : CanonNext (execQsimdUmax x w rd rs1 rs2 s) :=
  onExt h

theorem CanonNext.execQsimdAnd {s : Machine.State} (h : Canon s.chip) {x w rd rs1 rs2} : CanonNext (execQsimdAnd x w rd rs1 rs2 s) :=
  onExt h

theorem CanonNext.execQsimdOr {s : Machine.State} (h : Canon s.chip) {x w rd rs1 rs2} : CanonNext (execQsimdOr x w rd rs1 rs2 s) :=
  onExt h

theorem CanonNext.execQsimdXor {s : Machine.State} (h : Canon s.chip) {x w rd rs1 rs2} : CanonNext (execQsimdXor x w rd rs1 rs2 s) :=
  onExt h

theorem CanonNext.execQsimdShl {s : Machine.State} (h : Canon s.chip) {x w rd rs1 rs2} : CanonNext (execQsimdShl x w rd rs1 rs2 s) :=
  onExt h

theorem CanonNext.execQsimdShr {s : Machine.State} (h : Canon s.chip) {x w rd rs1 rs2} : CanonNext (execQsimdShr x w rd rs1 rs2 s) :=
  onExt h

theorem CanonNext.execQsimdSar {s : Machine.State} (h : Canon s.chip) {x w rd rs1 rs2} : CanonNext (execQsimdSar x w rd rs1 rs2 s) :=
  onExt h

theorem CanonNext.execQsimdEq {s : Machine.State} (h : Canon s.chip) {x w rd rs1 rs2} : CanonNext (execQsimdEq x w rd rs1 rs2 s) :=
  onExt h

theorem CanonNext.execQsimdPermute {s : Machine.State} (h : Canon s.chip) {x rd rs1 rs2} : CanonNext (execQsimdPermute x rd rs1 rs2 s) :=
  onExt h

theorem CanonNext.execQsimdFadd {s : Machine.State} (h : Canon s.chip) {x rd rs1 rs2} : CanonNext (execQsimdFadd x rd rs1 rs2 s) :=
  onExt h

theorem CanonNext.execQsimdFmul {s : Machine.State} (h : Canon s.chip) {x rd rs1 rs2} : CanonNext (execQsimdFmul x rd rs1 rs2 s) :=
  onExt h

theorem CanonNext.execQsimdFma {s : Machine.State} (h : Canon s.chip) {x rd rs1 rs2} : CanonNext (execQsimdFma x rd rs1 rs2 s) :=
  onExt h

theorem CanonNext.execQsimdFmax {s : Machine.State} (h : Canon s.chip) {x rd rs1 rs2} : CanonNext (execQsimdFmax x rd rs1 rs2 s) :=
  onExt h

theorem CanonNext.execQins {s : Machine.State} (h : Canon s.chip) {x lane rd rs1} : CanonNext (execQins x lane rd rs1 s) :=
  onExt h

theorem CanonNext.execQext {s : Machine.State} (h : Canon s.chip) {x lane rd rs1} : CanonNext (execQext x lane rd rs1 s) :=
  onExt h

theorem CanonNext.execQcvt {s : Machine.State} (h : Canon s.chip) {x rd rs1 rs2} : CanonNext (execQcvt x rd rs1 rs2 s) :=
  onExt h

theorem CanonNext.execQcrc {s : Machine.State} (h : Canon s.chip) {x rd rs1 rs2} : CanonNext (execQcrc x rd rs1 rs2 s) :=
  onExt h

theorem CanonNext.execQpgen {s : Machine.State} (h : Canon s.chip) {x rd rs1 rs2} : CanonNext (execQpgen x rd rs1 rs2 s) :=
  onExt h

theorem CanonNext.execJobEnqueue {s : Machine.State} (h : Canon s.chip) {x w7} : CanonNext (execJobEnqueue x w7 s) :=
  onLive h fun _ h => h.enqueueJob

theorem CanonNext.execJobStart {s : Machine.State} (h : Canon s.chip) {x} : CanonNext (execJobStart x s) :=
  onLive h fun _ h => h.jobStart.sendWorks

theorem CanonNext.execRangesDeclared {s : Machine.State} (h : Canon s.chip) {x} : CanonNext (execRangesDeclared x s) :=
  onLive h fun _ h => h.rangesDeclared

theorem CanonNext.execJobCancel {s : Machine.State} (h : Canon s.chip) {x jobid} : CanonNext (execJobCancel x jobid s) :=
  onLive h fun _ h => h.jobCancel

theorem CanonNext.execBottomBurst {s : Machine.State} (h : Canon s.chip) {x n} : CanonNext (execBottomBurst x n s) :=
  onLive h fun _ h => h.bottomBurst

theorem CanonNext.execTokenHandoff {s : Machine.State} (h : Canon s.chip) {x} : CanonNext (execTokenHandoff x s) :=
  onLive h fun _ h => h.tokenHandoff

theorem CanonNext.execHeldReadRelease {s : Machine.State} (h : Canon s.chip) {x} : CanonNext (execHeldReadRelease x s) :=
  onLive h fun _ h => h.heldRelease

theorem CanonNext.execLaneFailRetrain {s : Machine.State} (h : Canon s.chip) {p lane} : CanonNext (execLaneFailRetrain p lane s) := by
  refine onChip h fun c h => ?_
  split
  · exact h
  · extract_lets c1
    have h2 : Canon c1 := by
      unfold c1
      split
      · exact h.tokenSplit
      · exact h
    clear_value c1
    exact h2.laneFail

theorem CanonNext.execPatrolPass {s : Machine.State} (h : Canon s.chip) {x} : CanonNext (execPatrolPass x s) :=
  onLive h fun _ h => Canon.ite h h.patrolPass

/-! ### PCIe -/

theorem Canon.msi {c : Chip} (h : Canon c) {v} : Canon (c.msi v) := .ite (.mk h) (.mk h)

theorem Canon.msiFlush {c : Chip} (h : Canon c) : Canon c.msiFlush := (Canon.foldl h fun _ _ h40 => (Canon.ite (Canon.mk h40).msi h40))

theorem Canon.bar4Write {c : Chip} (h : Canon c) {o v} : Canon (c.bar4Write o v) := (Canon.ite (Canon.mk h).msiFlush h)

theorem Canon.cfgPut {c : Chip} (h : Canon c) {o v} : Canon (c.cfgPut o v) := (Canon.ite (Canon.mk h) (Canon.mk h).msiFlush)

/-! ### Commands of sessions -/

theorem CanonNext.onTicket {s : Machine.State} (h : Canon s.chip) {f : Chip → Nat → Chip} (hf : ∀ c i, Canon c → Canon (f c i)) {w} :
    CanonNext (s.onTicket w f) := by
  refine onUsher h fun c h => ?_
  split
  · exact (hf _ _ h.mend).settle
  · exact h

theorem CanonNext.execTicketBound {s : Machine.State} (h : Canon s.chip) {w} : CanonNext (execTicketBound w s) := by
  refine onTicket h fun c i h => ?_
  refine .ite h ?_
  split
  · exact h.lacking
  next d root e =>
    have h1 : Canon (d, root).1 := by
      split at e
      · cases e; exact h
      · exact h.newRoot _ e
    split
    · exact h.lacking
    next e => exact (Canon.readyPos (Canon.tkPut h1) _ e).setState

theorem Canon.parkQueued {c : Chip} (h0 : Canon c) {d : Chip} (h1 : Canon d) {i} : Canon (c.parkQueued i d) := by
  unfold Chip.parkQueued
  split
  · exact h0.cmdTaken.parkFor
  · exact h1

theorem CanonNext.execPrefillDone {s : Machine.State} (h : Canon s.chip) {w} : CanonNext (execPrefillDone w s) :=
  onTicket h fun _ _ h => (.ite h (.parkQueued h h.setState))

theorem CanonNext.execRunningSetAdmit {s : Machine.State} (h : Canon s.chip) {residue} : CanonNext (execRunningSetAdmit residue s) := by
  refine onUsher h fun c h => ?_
  split
  · exact .ite h.setState.setAux.settle h
  · exact h

theorem CanonNext.execRowTableForm {s : Machine.State} (h : Canon s.chip) {lags} : CanonNext (execRowTableForm lags s) := by
  refine onUsher h fun c h => ?_
  split
  · exact h
  · extract_lets p1
    clear_value p1
    exact .ite h.formTable.settle h

theorem CanonNext.execPriorityPreemption {s : Machine.State} (h : Canon s.chip) : CanonNext (execPriorityPreemption s) := by
  refine onUsher h fun c h => ?_
  split
  · extract_lets run1 low2
    clear_value run1 low2
    split
    · exact h
    · split
      · exact h
      · exact h.setAux.boundary.settle
  · exact h

theorem CanonNext.execTicketEnergyShare {s : Machine.State} (h : Canon s.chip) {batch} : CanonNext (execTicketEnergyShare batch s) :=
  onUsher h fun _ h => h.shareEnergy

theorem CanonNext.execDemotionStart {s : Machine.State} (h : Canon s.chip) {w} : CanonNext (execDemotionStart w s) :=
  onTicket h fun _ _ h => Canon.ite h h.demoteStart

theorem CanonNext.execDemotionEnd {s : Machine.State} (h : Canon s.chip) {w failed} : CanonNext (execDemotionEnd w failed s) :=
  onTicket h fun _ _ h => h.demoteEnd

theorem CanonNext.execUsherSpillPolicy {s : Machine.State} (h : Canon s.chip) : CanonNext (execUsherSpillPolicy s) := by
  refine onUsher h fun c h => ?_
  extract_lets low1 high2 on3 c4
  have h5 : Canon c4 := h.onUsh
  clear_value low1 high2 on3 c4
  split
  · exact h5
  · split
    · exact h5.spillStart
    · exact h5

theorem CanonNext.execSpillCommit {s : Machine.State} (h : Canon s.chip) {w} : CanonNext (execSpillCommit w s) := by
  refine onTicket h fun c k h => ?_
  extract_lets x1 mid2
  clear_value x1 mid2
  split
  · exact h
  · split
    · exact h.spillStage
    · exact h
    · exact h
    · split
      · exact h
      next d4 e5 =>
        have h6 : Canon d4 := h.worksEnd _ e5
        exact h6.worksAgain
      next d8 e9 =>
        have h10 : Canon d8 := h.worksEnd _ e9
        exact h10.spillOn

theorem CanonNext.execRecallCommit {s : Machine.State} (h : Canon s.chip) {w} : CanonNext (execRecallCommit w s) := by
  refine onTicket h fun c k h => ?_
  split
  · exact h
  · split
    · exact h.recallBegin
    · split
      · exact h
      · split
        · exact h
        · split
          · exact h
          next d2 e3 =>
            have h4 : Canon d2 := h.worksEnd _ e3
            exact h4.worksAgain
          next d6 e7 =>
            have h8 : Canon d6 := h.worksEnd _ e7
            exact h8.recallOn

theorem CanonNext.execRecallFail {s : Machine.State} (h : Canon s.chip) {w err} : CanonNext (execRecallFail w err s) :=
  onTicket h fun _ _ h => (Canon.ite h (Canon.ite h (Canon.ite h.recallDrop.closeAnnex h.recallDrop.freeArea).tkPut.setAux.healthNote.recoverFor))

theorem CanonNext.execForkTablesCopied {s : Machine.State} (h : Canon s.chip) {w} : CanonNext (execForkTablesCopied w s) := by
  refine onTicket h fun c i h => ?_
  split
  · exact h
  · have h1 : ∀ d ∈ (if c.tkState i = 8 then c.worksEnd (Work.is (.fork i)) [] else none), Canon d.1 := by
      split
      · exact h.worksEnd
      · exact forall_mem_none
    split
    · exact h
    next e => exact Canon.worksAgain (h1 _ e)
    next d e =>
      have h2 : Canon d := h1 _ e
      exact h2.forkPages.worksGone.setState.setAux.doneTicket

theorem CanonNext.execRecoveryStart {s : Machine.State} (h : Canon s.chip) {w} : CanonNext (execRecoveryStart w s) := by
  refine onTicket h fun c k h => ?_
  extract_lets st1 idx2 c3
  have h4 : Canon c3 := .foldl h fun _ _ hd => .ite hd.memWrite hd
  clear_value st1 idx2 c3
  exact .ite h (.ite h h4.recoverStart)

theorem CanonNext.execRecoveryDone {s : Machine.State} (h : Canon s.chip) {w} : CanonNext (execRecoveryDone w s) := by
  refine onTicket h fun c k h => ?_
  extract_lets x1 rst2 c3
  have h4 : Canon c3 := h.setStateWith.healthNote
  clear_value x1 rst2 c3
  exact .ite h (.ite (.parkQueued h4 h4) h4)

theorem CanonNext.execTicketLost {s : Machine.State} (h : Canon s.chip) {w} : CanonNext (execTicketLost w s) :=
  onTicket h fun _ _ h => Canon.ite h h.flushRunning.postDone.retire

theorem CanonNext.execReleaseComplete {s : Machine.State} (h : Canon s.chip) {w} : CanonNext (execReleaseComplete w s) :=
  onTicket h fun _ _ h => Canon.ite h.releaseDone h

/-! ### Commands of the host -/

theorem CanonNext.takeHost {s : Machine.State} (h : Canon s.chip) {q good ok} : CanonNext (s.takeHost q good ok) :=
  onUsher h fun _ h => h.takeCmd.settle

theorem CanonNext.execAdmit {s : Machine.State} (h : Canon s.chip) {sq good} : CanonNext (execAdmit sq good s) :=
  takeHost h

theorem CanonNext.execFeed {s : Machine.State} (h : Canon s.chip) {sq good} : CanonNext (execFeed sq good s) :=
  takeHost h

theorem CanonNext.execRun {s : Machine.State} (h : Canon s.chip) {sq good} : CanonNext (execRun sq good s) :=
  takeHost h

theorem CanonNext.execPark {s : Machine.State} (h : Canon s.chip) {sq} : CanonNext (execPark sq s) :=
  takeHost h

theorem CanonNext.execFork {s : Machine.State} (h : Canon s.chip) {sq good} : CanonNext (execFork sq good s) :=
  takeHost h

theorem CanonNext.execRelease {s : Machine.State} (h : Canon s.chip) {sq} : CanonNext (execRelease sq s) :=
  takeHost h

theorem CanonNext.execSpill {s : Machine.State} (h : Canon s.chip) {sq} : CanonNext (execSpill sq s) :=
  takeHost h

theorem CanonNext.execRecall {s : Machine.State} (h : Canon s.chip) {sq} : CanonNext (execRecall sq s) :=
  takeHost h

theorem CanonNext.execQuery {s : Machine.State} (h : Canon s.chip) {sq good} : CanonNext (execQuery sq good s) :=
  takeHost h

theorem CanonNext.execModelLoad {s : Machine.State} (h : Canon s.chip) {sq good} : CanonNext (execModelLoad sq good s) :=
  takeHost h

theorem CanonNext.execAdapterLoad {s : Machine.State} (h : Canon s.chip) {sq good} : CanonNext (execAdapterLoad sq good s) :=
  takeHost h

theorem CanonNext.execModelUnload {s : Machine.State} (h : Canon s.chip) {sq} : CanonNext (execModelUnload sq s) :=
  takeHost h

theorem CanonNext.execPlanSelect {s : Machine.State} (h : Canon s.chip) {sq good} : CanonNext (execPlanSelect sq good s) :=
  takeHost h

theorem CanonNext.execBudgetSet {s : Machine.State} (h : Canon s.chip) {sq} : CanonNext (execBudgetSet sq s) :=
  takeHost h

theorem CanonNext.execNegotiate {s : Machine.State} (h : Canon s.chip) {sq good} : CanonNext (execNegotiate sq good s) :=
  takeHost h

theorem CanonNext.execJournalRead {s : Machine.State} (h : Canon s.chip) {sq good} : CanonNext (execJournalRead sq good s) :=
  takeHost h

theorem Canon.aperr {c : Chip} (h : Canon c) {line kind} : Canon (c.aperr line kind) := h.wr

theorem Canon.barAnswer {c : Chip} (h : Canon c) {a} : Canon (c.barAnswer a) := .mk h

theorem Canon.doorbellBad {c : Chip} (h : Canon c) {unit v} : Canon (c.doorbellBad unit v) := h.wrF.notice

theorem Canon.sqDoor {c : Chip} (h : Canon c) {q v} : Canon (c.sqDoor q v) := .ite h.doorbellBad h.setSq

theorem Canon.cqDoor {c : Chip} (h : Canon c) {q v} : Canon (c.cqDoor q v) := .ite h.doorbellBad h.setCq.postKept

theorem Canon.barTry {c : Chip} (h : Canon c) {a} : Canon (c.barTry a).1 := by
  unfold Chip.barTry
  split
  · extract_lets r1 c2 x3
    have h4 : Canon r1.1 := h.sliceRead
    have h5 : Canon c2 := h4.aperr.barAnswer
    clear_value r1 c2
    split
    · exact h4.barAnswer
    · exact .mk h5
    · exact h4.barAnswer
    · exact h
  · split
    · exact h.bump
    · split
      · exact h.aperr
      · extract_lets r6
        have h7 : Canon r6.1 := h.sliceWrite
        clear_value r6
        split
        · exact h7
        · exact h7.aperr
        · exact h
  · exact h.sqDoor
  · exact h.cqDoor

theorem Canon.barArrive {c : Chip} (h : Canon c) {op} : Canon (c.barArrive op) := by
  unfold Chip.barArrive
  extract_lets wait1
  have hf_wait1 : ∀ y2, Canon y2 → Canon (wait1 y2) := by
    intro y2 h3
    unfold wait1
    exact .mk h3
  split
  · exact hf_wait1 _ h
  · split
    next d5 e6 =>
      have h7 : Canon d5 := .of_fst h.barTry e6
      exact hf_wait1 _ h
    next d9 e10 =>
      have h11 : Canon d9 := .of_fst h.barTry e10
      exact h11

theorem CanonNext.execBar2Read {s : Machine.State} (h : Canon s.chip) {line} : CanonNext (execBar2Read line s) :=
  onChip h fun _ h => Canon.ite h.barArrive h.barAnswer

theorem CanonNext.execBar2Write {s : Machine.State} (h : Canon s.chip) {line mask data poison} : CanonNext (execBar2Write line mask data poison s) :=
  onChip h fun _ h => Canon.ite h.barArrive h

theorem Canon.barRetryGo {c : Chip} (h : Canon c) {a} : Canon (c.barRetryGo a) := by
  induction a generalizing c with
  | nil =>
    unfold Chip.barRetryGo
    exact h
  | cons x l ih =>
    unfold Chip.barRetryGo
    extract_lets keep1 door2
    have hf_keep1 : ∀ y3 y5, Canon y3 → Canon (keep1 y3 y5) := by
      intro y3 y5 h4
      unfold keep1
      exact .mk h4
    split
    · exact ih (hf_keep1 _ _ h)
    · split
      · refine ih ?_
        split
        · exact h.aperr.barAnswer
        · exact h.aperr
        · exact h
      · split
        · exact ih (hf_keep1 _ _ h)
        · split
          next d7 e8 =>
            have h9 : Canon d7 := .of_fst h.barTry e8
            exact ih (hf_keep1 _ _ h)
          next d11 e12 =>
            have h13 : Canon d11 := .of_fst h.barTry e12
            exact ih h13

theorem CanonNext.execBar2Retry {s : Machine.State} (h : Canon s.chip) : CanonNext (execBar2Retry s) :=
  onChip h fun _ h => (Canon.mk h).barRetryGo

theorem CanonNext.execSqTailDoorbell {s : Machine.State} (h : Canon s.chip) {sq tail} : CanonNext (execSqTailDoorbell sq tail s) :=
  onChip h fun _ h => Canon.ite h.barArrive h

theorem CanonNext.execCqHeadDoorbell {s : Machine.State} (h : Canon s.chip) {cq head} : CanonNext (execCqHeadDoorbell cq head s) :=
  onChip h fun _ h => Canon.ite h.barArrive h

theorem Canon.ringCfg {c : Chip} (h : Canon c) {cq q v mask} : Canon (c.ringCfg cq q v mask) := by
  unfold Chip.ringCfg
  extract_lets off1 old2 c3 x4 x5
  have h6 : Canon c3 := h.unlatch
  clear_value c3
  split
  · exact h
  · extract_lets nv7 rise8 c9
    have h10 : Canon c9 := h6.wr
    clear_value c9
    exact .ite h6 (.ite h10 (.ite h10.wrF.setCq.postKept h10.wr.setSq))

theorem CanonNext.onHostWrite {s : Machine.State} (h : Canon s.chip) {f : Chip → Chip} (hf : ∀ c, Canon c → Canon (f c)) : CanonNext (s.onHostWrite f) :=
  onChip h fun c h => .ite h (.ite h.bump (hf c h))

theorem CanonNext.execRingEnable {s : Machine.State} (h : Canon s.chip) {cq ring cfg} : CanonNext (execRingEnable cq ring cfg s) :=
  onHostWrite h fun _ h => Canon.ite h.ringCfg h

theorem CanonNext.execCqFullNotice {s : Machine.State} (h : Canon s.chip) {cq} : CanonNext (execCqFullNotice cq s) := by
  refine onUsher h fun c h => ?_
  extract_lets r1
  clear_value r1
  exact .ite h.setCq.notice h

theorem CanonNext.execCqInterrupt {s : Machine.State} (h : Canon s.chip) {cq} : CanonNext (execCqInterrupt cq s) := by
  refine onLive h fun c h => ?_
  extract_lets o1 r2 raise3
  have hf_raise3 : ∀ y4, Canon (raise3 y4) := by
    intro y4
    unfold raise3
    exact h.setCq.msi
  clear_value o1 r2
  exact .ite h (.ite (hf_raise3 _) (.ite (hf_raise3 _) h))

theorem Canon.hifRun {c : Chip} (h : Canon c) {run} : Canon (c.hifRun run) := by
  unfold Chip.hifRun
  extract_lets c1
  have h2 : Canon c1 := h.wrF
  clear_value c1
  exact .ite (.foldl h2 fun _ _ hd => hd.postKept) h2

theorem CanonNext.execHifRunWrite {s : Machine.State} (h : Canon s.chip) {run} : CanonNext (execHifRunWrite run s) :=
  onHostWrite h fun _ h => h.unlatch.hifRun

theorem Canon.dropKept {c : Chip} (h : Canon c) {q} : Canon (c.dropKept q) := .foldl h fun _ _ hd => .ite hd.journal hd

theorem Canon.resync {c : Chip} (h : Canon c) : Canon c.resync := by
  unfold Chip.resync
  extract_lets c1 c2 c3 isData4 gone5 x6 c7 c8
  have h9 : Canon c1 := .foldl h fun _ _ hd => hd.dropKept.wr.wr.setCq
  have h10 : Canon c2 := .foldl h9 fun _ _ hd => hd.wr.wr.wr.setSq
  have h11 : Canon c3 := h10.wrF
  have h12 : Canon c7 := .mk h11
  have h13 : Canon c8 := by
    unfold c8
    refine .foldl h12 fun d14 x16 h15 => ?_
    split
    · exact h15.doneTicket
    · exact h15.doneCommand
  clear_value c1 c2 c3 c7 c8
  exact h13.journal

theorem Canon.cfgWrite {c : Chip} (h : Canon c) {o v} : Canon (c.cfgWrite o v) := by
  unfold Chip.cfgWrite
  extract_lets was1 c2
  have h3 : Canon c2 := h.cfgPut
  clear_value c2
  exact .ite h3.resync h3

theorem CanonNext.execResync {s : Machine.State} (h : Canon s.chip) : CanonNext (execResync s) :=
  onHostWrite h fun _ h => h.unlatch.resync

theorem CanonNext.execPcieResetEvent {s : Machine.State} (h : Canon s.chip) {_e} : CanonNext (execPcieResetEvent _e s) :=
  onChip h fun _ h => Canon.ite h.resync h

theorem CanonNext.execPcieLinkDegraded {s : Machine.State} (h : Canon s.chip) {width rate} : CanonNext (execPcieLinkDegraded width rate s) := by
  refine onUsher h fun c h => ?_
  extract_lets w1 r2 x3
  clear_value w1 r2 x3
  exact Canon.ite (Canon.mk h) (Canon.mk h).notice

/-! ### Commands of links -/

theorem Canon.linkState {c : Chip} (h : Canon c) {l st} : Canon (c.linkState l st) := h.wrF.event

theorem Canon.weightNotice {c : Chip} (h : Canon c) {m sid off} : Canon (c.weightNotice m sid off) := h.notice

theorem Canon.chunkDrop {c : Chip} (h : Canon c) {i t k} : Canon (c.chunkDrop i t k) := by
  unfold Chip.chunkDrop
  extract_lets same1 c2 c3 x4
  have h5 : Canon c2 := h.dropReqs
  have h6 : Canon c3 := by
    unfold c3
    refine .foldl h5 fun d7 x9 h8 => ?_
    split
    · exact h8.closeAnnex
    · exact h8
  clear_value c2 c3
  exact .mk h6

theorem Canon.backDrop {c : Chip} (h : Canon c) {i t k} : Canon (c.backDrop i t k) := by
  unfold Chip.backDrop
  extract_lets c1 x2
  have h3 : Canon c1 := h.dropReqs
  clear_value c1
  exact .mk h3

theorem Canon.spillRefused {c : Chip} (h : Canon c) {i} : Canon (c.spillRefused i) := by
  unfold Chip.spillRefused
  extract_lets ans1 c2
  have h3 : Canon c2 := h.spillAbandon
  clear_value c2
  split
  · split
    · exact h3.spillStart.setAux
    · exact h3
  · exact h3

theorem Canon.askFailed {c : Chip} (h : Canon c) {node m} : Canon (c.askFailed node m) := by
  unfold Chip.askFailed
  extract_lets x1 c2
  have h3 : Canon c2 := .mk h
  clear_value c2
  exact .ite h3 (.foldl h3 fun _ _ hd => hd.weightNotice)

theorem Canon.requestFailed {c : Chip} (h : Canon c) {a} : Canon (c.requestFailed a) := by
  unfold Chip.requestFailed
  split
  · exact h.spillRefused
  · exact h.chunkDrop
  · exact h.backDrop.recoverChunk
  · exact h.setAux
  · exact h.askFailed
  · exact h.dropReqs.weightNotice
  · split
    · exact h.attnFail
    · exact h
  · exact h

theorem Canon.linkDownEnd {c : Chip} (h : Canon c) {l t w} : Canon (c.linkDownEnd l t w) := by
  unfold Chip.linkDownEnd
  split
  · exact h.request
  · split
    · exact h.spillAbandon
    · exact h.backDrop
    · exact h
    · exact h.requestFailed

theorem Canon.linkDown {c : Chip} (h : Canon c) {l} : Canon (c.linkDown l) := by
  unfold Chip.linkDown
  extract_lets x1 up2 c3 x4 c5 c6 node7 c8
  have h9 : Canon c3 := h.linkState
  have h10 : Canon c5 := h9.setLink
  have h11 : Canon c6 := .foldl h10 fun _ _ hd => hd.linkDownEnd
  have h12 : Canon c8 := .ite (.foldl h11 fun _ _ h39 => h39.askFailed) h11
  clear_value c3 c5 c6 c8
  exact .ite h10 h12.notice

theorem Canon.laneFails {c : Chip} (h : Canon c) {l lane} : Canon (c.laneFails l lane) := by
  unfold Chip.laneFails
  extract_lets four1
  exact h.wrF.onLink

theorem Canon.swapNoted {c : Chip} (h : Canon c) {l} : Canon (c.swapNoted l) := h.bump.wrF.notice

theorem Canon.framing {c : Chip} (h : Canon c) {l f} : Canon (c.framing l f) := by
  unfold Chip.framing
  extract_lets smap1 four2 c3
  have h4 : Canon c3 := .ite h.onLink h
  clear_value c3
  exact .ite h4.onLink.swapNoted h4

theorem Canon.blockIn {c : Chip} (h : Canon c) {l v} : Canon (c.blockIn l v) := by
  unfold Chip.blockIn
  extract_lets r1 lanes2 c3
  have h4 : Canon c3 := h.onLink
  clear_value c3
  exact .ite h4.bump (.ite h4 h4.framing)

theorem CanonNext.execFecBlockReceive {s : Machine.State} (h : Canon s.chip) {l msg parity aligned} : CanonNext
    (execFecBlockReceive l msg parity aligned s) := by
  refine onChip h fun c h => ?_
  extract_lets l1
  clear_value l1
  exact .ite h h.blockIn.blockTime

theorem CanonNext.execLinkLaneFail {s : Machine.State} (h : Canon s.chip) {l lane} : CanonNext (execLinkLaneFail l lane s) :=
  onChip h fun _ h => Canon.ite h.laneFails h

theorem CanonNext.execSpareSwap {s : Machine.State} (h : Canon s.chip) {l} : CanonNext (execSpareSwap l s) := by
  refine onChip h fun c h => ?_
  split
  · exact h
  · exact h
  · exact h.onLink.swapNoted

theorem CanonNext.execAlignmentBlockReceive {s : Machine.State} (h : Canon s.chip) {l lanes} : CanonNext (execAlignmentBlockReceive l lanes s) := by
  refine onChip h fun c h => ?_
  extract_lets l1 used2 times3 first4 last5
  clear_value l1 times3 first4 last5
  split
  · exact h
  · refine .foldl h fun d6 x8 h7 => ?_
    extract_lets x9 due10 n11 c12
    have h13 : Canon c12 := h7.onLink
    clear_value x9 due10 n11 c12
    split
    · exact h7
    · split
      · exact h7.onLink
      · exact .ite h13 h13.laneFails

theorem CanonNext.execTrainingFrameReceive {s : Machine.State} (h : Canon s.chip) {l lane control status crc ready} : CanonNext
    (execTrainingFrameReceive l lane control status crc ready s) :=
  onChip h fun _ h => Canon.ite h h.onLink

theorem Canon.flitWhole {c : Chip} (h : Canon c) {l vc t} : Canon (c.flitWhole l vc t) := .ite h.onLink.respond h.onLink

theorem Canon.flitPayload {c : Chip} (h : Canon c) {l v bs} : Canon (c.flitPayload l v bs) := by
  unfold Chip.flitPayload
  extract_lets vc1 c2 x3 x4 t5
  have h6 : Canon c2 := h.onLink
  clear_value c2
  exact .ite h6 h6.onLink.flitWhole

theorem CanonNext.execFlitReceive {s : Machine.State} (h : Canon s.chip) {l} : CanonNext (execFlitReceive l s) := by
  refine onChip h fun c h => ?_
  extract_lets l1
  clear_value l1
  split
  · exact h
  · extract_lets v2 crcOk3 c4 c5
    have h6 : Canon c4 := h.onLink
    have h7 : Canon c5 := h6.unshed.onLink
    clear_value v2 crcOk3 c4 c5
    exact .ite (.ite h h.onLink) (.ite h.onLink (.ite h.bump.onLink (.ite h (.ite h6.pump (.ite h6.onLink.pump h7.flitPayload.pump)))))

theorem Canon.replay {c : Chip} (h : Canon c) {l} : Canon (c.replay l) := h.bump.onLink

theorem CanonNext.execNakReplay {s : Machine.State} (h : Canon s.chip) {l} : CanonNext (execNakReplay l s) :=
  onLive h fun _ h => Canon.ite h.replay.pump h

theorem CanonNext.execReplayTimeout {s : Machine.State} (h : Canon s.chip) {l} : CanonNext (execReplayTimeout l s) := by
  refine onLive h fun c h => ?_
  extract_lets x1
  clear_value x1
  exact .ite h.replay.pump h

theorem Canon.takeTxn {c : Chip} (h : Canon c) {l vc ok} : ∀ d ∈ c.takeTxn l vc ok, Canon d.1 := by
  unfold Chip.takeTxn
  split
  · exact forall_mem_none
  · split
    · exact forall_mem_some h.onLink
    · exact forall_mem_none

theorem Canon.annexPut {c : Chip} (h : Canon c) {l a o d} : Canon (c.annexPut l a o d).1 := by
  unfold Chip.annexPut
  refine .foldl_fst h fun p1 x3 h2 => ?_
  split
  · exact h2
  · extract_lets w4
    have h5 : Canon w4.1 := h2.sliceWrite
    clear_value w4
    split
    · exact h5
    · exact h2

theorem Canon.annexGet {c : Chip} (h : Canon c) {l a o n} : Canon (c.annexGet l a o n).1 := by
  unfold Chip.annexGet
  extract_lets first1 r2
  have h3 : Canon r2.1 := by
    unfold r2
    refine .foldl_fst h fun p4 x6 h5 => ?_
    split
    · exact h5
    · exact h5.sliceRead
  clear_value r2
  exact h3

theorem Canon.reservedTxn {c : Chip} (h : Canon c) {l vc} : Canon (c.reservedTxn l vc) := by
  unfold Chip.reservedTxn
  split
  · exact h
  · exact .ite h (.ite h.onLink.onLink.pump h.onLink.respond)

theorem CanonNext.execPut {s : Machine.State} (h : Canon s.chip) {l} : CanonNext (execPut l s) := by
  refine onLive h fun c h => ?_
  split
  · exact h.reservedTxn
  next d2 _ e4 =>
    have h5 : Canon d2 := h.takeTxn _ e4
    extract_lets done6
    have hf_done6 : ∀ y7 y9, Canon y7 → Canon (done6 y7 y9) := by
      intro y7 y9 h8
      unfold done6
      exact .ite h8.respond h8
    split
    · exact hf_done6 _ _ h5
    · split
      · exact hf_done6 _ _ h5
      · exact .ite (hf_done6 _ _ h5) (hf_done6 _ _ h5.annexPut)

theorem CanonNext.execGet {s : Machine.State} (h : Canon s.chip) {l} : CanonNext (execGet l s) := by
  refine onLive h fun c h => ?_
  split
  · exact h.reservedTxn
  next d2 _ e4 =>
    have h5 : Canon d2 := h.takeTxn _ e4
    split
    · exact h
    · extract_lets fail6 rs7 total8 x9
      have hf_fail6 : ∀ y10 y12, Canon y10 → Canon (fail6 y10 y12) := by
        intro y10 y12 h11
        unfold fail6
        exact h11.respond
      clear_value rs7 total8 x9
      split
      · exact hf_fail6 _ _ h5
      · split
        · exact hf_fail6 _ _ h5
        · split
          · exact hf_fail6 _ _ h5
          · split
            · exact hf_fail6 _ _ h5
            · extract_lets r13
              have h14 : Canon r13.1 := by
                unfold r13
                refine .foldl_fst h5 fun p15 x17 h16 => ?_
                exact h16.annexGet
              clear_value r13
              exact .ite (hf_fail6 _ _ h14) h14.respond

theorem CanonNext.execMsg {s : Machine.State} (h : Canon s.chip) {l} : CanonNext (execMsg l s) := by
  refine onUsher h fun c h => ?_
  split
  · exact h.reservedTxn
  next d2 _ e4 =>
    have h5 : Canon d2 := h.takeTxn _ e4
    extract_lets kind6 max7 x8
    clear_value kind6 max7 x8
    exact Canon.ite h5.respond (Canon.ite h5.respond (Canon.mk h5).respond)

theorem CanonNext.execAtomic {s : Machine.State} (h : Canon s.chip) {l} : CanonNext (execAtomic l s) := by
  refine onLive h fun c h => ?_
  split
  · exact h.reservedTxn
  next d2 _ e4 =>
    have h5 : Canon d2 := h.takeTxn _ e4
    extract_lets fail6 x7
    have hf_fail6 : ∀ y8 y10, Canon y8 → Canon (fail6 y8 y10) := by
      intro y8 y10 h9
      unfold fail6
      exact h9.respond
    clear_value x7
    split
    · exact hf_fail6 _ _ h5
    · split
      · exact hf_fail6 _ _ h5
      · split
        · exact hf_fail6 _ _ h5
        · split
          · exact hf_fail6 _ _ h5
          · split
            · exact hf_fail6 _ _ h5
            · split
              · exact hf_fail6 _ _ h5
              · extract_lets r11 old12 new13 w14
                have h15 : Canon r11.1 := h5.sliceRead
                have h16 : Canon w14.1 := h15.sliceWrite
                clear_value r11 old12 new13 w14
                exact .ite (hf_fail6 _ _ h15) (.ite (hf_fail6 _ _ h15) h16.respond)

theorem Canon.barrierDone {c : Chip} (h : Canon c) {l id} : Canon (c.barrierDone l id) := by
  unfold Chip.barrierDone
  extract_lets x1
  exact .ite h.onLink.report h

theorem CanonNext.execBarrier {s : Machine.State} (h : Canon s.chip) {l local_} : CanonNext (execBarrier l local_ s) := by
  refine onUsher h fun c h => ?_
  split
  · extract_lets x1 gen2 x3 c4
    have h5 : Canon c4 := h.request
    clear_value x1 gen2 x3 c4
    exact .ite h h5.onLink.barrierDone
  · split
    · exact h.reservedTxn
    next d7 _ e9 =>
      have h10 : Canon d7 := h.takeTxn _ e9
      extract_lets id11 x12
      clear_value id11 x12
      exact .ite h10.onLink h10.onLink.barrierDone

theorem Canon.matchReq {c : Chip} (h : Canon c) {l t} : Canon (c.matchReq l t).1 := by
  unfold Chip.matchReq
  extract_lets stale1
  split
  · exact .ite h.bump h
  · split
    · exact h.bump
    · exact h

theorem Canon.endReq {c : Chip} (h : Canon c) {l r} : Canon (c.endReq l r) := h.onLink

theorem Canon.weightPiece {c : Chip} (h : Canon c) {l m sid off bs} : Canon (c.weightPiece l m sid off bs) := by
  unfold Chip.weightPiece
  extract_lets c1 x2 c3
  have h4 : Canon c1 := .foldl h fun _ _ hd => hd.memWriteAs
  have h5 : Canon c3 := h4.setModel.healthNote
  clear_value c1 c3
  exact .ite h4 (.ite h5.weightsDone h5)

theorem Canon.backCommit {c : Chip} (h : Canon c) {o img} : Canon (c.backCommit o img) := by
  unfold Chip.backCommit
  extract_lets root b c1 skip refs
  have h1 : Canon c1 := h.backDrop
  clear_value root b c1 skip refs
  split
  · exact h1
  · split
    · exact h1.recoverChunk
    · split
      · exact h1
      next d e =>
        have hd : Canon d := forall_mem_bind (fun x e => (h1.memWriteNum.needChunk x e).recallPages) d e
        exact .ite hd hd.closeAnnex

theorem Canon.backPiece {c : Chip} (h : Canon c) {i t k off d} : Canon (c.backPiece i t k off d) := by
  unfold Chip.backPiece
  split
  · exact h
  · split
    · extract_lets n1 x2 c3
      have h4 : Canon c3 := .mk h
      clear_value c3
      exact .ite h.backDrop.recoverChunk h4.getAll
    · extract_lets p5 x6 c7
      have h8 : Canon c7 := .mk h
      clear_value c7
      split
      · exact h8.backCommit
      · exact h8

theorem CanonNext.execGetresp {s : Machine.State} (h : Canon s.chip) {l} : CanonNext (execGetresp l s) := by
  refine onUsher h fun c h => ?_
  split
  · exact h.reservedTxn
  next d2 _ e4 =>
    have h5 : Canon d2 := h.takeTxn _ e4
    split
    next d7 e8 =>
      have h9 : Canon d7 := .of_fst h5.matchReq e8
      exact h9
    next d11 _ e13 =>
      have h14 : Canon d11 := .of_fst h5.matchReq e13
      extract_lets c15 x16 c17
      have h18 : Canon c15 := h14.endReq
      have h19 : Canon c17 := by
        unfold c17
        split
        · exact h18.requestFailed
        · split
          · exact h18.backPiece
          · exact .mk h18
          · exact h18.weightPiece
          · exact h18
      clear_value c15 x16 c17
      exact h19.pump.settle

theorem CanonNext.execAtomresp {s : Machine.State} (h : Canon s.chip) {l} : CanonNext (execAtomresp l s) := by
  refine onLive h fun c h => ?_
  split
  · exact h.reservedTxn
  next d2 _ e4 =>
    have h5 : Canon d2 := h.takeTxn _ e4
    split
    next d7 e8 =>
      have h9 : Canon d7 := .of_fst h5.matchReq e8
      exact h9
    next d11 _ e13 =>
      have h14 : Canon d11 := .of_fst h5.matchReq e13
      exact h14.endReq.pump

theorem Canon.chunkTouch {c : Chip} (h : Canon c) {node i t k} : Canon (c.chunkTouch node i t k) := by
  unfold Chip.chunkTouch
  extract_lets ps1 first2
  refine .foldl_fst h fun p3 x5 h4 => ?_
  exact h4.memTouchAs

theorem Canon.chunkMoved {c : Chip} (h : Canon c) {o} : Canon (c.chunkMoved o) := by
  unfold Chip.chunkMoved
  split
  · exact h
  · extract_lets root1 b2 x3 c4 ps5 c6
    have h7 : Canon c4 := Canon.mk h
    have h8 : Canon c6 := h7.memWriteNum
    clear_value c4 c6
    exact Canon.ite h7.closeAnnex (Canon.foldl h8 fun _ _ hd => hd.slotDec).freeBlock

theorem CanonNext.execDone {s : Machine.State} (h : Canon s.chip) {l} : CanonNext (execDone l s) := by
  refine onUsher h fun c h => ?_
  split
  · exact h.reservedTxn
  next d2 _ e4 =>
    have h5 : Canon d2 := h.takeTxn _ e4
    split
    next d7 e8 =>
      have h9 : Canon d7 := .of_fst h5.matchReq e8
      exact h9
    next d11 _ e13 =>
      have h14 : Canon d11 := .of_fst h5.matchReq e13
      split
      · exact h14.onLink.pump
      · extract_lets c15 c16
        have h17 : Canon c15 := h14.endReq
        have h18 : Canon c16 := by
          unfold c16
          split
          · exact h17.requestFailed
          · split
            · split
              · exact .ite h17 h17.chunkMoved
              · exact h17
            · exact h17
        clear_value c15 c16
        exact h18.pump.settle

theorem CanonNext.execMsgBusyResend {s : Machine.State} (h : Canon s.chip) {l tag} : CanonNext (execMsgBusyResend l tag s) := by
  refine onUsher h fun c h => ?_
  split
  · exact h
  · split
    · exact h
    · exact .ite h h.onLink.pump

theorem CanonNext.execLinkRequestTimeout {s : Machine.State} (h : Canon s.chip) {l tag} : CanonNext (execLinkRequestTimeout l tag s) := by
  refine onUsher h fun c h => ?_
  split
  · exact h
  · exact .ite h h.endReq.linkDownEnd.pump.settle

theorem CanonNext.execLinkDown {s : Machine.State} (h : Canon s.chip) {l good} : CanonNext (execLinkDown l good s) :=
  onChip h fun _ h => Canon.ite h.linkDown.settle h

theorem Canon.ctlDown {c : Chip} (h : Canon c) {l} : Canon (c.ctlDown l) := .ite h.linkDown.settle h

theorem Canon.trainStart {c : Chip} (h : Canon c) {l} : Canon (c.trainStart l) := by
  unfold Chip.trainStart
  extract_lets x1 c2 x3
  have h4 : Canon c2 := h.linkState
  clear_value c2
  exact h4.setLink

theorem Canon.ctlRetrain {c : Chip} (h : Canon c) {l} : Canon (c.ctlRetrain l) := .ite h.trainStart h

theorem CanonNext.execLinkCtlDown {s : Machine.State} (h : Canon s.chip) {l} : CanonNext (execLinkCtlDown l s) :=
  onHostWrite h fun _ h => h.unlatch.ctlDown

theorem CanonNext.execLinkCtlRetrain {s : Machine.State} (h : Canon s.chip) {l} : CanonNext (execLinkCtlRetrain l s) :=
  onHostWrite h fun _ h => h.unlatch.ctlRetrain

theorem Canon.meet {c : Chip} (h : Canon c) {l node boot} : Canon (c.meet l node boot) := by
  unfold Chip.meet
  extract_lets old1 x2 c3 c4 c5
  have h6 : Canon c3 := .mk h
  have h7 : Canon c4 := .foldl h6 fun _ _ hd => hd.freeAnnex
  have h8 : Canon c5 := .foldl h7 fun _ _ hd => .foldl hd fun _ _ h39 => h39.recoverChunk
  clear_value old1 x2 c3 c4 c5
  split
  · exact h6
  · exact .ite h6 h8.notice

theorem Canon.sendCaps {c : Chip} (h : Canon c) {l lanes act} : Canon (c.sendCaps l lanes act) := by
  unfold Chip.sendCaps
  extract_lets f1 all2
  exact h.onLink

theorem Canon.linkComesUp {c : Chip} (h : Canon c) {l caps mask width rate224 ver} : Canon (c.linkComesUp l caps mask width rate224 ver) := by
  unfold Chip.linkComesUp
  extract_lets feat1 node2 boot3 spared4 c5 c6 c7 theirs8 missing9 c10 c11 c12
  have h13 : Canon c5 := h.wr
  have h14 : Canon c6 := h13.wr
  have h15 : Canon c7 := h14.linkState
  have h16 : Canon c10 := h15.sendCaps
  have h17 : Canon c11 := h16.onLink
  have h18 : Canon c12 := .ite h17.notice h17
  clear_value c5 c6 c7 c10 c11 c12
  exact h18.meet.pump.settle

theorem CanonNext.execLinkTraining {s : Machine.State} (h : Canon s.chip) {l good112 good224} : CanonNext (execLinkTraining l good112 good224 s) := by
  refine onChip h fun c h => ?_
  extract_lets l1 x2 caps3 mine4 ver5 theirs6 own7 node8 w9 w10 fast11 width12 clash13
  clear_value l1 x2 caps3 mine4 ver5 theirs6 node8 w9 w10 fast11 width12 clash13
  exact .ite h (.ite h.linkState.onLink (.ite h.linkState.onLink.notice h.linkComesUp))

theorem CanonNext.execCapabilityFlitReceive {s : Machine.State} (h : Canon s.chip) {l} : CanonNext (execCapabilityFlitReceive l s) := by
  refine onChip h fun c h => ?_
  split
  · exact h
  · extract_lets v1 p2
    clear_value v1 p2
    exact .ite h h.onLink

theorem CanonNext.execFastRetrain {s : Machine.State} (h : Canon s.chip) {l good boot ok} : CanonNext (execFastRetrain l good boot ok s) := by
  refine onChip h fun c h => ?_
  extract_lets l1 x2 w3 c4 c5 c6 c7 c8
  have h9 : Canon c4 := h.bump
  have h10 : Canon c5 := .ite h9.wrF.linkState.wrF.notice h9
  have h11 : Canon c6 := h10.sendCaps
  have h12 : Canon c7 := h11.onLink
  have h13 : Canon c8 := h12.wrF.meet
  clear_value l1 x2 w3 c4 c5 c6 c7 c8
  exact .ite h (.ite h9.linkDown.settle h13.pump.settle)

theorem CanonNext.execLinkRetrainTimer {s : Machine.State} (h : Canon s.chip) {l} : CanonNext (execLinkRetrainTimer l s) := by
  refine onUsher h fun c h => ?_
  extract_lets l1 x2 degraded3
  clear_value l1 x2 degraded3
  exact .ite h (.ite (.ite h.trainStart h) (.ite h.trainStart h))

theorem CanonNext.execLpidleShed {s : Machine.State} (h : Canon s.chip) {l} : CanonNext (execLpidleShed l s) := by
  refine onChip h fun c h => ?_
  extract_lets x1
  clear_value x1
  exact .ite h.wrF.onLink h

theorem Canon.annexGrant {c : Chip} (h : Canon c) {l p} : Canon (c.annexGrant l p).1 := by
  unfold Chip.annexGrant
  extract_lets len1 purpose2 has3
  split
  · exact h
  · split
    · exact h
    · split
      · exact h
      · split
        · exact h
        next d5 _ e7 =>
          have h8 : Canon d5 := h.annexFrames _ e7
          exact .mk h8

theorem Canon.chunkSend {c : Chip} (h : Canon c) {w t k node} : Canon (c.chunkSend w t k node) := by
  unfold Chip.chunkSend
  split
  · extract_lets root1 b2 o3 x4 c5 mid6
    have h7 : Canon c5 := .mk h
    clear_value c5
    exact .ite h h7.sendMsg
  · exact h

theorem CanonNext.execAnnexOpen {s : Machine.State} (h : Canon s.chip) {side} : CanonNext (execAnnexOpen side s) := by
  refine onUsher h fun c h => ?_
  split
  · split
    · exact h
    next d2 _ e4 =>
      have h5 : Canon d2 := h.takeMsg _ e4
      extract_lets r6
      have h7 : Canon r6.1 := h5.annexGrant
      clear_value r6
      exact h7.sendMsg
  · exact h.chunkSend

theorem Canon.weightGets {c : Chip} (h : Canon c) {node annex m} : Canon (c.weightGets node annex m) := by
  unfold Chip.weightGets
  extract_lets im1 base2
  refine .foldl h fun d3 x5 h4 => ?_
  extract_lets n6
  refine .foldl h4 fun d7 x9 h8 => ?_
  split
  · exact h8
  · exact h8.request

theorem Canon.annexAnswer {c : Chip} (h : Canon c) {l p} : Canon (c.annexAnswer l p) := by
  unfold Chip.annexAnswer
  extract_lets id1 ok2 tag3 node4 i5 t6 k7 x8
  split
  · exact Canon.ite (Canon.ite h.closeAnnex h) (Canon.ite h.spillRefused h.setAux)
  · split
    · split
      · exact Canon.ite h.closeAnnex h
      · exact Canon.ite h.chunkDrop (Canon.mk h).chunkTouch.putAll
    · split
      · exact Canon.ite h.closeAnnex h
      · exact Canon.ite (Canon.mk h).weightGets h.askFailed

theorem CanonNext.execAnnexReply {s : Machine.State} (h : Canon s.chip) {l} : CanonNext (execAnnexReply l s) := by
  refine onUsher h fun c h => ?_
  split
  · exact h
  next d2 _ e4 =>
    have h5 : Canon d2 := h.takeMsg _ e4
    exact h5.annexAnswer.settle

theorem CanonNext.execAnnexClose {s : Machine.State} (h : Canon s.chip) {l} : CanonNext (execAnnexClose l s) := by
  refine onUsher h fun c h => ?_
  split
  · exact h
  next d2 _ e4 =>
    have h5 : Canon d2 := h.takeMsg _ e4
    split
    · exact h5.freeAnnex.settle
    · exact h5

theorem CanonNext.execWeightAsk {s : Machine.State} (h : Canon s.chip) {l} : CanonNext (execWeightAsk l s) := by
  refine onUsher h fun c h => ?_
  split
  · exact h
  next d2 _ e4 =>
    have h5 : Canon d2 := h.takeMsg _ e4
    split
    · exact h5.sendMsg
    · extract_lets ss6 ps7 a8 x9 c10
      have h11 : Canon c10 := .mk h5
      clear_value ss6 ps7 a8 x9 c10
      exact h11.sendMsg

/-! ### Power -/

theorem Canon.onPower {c : Chip} (h : Canon c) {f} : Canon (c.onPower f) := .mk h

theorem CanonNext.execIlimThrottle {s : Machine.State} (h : Canon s.chip) {t current} : CanonNext (execIlimThrottle t current s) := by
  refine onChip h fun c h => ?_
  extract_lets n1 lim2 on3 put4
  have hf_put4 : ∀ y5 y7, Canon y5 → Canon (put4 y5 y7) := by
    intro y5 y7 h6
    unfold put4
    exact h6.onPower
  clear_value n1 lim2 on3
  exact .ite h (.ite (hf_put4 _ _ h.setVsets) (.ite (hf_put4 _ _ h).notice h))

theorem CanonNext.execVsetChange {s : Machine.State} (h : Canon s.chip) {g v} : CanonNext (execVsetChange g v s) := by
  refine onUsher h fun c h => ?_
  extract_lets k1 d2
  have h3 : Canon d2 := h.setVsets
  clear_value k1 d2
  exact .ite h h3

theorem CanonNext.execRegCellFail {s : Machine.State} (h : Canon s.chip) {g cell} : CanonNext (execRegCellFail g cell s) := by
  refine onChip h fun c h => ?_
  extract_lets k1
  clear_value k1
  exact .ite h h.wrF.domsRun.notice

theorem Canon.domLost {c : Chip} (h : Canon c) {k cause} : Canon (c.domLost k cause) := by
  unfold Chip.domLost
  extract_lets c1 c2
  have h3 : Canon c1 := h.domsRun.onGal
  have h4 : Canon c2 := h3.usherFence
  clear_value c1 c2
  exact h4.notice

theorem CanonNext.execSecondCellFail {s : Machine.State} (h : Canon s.chip) {g cell} : CanonNext (execSecondCellFail g cell s) := by
  refine onChip h fun c h => ?_
  extract_lets k1
  clear_value k1
  exact .ite h h.wrF.domLost

theorem CanonNext.execCorridorCellFail {s : Machine.State} (h : Canon s.chip) {t} : CanonNext (execCorridorCellFail t s) := by
  refine onChip h fun c h => ?_
  extract_lets n1 c2 cap3 c4
  have h5 : Canon c2 := h.onPower
  have h6 : Canon c4 := h5.wrF.wrF.wrF
  clear_value n1 c2 cap3 c4
  exact .ite h h6.domsRun

theorem Canon.galOn {c : Chip} (h : Canon c) {k} : Canon (c.galOn k) := by
  unfold Chip.galOn
  extract_lets c1 x2
  have h3 : Canon c1 := h.onPower
  clear_value c1
  exact h3.setDomSt.domsRun.onGal

theorem CanonNext.execDomainSwitchOn {s : Machine.State} (h : Canon s.chip) {g trips finished} : CanonNext
    (execDomainSwitchOn g trips finished s) := by
  refine onChip h fun c h => ?_
  extract_lets k1 c2 c3
  have h4 : Canon c2 := .ite h.setDomSt.onPower h
  have h5 : Canon c3 := h4.bump
  clear_value k1 c2 c3
  exact .ite h (.ite h5.galOn h5)

theorem CanonNext.execStagingTimeout {s : Machine.State} (h : Canon s.chip) {g} : CanonNext (execStagingTimeout g s) := by
  refine onChip h fun c h => ?_
  extract_lets k1 x2
  clear_value k1 x2
  exact .ite h h.onPower.notice

theorem CanonNext.execCurrentSample {s : Machine.State} (h : Canon s.chip) {t recs} : CanonNext (execCurrentSample t recs s) :=
  onChip h fun _ h => (Canon.ite h (Canon.ite (Canon.foldl h fun _ _ hd => hd.wrF) (Canon.foldl h fun _ _ h31 => h31.wrF).memWrite).wrF.wrF)

theorem Canon.measure {c : Chip} (h : Canon c) {k} : Canon (c.measure k) := h.onPower

theorem CanonNext.execCrackAlarm {s : Machine.State} (h : Canon s.chip) {g drop share} : CanonNext (execCrackAlarm g drop share s) := by
  refine onChip h fun c h => ?_
  extract_lets k1 unit2 model3 fused4 x5 n6 c7 cls8
  have h9 : Canon c7 := h.onPower
  clear_value k1 unit2 model3 fused4 x5 n6 c7 cls8
  exact .ite h (.ite h9.wrF.domLost.measure (.ite h9.wrF.domsRun.notice.measure (.ite h9.notice.measure h9)))

theorem CanonNext.execRecoveryMeasurementDone {s : Machine.State} (h : Canon s.chip) {g ohms ratio seg} : CanonNext
    (execRecoveryMeasurementDone g ohms ratio seg s) := by
  refine onChip h fun c h => ?_
  extract_lets k1 o2 x3 c4 old5 cls6 new7 c8
  have h9 : Canon c4 := h.onPower
  have h10 : Canon c8 := h9.wrF.wrF.wrF
  clear_value k1 o2 x3 c4 old5 cls6 new7 c8
  exact .ite h (.ite h10.domLost h10.domsRun)

/-! ### Thermal -/

theorem Canon.setThr {c : Chip} (h : Canon c) {t p} : Canon (c.setThr t p) := by
  unfold Chip.setThr
  split
  · exact h
  · extract_lets old1 thr2 c3 unit4
    have h5 : Canon c3 := .ite h h.ownWrF
    clear_value c3
    exact .ite h5.notice.alert (.ite h5.notice h5)

theorem Canon.setRef {c : Chip} (h : Canon c) {t s p} : Canon (c.setRef t s p) := by
  unfold Chip.setRef
  extract_lets k1 base2 code3 c4
  have h5 : Canon c4 := h.wrF
  clear_value c4
  split
  · exact h5
  · exact .ite h5 h5.ownWrF

theorem Canon.setBg {c : Chip} (h : Canon c) {t} : Canon (c.setBg t) := by
  unfold Chip.setBg
  extract_lets on1
  refine .foldl h fun d2 x4 h3 => ?_
  extract_lets k5 saved6 put7
  have hf_put7 : ∀ y8 y10, Canon y8 → Canon (put7 y8 y10) := by
    intro y8 y10 h9
    unfold put7
    exact h9.onPower
  exact .ite (hf_put7 _ _ h3).ownWrF (.ite (hf_put7 _ _ h3).ownWrF h3)

theorem Canon.thermApply {c : Chip} (h : Canon c) {t s p} : Canon (c.thermApply t s p) :=
  .ite (.ite h h.wrF.domsRun) (.ite (.foldl h.setBg fun _ _ hd => hd.setThr) h.setRef.setThr)

theorem Canon.thermAct {c : Chip} (h : Canon c) {t s p} : Canon (c.thermAct t s p) := by
  unfold Chip.thermAct
  extract_lets k1 old2 g3 new4 c5 c6
  have h7 : Canon c5 := h.onPower
  have h8 : Canon c6 := .ite h7.event h7
  clear_value c5 c6
  exact .ite h8 h8.thermApply

theorem Canon.raiseAlarm {c : Chip} (h : Canon c) {t s p est code} : Canon (c.raiseAlarm t s p est code) := .ite h (.mk h.wr.onPower)

theorem Canon.thermLower {c : Chip} (h : Canon c) {t} : Canon (c.thermLower t) := by
  unfold Chip.thermLower
  extract_lets all1 ks2
  exact h.setVsets

theorem CanonNext.execSensorRead {s : Machine.State} (h : Canon s.chip) {t readings} : CanonNext (execSensorRead t readings s) := by
  refine onChip h fun c h => ?_
  split
  · exact h
  · extract_lets ok1 c2 c3 c4
    have h5 : Canon c2 := .foldl h fun _ _ hd => hd.wrF
    have h6 : Canon c3 := .foldl h5 fun _ _ hd => hd.thermAct
    have h7 : Canon c4 := .ite h6 h6.thermLower
    clear_value ok1 c2 c3 c4
    split
    · exact h7.raiseAlarm
    · exact h7

theorem CanonNext.execComparatorTrip {s : Machine.State} (h : Canon s.chip) {t die p} : CanonNext (execComparatorTrip t die p s) :=
  onChip h fun _ h => Canon.ite h h.raiseAlarm

theorem Canon.checkSensor {c : Chip} (h : Canon c) {t s p} : Canon (c.checkSensor t s p) := by
  unfold Chip.checkSensor
  extract_lets o1 k2 unit3 r4 e5 bad6 n7 m8 put9
  have hf_put9 : ∀ y10 y12 y13, Canon y10 → Canon (put9 y10 y12 y13) := by
    intro y10 y12 y13 h11
    unfold put9
    exact h11.onPower
  exact .ite h (.ite (.ite (hf_put9 _ _ _ h).wrF.notice (hf_put9 _ _ _ h)) (.ite (hf_put9 _ _ _ h).wrF.notice (hf_put9 _ _ _ h)))

theorem CanonNext.execLayerEstimate {s : Machine.State} (h : Canon s.chip) {t p powers} : CanonNext (execLayerEstimate t p powers s) := by
  refine onChip h fun c h => ?_
  split
  · exact h
  · extract_lets layers1 d2 d3
    have h4 : Canon d2 := by
      unfold d2
      refine .foldl h fun d5 x7 h6 => ?_
      split
      · exact h6.wrF.checkSensor
      · exact h6
    have h8 : Canon d3 := .foldl h4 fun _ _ hd => hd.thermAct
    clear_value layers1 d2 d3
    split
    · exact h8.raiseAlarm
    · exact h8

theorem Canon.grantWrite {c : Chip} (h : Canon c) {src v mask} : Canon (c.grantWrite src v mask) := by
  unfold Chip.grantWrite
  extract_lets c1 m2 g3
  have h4 : Canon c1 := h.unlatch
  clear_value c1
  exact .ite h4 h4.wrF.onUsh

theorem CanonNext.execGrantWrite {s : Machine.State} (h : Canon s.chip) {i3c uj} : CanonNext (execGrantWrite i3c uj s) := by
  unfold Machine.execGrantWrite
  split
  · exact onChip h fun _ h => h.grantWrite
  · exact onHostWrite h fun _ h => h.grantWrite

theorem Canon.windowStart {c : Chip} (h : Canon c) : Canon c.windowStart := by
  unfold Chip.windowStart
  extract_lets g1 l2 c3
  have h4 : Canon c3 := h.wr.critWrite
  clear_value c3
  exact h4.onUsh

theorem CanonNext.execLedgerMeter {s : Machine.State} (h : Canon s.chip) {uj} : CanonNext (execLedgerMeter uj s) :=
  onChip h fun _ h => Canon.ite h h.ledgerAdd.onUsh

theorem Canon.monitorAdd {c : Chip} (h : Canon c) {i v} : Canon (c.monitorAdd i v) := by
  unfold Chip.monitorAdd
  extract_lets a1 b2 v3 n4 c5 c6 c7 c8
  have h9 : Canon c5 := h.memWriteNum
  have h10 : Canon c6 := h9.memWriteNum
  have h11 : Canon c7 := h10.memWriteNum
  have h12 : Canon c8 := h11.memWriteNum
  clear_value c5 c6 c7 c8
  exact h12.memWriteNum

theorem Canon.monitors {c : Chip} (h : Canon c) {vals} : Canon (c.monitors vals) :=
  (Canon.ite h (Canon.ite (Canon.foldl h fun _ _ h37 => h37.memWrite).wrF (Canon.foldl h fun _ _ hd => hd.monitorAdd)))

theorem Canon.trueUp {c : Chip} (h : Canon c) {k m} : Canon (c.trueUp k m) := .ite h h.ledgerAdd

theorem Canon.windowVsets {c : Chip} (h : Canon c) : Canon c.windowVsets := by
  unfold Chip.windowVsets
  extract_lets g1 l2 all3 floor4 down5 low6 c7 up8 d9
  have h10 : Canon c7 := h.setVsets
  have h11 : Canon d9 := h.setVsets
  clear_value c7 d9
  exact .ite h (.ite (.ite h10 h10.wrF) (.ite (.ite h11.wrF h) h))

theorem CanonNext.execBellowsWindowEnd {s : Machine.State} (h : Canon s.chip) {measured values} : CanonNext
    (execBellowsWindowEnd measured values s) :=
  onChip h fun _ h => (Canon.ite h (Canon.ite (Canon.foldl (Canon.foldl h fun _ _ h18 => h18.trueUp) fun _ _ h19 => h19.onGal).bump.wrF.wrF.windowVsets.notice.alert (Canon.foldl (Canon.foldl h fun _ _ h20 => h20.trueUp) fun _ _ h21 => h21.onGal).bump.wrF.wrF.windowVsets).monitors.onUsh.windowStart)

/-! ### Errors and retirement -/

theorem Canon.onRas {c : Chip} (h : Canon c) {f} : Canon (c.onRas f) := .mk h

theorem CanonNext.execSliceStorageUe {s : Machine.State} (h : Canon s.chip) {t v set way part} : CanonNext
    (execSliceStorageUe t v set way part s) := by
  refine onLive h fun c h => ?_
  extract_lets sk1 k2 pos3 c4
  have h5 : Canon c4 := h.errLog
  clear_value sk1 k2 pos3 c4
  split
  · exact h
  · extract_lets gone6 c7
    have h8 : Canon c7 := h.errLog
    clear_value gone6 c7
    split
    · exact .ite h h8.setWay
    · exact .ite h5.setWay.addStale h5.setWay
    · exact h5.setWay

theorem Canon.retWrite {c : Chip} (h : Canon c) {t index word} : Canon (c.retWrite t index word) := .foldl h fun _ _ hd => hd.memWriteNum.memWriteNum

theorem Canon.retLog {c : Chip} (h : Canon c) {x} : Canon (c.retLog x) := h.errLog

theorem Canon.noteFrame {c : Chip} (h : Canon c) {x} : Canon (c.noteFrame x) := by
  unfold Chip.noteFrame
  extract_lets bank1 add2
  have hf_add2 : ∀ y3 y5, Canon y3 → Canon (add2 y3 y5) := by
    intro y3 y5 h4
    unfold add2
    exact .ite h4 h4.onRas
  exact .ite h (.ite (hf_add2 _ _ h) (.ite (hf_add2 _ _ h) h))

theorem Canon.scanRecord {c : Chip} (h : Canon c) {t n} : Canon (c.scanRecord t n) := by
  unfold Chip.scanRecord
  extract_lets a1 c2 w3 kind4 x5 k6 old7 new8 c9
  have h10 : Canon c2 := h.memTouch
  have h11 : Canon c9 := h10.onRas
  clear_value c2 c9
  exact .ite h10.onUsh.noteFrame (.ite h10.onRas.noteFrame (.ite (.ite h10 (.ite h11.notice h11)) h10))

theorem CanonNext.execErrorLogScan {s : Machine.State} (h : Canon s.chip) {t} : CanonNext (execErrorLogScan t s) :=
  onUsher h fun _ h => (Canon.ite h (Canon.foldl h fun _ _ hd => hd.scanRecord).onUsh)

theorem CanonNext.execCeDecay {s : Machine.State} (h : Canon s.chip) : CanonNext (execCeDecay s) := by
  refine onUsher h fun c h => ?_
  extract_lets h1
  clear_value h1
  exact .ite h h.onUsh.onRas

theorem Canon.retReq {c : Chip} (h : Canon c) {t v} : Canon (c.retReq t v) := by
  unfold Chip.retReq
  extract_lets whole1 x2 src3
  clear_value whole1 x2 src3
  split
  · exact h
  · split
    · exact h.wrF
    · exact h.onRas.wrF

theorem CanonNext.execRetreq {s : Machine.State} (h : Canon s.chip) {t v} : CanonNext (execRetreq t v s) :=
  onChip h fun _ h => (.ite h (.ite h.bump (.ite h.retReq h)))

theorem Canon.retRefuse {c : Chip} (h : Canon c) {d why} : Canon (c.retRefuse d why) := by
  unfold Chip.retRefuse
  extract_lets t1 c2
  have h3 : Canon c2 := h.retLog.notice
  clear_value c2
  exact .ite h3.wrF h3

theorem CanonNext.execRetirementStart {s : Machine.State} (h : Canon s.chip) {t} : CanonNext (execRetirementStart t s) := by
  refine onUsher h fun c h => ?_
  split
  · exact h
  · extract_lets c1 x2 x3
    have h4 : Canon c1 := h.onRas
    clear_value c1 x2 x3
    split
    · exact h4.retRefuse
    · split
      · exact h4.retRefuse
      · split
        next d7 e8 =>
          have h9 : Canon d7 := .of_snd h4.pick e8
          extract_lets dst10 old11 index12
          clear_value dst10 old11 index12
          split
          · exact h9.retRefuse
          · extract_lets e13 c14
            have h15 : Canon c14 := h9.onRas
            clear_value e13 c14
            exact h15.retWrite.retLog

theorem Canon.retMove {c : Chip} (h : Canon c) {e} : Canon (c.retMove e) := by
  unfold Chip.retMove
  extract_lets c1 dst2 seen3 gone4 c5
  have h6 : Canon c1 := h.flushQueued
  have h7 : Canon c5 := h6.onRas
  clear_value c1 c5
  exact .foldl h7 fun _ _ hd => hd.dramWrite

theorem CanonNext.execRetirementMoveDone {s : Machine.State} (h : Canon s.chip) {t index} : CanonNext (execRetirementMoveDone t index s) := by
  refine onUsher h fun c h => ?_
  split
  · exact h
  · extract_lets gone1 c2 c3 c4 n5 fc6 c7 c8 x9 c10 unit11 c12
    have h13 : Canon c2 := h.retMove
    have h14 : Canon c3 := .foldl h13 fun _ _ hd => hd.retWrite
    have h15 : Canon c4 := h14.retWrite.retLog
    have h16 : Canon c7 := h15.wrF
    have h17 : Canon c8 := h16.wrF
    have h18 : Canon c10 := by
      unfold c10
      refine .foldl h17 fun d19 x21 h20 => ?_
      extract_lets k22
      clear_value k22
      exact h20.onUsh.onRas
    have h23 : Canon c12 := .ite h18.notice h18.notice
    clear_value gone1 c2 c3 c4 n5 fc6 c7 c8 x9 c10 unit11 c12
    exact .ite h23.wrF h23

theorem Canon.rawWrite {c : Chip} (h : Canon c) {l d chk} : Canon (c.rawWrite l d chk) := by
  unfold Chip.rawWrite
  extract_lets c1 e2 delta3 x4
  have h5 : Canon c1 := h.dramWrite
  clear_value c1
  exact .mk h5

theorem Canon.diagResult {c : Chip} (h : Canon c) {status verdict raw pos} : Canon (c.diagResult status verdict raw pos) := h.wr

theorem Canon.diagCmd {c : Chip} (h : Canon c) {op} : Canon (c.diagCmd op) := by
  unfold Chip.diagCmd
  extract_lets l1 st2 c3 syn4 v5 c6 c7 c8 d9 chk10
  have h11 : Canon c3 := by
    unfold c3
    refine Canon.flushQueued ?_
    split
    · exact h.cleanWay.setWay
    · exact h
  have h12 : Canon c6 := .foldl h11 fun _ _ hd => hd.wr
  have h13 : Canon c7 := h12.wr
  have h14 : Canon c8 := h13.wr
  clear_value c3 c6 c7 c8
  split
  · exact h
  · split
    · exact h.diagResult
    · split
      · exact h14.diagResult
      · split
        · exact h11.diagResult
        · refine Canon.diagResult ?_
          split
          · exact h11.rawWrite
          · exact h11.rawWrite
          · exact h11.rawWrite

theorem CanonNext.onDiag {s : Machine.State} (h : Canon s.chip) {op} : CanonNext (s.onDiag op) :=
  onChip h fun _ h => .ite h.bump h.diagCmd

theorem CanonNext.execDiagWdata {s : Machine.State} (h : Canon s.chip) : CanonNext (execDiagWdata s) :=
  onDiag h

theorem CanonNext.execDiagWcheck {s : Machine.State} (h : Canon s.chip) : CanonNext (execDiagWcheck s) :=
  onDiag h

theorem CanonNext.execDiagWraw {s : Machine.State} (h : Canon s.chip) : CanonNext (execDiagWraw s) :=
  onDiag h

theorem CanonNext.execDiagReadraw {s : Machine.State} (h : Canon s.chip) : CanonNext (execDiagReadraw s) :=
  onDiag h

/-! ### Resets -/

theorem Canon.ringWrite {c : Chip} (h : Canon c) {key e} : Canon (c.ringWrite key e) := by
  unfold Chip.ringWrite
  extract_lets i1 a2 c3 x4
  have h5 : Canon c3 := h.memWrite
  clear_value c3
  exact .mk h5

theorem Canon.drainEvents {c : Chip} (h : Canon c) : Canon c.drainEvents := by
  unfold Chip.drainEvents
  extract_lets ready1 out2 x3 c4
  have h5 : Canon c4 := .mk h
  clear_value c4
  exact .foldl h5 fun _ _ hd => .foldl hd fun _ _ h39 => h39.ringWrite

theorem Canon.vaultsSleep {c : Chip} (h : Canon c) {ks} : Canon (c.vaultsSleep ks) := .foldl h fun _ _ hd => .ite hd hd.selfRefreshEnter

theorem Canon.warmEnter {c : Chip} (h : Canon c) : Canon c.warmEnter := by
  unfold Chip.warmEnter
  extract_lets c1 c2 c3 done4 regs5 regs6 x7 x8 x9 x10
  have h11 : Canon c1 := h.drainEvents
  have h12 : Canon c2 := .foldl (.mk h11) fun _ _ hd => hd.abortJobs
  have h13 : Canon c3 := h12.vaultsSleep
  have h14 : Canon x7 := .reset
  clear_value c1 c2 c3 x7
  exact .mk h13

theorem Canon.coldReset {c : Chip} (_h : Canon c) : Canon c.coldReset := by
  unfold Chip.coldReset
  extract_lets p1 x2 x3 x4 x5 r6
  have h7 : Canon x2 := .reset
  have h8 : Canon r6 := .mk h7
  clear_value x2 r6
  exact h8.wrF.wrF

theorem Canon.warmGo {c : Chip} (h : Canon c) : Canon c.warmGo := .ite h h.wrF

theorem Canon.warmReset {c : Chip} (h : Canon c) : Canon c.warmReset := .ite h (.ite h.coldReset h.warmEnter.wrF.warmGo)

theorem CanonNext.execPowerOnReset {s : Machine.State} (h : Canon s.chip) {board} : CanonNext (execPowerOnReset board s) := by
  refine onChip h fun c h => ?_
  extract_lets x1 x2 x3 x4
  have h5 : Canon x1 := .reset
  clear_value x1 x2 x3 x4
  exact .mk h5

theorem CanonNext.execColdReset {s : Machine.State} (h : Canon s.chip) : CanonNext (execColdReset s) :=
  onChip h fun _ h => h.coldReset

theorem CanonNext.execWarmReset {s : Machine.State} (h : Canon s.chip) : CanonNext (execWarmReset s) :=
  onChip h fun _ h => h.warmReset

theorem CanonNext.execColdrstN {s : Machine.State} (h : Canon s.chip) : CanonNext (execColdrstN s) :=
  onChip h fun _ h => (Canon.mk h).coldReset

theorem CanonNext.execWarmrstN {s : Machine.State} (h : Canon s.chip) : CanonNext (execWarmrstN s) :=
  onChip h fun _ h => (Canon.ite h (Canon.mk h).warmReset)

theorem CanonNext.execResetInputRelease {s : Machine.State} (h : Canon s.chip) {cold} : CanonNext (execResetInputRelease cold s) :=
  onChip h fun _ h => (Canon.ite (Canon.mk h) (Canon.ite (Canon.mk h).warmGo (Canon.mk h)))

theorem CanonNext.execPerstN {s : Machine.State} (h : Canon s.chip) : CanonNext (execPerstN s) :=
  onChip h fun _ h => Canon.ite h.resync h

theorem Canon.bringReset {c : Chip} (h : Canon c) {kind tower} : Canon (c.bringReset kind tower) := by
  unfold Chip.bringReset
  split
  · exact h
  · split
    · exact h.coldReset
    · exact h.warmReset
    · exact Canon.ite h (Canon.ite h.warmReset (Canon.ite (Canon.mk h) (Canon.mk h).onUsh))
    · exact Canon.ite (Canon.mk h) h
    · exact h

theorem CanonNext.execBringResetCold {s : Machine.State} (h : Canon s.chip) {key} : CanonNext (execBringResetCold key s) :=
  onChip h fun _ h => Canon.ite h.bringReset h

theorem CanonNext.execBringResetWarm {s : Machine.State} (h : Canon s.chip) {key} : CanonNext (execBringResetWarm key s) :=
  onChip h fun _ h => Canon.ite h.bringReset h

theorem CanonNext.execBringResetTower {s : Machine.State} (h : Canon s.chip) {key t} : CanonNext (execBringResetTower key t s) :=
  onChip h fun _ h => Canon.ite h.bringReset h

theorem CanonNext.execBringResetTakeover {s : Machine.State} (h : Canon s.chip) {key} : CanonNext (execBringResetTakeover key s) :=
  onChip h fun _ h => Canon.ite h.bringReset h

theorem CanonNext.execPllLock {s : Machine.State} (h : Canon s.chip) : CanonNext (execPllLock s) :=
  onChip h fun _ h => (.ite h (.mk h))

theorem Canon.onPins {c : Chip} (h : Canon c) {f} : Canon (c.onPins f) := .mk h

theorem CanonNext.execPowerGoodRise {s : Machine.State} (h : Canon s.chip) {rail} : CanonNext (execPowerGoodRise rail s) := by
  refine onChip h fun c h => ?_
  extract_lets p1 c2 c3 x4 x5
  have h6 : Canon c2 := h.onPins
  have h7 : Canon c3 := h6.onPins
  clear_value p1 c2 c3 x4 x5
  exact .ite h (.ite (.mk h7) h6)

theorem CanonNext.execPgFail {s : Machine.State} (h : Canon s.chip) {rail} : CanonNext (execPgFail rail s) := by
  refine onChip h fun c h => ?_
  split
  · exact h.coldReset
  · exact .ite h (.ite (.mk h.onPins) h.onPins.coldReset)

theorem CanonNext.execThermalStop {s : Machine.State} (h : Canon s.chip) : CanonNext (execThermalStop s) :=
  onChip h fun _ h => (Canon.ite h (Canon.foldl h.warmEnter.wrF fun _ _ hd => hd.wrF.wrF).alert)

theorem Canon.thermResume {c : Chip} (h : Canon c) : Canon c.thermResume := (Canon.ite h (Canon.ite h.coldReset (Canon.mk h.wrF.onPins).wrF.warmGo))

theorem CanonNext.execThermalResume {s : Machine.State} (h : Canon s.chip) : CanonNext (execThermalResume s) :=
  onChip h fun _ h => h.thermResume

/-! ### Recovery -/

theorem Canon.staleScrub {c : Chip} (h : Canon c) {ks} : Canon (c.staleScrub ks) := by
  unfold Chip.staleScrub
  extract_lets c1
  have h2 : Canon c1 := .foldl h fun _ _ hd => .foldl hd fun _ _ h39 => h39.poisonLine
  clear_value c1
  exact .foldl h2 fun _ _ hd => .mk hd

theorem Canon.critFix {c : Chip} (h : Canon c) {off v} : Canon (c.critFix off v) := by
  unfold Chip.critFix
  split
  next d _ e => exact .of_fst h.critRead e
  next d e =>
    have h1 : Canon d := .of_fst h.critRead e
    exact h1.critWrite.notice

theorem Canon.critAll {c : Chip} (h : Canon c) : Canon c.critAll := by
  unfold Chip.critAll
  extract_lets c1 c2 c3 c4 c5 c6
  have h7 : Canon c1 := h.critFix
  have h8 : Canon c2 := h7.critFix
  have h9 : Canon c3 := h8.wrF
  have h10 : Canon c4 := h9.critFix
  have h11 : Canon c5 := h10.wrF
  have h12 : Canon c6 := h11.critFix
  clear_value c1 c2 c3 c4 c5 c6
  exact .foldl h12 fun _ _ hd => hd.critFix.critFix

theorem Canon.moveAgain {c : Chip} (h : Canon c) {n} : Canon (c.moveAgain n) := by
  unfold Chip.moveAgain
  extract_lets dst1 len2 k3 fs4
  split
  · split
    · exact h.memWriteNum
    · extract_lets held5 c6
      have h7 : Canon c6 := Canon.ite h h.dropTables
      clear_value c6
      split
      · exact h7.putMove.memWriteNum
      next d9 _ e11 =>
        have h12 : Canon d9 := h7.rehangTables _ e11
        extract_lets c13
        have h14 : Canon c13 := Canon.ite h12.dropTables h12
        clear_value c13
        exact h14.putMove
  · split
    next d18 _ _ e21 =>
      have h22 : Canon d18 := (Canon.foldl h fun _ _ hd => hd.setFrame).takeFrames _ e21
      extract_lets m23 c24
      have h25 : Canon c24 := h22.setModel
      clear_value c24
      exact h25.putMove
    · exact h
  · exact h.putMove.moveFlip

theorem Canon.recoverEpoch {c : Chip} (h : Canon c) : Canon c.recoverEpoch := by
  unfold Chip.recoverEpoch
  extract_lets r1 w2 st3 c4 c5 crec6 c7 c8 c9 c10 c11 c12 c13
  have h14 : Canon r1.1 := h.critRead
  have h15 : Canon c4 := h14.wrF.wrF
  have h16 : Canon c5 := h15.onUsh
  have h17 : Canon c7 := Canon.ite h16.onUsh h16
  have h18 : Canon c8 := h17.critWrite.notice
  have h19 : Canon c9 := Canon.ite h17 (Canon.foldl h18 fun _ _ hd => (Canon.ite hd hd.memWriteNum))
  have h20 : Canon c10 := h19.onUsh
  have h21 : Canon c11 := Canon.foldl h20 fun _ _ h40 => (Canon.ite h40 h40.addMap)
  have h22 : Canon c12 := h21.putRecord.setEpoch
  have h23 : Canon c13 := Canon.foldl h19 fun _ _ h40 => (Canon.ite h40 (Canon.ite h40.repairFlip.postFlip h40.moveAgain))
  clear_value r1 c4 c5 c7 c8 c9 c10 c11 c12 c13
  exact Canon.ite (Canon.foldl h19 fun _ _ h38 => (Canon.ite h38.postFlip h38)).movesComplete (Canon.ite h19 (Canon.ite
    (Canon.foldl h22 fun _ _ h36 => h36.moveFlip).movesComplete (Canon.ite (Canon.ite h23.movesComplete h23.setEpoch) h23.setEpoch.movesIssue)))

theorem Canon.rebuildCounts {c : Chip} (h : Canon c) : Canon c.rebuildCounts := by
  unfold Chip.rebuildCounts
  extract_lets slots1 c2 kept3 c4
  have h5 : Canon c2 := h.onUsh
  have h6 : Canon c4 := .foldl h5 fun _ _ hd => hd.setFrame
  clear_value c2 c4
  exact .foldl h6 fun _ _ hd => .ite hd hd.setFrame

theorem Canon.twinsSync {c : Chip} (h : Canon c) : Canon c.twinsSync := by
  unfold Chip.twinsSync
  extract_lets c1 c2
  have h3 : Canon c1 := .foldl h fun _ _ hd => hd.twinSync
  have h4 : Canon c2 := .foldl h3 fun _ _ hd => hd.twinSync
  clear_value c1 c2
  refine .foldl h4 fun d5 x7 h6 => ?_
  extract_lets c8
  have h9 : Canon c8 := h6.twinSync
  clear_value c8
  exact .foldl h9 fun _ _ hd => hd.twinSync

theorem Canon.recoverTicket {c : Chip} (h : Canon c) {i} : Canon (c.recoverTicket i) := by
  unfold Chip.recoverTicket
  extract_lets st1 c2 c3 ans4 c5 c6 c7 x8
  have h9 : Canon c2 := .ite h.setFlag h
  have h10 : Canon c3 := .ite h9.spillAbandon h9
  have h11 : Canon c5 := .ite h10.recallDrop.recallStart.setAux h10
  have h12 : Canon c6 := .ite h11.tkPut h11
  have h13 : Canon c7 := h12.releaseDone
  clear_value st1 c2 c3 ans4 c5 c6 c7 x8
  split
  · exact h12.setState.setAux
  · split
    · exact h12.releaseDone
    · exact .mk h13
  · exact h12.releaseDone
  · exact h12

theorem Canon.recover {c : Chip} (h : Canon c) : Canon c.recover := by
  unfold Chip.recover
  extract_lets c1 c2 c3 c4 c5 c6 c7
  have h8 : Canon c1 := h.critAll
  have h9 : Canon c2 := h8.onUsh
  have h10 : Canon c3 := .foldl h9 fun _ _ hd => hd.setAux
  have h11 : Canon c4 := h10.twinsSync
  have h12 : Canon c5 := h11.recoverEpoch.rebuildCounts
  have h13 : Canon c6 := .foldl h12 fun _ _ hd => hd.recoverTicket
  have h14 : Canon c7 := .foldl h13 fun _ _ hd => .ite hd hd.dropKept.setCq
  clear_value c1 c2 c3 c4 c5 c6 c7
  exact h14.settle

theorem Canon.journalReset {c : Chip} (h : Canon c) {what} : Canon (c.journalReset what) := h.journal

theorem CanonNext.execHeartbeatMissed {s : Machine.State} (h : Canon s.chip) : CanonNext (execHeartbeatMissed s) :=
  onUsher h fun _ h => (.ite (.mk h) h)

theorem CanonNext.execUsherTakeover {s : Machine.State} (h : Canon s.chip) : CanonNext (execUsherTakeover s) := by
  refine onUsher h fun c h => ?_
  split
  · exact h
  · extract_lets c1 c2 c3 c4 c5 x6 x7
    have h8 : Canon c1 := .foldl h fun _ _ hd => hd.holdGal
    have h9 : Canon c2 := by
      unfold c2
      refine .foldl h8 fun d10 x12 h11 => ?_
      extract_lets ids13
      clear_value ids13
      exact .foldl h11 fun _ _ hd => hd.jobCancel
    have h14 : Canon c3 := h9.resync.settle.recover.journalReset
    have h15 : Canon c4 := h14.wrF.wrF
    have h16 : Canon c5 := h15.notice
    clear_value c1 c2 c3 c4 c5 x6 x7
    exact .ite h9.closingStart (.ite h9 (.mk h16))

/-! ### Bring-up -/

theorem Canon.onBring {c : Chip} (h : Canon c) {f} : Canon (c.onBring f) := .mk h

theorem Canon.stepErr {c : Chip} (h : Canon c) : Canon c.stepErr := .ite h h.wrF

theorem Canon.stepBegin {c : Chip} (h : Canon c) {n fs} : Canon (c.stepBegin n fs) := by
  unfold Chip.stepBegin
  extract_lets again1 v2
  exact h.wr.wr.onBring

theorem CanonNext.onStep {s : Machine.State} (h : Canon s.chip) {work : Chip → Chip} (hf : ∀ c, Canon c → Canon (work c)) {n fails} : CanonNext (s.onStep n fails work) := by
  refine onChip h fun c h => ?_
  split
  · exact h.stepErr
  · extract_lets fs d
    have hd : Canon d := h.stepBegin
    exact .ite (hf _ hd) hd

theorem CanonNext.execBringStepInvalid {s : Machine.State} (h : Canon s.chip) {n} : CanonNext (execBringStepInvalid n s) :=
  onChip h fun _ h => Canon.ite h h.stepErr

theorem Canon.loadTower {c : Chip} (h : Canon c) {f t} : Canon (c.loadTower f t) := by
  unfold Chip.loadTower
  extract_lets res1 good2 c3 c4 c5 c6 c7 lost8 frames9 c10
  have h11 : Canon c3 := .foldl h fun _ _ hd => hd.wr
  have h12 : Canon c4 := h11.wr
  have h13 : Canon c5 := .foldl h12 fun _ _ hd => .ite hd.wrF hd
  have h14 : Canon c6 := .foldl h13 fun _ _ hd => hd.wrF
  have h15 : Canon c7 := by
    unfold c7
    refine .foldl h14 fun d16 x18 h17 => ?_
    extract_lets bad19
    exact h17.wr
  have h20 : Canon c10 := h15.wr
  clear_value c3 c4 c5 c6 c7 c10
  exact h20.wr

theorem Canon.loadModule {c : Chip} (h : Canon c) {f} : Canon (c.loadModule f) := by
  unfold Chip.loadModule
  extract_lets c1 c2 c3
  have h4 : Canon c1 := .mk h
  have h5 : Canon c2 := .foldl h4 fun _ _ hd => hd.wr
  have h6 : Canon c3 := .foldl h5 fun _ _ hd => .foldl hd fun _ _ h39 => h39.wr
  clear_value c1 c2 c3
  exact h6.wr

theorem Canon.unmeasured {c : Chip} (h : Canon c) {f t} : Canon (c.unmeasured f t) := .foldl h fun _ _ hd => hd.wr

theorem Canon.measureBanks {c : Chip} (h : Canon c) {f m t} : Canon (c.measureBanks f m t) := by
  unfold Chip.measureBanks
  refine .foldl h fun d1 x3 h2 => ?_
  extract_lets base4
  split
  · exact h2.wr
  · exact h2.wr

theorem Canon.fuseWork {c : Chip} (h : Canon c) {f rail measured} : Canon (c.fuseWork f rail measured) := by
  unfold Chip.fuseWork
  extract_lets c1 c2 c3 c4 worn5
  have h6 : Canon c1 := .mk h
  have h7 : Canon c2 := h6.loadModule
  have h8 : Canon c3 := .foldl h7 fun _ _ hd => .ite hd.loadTower.unmeasured hd.loadTower.measureBanks
  have h9 : Canon c4 := h8.onRas
  clear_value c1 c2 c3 c4
  exact .ite (.foldl h6 fun _ _ h39 => h39.wr) (.foldl h9 fun _ _ h39 => h39.healthNote)

theorem CanonNext.execBringStepFuses {s : Machine.State} (h : Canon s.chip) {fuses high unread mismatch measured} :
    CanonNext (execBringStepFuses fuses high unread mismatch measured s) := by
  unfold Machine.execBringStepFuses
  exact onStep h fun _ h => h.fuseWork

theorem CanonNext.execBringStepRails {s : Machine.State} (h : Canon s.chip) {weak} : CanonNext (execBringStepRails weak s) := by
  refine onStep h fun c h => ?_
  extract_lets c1
  have h2 : Canon c1 := h.onBring
  clear_value c1
  exact .ite h2 h2.onPins

theorem Canon.trainLanes {c : Chip} (h : Canon c) {lanes ts} : Canon (c.trainLanes lanes ts) := by
  unfold Chip.trainLanes
  extract_lets fused1
  exact .foldl h fun _ _ hd => .ite hd.mapLane hd

theorem Canon.wakeVaults {c : Chip} (h : Canon c) {codes t} : Canon (c.wakeVaults codes t) := by
  unfold Chip.wakeVaults
  extract_lets c1
  have h2 : Canon c1 := h.onRas
  clear_value c1
  refine .foldl h2 fun d3 x5 h4 => ?_
  extract_lets need6
  exact h4.selfRefreshLeave

theorem Canon.trainWork {c : Chip} (h : Canon c) {lanes bridges codes links} : Canon (c.trainWork lanes bridges codes links) := by
  unfold Chip.trainWork
  extract_lets c1 c2 out3 c4 c5
  have h6 : Canon c1 := h.trainLanes
  have h7 : Canon c2 := .ite (.foldl h6 fun _ _ h39 => h39.wakeVaults) (.foldl h6 fun _ _ h39 => .mk h39)
  have h8 : Canon c4 := .foldl h7 fun _ _ hd => hd.stairGone
  have h9 : Canon c5 := .foldl h8 fun _ _ hd => .ite hd.bridgeGone hd
  clear_value c1 c2 c4 c5
  exact .foldl h9 fun _ _ hd => .ite hd.trainStart hd.linkState.onLink

theorem CanonNext.execBringStepTrain {s : Machine.State} (h : Canon s.chip) {lanes uncal bridges codes links} : CanonNext
    (execBringStepTrain lanes uncal bridges codes links s) :=
  onStep h fun _ h => h.trainWork

theorem Canon.retireNow {c : Chip} (h : Canon c) {x} : ∀ d ∈ c.retireNow x, Canon d := by
  unfold Chip.retireNow
  split
  · exact forall_mem_none
  · split
    · exact forall_mem_none
    · split
      next d3 e4 =>
        have h5 : Canon d3 := .of_snd h.pick e4
        extract_lets i6
        exact forall_mem_some h5.onRas

theorem Canon.retireFailed {c : Chip} (h : Canon c) {failing t} : ∀ d ∈ c.retireFailed failing t, Canon d := by
  unfold Chip.retireFailed
  split
  · refine .foldl_opt (forall_mem_some h.onRas) fun o1 x3 h2 => ?_
    split
    · exact forall_mem_none
    next d5 =>
      have h6 : Canon d5 := h2 _ rfl
      exact h6.retireNow

theorem Canon.retTables {c : Chip} (h : Canon c) {t a b} : Canon (c.retTables t a b) := by
  unfold Chip.retTables
  extract_lets c1 c2 es3 c4 n5 fc6 lost7
  have h8 : Canon c1 := h.critWrite
  have h9 : Canon c2 := .foldl h8 fun _ _ hd => hd.memWrite
  have h10 : Canon c4 := .foldl h9 fun _ _ hd => hd.retWrite.retLog
  clear_value c1 c2 c4
  exact h10.wrF.wrF

theorem Canon.testRun {c : Chip} (_h : Canon c) {lines} : Canon (c.testRun lines) := Canon.onBring (Canon.mk rfl)

theorem Canon.selftestWork {c : Chip} (h : Canon c) {lines rtabA rtabB} : Canon (c.selftestWork lines rtabA rtabB) := by
  unfold Chip.selftestWork
  split
  · exact .foldl h fun _ _ hd => hd.critFix
  · extract_lets c1 c2 c3 c4 c5 c6 c7
    have h8 : Canon c1 := h.testRun
    have h9 : Canon c2 := by
      unfold c2
      refine .foldl h8 fun d10 x12 h11 => ?_
      refine Canon.getD ?_ ?_
      · exact h11.retireFailed
      · exact h11
    have h13 : Canon c3 := h9.wr
    have h14 : Canon c4 := h13.onUsh
    have h15 : Canon c5 := h14.critWrite.critWrite
    have h16 : Canon c6 := h15.critWrite.critWrite.critWrite
    have h17 : Canon c7 := .foldl h16 fun _ _ hd => hd.critWrite
    clear_value c1 c2 c3 c4 c5 c6 c7
    exact .foldl h17 fun _ _ hd => hd.retTables

theorem CanonNext.execBringStepSelftest {s : Machine.State} (h : Canon s.chip) {lines badCode rtabA rtabB} : CanonNext
    (execBringStepSelftest lines badCode rtabA rtabB s) :=
  onStep h fun _ h => h.selftestWork

theorem Canon.setImage {c : Chip} (h : Canon c) {x} : Canon (c.setImage x) := .ite h (.ite h h.ownWrF)

theorem Canon.imageLoad {c : Chip} (h : Canon c) {slot im} : Canon (c.imageLoad slot im) := by
  unfold Chip.imageLoad
  extract_lets u1 ch2 set3 given4 c5 c6 x7 x8
  have h9 : Canon c5 := .foldl h fun _ _ hd => hd.setImage
  have h10 : Canon c6 := h9.wrF.wrF
  clear_value c5 c6
  exact .mk h10

theorem Canon.imageWork {c : Chip} (h : Canon c) {flash layout chosen} : Canon (c.imageWork flash layout chosen) := by
  unfold Chip.imageWork
  split
  · exact h
  · split
    · exact h
    · extract_lets c1
      have h2 : Canon c1 := .ite h h.onUsh.onBring
      clear_value c1
      exact h2.imageLoad

theorem CanonNext.execBringStepImage {s : Machine.State} (h : Canon s.chip) {flash layout chosen} : CanonNext (execBringStepImage flash layout chosen s) := by
  unfold Machine.execBringStepImage
  split
  · exact onStep h fun _ h => h.imageWork
  · rintro _ ⟨⟩
    exact h

theorem Canon.sectPut {c : Chip} (h : Canon c) {who o b} : Canon (c.sectPut who o b) := by
  unfold Chip.sectPut
  extract_lets s1 n2
  split
  · exact .ite h (.ite h.onGal h.onGal)
  · exact .ite h h.onChanter
  · exact h

theorem Canon.sectWhole {c : Chip} (h : Canon c) {who} : Canon (c.sectWhole who) := by
  unfold Chip.sectWhole
  extract_lets s1 n2
  split
  · exact h.onGal
  · exact h.onChanter
  · exact h

theorem Canon.bringFence {c : Chip} (h : Canon c) {k cause} : Canon (c.bringFence k cause) := h.fenceGallery.notice

theorem Canon.recvFence {c : Chip} (h : Canon c) {r} : Canon (c.recvFence r) := by
  unfold Chip.recvFence
  extract_lets c1
  have h2 : Canon c1 := by
    unfold c1
    split
    · exact h.bringFence
    · extract_lets st3
      exact .ite h h.wrF.wrF
    · exact h.notice
  clear_value c1
  exact h2.onBring

theorem Canon.broadcast {c : Chip} (h : Canon c) {ts but weak} : Canon (c.broadcast ts but weak) := by
  unfold Chip.broadcast
  extract_lets rs1 c2 c3
  have h4 : Canon c2 := by
    unfold c2
    refine .foldl h fun d5 x7 h6 => ?_
    split
    · exact h6.galOn
    · exact h6
  have h8 : Canon c3 := .foldl h4 fun _ _ hd => hd.sectWhole
  clear_value c2 c3
  refine .foldl h8 fun d9 x11 h10 => ?_
  split
  · exact .ite h10 h10.onGal
  · exact h10

theorem Canon.castWork {c : Chip} (h : Canon c) {late weak} : Canon (c.castWork late weak) := by
  unfold Chip.castWork
  extract_lets opened1 c2 late3 ks4 c5
  have h6 : Canon c2 := .foldl h fun _ _ hd => hd.bringFence
  have h7 : Canon c5 := h6.broadcast
  clear_value c2 c5
  exact h7.onBring

theorem CanonNext.execBringStepBroadcast {s : Machine.State} (h : Canon s.chip) {late weak started} : CanonNext
    (execBringStepBroadcast late weak started s) :=
  onStep h fun _ h => h.castWork

theorem Canon.onRecv {c : Chip} (h : Canon c) {who f} : Canon (c.onRecv who f) := h.onBring

theorem CanonNext.execChunkReceive {s : Machine.State} (h : Canon s.chip) {who k restart bad writeBad wrong} : CanonNext
    (execChunkReceive who k restart bad writeBad wrong s) := by
  refine onChip h fun c h => ?_
  extract_lets sect1 c2 bytes3 c4
  have h5 : Canon c2 := .ite h.onRecv h
  have h6 : Canon c4 := .foldl h5 fun _ _ hd => hd.sectPut
  clear_value sect1 c2 bytes3 c4
  exact .ite h (.ite h5 h6.onRecv)

theorem CanonNext.execChunkEndReceive {s : Machine.State} (h : Canon s.chip) {who pass} : CanonNext (execChunkEndReceive who pass s) := by
  refine onChip h fun c h => ?_
  split
  · exact h
  · split
    · exact h
    · extract_lets sect1 full2 c3
      have h4 : Canon c3 := h.onRecv
      clear_value sect1 full2 c3
      split
      · split
        · exact .ite h4.onGal h4
        · exact h4
      · exact h.onRecv

theorem CanonNext.execBroadcastRoundEnd {s : Machine.State} (h : Canon s.chip) : CanonNext (execBroadcastRoundEnd s) := by
  refine onChip h fun c h => ?_
  extract_lets b1 open2
  clear_value b1 open2
  exact .ite h (.ite h.onBring (.foldl h fun _ _ hd => hd.recvFence))

theorem CanonNext.execRuntimeTestTimeout {s : Machine.State} (h : Canon s.chip) {g} : CanonNext (execRuntimeTestTimeout g s) := by
  refine onChip h fun c h => ?_
  split
  · exact h
  · exact .ite h h.recvFence

theorem Canon.warmMaps {c : Chip} (h : Canon c) : Canon c.warmMaps := .ite (.foldl h fun _ _ hd => hd.wr) h

theorem Canon.broadcastEnd {c : Chip} (h : Canon c) : Canon c.broadcastEnd := by
  unfold Chip.broadcastEnd
  extract_lets c1 c2
  have h3 : Canon c1 := h.warmMaps
  have h4 : Canon c2 := by
    unfold c2
    refine .foldl h3 fun d5 x7 h6 => ?_
    split
    · exact .ite h6 h6.critWrite
    · exact h6
  clear_value c1 c2
  exact h4.wrF

theorem Canon.sealCounts {c : Chip} (h : Canon c) : Canon c.sealCounts := by
  unfold Chip.sealCounts
  extract_lets c1
  have h2 : Canon c1 := by
    unfold c1
    refine .foldl h fun d3 x5 h4 => ?_
    extract_lets free6
    exact h4.wr.wr
  clear_value c1
  refine .foldl h2 fun d7 x9 h8 => ?_
  extract_lets n10
  exact h8.wr

theorem Canon.putHeader {c : Chip} (h : Canon c) : Canon c.putHeader := by
  unfold Chip.putHeader
  extract_lets y1 h2
  exact h.memWrite.memWrite

theorem Canon.tableClear {c : Chip} (h : Canon c) {a} : Canon (c.tableClear a) := Canon.mk (clear_wfFrom h a _)

theorem Canon.cloakInit {c : Chip} (h : Canon c) : Canon c.cloakInit := h.tableClear.tableClear.putHeader.critWrite.onUsh

theorem Canon.sealNow {c : Chip} (h : Canon c) : Canon c.sealNow := by
  unfold Chip.sealNow
  extract_lets c1 c2
  have h3 : Canon c1 := h.sealCounts.wrF.onBring
  have h4 : Canon c2 := h3.onUsh.windowStart
  clear_value c1 c2
  exact h4.postEarly

theorem CanonNext.execBringStepSeal {s : Machine.State} (h : Canon s.chip) : CanonNext (execBringStepSeal s) :=
  onChip h fun _ h => Canon.ite h.stepErr h.stepBegin.cloakInit.critWrite.wrF.critWrite.wrF

theorem Canon.stepWell {c : Chip} (h : Canon c) : Canon c.stepWell := by
  unfold Chip.stepWell
  extract_lets us1 all2 c3
  have h4 : Canon c3 := h.wrF.wrF.wrF
  clear_value c3
  split
  · exact .foldl h4 fun _ _ hd => hd.wrF.wrF
  · exact h4.broadcastEnd
  · exact h4.sealNow
  · exact h4

theorem Canon.stepIll {c : Chip} (h : Canon c) {fs} : Canon (c.stepIll fs) := by
  unfold Chip.stepIll
  split
  · exact h
  · extract_lets bad1 ok2 c3 c4 c5 c6 c7
    have h8 : Canon c3 := h.wrF.wrF.wrF
    have h9 : Canon c4 := h8.wrF
    have h10 : Canon c5 := h9.wr
    have h11 : Canon c6 := .ite h10.onPins h10
    have h12 : Canon c7 := .ite (.foldl h11 fun _ _ hd => hd.galOff) h11
    clear_value c3 c4 c5 c6 c7
    exact .ite h12.notice h12

theorem CanonNext.execBringStepDone {s : Machine.State} (h : Canon s.chip) : CanonNext (execBringStepDone s) := by
  refine onChip h fun c h => ?_
  split
  · exact h
  · split
    · exact h
    · exact h.stepWell
    · exact h.stepIll

theorem CanonNext.execWarmSeal {s : Machine.State} (h : Canon s.chip) : CanonNext (execWarmSeal s) :=
  onChip h fun _ h => (Canon.ite h (Canon.ite h.stepBegin.stepIll (Canon.ite h.stepBegin.staleScrub.recover.notice.onBring h.stepBegin.staleScrub.recover).journalReset.stepWell))

/-! ### Partitions -/

theorem Canon.linkReset {c : Chip} (h : Canon c) {l} : Canon (c.linkReset l) := by
  unfold Chip.linkReset
  extract_lets c1
  have h2 : Canon c1 := h.linkDown
  clear_value c1
  exact .ite h2.trainStart h2

theorem Canon.bridgeReset {c : Chip} (h : Canon c) {b} : Canon (c.bridgeReset b) := h.bridgeClear

theorem Canon.retryRequests {c : Chip} (h : Canon c) {t but} : Canon (c.retryRequests t but) := h.retryWhere

theorem Canon.clusterReset {c : Chip} (h : Canon c) {k} : Canon (c.clusterReset k) := by
  unfold Chip.clusterReset
  extract_lets c1 x2 x3 x4 c5 c6 g7
  have h8 : Canon c1 := h.abortJobs
  have h9 : Canon c5 := h8.setCluster
  have h10 : Canon c6 := (Canon.foldl h9 fun _ _ hd => hd.wr).wr
  clear_value c1 c5 c6
  exact Canon.ite h10.onGal h10

theorem Canon.retryOps {c : Chip} (h : Canon c) {t} : Canon (c.retryOps t) := by
  unfold Chip.retryOps
  extract_lets hit1
  exact .foldl h fun _ _ hd => .foldl hd fun _ _ h39 => h39.onChanter

theorem Canon.isolate {c : Chip} (h : Canon c) {vk} : Canon (c.isolate vk) := h.topTakes.wrF

theorem Canon.rejoin {c : Chip} (h : Canon c) {vk} : Canon (c.rejoin vk) := h.wrF

theorem Canon.quiesce {c : Chip} (h : Canon c) {t} : Canon (c.quiesce t) := by
  unfold Chip.quiesce
  extract_lets vs1 c2 c3 c4 c5
  have h6 : Canon c2 := (Canon.foldl h fun _ _ hd => hd.clusterReset).retryOps
  have h7 : Canon c3 := Canon.foldl h6.retryRequests fun _ _ h40 => h40.isolate
  have h8 : Canon c4 := Canon.foldl h7 fun _ _ h40 => h40.bridgeReset
  have h9 : Canon c5 := Canon.foldl (Canon.foldl h8 fun _ _ hd => hd.linkReset) fun _ _ h40 => h40.rejoin
  clear_value c2 c3 c4 c5
  exact Canon.ite h9.resync h9

theorem CanonNext.execBaseDieQuiesce {s : Machine.State} (h : Canon s.chip) {t} : CanonNext (execBaseDieQuiesce t s) :=
  onChip h fun _ h => Canon.ite h h.quiesce.settle

theorem Canon.galReset {c : Chip} (h : Canon c) {k} : Canon (c.galReset k) := by
  unfold Chip.galReset
  extract_lets c1 c2 c3 x4
  have h5 : Canon c1 := .ite h.retainLeave h
  have h6 : Canon c2 := h5.refuseHeld
  have h7 : Canon c3 := h6.dropXfers
  clear_value c1 c2 c3
  exact h7.onGal

theorem Canon.sliceReset {c : Chip} (h : Canon c) {t v} : Canon (c.sliceReset t v) := by
  unfold Chip.sliceReset
  extract_lets sk1 c2 c3
  have h4 : Canon c2 := h.vaultsSleep.dropSlice
  have h5 : Canon c3 := h4.selfRefreshLeave
  clear_value c2 c3
  exact .ite h5.staleScrub h5

theorem Canon.partReset {c : Chip} (h : Canon c) {t unit index} : Canon (c.partReset t unit index).1 := by
  unfold Chip.partReset
  extract_lets k1 vault2 x3 x4
  clear_value k1 vault2 x3 x4
  split
  · split
    · exact h
    · exact h.galReset
  · split
    · split
      · exact h
      · extract_lets vk5 c6
        have h7 : Canon c6 := h.isolate.clusterReset
        clear_value vk5 c6
        split
        · exact h7
        · exact .ite (.foldl h7 fun _ _ hd => hd.sectWhole) h7
    · split
      · split
        · exact h
        · split
          · exact h.sliceReset
          · exact h
      · split
        · split
          · exact h.bridgeReset
          · exact h
        · split
          · split
            · exact h.linkReset.settle
            · exact h
          · split
            · exact h.quiesce.settle
            · split
              · split
                · exact .ite h.resync h
                · exact h
              · split
                · exact .ite (.mk h) h
                · split
                  · exact h.wrF
                  · exact h
                · exact h

theorem Canon.partWrite {c : Chip} (h : Canon c) {t v mask} : Canon (c.partWrite t v mask) := by
  have e : Chip.partWrite = Chip.partWrite := rfl
  conv at e => rhs; delta Chip.partWrite
  rw [e]
  beta_reduce
  split
  · exact h
  · extract_lets c1 c2 c3 u r
    have h3 : Canon c3 := h.unlatch.wr.wrF
    clear_value u c3
    exact .ite h3 h3.partReset.wrF

theorem CanonNext.execPartitionReset {s : Machine.State} (h : Canon s.chip) {t host v} : CanonNext (execPartitionReset t host v s) :=
  onChip h fun _ h => (.ite h (.ite (.ite h.bump h) (.ite h h.partWrite)))

theorem Canon.towerRegs {c : Chip} (h : Canon c) {t} : Canon (c.towerRegs t) := .mk h

theorem Canon.towerReset {c : Chip} (h : Canon c) {t} : Canon (c.towerReset t) := by
  unfold Chip.towerReset
  extract_lets c1 vaults2 c3 c4 gmap5 map6 c7 fenced8 c9 c10 c11 c12 c13 c14 c15 x16 x17
  have h18 : Canon c1 := h.quiesce
  have h19 : Canon c3 := h18.retryRequests
  have h20 : Canon c4 := .foldl h19.vaultsSleep fun _ _ hd => hd.dropSlice
  have h21 : Canon c7 := .mk h20
  have h22 : Canon c9 := h21.towerRegs.wr
  have h23 : Canon c10 := .foldl h22 fun _ _ hd => hd.wrF
  have h24 : Canon c11 := h23.wrF.wrF
  have h25 : Canon c12 := h24.wakeVaults.staleScrub
  have h26 : Canon c13 := h25.broadcast
  have h27 : Canon c14 := h26.wrF
  have h28 : Canon c15 := h27.notice
  clear_value c1 c3 c4 c7 c9 c10 c11 c12 c13 c14 c15
  exact .mk h28

theorem CanonNext.execTowerReset {s : Machine.State} (h : Canon s.chip) {t} : CanonNext (execTowerReset t s) :=
  onUsher h fun _ h => Canon.ite h.towerReset.settle h

/-! ### Faults -/

theorem Canon.dropSteps {c : Chip} (h : Canon c) : Canon c.dropSteps := by
  unfold Chip.dropSteps
  extract_lets gone1 ws2 c3
  have h4 : Canon c3 := h.onUsh
  clear_value c3
  refine .foldl h4 fun d5 x7 h6 => ?_
  split
  · exact h6.boundary
  · exact h6

theorem Canon.restart {c : Chip} (h : Canon c) {k} : Canon (c.restart k) := by
  unfold Chip.restart
  split
  · exact h
  · split
    · exact h
    · split
      · exact h
      · extract_lets old1 c2
        have h3 : Canon c2 := h.dropSteps.onUsh
        clear_value c2
        split
        next d5 _ e7 =>
          have h8 : Canon d5 := .of_fst h3.stageLoad e7
          exact .ite h8.usherFence h8.onGal.planRelease.settle

theorem Canon.planFaulty {c : Chip} (h : Canon c) : Canon c.planFaulty := by
  unfold Chip.planFaulty
  split
  · exact h
  · extract_lets c1
    have h2 : Canon c1 := h.onUsh.notice
    clear_value c1
    split
    · exact .ite h2 h2.onUsh.changeoverDue
    · exact h2

theorem Canon.holdRestart {f : Chip → Chip} {drop : Chip → Chip} {c : Chip} (h : Canon c) (hf0 : ∀ y0, Canon y0 → Canon (drop y0)) (hf1 : ∀ y0,
    Canon y0 → Canon (f y0)) {k} : Canon (c.holdRestart k drop f) :=
  .ite (hf0 _ h) (.ite (.foldl h fun _ _ hd => hd.holdGal) (.ite (hf1 _ (hf0 _ h)) h))

theorem CanonNext.execGalleryFault {s : Machine.State} (h : Canon s.chip) : CanonNext (execGalleryFault s) := by
  refine onUsher h fun c h => ?_
  split
  · exact h
  · extract_lets drop1
    have hf_drop1 : ∀ y2, Canon y2 → Canon (drop1 y2) := by
      intro y2 h3
      unfold drop1
      exact .mk h3
    split
    · exact h
    · exact (hf_drop1 _ h).usherFence
    · exact (hf_drop1 _ h).dropSteps
    · split
      · exact hf_drop1 _ h
      · extract_lets k4
        clear_value k4
        exact .ite h.ownWrF (hf_drop1 _ h).clusterReset
    · refine Canon.holdRestart ?_ ?_ ?_
      · exact h
      · intro d5 h6
        exact hf_drop1 _ h6
      · intro d7 h8
        extract_lets now9 twice10 c11
        have h12 : Canon c11 := h8.onUsh
        clear_value now9 twice10 c11
        exact .ite h12.usherFence h12.restart
    · exact .holdRestart h (fun _ hd => (hf_drop1 _ hd)) (fun _ hd => .ite hd.restart.onGal hd.dropSteps.planRelease.planFaulty)

theorem CanonNext.execWeightUe {s : Machine.State} (h : Canon s.chip) {m sid off partner} : CanonNext (execWeightUe m sid off partner s) := by
  refine onUsher h fun c h => ?_
  extract_lets o1 n2 bad3 x4 c5 x6
  have h7 : Canon c5 := h.setModel
  clear_value o1 n2 bad3 x4 c5 x6
  split
  · exact h
  · split
    · exact Canon.ite (Canon.mk h7).sendMsg h7.weightNotice
    · exact h7.weightNotice

theorem Canon.planLeft {c : Chip} (h : Canon c) {s} : ∀ d ∈ c.planLeft s, Canon d.2 := by
  unfold Chip.planLeft
  extract_lets im1 ids2
  split
  · exact forall_mem_none
  · split
    · refine forall_mem_some ?_
      extract_lets r3
      have h4 : Canon r3.2 := h.pick
      clear_value r3
      exact h4
    · exact forall_mem_none

theorem CanonNext.execTowerFence {s : Machine.State} (h : Canon s.chip) {t answers} : CanonNext (execTowerFence t answers s) := by
  refine onUsher h fun c h => ?_
  split
  · exact h
  · extract_lets c1
    have h2 : Canon c1 := h.onUsh.notice
    clear_value c1
    split
    · exact (Canon.foldl h2 fun _ _ hd => (Canon.ite hd hd.flushRunning.postDone.retire)).settle
    · split
      · exact h2
      · split
        next d5 e6 =>
          have h7 : Canon d5 := h2.planLeft _ e6
          extract_lets keep8 c9
          have h10 : Canon c9 := Canon.foldl h7 fun _ _ h40 => (Canon.ite h40 (Canon.ite h40.setFlag h40.setFlag.recoverStart))
          clear_value c9
          exact h10.onUsh.changeoverDue.settle
        · exact h2.onUsh

/-! ### Debug -/

theorem Canon.whistleEvent {c : Chip} (h : Canon c) {stop cause} : Canon (c.whistleEvent stop cause) := .foldl h fun _ _ hd => hd.event

theorem Canon.whistleStop {c : Chip} (h : Canon c) {cause mx} : Canon (c.whistleStop cause mx) := by
  unfold Chip.whistleStop
  extract_lets c1 c2 x3 c4 c5
  have h6 : Canon c2 := by
    unfold c2
    refine .foldl h fun d7 x9 h8 => ?_
    extract_lets at10
    exact h8.onGal
  have h11 : Canon c4 := .mk h6
  have h12 : Canon c5 := h11.wrF.wrF.wrF.bump
  clear_value c2 c4 c5
  exact h12.whistleEvent

theorem CanonNext.execWhistle {s : Machine.State} (h : Canon s.chip) {mx} : CanonNext (execWhistle mx s) :=
  onChip h fun _ h => Canon.ite h h.whistleStop

theorem Canon.askWhistle {c : Chip} (h : Canon c) {i} : Canon (c.askWhistle i) := .ite h h.requestWhistle

theorem CanonNext.execWhistleReq {s : Machine.State} (h : Canon s.chip) : CanonNext (execWhistleReq s) :=
  onChip h fun _ h => h.askWhistle

theorem CanonNext.execWhistleN {s : Machine.State} (h : Canon s.chip) : CanonNext (execWhistleN s) :=
  onChip h fun _ h => h.askWhistle

theorem Canon.watchRelease {c : Chip} (h : Canon c) : Canon c.watchRelease := by
  unfold Chip.watchRelease
  extract_lets x1 c2
  have h3 : Canon c2 := .mk h
  exact .ite h3.planRelease h3

theorem Canon.whistleEnd {c : Chip} (h : Canon c) : Canon c.whistleEnd :=
  (Canon.ite h (Canon.foldl (Canon.foldl (Canon.ite (Canon.foldl h.wrF fun _ _ h27 => h27.onGal).whistleEvent.watchRelease
    (Canon.foldl h.wrF fun _ _ h28 => h28.onGal).whistleEvent) fun _ _ h31 => h31.postKept) fun _ _ hd => (Canon.ite hd.pump hd)).settle)

theorem CanonNext.execWhistleResume {s : Machine.State} (h : Canon s.chip) : CanonNext (execWhistleResume s) :=
  onChip h fun _ h => h.whistleEnd

theorem Canon.scanRead {c : Chip} (h : Canon c) {sel o n} : Canon (c.scanRead sel o n).1 := by
  unfold Chip.scanRead
  extract_lets st1 k2 c3 ws4 v5
  have h6 : Canon c3 := .ite h.scanRaise h
  clear_value c3
  split
  · exact h
  · exact .ite (.mk h6) h6

theorem Canon.clusterPut {c : Chip} (h : Canon c) {k o w} : Canon (c.clusterPut k o w) := by
  unfold Chip.clusterPut
  split
  · exact h.onChanter
  · split
    · extract_lets j1
      exact h.onChanter
    · split
      · exact h
      · extract_lets x2
        split
        · exact h.setCluster
        · exact h

theorem Canon.scanPut {c : Chip} (h : Canon c) {sel o w} : Canon (c.scanPut sel o w) := by
  unfold Chip.scanPut
  split
  · exact h.onGal
  · exact h.clusterPut
  · exact h.memWriteNum
  · exact h

theorem Canon.scanWrite {c : Chip} (h : Canon c) {sel o n v} : Canon (c.scanWrite sel o n v).1 := by
  unfold Chip.scanWrite
  split
  · exact h
  · extract_lets st1 c2
    have h3 : Canon c2 := .ite h.scanRaise h
    clear_value c2
    split
    · exact h3
    · exact .foldl h3 fun _ _ hd => hd.scanPut

theorem Canon.scanSt {c : Chip} (h : Canon c) {st} : Canon (c.scanSt st) := h.wrF

theorem Canon.scanWin {c : Chip} (h : Canon c) {w wide write} : Canon (c.scanWin w wide write).1 := by
  unfold Chip.scanWin
  extract_lets n1 sel2 o3 r4
  have h5 : Canon r4.1 := h.scanRead
  clear_value r4
  split
  · exact h.scanWrite.scanSt
  · exact h5.scanSt

theorem CanonNext.execScanwinAccess {s : Machine.State} (h : Canon s.chip) {w wide write} : CanonNext (execScanwinAccess w wide write s) := by
  refine onChip h fun c h => ?_
  extract_lets read1 r2
  have hf_read1 : ∀ y3 y5, Canon y3 → Canon (read1 y3 y5) := by
    intro y3 y5 h4
    unfold read1
    exact .ite h4 (.mk h4)
  have h6 : Canon r2.1 := h.scanWin
  clear_value r2
  exact .ite h (.ite (hf_read1 _ _ h) (hf_read1 _ _ h6))

theorem Canon.scanCopy {c : Chip} (h : Canon c) {sel a a3 a4} : Canon (c.scanCopy sel a a3 a4).1 := by
  induction a generalizing c sel a3 a4 with
  | zero =>
    unfold Chip.scanCopy
    exact h
  | succ n ih =>
    unfold Chip.scanCopy
    split
    next d2 _ _ e5 =>
      have h6 : Canon d2 := .of_fst h.scanRead e5
      split
      · exact h6
      · exact ih (.mk h6)

theorem Canon.dmaGo {c : Chip} (h : Canon c) : Canon c.dmaGo := (Canon.ite h (Canon.mk h).wrF)

theorem CanonNext.execDmaCopy {s : Machine.State} (h : Canon s.chip) : CanonNext (execDmaCopy s) :=
  onChip h fun _ h => h.dmaGo

theorem CanonNext.execDmaCopyDone {s : Machine.State} (h : Canon s.chip) {good} : CanonNext (execDmaCopyDone good s) := by
  refine onChip h fun c h => ?_
  split
  · exact h
  · extract_lets x1 c2 r3
    have h4 : Canon c2 := .mk h
    have h5 : Canon r3.1 := by
      unfold r3
      split
      · exact h4.scanCopy
      · exact h4
    clear_value x1 c2 r3
    exact h5.scanSt.wrF

theorem Canon.tap {c : Chip} (h : Canon c) {ir} : Canon (c.tap ir) := .mk h

theorem Canon.tapHeld {c : Chip} (h : Canon c) : Canon c.tapHeld := .mk h

theorem CanonNext.onJtag {s : Machine.State} (h : Canon s.chip) {f : Chip → Chip} (hf : ∀ c, Canon c → Canon (f c)) {ir} : CanonNext (s.onJtag ir f) :=
  onChip h fun _ h => .ite h (.ite (hf _ h.tap) h.tapHeld)

theorem CanonNext.execJtagWhistle {s : Machine.State} (h : Canon s.chip) : CanonNext (execJtagWhistle s) :=
  onJtag h fun _ h => h.askWhistle

theorem CanonNext.execJtagResume {s : Machine.State} (h : Canon s.chip) : CanonNext (execJtagResume s) :=
  onJtag h fun _ h => h.whistleEnd

theorem CanonNext.execJtagScansel {s : Machine.State} (h : Canon s.chip) {v} : CanonNext (execJtagScansel v s) :=
  onJtag h fun _ h => Canon.mk h

theorem CanonNext.execJtagScanoff {s : Machine.State} (h : Canon s.chip) {v} : CanonNext (execJtagScanoff v s) :=
  onJtag h fun _ h => (.ite (.mk h) h)

theorem CanonNext.execJtagScanrd {s : Machine.State} (h : Canon s.chip) : CanonNext (execJtagScanrd s) := by
  refine onJtag h fun c h => ?_
  split
  next d2 _ _ e5 =>
    have h6 : Canon d2 := Canon.of_fst h.scanRead e5
    exact (Canon.mk h6).scanSt

theorem CanonNext.execJtagScanwr {s : Machine.State} (h : Canon s.chip) {v} : CanonNext (execJtagScanwr v s) := by
  refine onJtag h fun c h => ?_
  split
  next d2 _ e4 =>
    have h5 : Canon d2 := Canon.of_fst h.scanWrite e4
    exact (Canon.mk h5).scanSt

theorem CanonNext.execJtagWstat {s : Machine.State} (h : Canon s.chip) : CanonNext (execJtagWstat s) :=
  onJtag h fun _ h => Canon.mk h

theorem CanonNext.execRngctlClr {s : Machine.State} (h : Canon s.chip) {g} : CanonNext (execRngctlClr g s) :=
  onChip h fun _ h => (.ite h (.ite h.bump (.ite h h.scanRaise.onGal)))

theorem Canon.tensorBytes {c : Chip} (h : Canon c) {t id} : Canon (c.tensorBytes t id).1 := by
  unfold Chip.tensorBytes
  split
  · exact h
  · extract_lets im1 recs2 w3 sid4 at5
    split
    · exact h
    · extract_lets x6 n7 run8 size9
      split
      · exact h.memFetch
      · exact h.memFetch
      · exact h

theorem Canon.watchData {c : Chip} (h : Canon c) {i} : Canon (c.watchData i).1 := by
  unfold Chip.watchData
  extract_lets w1 t2 g3 o4 n5 k6
  split
  · exact h.tensorBytes
  · exact h
  · exact h.memFetch
  · exact h
  · exact h

theorem Canon.ringPut {c : Chip} (h : Canon c) {bs} : Canon (c.ringPut bs) := by
  unfold Chip.ringPut
  extract_lets c1
  have h2 : Canon c1 := h.memWrite
  clear_value c1
  exact h2.wr

theorem Canon.dump {c : Chip} (h : Canon c) {i n data} : Canon (c.dump i n data).1 := by
  unfold Chip.dump
  extract_lets size1 len2 left3 pad4 w5 w6 kind7 c8 c9 h10 c11 x12
  have h13 : Canon c8 := h.memWrite
  have h14 : Canon c9 := .ite h h13.wr
  have h15 : Canon c11 := h14.ringPut
  clear_value c8 c9 c11
  split
  · exact h.bump
  · exact .mk h15

theorem CanonNext.execWatchCapture {s : Machine.State} (h : Canon s.chip) {i} : CanonNext (execWatchCapture i s) := by
  refine onUsher h fun c h => ?_
  extract_lets ks1
  clear_value ks1
  split
  · exact h
  · split
    · exact h
    · split
      · exact Canon.ite (Canon.foldl h fun _ _ hd => hd.holdGal) h
      · split
        next d3 _ e5 =>
          have h6 : Canon d3 := Canon.of_fst h.watchData e5
          split
          next d8 _ e10 =>
            have h11 : Canon d8 := Canon.of_fst h6.dump e10
            extract_lets x12 c13 left14 c15 c16 x17 c18
            have h19 : Canon c13 := Canon.mk h11
            have h20 : Canon c15 := h19.wrF
            have h21 : Canon c16 := Canon.ite h19 (Canon.ite h20.wrF h20)
            have h22 : Canon c18 := Canon.ite (Canon.mk h21).requestWhistle h21
            clear_value x12 c13 left14 c15 c16 x17 c18
            exact Canon.ite h22 h22.watchRelease

theorem Canon.annexSection {c : Chip} (h : Canon c) {free base r type t} : Canon (c.annexSection free base r type t).1 := by
  unfold Chip.annexSection
  extract_lets us1 size2 fit3 c4 c5 cut6 e7
  have h8 : Canon c4 := .ite (.foldl h fun _ _ h39 => h39.scanRaise) h
  have h9 : Canon c5 := .foldl h8 fun _ _ hd => hd.memWrite
  clear_value c4 c5
  split
  · exact h
  · exact h9

theorem Canon.annexMake {c : Chip} (h : Canon c) {usher cause} : Canon (c.annexMake usher cause) := by
  unfold Chip.annexMake
  extract_lets base1 keep2 free3 c4 types5 secs6 epw7 bs8 jt9
  have h10 : Canon c4 := .mk h
  clear_value c4
  split
  next d12 _ e14 =>
    have h15 : Canon d12 := by
      refine Canon.of_fst ?_ e14
      refine .foldl_fst h10 fun p16 x18 h17 => ?_
      exact h17.annexSection
    extract_lets h19
    exact h15.memWrite.wrF

theorem Canon.annexMore {c : Chip} (h : Canon c) {cause} : Canon (c.annexMore cause) := by
  unfold Chip.annexMore
  extract_lets base1 n2 c3
  have h4 : Canon c3 := h.memWriteNum
  clear_value c3
  exact .ite h4.memWrite h4

theorem CanonNext.execFatalError {s : Machine.State} (h : Canon s.chip) {code t source unit detail} : CanonNext
    (execFatalError code t source unit detail s) := by
  refine onUsher h fun c h => ?_
  extract_lets c1 cause2 c3
  have h4 : Canon c1 := h.whistleStop
  have h5 : Canon c3 := .ite h4 (.ite h4.annexMore h4.annexMake)
  clear_value c1 cause2 c3
  exact h5.warmReset

theorem Canon.annexClear {c : Chip} (h : Canon c) : Canon c.annexClear := .ite h h.memWriteNum.wrF

theorem CanonNext.execAnxctlClear {s : Machine.State} (h : Canon s.chip) : CanonNext (execAnxctlClear s) :=
  onChip h fun _ h => h.annexClear

/-! ### Register accesses -/

theorem Canon.regValue {c : Chip} (h : Canon c) {off} : Canon (c.regValue off).1 := by
  unfold Chip.regValue
  split
  · exact h
  · split
    · exact h
    · split
      · exact h
      · exact h
      · split
        · exact h
        · exact h.scanRaise

theorem Canon.letGo {c : Chip} (h : Canon c) {who off} : Canon (c.letGo who off) := .mk h

theorem Canon.read32 {c : Chip} (h : Canon c) {who off} : Canon (c.read32 who off).1 := by
  unfold Chip.read32
  split
  · extract_lets r1 x2
    have h3 : Canon r1.1 := h.regValue
    have h4 : Canon x2 := h3
    clear_value r1 x2
    split
    · exact .mk h4
    · exact h3
  · split
    · split
      · exact .mk h
      · exact h.regValue
    · exact h

theorem Canon.bar0Read {c : Chip} (h : Canon c) {who off wide} : Canon (c.bar0Read who off wide).1 := by
  unfold Chip.bar0Read
  split
  · exact h
  · split
    · exact h.scanWin
    · split
      · split
        · exact .mk h.regValue
        · exact h.read32.read32
      · exact h.read32

theorem Canon.hostRead {c : Chip} (h : Canon c) {q off wide} : Canon (c.hostRead q off wide).1 := by
  unfold Chip.hostRead
  split
  · exact h.bar0Read
  · exact h

theorem CanonNext.execReg64LowHalfRead {s : Machine.State} (h : Canon s.chip) {req off wide} : CanonNext (execReg64LowHalfRead req off wide s) :=
  onChip h fun _ h => (.ite h (.mk h.hostRead))

theorem CanonNext.execBar0MisalignedAccess {s : Machine.State} (h : Canon s.chip) {off size write} : CanonNext
    (execBar0MisalignedAccess off size write s) :=
  onChip h fun _ h => (.ite h (.mk h))

theorem Canon.pagePut {c : Chip} (h : Canon c) {k o nv one} : Canon (c.pagePut k o nv one) :=
  (Canon.ite (Canon.ite (Canon.ite (Canon.ite h.onGal h).onGal (Canon.ite h.onGal h)).fresh.onGal (Canon.ite (Canon.ite h.onGal h).onGal
    (Canon.ite h.onGal h))) h.onGal)

theorem Canon.pageWrite {c : Chip} (h : Canon c) {d off k o v mask} : Canon (c.pageWrite d off k o v mask) := .ite h h.scanRaise.pagePut

theorem Canon.fieldPut {c : Chip} (h : Canon c) {d off v mask} : Canon (c.fieldPut d off v mask) := by
  unfold Chip.fieldPut
  extract_lets nv1
  exact .ite h.wr h

theorem Canon.fencePut {c : Chip} (h : Canon c) {t p fence} : Canon (c.fencePut t p fence) := by
  unfold Chip.fencePut
  extract_lets k1 c2
  have h3 : Canon c2 := h.wrF.event
  clear_value c2
  exact .ite h (.ite h.fenceGallery (.ite h3.wrF h3))

theorem Canon.linkPut {c : Chip} (h : Canon c) {d off v mask} : Canon (c.linkPut d off v mask) := by
  unfold Chip.linkPut
  extract_lets was1 c2 l3 one4 c5
  have h6 : Canon c2 := h.fieldPut
  have h7 : Canon c5 := .ite h6.ctlDown h6
  clear_value c2 c5
  exact .ite h6 (.ite h7.ctlRetrain h7)

theorem Canon.debugPut {c : Chip} (h : Canon c) {d off v mask} : Canon (c.debugPut d off v mask) := by
  unfold Chip.debugPut
  extract_lets one1 c2 c3
  have h4 : Canon c2 := .ite h h.fieldPut
  have h5 : Canon c3 := .ite h4.askWhistle h4
  clear_value c2 c3
  exact .ite h (.ite (.ite h5.whistleEnd h5) (.ite (.ite h4.dmaGo h4) (.ite (.ite h4.annexClear h4) h4)))

theorem Canon.towerPut {c : Chip} (h : Canon c) {d t off v mask} : Canon (c.towerPut d t off v mask) := by
  unfold Chip.towerPut
  extract_lets one1 w2 c3 n4 r5 k6 x7 i8 word9 c10
  have h11 : Canon c3 := h.fieldPut
  have h12 : Canon c10 := h.setCluster
  clear_value c3 c10
  exact .ite h.partWrite (.ite h.retReq (.ite (.ite h.fencePut h) (.ite (.ite h11.corridor h11.domsRun) (.ite (.ite h.jobCancel (.ite
    (.ite h12.enqueueJob h12) h.fieldPut)) h.fieldPut))))

theorem Canon.regPut {c : Chip} (h : Canon c) {off v mask} : Canon (c.regPut off v mask) := by
  unfold Chip.regPut
  split
  · exact h
  next d _ =>
    refine .ite h ?_
    extract_lets c1 one was c2 c3
    have h1 : Canon c1 := h.unlatch
    have h2 : Canon c2 := h1.fieldPut
    have h3 : Canon c3 := .ite h2 h2.hifRun
    clear_value one was c1 c2 c3
    split
    · exact h1
    · exact h1.pageWrite
    · split
      · exact h1.towerPut
      · exact .ite (.ite h1 h1.stepErr) (.ite (.ite h1.bringReset h1) (.ite (.ite h3.resync h3) (.ite h1.ringCfg (.ite h1.ringCfg
          (.ite h1.grantWrite (.ite (.ite h1.wrF h1) (.ite (.ite h1.thermResume h1) (.ite h1.diagCmd (.ite h1.linkPut
            (.ite h1.debugPut h1.fieldPut))))))))))

theorem Canon.write32 {c : Chip} (h : Canon c) {off v} : Canon (c.write32 off v) := .ite (.ite h.regPut h) (.ite h.regPut h)

theorem Canon.bar0Write {c : Chip} (h : Canon c) {off wide v} : Canon (c.bar0Write off wide v) :=
  .ite h (.ite h.bump (.ite h.scanWin (.ite h.write32 (.ite (.ite h.regPut h) h.write32.write32))))

theorem Canon.pcieWrite {c : Chip} (h : Canon c) {s off v} : Canon (c.pcieWrite s off v) := .ite h (.ite h.cfgWrite (.ite h.bar4Write h))

theorem Canon.hostWrite {c : Chip} (h : Canon c) {q off wide v} : Canon (c.hostWrite q off wide v) :=
  .ite h.letGo.bar0Write (.ite h.pcieWrite.pcieWrite h.pcieWrite)

theorem CanonNext.execRegisterWrite {s : Machine.State} (h : Canon s.chip) {a wide v} : CanonNext (execRegisterWrite a wide v s) :=
  onChip h fun _ h => Canon.ite h.hostWrite h

/-! ### I3C -/

theorem Canon.i3cPut {c : Chip} (h : Canon c) {off v wide} : Canon (c.i3cPut off v wide) := by
  unfold Chip.i3cPut
  split
  · exact h
  · exact .ite h (.ite h.unlatch.fieldPut (.ite (.ite h.unlatch h.unlatch.wrF) (.ite h.unlatch.grantWrite (.ite (.ite h.thermResume h) h))))

theorem CanonNext.execI3cWrite {s : Machine.State} (h : Canon s.chip) {off data} : CanonNext (execI3cWrite off data s) := by
  refine onChip h fun c h => ?_
  split
  · exact h
  · split
    · exact h.onPins
    · exact h.i3cPut

theorem CanonNext.execI3cRead {s : Machine.State} (h : Canon s.chip) : CanonNext (execI3cRead s) := by
  refine onChip h fun c h => ?_
  extract_lets off1 v2 n3
  clear_value off1 v2 n3
  exact h.onPins

theorem CanonNext.execI3cDynamicAddress {s : Machine.State} (h : Canon s.chip) {addr} : CanonNext (execI3cDynamicAddress addr s) :=
  onChip h fun _ h => h.onPins

theorem CanonNext.execIbiAcknowledge {s : Machine.State} (h : Canon s.chip) : CanonNext (execIbiAcknowledge s) :=
  onChip h fun _ h => (.ite (.mk h) h)

/-! ### Queues -/

theorem Canon.descStart {c : Chip} (h : Canon c) {k q} : Canon (c.descStart k q) := by
  unfold Chip.descStart
  extract_lets g1 es2
  split
  · exact h
  · extract_lets before3 faulted4 c5
    have h6 : Canon c5 := .ite h.event h
    clear_value c5
    exact .ite h h6.onGal

theorem Canon.queueFault {c : Chip} (h : Canon c) {k q e status} : Canon (c.queueFault k q e status) := by
  unfold Chip.queueFault
  extract_lets c1 c2
  have h3 : Canon c1 := h.onGal
  have h4 : Canon c2 := h3.report
  clear_value c1 c2
  exact h4.event

theorem Canon.queueFaults {c : Chip} (h : Canon c) {k q e status} : Canon (c.queueFaults k q e status) := by
  unfold Chip.queueFaults
  extract_lets others1
  refine .foldl h.queueFault fun d2 x4 h3 => ?_
  split
  · exact h3.queueFault
  · exact h3

theorem Canon.descComplete {c : Chip} (h : Canon c) {k q} : Canon (c.descComplete k q) := by
  unfold Chip.descComplete
  extract_lets g1 v2
  split
  · exact h
  · exact Canon.ite h (Canon.ite (Canon.ite h.event h).queueFaults (Canon.ite h.event h).onGal.heldCredit)

theorem CanonNext.execDescriptorStart {s : Machine.State} (h : Canon s.chip) {x q} : CanonNext (execDescriptorStart x q s) :=
  onChip h fun _ h => (Canon.ite (Canon.foldl h fun _ _ hd => hd.upset) h).descStart

theorem CanonNext.execDescriptorComplete {s : Machine.State} (h : Canon s.chip) {g q} : CanonNext (execDescriptorComplete g q s) :=
  onChip h fun _ h => h.descComplete

theorem CanonNext.execNop {s : Machine.State} (h : Canon s.chip) {g q} : CanonNext (execNop g q s) :=
  onQueue h fun _ _ h => h.onGal

theorem CanonNext.execQwait {s : Machine.State} (h : Canon s.chip) {g q} : CanonNext (execQwait g q s) :=
  onQueue h fun _ _ h => h.onGal

theorem CanonNext.execQwaitTimeout {s : Machine.State} (h : Canon s.chip) {g q} : CanonNext (execQwaitTimeout g q s) :=
  onQueue h fun _ _ h => h.onGal

/-! ### Commands of the stair -/

theorem CanonNext.execStLoad {s : Machine.State} (h : Canon s.chip) {g} : CanonNext (execStLoad g s) :=
  onQueue h fun _ _ h => (.stairRun h (fun _ _ _ hd => hd.stMoveRun))

theorem CanonNext.execStStore {s : Machine.State} (h : Canon s.chip) {g} : CanonNext (execStStore g s) :=
  onQueue h fun _ _ h => (.stairRun h (fun _ _ _ hd => hd.stMoveRun))

theorem CanonNext.execStGather {s : Machine.State} (h : Canon s.chip) {g} : CanonNext (execStGather g s) :=
  onQueue h fun _ _ h => (.stairRun h (fun _ _ _ hd => hd.stGather))

theorem CanonNext.execStScatter {s : Machine.State} (h : Canon s.chip) {g} : CanonNext (execStScatter g s) :=
  onQueue h fun _ _ h => (.stairRun h (fun _ _ _ hd => hd.stScatter))

theorem CanonNext.execStCmoWriteback {s : Machine.State} (h : Canon s.chip) {g} : CanonNext (execStCmoWriteback g s) :=
  onQueue h fun _ _ h => (.stairRun h (fun _ _ _ hd => hd.stCmo))

theorem CanonNext.execStCmoReleasePins {s : Machine.State} (h : Canon s.chip) {g} : CanonNext (execStCmoReleasePins g s) :=
  onQueue h fun _ _ h => (.stairRun h (fun _ _ _ hd => hd.stCmo))

theorem CanonNext.execStCmoPrefetch {s : Machine.State} (h : Canon s.chip) {g} : CanonNext (execStCmoPrefetch g s) :=
  onQueue h fun _ _ h => (.stairRun h (fun _ _ _ hd => hd.stCmo))

theorem CanonNext.execStCmoPrefetchPin {s : Machine.State} (h : Canon s.chip) {g} : CanonNext (execStCmoPrefetchPin g s) :=
  onQueue h fun _ _ h => (.stairRun h (fun _ _ _ hd => hd.stCmo))

theorem CanonNext.execStCmoFlushInvalidate {s : Machine.State} (h : Canon s.chip) {g} : CanonNext (execStCmoFlushInvalidate g s) :=
  onQueue h fun _ _ h => (.stairRun h (fun _ _ _ hd => hd.stCmo))

/-! ### Vector commands -/

theorem CanonNext.onVx {s : Machine.State} (h : Canon s.chip) {g i opc f} : CanonNext (s.onVx g i opc f) :=
  onQueue h fun _ _ h => h.onGal

theorem CanonNext.execVmov {s : Machine.State} (h : Canon s.chip) {g i} : CanonNext (execVmov g i s) :=
  onVx h

theorem CanonNext.execVadd {s : Machine.State} (h : Canon s.chip) {g i} : CanonNext (execVadd g i s) :=
  onVx h

theorem CanonNext.execVsub {s : Machine.State} (h : Canon s.chip) {g i} : CanonNext (execVsub g i s) :=
  onVx h

theorem CanonNext.execVmul {s : Machine.State} (h : Canon s.chip) {g i} : CanonNext (execVmul g i s) :=
  onVx h

theorem CanonNext.execVfma {s : Machine.State} (h : Canon s.chip) {g i} : CanonNext (execVfma g i s) :=
  onVx h

theorem CanonNext.execVmax {s : Machine.State} (h : Canon s.chip) {g i} : CanonNext (execVmax g i s) :=
  onVx h

theorem CanonNext.execVmin {s : Machine.State} (h : Canon s.chip) {g i} : CanonNext (execVmin g i s) :=
  onVx h

theorem CanonNext.execVabs {s : Machine.State} (h : Canon s.chip) {g i} : CanonNext (execVabs g i s) :=
  onVx h

theorem CanonNext.execVneg {s : Machine.State} (h : Canon s.chip) {g i} : CanonNext (execVneg g i s) :=
  onVx h

theorem CanonNext.execVcmp {s : Machine.State} (h : Canon s.chip) {g i} : CanonNext (execVcmp g i s) :=
  onVx h

theorem CanonNext.execVcsel {s : Machine.State} (h : Canon s.chip) {g i} : CanonNext (execVcsel g i s) :=
  onVx h

theorem CanonNext.execVselb {s : Machine.State} (h : Canon s.chip) {g i} : CanonNext (execVselb g i s) :=
  onVx h

theorem CanonNext.execViota {s : Machine.State} (h : Canon s.chip) {g i} : CanonNext (execViota g i s) :=
  onVx h

theorem CanonNext.execVcvt {s : Machine.State} (h : Canon s.chip) {g i} : CanonNext (execVcvt g i s) :=
  onVx h

theorem CanonNext.execViadd {s : Machine.State} (h : Canon s.chip) {g i} : CanonNext (execViadd g i s) :=
  onVx h

theorem CanonNext.execVisub {s : Machine.State} (h : Canon s.chip) {g i} : CanonNext (execVisub g i s) :=
  onVx h

theorem CanonNext.execVimul {s : Machine.State} (h : Canon s.chip) {g i} : CanonNext (execVimul g i s) :=
  onVx h

theorem CanonNext.execViand {s : Machine.State} (h : Canon s.chip) {g i} : CanonNext (execViand g i s) :=
  onVx h

theorem CanonNext.execVior {s : Machine.State} (h : Canon s.chip) {g i} : CanonNext (execVior g i s) :=
  onVx h

theorem CanonNext.execVixor {s : Machine.State} (h : Canon s.chip) {g i} : CanonNext (execVixor g i s) :=
  onVx h

theorem CanonNext.execVishl {s : Machine.State} (h : Canon s.chip) {g i} : CanonNext (execVishl g i s) :=
  onVx h

theorem CanonNext.execVishr {s : Machine.State} (h : Canon s.chip) {g i} : CanonNext (execVishr g i s) :=
  onVx h

theorem CanonNext.execVicmp {s : Machine.State} (h : Canon s.chip) {g i} : CanonNext (execVicmp g i s) :=
  onVx h

theorem CanonNext.execVexp {s : Machine.State} (h : Canon s.chip) {g i} : CanonNext (execVexp g i s) :=
  onVx h

theorem CanonNext.execVexp2 {s : Machine.State} (h : Canon s.chip) {g i} : CanonNext (execVexp2 g i s) :=
  onVx h

theorem CanonNext.execVlog {s : Machine.State} (h : Canon s.chip) {g i} : CanonNext (execVlog g i s) :=
  onVx h

theorem CanonNext.execVrcp {s : Machine.State} (h : Canon s.chip) {g i} : CanonNext (execVrcp g i s) :=
  onVx h

theorem CanonNext.execVrsqrt {s : Machine.State} (h : Canon s.chip) {g i} : CanonNext (execVrsqrt g i s) :=
  onVx h

theorem CanonNext.execVtanh {s : Machine.State} (h : Canon s.chip) {g i} : CanonNext (execVtanh g i s) :=
  onVx h

theorem CanonNext.execVsigm {s : Machine.State} (h : Canon s.chip) {g i} : CanonNext (execVsigm g i s) :=
  onVx h

theorem CanonNext.execVsilu {s : Machine.State} (h : Canon s.chip) {g i} : CanonNext (execVsilu g i s) :=
  onVx h

theorem CanonNext.execVgelu {s : Machine.State} (h : Canon s.chip) {g i} : CanonNext (execVgelu g i s) :=
  onVx h

theorem CanonNext.execVrot {s : Machine.State} (h : Canon s.chip) {g i} : CanonNext (execVrot g i s) :=
  onVx h

theorem CanonNext.execVrsum {s : Machine.State} (h : Canon s.chip) {g i} : CanonNext (execVrsum g i s) :=
  onVx h

theorem CanonNext.execVrmax {s : Machine.State} (h : Canon s.chip) {g i} : CanonNext (execVrmax g i s) :=
  onVx h

theorem CanonNext.execVrmin {s : Machine.State} (h : Canon s.chip) {g i} : CanonNext (execVrmin g i s) :=
  onVx h

theorem CanonNext.execVramax {s : Machine.State} (h : Canon s.chip) {g i} : CanonNext (execVramax g i s) :=
  onVx h

theorem CanonNext.execVtopk {s : Machine.State} (h : Canon s.chip) {g i} : CanonNext (execVtopk g i s) :=
  onVx h

theorem CanonNext.execVscan {s : Machine.State} (h : Canon s.chip) {g i} : CanonNext (execVscan g i s) :=
  onVx h

theorem CanonNext.execVcount {s : Machine.State} (h : Canon s.chip) {g i} : CanonNext (execVcount g i s) :=
  onVx h

theorem CanonNext.execVrankb {s : Machine.State} (h : Canon s.chip) {g i} : CanonNext (execVrankb g i s) :=
  onVx h

theorem CanonNext.execVgather {s : Machine.State} (h : Canon s.chip) {g i} : CanonNext (execVgather g i s) :=
  onVx h

theorem CanonNext.execVscatter {s : Machine.State} (h : Canon s.chip) {g i} : CanonNext (execVscatter g i s) :=
  onVx h

theorem CanonNext.execVgathere {s : Machine.State} (h : Canon s.chip) {g i} : CanonNext (execVgathere g i s) :=
  onVx h

theorem CanonNext.execMlog {s : Machine.State} (h : Canon s.chip) {g i} : CanonNext (execMlog g i s) :=
  onVx h

theorem CanonNext.execMld {s : Machine.State} (h : Canon s.chip) {g i} : CanonNext (execMld g i s) :=
  onVx h

theorem CanonNext.execMst {s : Machine.State} (h : Canon s.chip) {g i} : CanonNext (execMst g i s) :=
  onVx h

theorem CanonNext.execMpopc {s : Machine.State} (h : Canon s.chip) {g i} : CanonNext (execMpopc g i s) :=
  onVx h

theorem CanonNext.execVrand {s : Machine.State} (h : Canon s.chip) {g i} : CanonNext (execVrand g i s) :=
  onVx h

theorem CanonNext.execVsamp {s : Machine.State} (h : Canon s.chip) {g i} : CanonNext (execVsamp g i s) :=
  onVx h

theorem CanonNext.execVsave {s : Machine.State} (h : Canon s.chip) {g i} : CanonNext (execVsave g i s) :=
  onVx h

theorem CanonNext.execVrestore {s : Machine.State} (h : Canon s.chip) {g i} : CanonNext (execVrestore g i s) :=
  onVx h

/-! ### A step with nothing queued -/

theorem Canon.nanosecond {c : Chip} (h : Canon c) : Canon c.nanosecond := (Canon.ite h (Canon.ite (Canon.mk (Canon.mk h)) (Canon.mk h)))

theorem Canon.tick {c : Chip} (h : Canon c) : Canon c.tick := by
  unfold Chip.tick
  extract_lets c1
  have h2 : Canon c1 := h.nanosecond
  clear_value c1
  exact .ite h2 h2.drainEvents

/-! ### A step -/

/-- Whatever command it is given, a step that goes on leaves module memory in its canonical form. -/
theorem exec_canon {s : Machine.State} (h : Canon s.chip) (c : Instr) : CanonNext (exec c s) :=
  match c with
  | .reg64LowHalfRead .. => CanonNext.execReg64LowHalfRead h
  | .bar0MisalignedAccess .. => CanonNext.execBar0MisalignedAccess h
  | .registerWrite .. => CanonNext.execRegisterWrite h
  | .scalarInstruction .. => CanonNext.execScalarInstruction h
  | .mret .. => CanonNext.execMret h
  | .issue .. => CanonNext.execIssue h
  | .issueQueueRoom .. => CanonNext.execIssueQueueRoom h
  | .fenceq .. => CanonNext.execFenceq h
  | .fenceqDrained .. => CanonNext.execFenceqDrained h
  | .step .. => CanonNext.execStep h
  | .stepHoldRelease .. => CanonNext.execStepHoldRelease h
  | .epoch .. => CanonNext.execEpoch h
  | .waitc .. => CanonNext.execWaitc h
  | .waitcPoll .. => CanonNext.execWaitcPoll h
  | .waitcConditionMet .. => CanonNext.execWaitcConditionMet h
  | .waitTimeout .. => CanonNext.execWaitTimeout h
  | .sigc .. => CanonNext.execSigc h
  | .sigcSet .. => CanonNext.execSigcSet h
  | .remoteSignalReceive .. => CanonNext.execRemoteSignalReceive h
  | .markPush .. => CanonNext.execMarkPush h
  | .markPop .. => CanonNext.execMarkPop h
  | .gctlHalt .. => CanonNext.execGctlHalt h
  | .gctlQrst .. => CanonNext.execGctlQrst h
  | .gfaultClear .. => CanonNext.execGfaultClear h
  | .gcredWrite .. => CanonNext.execGcredWrite h
  | .descriptorStart .. => CanonNext.execDescriptorStart h
  | .descriptorComplete .. => CanonNext.execDescriptorComplete h
  | .nop .. => CanonNext.execNop h
  | .qwait .. => CanonNext.execQwait h
  | .qwaitTimeout .. => CanonNext.execQwaitTimeout h
  | .coreParityError .. => CanonNext.execCoreParityError h
  | .usherMailboxWrite .. => CanonNext.execUsherMailboxWrite h
  | .mxLoad .. => CanonNext.execMxLoad h
  | .mxStream .. => CanonNext.execMxStream h
  | .mxStreamg .. => CanonNext.execMxStreamg h
  | .mxStreamw .. => CanonNext.execMxStreamw h
  | .mxKloop .. => CanonNext.execMxKloop h
  | .mxFlush .. => CanonNext.execMxFlush h
  | .mxCfg .. => CanonNext.execMxCfg h
  | .mxSave .. => CanonNext.execMxSave h
  | .mxRestore .. => CanonNext.execMxRestore h
  | .mxPreemptionStop .. => CanonNext.execMxPreemptionStop h
  | .mxStopDrained .. => CanonNext.execMxStopDrained h
  | .mxGo .. => CanonNext.execMxGo h
  | .mxServiceRun .. => CanonNext.execMxServiceRun h
  | .vmov .. => CanonNext.execVmov h
  | .vadd .. => CanonNext.execVadd h
  | .vsub .. => CanonNext.execVsub h
  | .vmul .. => CanonNext.execVmul h
  | .vfma .. => CanonNext.execVfma h
  | .vmax .. => CanonNext.execVmax h
  | .vmin .. => CanonNext.execVmin h
  | .vabs .. => CanonNext.execVabs h
  | .vneg .. => CanonNext.execVneg h
  | .vcmp .. => CanonNext.execVcmp h
  | .vcsel .. => CanonNext.execVcsel h
  | .vselb .. => CanonNext.execVselb h
  | .viota .. => CanonNext.execViota h
  | .vcvt .. => CanonNext.execVcvt h
  | .viadd .. => CanonNext.execViadd h
  | .visub .. => CanonNext.execVisub h
  | .vimul .. => CanonNext.execVimul h
  | .viand .. => CanonNext.execViand h
  | .vior .. => CanonNext.execVior h
  | .vixor .. => CanonNext.execVixor h
  | .vishl .. => CanonNext.execVishl h
  | .vishr .. => CanonNext.execVishr h
  | .vicmp .. => CanonNext.execVicmp h
  | .vexp .. => CanonNext.execVexp h
  | .vexp2 .. => CanonNext.execVexp2 h
  | .vlog .. => CanonNext.execVlog h
  | .vrcp .. => CanonNext.execVrcp h
  | .vrsqrt .. => CanonNext.execVrsqrt h
  | .vtanh .. => CanonNext.execVtanh h
  | .vsigm .. => CanonNext.execVsigm h
  | .vsilu .. => CanonNext.execVsilu h
  | .vgelu .. => CanonNext.execVgelu h
  | .vrot .. => CanonNext.execVrot h
  | .vrsum .. => CanonNext.execVrsum h
  | .vrmax .. => CanonNext.execVrmax h
  | .vrmin .. => CanonNext.execVrmin h
  | .vramax .. => CanonNext.execVramax h
  | .vtopk .. => CanonNext.execVtopk h
  | .vscan .. => CanonNext.execVscan h
  | .vcount .. => CanonNext.execVcount h
  | .vrankb .. => CanonNext.execVrankb h
  | .vgather .. => CanonNext.execVgather h
  | .vscatter .. => CanonNext.execVscatter h
  | .vgathere .. => CanonNext.execVgathere h
  | .mlog .. => CanonNext.execMlog h
  | .mld .. => CanonNext.execMld h
  | .mst .. => CanonNext.execMst h
  | .mpopc .. => CanonNext.execMpopc h
  | .vrand .. => CanonNext.execVrand h
  | .vsamp .. => CanonNext.execVsamp h
  | .vsave .. => CanonNext.execVsave h
  | .vrestore .. => CanonNext.execVrestore h
  | .retentionWake .. => CanonNext.execRetentionWake h
  | .arcPut .. => CanonNext.execArcPut h
  | .arcMcast .. => CanonNext.execArcMcast h
  | .arcIsend .. => CanonNext.execArcIsend h
  | .arcSig .. => CanonNext.execArcSig h
  | .arcMsg .. => CanonNext.execArcMsg h
  | .arcTransferReceive .. => CanonNext.execArcTransferReceive h
  | .arcAckReceive .. => CanonNext.execArcAckReceive h
  | .ingressDeliveryResume .. => CanonNext.execIngressDeliveryResume h
  | .msgRingHeadWrite .. => CanonNext.execMsgRingHeadWrite h
  | .mcastStall .. => CanonNext.execMcastStall h
  | .galleryFence .. => CanonNext.execGalleryFence h
  | .stLoad .. => CanonNext.execStLoad h
  | .stStore .. => CanonNext.execStStore h
  | .stGather .. => CanonNext.execStGather h
  | .stScatter .. => CanonNext.execStScatter h
  | .stCmoWriteback .. => CanonNext.execStCmoWriteback h
  | .stCmoReleasePins .. => CanonNext.execStCmoReleasePins h
  | .stCmoPrefetch .. => CanonNext.execStCmoPrefetch h
  | .stCmoPrefetchPin .. => CanonNext.execStCmoPrefetchPin h
  | .stCmoFlushInvalidate .. => CanonNext.execStCmoFlushInvalidate h
  | .sliceRequest .. => CanonNext.execSliceRequest h
  | .sliceFill .. => CanonNext.execSliceFill h
  | .backInvalidate .. => CanonNext.execBackInvalidate h
  | .vaultRequest .. => CanonNext.execVaultRequest h
  | .refresh .. => CanonNext.execRefresh h
  | .delayLineCheck .. => CanonNext.execDelayLineCheck h
  | .landingRetrain .. => CanonNext.execLandingRetrain h
  | .laneFailRetrain .. => CanonNext.execLaneFailRetrain h
  | .selfRefreshEntry .. => CanonNext.execSelfRefreshEntry h
  | .selfRefreshWritebackTimeout .. => CanonNext.execSelfRefreshWritebackTimeout h
  | .selfRefreshExit .. => CanonNext.execSelfRefreshExit h
  | .bridgeBurstReceive .. => CanonNext.execBridgeBurstReceive h
  | .bridgeOutOfService .. => CanonNext.execBridgeOutOfService h
  | .stairOutOfService .. => CanonNext.execStairOutOfService h
  | .attnQuery .. => CanonNext.execAttnQuery h
  | .attnPartial .. => CanonNext.execAttnPartial h
  | .attnPartialTimeout .. => CanonNext.execAttnPartialTimeout h
  | .phasePolicyChange .. => CanonNext.execPhasePolicyChange h
  | .changeoverBegin .. => CanonNext.execChangeoverBegin h
  | .epochClose .. => CanonNext.execEpochClose h
  | .closingTimeout .. => CanonNext.execClosingTimeout h
  | .moveFlip .. => CanonNext.execMoveFlip h
  | .movesComplete .. => CanonNext.execMovesComplete h
  | .epochOpen .. => CanonNext.execEpochOpen h
  | .stepResultsAccept .. => CanonNext.execStepResultsAccept h
  | .ldl .. => CanonNext.execLdl h
  | .ldlDataArrival .. => CanonNext.execLdlDataArrival h
  | .stl .. => CanonNext.execStl h
  | .lineOpRetry .. => CanonNext.execLineOpRetry h
  | .pcopy .. => CanonNext.execPcopy h
  | .fencel .. => CanonNext.execFencel h
  | .jdone .. => CanonNext.execJdone h
  | .qsimdAdd .. => CanonNext.execQsimdAdd h
  | .qsimdSub .. => CanonNext.execQsimdSub h
  | .qsimdMul .. => CanonNext.execQsimdMul h
  | .qsimdSmin .. => CanonNext.execQsimdSmin h
  | .qsimdSmax .. => CanonNext.execQsimdSmax h
  | .qsimdUmin .. => CanonNext.execQsimdUmin h
  | .qsimdUmax .. => CanonNext.execQsimdUmax h
  | .qsimdAnd .. => CanonNext.execQsimdAnd h
  | .qsimdOr .. => CanonNext.execQsimdOr h
  | .qsimdXor .. => CanonNext.execQsimdXor h
  | .qsimdShl .. => CanonNext.execQsimdShl h
  | .qsimdShr .. => CanonNext.execQsimdShr h
  | .qsimdSar .. => CanonNext.execQsimdSar h
  | .qsimdEq .. => CanonNext.execQsimdEq h
  | .qsimdPermute .. => CanonNext.execQsimdPermute h
  | .qsimdFadd .. => CanonNext.execQsimdFadd h
  | .qsimdFmul .. => CanonNext.execQsimdFmul h
  | .qsimdFma .. => CanonNext.execQsimdFma h
  | .qsimdFmax .. => CanonNext.execQsimdFmax h
  | .qins .. => CanonNext.execQins h
  | .qext .. => CanonNext.execQext h
  | .qcvt .. => CanonNext.execQcvt h
  | .qcrc .. => CanonNext.execQcrc h
  | .qpgen .. => CanonNext.execQpgen h
  | .jobEnqueue .. => CanonNext.execJobEnqueue h
  | .jobStart .. => CanonNext.execJobStart h
  | .rangesDeclared .. => CanonNext.execRangesDeclared h
  | .jobCancel .. => CanonNext.execJobCancel h
  | .bottomBurst .. => CanonNext.execBottomBurst h
  | .tokenHandoff .. => CanonNext.execTokenHandoff h
  | .heldReadRelease .. => CanonNext.execHeldReadRelease h
  | .patrolPass .. => CanonNext.execPatrolPass h
  | .chanterFallbackStart .. => CanonNext.execChanterFallbackStart h
  | .admitCmd .. => CanonNext.execAdmit h
  | .ticketBound .. => CanonNext.execTicketBound h
  | .prefillDone .. => CanonNext.execPrefillDone h
  | .runningSetAdmit .. => CanonNext.execRunningSetAdmit h
  | .rowTableForm .. => CanonNext.execRowTableForm h
  | .priorityPreemption .. => CanonNext.execPriorityPreemption h
  | .ticketEnergyShare .. => CanonNext.execTicketEnergyShare h
  | .demotionStart .. => CanonNext.execDemotionStart h
  | .demotionEnd .. => CanonNext.execDemotionEnd h
  | .usherSpillPolicy .. => CanonNext.execUsherSpillPolicy h
  | .spillCommit .. => CanonNext.execSpillCommit h
  | .recallCommit .. => CanonNext.execRecallCommit h
  | .recallFail .. => CanonNext.execRecallFail h
  | .forkTablesCopied .. => CanonNext.execForkTablesCopied h
  | .recoveryStart .. => CanonNext.execRecoveryStart h
  | .recoveryDone .. => CanonNext.execRecoveryDone h
  | .ticketLost .. => CanonNext.execTicketLost h
  | .releaseComplete .. => CanonNext.execReleaseComplete h
  | .feed .. => CanonNext.execFeed h
  | .run .. => CanonNext.execRun h
  | .park .. => CanonNext.execPark h
  | .fork .. => CanonNext.execFork h
  | .release .. => CanonNext.execRelease h
  | .spill .. => CanonNext.execSpill h
  | .recall .. => CanonNext.execRecall h
  | .query .. => CanonNext.execQuery h
  | .modelLoad .. => CanonNext.execModelLoad h
  | .adapterLoad .. => CanonNext.execAdapterLoad h
  | .modelUnload .. => CanonNext.execModelUnload h
  | .planSelect .. => CanonNext.execPlanSelect h
  | .budgetSet .. => CanonNext.execBudgetSet h
  | .negotiate .. => CanonNext.execNegotiate h
  | .journalRead .. => CanonNext.execJournalRead h
  | .sqTailDoorbell .. => CanonNext.execSqTailDoorbell h
  | .cqHeadDoorbell .. => CanonNext.execCqHeadDoorbell h
  | .ringEnable .. => CanonNext.execRingEnable h
  | .cqFullNotice .. => CanonNext.execCqFullNotice h
  | .cqInterrupt .. => CanonNext.execCqInterrupt h
  | .hifRunWrite .. => CanonNext.execHifRunWrite h
  | .resync .. => CanonNext.execResync h
  | .pcieResetEvent e => CanonNext.execPcieResetEvent h (_e := e)
  | .pcieLinkDegraded .. => CanonNext.execPcieLinkDegraded h
  | .bar2Read .. => CanonNext.execBar2Read h
  | .bar2Write .. => CanonNext.execBar2Write h
  | .bar2Retry .. => CanonNext.execBar2Retry h
  | .fecBlockReceive .. => CanonNext.execFecBlockReceive h
  | .linkLaneFail .. => CanonNext.execLinkLaneFail h
  | .spareSwap .. => CanonNext.execSpareSwap h
  | .fastRetrain .. => CanonNext.execFastRetrain h
  | .alignmentBlockReceive .. => CanonNext.execAlignmentBlockReceive h
  | .trainingFrameReceive .. => CanonNext.execTrainingFrameReceive h
  | .flitReceive .. => CanonNext.execFlitReceive h
  | .nakReplay .. => CanonNext.execNakReplay h
  | .replayTimeout .. => CanonNext.execReplayTimeout h
  | .put .. => CanonNext.execPut h
  | .get .. => CanonNext.execGet h
  | .getresp .. => CanonNext.execGetresp h
  | .msg .. => CanonNext.execMsg h
  | .atomic .. => CanonNext.execAtomic h
  | .atomresp .. => CanonNext.execAtomresp h
  | .barrier .. => CanonNext.execBarrier h
  | .done .. => CanonNext.execDone h
  | .linkRequestTimeout .. => CanonNext.execLinkRequestTimeout h
  | .linkDown .. => CanonNext.execLinkDown h
  | .linkCtlDown .. => CanonNext.execLinkCtlDown h
  | .linkCtlRetrain .. => CanonNext.execLinkCtlRetrain h
  | .linkTraining .. => CanonNext.execLinkTraining h
  | .linkRetrainTimer .. => CanonNext.execLinkRetrainTimer h
  | .capabilityFlitReceive .. => CanonNext.execCapabilityFlitReceive h
  | .lpidleShed .. => CanonNext.execLpidleShed h
  | .annexOpen .. => CanonNext.execAnnexOpen h
  | .annexReply .. => CanonNext.execAnnexReply h
  | .annexClose .. => CanonNext.execAnnexClose h
  | .weightAsk .. => CanonNext.execWeightAsk h
  | .ilimThrottle .. => CanonNext.execIlimThrottle h
  | .vsetChange .. => CanonNext.execVsetChange h
  | .regCellFail .. => CanonNext.execRegCellFail h
  | .secondCellFail .. => CanonNext.execSecondCellFail h
  | .domainSwitchOn .. => CanonNext.execDomainSwitchOn h
  | .stagingTimeout .. => CanonNext.execStagingTimeout h
  | .currentSample .. => CanonNext.execCurrentSample h
  | .crackAlarm .. => CanonNext.execCrackAlarm h
  | .recoveryMeasurementDone .. => CanonNext.execRecoveryMeasurementDone h
  | .sensorRead .. => CanonNext.execSensorRead h
  | .comparatorTrip .. => CanonNext.execComparatorTrip h
  | .layerEstimate .. => CanonNext.execLayerEstimate h
  | .thermalStop .. => CanonNext.execThermalStop h
  | .thermalResume .. => CanonNext.execThermalResume h
  | .bellowsWindowEnd .. => CanonNext.execBellowsWindowEnd h
  | .ledgerMeter .. => CanonNext.execLedgerMeter h
  | .grantWrite .. => CanonNext.execGrantWrite h
  | .sliceStorageUe .. => CanonNext.execSliceStorageUe h
  | .errorLogScan .. => CanonNext.execErrorLogScan h
  | .ceDecay .. => CanonNext.execCeDecay h
  | .retreq .. => CanonNext.execRetreq h
  | .retirementStart .. => CanonNext.execRetirementStart h
  | .retirementMoveDone .. => CanonNext.execRetirementMoveDone h
  | .diagWdata .. => CanonNext.execDiagWdata h
  | .diagWcheck .. => CanonNext.execDiagWcheck h
  | .diagWraw .. => CanonNext.execDiagWraw h
  | .diagReadraw .. => CanonNext.execDiagReadraw h
  | .galleryFault .. => CanonNext.execGalleryFault h
  | .weightUe .. => CanonNext.execWeightUe h
  | .towerFence .. => CanonNext.execTowerFence h
  | .bringStepFuses .. => CanonNext.execBringStepFuses h
  | .bringStepRails .. => CanonNext.execBringStepRails h
  | .bringStepTrain .. => CanonNext.execBringStepTrain h
  | .bringStepSelftest .. => CanonNext.execBringStepSelftest h
  | .bringStepImage .. => CanonNext.execBringStepImage h
  | .bringStepBroadcast .. => CanonNext.execBringStepBroadcast h
  | .bringStepSeal .. => CanonNext.execBringStepSeal h
  | .bringStepDone .. => CanonNext.execBringStepDone h
  | .bringStepInvalid .. => CanonNext.execBringStepInvalid h
  | .chunkReceive .. => CanonNext.execChunkReceive h
  | .chunkEndReceive .. => CanonNext.execChunkEndReceive h
  | .broadcastRoundEnd .. => CanonNext.execBroadcastRoundEnd h
  | .runtimeTestTimeout .. => CanonNext.execRuntimeTestTimeout h
  | .powerOnReset .. => CanonNext.execPowerOnReset h
  | .coldrstN .. => CanonNext.execColdrstN h
  | .warmrstN .. => CanonNext.execWarmrstN h
  | .perstN .. => CanonNext.execPerstN h
  | .bringResetCold .. => CanonNext.execBringResetCold h
  | .bringResetWarm .. => CanonNext.execBringResetWarm h
  | .bringResetTower .. => CanonNext.execBringResetTower h
  | .bringResetTakeover .. => CanonNext.execBringResetTakeover h
  | .coldReset .. => CanonNext.execColdReset h
  | .warmReset .. => CanonNext.execWarmReset h
  | .warmSeal .. => CanonNext.execWarmSeal h
  | .towerReset .. => CanonNext.execTowerReset h
  | .partitionReset .. => CanonNext.execPartitionReset h
  | .baseDieQuiesce .. => CanonNext.execBaseDieQuiesce h
  | .heartbeatMissed .. => CanonNext.execHeartbeatMissed h
  | .usherTakeover .. => CanonNext.execUsherTakeover h
  | .pgFail .. => CanonNext.execPgFail h
  | .whistleReq .. => CanonNext.execWhistleReq h
  | .whistleN .. => CanonNext.execWhistleN h
  | .whistle .. => CanonNext.execWhistle h
  | .whistleResume .. => CanonNext.execWhistleResume h
  | .jtagWhistle .. => CanonNext.execJtagWhistle h
  | .jtagResume .. => CanonNext.execJtagResume h
  | .jtagScansel .. => CanonNext.execJtagScansel h
  | .jtagScanoff .. => CanonNext.execJtagScanoff h
  | .jtagScanrd .. => CanonNext.execJtagScanrd h
  | .jtagScanwr .. => CanonNext.execJtagScanwr h
  | .jtagWstat .. => CanonNext.execJtagWstat h
  | .scanwinAccess .. => CanonNext.execScanwinAccess h
  | .dmaCopy .. => CanonNext.execDmaCopy h
  | .dmaCopyDone .. => CanonNext.execDmaCopyDone h
  | .watchCapture .. => CanonNext.execWatchCapture h
  | .fatalError .. => CanonNext.execFatalError h
  | .anxctlClear .. => CanonNext.execAnxctlClear h
  | .rngctlClr .. => CanonNext.execRngctlClr h
  | .i3cWrite .. => CanonNext.execI3cWrite h
  | .i3cRead .. => CanonNext.execI3cRead h
  | .i3cDynamicAddress .. => CanonNext.execI3cDynamicAddress h
  | .ibiAcknowledge .. => CanonNext.execIbiAcknowledge h
  | .chanterInstruction .. => CanonNext.execChanterInstruction h
  | .pllLock .. => CanonNext.execPllLock h
  | .powerGoodRise .. => CanonNext.execPowerGoodRise h
  | .resetInputRelease .. => CanonNext.execResetInputRelease h
  | .msgBusyResend .. => CanonNext.execMsgBusyResend h
  | .corridorCellFail .. => CanonNext.execCorridorCellFail h

theorem step_canon {s t : Machine.State} (h : Canon s.chip) (e : step s = .next t) : Canon t.chip := by
  cases hp : s.pending with
  | nil =>
    rw [step_nil s hp] at e
    cases e
    exact h.tick
  | cons c rest =>
    rw [step_cons s c rest hp] at e
    exact exec_canon (s := { s with pending := rest }) h c t e

end Sys2Proof.Laws

namespace Sys2Proof.Proofs

/-- Settles O5: every operation keeps the form (`Sys2Proof.Laws.Canon`), so every command does (`exec_canon`), and so does a step. -/
theorem memoryStaysCanonical : Obligations.MemoryStaysCanonical :=
  fun _ _ => Laws.step_canon

end Sys2Proof.Proofs
end

section
/-! SUPPORT. What the scalar core's instructions do on a core that is ready, and what ends its waits: one equation per case of the model's functions. -/

namespace Sys2Proof.Laws

open Sys2Proof.Machine

/-! ### The shapes, under the statements' conditions -/

/-- An instruction of a core that is ready. -/
theorem onInstr_ready {s : State} {g : GalId} (h : s.chip.CoreReady (galKey g)) (f : Chip → Nat → Chip) :
    s.onInstr g f = .next { s with chip := f s.chip (galKey g) } := by
  obtain ⟨hruns, hirq, hwait⟩ := h
  exact onInstr_runs s g f hruns hirq hwait

/-- What ends a wait that may end. -/
theorem onWait_waits {s : State} {g : GalId} (h : s.chip.CoreWaits (galKey g)) (f : Chip → Nat → Chip) :
    s.onWait g f = .next { s with chip := f s.chip (galKey g) } := by
  obtain ⟨hstop, hlive, hdead⟩ := h
  exact onWait_runs s g f hstop hlive hdead

/-- The errors that gallery g finds as it reads, logged and marked. -/
abbrev upsets (g : GalId) (errs : List GalUpset) (c : Chip) : Chip := errs.foldl (Chip.upset g) c

theorem exec_scalarInstruction {s : State} {g : GalId} (h : s.chip.CoreReady (galKey g)) (errs : List GalUpset) :
    exec (.scalarInstruction ⟨g, errs⟩) s = .next { s with chip := (upsets g errs s.chip).scalarInstr (galKey g) } := onInstr_ready h _

theorem exec_mret {s : State} {g : GalId} (h : s.chip.CoreReady (galKey g)) :
    exec (.mret g) s = .next { s with chip := s.chip.galMret (galKey g) } := onInstr_ready h _

/-! ### One instruction at pc, by what it asks for (R57, R59, R93) -/

section
variable {c : Chip} {k len : Nat} {i : Rv}

theorem scalarInstr_fetchError {cause tval : Nat} (hf : fetchRv (c.gal k).fetchHalf (c.gal k).hart.pc.toNat = .error (cause, tval)) :
    c.scalarInstr k = c.galTrap k (BitVec.ofNat 32 cause) (BitVec.ofNat 32 tval) := by
  simp only [Chip.scalarInstr, hf]

variable (hf : fetchRv (c.gal k).fetchHalf (c.gal k).hart.pc.toNat = .ok (len, i))
include hf

theorem scalarInstr_done {h' : Hart} (he : rvExec (c.gal k).hart i len = .done h') :
    c.scalarInstr k =
      c.setGal k { ((c.gal k).rngAdd (c.gal k).topRange.toNat 0 (h'.mcycle - (c.gal k).hart.mcycle).toNat) with hart := h' } := by
  simp only [Chip.scalarInstr, hf, he]

theorem scalarInstr_load {b rd v : Nat} {sg : Bool} {a : Word} (he : rvExec (c.gal k).hart i len = .load b sg rd a)
    (hl : (c.gal k).load b a.toNat = .ok v) :
    c.scalarInstr k = c.setGal k { ((c.gal k).rngBeats ((c.gal k).accessBeats false a.toNat)) with
      hart := ((c.gal k).hart.set rd (loadExtend b sg v)).retire ((c.gal k).hart.pc + BitVec.ofNat 32 len) ((c.gal k).accessBeats false a.toNat) } := by
  simp only [Chip.scalarInstr, hf, he, hl]

theorem scalarInstr_store {b : Nat} {a v : Word} {G' : Gallery} (he : rvExec (c.gal k).hart i len = .store b a v)
    (hs : (c.gal k).store b a.toNat (v.toNat % 2 ^ (8 * b)) = .ok G') :
    c.scalarInstr k = c.setGal k { (G'.rngBeats ((c.gal k).accessBeats true a.toNat)) with
      hart := (c.gal k).hart.retire ((c.gal k).hart.pc + BitVec.ofNat 32 len) ((c.gal k).accessBeats true a.toNat) } := by
  simp only [Chip.scalarInstr, hf, he, hs]

/-- The gallery after the part of a CSR instruction that every one has: the old value in rd. -/
def csrOldRead (G : Gallery) (rd : Nat) (old : Word) (len : Nat) : Gallery :=
  { (G.rngBeats 1) with hart := (G.hart.set rd old).retire (G.hart.pc + BitVec.ofNat 32 len) 1 }

theorem scalarInstr_csr {rd n : Nat} {op : RvCsr} {v old : Word} {wr : Bool} (he : rvExec (c.gal k).hart i len = .csr op rd n v wr)
    (hr : (c.gal k).csrRead k n = some old) (hw : wr = true → n < 0xC00) :
    c.scalarInstr k = c.setGal k
      (if wr then (csrOldRead (c.gal k) rd old len).csrWrite c.act n (csrNew op old v) else csrOldRead (c.gal k) rd old len) := by
  have hlegal : (wr && decide (0xC00 ≤ n)) = false := by
    cases wr
    · rfl
    · simpa using hw rfl
  simp only [Chip.scalarInstr, hf, he, hr, hlegal]
  rfl

theorem scalarInstr_trap {cause tval : Word} (he : rvExec (c.gal k).hart i len = .trap cause tval) : c.scalarInstr k = c.galTrap k cause tval := by
  simp only [Chip.scalarInstr, hf, he]

end

/-! ### The register file (R57) -/

theorem hart_set_zero (h : Hart) (v : Word) : h.set 0 v = h := rfl

theorem hart_get_zero (h : Hart) : h.get 0 = 0 := rfl

/-- A register reads what was written; a zero into a file that is not canonical could uncover another. -/
theorem hart_get_set_same {h : Hart} {r : Nat} {v : Word} (hr : r ≠ 0) (hv : v ≠ 0 ∨ Store.wf (fun _ => 0) h.x = true) : (h.set r v).get r = v := by
  simp only [Hart.get, Hart.set, if_neg hr]
  rcases hv with hv | hv
  · exact get_put_changed _ r v hv
  · exact get_put_same hv r v

theorem hart_get_set_other (h : Hart) {r r' : Nat} (v : Word) (hr : r ≠ 0) (hne : r' ≠ r) : (h.set r v).get r' = h.get r' := by
  simp only [Hart.get, Hart.set, if_neg hr, get_put_other _ v hne]

theorem hart_set_wf {h : Hart} (hw : Store.wf (fun _ => 0) h.x = true) (r : Nat) (v : Word) : Store.wf (fun _ => 0) (h.set r v).x = true := by
  unfold Hart.set
  split
  · exact hw
  · exact put_wf hw r v

/-! ### ISSUE and FENCEQ (R62 to R64) -/

section
variable {c : Chip} {k rd q : Nat} {addr : Word} (nb : Bool)
  (hr : issueReject c.epoch q addr.toNat (descAt (c.gal k).dmem addr.toNat) = none) (he : (c.gal k).eccBad 0x2000000 addr.toNat 32 = false)
include hr he

theorem issue_room (hl : ((c.gal k).queue q).entries.length < queueDepth q) :
    c.issue k rd q nb addr = c.setGal k (((c.gal k).setQueue q { (c.gal k).queue q with
      entries := ((c.gal k).queue q).entries ++ [⟨stampDesc c.epoch (c.gal k).topRange (descAt (c.gal k).dmem addr.toNat),
        ((c.gal k).queue q).issued &&& 0x7FFFFFFF#32, .waiting, 0, 0⟩]
      issued := ((c.gal k).queue q).issued + 1 }).finish rd (((c.gal k).queue q).issued &&& 0x7FFFFFFF#32) 4) := by
  simp only [Chip.issue, hr, he, if_pos hl, Bool.false_eq_true, if_false]

theorem issue_full (hl : queueDepth q ≤ ((c.gal k).queue q).entries.length) :
    c.issue k rd q nb addr = c.setGal k (if nb then (c.gal k).finish rd 0xFFFFFFFF#32 4
      else { c.gal k with waiting := some (.issue rd q addr), waitAt := c.act }) := by
  simp only [Chip.issue, hr, he, if_neg (Nat.not_lt.mpr hl), Bool.false_eq_true, if_false]
  cases nb <;> rfl

end

section
variable {c : Chip} {k : Nat}

theorem issueRoom_room {rd q : Nat} {addr : Word} (hw : (c.gal k).waiting = some (.issue rd q addr))
    (hl : ((c.gal k).queue q).entries.length < queueDepth q) :
    c.issueRoom k = (c.setGal k { c.waited k with waiting := none }).issue k rd q false addr := by
  simp only [Chip.issueRoom, hw, if_pos hl]

theorem fenceq_eq (mask : Word) :
    c.fenceq k mask = c.setGal k (if (c.gal k).drained mask.toNat then (c.gal k).retire 1
      else { c.gal k with waiting := some (.fenceq (mask.toNat % 32)), waitAt := c.act }) :=
  (apply_ite (c.setGal k) ..).symm

theorem fenceqDrained_fenceq {mask : Nat} (hw : (c.gal k).waiting = some (.fenceq mask)) (hd : (c.gal k).drained mask = true) :
    c.fenceqDrained k = c.setGal k ((c.waited k).retire 1) := by
  simp only [Chip.fenceqDrained, hw, if_pos hd]

/-! ### STEP and the mailbox (R70, R71, R94) -/

theorem step_free (hh : (c.gal k).hold = false) (n : Word) : c.step k n = c.stepRetire k n := by
  simp only [Chip.step, hh, Bool.false_eq_true, if_false]

/-- The gallery whose STEP to n waits from `now` on. -/
def stepWaiting (G : Gallery) (n : Word) (now : DWord) : Gallery := { G with waiting := some (.step n), waitAt := now }

theorem stepWaiting_ne_reset (G : Gallery) (n : Word) (now : DWord) : stepWaiting G n now ≠ Gallery.reset := by
  intro e
  have hwait : (stepWaiting G n now).waiting = none := by rw [e]; rfl
  cases hwait

/-- Under a hold STEP waits, and stands held at once where its queues are drained. -/
theorem step_held (hh : (c.gal k).hold = true) (n : Word) :
    c.step k n = if (c.gal k).drained 31 then (c.setGal k (stepWaiting (c.gal k) n c.act)).stepCredit k
      else c.setGal k (stepWaiting (c.gal k) n c.act) := by
  have hstands : (stepWaiting (c.gal k) n c.act).standsHeld = (c.gal k).drained 31 := by
    show ((c.gal k).hold && (c.gal k).drained 31) = _
    rw [hh, Bool.true_and]
  show (if (c.gal k).hold then (c.setGal k (stepWaiting (c.gal k) n c.act)).heldCredit k else _) = _
  rw [if_pos hh, Chip.heldCredit, gal_setGal c k _ (stepWaiting_ne_reset _ _ _), hstands]

theorem stepResume_free {n : Word} (hw : (c.gal k).waiting = some (.step n)) (hh : (c.gal k).hold = false) (hd : (c.gal k).drained 31 = true)
    (hl : (c.gal k).live = true) (hdead : (c.gal k).dead = false) : c.stepResume k = (c.setGal k (c.waited k)).stepRetire k n := by
  simp only [Chip.stepResume, hw, hh, hd, hl, hdead, Bool.not_false, Bool.and_true, if_true]

/-- A wake cause finds nothing to raise where the domain is not at retention voltage. -/
theorem retentionWake_up (h : (c.gal k).dom ≠ .retained) (cause : Nat) : c.retentionWake k cause = c := by
  simp only [Chip.retentionWake, if_neg h]

/-- Step n's mailbox half is due: its data fits, n is next in CTR[63], and the step before it has retired. -/
theorem mailboxWrite_due {n : Word} {data : List Byte} (hlen : data.length ≤ 2048) (hn : (c.gal k).counter 63 + Store.get zeroWord (c.gal k).pend 63 = n)
    (hdue : (n = 0 ∧ (c.gal k).stepped = false) ∨ (n ≠ 0 ∧ (c.gal k).stepped = true ∧ (c.gal k).gstep + 1 = n)) (hdom : (c.gal k).dom ≠ .retained) :
    c.mailboxWrite k n data = c.setGal k
      (({ c.gal k with dmem := Memory.setBytes (c.gal k).dmem (0x17000 + n.toNat % 2 * 0x800) data } : Gallery).addCtr 63 1) := by
  have hstep : (if n = 0 then !(c.gal k).stepped else (c.gal k).stepped && (c.gal k).gstep + 1 == n) = true := by
    rcases hdue with ⟨hz, hs⟩ | ⟨hz, hs, hg⟩
    · rw [if_pos hz, hs]; rfl
    · rw [if_neg hz, hs, hg]; simp
  unfold Chip.mailboxWrite
  simp only [hstep, hn, hlen, retentionWake_up hdom, beq_self_eq_true, decide_true, Bool.and_true, if_true]
  rfl

/-! ### WAITC and the wait limit (R65, R88) -/

theorem waitc_poll (rd ctr : Nat) (target : Word) :
    c.waitc k rd true ctr target = c.setGal k ((c.gal k).finish rd
      (if 0 ≤ ((c.gal k).counter ctr + Store.get zeroWord (c.gal k).pend ctr - target).toInt then 1 else 0) 1) := by
  simp only [Chip.waitc, Gallery.condMet, decide_eq_true_eq, if_true]

theorem waitc_met {ctr : Nat} {target : Word} (h : (c.gal k).condMet ctr target = true) (rd : Nat) :
    c.waitc k rd false ctr target = c.setGal k
      (if (c.gal k).retnArm then ({ c.gal k with retnArm := false, retnLast := false } : Gallery).finish rd ((c.gal k).counter ctr) 1
       else (c.gal k).finish rd ((c.gal k).counter ctr) 1) := by
  simp only [Chip.waitc, h, Bool.false_eq_true, if_false, if_true]
  cases (c.gal k).retnArm <;> rfl

theorem waitc_unmet {ctr : Nat} {target : Word} (h : (c.gal k).condMet ctr target = false) (ha : (c.gal k).retnArm = false) (rd : Nat) :
    c.waitc k rd false ctr target = c.setGal k { c.gal k with waiting := some (.waitc rd ctr target), waitAt := c.act } := by
  simp only [Chip.waitc, h, ha, Bool.false_eq_true, if_false]

theorem waitcMet_met {rd ctr : Nat} {target : Word} (hw : (c.gal k).waiting = some (.waitc rd ctr target))
    (h : (c.gal k).condMet ctr target = true) (hl : (c.gal k).live = true) :
    c.waitcMet k = c.setGal k ((c.waited k).finish rd ((c.gal k).counter ctr) 1) := by
  simp only [Chip.waitcMet, hw, h, hl, Bool.and_true, if_true]

theorem waitTimeout_waitc {rd ctr : Nat} {target : Word} (hw : (c.gal k).waiting = some (.waitc rd ctr target))
    (h : (c.gal k).condMet ctr target = false) (hp : c.pastLimit k (c.gal k).waitAt = true) :
    c.waitTimeout k = c.galTrap k 25 (BitVec.ofNat 32 (ctr * 256)) := by
  simp only [Chip.waitTimeout, hw, h, hp, Bool.not_true, Bool.false_eq_true, if_false]

/-! ### SIGC and remote signals (R66 to R68) -/

/-- An increment of a gallery that is not at retention voltage reaches the counter. -/
theorem addCtr_up {G : Gallery} (h : G.dom ≠ .retained) (i : Nat) (v : Word) :
    G.addCtr i v = { G with ctr := Store.put zeroWord G.ctr i (G.counter i + v) } := by
  simp only [Gallery.addCtr, if_neg h]

theorem sigc_set {target : Word} (h : badSignal true target.toNat = false) (val : Word) :
    c.sigc k true target val = c.setGal k { ((c.gal k).retire 1) with ctr := Store.put zeroWord (c.gal k).ctr (field target.toNat 0 6) val } := by
  simp only [Chip.sigc, h, Bool.false_eq_true, if_false, if_true]

theorem sigc_local {target : Word} (h : badSignal false target.toNat = false)
    (hl : bitOf target.toNat 6 = false ∨ field target.toNat 8 7 = (c.gal k).lgal.toNat) (val : Word) :
    c.sigc k false target val = c.setGal k (((c.gal k).addCtr (field target.toNat 0 6) val).retire 1) := by
  have hlocal : (!bitOf target.toNat 6 || field target.toNat 8 7 == (c.gal k).lgal.toNat) = true := by
    rcases hl with hl | hl <;> simp [hl]
  simp only [Chip.sigc, h, hlocal, Bool.false_eq_true, if_false, if_true]

theorem sigc_remote {target : Word} (h : badSignal false target.toNat = false) (h6 : bitOf target.toNat 6 = true)
    (hl : field target.toNat 8 7 ≠ (c.gal k).lgal.toNat) (val : Word) :
    c.sigc k false target val = { c.setGal k ((c.gal k).retire 2) with
      rsigs := c.rsigs ++ [{ src := k, dtower := k / 104, dgal := field target.toNat 8 7, ctr := field target.toNat 0 6, val := val, epoch := c.epoch }] } := by
  have hremote : (!bitOf target.toNat 6 || field target.toNat 8 7 == (c.gal k).lgal.toNat) = false := by simp [h6, hl]
  simp only [Chip.sigc, h, hremote, Bool.false_eq_true, if_false]
  rfl

/-- The oldest signal of all, from src to an open port, under the current epoch. -/
theorem rsigReceive_head {src dst : Nat} {sig : RSig} {later : List RSig} (hs : c.rsigs = sig :: later) (hsrc : sig.src = src)
    (hdst : c.logKey sig.dtower sig.dgal = dst) (ho : c.lOpen dst = true) (hst : c.stale (sig.epoch.toNat % 2 ^ 24) = false) :
    c.rsigReceive src dst = ({ c with rsigs := later } : Chip).setGal dst ((c.gal dst).addCtr sig.ctr sig.val) := by
  have hhit : (sig.src == src && c.logKey sig.dtower sig.dgal == dst) = true := by simp [hsrc, hdst]
  have hfind : (c.rsigs.find? fun x => x.src == src && c.logKey x.dtower x.dgal == dst) = some sig := by
    rw [hs]; exact List.find?_cons_of_pos hhit
  have hrest : (c.rsigs.eraseP fun x => x.src == src && c.logKey x.dtower x.dgal == dst) = later := by
    rw [hs]; exact List.eraseP_cons_of_pos hhit
  have hopen : ({ c with rsigs := later } : Chip).lOpen dst = true := ho
  have hcur : ({ c with rsigs := later } : Chip).stale (sig.epoch.toNat % 2 ^ 24) = false := hst
  unfold Chip.rsigReceive
  simp only [hfind, hrest, hopen, hcur, Bool.not_false, if_true]
  rfl

/-! ### MARK (R69) -/

theorem markPush_room (h : (c.gal k).marks.length < 8) (rd : Nat) (id : Word) :
    c.markPush k rd id = c.setGal k
      { ((c.gal k).finish rd ((c.gal k).topRange.setWidth 32) 1) with marks := id.setWidth 16 :: (c.gal k).marks } := by
  simp only [Chip.markPush, if_neg (Nat.not_le.mpr h)]

theorem markPop_top {m : Half} {ms : List Half} (h : (c.gal k).marks = m :: ms) (rd : Nat) :
    c.markPop k rd = c.setGal k { ((c.gal k).finish rd (m.setWidth 32) 1) with marks := ms } := by
  simp only [Chip.markPop, h]

end

/-! ### A gallery's registers (R91, R92, R93, R194) -/

section
variable {s : State} {g : GalId} (hw : s.chip.GalWritable (galKey g))
include hw

theorem onGalReg_writable (f : Gallery → Gallery) : s.onGalReg g f = .next { s with chip := s.chip.onGal (galKey g) f } :=
  onGalReg_runs s g f hw.1 hw.2

theorem exec_gctlHalt (clear : Bool) : exec (.gctlHalt ⟨g, clear⟩) s =
    .next { s with chip := if clear then s.chip.haltClear (galKey g) else s.chip.onGal (galKey g) fun x => x.haltAt s.chip.act } := by
  show execGctlHalt ⟨g, clear⟩ s = _
  rw [execGctlHalt, onLive_runs s _ hw.1]
  simp only [hw.2, Bool.not_true, Bool.false_eq_true, if_false]

theorem exec_gctlQrst (mask : Fin 32) : exec (.gctlQrst g mask) s =
    .next { s with chip := (s.chip.onGal (galKey g) fun x => x.qrst mask.val).heldCredit (galKey g) } := by
  show execGctlQrst g mask s = _
  rw [execGctlQrst, onLive_runs s _ hw.1]
  simp only [hw.2, Bool.not_true, Bool.false_eq_true, if_false]

theorem exec_coreParityError (q : Option QueueId) :
    exec (.coreParityError g q) s = .next { s with chip := (s.chip.parityError (galKey g) q).galLog g 8 9 } := by
  show execCoreParityError g q s = _
  rw [execCoreParityError, onLive_runs s _ hw.1, if_pos hw.2]

end

theorem haltClear_halted {c : Chip} {k : Nat} (hh : (c.gal k).halt = true) (hd : (c.gal k).dead = false) :
    c.haltClear k = c.setGal k { (if (c.gal k).waiting.isSome then c.gal k else c.waited k) with halt := false } := by
  simp only [Chip.haltClear, hh, hd, Bool.not_false, Bool.and_true, if_true]

theorem haltClear_other {c : Chip} {k : Nat} (h : (c.gal k).halt = false ∨ (c.gal k).dead = true) : c.haltClear k = c := by
  have hclear : ((c.gal k).halt && !(c.gal k).dead) = false := by rcases h with h | h <;> simp [h]
  simp only [Chip.haltClear, hclear, Bool.false_eq_true, if_false]

/-- A write of GCRED once a STEP has retired. -/
theorem gcredWrite_stepped {G : Gallery} (h : G.stepped = true) (v : Nat) :
    G.gcredWrite v = { G with
      gcred := (Store.put zeroWord G.gcred (field v 0 3)
        (BitVec.ofNat 32 (satAdd 32 (Store.get zeroWord G.gcred (field v 0 3)).toNat (field v 8 24)))) } := by
  simp only [Gallery.gcredWrite, if_pos h]

end Sys2Proof.Laws

namespace Sys2Proof.Proofs
open Sys2Proof.Machine Sys2Proof.Laws

/-- Settles O13: by what the instruction at pc asks for. -/
theorem scalarInstructionsRetire : Obligations.ScalarInstructionsRetire := by
  intro g errs s hready
  have hexec := exec_scalarInstruction hready errs
  refine ⟨fun len i h' hf he => ?_, fun len b rd v i sg a hf he hl => ?_, fun len b i a v G' hf he hs => ?_,
    fun len rd n op i v old wr hf he hr hw => ?_, exec_mret hready, fun h v => ⟨hart_set_zero h v, hart_get_zero h⟩,
    fun h r r' v hr hne hv => ⟨hart_get_set_same hr hv, hart_get_set_other h v hr hne⟩, fun h r v hw => hart_set_wf hw r v⟩
  · rw [hexec, scalarInstr_done hf he]
  · rw [hexec, scalarInstr_load hf he hl]
  · rw [hexec, scalarInstr_store hf he hs]
  · rw [hexec, scalarInstr_csr hf he hr hw]; rfl

/-- Settles O14: ISSUE by the room of its queue, FENCEQ by its drained queues, and the ends of their waits. -/
theorem issueQueuesTheDescriptor : Obligations.IssueQueuesTheDescriptor := by
  intro g rd rs1 q nb s
  refine ⟨fun addr hr he => ⟨fun hready ha hl => ?_, fun hready ha hl => ?_⟩, fun qn rdn addr hwaits hw hl => ?_, fun hready => ?_,
    fun mask hwaits hw hd => ?_⟩
  · subst ha
    show execIssue g rd rs1 q nb s = _
    rw [execIssue, onInstr_ready hready, issue_room nb hr he hl]
  · subst ha
    show execIssue g rd rs1 q nb s = _
    rw [execIssue, onInstr_ready hready, issue_full nb hr he hl]
  · show execIssueQueueRoom g s = _
    rw [execIssueQueueRoom, onWait_waits hwaits, issueRoom_room hw hl]
  · show execFenceq g rs1 s = _
    rw [execFenceq, onInstr_ready hready, fenceq_eq]
  · show execFenceqDrained g s = _
    rw [execFenceqDrained, onWait_waits hwaits, fenceqDrained_fenceq hw hd]

/-- Settles O15: STEP by the hold, its release, EPOCH, and the mailbox half that is due. -/
theorem stepsAndEpochsRetire : Obligations.StepsAndEpochsRetire := by
  intro g rd rs1 s
  refine ⟨fun hready hh => ?_, fun hready hh => ?_, fun n hstop hw hh hd hl hdead => ?_, fun hready => ?_,
    fun n data hstop hep hdom hlen hn hdue => ?_⟩
  · show execStep g rs1 s = _
    rw [execStep, onInstr_ready hready, step_free hh]
  · show execStep g rs1 s = _
    rw [execStep, onInstr_ready hready, step_held hh]
    rfl
  · show execStepHoldRelease g s = _
    rw [execStepHoldRelease, onLive_runs s _ hstop, Chip.holdRelease, Chip.onGal, stepResume_free hw hh hd hl hdead]
  · show execEpoch g rd s = _
    rw [execEpoch, onInstr_ready hready]
    rfl
  · show execUsherMailboxWrite g n data s = _
    rw [execUsherMailboxWrite, onLive_runs s _ hstop, if_neg hep, mailboxWrite_due hlen hn hdue hdom]

/-- Settles O16: WAITC by POLL and its condition, the end and the limit of its wait, SIGC by its target, and the remote signal at the head. -/
theorem waitsAndSignalsRetire : Obligations.WaitsAndSignalsRetire := by
  intro g rd rs1 rs2 s
  refine ⟨fun hready => ?_, fun hready hm => ?_, fun hready hm ha => ?_, fun rdn c target hwaits hw hm => ?_, fun rdn c target hwaits hw hm hp => ?_,
    fun hready hb => ?_, fun hready hb hl hdom => ?_, fun hready hb h6 hl => ?_, fun src sig later hstop hs hsrc hdst ho hst => ?_⟩
  · show execWaitcPoll g rd rs1 rs2 s = _
    rw [execWaitcPoll, onInstr_ready hready, waitc_poll]
  · show execWaitc g rd rs1 rs2 s = _
    rw [execWaitc, onInstr_ready hready, waitc_met hm]
  · show execWaitc g rd rs1 rs2 s = _
    rw [execWaitc, onInstr_ready hready, waitc_unmet hm ha]
  · show execWaitcConditionMet g s = _
    rw [execWaitcConditionMet, onWait_waits hwaits, waitcMet_met hw hm hwaits.2.1]
  · show execWaitTimeout g s = _
    rw [execWaitTimeout, onWait_waits hwaits, waitTimeout_waitc hw hm hp]
  · show execSigcSet g rs1 rs2 s = _
    rw [execSigcSet, onInstr_ready hready, sigc_set hb]
  · show execSigc g rs1 rs2 s = _
    rw [execSigc, onInstr_ready hready, sigc_local hb hl, addCtr_up hdom]
  · show execSigc g rs1 rs2 s = _
    rw [execSigc, onInstr_ready hready, sigc_remote hb h6 hl]
  · show execRemoteSignalReceive src g s = _
    rw [execRemoteSignalReceive, onLive_runs s _ hstop, rsigReceive_head hs hsrc hdst ho hst]

/-- Settles O17: MARK by its stack, and the register writes on a gallery that takes them. -/
theorem marksAndGalleryRegisters : Obligations.MarksAndGalleryRegisters := by
  intro g rd rs1 s
  refine ⟨fun hready hm => ?_, fun m ms hready hm => ?_, fun hw => exec_gctlHalt hw false, fun hw hh hd => ?_, fun hw hd => ?_,
    fun mask hw => exec_gctlQrst hw mask, fun hw => onGalReg_writable hw _, fun v hw hst => ?_, fun hw => exec_coreParityError hw none,
    fun q hw => exec_coreParityError hw (some q)⟩
  · show execMarkPush g rd rs1 s = _
    rw [execMarkPush, onInstr_ready hready, markPush_room hm]
  · show execMarkPop g rd s = _
    rw [execMarkPop, onInstr_ready hready, markPop_top hm]
  · rw [exec_gctlHalt hw, if_pos rfl, haltClear_halted hh hd]
  · rw [exec_gctlHalt hw, if_pos rfl, haltClear_other hd]
  · show execGcredWrite g v s = _
    rw [execGcredWrite, onGalReg_writable hw, Chip.onGal, gcredWrite_stepped hst]

end Sys2Proof.Proofs
end

section
/-! SUPPORT. An error-log record writes registers in the towers' windows alone: the operations of the memory path that it goes through, in the order of the model's file. -/

namespace Sys2Proof.Laws

open Sys2Proof.Machine

/-- The registers below the towers' windows hold what they held. -/
structure LowKept (c d : Chip) : Prop where
  rd : ∀ off < 0x01000000, d.rd off = c.rd off

theorem LowKept.refl (c : Chip) : LowKept c c := ⟨fun _ _ => rfl⟩

theorem LowKept.trans {a b c : Chip} (h : LowKept a b) (g : LowKept b c) : LowKept a c := ⟨fun off ho => (g.rd off ho).trans (h.rd off ho)⟩

theorem LowKept.of_regs {c d : Chip} (h : d.regs = c.regs) : LowKept c d := ⟨fun off _ => by rw [Chip.rd, Chip.rd, h]⟩

theorem LowKept.ite {c a b : Chip} {p : Prop} [Decidable p] (ha : LowKept c a) (hb : LowKept c b) : LowKept c (if p then a else b) := by
  split <;> assumption

/-- The replacement state is no register. -/
theorem LowKept.touch_unless {c d : Chip} (h : LowKept c d) (b : Bool) (k : Nat) : LowKept c (if b = true then d else d.touch k false) :=
  .ite h (h.trans (.of_regs rfl))

variable (c : Chip)

theorem wr_lowKept {o : Nat} (h : 0x01000000 ≤ o) (v : Nat) : LowKept c (c.wr o v) := ⟨fun _ ho => rd_wr_other c v (by omega)⟩

theorem wrF_lowKept {o : Nat} (h : 0x01000000 ≤ o) (lo len v : Nat) : LowKept c (c.wrF o lo len v) := wr_lowKept c h _

theorem bump_lowKept {o : Nat} (h : 0x01000000 ≤ o) (lo len n : Nat) : LowKept c (c.bump o lo len n) := wrF_lowKept c h ..

theorem tower_le (t : Nat) : 0x01000000 ≤ Reg.tower t := by unfold Reg.tower; omega

theorem sliceStat_le (t k : Nat) : 0x01000000 ≤ Reg.sliceStat t k := by have := tower_le t; unfold Reg.sliceStat; omega

theorem sliceHits_le (t k : Nat) : 0x01000000 ≤ Reg.sliceHits t k := by have := tower_le t; unfold Reg.sliceHits; omega

theorem sliceMisses_le (t k : Nat) : 0x01000000 ≤ Reg.sliceMisses t k := by have := tower_le t; unfold Reg.sliceMisses; omega

theorem elidx_le (t : Nat) : 0x01000000 ≤ Reg.elidx t := by have := tower_le t; unfold Reg.elidx; omega

theorem setWay_lowKept (k : Nat) (w : Option CacheWay) : LowKept c (c.setWay k w) := by
  unfold Chip.setWay
  dsimp only
  refine LowKept.trans ?_ (wrF_lowKept _ (sliceStat_le ..) ..)
  refine LowKept.trans ?_ (wrF_lowKept _ (sliceStat_le ..) ..)
  exact .of_regs rfl

theorem vaultWrite_lowKept (l : Nat) (d : Line) (p : Bool) : LowKept c (c.vaultWrite l d p) := by
  unfold Chip.vaultWrite
  dsimp only
  split
  · exact .of_regs rfl
  · exact .of_regs (dramWrite_regs c l d p)

theorem evict_lowKept (k : Nat) : LowKept c (c.evict k) := by
  unfold Chip.evict
  split
  · dsimp only
    split
    · exact (vaultWrite_lowKept ..).trans (setWay_lowKept ..)
    · exact setWay_lowKept ..
  · exact .refl c

theorem pinWay_lowKept (k : Nat) (o : PinOwner) : LowKept c (c.pinWay k o) := by
  unfold Chip.pinWay
  split
  · split
    · exact .refl c
    · split
      · exact bump_lowKept _ (sliceStat_le ..) ..
      · exact setWay_lowKept ..
  · exact .refl c

theorem pinFor_lowKept (k ah : Nat) (w : Requester) : LowKept c (c.pinFor k ah w) := by
  unfold Chip.pinFor
  split
  · exact pinWay_lowKept ..
  · exact .refl c

theorem fillWay_lowKept (l : Nat) (d : Line) (b p : Bool) : LowKept c (c.fillWay l d b p).1 := by
  unfold Chip.fillWay
  split
  · split
    · exact setWay_lowKept ..
    · exact .refl c
  · exact (evict_lowKept ..).trans (setWay_lowKept ..)

theorem backInvalidate_lowKept (l : Nat) : LowKept c (c.backInvalidate l) := by
  unfold Chip.backInvalidate
  dsimp only
  generalize hx : Chip.reissue _ _ = x
  have hregs : x.regs = c.regs := by rw [← hx]; rfl
  refine (LowKept.of_regs hregs).trans ?_
  split
  · split
    · split
      · exact setWay_lowKept ..
      · exact setWay_lowKept ..
    · exact .refl x
  · exact .refl x

theorem backFirst_lowKept (l : Nat) : LowKept c (c.backFirst l) := by
  unfold Chip.backFirst
  split
  · exact backInvalidate_lowKept ..
  · exact .refl c

theorem countHit_lowKept (l : Nat) (b : Bool) : LowKept c (c.countHit l b) := by
  cases b
  · exact wr_lowKept c (sliceMisses_le ..) _
  · exact wr_lowKept c (sliceHits_le ..) _

theorem hitWrite_lowKept (l k : Nat) (w : CacheWay) (m : BitVec 64) (d : Line) (ah : Nat) (who : Requester) :
    LowKept c (c.hitWrite l k w m d ah who) := by
  unfold Chip.hitWrite
  dsimp only
  refine LowKept.trans (LowKept.touch_unless ?_ ..) (pinFor_lowKept ..)
  split
  · exact (setWay_lowKept ..).trans (vaultWrite_lowKept ..)
  · exact setWay_lowKept ..

theorem missWrite_lowKept (l : Nat) (b : Bool) (d : Line) (p : Bool) (ah : Nat) (who : Requester) : LowKept c (c.missWrite l b d p ah who) := by
  unfold Chip.missWrite
  dsimp only
  generalize hx : (if c.inRange l = true then c.vaultWrite l d p else c) = x
  have hkept : LowKept c x := hx ▸ .ite (vaultWrite_lowKept ..) (.refl c)
  refine hkept.trans ?_
  split
  · exact .refl x
  · split
    · exact .ite (.refl x) (vaultWrite_lowKept ..)
    · exact (fillWay_lowKept ..).trans ((LowKept.of_regs (touch_regs ..)).trans (pinFor_lowKept ..))

theorem logMerge_lowKept (l : Nat) (m : BitVec 64) (d : Line) : LowKept c (c.logMerge l m d) := by
  unfold Chip.logMerge
  dsimp only
  refine (backFirst_lowKept c l).trans ?_
  split
  · exact (countHit_lowKept ..).trans (hitWrite_lowKept ..)
  · exact (countHit_lowKept ..).trans (missWrite_lowKept ..)

theorem pokeNow_lowKept (l : Nat) (m : BitVec 64) (d : Line) : LowKept c (c.pokeNow l m d) := by
  unfold Chip.pokeNow
  dsimp only
  refine LowKept.trans ?_ (.of_regs (dramWrite_regs ..))
  refine (backFirst_lowKept c l).trans ?_
  split
  · exact setWay_lowKept ..
  · exact .refl _

theorem logWrite_lowKept (a : Nat) (bs : List Byte) : LowKept c (c.logWrite a bs) := by
  unfold Chip.logWrite
  generalize bs.length / 64 + 2 = n
  induction n generalizing c a bs with
  | zero => exact .refl c
  | succ n ih =>
    unfold Chip.pokeGo
    split
    · exact .refl c
    · refine LowKept.trans ?_ (ih ..)
      unfold Chip.pokeBy
      split
      · exact logMerge_lowKept ..
      · exact .refl c
      · exact pokeNow_lowKept ..

theorem errLog_lowKept (t u l pp : Nat) (pl : Nat × Nat × Nat) (k s : Nat) (sy : List Nat) (w : Option Requester) :
    LowKept c (c.errLog t u l pp pl k s sy w) := by
  unfold Chip.errLog
  dsimp only
  generalize hx : (if (ueKind k && w != some .bar2) = true then ({ c with host := { c.host with aerInternal := true } } : Chip) else c) = x
  have hregs : x.regs = c.regs := by rw [← hx]; split <;> rfl
  refine (LowKept.of_regs hregs).trans ?_
  split
  · refine LowKept.trans ?_ (wrF_lowKept _ (elidx_le t) ..)
    refine LowKept.trans ?_ (logWrite_lowKept ..)
    exact .of_regs rfl
  · exact bump_lowKept _ (elidx_le t) ..

theorem galLog_lowKept (g : GalId) (kind src : Nat) : LowKept c (c.galLog g kind src) := errLog_lowKept ..

/-- A record of a gallery leaves the galleries and the reports to the usher. -/
theorem galLog_gals (g : GalId) (kind src : Nat) : (c.galLog g kind src).gals = c.gals ∧ (c.galLog g kind src).reports = c.reports := by
  obtain ⟨⟨_, _, _, _, h⟩, _⟩ := errLog_memStep c g.tower.val (416 + galKey g) 0 g.pos.val (0, 0, 0) kind src [] (some (.gallery g))
  unfold Chip.galLog
  rw [h]
  exact ⟨rfl, rfl⟩

theorem galLog_gal (g : GalId) (kind src k : Nat) : (c.galLog g kind src).gal k = c.gal k := by rw [Chip.gal, (galLog_gals c g kind src).1, Chip.gal]

end Sys2Proof.Laws
end

section
/-! SUPPORT. Errors found on a read, and traps: what they leave of the gallery, and that the module goes on. -/

namespace Sys2Proof.Laws

open Sys2Proof.Machine

/-! ### Galleries that are live or switched on are not at reset -/

theorem live_ne_reset {G : Gallery} (h : G.live = true) : G ≠ Gallery.reset := by
  rintro rfl
  cases h

theorem online_ne_reset {G : Gallery} (h : (G.dom != .off || G.shadow) = true) : G ≠ Gallery.reset := by
  rintro rfl
  cases h

theorem live_online {G : Gallery} (h : G.live = true) : (G.dom != .off || G.shadow) = true := by
  unfold Gallery.live at h
  revert h
  cases G.dom <;> simp

/-- A gallery that stays live is there after it is put back. -/
theorem gal_onGal_live {c : Chip} {k : Nat} {f : Gallery → Gallery} (h : (f (c.gal k)).live = true) : (c.onGal k f).gal k = f (c.gal k) :=
  gal_setGal c k _ (live_ne_reset h)

/-! ### Errors found on a read (R86, R487) -/

/-- b is a with other marks of errors. -/
def MarksOnly (a b : Gallery) : Prop :=
  ∃ ecc wbad bad0 bad1, b = { a with ecc := ecc, mx := { a.mx with wbad := wbad }, vx0 := { a.vx0 with bad := bad0 }, vx1 := { a.vx1 with bad := bad1 } }

theorem MarksOnly.refl (a : Gallery) : MarksOnly a a := ⟨_, _, _, _, rfl⟩

theorem MarksOnly.trans {a b c : Gallery} (h : MarksOnly a b) (g : MarksOnly b c) : MarksOnly a c := by
  obtain ⟨_, _, _, _, rfl⟩ := h
  obtain ⟨_, _, _, _, rfl⟩ := g
  exact ⟨_, _, _, _, rfl⟩

theorem MarksOnly.live {a b : Gallery} (h : MarksOnly a b) : b.live = a.live := by obtain ⟨_, _, _, _, rfl⟩ := h; rfl

/-- What errors found by live gallery k leave: the registers below the towers' windows, and of the gallery all but its marks. -/
def ErrorsFound (k : Nat) (c d : Chip) : Prop := LowKept c d ∧ ((c.gal k).live = true → MarksOnly (c.gal k) (d.gal k))

theorem ErrorsFound.refl (k : Nat) (c : Chip) : ErrorsFound k c c := ⟨.refl c, fun _ => .refl _⟩

theorem ErrorsFound.trans {k : Nat} {a b c : Chip} (h : ErrorsFound k a b) (g : ErrorsFound k b c) : ErrorsFound k a c := by
  obtain ⟨hregs, hgal⟩ := h
  obtain ⟨gregs, ggal⟩ := g
  exact ⟨hregs.trans gregs, fun hl => (hgal hl).trans (ggal ((hgal hl).live.trans hl))⟩

theorem galLog_errorsFound (c : Chip) (g : GalId) (kind src k : Nat) : ErrorsFound k c (c.galLog g kind src) :=
  ⟨galLog_lowKept .., fun _ => by rw [galLog_gal]; exact .refl _⟩

theorem onGal_errorsFound (c : Chip) (k : Nat) {f : Gallery → Gallery} (hf : ∀ G, MarksOnly G (f G)) : ErrorsFound k c (c.onGal k f) := by
  refine ⟨.of_regs rfl, fun hl => ?_⟩
  rw [gal_onGal_live ((hf _).live.trans hl)]
  exact hf _

/-- A marked word, logged. -/
theorem marked_errorsFound (c : Chip) (g : GalId) (kind src k : Nat) {f : Gallery → Gallery} (hf : ∀ G, MarksOnly G (f G)) :
    ErrorsFound k c ((c.onGal k f).galLog g kind src) :=
  (onGal_errorsFound c k hf).trans (galLog_errorsFound ..)

/-- A word of a memory of the gallery: marked where its code cannot correct it. -/
theorem memUpset_errorsFound (c : Chip) (g : GalId) (bad : Bool) (src key : Nat) :
    ErrorsFound (galKey g) c (if bad then (c.onGal (galKey g) fun x => { x with ecc := Store.put noMark x.ecc key true }).galLog g 7 src
      else c.galLog g 6 src) := by
  split
  · exact marked_errorsFound _ _ _ _ _ fun G => ⟨_, G.mx.wbad, G.vx0.bad, G.vx1.bad, rfl⟩
  · exact galLog_errorsFound ..

theorem upset_errorsFound (c : Chip) (g : GalId) (u : GalUpset) : ErrorsFound (galKey g) c (c.upset g u) := by
  unfold Chip.upset
  dsimp only
  split
  · exact memUpset_errorsFound ..
  · exact memUpset_errorsFound ..
  · exact memUpset_errorsFound ..
  · exact marked_errorsFound _ _ _ _ _ fun G => ⟨G.ecc, _, G.vx0.bad, G.vx1.bad, rfl⟩
  · refine marked_errorsFound _ _ _ _ _ fun G => ?_
    split
    · exact ⟨G.ecc, G.mx.wbad, _, G.vx1.bad, rfl⟩
    · exact ⟨G.ecc, G.mx.wbad, G.vx0.bad, _, rfl⟩

theorem upsets_errorsFound (g : GalId) (errs : List GalUpset) (c : Chip) : ErrorsFound (galKey g) c (upsets g errs c) := by
  induction errs generalizing c with
  | nil => exact .refl _ c
  | cons u us ih => exact (upset_errorsFound c g u).trans (ih _)

theorem LowKept.stopped {c d : Chip} (h : LowKept c d) : d.stopped = c.stopped := by
  rw [Chip.stopped, Chip.bit, h.rd _ (by decide), Chip.stopped, Chip.bit]

theorem LowKept.epoch {c d : Chip} (h : LowKept c d) : d.epoch = c.epoch := by
  rw [Chip.epoch, Chip.rdF, h.rd _ (by decide), Chip.epoch, Chip.rdF]

/-! ### Events do not stop the module at once (R541, R553) -/

/-- A Whistle request stands, or waits for a bring-up step. -/
theorem requestWhistle_running {c : Chip} (h : c.stopped = false) (n : Nat) : (c.requestWhistle n).stopped = false := by
  have hwait : (c.wrF Reg.wstat 1 1 1).stopped = false := by
    have hbit (i : Nat) (hi : i < 64) : (setField (c.rd Reg.wstat) 1 1 1 % 2 ^ 64).testBit i = if i = 1 then true else (c.rd Reg.wstat).testBit i := by
      rw [Nat.testBit_mod_two_pow, decide_eq_true hi, Bool.true_and, testBit_setField]
      by_cases h1 : i = 1
      · subst h1; rfl
      · rw [if_neg (by omega), if_neg h1]
    have hchanged : BitVec.ofNat 64 (setField (c.rd Reg.wstat) 1 1 1) ≠ regReset Reg.wstat := by
      intro e
      have h1 := hbit 1 (by decide)
      rw [← BitVec.toNat_ofNat, e] at h1
      cases h1
    rw [Chip.stopped, Chip.bit, bitOf_eq_testBit] at h ⊢
    rw [Chip.wrF, rd_wr_changed _ _ _ hchanged, hbit 0 (by decide), if_neg (by decide), h]
  unfold Chip.requestWhistle
  rw [if_neg (by rw [h]; decide)]
  dsimp only
  split
  · exact hwait
  · exact h

theorem stopped_wr_other {c : Chip} {o : Nat} (h : o ≠ Reg.wstat) (v : Nat) : (c.wr o v).stopped = c.stopped := by
  rw [Chip.stopped, Chip.bit, rd_wr_other c v h.symm, Chip.stopped, Chip.bit]

theorem trig_ne_wstat (j : Nat) : Reg.trig j ≠ Reg.wstat := by unfold Reg.trig Reg.wstat; omega

theorem trigger_running {c : Chip} (h : c.stopped = false) (t u k r j : Nat) : (c.trigger t u k r j).stopped = false := by
  unfold Chip.trigger
  dsimp only
  split
  · split
    · exact requestWhistle_running ((stopped_wr_other (trig_ne_wstat j) _).trans h) 3
    · exact (stopped_wr_other (trig_ne_wstat j) _).trans h
  · exact h

theorem event_running {c : Chip} (h : c.stopped = false) (t u k r d : Nat) : (c.event t u k r d).stopped = false := by
  have htriggers : ([0, 1, 2, 3].foldl (fun c j => c.trigger t u k r j) c).stopped = false :=
    trigger_running (trigger_running (trigger_running (trigger_running h ..) ..) ..) ..
  unfold Chip.event
  dsimp only
  split
  · exact htriggers
  · split
    · exact htriggers
    · exact (stopped_wr_other (by have := tower_le t; unfold Reg.evdrop Reg.wstat; omega) _).trans htriggers

theorem galTrap_running {c : Chip} (h : c.stopped = false) (k : Nat) (cause tval : Word) : (c.galTrap k cause tval).stopped = false := by
  unfold Chip.galTrap
  dsimp only
  refine event_running (event_running (event_running ?_ ..) ..) ..
  exact h

/-! ### Traps of a core that does not wait (R87, R90) -/

/-- The gallery after the beats of a trap's entry. -/
def entryBeats (G : Gallery) : Gallery := { G.rngBeats G.hart.freeBeats with hart := G.hart.pass G.hart.freeBeats }

section
variable {c : Chip} {k : Nat} (hw : (c.gal k).waiting = none)
include hw

theorem trapping_eq : c.trapping k = entryBeats (c.gal k) := by
  unfold Chip.trapping
  rw [hw]
  rfl

/-- With no trap active the handler is entered. -/
theorem galTrap_enters (ht : (c.gal k).tact = false) (cause tval : Word) :
    (c.galTrap k cause tval).gal k =
      { entryBeats (c.gal k) with hart := (entryBeats (c.gal k)).hart.trapEntry cause tval (c.gal k).hart.pc, tact := true } := by
  have htact : (entryBeats (c.gal k)).tact = false := ht
  rw [(galTrap_gal c k cause tval).1, trapping_eq hw, htact, if_neg (by decide), ← hw]
  rfl

/-- With a trap active the core halts. -/
theorem galTrap_halts (ht : (c.gal k).tact = true) (cause tval : Word) :
    (c.galTrap k cause tval).gal k = { entryBeats (c.gal k) with halt := true, waitAt := c.act } := by
  have htact : (entryBeats (c.gal k)).tact = true := ht
  rw [(galTrap_gal c k cause tval).1, trapping_eq hw, htact, if_pos rfl, ← hw]
  rfl

/-- The usher gets a record of the trap. -/
theorem galTrap_record (cause tval : Word) : .trap k (c.gal k).tact (c.gal k).lgal.toNat cause (c.gal k).hart.pc tval (c.gal k).gstep c.epoch
    (c.gal k).topRange ∈ (c.galTrap k cause tval).reports := by
  rw [(galTrap_gal c k cause tval).2, trapping_eq hw]
  exact List.mem_append_right _ (List.mem_singleton.mpr rfl)

end

/-- A half word that does not lie whole in instruction memory is not fetched. -/
theorem fetchRv_outside {G : Gallery} {pc : Nat} (h : 0x10000 < pc + 2) : fetchRv G.fetchHalf pc = .error (1, pc) := by
  have hnone : G.fetchHalf pc = none := if_neg fun hin => by omega
  simp only [fetchRv, hnone]

theorem galRuns_iff (c : Chip) (k : Nat) :
    c.galRuns k = true ↔ c.stopped = false ∧ (c.gal k).live = true ∧ (c.gal k).halt = false ∧ (c.gal k).dead = false := by
  simp [Chip.galRuns, and_assoc]

/-- A core that is ready is ready after the errors that its reads find. -/
theorem ErrorsFound.coreReady {k : Nat} {c d : Chip} (h : ErrorsFound k c d) (hready : c.CoreReady k) : d.CoreReady k := by
  obtain ⟨hregs, hmarks⟩ := h
  obtain ⟨hruns, hirq, hwait⟩ := hready
  obtain ⟨hstop, hlive, hhalt, hdead⟩ := (galRuns_iff c k).mp hruns
  obtain ⟨_, _, _, _, hgal⟩ := hmarks hlive
  rw [Chip.CoreReady, galRuns_iff, hgal]
  exact ⟨⟨hregs.stopped.trans hstop, hlive, hhalt, hdead⟩, hirq, hwait⟩

/-- A core that enters its handler is ready: it runs with interrupts off. -/
theorem galTrap_coreReady {c : Chip} {k : Nat} (hready : c.CoreReady k) (ht : (c.gal k).tact = false) (cause tval : Word) :
    (c.galTrap k cause tval).CoreReady k := by
  obtain ⟨hruns, _, hwait⟩ := hready
  obtain ⟨hstop, hlive, hhalt, hdead⟩ := (galRuns_iff c k).mp hruns
  rw [Chip.CoreReady, galRuns_iff, galTrap_enters hwait ht]
  exact ⟨⟨galTrap_running hstop k cause tval, hlive, hhalt, hdead⟩, rfl, hwait⟩

/-- A core whose pc lies outside instruction memory traps at it (R59). -/
theorem exec_fetchOutside {s : State} {g : GalId} (hready : s.chip.CoreReady (galKey g))
    (hpc : 0x10000 < (s.chip.gal (galKey g)).hart.pc.toNat + 2) :
    exec (.scalarInstruction ⟨g, []⟩) s = .next { s with chip := s.chip.galTrap (galKey g) 1 (BitVec.ofNat 32 (s.chip.gal (galKey g)).hart.pc.toNat) } := by
  rw [exec_scalarInstruction hready []]
  exact congrArg (fun d => Host.Outcome.next { s with chip := d }) (scalarInstr_fetchError (fetchRv_outside hpc))

end Sys2Proof.Laws

namespace Sys2Proof.Proofs
open Sys2Proof.Machine Sys2Proof.Laws

/-- Settles O57: errors found leave the core ready, a trap with TACT = 0 enters and one with TACT = 1 halts, and a handler outside instruction memory
traps at its first fetch. -/
theorem trapsEnterOnce : Obligations.TrapsEnterOnce := by
  intro g errs s hready k c1 G T
  have herrs : ErrorsFound k s.chip c1 := upsets_errorsFound g errs s.chip
  have hready1 : c1.CoreReady k := herrs.coreReady hready
  have hwait : G.waiting = none := hready1.2.2
  have hT : T = entryBeats G := trapping_eq hwait
  have hexec {len : Nat} {i : Rv} {cause tval : Word} (hf : fetchRv G.fetchHalf G.hart.pc.toNat = .ok (len, i))
      (he : rvExec G.hart i len = .trap cause tval) :
      exec (.scalarInstruction ⟨g, errs⟩) s = .next { s with chip := c1.galTrap k cause tval } := by
    rw [exec_scalarInstruction hready errs, scalarInstr_trap hf he]
  refine ⟨⟨G.hart.freeBeats, hT⟩, fun len i cause tval hf he => ?_, ⟨_, exec_mret hready, ?_⟩, fun len i cause tval hf he ht hvec => ?_⟩
  · have hrec := galTrap_record hwait cause tval
    rw [herrs.1.epoch] at hrec
    refine ⟨_, hexec hf he, fun ht => ⟨?_, G.lgal.toNat, ?_⟩, fun ht => ⟨?_, G.lgal.toNat, ?_⟩⟩
    · rw [hT]; exact galTrap_enters hwait ht cause tval
    · rw [← ht]; exact hrec
    · rw [hT]; exact galTrap_halts hwait ht cause tval
    · rw [← ht]; exact hrec
  · have hlive := ((galRuns_iff s.chip k).mp hready.1).2.1
    have hmret : (s.chip.galMret k).gal k = { s.chip.gal k with hart := (s.chip.gal k).hart.mretTo, tact := false } := gal_onGal_live hlive
    exact congrArg Gallery.tact hmret
  · let t : State := { s with chip := c1.galTrap k cause tval }
    have hentered := galTrap_enters hwait ht cause tval
    have hready2 : t.chip.CoreReady k := galTrap_coreReady hready1 ht cause tval
    have htact : (t.chip.gal k).tact = true := congrArg Gallery.tact hentered
    have hpc : (t.chip.gal k).hart.pc = G.hart.mtvec := congrArg (fun H => H.hart.pc) hentered
    have hhalts := galTrap_halts hready2.2.2 htact 1 (BitVec.ofNat 32 (t.chip.gal k).hart.pc.toNat)
    refine ⟨t, _, hexec hf he, exec_fetchOutside hready2 (by rw [hpc]; omega), htact, congrArg Gallery.halt hhalts,
      (congrArg Gallery.tact hhalts).trans htact, ?_⟩
    rw [hhalts]
    rfl

/-- Settles O58: the log record leaves what the parity error did, and a core or queue that is halted does not run. -/
theorem coreParityErrorHalts : Obligations.CoreParityErrorHalts := by
  intro g s hw k G
  have hne {H : Gallery} (hd : H.dom = G.dom) (hs : H.shadow = G.shadow) : H ≠ Gallery.reset := online_ne_reset (by rw [hd, hs]; exact hw.2)
  refine ⟨⟨_, exec_coreParityError hw none, rfl, ?_⟩, fun q => ⟨_, exec_coreParityError hw (some q), rfl, ?_⟩⟩
  · let H : Gallery := { G.haltAt s.chip.act with dead := true }
    let d := ((s.chip.setGal k H).report (.machineCheck k true 0)).galLog g 8 9
    have hgal : d.gal k = H := (galLog_gal ..).trans (gal_setGal s.chip k H (hne rfl rfl))
    have hheld : d.galRuns k = false := by
      rw [Chip.galRuns, hgal, show H.dead = true from rfl, Bool.not_true, Bool.and_false]
    refine ⟨congrArg Gallery.halt hgal, (congrArg Gallery.hart hgal :), (congrArg Gallery.tact hgal :), ?_, fun errs => onInstr_held { s with chip := d } g _ hheld⟩
    show UsherMsg.machineCheck k true 0 ∈ d.reports
    rw [(galLog_gals ..).2]
    exact List.mem_append_right _ (List.mem_singleton.mpr rfl)
  · let v : Queue := { G.queue (queueNum q) with halted := true }
    let H : Gallery := G.setQueue (queueNum q) v
    let d := ((s.chip.setGal k H).report (.machineCheck k false (queueNum q))).galLog g 8 9
    have hgal : d.gal k = H := (galLog_gal ..).trans (gal_setGal s.chip k H (hne rfl rfl))
    have hqueue : (d.gal k).queue (queueNum q) = v := by
      rw [hgal]
      exact get_put_changed _ _ v fun e => by cases congrArg Queue.halted e
    have hheld : d.queueRuns k (queueNum q) = false := by
      rw [Chip.queueRuns, hqueue, show v.halted = true from rfl, Bool.not_true, Bool.and_false, Bool.false_and]
    refine ⟨hqueue, (congrArg Gallery.hart hgal :), (congrArg Gallery.tact hgal :), (congrArg Gallery.fault hgal :), hheld, ?_⟩
    show UsherMsg.machineCheck k false (queueNum q) ∈ d.reports
    rw [(galLog_gals ..).2]
    exact List.mem_append_right _ (List.mem_singleton.mpr rfl)

end Sys2Proof.Proofs
end

section
/-! SUPPORT. Descriptors at their queues (R72, R73, R78, R79): what the start, the completion and the two that run on every queue do where their conditions hold. -/

namespace Sys2Proof.Laws

open Sys2Proof.Machine

/-- How a descriptor that may start stands at once, and its target mask: with an illegal body it has ended, and a multicast may (R82, R212). -/
def startState (G : Gallery) (k q : Nat) (d : Desc) : EntrySt × Nat :=
  if bodyBad q (k / 104) d then (.ended 1, 0)
  else if q = 4 ∧ descOpc d = 0xA1 then (match G.mcastMask d with | .error m => (.ended m, 0) | .ok m => (.running, m))
  else (.running, 0)

/-- The gallery with entry e of queue q started. -/
def startedGallery (G : Gallery) (k q : Nat) (e : QEntry) (now : DWord) : Gallery :=
  let st := startState G k q e.desc
  let G1 := G.setEntry q { e with st := st.1, since := now, mask := st.2 }
  if q = 1 ∨ q = 2 then G1.setVx (q - 1) { G1.vx (q - 1) with opc := BitVec.ofNat 8 (descOpc e.desc) } else G1

/-- The module with the event of a descriptor that asks for OBS (R74). -/
def observed (c : Chip) (k q kind : Nat) (e : QEntry) : Chip :=
  if bitOf e.desc.toNat 10 then c.event (k / 104) (k % 104) kind (descRange e.desc) (descData q e 0) else c

section
variable {c : Chip} {k q : Nat} {e : QEntry}

theorem descStart_starts (he : (((c.gal k).queue q).entries.find? fun x => x.st == .waiting) = some e) (hruns : c.queueRuns k q = true)
    (hfault : ∀ x ∈ (c.gal k).earlier q e.index, ∀ m : Nat, x.st = .ended m → m = 0)
    (hslot : slotOk q (c.gal k).mx.stopped e.desc ((c.gal k).earlier q e.index) = true) :
    c.descStart k q = (observed c k q 1 e).setGal k
      (startedGallery ((observed c k q 1 e).gal k) k q e (observed c k q 1 e).act) := by
  have hnone : (((c.gal k).earlier q e.index).any fun x => match x.st with | .ended n => n != 0 | _ => false) = false := by
    refine List.any_eq_false.mpr fun x hx hbad => ?_
    cases hst : x.st with
    | ended m => simp [hst, hfault x hx m hst] at hbad
    | waiting => simp [hst] at hbad
    | running => simp [hst] at hbad
    | sent m => simp [hst] at hbad
  unfold Chip.descStart
  simp only [he]
  rw [if_neg]
  · rfl
  · rw [hruns, hslot, Bool.not_true, Bool.or_false, Bool.false_or]
    exact Bool.eq_false_iff.mp hnone

/-- A descriptor that ended with status 0 is the next to complete: the head of a queue that completes in order, the oldest ended one elsewhere. -/
theorem nextDone_oldest {v : Queue} {before after : List QEntry} (hv : v.entries = before ++ e :: after)
    (hb : ∀ x ∈ before, ∀ m : Nat, x.st ≠ .ended m) (hq : q < 3 → before = []) (he : e.st = .ended 0) : v.nextDone q = some e := by
  have hfirst (p : QEntry → Bool) (hp : ∀ x, p x = true → ∃ m, x.st = .ended m) (hpe : p e = true) : v.entries.find? p = some e := by
    have hbefore : before.find? p = none := List.find?_eq_none.mpr fun x hx hpx => by
      obtain ⟨m, hm⟩ := hp x hpx
      exact hb x hx m hm
    rw [hv, List.find?_append, hbefore, Option.none_or, List.find?_cons_of_pos hpe]
  unfold Queue.nextDone
  dsimp only
  split
  · rw [hv, hq ‹_›]
    simp [he, Option.filter]
  · have hended : ∀ x : QEntry, (match x.st with | .ended _ => true | _ => false) = true → ∃ m, x.st = .ended m := by
      intro x hx
      cases hst : x.st with
      | ended m => exact ⟨m, rfl⟩
      | waiting => simp [hst] at hx
      | running => simp [hst] at hx
      | sent m => simp [hst] at hx
    split
    · rw [hfirst (fun x => x.st == .ended 0) (fun x hx => ⟨0, by simpa using hx⟩) (by simp [he])]
    · exact hfirst _ hended (by simp [he])

/-- The gallery with entry e of queue q completed: DONE and, for SIG, a counter count it. -/
def completedGallery (G : Gallery) (q : Nat) (e : QEntry) : Gallery :=
  let v := G.queue q
  let G1 := G.setQueue q { v with entries := (v.entries.filter fun x => x.index != e.index), done := v.done + 1 }
  if bitOf e.desc.toNat 8 then G1.addCtr (field e.desc.toNat 16 6) 1 else G1

theorem descComplete_done (hn : ((c.gal k).queue q).nextDone q = some e) (he : e.st = .ended 0) (hh : ((c.gal k).queue q).halted = false)
    (hs : c.stopped = false) (hm : q = 0 → (c.gal k).mx.stopped = false) :
    c.descComplete k q = ((observed c k q 2 e).setGal k (completedGallery ((observed c k q 2 e).gal k) q e)).heldCredit k := by
  have hgo : (((c.gal k).queue q).halted || c.stopped || (q == 0 && (c.gal k).mx.stopped)) = false := by
    rw [hh, hs]
    by_cases hq : q = 0
    · simp [hm hq]
    · simp [hq]
  unfold Chip.descComplete
  simp only [hn, he, hgo]
  rfl

/-- An operation on the first descriptor in flight with an opcode. -/
theorem endEntry_running {G : Gallery} {opc st : Nat} {f : Desc → Option Nat} (he : G.runningEntry q (· == opc) = some e) (hf : f e.desc = some st) :
    G.endEntry q opc f = G.setEntry q { e with st := .ended st } := by
  simp only [Gallery.endEntry, he, hf]

end

end Sys2Proof.Laws

namespace Sys2Proof.Proofs
open Sys2Proof.Machine Sys2Proof.Laws

/-- Settles O18: the start and the completion of the descriptor that is due, and NOP and QWAIT in flight. -/
theorem descriptorsStartAndComplete : Obligations.DescriptorsStartAndComplete := by
  intro g q e s
  refine ⟨fun errs he hruns hruns1 hfault hslot => ?_, fun before after hv hb hq he hh hs hm => ?_, fun hin => ?_, fun hin hmet => ?_,
    fun hin hmet hlim => ?_⟩
  · show execDescriptorStart ⟨g, errs⟩ q s = _
    rw [execDescriptorStart, onChip_next, if_pos hruns, descStart_starts he hruns1 hfault hslot]
    rfl
  · show execDescriptorComplete g q s = _
    rw [execDescriptorComplete, onChip_next, descComplete_done (nextDone_oldest hv hb hq he) he hh hs hm]
    rfl
  · show execNop g q s = _
    rw [execNop, onQueue_runs s g _ _ hin.1, Chip.onGal, endEntry_running hin.2 rfl]
  · show execQwait g q s = _
    rw [execQwait, onQueue_runs s g _ _ hin.1, Chip.onGal, endEntry_running hin.2 (if_pos hmet)]
  · show execQwaitTimeout g q s = _
    have hunmet : (s.chip.pastLimit (galKey g) e.since && !(s.chip.gal (galKey g)).qwaitMet e.desc) = true := by
      rw [hlim, Gallery.qwaitMet, hmet]; rfl
    rw [execQwaitTimeout, onQueue_runs s g _ _ hin.1]
    simp only [Chip.onGal, hin.2, hunmet, if_true]

end Sys2Proof.Proofs
end

section
/-! SUPPORT. What the operations of a matrix or vector core leave of their gallery: everything but the core, its queue, the scratchpad, and the
counts of skipped and of spent work. -/

namespace Sys2Proof.Laws

open Sys2Proof.Machine

/-- What of a gallery the core of queue q may not write: the matrix core for q = 0, the vector core q − 1 above. What it may write is blanked,
so that two galleries which differ in nothing else have the same outside. -/
def outside (q : Nat) (g : Gallery) : Gallery × (Nat → Queue) :=
  ({ g with spad := [], ecc := [], queues := [], skip := [], rng := [], mx := if q = 0 then MxCore.reset else g.mx,
            vx0 := if q = 1 then VCore.reset else g.vx0, vx1 := if 2 ≤ q then VCore.reset else g.vx1 },
   fun n => if n = q then queueDefault q else g.queue n)

/-- A step of a row that answers a gallery answers one with the same outside. -/
def Kept (q : Nat) (g : Gallery) (r : Except Nat Gallery) : Prop := ∀ g', r = .ok g' → outside q g' = outside q g

section
variable {q : Nat} {a b g : Gallery}

theorem onlyMx_of_outside (h : outside 0 b = outside 0 a) : a.OnlyMx b := by
  obtain ⟨hg, hq⟩ := Prod.mk.inj h
  refine ⟨?_, fun n hn => by simpa [hn] using congrFun hq n⟩
  cases a
  cases b
  simpa using hg

theorem onlyVx_of_outside {i : Nat} (h : outside (1 + i) b = outside (1 + i) a) : a.OnlyVx b i := by
  obtain ⟨hg, hq⟩ := Prod.mk.inj h
  refine ⟨?_, fun n hn => by simpa [hn] using congrFun hq n⟩
  cases a
  cases b
  rcases i with _ | i
  · simpa using hg
  · simpa [show 2 ≤ 1 + (i + 1) by omega] using hg

theorem online_of_outside (h : outside q b = outside q a) : (b.dom != .off || b.shadow) = (a.dom != .off || a.shadow) := by
  have hdom : b.dom = a.dom := congrArg (fun o => o.1.dom) h
  have hshadow : b.shadow = a.shadow := congrArg (fun o => o.1.shadow) h
  rw [hdom, hshadow]

@[simp] theorem kept_error (st : Nat) : Kept q g (.error st) := fun _ h => nomatch h

@[simp] theorem kept_ok {g' : Gallery} : Kept q g (.ok g') ↔ outside q g' = outside q g :=
  ⟨fun h => h g' rfl, fun h _ hg => Except.ok.inj hg ▸ h⟩

theorem outside_ite {α : Type} {p : Prop} [Decidable p] {r s : Gallery × α} {o : Gallery × (Nat → Queue)} (hr : outside q r.1 = o)
    (hs : outside q s.1 = o) : outside q (if p then r else s).1 = o := by
  split
  · exact hr
  · exact hs

/-! ### The operations that every core uses -/

@[simp] theorem outside_spadWrite (o : Nat) (bs : List Byte) : outside q (g.spadWrite o bs) = outside q g := rfl

@[simp] theorem outside_skipAdd (i n : Nat) : outside q (g.skipAdd i n) = outside q g := rfl

@[simp] theorem outside_rngAdd (id j n : Nat) : outside q (g.rngAdd id j n) = outside q g := rfl

@[simp] theorem outside_setEntry (e : QEntry) : outside q (g.setEntry q e) = outside q g := by
  refine Prod.ext rfl (funext fun n => ?_)
  by_cases hn : n = q
  · simp [outside, hn]
  · simp only [outside, if_neg hn]
    exact get_put_other _ _ hn

@[simp] theorem outside_setVx (i : Nat) (v : VCore) : outside (1 + i) (g.setVx i v) = outside (1 + i) g := by
  rcases i with _ | i
  · rfl
  · simp [outside, Gallery.setVx, Gallery.queue, show 2 ≤ 1 + (i + 1) by omega]

@[simp] theorem outside_mx (m : MxCore) : outside 0 { g with mx := m } = outside 0 g := rfl

theorem outside_foldl {α : Type} {f : Gallery → α → Gallery} (hf : ∀ g x, outside q (f g x) = outside q g) (l : List α) (g : Gallery) :
    outside q (l.foldl f g) = outside q g := by
  induction l generalizing g with
  | nil => rfl
  | cons x l ih => rw [List.foldl_cons, ih, hf]

theorem outside_mxRows {f : Nat → Gallery → Except Nat Gallery} (hf : ∀ i g, Kept q g (f i g)) (n i : Nat) (g : Gallery) :
    outside q (mxRows f i g n).1 = outside q g := by
  induction n generalizing i g with
  | zero => rfl
  | succ n ih =>
    unfold mxRows
    cases hr : f i g with
    | error st => rfl
    | ok g' => exact (ih (i + 1) g').trans (hf i g g' hr)

end

/-! ### The vector cores (R148 to R171) -/

section
variable {x : VxRun} {g : Gallery}

theorem outside_vxWith {f : BitVec 128 → Gallery × Nat} {q : Nat} (hf : ∀ p, outside q (f p).1 = outside q g) :
    outside q (g.vxWith x f).1 = outside q g := by
  unfold Gallery.vxWith
  split
  · rfl
  · exact hf _

theorem outside_vxEachRow {q : Nat} {p : BitVec 128} {f : Nat → Gallery → Except Nat Gallery} (hf : ∀ r g, Kept q g (f r g)) (g : Gallery) :
    outside q (vxEachRow x p f g).1 = outside q g := by
  refine outside_mxRows (fun r g => ?_) ..
  split
  · exact hf r g
  · simp

/-- An operation that runs row by row under its predicate. -/
theorem outside_vxRows {q : Nat} {f : BitVec 128 → Nat → Gallery → Except Nat Gallery} (hf : ∀ p r g, Kept q g (f p r g)) :
    outside q (g.vxWith x fun p => vxEachRow x p (f p) g).1 = outside q g :=
  outside_vxWith fun p => outside_vxEachRow (hf p) g

@[simp] theorem outside_vxPutLine (k : Nat) (ws : List (Option Word)) : outside (1 + x.core) (g.vxPutLine x k ws) = outside (1 + x.core) g :=
  outside_setVx ..

@[simp] theorem outside_vxPutElem (v l : Nat) (w : Word) : outside (1 + x.core) (g.vxPutElem x v l w) = outside (1 + x.core) g :=
  outside_setVx ..

@[simp] theorem outside_countExcluded {q : Nat} (p : BitVec 128) : outside q (g.countExcluded x p) = outside q g := by
  unfold Gallery.countExcluded
  split
  · rfl
  · dsimp only
    split <;> simp

@[simp] theorem kept_vxRowPut {q : Nat} (r o so beyond : Nat) (ws : List (Option Word)) : Kept q g (g.vxRowPut x r o so beyond ws) := by
  unfold Gallery.vxRowPut
  dsimp only
  split
  · simp
  · split <;> simp

@[simp] theorem kept_vxDest (p : BitVec 128) (r : Nat) (ws : List (Option Word)) : Kept (1 + x.core) g (g.vxDest x p r ws) := by
  unfold Gallery.vxDest
  dsimp only
  split
  · simp
  · split <;> simp

theorem outside_vxLanes (na nb nc : Bool) (f : Nat → Nat → Word → Word → Word → Option Word) :
    outside (1 + x.core) (g.vxLanes x na nb nc f).1 = outside (1 + x.core) g := by
  refine outside_vxRows fun p r g => ?_
  dsimp only
  split <;> simp

theorem outside_vxMap1 (f : Word → Word) : outside (1 + x.core) (g.vxMap1 x f).1 = outside (1 + x.core) g := outside_vxLanes ..

theorem outside_vxMap2 (f : Word → Word → Word) : outside (1 + x.core) (g.vxMap2 x f).1 = outside (1 + x.core) g := outside_vxLanes ..

theorem outside_vxMap3 (f : Word → Word → Word → Word) : outside (1 + x.core) (g.vxMap3 x f).1 = outside (1 + x.core) g := outside_vxLanes ..

theorem outside_vxSpecial (f : Word → Word) : outside (1 + x.core) (g.vxSpecial x f).1 = outside (1 + x.core) g := by
  unfold Gallery.vxSpecial
  exact outside_vxLanes ..

theorem outside_vxIota : outside (1 + x.core) (g.vxIota x).1 = outside (1 + x.core) g := outside_vxLanes ..

theorem outside_vxRand : outside (1 + x.core) (g.vxRand x).1 = outside (1 + x.core) g := outside_vxLanes ..

theorem outside_vxCompare (rel : Word → Word → Bool) : outside (1 + x.core) (g.vxCompare x rel).1 = outside (1 + x.core) g := by
  refine outside_vxRows fun p r g => ?_
  dsimp only
  split
  · simp
  · simp
  · split
    · simp
    · split <;> simp

theorem outside_vxSelb : outside (1 + x.core) (g.vxSelb x).1 = outside (1 + x.core) g := by
  refine outside_vxRows fun p r g => ?_
  dsimp only
  split
  · simp
  · split <;> simp

theorem outside_vxCvt : outside (1 + x.core) (g.vxCvt x).1 = outside (1 + x.core) g := by
  unfold Gallery.vxCvt
  split
  · exact outside_vxMap1 _
  · exact outside_vxMap1 _
  · exact outside_vxMap1 _
  · refine outside_vxRows fun p r g => ?_
    split <;> simp

theorem outside_vxIadd : outside (1 + x.core) (g.vxIadd x).1 = outside (1 + x.core) g := by
  unfold Gallery.vxIadd
  split
  · refine outside_vxRows fun p r g => ?_
    split <;> simp
  · exact outside_vxMap2 _

theorem outside_vxRot : outside (1 + x.core) (g.vxRot x).1 = outside (1 + x.core) g := by
  refine outside_vxRows fun p r g => ?_
  split <;> simp

@[simp] theorem kept_vxReducePut (regs : Nat) (f : Option (List Word) → List (Option Word) → List Word) (i : Nat) (l : List (Option Word)) :
    Kept (1 + x.core) g (Gallery.vxReducePut x regs f i l g) := by
  unfold Gallery.vxReducePut
  dsimp only
  split <;> simp

theorem outside_vxReduce (regs : Nat) (f : Option (List Word) → List (Option Word) → List Word) :
    outside (1 + x.core) (g.vxReduce x regs f).1 = outside (1 + x.core) g := by
  refine outside_vxWith fun p => ?_
  split
  · refine outside_vxEachRow (fun r g => ?_) g
    split <;> simp
  · split
    · rfl
    · split
      · rfl
      · exact (outside_mxRows (fun i g => kept_vxReducePut regs f i _) ..).trans (outside_countExcluded p)

theorem outside_vxRsum : outside (1 + x.core) (g.vxRsum x).1 = outside (1 + x.core) g := by
  unfold Gallery.vxRsum
  split <;> exact outside_vxReduce ..

theorem outside_vxRamax : outside (1 + x.core) (g.vxRamax x).1 = outside (1 + x.core) g := outside_vxReduce ..

@[simp] theorem kept_vxTopkRow (p : BitVec 128) (r : Nat) : Kept (1 + x.core) g (g.vxTopkRow x p r) := by
  unfold Gallery.vxTopkRow
  dsimp only
  split
  · simp
  · simp
  · generalize (if x.vec = true then vecKey (x.dst - 4) 0 else tileKey x.dst r 0) = dk
    split <;> simp

theorem outside_vxTopkCols (p : BitVec 128) : outside (1 + x.core) (g.vxTopkCols x p).1 = outside (1 + x.core) g := by
  unfold Gallery.vxTopkCols
  dsimp only
  split
  · rfl
  · split
    · rfl
    · split <;> simp

theorem outside_vxTopk : outside (1 + x.core) (g.vxTopk x).1 = outside (1 + x.core) g := by
  refine outside_vxWith fun p => ?_
  split
  · exact outside_vxTopkCols p
  · exact outside_vxEachRow (fun r g => kept_vxTopkRow p r) g

theorem outside_vxScanRows (p : BitVec 128) (int excl : Bool) (n r : Nat) (sums : List Word) (g : Gallery) :
    outside (1 + x.core) (Gallery.vxScanRows x p int excl r sums g n).1 = outside (1 + x.core) g := by
  induction n generalizing r sums g with
  | zero => rfl
  | succ n ih =>
    unfold Gallery.vxScanRows
    split
    · split
      · rfl
      · dsimp only
        split
        · rfl
        · next hd => exact (ih ..).trans (kept_vxDest _ _ _ _ hd)
    · exact ih ..

theorem outside_vxScan : outside (1 + x.core) (g.vxScan x).1 = outside (1 + x.core) g := by
  refine outside_vxWith fun p => ?_
  split
  · exact outside_vxScanRows ..
  · refine outside_vxEachRow (fun r g => ?_) g
    split <;> simp

theorem outside_vxCount : outside (1 + x.core) (g.vxCount x).1 = outside (1 + x.core) g := by
  refine outside_vxWith fun p => ?_
  split
  · rfl
  · split <;> simp

theorem outside_vxRankRows (p : BitVec 128) (base : List Word) (n r : Nat) (cnt : List Nat) (g : Gallery) :
    outside (1 + x.core) (Gallery.vxRankRows x p base r cnt g n).1 = outside (1 + x.core) g := by
  induction n generalizing r cnt g with
  | zero => rfl
  | succ n ih =>
    unfold Gallery.vxRankRows
    split
    · split
      · rfl
      · dsimp only
        split
        · rfl
        · next hd => exact (ih ..).trans (kept_vxDest _ _ _ _ hd)
    · exact ih ..

theorem outside_vxRankb : outside (1 + x.core) (g.vxRankb x).1 = outside (1 + x.core) g := by
  refine outside_vxWith fun p => ?_
  dsimp only
  split
  · rfl
  · split
    · exact outside_vxRankRows ..
    · split
      · exact (outside_vxPutLine ..).trans (outside_vxRankRows ..)
      · exact outside_vxRankRows ..

theorem outside_vxGather : outside (1 + x.core) (g.vxGather x).1 = outside (1 + x.core) g := by
  refine outside_vxRows fun p r g => ?_
  split
  · simp
  · split
    · simp
    · split <;> simp

theorem outside_vxScatter : outside (1 + x.core) (g.vxScatter x).1 = outside (1 + x.core) g := by
  refine outside_vxRows fun p r g => ?_
  split
  · simp
  · split
    · simp
    · split <;> simp

theorem outside_vxGathere : outside (1 + x.core) (g.vxGathere x).1 = outside (1 + x.core) g := by
  refine outside_vxRows fun p r g => ?_
  split
  · simp
  · split <;> simp

theorem outside_vxMlog : outside (1 + x.core) (g.vxMlog x).1 = outside (1 + x.core) g := by
  unfold Gallery.vxMlog
  dsimp only
  split <;> simp

theorem outside_vxMld : outside (1 + x.core) (g.vxMld x).1 = outside (1 + x.core) g := by
  unfold Gallery.vxMld
  dsimp only
  split <;> simp

theorem outside_vxMst : outside (1 + x.core) (g.vxMst x).1 = outside (1 + x.core) g := by
  unfold Gallery.vxMst
  dsimp only
  split
  · rfl
  · split <;> simp

theorem outside_vxMpopc : outside (1 + x.core) (g.vxMpopc x).1 = outside (1 + x.core) g := by
  refine outside_vxWith fun p => ?_
  dsimp only
  split <;> simp

theorem outside_vxSamp : outside (1 + x.core) (g.vxSamp x).1 = outside (1 + x.core) g := by
  refine outside_vxRows fun p r g => ?_
  split
  · simp
  · simp
  · simp
  · dsimp only
    split <;> simp

theorem outside_vxSave : outside (1 + x.core) (g.vxSave x).1 = outside (1 + x.core) g := by
  unfold Gallery.vxSave
  extract_lets v st words masks
  refine outside_ite rfl (outside_ite rfl ?_)
  generalize leBytes 4 0x56585356 ++ leBytes 4 1 ++ leBytes 120 0 ++ words ++ masks ++ leBytes 64 0 = bs
  exact outside_spadWrite ..

theorem outside_vxRestore : outside (1 + x.core) (g.vxRestore x).1 = outside (1 + x.core) g := by
  unfold Gallery.vxRestore
  dsimp only
  split
  · rfl
  · split
    · rfl
    · split <;> simp

theorem outside_vxEnd (i : Nat) (e : QEntry) (st : Nat) : outside (1 + i) (g.vxEnd i e st) = outside (1 + i) g := by
  unfold Gallery.vxEnd
  dsimp only
  split <;> simp

end

end Sys2Proof.Laws
end

section
/-! SUPPORT. The operations of the matrix core, and the commands of both cores, keep what is outside. -/

namespace Sys2Proof.Laws

open Sys2Proof.Machine

/-! ### The matrix core (R108 to R128) -/

section
variable {g : Gallery}

@[simp] theorem outside_setMxRes (opc tile row : Nat) : outside 0 (g.setMxRes opc tile row) = outside 0 g := rfl

@[simp] theorem outside_mxCfg (d : Desc) : outside 0 (g.mxCfg d) = outside 0 g := rfl

@[simp] theorem outside_mxStop (now : DWord) (cause : Nat) : outside 0 (g.mxStop now cause) = outside 0 g := rfl

@[simp] theorem outside_mxAsk (cause : Nat) : outside 0 (g.mxAsk cause) = outside 0 g := by
  unfold Gallery.mxAsk
  split <;> simp

@[simp] theorem outside_loadTile (rid : Nat) (r : TileRec) : outside 0 (g.loadTile rid r).1 = outside 0 g := by
  unfold Gallery.loadTile
  extract_lets n st g1 cells g2
  exact outside_ite rfl rfl

@[simp] theorem kept_streamRow (t : Tile) (s : StreamCfg) (issue c3 i : Nat) : Kept 0 g (Gallery.streamRow t s issue c3 i g) := by
  unfold Gallery.streamRow
  split
  · simp
  · dsimp only
    split <;> simp
  · extract_lets a n ns sa beyond r old ws gated g1 g2
    have hg2 : outside 0 g2 = outside 0 g := by
      unfold g2
      split <;> rfl
    split
    · simp
    · split
      · simp
      · split
        · simp
        · split
          · simp [hg2]
          · dsimp only
            split <;> simp [hg2]

theorem outside_streamRows (t : Tile) (s : StreamCfg) (issue c3 i n : Nat) (g : Gallery) :
    outside 0 (mxRows (Gallery.streamRow t s issue c3) i g n).1 = outside 0 g :=
  outside_mxRows (fun i _ => kept_streamRow t s issue c3 i) n i g

theorem outside_mxStream (d : Desc) (issue c3 : Nat) (limit : Option MxLimit) : outside 0 (g.mxStream d issue c3 limit).1 = outside 0 g := by
  unfold Gallery.mxStream
  split
  · rfl
  · refine outside_ite rfl (outside_ite ?_ (outside_streamRows ..))
    split
    · rfl
    · exact outside_streamRows ..

theorem outside_kloopTiles (d : Desc) (map issue c3 : Nat) (limit : Option MxLimit) (n k row : Nat) (latched first : Bool) (g : Gallery) :
    outside 0 (Gallery.kloopTiles d map issue c3 limit k row latched first g n).1 = outside 0 g := by
  induction n generalizing k row latched first g with
  | zero =>
    unfold Gallery.kloopTiles
    refine outside_ite (outside_foldl ?_ ..) rfl
    exact fun _ _ => outside_mx _
  | succ n ih =>
    unfold Gallery.kloopTiles
    refine outside_ite ?_ (ih ..)
    extract_lets stopHere inLoad m g1 acc lim upTo
    have hg1 : outside 0 g1.1 = outside 0 g := outside_ite rfl (outside_loadTile ..)
    refine outside_ite rfl (outside_ite hg1 ?_)
    split
    · exact hg1
    · extract_lets r
      have hr : outside 0 r.1 = outside 0 g := (outside_streamRows ..).trans hg1
      split
      · exact hr
      · exact outside_ite hr ((ih ..).trans hr)

theorem outside_mxKloop (d : Desc) (issue c3 : Nat) (limit : Option MxLimit) : outside 0 (g.mxKloop d issue c3 limit).1 = outside 0 g :=
  outside_ite rfl (outside_kloopTiles ..)

theorem outside_mxLoad (d : Desc) (limit : Option MxLimit) : outside 0 (g.mxLoad d limit).1 = outside 0 g := by
  unfold Gallery.mxLoad
  split
  · rfl
  · exact outside_loadTile ..

theorem outside_mxArray (d : Desc) (issue c3 : Nat) (limit : Option MxLimit) : outside 0 (g.mxArray d issue c3 limit).1 = outside 0 g := by
  unfold Gallery.mxArray
  split
  · exact outside_mxLoad ..
  · exact outside_mxKloop ..
  · exact outside_mxStream ..

theorem kept_flushRow (p : Profile) (d : Desc) (issue c3 j : Nat) : Kept 0 g (Gallery.flushRow p d issue c3 j g) := by
  unfold Gallery.flushRow
  extract_lets buf row dst bs sum
  split
  · simp
  · split
    · simp
    · split
      · split <;> simp
      · simp

theorem outside_mxFlush (d : Desc) (issue c3 : Nat) (train : Bool) (limit : Option Nat) :
    outside 0 (g.mxFlush d issue c3 train limit).1 = outside 0 g := by
  unfold Gallery.mxFlush
  extract_lets from_ n add upTo
  refine outside_ite rfl ?_
  split
  · rfl
  · refine outside_ite rfl ?_
    extract_lets r
    have hr : outside 0 r.1 = outside 0 g := outside_mxRows (fun j _ => kept_flushRow _ d issue c3 j) ..
    split <;> exact hr

theorem outside_mxSave (d : Desc) : outside 0 (g.mxSave d).1 = outside 0 g := by
  unfold Gallery.mxSave
  extract_lets a n0 n1 prof rec flags g1 g2 g3
  have hg2 : outside 0 g2 = outside 0 g := by
    unfold g2
    cases rec
    · exact outside_spadWrite ..
    · exact (outside_spadWrite ..).trans (outside_spadWrite ..)
  have hg3 : outside 0 g3 = outside 0 g := by
    unfold g3
    split
    · exact (outside_spadWrite ..).trans hg2
    · exact hg2
  exact outside_ite rfl (outside_ite rfl ((outside_spadWrite ..).trans hg3))

theorem outside_restoreRows (a buf n : Nat) : outside 0 (g.restoreRows a buf n) = outside 0 g := by
  unfold Gallery.restoreRows
  refine outside_foldl ?_ ..
  exact fun _ _ => outside_mx _

theorem outside_mxRestore (d : Desc) : outside 0 (g.mxRestore d).1 = outside 0 g := by
  unfold Gallery.mxRestore
  extract_lets a st w f n0 n1 tr td st1 g1 g2
  have hg1 : outside 0 g1 = outside 0 g := (outside_restoreRows ..).trans (outside_restoreRows ..)
  have hg2 : outside 0 g2 = outside 0 g := by
    unfold g2
    split
    · refine (outside_foldl ?_ ..).trans hg1
      exact fun _ _ => outside_mx _
    · exact hg1
  exact outside_ite rfl (outside_ite rfl (outside_ite rfl (outside_ite rfl (outside_ite ((outside_loadTile ..).trans hg2) hg2))))

@[simp] theorem outside_arrayEnd (e : QEntry) (r : MxEnd) : outside 0 (g.arrayEnd e r) = outside 0 g := by
  cases r <;> simp [Gallery.arrayEnd]

@[simp] theorem outside_flushEnd (e : QEntry) (r : MxEnd) : outside 0 (g.flushEnd e r) = outside 0 g := by
  cases r <;> simp [Gallery.flushEnd]

theorem outside_kloopAhead {c3 : Nat} {e : QEntry} {limit : Option MxLimit} {g' : Gallery} (h : g.kloopAhead c3 e limit = some g') :
    outside 0 g' = outside 0 g := by
  unfold Gallery.kloopAhead at h
  extract_lets d tc map at h
  split at h
  · cases h
  · obtain ⟨k, -, rfl⟩ := Option.map_eq_some_iff.mp h
    dsimp only
    split
    · exact (outside_setEntry _).trans ((outside_mx _).trans (outside_mxKloop ..))
    · exact (outside_arrayEnd ..).trans (outside_mxKloop ..)

theorem outside_runArray (c3 : Nat) (p : Nat → Bool) (limit : Option MxLimit) : outside 0 (g.runArray c3 p limit) = outside 0 g := by
  unfold Gallery.runArray
  split
  · rfl
  · split
    · split
      · next h => exact outside_kloopAhead h
      · split <;> rfl
    · exact (outside_arrayEnd ..).trans (outside_mxArray ..)

theorem outside_runFlush (c3 : Nat) (train : Bool) (limit : Option Nat) : outside 0 (g.runFlush c3 train limit) = outside 0 g := by
  unfold Gallery.runFlush
  split
  · rfl
  · split
    · rfl
    · exact (outside_flushEnd ..).trans (outside_mxFlush ..)

theorem outside_runExclusive (opc : Nat) {f : Gallery → Desc → Gallery × Nat} (hf : ∀ d, outside 0 (f g d).1 = outside 0 g) :
    outside 0 (g.runExclusive opc f) = outside 0 g := by
  unfold Gallery.runExclusive
  split
  · rfl
  · exact (outside_setEntry _).trans (hf _)

theorem outside_mxService (issue c3 : Nat) (train : Bool) : outside 0 (g.mxService issue c3 train) = outside 0 g := by
  unfold Gallery.mxService
  split
  · extract_lets d opc hadTile fin code codeF m g1
    have hfin (r : Gallery × Nat) : outside 0 (fin r) = outside 0 r.1 := rfl
    have hcode (r : Gallery × MxEnd) : outside 0 (code r).1 = outside 0 r.1 := by
      unfold code
      split <;> rfl
    have hcodeF (r : Gallery × MxEnd) : outside 0 (codeF r).1 = outside 0 r.1 := by
      unfold codeF
      split <;> rfl
    split
    · exact hfin _
    · split
      · exact hfin _
      · have hg1 : outside 0 g1 = outside 0 g := rfl
        clear_value fin code codeF opc g1
        split
        · rw [hfin, hcodeF, outside_mxFlush, hg1]
        · rw [hfin, outside_mxCfg, hg1]
        · rw [hfin, outside_mxSave, hg1]
        · rw [hfin, outside_mxRestore, hg1]
        · rw [hfin, hcode, outside_mxArray, hg1]
  · rfl

/-- Going on after a stop changes, apart from what the core may write, the timers alone (R125, R126). -/
theorem outside_mxGo (now : DWord) : outside 0 (g.mxGo now) = outside 0 (if g.mx.stopped = true then g.timersResume now else g) := by
  unfold Gallery.mxGo
  split
  · extract_lets m g1
    have hg1 : outside 0 g1 = outside 0 (g.timersResume now) := rfl
    split
    · extract_lets x
      have hx : outside 0 x.1 = outside 0 (g.timersResume now) := (outside_loadTile ..).trans hg1
      split
      · exact hx
      · exact (outside_arrayEnd ..).trans hx
      · exact hx
    · exact hg1
  · rfl

end

end Sys2Proof.Laws
end

section
/-! SUPPORT. A command of a matrix or vector core, as the module sees it. -/

namespace Sys2Proof.Laws

open Sys2Proof.Machine

/-- From module c to module d only what the core of queue q of gallery k may write, and the index of the next free value, has changed. -/
def OnlyCore (k q : Nat) (c d : Chip) : Prop :=
  d = { c with gals := d.gals, free := d.free } ∧ (∀ n : Nat, n ≠ k → d.gal n = c.gal n) ∧ outside q (d.gal k) = outside q (c.gal k)

section
variable {c d e : Chip} {k q : Nat}

theorem OnlyCore.refl (c : Chip) : OnlyCore k q c c := ⟨rfl, fun _ _ => rfl, rfl⟩

theorem OnlyCore.trans (h : OnlyCore k q c d) (h' : OnlyCore k q d e) : OnlyCore k q c e := by
  obtain ⟨hd, hdn, hdk⟩ := h
  obtain ⟨he, hen, hek⟩ := h'
  refine ⟨?_, fun n hn => (hen n hn).trans (hdn n hn), hek.trans hdk⟩
  rw [he, hd]

theorem OnlyCore.online (h : OnlyCore k q c d) (ho : c.galOnline k = true) : d.galOnline k = true := (online_of_outside h.2.2).trans ho

theorem fresh_onlyCore : OnlyCore k q c c.fresh.2 := ⟨rfl, fun _ _ => rfl, rfl⟩

theorem setGal_onlyCore {G : Gallery} (ho : c.galOnline k = true) (hG : outside q G = outside q (c.gal k)) : OnlyCore k q c (c.setGal k G) :=
  ⟨rfl, fun _ hn => gal_setGal_other c G hn, by rw [gal_setGal c k G (online_ne_reset ((online_of_outside hG).trans ho)), hG]⟩

theorem onGal_onlyCore {f : Gallery → Gallery} (ho : c.galOnline k = true) (hf : ∀ G, outside q (f G) = outside q G) : OnlyCore k q c (c.onGal k f) :=
  setGal_onlyCore ho (hf _)

theorem queueRuns_online (h : c.queueRuns k q = true) : c.galOnline k = true := by
  simp only [Chip.queueRuns, Bool.and_eq_true] at h
  obtain ⟨⟨⟨-, hlive⟩, -⟩, -⟩ := h
  exact live_online hlive

end

/-- The outcome r of a command in s is a next state, and changes the core of queue q of gallery g alone. -/
def Confined (s : State) (g : GalId) (q : Nat) (r : Host.Outcome State Fault Refusal) : Prop :=
  ∃ d : Chip, r = .next { s with chip := d } ∧ OnlyCore (galKey g) q s.chip d

section
variable {s t : State} {g : GalId} {q : Nat} {r : Host.Outcome State Fault Refusal}

theorem Confined.onlyGallery (h : Confined s g q r) (ht : r = .next t) :
    s.OnlyGallery t (galKey g) ∧ outside q (t.chip.gal (galKey g)) = outside q (s.chip.gal (galKey g)) := by
  obtain ⟨d, hr, hd, hn, hk⟩ := h
  cases hr.symm.trans ht
  exact ⟨⟨rfl, hd, hn⟩, hk⟩

theorem Confined.onlyMx (h : Confined s g 0 r) (ht : r = .next t) :
    s.OnlyGallery t (galKey g) ∧ (s.chip.gal (galKey g)).OnlyMx (t.chip.gal (galKey g)) := by
  obtain ⟨hs, hk⟩ := h.onlyGallery ht
  exact ⟨hs, onlyMx_of_outside hk⟩

theorem confined_onQueue {f : Chip → Gallery → Gallery} (hf : ∀ c G, outside q (f c G) = outside q G) :
    Confined s g q (s.onQueue g q fun c k => c.onGal k (f c)) := by
  by_cases hr : s.chip.queueRuns (galKey g) q = true
  · exact ⟨_, onQueue_runs s g q _ hr, onGal_onlyCore (queueRuns_online hr) (hf _)⟩
  · exact ⟨_, onQueue_held s g q _ (Bool.eq_false_iff.mpr hr), .refl _⟩

theorem confined_onLive {f : Chip → Chip} (hf : OnlyCore (galKey g) q s.chip (f s.chip)) : Confined s g q (s.onLive f) := by
  by_cases h : s.chip.stopped = true
  · exact ⟨_, onLive_held s f h, .refl _⟩
  · exact ⟨_, onLive_runs s f (Bool.eq_false_iff.mpr h), hf⟩

theorem onQueue_free {f : Chip → Gallery → Gallery} (ht : s.onQueue g q (fun c k => c.onGal k (f c)) = .next t) : t.chip.free = s.chip.free := by
  cases ht
  dsimp only
  split <;> rfl

/-- A vector command whose operation keeps what is outside of its core. -/
theorem onVx_only {i : Fin 2} {opc : Nat} {f : Gallery → VxRun → Gallery × Nat} (run : GalId → Fin 2 → State → Host.Outcome State Fault Refusal)
    (hrun : run g i s = s.onVx g i opc f) (hf : ∀ G x, outside (1 + x.core) (f G x).1 = outside (1 + x.core) G) (ht : run g i s = .next t) :
    s.OnlyGallery t (galKey g) ∧ t.chip.free = s.chip.free ∧ (s.chip.gal (galKey g)).OnlyVx (t.chip.gal (galKey g)) i.val := by
  rw [hrun] at ht
  have hconf : Confined s g (1 + i.val) (s.onVx g i opc f) := by
    refine confined_onQueue fun c G => ?_
    split
    · rfl
    · exact (outside_vxEnd ..).trans ((outside_rngAdd ..).trans (hf ..))
  obtain ⟨hs, hk⟩ := hconf.onlyGallery ht
  exact ⟨hs, onQueue_free ht, onlyVx_of_outside hk⟩

theorem confined_mxRun (opc : Nat) : Confined s g 0 (s.onQueue g 0 fun c k => c.mxRun k opc) := confined_onQueue fun _ _ => outside_runArray ..

theorem confined_mxFlush : Confined s g 0 (execMxFlush g s) :=
  confined_onQueue (f := fun c G => G.runFlush (srC3 0 c.epoch) c.part.hasTrain none) fun _ _ => outside_runFlush ..

theorem confined_runExclusive (opc : Nat) {f : Gallery → Desc → Gallery × Nat} (hf : ∀ G d, outside 0 (f G d).1 = outside 0 G) :
    Confined s g 0 (s.onQueue g 0 fun c k => c.onGal k fun G => G.runExclusive opc f) :=
  confined_onQueue fun _ G => outside_runExclusive opc (hf G)

theorem confined_mxPreemptionStop : Confined s g 0 (execMxPreemptionStop g s) := by
  refine confined_onLive ?_
  split
  · exact onGal_onlyCore ‹_› fun _ => outside_mxAsk 1
  · exact .refl _

theorem confined_mxStopDrained (tile : Fin 64) (row : Half) (inLoad : Bool) (flush : Fin 1025) :
    Confined s g 0 (execMxStopDrained g tile row inLoad flush s) := by
  refine confined_onLive ?_
  dsimp only
  split
  · exact .refl _
  · next h =>
    have hlive : (s.chip.gal (galKey g)).live = true := by
      simp only [Bool.or_eq_true, Bool.not_eq_true', not_or, Bool.not_eq_false] at h
      obtain ⟨⟨hlive, -⟩, -⟩ := h
      exact hlive
    refine setGal_onlyCore (live_online hlive) ((outside_mxStop ..).trans ?_)
    split
    · rfl
    · exact (outside_runFlush ..).trans (outside_runArray ..)

theorem confined_mxServiceRun (svc : Option Desc) : Confined s g 0 (execMxServiceRun ⟨g, svc⟩ s) := by
  refine confined_onLive ?_
  dsimp only
  split
  · exact .refl _
  · next h =>
    have ho : s.chip.galOnline (galKey g) = true := by simpa using h
    have hfresh : OnlyCore (galKey g) 0 s.chip s.chip.fresh.2 := fresh_onlyCore
    cases svc with
    | none => exact hfresh.trans (onGal_onlyCore (hfresh.online ho) fun _ => outside_mxService ..)
    | some d =>
      have hsvc := hfresh.trans (onGal_onlyCore (f := fun g => { g with mx := { g.mx with svc := d } }) (hfresh.online ho) fun _ => outside_mx _)
      exact hsvc.trans (onGal_onlyCore (hsvc.online ho) fun _ => outside_mxService ..)

theorem mxGo_online (G : Gallery) (now : DWord) : ((G.mxGo now).dom != .off || (G.mxGo now).shadow) = (G.dom != .off || G.shadow) := by
  refine (online_of_outside (outside_mxGo now)).trans ?_
  split
  · unfold Gallery.timersResume
    split <;> rfl
  · rfl

theorem mxGo_only (ht : execMxGo g s = .next t) : s.OnlyGallery t (galKey g) ∧ let G := s.chip.gal (galKey g)
    (if s.chip.stopped = false ∧ s.chip.galOnline (galKey g) = true ∧ G.mx.stopped = true then G.timersResume s.chip.act else G).OnlyMx
      (t.chip.gal (galKey g)) := by
  by_cases hrun : s.chip.stopped = false ∧ s.chip.galOnline (galKey g) = true
  · obtain ⟨hs, ho⟩ := hrun
    have hgo : execMxGo g s = .next { s with chip := s.chip.onGal (galKey g) fun G => G.mxGo s.chip.act } := by
      rw [execMxGo, onLive_runs s _ hs]
      simp only [ho, if_true]
    cases hgo.symm.trans ht
    refine ⟨⟨rfl, rfl, fun n hn => gal_setGal_other _ _ hn⟩, onlyMx_of_outside ?_⟩
    rw [Chip.onGal, gal_setGal _ _ _ (online_ne_reset ((mxGo_online ..).trans ho))]
    simpa only [hs, ho, true_and] using outside_mxGo _
  · have hgo : execMxGo g s = .next s := by
      cases hs : s.chip.stopped
      · have ho : ¬ s.chip.galOnline (galKey g) = true := fun ho => hrun ⟨hs, ho⟩
        rw [execMxGo, onLive_runs s _ hs]
        simp only [if_neg ho]
      · exact onLive_held s _ hs
    cases hgo.symm.trans ht
    refine ⟨⟨rfl, rfl, fun _ _ => rfl⟩, onlyMx_of_outside ?_⟩
    rw [if_neg fun h => hrun ⟨h.1, h.2.1⟩]

end

end Sys2Proof.Laws

namespace Sys2Proof.Proofs
open Sys2Proof.Machine Sys2Proof.Laws

/-- Settles O54: each operation of a core leaves what is outside of the core as it was, and so does the command that runs it. -/
theorem galleryCommandsStayInTheirGallery : Obligations.GalleryCommandsStayInTheirGallery := by
  refine ⟨fun g i s t => ?_, fun g svc tile row inLoad flush s t => ?_, fun g s t ht => mxGo_only ht⟩
  · simp only [List.forall_mem_cons]
    exact ⟨onVx_only execVmov rfl fun _ _ => outside_vxMap1 _, onVx_only execVadd rfl fun _ _ => outside_vxMap2 _,
      onVx_only execVsub rfl fun _ _ => outside_vxMap2 _, onVx_only execVmul rfl fun _ _ => outside_vxMap2 _,
      onVx_only execVfma rfl fun _ _ => outside_vxMap3 _, onVx_only execVmax rfl fun _ _ => outside_vxMap2 _,
      onVx_only execVmin rfl fun _ _ => outside_vxMap2 _, onVx_only execVabs rfl fun _ _ => outside_vxMap1 _,
      onVx_only execVneg rfl fun _ _ => outside_vxMap1 _, onVx_only execVcmp rfl fun _ _ => outside_vxCompare _,
      onVx_only execVcsel rfl fun _ _ => outside_vxLanes .., onVx_only execVselb rfl fun _ _ => outside_vxSelb,
      onVx_only execViota rfl fun _ _ => outside_vxIota, onVx_only execVcvt rfl fun _ _ => outside_vxCvt,
      onVx_only execViadd rfl fun _ _ => outside_vxIadd, onVx_only execVisub rfl fun _ _ => outside_vxMap2 _,
      onVx_only execVimul rfl fun _ _ => outside_vxMap2 _, onVx_only execViand rfl fun _ _ => outside_vxMap2 _,
      onVx_only execVior rfl fun _ _ => outside_vxMap2 _, onVx_only execVixor rfl fun _ _ => outside_vxMap2 _,
      onVx_only execVishl rfl fun _ _ => outside_vxMap2 _, onVx_only execVishr rfl fun _ _ => outside_vxMap2 _,
      onVx_only execVicmp rfl fun _ _ => outside_vxCompare _, onVx_only execVexp rfl fun _ _ => outside_vxSpecial _,
      onVx_only execVexp2 rfl fun _ _ => outside_vxSpecial _, onVx_only execVlog rfl fun _ _ => outside_vxSpecial _,
      onVx_only execVrcp rfl fun _ _ => outside_vxSpecial _, onVx_only execVrsqrt rfl fun _ _ => outside_vxSpecial _,
      onVx_only execVtanh rfl fun _ _ => outside_vxSpecial _, onVx_only execVsigm rfl fun _ _ => outside_vxSpecial _,
      onVx_only execVsilu rfl fun _ _ => outside_vxSpecial _, onVx_only execVgelu rfl fun _ _ => outside_vxSpecial _,
      onVx_only execVrot rfl fun _ _ => outside_vxRot, onVx_only execVrsum rfl fun _ _ => outside_vxRsum,
      onVx_only execVrmax rfl fun _ _ => outside_vxReduce .., onVx_only execVrmin rfl fun _ _ => outside_vxReduce ..,
      onVx_only execVramax rfl fun _ _ => outside_vxRamax, onVx_only execVtopk rfl fun _ _ => outside_vxTopk,
      onVx_only execVscan rfl fun _ _ => outside_vxScan, onVx_only execVcount rfl fun _ _ => outside_vxCount,
      onVx_only execVrankb rfl fun _ _ => outside_vxRankb, onVx_only execVgather rfl fun _ _ => outside_vxGather,
      onVx_only execVscatter rfl fun _ _ => outside_vxScatter, onVx_only execVgathere rfl fun _ _ => outside_vxGathere,
      onVx_only execMlog rfl fun _ _ => outside_vxMlog, onVx_only execMld rfl fun _ _ => outside_vxMld,
      onVx_only execMst rfl fun _ _ => outside_vxMst, onVx_only execMpopc rfl fun _ _ => outside_vxMpopc,
      onVx_only execVrand rfl fun _ _ => outside_vxRand, onVx_only execVsamp rfl fun _ _ => outside_vxSamp,
      onVx_only (f := Gallery.vxSave) execVsave rfl fun _ _ => outside_vxSave, onVx_only execVrestore rfl fun _ _ => outside_vxRestore,
      fun _ h => nomatch h⟩
  · simp only [List.forall_mem_cons]
    exact ⟨(confined_mxRun 0x10).onlyMx, (confined_mxRun 0x11).onlyMx, (confined_mxRun 0x12).onlyMx, (confined_mxRun 0x13).onlyMx,
      (confined_mxRun 0x14).onlyMx, confined_mxFlush.onlyMx, (confined_runExclusive 0x16 fun _ => outside_mxCfg).onlyMx,
      (confined_runExclusive 0x17 fun _ => outside_mxSave).onlyMx, (confined_runExclusive 0x18 fun _ => outside_mxRestore).onlyMx,
      confined_mxPreemptionStop.onlyMx, (confined_mxServiceRun svc).onlyMx, (confined_mxStopDrained tile row inLoad flush).onlyMx,
      fun _ h => nomatch h⟩

end Sys2Proof.Proofs
end

section
/-! SUPPORT. The matrix core's commands (R108 to R128): what each does with its descriptor in flight, and at the core's stop, service and resumption, where
its condition holds. -/

namespace Sys2Proof.Laws

open Sys2Proof.Machine

/-! ### Descriptors in flight -/

section
variable {G : Gallery} {e : QEntry}

/-- An array descriptor that waits for no earlier flush runs (R121). -/
theorem runArray_runs {p : Nat → Bool} (c3 : Nat) (limit : Option MxLimit) (he : G.runningEntry 0 p = some e) (hw : G.arrayWaits e = false) :
    G.runArray c3 p limit =
      let r := G.mxArray e.desc e.index.toNat c3 (limit.map (clampLimit e.desc G.mx.resumed))
      r.1.arrayEnd e r.2 := by
  simp only [Gallery.runArray, he, hw, Bool.false_eq_true, if_false]

/-- A flush that waits for no earlier stream runs (R121). -/
theorem runFlush_runs (c3 : Nat) (train : Bool) (limit : Option Nat) (he : G.runningEntry 0 (· == 0x15) = some e) (hw : G.flushWaits e = false) :
    G.runFlush c3 train limit = let r := G.mxFlush e.desc e.index.toNat c3 train limit; r.1.flushEnd e r.2 := by
  simp only [Gallery.runFlush, he, hw, Bool.false_eq_true, if_false]

theorem runExclusive_runs {opc : Nat} (f : Gallery → Desc → Gallery × Nat) (he : G.runningEntry 0 (· == opc) = some e) :
    G.runExclusive opc f = (f G e.desc).1.setEntry 0 { e with st := .ended (f G e.desc).2 } := by
  simp only [Gallery.runExclusive, he]

end

section
variable {s : State} {g : GalId} {q opc : Nat} {e : QEntry}

/-- A descriptor in flight has its operation's effect on its gallery. -/
theorem onQueue_inFlight (h : s.chip.InFlight (galKey g) q opc e) (f : Chip → Gallery → Gallery) :
    s.onQueue g q (fun c k => c.onGal k (f c)) =
      .next { s with chip := s.chip.setGal (galKey g) (f s.chip (s.chip.gal (galKey g))) } :=
  onQueue_runs s g q _ h.1

theorem mxRun_inFlight (h : s.chip.InFlight (galKey g) 0 opc e) (hw : (s.chip.gal (galKey g)).arrayWaits e = false) :
    s.onQueue g 0 (fun c k => c.mxRun k opc) =
      let r := (s.chip.gal (galKey g)).mxArray e.desc e.index.toNat (srC3 0 s.chip.epoch) none
      .next { s with chip := s.chip.setGal (galKey g) (r.1.arrayEnd e r.2) } :=
  (onQueue_inFlight h fun c G => G.runArray (srC3 0 c.epoch) (· == opc) none).trans (by rw [runArray_runs _ _ h.2 hw]; rfl)

theorem exec_mxFlush (h : s.chip.InFlight (galKey g) 0 0x15 e) (hw : (s.chip.gal (galKey g)).flushWaits e = false) :
    exec (.mxFlush g) s =
      let r := (s.chip.gal (galKey g)).mxFlush e.desc e.index.toNat (srC3 0 s.chip.epoch) s.chip.part.hasTrain none
      .next { s with chip := s.chip.setGal (galKey g) (r.1.flushEnd e r.2) } :=
  (onQueue_inFlight h fun c G => G.runFlush (srC3 0 c.epoch) c.part.hasTrain none).trans (by rw [runFlush_runs _ _ _ h.2 hw])

theorem runExclusive_inFlight (h : s.chip.InFlight (galKey g) 0 opc e) (f : Gallery → Desc → Gallery × Nat) :
    s.onQueue g 0 (fun c k => c.onGal k fun G => G.runExclusive opc f) =
      let r := f (s.chip.gal (galKey g)) e.desc
      .next { s with chip := s.chip.setGal (galKey g) (r.1.setEntry 0 { e with st := .ended r.2 }) } :=
  (onQueue_inFlight h fun _ G => G.runExclusive opc f).trans (by rw [runExclusive_runs f h.2])

end

/-! ### Stop, resumption and service (R125, R126) -/

section
variable {G : Gallery}

theorem mxAsk_running (cause : Nat) (h : G.mx.stopped = false) : G.mxAsk cause = { G with mx := { G.mx with stopReq := max G.mx.stopReq cause } } := by
  simp only [Gallery.mxAsk, h, Bool.false_eq_true, if_false]

/-- The gallery as its matrix core goes on: the timers resumed, and of the stop nothing left. -/
def goneOn (G : Gallery) (now : DWord) : Gallery :=
  { G.timersResume now with mx := { G.mx with stopped := false, cause := 0, displ := false, stopTile := none } }

/-- Without a displaced tile the core goes on at once. -/
theorem mxGo_kept (now : DWord) (hs : G.mx.stopped = true) (hd : G.mx.displ = false) : G.mxGo now = goneOn G now := by
  simp only [Gallery.mxGo, hs, hd, if_true]
  rfl

/-- A displaced tile is loaded again, and where its source reads well no descriptor ends. -/
theorem mxGo_reloads {now : DWord} {r : TileRec} (hs : G.mx.stopped = true) (hd : G.mx.displ = true) (ht : G.mx.stopTile = some r)
    (hl : ((goneOn G now).loadTile (goneOn G now).topRange.toNat r).2 = 0) :
    G.mxGo now = ((goneOn G now).loadTile (goneOn G now).topRange.toNat r).1 := by
  unfold goneOn at hl ⊢
  simp only [Gallery.mxGo, hs, hd, ht, hl, if_true]

end

/-- The module with MXSVC of gallery k written, where the usher gives a descriptor (R128). -/
def serviceWritten (c : Chip) (k : Nat) : Option Desc → Chip
  | some d => c.onGal k fun G => { G with mx := { G.mx with svc := d } }
  | none => c

section
variable {s : State} {g : GalId}

/-- A core with a stop asked for drains: a queue that is not halted runs what it has in flight up to where it got, and the core stands stopped. -/
theorem exec_mxStopDrained (tile : Fin 64) (row : Half) (inLoad : Bool) (flush : Fin 1025) (hs : s.chip.stopped = false)
    (hl : (s.chip.gal (galKey g)).live = true) (hm : (s.chip.gal (galKey g)).mx.stopped = false) (hr : (s.chip.gal (galKey g)).mx.stopReq ≠ 0) :
    let G := s.chip.gal (galKey g)
    let c3 := srC3 0 s.chip.epoch
    let array := G.runArray c3 (fun o => decide (0x10 ≤ o ∧ o ≤ 0x14)) (some ⟨tile.val, row.toNat, inLoad⟩)
    let drained := if (G.queue 0).halted then G else array.runFlush c3 s.chip.part.hasTrain (some flush.val)
    exec (.mxStopDrained g tile row inLoad flush) s =
      .next { s with chip := s.chip.setGal (galKey g) (drained.mxStop s.chip.act G.mx.stopReq) } := by
  have hdrains : (!(s.chip.gal (galKey g)).live || (s.chip.gal (galKey g)).mx.stopped || (s.chip.gal (galKey g)).mx.stopReq == 0) = false := by
    simp [hl, hm, hr]
  show execMxStopDrained g tile row inLoad flush s = _
  rw [execMxStopDrained, onLive_runs s _ hs]
  simp only [hdrains, Bool.false_eq_true, if_false]

variable (hw : s.chip.GalWritable (galKey g))
include hw

theorem exec_mxPreemptionStop : exec (.mxPreemptionStop g) s = .next { s with chip := s.chip.onGal (galKey g) fun G => G.mxAsk 1 } :=
  onGalReg_writable hw _

theorem exec_mxGo : exec (.mxGo g) s = .next { s with chip := s.chip.onGal (galKey g) fun G => G.mxGo s.chip.act } := by
  obtain ⟨hs, ho⟩ := hw
  show execMxGo g s = _
  rw [execMxGo, onLive_runs s _ hs]
  simp only [ho, if_true]

/-- The service descriptor, which the usher may write first, runs with the next free index for its draws. -/
theorem exec_mxServiceRun (svc : Option Desc) :
    exec (.mxServiceRun ⟨g, svc⟩) s = .next { s with
      chip := (serviceWritten s.chip.fresh.2 (galKey g) svc).onGal (galKey g) fun G =>
        G.mxService (Config.serviceDrawIndex s.chip.free) (srC3 0 s.chip.epoch) s.chip.part.hasTrain } := by
  obtain ⟨hs, ho⟩ := hw
  show execMxServiceRun ⟨g, svc⟩ s = _
  rw [execMxServiceRun, onLive_runs s _ hs]
  simp only [ho, Bool.not_true, Bool.false_eq_true, if_false]
  rfl

end

end Sys2Proof.Laws

namespace Sys2Proof.Proofs
open Sys2Proof.Machine Sys2Proof.Laws

/-- Settles O19: each descriptor in flight by its operation, and the core by its stop, its resumption and its service. -/
theorem matrixDescriptorsRun : Obligations.MatrixDescriptorsRun := by
  refine ⟨?_, fun g e s => ⟨exec_mxFlush, fun h => runExclusive_inFlight h fun G d => (G.mxCfg d, 0), fun h => runExclusive_inFlight h Gallery.mxSave,
    fun h => runExclusive_inFlight h Gallery.mxRestore, fun hw hm => ?_, fun tile row inLoad flush => exec_mxStopDrained tile row inLoad flush,
    fun hw hm hd => ?_, fun r hw hm hd ht hl => ?_, fun svc hw _ => ?_⟩⟩
  · simp only [List.forall_mem_cons]
    exact ⟨fun _ _ _ => mxRun_inFlight, fun _ _ _ => mxRun_inFlight, fun _ _ _ => mxRun_inFlight, fun _ _ _ => mxRun_inFlight,
      fun _ _ _ => mxRun_inFlight, fun _ h => nomatch h⟩
  · rw [exec_mxPreemptionStop hw, Chip.onGal, mxAsk_running 1 hm]
  · rw [exec_mxGo hw, Chip.onGal, mxGo_kept _ hm hd]
    rfl
  · rw [exec_mxGo hw, Chip.onGal, mxGo_reloads hm hd ht hl]
    rfl
  · rw [exec_mxServiceRun hw]
    cases svc <;> rfl

end Sys2Proof.Proofs
end

section
/-! SUPPORT. The vector cores' commands (R144 to R172): a descriptor in flight has its operation's effect. -/

namespace Sys2Proof.Laws

open Sys2Proof.Machine

section
variable {s : State} {g : GalId} {i : Fin 2} {opc : Nat} {e : QEntry}

/-- The run of a descriptor on vector core i: what the core gives its operation besides the gallery. -/
abbrev vxRunOf (s : State) (i : Fin 2) (e : QEntry) : VxRun := ⟨i.val, e.desc, e.index.toNat, srC3 (1 + i.val) s.chip.epoch⟩

/-- A gallery after a vector operation with result r: the beats counted, the entry ended. -/
abbrev vxDone (G : Gallery) (x : VxRun) (e : QEntry) (r : Gallery × Nat) : Gallery :=
  (r.1.rngAdd (descRange e.desc) 4 (vxBeats G x)).vxEnd x.core e r.2

/-- A vector descriptor in flight runs its operation, counts its beats and ends its entry. -/
theorem onVx_inFlight (h : s.chip.InFlight (galKey g) (1 + i.val) opc e) (f : Gallery → VxRun → Gallery × Nat) :
    s.onVx g i opc f = .next { s with
      chip := s.chip.setGal (galKey g)
        (vxDone (s.chip.gal (galKey g)) (vxRunOf s i e) e (f (s.chip.gal (galKey g)) (vxRunOf s i e))) } := by
  refine (onQueue_inFlight h _).trans ?_
  simp only [h.2]

end

/-- A command that runs its operation on its opcode has that operation's effect on every descriptor in flight with the opcode. -/
theorem vxCommand_inFlight {command : GalId → Fin 2 → Instr} {opc : Nat} {f : Gallery → VxRun → Gallery × Nat}
    (hcommand : ∀ g i s, exec (command g i) s = s.onVx g i opc f) (g : GalId) (i : Fin 2) (e : QEntry) (s : State)
    (h : s.chip.InFlight (galKey g) (1 + i.val) opc e) :
    exec (command g i) s = .next { s with
      chip := s.chip.setGal (galKey g)
        (vxDone (s.chip.gal (galKey g)) (vxRunOf s i e) e (f (s.chip.gal (galKey g)) (vxRunOf s i e))) } :=
  (hcommand g i s).trans (onVx_inFlight h f)

end Sys2Proof.Laws

namespace Sys2Proof.Proofs
open Sys2Proof.Machine Sys2Proof.Laws

/-- Settles O20: each command runs its operation on its opcode, whose effect on the descriptor in flight `Sys2Proof.Laws.vxCommand_inFlight` gives. -/
theorem vectorElementwiseRun : Obligations.VectorElementwiseRun := by
  refine fun row hrow => vxCommand_inFlight fun g i s => ?_
  fin_cases hrow <;> dsimp only <;> rfl

/-- Settles O21, as O20. -/
theorem vectorSpecialFunctionsRun : Obligations.VectorSpecialFunctionsRun := by
  refine fun row hrow => vxCommand_inFlight fun g i s => ?_
  fin_cases hrow <;> dsimp only <;> rfl

/-- Settles O22, as O20. -/
theorem vectorMovesRun : Obligations.VectorMovesRun := by
  refine fun row hrow => vxCommand_inFlight fun g i s => ?_
  fin_cases hrow <;> dsimp only <;> rfl

end Sys2Proof.Proofs
end

section
/-! SUPPORT. FP32 words by sign and order (R153). -/

namespace Sys2Proof.Laws

open Sys2Proof.Machine

section
variable {a b : Word}

theorem fp32_eq_nan : fp32 a = .nan ↔ isNaN32 a = true := by simp [isNaN32]

/-! ### Maximum and minimum -/

theorem fMax_of_nan (ha : isNaN32 a = true) (hb : isNaN32 b = true) : fMax a b = nan32 := by simp [fMax, ha, hb]

theorem fMin_of_nan (ha : isNaN32 a = true) (hb : isNaN32 b = true) : fMin a b = nan32 := by simp [fMin, ha, hb]

theorem fMax_nan_left (ha : isNaN32 a = true) (hb : isNaN32 b = false) : fMax a b = b := by simp [fMax, ha, hb]

theorem fMin_nan_left (ha : isNaN32 a = true) (hb : isNaN32 b = false) : fMin a b = b := by simp [fMin, ha, hb]

theorem fMax_nan_right (ha : isNaN32 a = false) (hb : isNaN32 b = true) : fMax a b = a := by simp [fMax, ha, hb]

theorem fMin_nan_right (ha : isNaN32 a = false) (hb : isNaN32 b = true) : fMin a b = a := by simp [fMin, ha, hb]

/-- Of two numbers the maximum is the one with the greater key. -/
theorem fMax_of_numbers (ha : isNaN32 a = false) (hb : isNaN32 b = false) : fMax a b = if fKey a < fKey b then b else a := by simp [fMax, ha, hb]

/-- Of two numbers the minimum is the one with the smaller key. -/
theorem fMin_of_numbers (ha : isNaN32 a = false) (hb : isNaN32 b = false) : fMin a b = if fKey b < fKey a then b else a := by simp [fMin, ha, hb]

/-- The maximum of two numbers is one of them, and no less than either. -/
theorem fMax_spec (ha : isNaN32 a = false) (hb : isNaN32 b = false) :
    (fMax a b = a ∨ fMax a b = b) ∧ fKey a ≤ fKey (fMax a b) ∧ fKey b ≤ fKey (fMax a b) := by
  rw [fMax_of_numbers ha hb]
  split
  · next h => exact ⟨.inr rfl, h.le, le_rfl⟩
  · next h => exact ⟨.inl rfl, le_rfl, not_lt.mp h⟩

/-- The minimum of two numbers is one of them, and no greater than either. -/
theorem fMin_spec (ha : isNaN32 a = false) (hb : isNaN32 b = false) :
    (fMin a b = a ∨ fMin a b = b) ∧ fKey (fMin a b) ≤ fKey a ∧ fKey (fMin a b) ≤ fKey b := by
  rw [fMin_of_numbers ha hb]
  split
  · next h => exact ⟨.inr rfl, h.le, le_rfl⟩
  · next h => exact ⟨.inl rfl, le_rfl, not_lt.mp h⟩

/-! ### The sign -/

theorem fAbs_of_nan (h : isNaN32 a = true) : fAbs a = nan32 := by rw [fAbs, fp32_eq_nan.mpr h]

theorem fNeg_of_nan (h : isNaN32 a = true) : fNeg a = nan32 := by rw [fNeg, fp32_eq_nan.mpr h]

/-- Bit 31 alone is cleared. -/
theorem fAbs_of_number (h : isNaN32 a = false) : fAbs a = a &&& ~~~BitVec.twoPow 32 31 := by
  unfold fAbs
  split
  · next hnan => rw [fp32_eq_nan.mp hnan] at h; cases h
  · rfl

/-- Bit 31 alone is inverted. -/
theorem fNeg_of_number (h : isNaN32 a = false) : fNeg a = a ^^^ BitVec.twoPow 32 31 := by
  unfold fNeg
  split
  · next hnan => rw [fp32_eq_nan.mp hnan] at h; cases h
  · rfl

theorem getLsbD_fAbs (h : isNaN32 a = false) {n : Nat} (hn : n < 32) : (fAbs a).getLsbD n = (a.getLsbD n && n != 31) := by
  rw [fAbs_of_number h, BitVec.getLsbD_and, BitVec.getLsbD_not, BitVec.getLsbD_twoPow]
  grind

theorem getLsbD_fNeg (h : isNaN32 a = false) (n : Nat) : (fNeg a).getLsbD n = (a.getLsbD n != (n == 31)) := by
  rw [fNeg_of_number h, BitVec.getLsbD_xor, BitVec.getLsbD_twoPow]
  grind

end

end Sys2Proof.Laws

namespace Sys2Proof.Proofs
open Sys2Proof.Machine Sys2Proof.Laws

/-- Settles O56: maximum and minimum by the operands' keys, absolute value and negation by bit 31. -/
theorem minMaxAndSignRules : Obligations.MinMaxAndSignRules := by
  refine ⟨fun a b ha hb => ⟨fMax_of_nan ha hb, fMin_of_nan ha hb⟩,
    fun a b ha hb => ⟨fMax_nan_left ha hb, fMin_nan_left ha hb, fMax_nan_right hb ha, fMin_nan_right hb ha⟩, fun a b ha hb => ?_, by decide,
    fun a h => ⟨fAbs_of_nan h, fNeg_of_nan h⟩, fun a h n hn => ⟨getLsbD_fAbs h hn, getLsbD_fNeg h n⟩, fun g i s => ⟨rfl, rfl, rfl, rfl⟩⟩
  obtain ⟨hmax, hmaxA, hmaxB⟩ := fMax_spec ha hb
  obtain ⟨hmin, hminA, hminB⟩ := fMin_spec ha hb
  exact ⟨hmax, hmin, hmaxA, hmaxB, hminA, hminB⟩

end Sys2Proof.Proofs
end

section
/-! SUPPORT. What an elementwise vector operation writes (R148, R149, R151): the words of its destination register, or the rows it stores. -/

namespace Sys2Proof.Laws

open Sys2Proof.Machine

/-! ### Vector cores -/

section
variable {g : Gallery} {v : VCore}

@[simp] theorem vx_setVx (i : Nat) (v : VCore) : (g.setVx i v).vx i = v := by
  unfold Gallery.setVx Gallery.vx
  split <;> rfl

@[simp] theorem setVx_spad (i : Nat) (v : VCore) : (g.setVx i v).spad = g.spad := by
  unfold Gallery.setVx
  split <;> rfl

theorem word_setWord_other {k n : Nat} (w : Word) (h : n ≠ k) : (v.setWord k w).word n = v.word n := get_put_other _ w h

@[simp] theorem mask_setWord (k m : Nat) (w : Word) : (v.setWord k w).mask m = v.mask m := rfl

end

/-! ### Words of a register -/

section
variable {g : Gallery} {x : VxRun} {ws : List (Option Word)}

/-- A line of words leaves every word outside of the line. -/
theorem word_vxPutLine_other {k n : Nat} (h : ∀ c < ws.length, n ≠ k + c) : ((g.vxPutLine x k ws).vx x.core).word n = (g.vx x.core).word n := by
  rw [Gallery.vxPutLine, vx_setVx]
  refine List.foldlRecOn (motive := fun v : VCore => v.word n = (g.vx x.core).word n) _ _ rfl fun v hv e he => ?_
  split
  · rw [word_setWord_other _ (h _ (by simpa using List.snd_lt_of_mem_zipIdx he)), hv]
  · exact hv

theorem mask_vxPutLine (k m : Nat) : ((g.vxPutLine x k ws).vx x.core).mask m = (g.vx x.core).mask m := by
  rw [Gallery.vxPutLine, vx_setVx]
  refine List.foldlRecOn (motive := fun v : VCore => v.mask m = (g.vx x.core).mask m) _ _ rfl fun v hv e _ => ?_
  split
  · rw [mask_setWord, hv]
  · exact hv

@[simp] theorem vxPutLine_spad (k : Nat) : (g.vxPutLine x k ws).spad = g.spad := setVx_spad ..

end

/-! ### Rows in the scratchpad -/

@[simp] theorem length_packElems (bits : Nat) (codes : List Nat) : (packElems bits codes).length = packBytes bits codes.length := leBytes_length ..

/-- A row of 128 codes fills the row's bytes (Table 6-4). -/
theorem packBytes_row (f : Nat) : packBytes (Fmt.ofCode f).bits 128 = vxRowBytes f := by
  unfold packBytes vxRowBytes
  omega

theorem vxScaleBytes_scaled {f : Nat} (h : (Fmt.ofCode f).block ≠ 0) : vxScaleBytes f = 128 / (Fmt.ofCode f).block := if_neg h

theorem vxScaleBytes_unscaled {f : Nat} (h : (Fmt.ofCode f).block = 0) : vxScaleBytes f = 0 := if_pos h

/-- The blocks of a scaled format fill a row. -/
theorem blocks_mul_block (f : Fmt) (h : f.block ≠ 0) : 128 / f.block * f.block = 128 := by
  revert h
  cases f <;> decide

/-- A block has a code for each of its words: every case maps the words. -/
theorem length_convertBlock (f : Fmt) (rnd : Nat → Rounding) (ovf ftz : Bool) (t : Word) (vs : List Word) :
    (f.convertBlock rnd ovf ftz t vs).2.length = vs.length := by
  unfold Fmt.convertBlock
  dsimp only
  repeat' split
  all_goals simp

section
variable {g : Gallery} {x : VxRun}

theorem length_vxBlocks_scales (r : Nat) (f : Fmt) (n b : Nat) (ws : List Word) : (g.vxBlocks x r f n b ws).1.length = n := by
  induction n generalizing b ws with
  | zero => rfl
  | succ n ih => simp [Gallery.vxBlocks, ih]

theorem length_vxBlocks_codes (r : Nat) (f : Fmt) (n b : Nat) (ws : List Word) (h : ws.length = n * f.block) :
    (g.vxBlocks x r f n b ws).2.length = n * f.block := by
  induction n generalizing b ws with
  | zero => simp [Gallery.vxBlocks]
  | succ n ih =>
    rw [Nat.succ_mul] at h ⊢
    simp only [Gallery.vxBlocks, List.length_append, length_convertBlock, List.length_take]
    rw [ih _ _ (by rw [List.length_drop]; omega)]
    omega

/-- A row put to the scratchpad writes the row's bytes and its scale bytes, and no more. -/
theorem vxRowPut_ok {r a sa beyond : Nat} {ws : List (Option Word)} {g' : Gallery} (hlen : ws.length = 128)
    (h : g.vxRowPut x r a sa beyond ws = .ok g') :
    ∃ (codes scales : List Byte) (ecc : Store Bool), codes.length = vxRowBytes x.dfmt ∧ scales.length = vxScaleBytes x.dfmt ∧
      g' = { g with spad := Memory.setBytes (Memory.setBytes g.spad a codes) sa scales, ecc := ecc } := by
  unfold Gallery.vxRowPut at h
  dsimp only at h
  split at h
  · cases h
  · split at h
    · next hblock =>
      cases h
      exact ⟨_, [], _, by simp [hlen, packBytes_row], (vxScaleBytes_unscaled hblock).symm, rfl⟩
    · next hblock =>
      cases h
      have hcodes := length_vxBlocks_codes (g := g) (x := x) r (Fmt.ofCode x.dfmt) (128 / (Fmt.ofCode x.dfmt).block) 0 (ws.map fun w => w.getD 0)
        (by rw [List.length_map, hlen, blocks_mul_block _ hblock])
      rw [blocks_mul_block _ hblock] at hcodes
      exact ⟨_, _, _, by rw [length_packElems, hcodes, packBytes_row],
        by rw [List.length_map, length_vxBlocks_scales, vxScaleBytes_scaled hblock], rfl⟩

end

/-! ### The destination alone -/

/-- From a to b vector core x.core has written nothing but the destination of its descriptor: no word outside of the register, no mask, and no scratchpad
byte outside of the rows stored. -/
structure DstOnly (x : VxRun) (a b : Gallery) : Prop where
  word (k : Nat) : ¬ InVxReg x.dst k → (b.vx x.core).word k = (a.vx x.core).word k
  mask (m : Nat) : (b.vx x.core).mask m = (a.vx x.core).mask m
  byte (n : Nat) : x.dst < 0xC ∨ ¬ x.Stores n → Memory.byte b.spad n = Memory.byte a.spad n

section
variable {x : VxRun} {g g' : Gallery}

theorem DstOnly.refl (x : VxRun) (g : Gallery) : DstOnly x g g := ⟨fun _ _ => rfl, fun _ => rfl, fun _ _ => rfl⟩

theorem DstOnly.trans {a b c : Gallery} (h : DstOnly x a b) (h' : DstOnly x b c) : DstOnly x a c :=
  ⟨fun k hk => (h'.word k hk).trans (h.word k hk), fun m => (h'.mask m).trans (h.mask m), fun n hn => (h'.byte n hn).trans (h.byte n hn)⟩

/-- Nothing is written where the core and the scratchpad are as they were. -/
theorem DstOnly.of_eq {a b : Gallery} (hv : b.vx x.core = a.vx x.core) (hs : b.spad = a.spad) : DstOnly x a b :=
  ⟨fun _ _ => by rw [hv], fun _ => by rw [hv], fun _ _ => by rw [hs]⟩

/-- A line of words inside of the destination register. -/
theorem vxPutLine_dstOnly {k : Nat} {ws : List (Option Word)} (hk : ∀ c < ws.length, InVxReg x.dst (k + c)) :
    DstOnly x g (g.vxPutLine x k ws) where
  word n hn := word_vxPutLine_other fun c hc he => hn (he ▸ hk c hc)
  mask m := mask_vxPutLine k m
  byte n _ := by rw [vxPutLine_spad]

theorem inVxReg_tile {t r c : Nat} (ht : t < 4) (hr : r < 128) (hc : c < 128) : InVxReg t (tileKey t r 0 + c) := by
  rw [InVxReg, if_pos ht, tileKey]
  omega

theorem inVxReg_vec {d c : Nat} (h4 : ¬ d < 4) (hd : d < 0xC) (hc : c < 128) : InVxReg d (vecKey (d - 4) 0 + c) := by
  rw [InVxReg, if_neg h4, if_pos hd, vecKey, vecKey]
  omega

/-- A row among those that the descriptor stores. -/
theorem vxRowPut_dstOnly {r beyond : Nat} {ws : List (Option Word)} (hd : ¬ x.dst < 0xC) (hr : r < x.rows) (hlen : ws.length = 128)
    (h : g.vxRowPut x r (x.spd + r * strideOf x.dstr (vxRowBytes x.dfmt)) (x.sca + r * vxScaleBytes x.dfmt) beyond ws = .ok g') :
    DstOnly x g g' := by
  obtain ⟨codes, scales, ecc, hcodes, hscales, rfl⟩ := vxRowPut_ok hlen h
  refine ⟨fun _ _ => rfl, fun _ => rfl, fun n hn => ?_⟩
  have hout := hn.resolve_left hd
  rw [byte_setBytes_other, byte_setBytes_other]
  · by_contra hin
    exact hout ⟨r, hr, .inl (by dsimp only; omega)⟩
  · by_contra hin
    exact hout ⟨r, hr, .inr (by dsimp only; omega)⟩

theorem VxRun.rows_le (x : VxRun) : x.rows ≤ 128 := by
  unfold VxRun.rows
  split <;> decide

theorem vxDest_dstOnly {p : BitVec 128} {r : Nat} {ws : List (Option Word)} (hr : r < x.rows) (hlen : ws.length = 128)
    (h : g.vxDest x p r ws = .ok g') : DstOnly x g g' := by
  have hrows := VxRun.rows_le x
  unfold Gallery.vxDest at h
  dsimp only at h
  split at h
  · next ht =>
    cases h
    exact vxPutLine_dstOnly fun c hc => inVxReg_tile ht (by omega) (by simpa [hlen] using hc)
  · next ht =>
    split at h
    · next hd =>
      cases h
      exact vxPutLine_dstOnly fun c hc => inVxReg_vec ht hd (by simpa [hlen] using hc)
    · next hd => exact vxRowPut_dstOnly hd hr (by simpa using hlen) h

/-! ### Operations row by row -/

theorem skipAdd_dstOnly (i n : Nat) : DstOnly x g (g.skipAdd i n) := .of_eq rfl rfl

theorem rngAdd_dstOnly (id j n : Nat) : DstOnly x g (g.rngAdd id j n) := .of_eq rfl rfl

theorem setEntry_dstOnly (q : Nat) (e : QEntry) : DstOnly x g (g.setEntry q e) := .of_eq rfl rfl

theorem mxRows_dstOnly {f : Nat → Gallery → Except Nat Gallery} {n i : Nat} (hf : ∀ r < i + n, ∀ a b, f r a = .ok b → DstOnly x a b) (g : Gallery) :
    DstOnly x g (mxRows f i g n).1 := by
  induction n generalizing i g with
  | zero => exact .refl x g
  | succ n ih =>
    unfold mxRows
    split
    · exact .refl x g
    · next b hb => exact (hf i (by omega) g b hb).trans (ih (fun r hr => hf r (by omega)) b)

theorem vxEachRow_dstOnly {p : BitVec 128} {f : Nat → Gallery → Except Nat Gallery} (hf : ∀ r < x.rows, ∀ a b, f r a = .ok b → DstOnly x a b)
    (g : Gallery) : DstOnly x g (vxEachRow x p f g).1 := by
  refine mxRows_dstOnly (fun r hr a b h => ?_) g
  rw [Nat.zero_add] at hr
  split at h
  · exact hf r hr a b h
  · cases h
    exact skipAdd_dstOnly ..

/-- An operation over lanes writes its destination alone. -/
theorem vxLanes_dstOnly (na nb nc : Bool) (f : Nat → Nat → Word → Word → Word → Option Word) : DstOnly x g (g.vxLanes x na nb nc f).1 := by
  unfold Gallery.vxLanes Gallery.vxWith
  split
  · exact .refl x g
  · refine vxEachRow_dstOnly (fun r hr a b h => ?_) g
    dsimp only at h
    split at h
    · cases h
    · cases h
    · cases h
    · exact vxDest_dstOnly hr (by simp) h

/-- The end of a descriptor writes no register. -/
theorem vxEnd_dstOnly (e : QEntry) (st : Nat) : DstOnly x g (g.vxEnd x.core e st) := by
  refine DstOnly.trans ?_ (setEntry_dstOnly (1 + x.core) { e with st := .ended st })
  split
  · exact ⟨fun _ _ => by rw [vx_setVx]; rfl, fun _ => by rw [vx_setVx]; rfl, fun _ _ => by rw [setVx_spad]⟩
  · exact .refl x g

theorem outside_vxDone {r : Gallery × Nat} (e : QEntry) (h : outside (1 + x.core) r.1 = outside (1 + x.core) g) :
    outside (1 + x.core) (vxDone g x e r) = outside (1 + x.core) g :=
  (outside_vxEnd ..).trans ((outside_rngAdd ..).trans h)

theorem vxDone_dstOnly {e : QEntry} {r : Gallery × Nat} (h : DstOnly x g r.1) : DstOnly x g (vxDone g x e r) :=
  h.trans ((rngAdd_dstOnly ..).trans (vxEnd_dstOnly e r.2))

end

/-- An operation over lanes: one result for each lane of a row, from the lane's elements of up to three sources (R148). -/
def LaneOperation (f : Gallery → VxRun → Gallery × Nat) : Prop :=
  ∃ (na nb nc : Bool) (lane : VxRun → Nat → Nat → Word → Word → Word → Option Word), f = fun G x => G.vxLanes x na nb nc (lane x)

/-- A command whose operation is one over lanes writes its destination alone, in its gallery as the module holds it. -/
theorem LaneOperation.onVx_dstOnly {s t : State} {g : GalId} {i : Fin 2} {opc : Nat} {e : QEntry} {f : Gallery → VxRun → Gallery × Nat}
    (hf : LaneOperation f) (h : s.chip.InFlight (galKey g) (1 + i.val) opc e) (ht : s.onVx g i opc f = .next t) :
    DstOnly (vxRunOf s i e) (s.chip.gal (galKey g)) (t.chip.gal (galKey g)) := by
  obtain ⟨na, nb, nc, lane, rfl⟩ := hf
  rw [onVx_inFlight h] at ht
  injection ht with ht
  have honline : s.chip.galOnline (galKey g) = true := queueRuns_online h.1
  have hout := outside_vxDone e (outside_vxLanes (x := vxRunOf s i e) (g := s.chip.gal (galKey g)) na nb nc (lane (vxRunOf s i e)))
  rw [← ht]
  dsimp only
  rw [gal_setGal _ _ _ (online_ne_reset ((online_of_outside hout).trans honline))]
  exact vxDone_dstOnly (vxLanes_dstOnly ..)

end Sys2Proof.Laws

namespace Sys2Proof.Proofs
open Sys2Proof.Machine Sys2Proof.Laws

/-- Settles O55: every one of the commands runs an operation over lanes (`Sys2Proof.Laws.vxLanes_dstOnly`). -/
theorem elementwiseWritesOnlyItsDestination : Obligations.ElementwiseWritesOnlyItsDestination := by
  intro g i s t e p hp h ht
  have hcommand : ∃ f, exec p.2 s = s.onVx g i p.1 f ∧ LaneOperation f := by
    clear h ht
    fin_cases hp <;> dsimp only [exec] <;> exact ⟨_, rfl, _, _, _, _, rfl⟩
  obtain ⟨f, hrun, hf⟩ := hcommand
  obtain ⟨hword, hmask, hbyte⟩ := hf.onVx_dstOnly h (hrun.symm.trans ht)
  exact ⟨hword, hmask, hbyte⟩

end Sys2Proof.Proofs
end

section
/-! SUPPORT. The arcade's commands (R189, R190, R205 to R218): a descriptor in flight, a transfer at its destination and at its source, a held delivery, a
stalled copy and a wake from retention, each where its condition holds. -/

namespace Sys2Proof.Laws

open Sys2Proof.Machine

/-- A command on a module that is not stopped has the effect that its operation is shown to have. -/
theorem onLive_eq {s : State} (f : Chip → Chip) {d : Chip} (hs : s.chip.stopped = false) (h : f s.chip = d) :
    s.onLive f = .next { s with chip := d } := by
  rw [onLive_runs s f hs, h]

/-! ### Descriptors in flight (R211 to R215) -/

/-- An arcade descriptor in flight has its operation's effect. -/
theorem arcRun_inFlight {s : State} {g : GalId} {opc : Nat} {e : QEntry} (f : Chip → Nat → QEntry → Chip) (h : s.chip.InFlight (galKey g) 4 opc e) :
    s.onQueue g 4 (fun c k => c.arcRun k opc f) = .next { s with chip := f s.chip (galKey g) e } := by
  rw [onQueue_runs s g 4 _ h.1]
  simp only [Chip.arcRun, h.2]

section
variable {c : Chip} {n k : Nat} {x y : Xfer}

/-- A signal to a tower that the part has is sent (R214). -/
theorem arcSig_sends {e : QEntry} (h : c.hasTower (descF e.desc 8 14 2) = true) :
    c.arcSig k e = c.arcSend k e 0 [mkXfer k e (descF e.desc 8 14 2) (descF e.desc 8 7 7) none false none
      (.sig (descF e.desc 8 0 6) (BitVec.ofNat 32 (descF e.desc 12 0 32)))] := by
  simp only [Chip.arcSig, h, Bool.not_true, Bool.false_eq_true, if_false]

/-! ### Reception (R205, R206) -/

/-- Transfer n, which is y, comes as far as its destination's port: it is on its way, overtakes none, and finds a way and no full fork before it. -/
structure Comes (c : Chip) (n : Nat) (y : Xfer) : Prop where
  at_n : c.flight[n]? = some y
  flying : y.st = .flying
  inOrder : c.overtakes n y = false
  way : c.wayOpen y = true
  forkFree : c.forkFull n y = false

/-- A transfer as its destination's port sees it: at no fork, and for a fallback position on the dynamic channel (R222). -/
abbrev atPort (c : Chip) (y : Xfer) : Xfer := { y with fork := none, sched := y.sched && !c.isFallback (c.xferDst y) }

/-- What an unblocked port does with a transfer: by its CRC, by whether the port is open, and by whether the transfer must wait. That the
CRC is judged first is the model's choice (log entry 122). -/
theorem xferReceive_comes (h : Comes c n y) (hb : c.blocked n (atPort c y) = false) (crc : Half) :
    c.xferReceive n crc =
      if crc ≠ y.crc then c.setXfer n { atPort c y with st := .nacked }
      else if !c.lOpen (c.xferDst y) then c.refuse n (c.xferDst y) (atPort c y)
      else if c.mustWait (c.xferDst y) (atPort c y) then c.setXfer n { atPort c y with st := .held, seq := c.nextSeq }
      else c.deliver n (c.xferDst y) (atPort c y) := by
  have hcomes : ¬(y.st ≠ .flying ∨ c.overtakes n y ∨ !c.wayOpen y ∨ c.forkFull n y) := by
    simp [h.flying, h.inOrder, h.way, h.forkFree]
  simp only [Chip.xferReceive, h.at_n, if_neg hcomes, hb, Bool.false_eq_true, if_false]

theorem xferReceive_wrongCrc (h : Comes c n y) (hb : c.blocked n (atPort c y) = false) {crc : Half} (hc : crc ≠ y.crc) :
    c.xferReceive n crc = c.setXfer n { atPort c y with st := .nacked } := by
  rw [xferReceive_comes h hb, if_pos hc]

theorem xferReceive_waits (h : Comes c n y) (hb : c.blocked n (atPort c y) = false) (ho : c.lOpen (c.xferDst y) = true)
    (hw : c.mustWait (c.xferDst y) (atPort c y) = true) :
    c.xferReceive n y.crc = c.setXfer n { atPort c y with st := .held, seq := c.nextSeq } := by
  rw [xferReceive_comes h hb, if_neg (not_not_intro rfl), ho, hw]
  rfl

theorem xferReceive_delivers (h : Comes c n y) (hb : c.blocked n (atPort c y) = false) (ho : c.lOpen (c.xferDst y) = true)
    (hw : c.mustWait (c.xferDst y) (atPort c y) = false) :
    c.xferReceive n y.crc = c.deliver n (c.xferDst y) (atPort c y) := by
  rw [xferReceive_comes h hb, if_neg (not_not_intro rfl), ho, hw]
  rfl

/-- The head of what an open port holds, which no longer has to wait (R190, R206). -/
theorem ingressResume_delivers {sched : Bool} (hh : c.headHeld k sched = some n) (hx : c.flight[n]? = some x) (ho : c.lOpen k = true)
    (hw : c.mustHold k x = false) : c.ingressResume k sched = c.deliver n k x := by
  simp only [Chip.ingressResume, hh, hx, ho, hw, Bool.not_true, Bool.false_eq_true, if_false]

/-! ### Acknowledgement (R205) -/

theorem ackReceive_acked (hx : c.flight[n]? = some x) (hs : x.st = .acked) (ho : c.lOpen x.src = true) : c.ackReceive n = c.xferDone n x 0 := by
  simp only [Chip.ackReceive, hx, ho, hs, Bool.not_true, Bool.and_false, Bool.false_eq_true, if_false]

theorem ackReceive_resends (hx : c.flight[n]? = some x) (hs : x.st = .nacked) (ho : c.lOpen x.src = true) (hr : x.resends < 3) :
    c.ackReceive n = c.setXfer n { x with st := .flying, resends := x.resends + 1 } := by
  simp only [Chip.ackReceive, hx, ho, hs, hr, Bool.not_true, Bool.and_false, Bool.false_eq_true, if_false, if_true]

/-! ### The stall event (R218) and the wake from retention (R189) -/

/-- A copy that has stood 50 µs at a fork, not told of yet, is reported and entered in the fork's event ring. -/
theorem mcastStall_due {fork : Nat} (hx : c.flight[n]? = some x) (hs : x.st = .flying) (hf : x.fork = some fork) (ht : x.told = false)
    (hd : 50000 ≤ (c.act - x.since).toNat) :
    c.mcastStall fork n =
      let told := c.setXfer n { x with told := true }
      let c1 := told.report (.mcastStall (told.xferDst x) (fork % 104) (x.src % 104) (x.src / 104) x.index)
      c1.event (fork / 104) (104 + fork % 104) 8 0
        (x.dgal + (fork % 104) * 2 ^ 7 + (c1.gal x.src).logical * 2 ^ 14 + (x.src / 104) * 2 ^ 21 + x.index.toNat % 2 ^ 20 * 2 ^ 23) := by
  have hdue : (x.st == .flying && x.fork == some fork && !x.told && decide (50000 ≤ (c.act - x.since).toNat)) = true := by
    rw [hs, hf, ht, decide_eq_true hd]
    simp
  simp only [Chip.mcastStall, hx, hdue, if_true]
  rfl

/-- A retained gallery that waits for nothing is raised, and there is no WAITC to resume. -/
theorem retentionWake_raises {cause : Nat} (hr : (c.gal k).dom = .retained) (hw : ((c.retainLeave k cause).gal k).waiting = none) :
    c.retentionWake k cause = c.retainLeave k cause := by
  simp only [Chip.retentionWake, if_pos hr, hw, ite_self]

end

end Sys2Proof.Laws

namespace Sys2Proof.Proofs
open Sys2Proof.Machine Sys2Proof.Laws

/-- Settles O23: descriptors in flight by their operations, transfers by what their destination's port and their source do with them. -/
theorem arcadeCommandsRun : Obligations.ArcadeCommandsRun := by
  refine fun s => ⟨fun g e => arcRun_inFlight Chip.arcPut, fun g e => arcRun_inFlight Chip.arcMcast, fun g e => arcRun_inFlight Chip.arcIsend,
    fun g e h ht => ?_, fun g e => arcRun_inFlight Chip.arcMsg, ?_, ?_, ?_, fun n x hs hx ha ho => ?_, fun n x hs hx ha ho hr => ?_,
    fun g sched n x hs hh hx ho hw => ?_, fun g head hg => onGalReg_writable hg _, fun t p n x hs hx hfl hf ht hd => ?_,
    fun g cause hs hr hc hw => ?_, fun g cause hu ht => ?_⟩
  · exact (arcRun_inFlight Chip.arcSig h).trans (by rw [arcSig_sends ht])
  · rintro n y _ hs hn hfl hov hway hfork rfl ho hb hw
    exact onLive_eq (·.xferReceive n y.crc) hs (xferReceive_delivers ⟨hn, hfl, hov, hway, hfork⟩ hb ho hw)
  · rintro n y _ hs hn hfl hov hway hfork rfl ho hb hw
    exact onLive_eq (·.xferReceive n y.crc) hs (xferReceive_waits ⟨hn, hfl, hov, hway, hfork⟩ hb ho hw)
  · intro n crc y hs hn hfl hov hway hfork hcrc hb
    exact onLive_eq (·.xferReceive n crc) hs (xferReceive_wrongCrc ⟨hn, hfl, hov, hway, hfork⟩ hb hcrc)
  · exact onLive_eq (·.ackReceive n) hs (ackReceive_acked hx ha ho)
  · exact onLive_eq (·.ackReceive n) hs (ackReceive_resends hx ha ho hr)
  · exact onLive_eq (·.ingressResume (galKey g) sched) hs (ingressResume_delivers hh hx ho hw)
  · exact onLive_eq (·.mcastStall (galKey ⟨t, p⟩) n) hs (mcastStall_due hx hfl hf ht hd)
  · exact onLive_eq _ hs ((if_pos hc).trans (retentionWake_raises hr hw))
  · exact (onUsher_runs s _ hu).trans (by rw [if_pos ht])

end Sys2Proof.Proofs
end

section
/-! SUPPORT. The resets of parts of the module and the standby's takeover (R535 to R538): what each command does where it is let through. -/

namespace Sys2Proof.Laws

open Sys2Proof.Machine

variable {s : State}

/-! ### The write that resets a partition and the quiesce of a base die (R536, R537) -/

/-- A write of RST.PART takes effect on a running module that has the tower: always for the usher and a debug path, before seal for the host (R565). -/
theorem execPartitionReset_writes {t : Fin 4} {host : Bool} {v : DWord} (hr : s.chip.inReset = false) (hth : s.chip.thermStopped = false)
    (ht : s.chip.hasTower t.val = true) (hs : s.chip.stopped = false) (hh : host = false ∨ s.chip.isSealed = false) :
    execPartitionReset t host v s = .next { s with chip := s.chip.partWrite t.val v.toNat (2 ^ 64 - 1) } := by
  have hallowed : (host && s.chip.isSealed) = false := Bool.and_eq_false_iff.mpr hh
  simp only [execPartitionReset, onChip_next, hr, hth, ht, hs, hallowed, Bool.or_false, Bool.not_true, Bool.false_eq_true, if_false]

theorem execBaseDieQuiesce_quiesces {t : Fin 4} (ht : s.chip.hasTower t.val = true) (hs : s.chip.stopped = false)
    (hth : s.chip.thermStopped = false) (hr : s.chip.inReset = false) :
    execBaseDieQuiesce t s = .next { s with chip := (s.chip.quiesce t.val).settle } := by
  simp only [execBaseDieQuiesce, onChip_next, hr, hth, ht, hs, Bool.or_false, Bool.not_true, Bool.false_eq_true, if_false]

/-! ### The reset of a tower (R535) -/

/-- A tower that is due is reset in MOVING, and where there is no epoch. -/
theorem execTowerReset_due {t : Fin 4} (hu : s.chip.usherRuns = true) (hd : s.chip.sys.ha.towerDue.contains t.val = true)
    (he : s.chip.epochState = 3 ∨ s.chip.epochState = 0) :
    execTowerReset t s = .next { s with chip := (s.chip.towerReset t.val).settle } := by
  have hphase : (s.chip.epochState == 3 || s.chip.epochState == 0) = true := by simpa using he
  rw [execTowerReset, onUsher_runs s _ hu, hd, hphase]
  rfl

/-! ### The takeover (R538) -/

theorem execHeartbeatMissed_asksTakeover (hu : s.chip.usherRuns = true) (hb : s.chip.bit Reg.bringStatus 25 = true) :
    execHeartbeatMissed s = .next { s with chip := { s.chip with sys := { s.chip.sys with ha := { s.chip.sys.ha with takeover := true } } } } := by
  rw [execHeartbeatMissed, onUsher_runs s _ hu, if_pos hb]

/-- The standby becomes the primary: resync, recovery, the journal's RESET entry, STATUS and the NOTICE of the takeover. -/
def becomePrimary (d : Chip) : Chip :=
  let e := (d.resync.settle.recover).journalReset 2
  let f := ((e.wrF Reg.bringStatus 24 1 1).wrF Reg.bringStatus 25 1 0).notice 0x0802 1 0 (openDetail 0x0802 0)
  { f with sys := { f.sys with ha := { f.sys.ha with takeover := false } } }

/-- A takeover that is due on a ready standby, where holding every gallery gives d, which has no chanter job to cancel: by d's epoch it starts
to close the epoch, waits for the closing, or makes the standby the primary. -/
theorem execUsherTakeover_due {d : Chip} (hu : s.chip.usherRuns = true) (ht : s.chip.sys.ha.takeover = true)
    (hb : s.chip.bit Reg.bringStatus 25 = true) (hd : d = s.chip.gals.foldl (fun c e => Chip.holdGal c e.1) s.chip) (hc : d.chc = []) :
    execUsherTakeover s = .next { s with chip :=
      if d.epochState = 1 ∧ d.nextPlan.isSome then d.closingStart else if d.epochState = 2 then d else becomePrimary d } := by
  have hdue : ¬(!s.chip.sys.ha.takeover || !s.chip.bit Reg.bringStatus 25) = true := by simp [ht, hb]
  rw [execUsherTakeover, onUsher_runs s _ hu, if_neg hdue, ← hd]
  simp only [hc, List.foldl_nil]
  rfl

end Sys2Proof.Laws

namespace Sys2Proof.Proofs
open Sys2Proof.Machine Sys2Proof.Laws

/-- Settles O45: each reset by its conditions, the takeover by the phase of the epoch that the held module is in. -/
theorem partitionsAndTakeoverRun : Obligations.PartitionsAndTakeoverRun := by
  refine fun s => ⟨fun t host v => execPartitionReset_writes, fun t => execBaseDieQuiesce_quiesces, fun t => execTowerReset_due,
    execHeartbeatMissed_asksTakeover, fun d hu ht hb _ hd he hp hc => ?closes, fun d hu ht hb hd hc he => ?takesOver⟩
  case closes => exact (execUsherTakeover_due hu ht hb hd hc).trans (by rw [if_pos ⟨he, hp⟩])
  case takesOver => exact (execUsherTakeover_due hu ht hb hd hc).trans (by rw [if_neg (by simp [he]), if_neg (by simp [he])]; rfl)

end Sys2Proof.Proofs
end

section
/-! SUPPORT. The address interleave (R224 to R228): a line by its tower, stripe group, stripe and line of the stripe; and the state after reset. -/

namespace Sys2Proof.Laws

open Sys2Proof.Machine

/-! ### Stripes and vaults of a stripe group (R226, R227) -/

/-- The stripe of a line within its stripe group. -/
def lineStripe (l : Nat) : Nat := l % 2 ^ 32 / 4 % 96

/-- The logical vault of stripe j of stripe group g. -/
def stripeVault (g j : Nat) : Nat := 25 * ((j + groupRot g) % 96) % 96

/-- The stripe that stripe group g has in logical vault v. -/
def vaultStripe (g v : Nat) : Nat := (73 * v + 96 - groupRot g) % 96

theorem lineVault_eq (l : Nat) : lineVault l = stripeVault (lineGroup l) (lineStripe l) := rfl

theorem lineAt_eq (t v n : Nat) : lineAt t v n = t * 2 ^ 32 + (96 * (n / 4) + vaultStripe (n / 4) v) * 4 + n % 4 := rfl

theorem groupRot_lt (g : Nat) : groupRot g < 96 := Nat.mod_lt _ (by decide)

theorem lineStripe_lt (l : Nat) : lineStripe l < 96 := Nat.mod_lt _ (by decide)

theorem vaultStripe_lt (g v : Nat) : vaultStripe g v < 96 := Nat.mod_lt _ (by decide)

theorem lineVault_lt (l : Nat) : lineVault l < 96 := Nat.mod_lt _ (by decide)

/-- The two maps are inverses, as 25 · 73 is 1 modulo 96. -/
theorem vaultStripe_stripeVault (g : Nat) {j : Nat} (hj : j < 96) : vaultStripe g (stripeVault g j) = j := by
  have hrot := groupRot_lt g
  unfold vaultStripe stripeVault
  omega

theorem stripeVault_vaultStripe (g : Nat) {v : Nat} (hv : v < 96) : stripeVault g (vaultStripe g v) = v := by
  have hrot := groupRot_lt g
  unfold vaultStripe stripeVault
  omega

/-! ### A line and its parts -/

theorem lineNum_div (l : Nat) : lineNum l / 4 = lineGroup l := by
  unfold lineNum
  omega

theorem lineNum_mod (l : Nat) : lineNum l % 4 = l % 4 := by
  unfold lineNum
  omega

/-- A line is put together from its parts. -/
theorem line_eq_parts (l : Nat) : l = lineTower l * 2 ^ 32 + (96 * lineGroup l + lineStripe l) * 4 + l % 4 := by
  unfold lineTower lineGroup lineStripe
  omega

/-- The parts of the line that is put together from a tower, a stripe group that is whole in the tower, a stripe and a line of the stripe. -/
theorem parts_of_line (t : Nat) {g j r l : Nat} (hg : g < 11184810) (hj : j < 96) (hr : r < 4) (hl : l = t * 2 ^ 32 + (96 * g + j) * 4 + r) :
    lineTower l = t ∧ lineGroup l = g ∧ lineStripe l = j ∧ l % 4 = r := by
  have htower : l / 2 ^ 32 = t := by omega
  have hlocal : l % 2 ^ 32 = (96 * g + j) * 4 + r := by omega
  have hstripe : l % 2 ^ 32 / 4 = 96 * g + j := by omega
  refine ⟨htower, ?group, ?stripe, by omega⟩
  case group =>
    rw [lineGroup, hstripe]
    omega
  case stripe =>
    rw [lineStripe, hstripe]
    omega

/-! ### The interleave and its inverse -/

theorem lineAt_place (l : Nat) : lineAt (lineTower l) (lineVault l) (lineNum l) = l := by
  rw [lineAt_eq, lineNum_div, lineNum_mod, lineVault_eq, vaultStripe_stripeVault _ (lineStripe_lt l), ← line_eq_parts]

theorem place_lineAt (t : Nat) {v n : Nat} (hv : v < 96) (hn : n < 4 * 11184810) :
    lineTower (lineAt t v n) = t ∧ lineVault (lineAt t v n) = v ∧ lineNum (lineAt t v n) = n := by
  obtain ⟨htower, hgroup, hstripe, hline⟩ := parts_of_line t (by omega) (vaultStripe_lt (n / 4) v) (Nat.mod_lt n (by decide)) (lineAt_eq t v n)
  refine ⟨htower, ?vault, ?number⟩
  case vault => rw [lineVault_eq, hgroup, hstripe, stripeVault_vaultStripe _ hv]
  case number => rw [lineNum, hgroup, hline, Nat.div_add_mod']

end Sys2Proof.Laws

namespace Sys2Proof.Proofs
open Sys2Proof.Machine Sys2Proof.Laws

/-- Settles O49: within a stripe group the step of 25 and the rotation are undone by 73 (`Sys2Proof.Laws.vaultStripe_stripeVault`). -/
theorem interleaveIsInvertible : Obligations.InterleaveIsInvertible :=
  ⟨lineAt_place, lineVault_lt, fun t _ _ => place_lineAt t⟩

/-- Settles O48: at reset the queue and every store are empty. -/
theorem resetIsCleanAndCanonical : Obligations.ResetIsCleanAndCanonical :=
  ⟨rfl, List.forall_mem_nil _, Canon.reset, rfl, fun _ => ⟨rfl, rfl, rfl⟩, fun _ => rfl⟩

end Sys2Proof.Proofs
end

section
/-! SUPPORT. The stair's descriptors (R242 to R248) and the queries over annexes (R277 to R279): what each command does where its condition holds. -/

namespace Sys2Proof.Laws

open Sys2Proof.Machine

section
variable {s : State} {c : Chip}

/-! ### Stair descriptors (R242, R246 to R248) -/

theorem stairRun_entry {k : Nat} {p : Desc → Bool} {e : QEntry} (f : Chip → Nat → QEntry → Chip) (h : c.stairEntry k p = some e) :
    c.stairRun k p f = f c k e := by
  simp only [Chip.stairRun, h]

/-- On a stair queue that runs, a command applies its operation to the entry that is next for it. -/
theorem onQueue_stairRun {g : GalId} {p : Desc → Bool} {e : QEntry} (f : Chip → Nat → QEntry → Chip) (hq : s.chip.queueRuns (galKey g) 3 = true)
    (h : s.chip.stairEntry (galKey g) p = some e) :
    s.onQueue g 3 (fun c k => c.stairRun k p f) = .next { s with chip := f s.chip (galKey g) e } := by
  rw [onQueue_runs s g 3 _ hq, stairRun_entry f h]

/-! ### Queries over annexes (R278, R279) -/

/-- A command of the running usher has the effect that its operation is shown to have. -/
theorem onUsher_eq (f : Chip → Chip) {d : Chip} (hu : s.chip.usherRuns = true) (h : f s.chip = d) : s.onUsher f = .next { s with chip := d } := by
  rw [onUsher_runs s f hu, h]

theorem execAttnQuery_answers {l : Fin 5} {c1 : Chip} {q : List Byte} (hu : s.chip.usherRuns = true) (hm : s.chip.takeMsg l.val 0x10 = some (c1, q)) :
    execAttnQuery (.receive l) s = .next { s with chip := c1.sendMsg l.val 0x11 false .plain (c1.attnAnswer l.val q) } := by
  refine onUsher_eq _ hu ?_
  simp only [hm]

theorem execAttnPartial_receives {l : Fin 5} {c1 : Chip} {p : List Byte} (hu : s.chip.usherRuns = true) (hm : s.chip.takeMsg l.val 0x11 = some (c1, p)) :
    execAttnPartial l s = .next { s with chip := (c1.attnReceive p).settle } := by
  refine onUsher_eq _ hu ?_
  simp only [hm]

theorem execAttnPartialTimeout_due {tag : DWord} {a : AttnWait} (hu : s.chip.usherRuns = true)
    (ha : (s.chip.lk.attn.find? fun a => a.tag == tag && a.got.isNone) = some a) (hd : a.since.toNat + 2000000 ≤ s.chip.act.toNat) :
    execAttnPartialTimeout tag s = .next { s with chip := (s.chip.attnFail a).settle } := by
  refine onUsher_eq _ hu ?_
  simp only [ha, if_neg (not_lt.mpr hd)]

/-- The tag of the query that the module sends next: the epoch over the next free value. -/
def attnTag (c : Chip) : DWord := BitVec.ofNat 64 (c.free % 2 ^ 40 + c.epoch.toNat % 2 ^ 24 * 2 ^ 40)

/-- The message of query q over chunk k of ticket i and tower t, for the row at position pos in a layer (Table 10-6). -/
def attnBody (c : Chip) (i layer t k pos : Nat) (q : List Word) : List Byte :=
  leBytes 4 (field (c.cblk (c.tkRoot i) t k) 0 32) ++ leBytes 2 layer ++ [BitVec.ofNat 8 t, BitVec.ofNat 8 (q.length / 128)] ++ leBytes 4 pos
    ++ leBytes 4 (windowLow (c.model (c.tkModel i)).image layer pos) ++ leBytes 8 (attnTag c).toNat ++ leBytes 8 0
    ++ q.foldr (fun w u => leBytes 4 w.toNat ++ u) []

/-- The module with the query noted as sent and unanswered. -/
def attnNoted (c : Chip) (w : Word) (layer t k pos : Nat) (q : List Word) : Chip :=
  { c with free := c.free + 1, lk := { c.lk with attn := c.lk.attn ++ [⟨attnTag c, w, pos, layer, t, k, c.act, none, q⟩] } }

/-- A row of a live ticket asks the peer of a remote chunk over the first link that leads there and knows of queries. -/
theorem execAttnQuery_sends {w : Word} {layer : Fin 255} {t : Fin 4} {k : Fin 64} {i pos l : Nat} {q : List Word} {ls : List Nat}
    (hu : s.chip.usherRuns = true) (hi : s.chip.liveIdx w = some i) (hpos : s.chip.rowPos w = some pos)
    (hl : ((s.chip.linksTo (field (s.chip.cblk (s.chip.tkRoot i) t.val k.val) 32 8)).filter fun l => decide (0x20 ≤ s.chip.linkVer l)) = l :: ls)
    (hb : bitOf (s.chip.cblk (s.chip.tkRoot i) t.val k.val) 63 = true) (hr : s.chip.tkRoot i ≠ 0) (hq : q.length % 128 = 0) (hq0 : q.length ≠ 0)
    (hq1 : q.length ≤ 4096) :
    execAttnQuery (.send w layer t k q) s = .next { s with
      chip := (attnNoted s.chip w layer.val t.val k.val pos q).sendMsg l 0x10 false (.attn (attnTag s.chip))
        (attnBody s.chip i layer.val t.val k.val pos q) } := by
  have hsend : ¬(!bitOf (s.chip.cblk (s.chip.tkRoot i) t.val k.val) 63 ∨ s.chip.tkRoot i = 0 ∨ q.length % 128 ≠ 0 ∨ q.length = 0
      ∨ 4096 < q.length) := by
    simp [hb, hr, hq, hq0, hq1]
  refine onUsher_eq _ hu ?_
  simp only [Chip.attnSend, hi, hpos, hl, if_neg hsend]
  rfl

end

end Sys2Proof.Laws

namespace Sys2Proof.Proofs
open Sys2Proof.Machine Sys2Proof.Laws

/-- Settles O24: each command of the stair gives its operation the entry that is next for it, each of the usher its message where one has come or is due. -/
theorem stairAndAttentionRun : Obligations.StairAndAttentionRun := by
  refine fun s => ⟨fun g e => onQueue_stairRun (Chip.stMoveRun true), fun g e => onQueue_stairRun (Chip.stMoveRun false),
    fun g e => onQueue_stairRun Chip.stGather, fun g e => onQueue_stairRun Chip.stScatter, fun g e => onQueue_stairRun (Chip.stCmo 0),
    fun g e => onQueue_stairRun (Chip.stCmo 1), fun g e => onQueue_stairRun (Chip.stCmo 2), fun g e => onQueue_stairRun (Chip.stCmo 3),
    fun g e => onQueue_stairRun (Chip.stCmo 4), fun l c1 q => execAttnQuery_answers, fun w layer t k q i pos l ls => execAttnQuery_sends,
    fun l c1 p => execAttnPartial_receives, fun tag a => execAttnPartialTimeout_due⟩

end Sys2Proof.Proofs
end

section
/-! SUPPORT. The memory path's commands (R42, R43, R48, R54, R55, R229 to R259): what each does where its condition holds. -/

namespace Sys2Proof.Laws

open Sys2Proof.Machine

section
variable {s : State} {c : Chip}

/-- A command that needs no running module has the effect that its operation is shown to have. -/
theorem onChip_eq (f : Chip → Chip) {d : Chip} (h : f s.chip = d) : s.onChip f = .next { s with chip := d } := by
  rw [onChip_next, h]

/-! ### Requests at their home slice (R229, R231, R233, R339) -/

section
variable {r : LineReq} {l : Nat} {ahead : List (Nat × LineReq)}

theorem takeTurn_serves (hb : c.portBusy ahead r l = false) (ho : c.ownHeld r l = false) (hs : c.canServe r l = true) :
    c.takeTurn ahead r l = c.sliceServe r l := by
  simp only [Chip.takeTurn, hb, ho, hs, Bool.false_eq_true, if_false, if_true]

/-- A read inside of a range that the bottom owns is held for the burst. -/
theorem takeTurn_heldForBurst (hb : c.portBusy ahead r l = false) (ho : c.ownHeld r l = true) : c.takeTurn ahead r l = c.holdReq r l true := by
  simp only [Chip.takeTurn, hb, ho, Bool.false_eq_true, if_false, if_true]

/-- A request waits behind one of its port, and for room. -/
theorem takeTurn_waits (h : c.portBusy ahead r l = true ∨ (c.ownHeld r l = false ∧ c.canServe r l = false)) :
    c.takeTurn ahead r l = c.holdReq r l false := by
  rcases h with hb | ⟨ho, hs⟩
  · rw [Chip.takeTurn, if_pos hb]
  · simp only [Chip.takeTurn, ho, hs, Bool.false_eq_true, if_false, ite_self]

end

section
variable {tag : Word} {line : BitVec 34} {op : LineOp} {ah : Fin 3} {who : Requester} {r : LineReq}

/-- A request whose path is in service takes its turn at its home slice, where what waits is looked at then. -/
theorem execSliceRequest_inService (hr : r = ⟨tag.toNat, who, op, ah.val, s.chip.now, false⟩) (hs : s.chip.stopped = false)
    (hp : s.chip.pathStatus line.toNat who = 0) :
    execSliceRequest tag line op ah who s = .next { s with
      chip := (s.chip.takeTurn s.chip.mem.held r line.toNat).serveHeld (lineHome line.toNat) } := by
  subst hr
  refine onLive_eq _ hs ?_
  simp only [Chip.sliceRequest, hp]

theorem execSliceRequest_outOfService {n : Nat} (hs : s.chip.stopped = false) (hp : s.chip.pathStatus line.toNat who = n + 1) :
    execSliceRequest tag line op ah who s = .next { s with chip := s.chip.answer tag.toNat (n + 1) 0 } := by
  refine onLive_eq _ hs ?_
  simp only [Chip.sliceRequest, hp]

end

/-- A fill that has been read, whose turn has come and that has room serves what waits on it (R233, R235). -/
theorem execSliceFill_serves {line : BitVec 34} {l : Nat} {ws : List LineReq} {d : Line} {p : Bool} (hs : s.chip.stopped = false)
    (hf : (s.chip.mem.fills.find? fun f => f.line == line.toNat) = some ⟨l, ws, some (d, p)⟩)
    (ht : (ws.isEmpty && s.chip.mem.held.any fun h => h.1 == l) = false) (hr : s.chip.fillRoom l = true) :
    execSliceFill line s = .next { s with
      chip := (ws.foldl (Chip.serveFill l)
        (({ s.chip with mem := { s.chip.mem with fills := s.chip.mem.fills.filter fun f => f.line != l } } : Chip), p, d)).1.serveHeld (lineHome l) } := by
  refine onLive_eq _ hs ?_
  simp only [Chip.sliceFill, hf, ht, hr, Bool.not_true, Bool.or_self, Bool.false_eq_true, if_false]

/-! ### The vault's queue (R253) -/

section
variable {t : Fin 4} {v : Fin 104} {n : Fin 128} {q : VaultReq}

/-- A vault whose bus the top holds, that is awake and has a slot left serves the request of its queue that may go next. -/
theorem execVaultRequest_serves (hs : s.chip.stopped = false) (hq : (s.chip.queueOf (vaultKey t.val v.val))[n.val]? = some q)
    (hb : Store.get noMark s.chip.mem.bottomBus (vaultKey t.val v.val) = false) (ha : s.chip.vaultAsleep (vaultKey t.val v.val) = false)
    (hl : s.chip.slotsLeft (vaultKey t.val v.val) ≠ 0) (hn : (s.chip.vaultNext (vaultKey t.val v.val)).contains q = true) :
    execVaultRequest t v n s = .next { s with chip := s.chip.vaultServe (vaultKey t.val v.val) q } := by
  refine onLive_eq _ hs ?_
  simp only [hq, hb, ha, beq_eq_false_iff_ne.mpr hl, hn, Bool.not_true, Bool.or_self, Bool.false_eq_true, if_false]

end

/-- The module after vault k has taken a request off its queue: the bus moved for it, and fills without a queued read issued again. -/
abbrev vaultTaken (c : Chip) (k : Nat) (q : VaultReq) : Chip :=
  (({ c with mem := { c.mem with vq := c.mem.vq.erase q } } : Chip).vaultMoved k q).reissue k

theorem vaultServe_write {k : Nat} {q : VaultReq} {w : Line × Bool} (hw : q.write = some w) :
    c.vaultServe k q = ((vaultTaken c k q).dramWrite q.line w.1 w.2).serveHeld (lineHome q.line) := by
  simp only [Chip.vaultServe, hw]

/-- The read of a line for its fill: who waits first is who reads, and the fill has got the line. -/
def readForFill (c : Chip) (l : Nat) : Chip :=
  let who := match c.mem.fills.find? fun f => f.line == l with
    | some f => f.waiting.head?.map (·.who)
    | none => none
  let r := c.vaultRead l 0 who
  { r.1 with mem := { r.1.mem with fills := r.1.mem.fills.map fun f => if f.line = l then { f with got := some (r.2.2, r.2.1) } else f } }

theorem vaultServe_read {k : Nat} {q : VaultReq} (hw : q.write = none) :
    c.vaultServe k q = (readForFill (vaultTaken c k q) q.line).serveHeld (lineHome q.line) := by
  simp only [Chip.vaultServe, hw]
  rfl

/-! ### Upkeep: refresh, landings, self-refresh (R254, R255, R258) -/

section
variable {t : Fin 4} {v : Fin 104} {layer : Fin 16} {needed : Byte}

theorem execRefresh_advances {bank : Fin 16} (ht : s.chip.hasTower t.val = true) (ha : s.chip.bit (Reg.vaultCtl t.val v.val) 48 = false)
    (hl : layer.val < s.chip.part.layers) :
    execRefresh t v layer bank s = .next { s with chip := { s.chip with mem := { s.chip.mem with
      refreshRow := Store.modify zeroRow13 s.chip.mem.refreshRow ((vaultKey t.val v.val * 16 + layer.val) * 16 + bank.val) (· + 1)
      openRow := Store.put zeroNat s.chip.mem.openRow ((vaultKey t.val v.val * 16 + layer.val) * 16 + bank.val) 0 } } } := by
  refine onChip_eq _ (if_neg ?_)
  simp [ht, ha, hl]

theorem execDelayLineCheck_marks (ht : s.chip.hasTower t.val = true) (hd : s.chip.landingDrift t.val v.val layer.val needed = true) :
    execDelayLineCheck t v layer needed s = .next { s with chip := { s.chip with mem := { s.chip.mem with
      drifted := Store.put noMark s.chip.mem.drifted (vaultKey t.val v.val * 16 + layer.val) true } } } :=
  onChip_eq _ (if_pos (Bool.and_eq_true_iff.mpr ⟨ht, hd⟩))

theorem execSelfRefreshEntry_enters (ht : s.chip.hasTower t.val = true) (ha : s.chip.vaultAsleep (vaultKey t.val v.val) = false) :
    execSelfRefreshEntry t v s = .next { s with chip := s.chip.selfRefreshEnter t.val v.val none } :=
  onChip_eq _ (if_pos (by rw [ht, ha]; rfl))

theorem execSelfRefreshWritebackTimeout_enters {written : Nat} (ht : s.chip.hasTower t.val = true)
    (ha : s.chip.vaultAsleep (vaultKey t.val v.val) = false) :
    execSelfRefreshWritebackTimeout t v written s = .next { s with chip := s.chip.selfRefreshEnter t.val v.val (some written) } :=
  onChip_eq _ (if_pos (by rw [ht, ha]; rfl))

end

/-! ### Lanes, bridges and stairs (R42, R43, R48, R55, R259) -/

/-- What comes before the lane of a path is mapped: for a token via the bus is given to the top (R43). -/
def beforeLaneFail (c : Chip) : LanePath → Chip
  | .vaultToken t v => c.tokenSplit (vaultKey t.val v.val)
  | _ => c

theorem beforeLaneFail_other {p : LanePath} (h : ∀ t v, p ≠ .vaultToken t v) : beforeLaneFail c p = c := by
  cases p with
  | vaultToken t v => exact absurd rfl (h t v)
  | _ => rfl

/-- A lane that a present path has is mapped and logged. -/
theorem execLaneFailRetrain_present {p : LanePath} {lane : Fin 4608} (hp : s.chip.hasPath p = true) (hl : lane.val < p.lanes) :
    execLaneFailRetrain p lane s = .next { s with chip := (beforeLaneFail s.chip p).laneFail p lane.val } := by
  refine onChip_eq _ ((if_neg ?_).trans ?_)
  · simp [hp, hl]
  · rfl

section
variable {b : Fin 4} {forward : Bool} {x : Burst}

/-- A burst on a bridge in service is taken by its CRC, or asked for again (R55). -/
theorem execBridgeBurstReceive_inService (hs : s.chip.stopped = false) (hb : s.chip.part.hasBridge b.val = true)
    (ho : Store.get noMark s.chip.mem.bridgeOut b.val = false) :
    execBridgeBurstReceive b forward x s = .next { s with
      chip := if x.crc = Config.burstCrc x.words then s.chip.takeBurst b.val forward x
        else { s.chip with mem := { s.chip.mem with bridgeReplay := Store.put noMark s.chip.mem.bridgeReplay (b.val * 2 + b2n forward) true } } } :=
  onLive_eq _ hs (if_neg (by simp [hb, ho]))

theorem execBridgeOutOfService_dead (hb : s.chip.part.hasBridge b.val = true) (ho : Store.get noMark s.chip.mem.bridgeOut b.val = false)
    (hd : s.chip.bridgeDead b.val = true) : execBridgeOutOfService b s = .next { s with chip := s.chip.bridgeGone b.val } :=
  onChip_eq _ (if_neg (by simp [hb, ho, hd]))

end

theorem execStairOutOfService_dead {t h : Fin 4} (ht : s.chip.hasTower t.val = true) (ho : Store.get noMark s.chip.mem.stairOut (t.val * 4 + h.val) = false)
    (hd : s.chip.stairDead t.val h.val = true) : execStairOutOfService t h s = .next { s with chip := s.chip.stairGone t.val h.val } :=
  onChip_eq _ (if_neg (by simp [ht, ho, hd]))

end

end Sys2Proof.Laws

namespace Sys2Proof.Proofs
open Sys2Proof.Machine Sys2Proof.Laws

/-- Settles O25: a request by its turn at its slice, a queued line by what its vault may serve next, the upkeep and the failures by their conditions. -/
theorem memoryPathRuns : Obligations.MemoryPathRuns := by
  refine fun s => ⟨?served, ?heldForBurst, ?waits, fun tag line op ah who n => execSliceRequest_outOfService, fun line l ws d p => execSliceFill_serves,
    fun line hs hb => onLive_eq _ hs (if_pos hb), ?written, ?read, fun t v layer bank => execRefresh_advances,
    fun t v layer needed => execDelayLineCheck_marks, fun t v layer needed hd => onChip_eq _ (if_pos hd), ?lane,
    fun t v lane => execLaneFailRetrain_present (p := .vaultToken t v), ?burst, ?replay,
    fun b => execBridgeOutOfService_dead, fun t h => execStairOutOfService_dead, fun t v => execSelfRefreshEntry_enters,
    fun t v written => execSelfRefreshWritebackTimeout_enters, fun t v needed ha => onChip_eq _ (if_pos ha)⟩
  case served =>
    intro tag line op ah who r hr hs hp hb ho hc
    exact (execSliceRequest_inService hr hs hp).trans (by rw [takeTurn_serves hb ho hc])
  case heldForBurst =>
    intro tag line op ah who r hr hs hp hb ho
    exact (execSliceRequest_inService hr hs hp).trans (by rw [takeTurn_heldForBurst hb ho])
  case waits =>
    intro tag line op ah who r hr hs hp hw
    exact (execSliceRequest_inService hr hs hp).trans (by rw [takeTurn_waits hw])
  case written =>
    intro t v n q w hs hq hw hb ha hl hn
    exact (execVaultRequest_serves hs hq hb ha hl hn).trans (by rw [vaultServe_write hw])
  case read =>
    intro t v n q hs hq hw hb ha hl hn
    exact (execVaultRequest_serves hs hq hb ha hl hn).trans (by rw [vaultServe_read hw]; rfl)
  case lane =>
    intro p lane hp hl hn
    exact (execLaneFailRetrain_present hp hl).trans (by rw [beforeLaneFail_other hn])
  case burst =>
    intro b forward x hx hs hb ho
    exact (execBridgeBurstReceive_inService hs hb ho).trans (by rw [if_pos hx])
  case replay =>
    intro b forward x hx hs hb ho
    exact (execBridgeBurstReceive_inService hs hb ho).trans (by rw [if_neg hx])

end Sys2Proof.Proofs
end

section
/-! SUPPORT. The memory of tickets (R274, R349, R387 to R393), row tables (R378) and the energy of a step (R381): what each command does where its condition holds. -/

namespace Sys2Proof.Laws

open Sys2Proof.Machine

section
variable {s : State} {c : Chip} {w : Word} {i : Nat}

/-- A command of the running usher for a live ticket has the effect that its operation is shown to have. -/
theorem onTicket_eq (f : Chip → Nat → Chip) {d : Chip} (hu : s.chip.usherRuns = true) (hi : s.chip.liveIdx w = some i)
    (h : f (s.chip.mend i) i = d) : s.onTicket w f = .next { s with chip := d.settle } := by
  rw [onTicket_live s w f i hu hi, h]

/-! ### Demotion (R274, R349, R387) -/

/-- The pages to demote that get a cold slot, each as an item of its page list's job: hot slot, cold slot, bytes. -/
def demotionItems (c : Chip) (i : Nat) : Chip × List (PageRef × Nat × Nat × Nat) :=
  (c.demotable i).foldl (fun r e =>
    match Chip.takeSlot r.1 e.1.t 1 with
    | none => r
    | some (d, a) => (d, r.2 ++ [({ e.1 with page := 0 }, field e.2.2 0 40, a, e.2.1)])) (c.setFlag i 0 true, [])

/-- The module that demotes ticket i, with a job for each page list that has items. -/
def demotionSent (c : Chip) (i : Nat) : Chip :=
  ((groupItems (demotionItems c i).2).foldl (fun d g => Chip.addWork d g.1.t .demote (.demote i) g.2) (demotionItems c i).1).sendWorks

theorem demoteStart_due {ms : Nat} (hms : c.demAfter i = some ms) (hst : c.tkState i = 5) (hhot : c.tkHot i ≠ 8) (hfl : field (c.tk i 5 1) 0 3 = 0)
    (hdue : (if (c.aux i).demAt = 0 then c.tkSince i else max (c.tkSince i) (c.aux i).demAt.toNat) + ms * 1000000 ≤ c.now.toNat)
    (hp : (c.demotable i).isEmpty = false) (hf : c.forkSource (c.tkWord i) = false) : c.demoteStart i = demotionSent c i := by
  have hmay : (!(c.demotable i).isEmpty) = true ∧ (!c.forkSource (c.tkWord i)) = true := by simp [hp, hf]
  simp only [Chip.demoteStart, hms]
  exact if_pos ⟨hst, hhot, hfl, hdue, hmay⟩

/-- A ticket whose pages no changeover moves starts its demotion. -/
theorem execDemotionStart_starts {d : Chip} (hu : s.chip.usherRuns = true) (hi : s.chip.liveIdx w = some i)
    (hr : ((s.chip.mend i).rehangOf w).isSome = false) (hd : (s.chip.mend i).demoteStart i = d) :
    execDemotionStart w s = .next { s with chip := d.settle } := by
  refine onTicket_eq _ hu hi ?_
  simp only [hr, hd, Bool.false_eq_true, if_false]

/-- The module once the pages of an ended demotion have their entries: PARKED_COLD where no page is left to demote. -/
def demotionSettled (c1 : Chip) (i : Nat) : Chip :=
  let c2 := (c1.demoteSettle i).setAux i fun x => { x with demAt := c1.now }
  let flags := setField (c2.tk i 5 1) 0 1 0 ||| (if (c2.pagesOf (c2.tkRoot i)).any fun e => field e.2.2 40 4 == 8 then 8 else 0)
  if (c2.demotable i).isEmpty then c2.setStateWith i 6 0 fun l => setField l 40 8 flags else c2.tkPut i 5 1 flags

theorem demoteEnd_ended {failed : List Nat} {c1 : Chip} {ok : Bool} (hf : c.tkFlag i 0 = true) (hst : c.tkState i = 5)
    (hw : c.worksEnd (Work.is (.demote i)) failed = some (c1, ok)) : c.demoteEnd i failed = demotionSettled c1 i := by
  have hruns : ¬((!c.tkFlag i 0) = true ∨ c.tkState i ≠ 5) := by simp [hf, hst]
  simp only [Chip.demoteEnd, if_neg hruns, hw]
  rfl

/-! ### Spill (R388 to R390) -/

/-- Where frames run low and no other spill of the usher's is on its way, the next ticket of the order is spilled to its target. -/
theorem execUsherSpillPolicy_spills {n : Nat} {t : SpillTo} {c1 : Chip} (hu : s.chip.usherRuns = true)
    (hlow : (s.chip.towers.any fun t => s.chip.framesBelow t (s.chip.rdF Reg.clkcfg 32 7)) = true)
    (hc : c1 = s.chip.onUsh fun u => { u with spilling := true })
    (hone : (c1.liveTickets.any fun j => c1.tkFlag j 1 && (c1.aux j).spillAns.isEmpty) = false) (hnext : c1.spillNext = some (n, t)) :
    execUsherSpillPolicy s = .next { s with chip := c1.spillStart n t none } := by
  subst hc
  refine onUsher_eq _ hu ?_
  simp only [hlow, Bool.true_or, Bool.not_true, hone, hnext, Bool.false_eq_true, or_self, if_false]

/-- A spill whose last window has gone commits once no link carries a request of it any more. -/
theorem spillOn_sent {mid : Nat} {im : List Byte} {k : Pack} (hk : k.sent = true)
    (hs : (c.worksGone (Work.is (.spill i))).spillSending i = false) :
    c.spillOn i mid im k = (c.worksGone (Work.is (.spill i))).spillCommit i im := by
  simp only [Chip.spillOn, hk, hs, if_true, Bool.false_eq_true, if_false]

/-- A spill whose jobs have ended goes on, where its target is a host range or a peer that has given an annex. -/
theorem execSpillCommit_goesOn {k : Pack} {t : SpillTo} {c1 : Chip} (hu : s.chip.usherRuns = true) (hi : s.chip.liveIdx w = some i)
    (hc : c = s.chip.mend i) (hf : c.tkFlag i 1 = true) (hst : c.tkState i = 5 ∨ c.tkState i = 6) (hfork : c.forkSource w = false)
    (hr : (c.rehangOf w).isSome = false) (hk : (c.aux i).pack = some k) (ht : (c.aux i).spill = some t)
    (ha : ∀ n, t = .peer n → (c.aux i).annex.isSome = true) (hw : c.worksEnd (Work.is (.spill i)) [] = some (c1, true)) :
    execSpillCommit w s = .next { s with chip := (c1.spillOn i (c.modelId (c.tkModel i)) (c1.tkImage i) k).settle } := by
  subst hc
  have hgo : ¬((!(s.chip.mend i).tkFlag i 1) = true ∨ ((s.chip.mend i).tkState i ≠ 5 ∧ (s.chip.mend i).tkState i ≠ 6) ∨
      (s.chip.mend i).forkSource w = true ∨ ((s.chip.mend i).rehangOf w).isSome = true) := by
    simp only [hf, hfork, hr, Bool.not_true, Bool.false_eq_true, false_or, or_false]
    omega
  refine onTicket_eq _ hu hi ?_
  simp only [if_neg hgo, hk, ht]
  cases t with
  | host a n own => simp only [hw]
  | peer n =>
    obtain ⟨x, hx⟩ := Option.isSome_iff_exists.mp (ha n rfl)
    simp only [hx, hw]

/-! ### Recall (R391) -/

/-- A recall whose jobs have copied the last page of its image commits. -/
theorem recallOn_copied {im img : List Byte} {k k1 : Pack} {d : Chip} (hk : (c.aux i).pack = some k)
    (hk1 : k1 = { k with done := k.done + (c.recallPart i k).length, off := k.off + ((c.recallPart i k).map fun x => x.2.2.1).sum })
    (hlast : ¬ k1.done < ((c.worksGone (Work.is (.recall i))).aux i).img.length)
    (hd : ((c.worksGone (Work.is (.recall i))).setPack i k1).recallCommit i im img = some d) : c.recallOn i im img = d := by
  subst hk1
  simp only [Chip.recallOn, hk, if_neg hlast, hd, Option.getD_some]

/-- A recall whose image has come and passes its checks goes on as its jobs end. -/
theorem execRecallCommit_goesOn {img : List Byte} {c1 : Chip} (hu : s.chip.usherRuns = true) (hi : s.chip.liveIdx w = some i)
    (hc : c = s.chip.mend i) (hf : c.tkFlag i 2 = true) (hst : c.tkState i = 7) (hat : (c.aux i).recallAt ≠ 0) (himg : c.recallImage i = some img)
    (hok : c.imageOk i (c.modelId (c.tkModel i)) img = true) (hw : c.worksEnd (Work.is (.recall i)) [] = some (c1, true)) :
    execRecallCommit w s = .next { s with chip := (c1.recallOn i (c1.tkImage i) img).settle } := by
  subst hc
  have hgo : ¬((!(s.chip.mend i).tkFlag i 2) = true ∨ (s.chip.mend i).tkState i ≠ 7) := by simp [hf, hst]
  refine onTicket_eq _ hu hi ?_
  simp only [if_neg hgo, if_neg hat, himg, hok, hw, Bool.not_true, Bool.false_eq_true, if_false]

/-- What ends a recall without its commit: the image has not come within 50 ms, a read of it was answered with an error, or it fails a check. -/
def RecallFails (c : Chip) (i : Nat) : Prop :=
  ((c.recallImage i).isNone = true ∧ (c.aux i).recallAt ≠ 0 ∧ (c.aux i).recallAt.toNat + 49999999 ≤ c.act.toNat) ∨ (c.aux i).recallBad = true ∨
    ∃ b, c.recallImage i = some b ∧ c.imageOk i (c.modelId (c.tkModel i)) b = false

/-- The module after a failed recall: what held the image is given back, and the ticket recovers towards the state that the commit would have given it. -/
def recallFailed (c : Chip) (w : Word) (i : Nat) : Chip :=
  let c1 := c.recallDrop i
  let sp := c.tk i 0x30 8
  let c2 := if field sp 0 2 = 2 then c1.closeAnnex (field sp 8 8) (BitVec.ofNat 32 (field sp 16 32)) else c1.freeArea (c.aux i).area
  let c3 := (c2.tkPut i 0x30 8 0).setAux i fun x => { x with area := none }
  (c3.healthNote 1 2 w.toNat).recoverFor i (c.recallState i) (c3.tkImage i) (c.recallLost i)

theorem execRecallFail_recovers {err : Bool} (hu : s.chip.usherRuns = true) (hi : s.chip.liveIdx w = some i) (hc : c = s.chip.mend i)
    (hf : c.tkFlag i 2 = true) (hst : c.tkState i = 7) (hbad : RecallFails c i) :
    execRecallFail w err s = .next { s with chip := (recallFailed c w i).settle } := by
  subst hc
  have hgo : ¬((!(s.chip.mend i).tkFlag i 2) = true ∨ (s.chip.mend i).tkState i ≠ 7) := by simp [hf, hst]
  refine onTicket_eq _ hu hi ?_
  refine (if_neg hgo).trans (if_neg ?_)
  rcases hbad with ⟨hnone, hat, hlate⟩ | hbad | ⟨b, himg, hb⟩
  · simp only [hnone, decide_eq_true (And.intro hat hlate), Bool.true_and, Bool.not_true, Bool.and_false, Bool.false_and, Bool.false_eq_true, not_false_eq_true]
  · simp [hbad]
  · simp [himg, hb]

/-! ### Row tables and the energy of a step (R378, R381) -/

theorem execRowTableForm_forms {lags : List (Fin 384 × Nat)} {pl : Nat × Nat} (hu : s.chip.usherRuns = true) (hp : s.chip.ush.plan = some pl)
    (hm : s.chip.mayForm (s.chip.planSect pl) = true) :
    execRowTableForm lags s = .next { s with chip :=
      (s.chip.formTable pl.1 pl.2 (s.chip.planSect pl) s.chip.ush.batch (lags.map fun x => (x.1.val, x.2))).settle } := by
  refine onUsher_eq _ hu ?_
  simp only [hp, hm, if_true]

/-- The module once the tickets of table t have their shares of the net energy of its step: their rows over the table's. -/
def energyShared (c : Chip) (batch : Nat) (t : RowTable) : Chip :=
  let ws := t.rows.foldl (fun (l : List Word) r => if l.contains r.ticket then l else l ++ [r.ticket]) []
  let c1 := ws.foldl (fun d w => Chip.addEnergy d w
    ((Store.get noNet c.ush.stepNet batch).2 * (t.rows.filter fun r => r.ticket == w).length / (t.rows.length * microJoule))) c
  (c1.onUsh fun u => { u with stepNet := Store.put noNet u.stepNet batch (0, 0) }).putTable { t with shared := true }

/-- A table's step is shared once every gallery of the plan has reported. -/
theorem shareEnergy_closed {batch : Nat} {pl : Nat × List Byte} {t : RowTable} (hp : c.curPlan = some pl)
    (ht : (c.ush.tables.find? fun t => t.batch == batch && !t.shared) = some t)
    (hall : ((c.placed pl.2).filter fun x => !c.fenced x.1).length ≤ (Store.get noNet c.ush.stepNet batch).1) :
    c.shareEnergy batch = energyShared c batch t := by
  simp only [Chip.shareEnergy, hp, ht, if_neg (not_lt.mpr hall)]
  rfl

end

end Sys2Proof.Laws

namespace Sys2Proof.Proofs
open Sys2Proof.Machine Sys2Proof.Laws

/-- Settles O32: each command by its guard on the ticket, then by what its operation does once its jobs, PUTs or reports are in. -/
theorem ticketMemoryMoves : Obligations.TicketMemoryMoves := by
  intro s w ti c cm hu hi
  refine ⟨?demotes, ?demoted, fun n t c1 => execUsherSpillPolicy_spills hu, ?spilled, ?recalled,
    fun err => execRecallFail_recovers hu hi rfl, ?shared, fun lags pl => execRowTableForm_forms hu⟩
  case demotes =>
    intro ms hr hms hst hhot hfl hdue hp hf
    exact execDemotionStart_starts hu hi hr (demoteStart_due hms hst hhot hfl hdue hp hf)
  case demoted =>
    intro failed c1 ok hf hst hw
    exact onTicket_eq (fun c i => c.demoteEnd i failed) hu hi (demoteEnd_ended hf hst hw)
  case spilled =>
    intro k t c1 hf hst hfork hr hk ht ha hw hsent hgone
    exact (execSpillCommit_goesOn hu hi rfl hf hst hfork hr hk ht ha hw).trans (by rw [spillOn_sent hsent hgone])
  case recalled =>
    intro img k k1 c1 d hf hst hat himg hok hw hk hk1 hlast hd
    exact (execRecallCommit_goesOn hu hi rfl hf hst hat himg hok hw).trans (by rw [recallOn_copied hk hk1 hlast hd])
  case shared =>
    intro batch pl t hp ht hall
    exact onUsher_eq (fun c => c.shareEnergy batch) hu (shareEnergy_closed hp ht hall)

end Sys2Proof.Proofs
end

section
/-! SUPPORT. A host command that is accepted while no other waits (R366, R415): what the usher does with it, and what each command does where
nothing makes it wait. -/

namespace Sys2Proof.Laws

open Sys2Proof.Machine

section
variable {s : State} {c d e y : Chip} {m m0 : HostCmd} {q : Fin 256} {good : Bool} {i : Nat}

/-! ### The command at the head of a queue (R415) -/

/-- Whether a command is taken rests on `ok` at the entry at HEAD alone. -/
theorem takeCmd_ok {k : Nat} {ok : Line → Bool} (h : ok (c.sqEntry k (c.sqHead k)) = true) : c.takeCmd k ok good = c.takeCmd k (fun _ => true) good := by
  simp only [Chip.takeCmd, h]

/-- Where one command has been accepted and takes effect, nothing is left waiting. -/
theorem settle_done (hnone : d.host.accepted = []) (hm : m = { m0 with late := d.cmdLate m0 }) (hy : d.tryCmd m = .done y) :
    Chip.settle { d with host := { d.host with accepted := [m0] } } = y.mapLeft m := by
  have hd : ({ d with host := { d.host with accepted := [] } } : Chip) = d := by rw [← hnone]
  have hgo : Chip.settleGo d [] [m0] = (y.mapLeft m, []) := by
    simp only [Chip.settleGo, ← hm, hy, List.contains_nil, Bool.false_eq_true, and_false, if_false]
  simp only [Chip.settle, hd, hgo, List.nil_append]

/-- An accepted command of the row's own opcode that takes effect leaves the module as its effect does, the copy of its map let go. -/
theorem takeHost_done (ok : Line → Bool) (ha : s.chip.Accepts q.val good m d) (hok : ok m.entry = true) (hy : d.tryCmd m = .done y) :
    s.takeHost q good ok = .next { s with chip := y.mapLeft m } := by
  obtain ⟨hu, _, _, hentry, _, hnone, m0, hm, htake⟩ := ha
  have hown : (fun e => ok e || !opcKnown (entryOpc e)) (s.chip.sqEntry q.val (s.chip.sqHead q.val)) = true := by
    simp only [← hentry, hok, Bool.true_or]
  rw [takeHost_runs s q good ok hu, takeCmd_ok hown, htake, settle_done hnone hm hy]

/-! ### The command by its opcode (R366) -/

/-- A command that reached the usher with the epoch open, or for which it has opened since, does not wait for it. -/
theorem opened_eq (h : c.epochState = 1 ∨ m.late = false) : (c.epochState == 1 || !m.late) = true := by
  simpa using h

/-- What a command does for ticket i of the mended module c; `opened` says that it does not wait for epoch open. -/
def ticketCmd (c : Chip) (i : Nat) (m : HostCmd) (opened : Bool) : Tried :=
  match entryOpc m.entry with
  | 2 => if opened then c.tryResume i m else .wait c
  | 3 => if opened then c.tryResume i m else .wait c
  | 4 => if opened then c.tryPark i m else .wait c
  | 5 => if c.cmdLate m then .wait c else c.tryFork i m
  | 6 => c.tryRelease i m
  | 7 => if c.cmdLate m then .wait c else c.trySpill i m
  | 8 => if c.cmdLate m then .wait c else c.tryRecall i m
  | _ => .done (c.query i m)

/-- A command that names a live ticket, not one that is being retired but for RELEASE and QUERY, does what its opcode says for it. -/
theorem tryCmd_ticket (hop : opcTicket (entryOpc m.entry) = true) (hi : d.liveIdx (entryTicket m.entry) = some i) (he : e = d.mend i)
    (hst : entryOpc m.entry = 6 ∨ entryOpc m.entry = 9 ∨ e.tkState i ≠ 10) :
    d.tryCmd m = ticketCmd e i m (d.epochState == 1 || !m.late) := by
  subst he
  have hlive : ¬((d.mend i).tkState i = 10 ∧ entryOpc m.entry ≠ 6 ∧ entryOpc m.entry ≠ 9) := by omega
  simp only [Chip.tryCmd, hop, hi, if_true, if_neg hlive]
  rfl

/-- An accepted ticket command that takes effect leaves the module as what its opcode does for the ticket. -/
theorem takeHost_ticket {n : Nat} (hn : opcTicket n = true) (ha : s.chip.Accepts q.val good m d) (hop : entryOpc m.entry = n)
    (hi : d.liveIdx (entryTicket m.entry) = some i) (he : e = d.mend i) (hst : n = 6 ∨ n = 9 ∨ e.tkState i ≠ 10)
    (hy : ticketCmd e i m (d.epochState == 1 || !m.late) = .done y) :
    s.takeHost q good (isOpc n) = .next { s with chip := y.mapLeft m } := by
  subst hop
  exact takeHost_done _ ha (beq_self_eq_true _) ((tryCmd_ticket hn hi he hst).trans hy)

section
variable {opened : Bool}

theorem ticketCmd_resume (hop : entryOpc m.entry = 2 ∨ entryOpc m.entry = 3) (ho : opened = true) : ticketCmd e i m opened = e.tryResume i m := by
  rcases hop with hop | hop <;> simp only [ticketCmd, hop, ho, if_true]

theorem ticketCmd_park (hop : entryOpc m.entry = 4) (ho : opened = true) : ticketCmd e i m opened = e.tryPark i m := by
  simp only [ticketCmd, hop, ho, if_true]

theorem ticketCmd_fork (hop : entryOpc m.entry = 5) (hl : e.cmdLate m = false) : ticketCmd e i m opened = e.tryFork i m := by
  simp only [ticketCmd, hop, hl, Bool.false_eq_true, if_false]

theorem ticketCmd_release (hop : entryOpc m.entry = 6) : ticketCmd e i m opened = e.tryRelease i m := by
  simp only [ticketCmd, hop]

theorem ticketCmd_spill (hop : entryOpc m.entry = 7) (hl : e.cmdLate m = false) : ticketCmd e i m opened = e.trySpill i m := by
  simp only [ticketCmd, hop, hl, Bool.false_eq_true, if_false]

theorem ticketCmd_recall (hop : entryOpc m.entry = 8) (hl : e.cmdLate m = false) : ticketCmd e i m opened = e.tryRecall i m := by
  simp only [ticketCmd, hop, hl, Bool.false_eq_true, if_false]

theorem ticketCmd_query (hop : entryOpc m.entry = 9) : ticketCmd e i m opened = .done (e.query i m) := by
  simp only [ticketCmd, hop]

end

/-! ### FEED and RUN (R382, R383) -/

section
variable (hst : e.tkState i = 5 ∨ e.tkState i = 6) (hdem : e.tkFlag i 0 = false) (hspill : e.tkFlag i 1 = false)
include hst hdem hspill

/-- A RUN of a parked ticket that is neither demoted nor spilled resumes it. -/
theorem tryResume_run (hop : entryOpc m.entry = 3) : e.tryResume i m = .done (e.resume i m) := by
  simp only [Chip.tryResume, if_pos hst, hdem, hspill, hop, or_true, Bool.false_eq_true, if_false, if_true]

/-- A FEED of a parked ticket whose log takes the tokens resumes it. -/
theorem tryResume_feed (hop : entryOpc m.entry = 2) (hfed : m.fed = false) (hroom : e.tkNtok i + cmdNtok m.entry ≤ 524288)
    (hy : e.feedTokens i m = some y) : e.tryResume i m = .done (y.resume i m) := by
  have hnew : ¬(m.fed = true ∨ entryOpc m.entry = 3) := by simp [hfed, hop]
  simp only [Chip.tryResume, if_pos hst, hdem, hspill, if_neg hnew, if_neg (not_lt.mpr hroom), hy, Bool.false_eq_true, if_false]

end

/-! ### PARK and FORK (R384, R385) -/

theorem tryPark_runnable (hst : e.tkState i = 3) : e.tryPark i m = .done (e.parkFor i 7 0 (some m.ans)) := if_pos hst

theorem tryFork_forks (hst : e.tkState i = 3 ∨ e.tkState i = 4 ∨ e.tkState i = 5 ∨ e.tkState i = 6) (hb : e.busy i = false)
    (hr : e.rehangOf (e.tkWord i) = none) (hf : e.inFlight (e.tkWord i) = false) (hy : e.fork i m = some y) : e.tryFork i m = .done y := by
  have hlive : ¬(e.tkState i = 8 ∨ e.tkState i = 10) := by omega
  have hgo : ¬(e.busy i = true ∨ e.tkState i = 1 ∨ e.tkState i = 2 ∨ e.tkState i = 9 ∨ (e.rehangOf (e.tkWord i)).isSome = true ∨
      e.inFlight (e.tkWord i) = true) := by
    simp only [hb, hr, hf, Option.isSome_none, Bool.false_eq_true, false_or, or_false]
    omega
  have hres : e.tkState i ≠ 7 := by omega
  simp only [Chip.tryFork, if_neg hlive, if_neg hgo, if_neg hres, hy]

/-! ### RELEASE (R395) -/

/-- The module with the re-hang of ticket i that has not flipped void. -/
def rehangVoided (c : Chip) (i : Nat) : Chip :=
  match c.rehangOf (c.tkWord i) with
  | some n => c.memWriteNum (c.moveAddr n + 1) 1 1
  | none => c

theorem tryRelease_retires (hst8 : e.tkState i ≠ 8) (hst10 : e.tkState i ≠ 10) (hf : e.forkSource (e.tkWord i) = false)
    (hb : e.tkState i ≠ 4 ∨ (rehangVoided e i).inFlight ((rehangVoided e i).tkWord i) = false) :
    e.tryRelease i m = .done ((rehangVoided e i).retire i [m.ans]) := by
  have hgo : ¬(e.tkState i = 4 ∧ (rehangVoided e i).inFlight ((rehangVoided e i).tkWord i) = true) := by
    simpa [imp_iff_not_or] using hb
  simp only [Chip.tryRelease, if_neg hst8, hf, if_neg hst10, Bool.false_eq_true, if_false]
  exact if_neg hgo

/-! ### SPILL and RECALL (R388, R391) -/

theorem trySpill_host {a n : Nat} (hst : e.tkState i = 5 ∨ e.tkState i = 6) (hb : e.busy i = false) (hr : e.rehangOf (e.tkWord i) = none)
    (ht : e.spillTarget i m = some (.host a n false)) (hfit : e.spillFits i n = true) :
    e.trySpill i m = .done (e.spillStart i (.host a n false) (some m.ans)) := by
  have hgo : ¬(e.busy i = true ∨ (e.rehangOf (e.tkWord i)).isSome = true) := by simp [hb, hr]
  have hres : e.tkState i ≠ 7 := by omega
  simp only [Chip.trySpill, if_neg hgo, if_neg hres, if_pos hst, ht, hfit, Bool.not_true, Bool.false_eq_true, and_false, if_false]

section
variable (hf : e.tkFlag i 2 = false) (hr : e.rehangOf (e.tkWord i) = none)
include hf hr

/-- No recall and no changeover of the ticket makes a RECALL wait. -/
theorem recall_goes : ¬(e.tkFlag i 2 = true ∨ (e.rehangOf (e.tkWord i)).isSome = true) := by simp [hf, hr]

theorem tryRecall_spilled (hst : e.tkState i = 7) : e.tryRecall i m = .done (e.recallStart i (some m.ans)) := by
  have hlive : ¬(e.tkState i = 8 ∨ e.tkState i = 10) := by omega
  simp only [Chip.tryRecall, if_neg hlive, if_neg (recall_goes hf hr), if_pos hst]

theorem tryRecall_resident (hst7 : e.tkState i ≠ 7) (hst8 : e.tkState i ≠ 8) (hst10 : e.tkState i ≠ 10) :
    e.tryRecall i m = .done (((e.remotesOf (e.tkRoot i)).foldl (fun c x => Chip.chunkRecall c i x.1 x.2.1) e).postMove i 5 (some m.ans)
      (leBytes 4 (e.npos i) ++ [BitVec.ofNat 8 (e.tkState i)])) := by
  have hlive : ¬(e.tkState i = 8 ∨ e.tkState i = 10) := by omega
  simp only [Chip.tryRecall, if_neg hlive, if_neg (recall_goes hf hr), if_neg hst7]

end

/-! ### Commands that name no ticket (R374, R420, R421) -/

theorem tryCmd_admission (hop : entryOpc m.entry = 1) (ho : d.epochState = 1 ∨ m.late = false) (hy : d.admitTicket m = some y) : d.tryCmd m = .done y := by
  simp only [Chip.tryCmd, hop, opcTicket, opened_eq ho, hy, if_true]
  rfl

theorem tryCmd_model (hop : entryOpc m.entry = 0x10) :
    d.tryCmd m = .done (if bitOf (entryN m.entry 26 1) 0 then d.modelUnload m else d.modelLoad m) := by
  simp only [Chip.tryCmd, hop]
  rfl

theorem tryCmd_planSelect (hop : entryOpc m.entry = 0x11) (hy : d.planSelect m = some y) : d.tryCmd m = .done y := by
  simp only [Chip.tryCmd, hop, opcTicket, hy]
  rfl

theorem tryCmd_budgetSet (hop : entryOpc m.entry = 0x12) : d.tryCmd m = .done (d.budgetSet m) := by
  simp only [Chip.tryCmd, hop]
  rfl

theorem tryCmd_negotiate (hop : entryOpc m.entry = 0x13) : d.tryCmd m = .done (d.negotiate m) := by
  simp only [Chip.tryCmd, hop]
  rfl

theorem tryCmd_journalRead (hop : entryOpc m.entry = 0x14) : d.tryCmd m = .done (d.journalRead m) := by
  simp only [Chip.tryCmd, hop]
  rfl

end

end Sys2Proof.Laws

namespace Sys2Proof.Proofs
open Sys2Proof.Machine Sys2Proof.Laws

/-- Settles O33: each command reaches what its opcode says for it, and nothing makes it wait. -/
theorem hostCommandsTakeEffect : Obligations.HostCommandsTakeEffect := by
  intro s q good m d c
  refine ⟨?admission, ?feed, ?run, ?park, ?fork, ?release, ?spill, ?recallSpilled, ?recallResident, ?query, ?modelLoad, ?adapterLoad, ?modelUnload,
    ?planSelect, ?budgetSet, ?negotiate, ?journalRead⟩
  case admission =>
    intro y ha hop ho hy
    exact takeHost_done (isOpc 1) ha (beq_iff_eq.mpr hop) (tryCmd_admission hop ho hy)
  case feed =>
    intro i e y ha hop ho hi he hst hdem hspill hroom hy
    have hfed : m.fed = false := by
      obtain ⟨_, _, _, _, hfed, _⟩ := ha
      exact hfed
    exact takeHost_ticket rfl ha hop hi he (by omega)
      ((ticketCmd_resume (.inl hop) (opened_eq ho)).trans (tryResume_feed hst hdem hspill hop hfed hroom hy))
  case run =>
    intro i e ha hop ho hi he hst hdem hspill
    exact takeHost_ticket rfl ha hop hi he (by omega) ((ticketCmd_resume (.inr hop) (opened_eq ho)).trans (tryResume_run hst hdem hspill hop))
  case park =>
    intro i e ha _ hop ho hi he hst
    exact takeHost_ticket rfl ha hop hi he (by omega) ((ticketCmd_park hop (opened_eq ho)).trans (tryPark_runnable hst))
  case fork =>
    intro i e y ha hop hi he hl hst hb hr hf hy
    exact takeHost_ticket rfl ha hop hi he (by omega) ((ticketCmd_fork hop hl).trans (tryFork_forks hst hb hr hf hy))
  case release =>
    intro i e f ha _ hop hi he hst8 hst10 hf hvoid hb
    subst hvoid
    exact takeHost_ticket rfl ha hop hi he (.inl rfl) ((ticketCmd_release hop).trans (tryRelease_retires hst8 hst10 hf hb))
  case spill =>
    intro i a n e ha _ hop hi he hl hst hb hr ht hfit
    exact takeHost_ticket rfl ha hop hi he (by omega) ((ticketCmd_spill hop hl).trans (trySpill_host hst hb hr ht hfit))
  case recallSpilled =>
    intro i e ha _ hop hi he hl hst hf hr
    exact takeHost_ticket rfl ha hop hi he (by omega) ((ticketCmd_recall hop hl).trans (tryRecall_spilled hf hr hst))
  case recallResident =>
    intro i e ha _ hop hi he hl hst7 hst8 hst10 hf hr
    exact takeHost_ticket rfl ha hop hi he (.inr (.inr hst10)) ((ticketCmd_recall hop hl).trans (tryRecall_resident hf hr hst7 hst8 hst10))
  case query =>
    intro i e ha hop hi he
    exact takeHost_ticket rfl ha hop hi he (.inr (.inl rfl)) (ticketCmd_query hop)
  case modelLoad =>
    intro ha hop hload hslot
    exact takeHost_done _ ha (by simp [isOpc, hop, hload, hslot]) (by rw [tryCmd_model hop, hload]; rfl)
  case adapterLoad =>
    intro ha hop hload hslot
    exact takeHost_done _ ha (by simp [isOpc, hop, hload, hslot]) (by rw [tryCmd_model hop, hload]; rfl)
  case modelUnload =>
    intro ha _ hop hload
    exact takeHost_done _ ha (by simp [isOpc, hop, hload]) (by rw [tryCmd_model hop, hload]; rfl)
  case planSelect =>
    intro y ha hop hy
    exact takeHost_done (isOpc 0x11) ha (beq_iff_eq.mpr hop) (tryCmd_planSelect hop hy)
  case budgetSet =>
    intro ha _ hop
    exact takeHost_done (isOpc 0x12) ha (beq_iff_eq.mpr hop) (tryCmd_budgetSet hop)
  case negotiate =>
    intro ha hop
    exact takeHost_done (isOpc 0x13) ha (beq_iff_eq.mpr hop) (tryCmd_negotiate hop)
  case journalRead =>
    intro ha hop
    exact takeHost_done (isOpc 0x14) ha (beq_iff_eq.mpr hop) (tryCmd_journalRead hop)

end Sys2Proof.Proofs
end

section
/-! SUPPORT. The module after a cold or power-on reset (R318, R532): its memory reads zero, so every ticket index is FREE (R357). -/

namespace Sys2Proof.Laws

open Sys2Proof.Machine

/-- Entries that go leave every key that is none of theirs. -/
theorem get_filter_gone {α : Type} {d : Nat → α} {p : Nat × α → Bool} {k : Nat} (h : ∀ v, p (k, v) = false) (m : Store α) :
    Store.get d (m.filter p) k = d k := by
  induction m with
  | nil => rfl
  | cons x m ih =>
    obtain ⟨j, v⟩ := x
    by_cases hk : j = k
    · rw [List.filter_cons_of_neg (by simp [hk, h]), ih]
    · cases hp : p (j, v)
      · rw [List.filter_cons_of_neg (by simp [hp]), ih]
      · rw [List.filter_cons_of_pos hp, Store.get, if_neg (Ne.symm hk), ih]

/-! ### Memory in which nothing stands -/

/-- Memory in which nothing is listed reads zero. -/
theorem mem_bytes_nil {a n : Nat} {b : Byte} (h : b ∈ Memory.bytes [] a n) : b = 0 := by
  induction n generalizing a with
  | zero => cases h
  | succ n ih => exact (List.mem_cons.mp h).elim id ih

theorem leVal_eq_zero {bs : List Byte} (h : ∀ b ∈ bs, b = 0) : leVal bs = 0 := by
  induction bs with
  | nil => rfl
  | cons b bs ih => simp [leVal, h b List.mem_cons_self, ih fun x hx => h x (List.mem_cons_of_mem b hx)]

theorem mem_leBytes_zero {n : Nat} {b : Byte} (h : b ∈ leBytes n 0) : b = 0 := by
  induction n with
  | zero => cases h
  | succ n ih => exact (List.mem_cons.mp h).elim id ih

/-- The state of the memory path, the memory and the usher's tables that a cold or power-on reset leaves. -/
structure ColdMemory (c : Chip) : Prop where
  dram : c.dram = []
  ush : c.ush = UsherState.reset
  mem : ∃ m : MemState, c.mem = m.cold

namespace ColdMemory
variable {c : Chip} (h : ColdMemory c)
include h

/-- No line is held by a way of the cache. -/
theorem hitWay (l : Nat) : c.hitWay l = none := by
  obtain ⟨m, hm⟩ := h.mem
  have hnone : c.findWay l = none := by
    refine List.find?_eq_none.mpr fun k _ => ?_
    simp only [Chip.way, hm, MemState.cold, MemState.reset, Store.get, noWay, Bool.false_eq_true, not_false_eq_true]
  simp only [Chip.hitWay, hnone]

/-- Nothing that a line holds is set, and no failed lane disturbs it. -/
theorem lineSeen (l : Nat) : c.lineSeen l = (.clean, 0) := by
  obtain ⟨m, hm⟩ := h.mem
  have hlanes : c.laneErrors l = [] := by
    simp only [Chip.laneErrors, hm, MemState.cold, MemState.reset, Store.get, noLanes, List.isEmpty_nil, if_true]
  have hchk : Store.get zeroDWord c.mem.chk l = 0 := by rw [hm]; rfl
  have hshadow : c.shadowOf (l * 64) = none := by
    simp [Chip.shadowOf, h.ush, UsherState.reset, Layout.reset]
  have hblank : c.blank l = 0 := by
    simp [Chip.blank, h.ush, hm, UsherState.reset, MemState.cold, MemState.reset]
  have hdata : c.dramData l = 0 := by
    have hzero : Memory.num [] (l * 64) 64 = 0 := leVal_eq_zero fun _ => mem_bytes_nil
    simp only [Chip.dramData, hshadow, hblank, h.dram, hzero, BitVec.xor_zero, BitVec.ofNat_eq_ofNat]
  simp only [Chip.lineSeen, hlanes, hchk, hdata]
  rfl

theorem lineData_toNat (l : Nat) : (c.lineData l).toNat = 0 := by
  obtain ⟨m, hm⟩ := h.mem
  have hqueue : c.queuedWrite l = none := by
    simp only [Chip.queuedWrite, hm, MemState.cold, MemState.reset, List.find?_nil]
  simp only [Chip.lineData, h.hitWay, ite_self, Chip.vaultData, hqueue, h.lineSeen]
  exact BitVec.toNat_zero

theorem mem_memBytesGo {f a n : Nat} {b : Byte} (hb : b ∈ c.memBytesGo f a n) : b = 0 := by
  induction f generalizing a n with
  | zero => cases hb
  | succ f ih =>
    rw [Chip.memBytesGo] at hb
    split at hb
    · cases hb
    · rw [h.lineData_toNat] at hb
      rcases List.mem_append.mp hb with hb | hb
      · rw [field, Nat.zero_div, Nat.zero_mod] at hb
        exact mem_leBytes_zero hb
      · exact ih hb

theorem memNum (a n : Nat) : c.memNum a n = 0 := leVal_eq_zero fun _ => h.mem_memBytesGo

/-- Both copies of every ticket descriptor read zero: the index is FREE. -/
theorem tkState (i : Nat) : c.tkState i = 0 := by
  simp only [Chip.tkState, Chip.tk, h.memNum, ite_self]

end ColdMemory

/-! ### What the resets leave (R532) -/

/-- The epoch word resets to STATE = NONE. -/
theorem regReset_epoch_state : field (regReset Reg.epoch).toNat 32 3 = 0 := by decide +kernel

theorem coldReset_coldMemory (c : Chip) : ColdMemory c.coldReset := ⟨rfl, rfl, c.mem, rfl⟩

/-- A cold reset keeps SLOT and FALLBACK alone of the registers. -/
theorem coldReset_epochState (c : Chip) : c.coldReset.epochState = 0 := by
  unfold Chip.epochState Chip.rdF Chip.coldReset Chip.wrF
  rw [rd_wr_other _ _ (by decide), rd_wr_other _ _ (by decide), Chip.rd, get_filter_gone (fun _ => rfl)]
  exact regReset_epoch_state

end Sys2Proof.Laws

namespace Sys2Proof.Proofs
open Sys2Proof.Machine Sys2Proof.Laws

/-- Settles O59: both resets leave the usher's tables as at reset and memory zero, in which every index reads FREE. -/
theorem coldResetLosesSessions : Obligations.ColdResetLosesSessions := by
  refine fun s => ⟨?cold, fun board => ?powerOn⟩
  case cold =>
    have hcold := coldReset_coldMemory s.chip
    exact ⟨_, rfl, hcold.ush, hcold.dram, hcold.tkState, coldReset_epochState s.chip⟩
  case powerOn =>
    exact ⟨_, rfl, rfl, rfl, ColdMemory.tkState ⟨rfl, rfl, s.chip.mem, rfl⟩, regReset_epoch_state⟩

end Sys2Proof.Proofs
end

section
/-! SUPPORT. The commands of a chanter's register extension (R329 to R331): each is one word of the extension, made of operands that fit their
fields, and has the effect that `Chip.chCustom` gives that word. -/

namespace Sys2Proof.Laws

open Sys2Proof.Machine

/-! ### The operations of a SIMD word (R329) -/

section
variable {w f7 : Nat} {a b d : BitVec 128}

/-- An integer operation goes lane by lane where the width is 8, 16 or 32 bits. -/
theorem simdOp_integer {f : Nat → Nat → Nat} (hw : w < 3) (hf7 : f7 < 0x10) (hf : ∀ x y, simdInt (8 * 2 ^ w) f7 x y = some (f x y)) :
    simdOp w f7 a b d = some (qOf (8 * 2 ^ w) (List.zipWith f (qLanes (8 * 2 ^ w) a) (qLanes (8 * 2 ^ w) b))) := by
  simp only [simdOp, if_neg (show w ≠ 3 by omega), if_pos hw, if_neg (show f7 ≠ 0x20 by omega), hf, Option.isSome_some, if_true, Option.getD_some]

/-- No integer operation has another width. -/
theorem simdOp_integer_wide (hw : 3 ≤ w) (hf7 : f7 < 0x10) : simdOp w f7 a b d = none := by
  unfold simdOp
  dsimp only
  split
  · split
    case h_5 => rfl
    all_goals omega
  · exact if_neg (by omega)

/-- The Q register of an FP32 operation's results, lane by lane. -/
abbrev qFloat (f : Word → Word → Word → Word) (a b d : BitVec 128) : BitVec 128 :=
  qOf 32 ((List.range 4).map fun n =>
    (f (BitVec.ofNat 32 (field a.toNat (32 * n) 32)) (BitVec.ofNat 32 (field b.toNat (32 * n) 32)) (BitVec.ofNat 32 (field d.toNat (32 * n) 32))).toNat)

end

/-! ### A word of the extension at pc of a chanter that runs a job -/

/-- The chanter that a command names. -/
abbrev chanterOf (s : State) (x : ChanterId) : Chanter := s.chip.chanter (clKey x.cluster) x.ch.val

/-- The state with another chanter in its place. -/
abbrev putChanter (s : State) (x : ChanterId) (X : Chanter) : State := { s with chip := s.chip.setChanter (clKey x.cluster) x.ch.val X }

section
variable {s : State} {x : ChanterId} (hr : s.chip.chRuns (clKey x.cluster) x.ch.val = true)
include hr

/-- What the extension makes of the word with these fields is the command's effect. -/
theorem onExt_takes {op f3 f7 : Nat} {rd rs1 rs2 : Fin 32} {c' : Chip} (hop : op < 128) (hf3 : f3 < 8) (hf7 : f7 < 128)
    (hword : ∀ n : Word, field n.toNat 0 7 = op → field n.toNat 7 5 = rd → field n.toNat 12 3 = f3 → field n.toNat 15 5 = rs1 →
      field n.toNat 20 5 = rs2 → field n.toNat 25 7 = f7 → s.chip.chCustom (clKey x.cluster) x.ch.val n = some c') :
    s.onExt x op rd f3 rs1 rs2 f7 = .next { s with chip := c' } := by
  obtain ⟨e0, e1, e2, e3, e4, e5⟩ := rWord_fields op rd f3 rs1 rs2 f7 hop rd.isLt hf3 rs1.isLt rs2.isLt hf7
  rw [State.onExt, onChanter_runs s x true _ hr, chWord_of_some hr (hword _ e0 e1 e2 e3 e4 e5)]

/-- A SIMD command whose operation gives v, on registers that no read in flight will write. -/
theorem onExt_simd {w f7 : Nat} {rd rs1 rs2 : Fin 32} {v : BitVec 128} (hw : w < 8) (hf7 : f7 < 128)
    (hd : (chanterOf s x).qBusy rd = false) (h1 : (chanterOf s x).qBusy rs1 = false) (h2 : (chanterOf s x).qBusy rs2 = false)
    (hv : simdOp w f7 ((chanterOf s x).qreg rs1) ((chanterOf s x).qreg rs2) ((chanterOf s x).qreg rd) = some v) :
    s.onExt x 0x2B rd w rs1 rs2 f7 = .next (putChanter s x ((chanterOf s x).doneQ rd v (if w = 3 then 2 else 1))) := by
  rw [State.onExt, onChanter_runs s x true _ hr,
    chWord_simd s.chip _ _ _ _ _ _ _ rd.isLt hw rs1.isLt rs2.isLt hf7 v hv hd h1 h2 hr]

/-- A SIMD command whose operation its width does not have traps with its word. -/
theorem onExt_simd_illegal {w f7 : Nat} {rd rs1 rs2 : Fin 32} (hw : w < 8) (hf7 : f7 < 128) (hv : ∀ a b d, simdOp w f7 a b d = none) :
    s.onExt x 0x2B rd w rs1 rs2 f7 = .next { s with
      chip := s.chip.chTrap (clKey x.cluster) x.ch.val 2 (rWord 0x2B rd w rs1 rs2 f7) } := by
  rw [State.onExt, onChanter_runs s x true _ hr,
    chWord_simd_illegal s.chip _ _ _ _ _ _ _ rd.isLt hw rs1.isLt rs2.isLt hf7 (hv _ _ _)]

end

/-! ### SIMD commands by their operation (R329) -/

section
variable {x : ChanterId} {rd rs1 rs2 : Fin 32} {s : State} {f7 : Nat}

section
variable {command : ChanterId → Fin 8 → Fin 32 → Fin 32 → Fin 32 → Instr} {w : Fin 8}
  (hcommand : ∀ x w rd rs1 rs2 s, exec (command x w rd rs1 rs2) s = s.onExt x 0x2B rd w rs1 rs2 f7) (hf7 : f7 < 0x10)
  (hr : s.chip.chRuns (clKey x.cluster) x.ch.val = true)
include hcommand hf7 hr

/-- An integer command's effect with lanes of 8, 16 or 32 bits: one slot. -/
theorem integerCommand_lanes {f : Nat → Nat → Nat → Nat} (hf : ∀ W a b, simdInt W f7 a b = some (f W a b)) (hw : w.val < 3)
    (hd : (chanterOf s x).qBusy rd = false) (h1 : (chanterOf s x).qBusy rs1 = false) (h2 : (chanterOf s x).qBusy rs2 = false) :
    exec (command x w rd rs1 rs2) s = .next (putChanter s x ((chanterOf s x).doneQ rd
      (qOf (8 * 2 ^ w.val) (List.zipWith (f (8 * 2 ^ w.val))
        (qLanes (8 * 2 ^ w.val) ((chanterOf s x).qreg rs1)) (qLanes (8 * 2 ^ w.val) ((chanterOf s x).qreg rs2)))) 1)) := by
  rw [hcommand, onExt_simd hr w.isLt (by omega) hd h1 h2 (simdOp_integer hw hf7 (hf _)), if_neg (by omega)]

/-- With another width the command's word is illegal. -/
theorem integerCommand_illegal (hw : 3 ≤ w.val) :
    exec (command x w rd rs1 rs2) s = .next { s with
      chip := s.chip.chTrap (clKey x.cluster) x.ch.val 2 (rWord 0x2B rd w rs1 rs2 f7) } := by
  rw [hcommand, onExt_simd_illegal hr w.isLt (by omega) fun _ _ _ => simdOp_integer_wide hw hf7]

end

/-- An FP32 command takes two slots. -/
theorem floatCommand_lanes {command : ChanterId → Fin 32 → Fin 32 → Fin 32 → Instr} {f : Word → Word → Word → Word}
    (hcommand : ∀ x rd rs1 rs2 s, exec (command x rd rs1 rs2) s = s.onExt x 0x2B rd 3 rs1 rs2 f7) (hf7 : f7 < 128)
    (hf : ∀ a b d, simdOp 3 f7 a b d = some (qFloat f a b d)) (hr : s.chip.chRuns (clKey x.cluster) x.ch.val = true)
    (hfree : ∀ n, (chanterOf s x).qBusy n = false) :
    exec (command x rd rs1 rs2) s = .next (putChanter s x ((chanterOf s x).doneQ rd
      (qFloat f ((chanterOf s x).qreg rs1) ((chanterOf s x).qreg rs2) ((chanterOf s x).qreg rd)) 2)) := by
  rw [hcommand, onExt_simd hr (by omega) hf7 (hfree _) (hfree _) (hfree _) (hf _ _ _), if_pos rfl]

end

end Sys2Proof.Laws

namespace Sys2Proof.Proofs
open Sys2Proof.Machine Sys2Proof.Laws

/-- Settles O26: each command is the SIMD word of its own function code, whose integer operation is its row's. -/
theorem qsimdIntegerLanes : Obligations.QsimdIntegerLanes := by
  intro row hrow x w rd rs1 rs2 s k X hr
  obtain ⟨f7, hf7, hcommand, hf⟩ : ∃ f7 < 0x10,
      (∀ x w rd rs1 rs2 s, exec (row.1 x w rd rs1 rs2) s = s.onExt x 0x2B rd w rs1 rs2 f7) ∧ ∀ W a b, simdInt W f7 a b = some (row.2 W a b) := by
    fin_cases hrow <;> exact ⟨_, by decide, fun _ _ _ _ _ _ => rfl, fun _ _ _ => rfl⟩
  exact ⟨fun hw => integerCommand_lanes hcommand hf7 hr hf hw, fun hw => ⟨_, integerCommand_illegal hcommand hf7 hr hw⟩⟩

/-- Settles O27: each command is a word of the extension, legal and waiting for nothing. -/
theorem chanterRegisterInstructions : Obligations.ChanterRegisterInstructions := by
  intro x rd rs1 rs2 lane j s k X hr hjob hfree
  refine ⟨?float, ?permute, ?qins, ?qext, ?qcvt, ?qcrc, ?qpgen⟩
  case float =>
    intro row hrow
    obtain ⟨f7, hf7, hcommand, hf⟩ : ∃ f7 < 128,
        (∀ x rd rs1 rs2 s, exec (row.1 x rd rs1 rs2) s = s.onExt x 0x2B rd 3 rs1 rs2 f7) ∧ ∀ a b d, simdOp 3 f7 a b d = some (qFloat row.2 a b d) := by
      fin_cases hrow <;> exact ⟨_, by decide, fun _ _ _ _ _ => rfl, fun _ _ _ => rfl⟩
    exact floatCommand_lanes hcommand hf7 hf hr hfree
  case permute => exact onExt_simd hr (w := 0) (f7 := 0x20) (by decide) (by decide) (hfree _) (hfree _) (hfree _) rfl
  case qins =>
    refine onExt_takes hr (op := 0x5B) (f3 := 0) (rs2 := 0) (by decide) (by decide) (by omega) fun n e0 e1 e2 e3 e4 e5 => ?_
    have hword := chCustom_qins s.chip k x.ch n e0 e2 e4 (by omega) (hfree _)
    rwa [e1, e3, e5] at hword
  case qext =>
    refine onExt_takes hr (op := 0x5B) (f3 := 1) (rs2 := 0) (by decide) (by decide) (by omega) fun n e0 e1 e2 e3 e4 e5 => ?_
    have hword := chCustom_qext s.chip k x.ch n e0 e2 e4 (by omega) (hfree _)
    rwa [e1, e3, e5] at hword
  case qcvt =>
    intro hlegal
    refine onExt_takes hr (op := 0x5B) (f3 := 2) (f7 := 0) (by decide) (by decide) (by decide) fun n e0 e1 e2 e3 e4 e5 => ?_
    have hword := chCustom_qcvt s.chip k x.ch n j e0 e2 e5 hjob (by rw [e1, e3]; exact hlegal) hfree
    rwa [e1, e3, e4] at hword
  case qcrc =>
    refine onExt_takes hr (op := 0x5B) (f3 := 3) (f7 := 0) (by decide) (by decide) (by decide) fun n e0 e1 e2 e3 e4 e5 => ?_
    have hword := chCustom_qcrc s.chip k x.ch n e0 e2 e5 (hfree _)
    rwa [e1, e3, e4] at hword
  case qpgen =>
    refine onExt_takes hr (op := 0x5B) (f3 := 4) (f7 := 0) (by decide) (by decide) (by decide) fun n e0 e1 e2 e3 e4 e5 => ?_
    have hword := chCustom_qpgen s.chip k x.ch n e0 e2 e5 (hfree _)
    rwa [e1, e3, e4] at hword

end Sys2Proof.Proofs
end

section
/-! SUPPORT. The moves of a ticket that no command asks for (R365, R375 to R379, R384, R385, R392 to R395): what each of the usher's commands does
where its condition holds. -/

namespace Sys2Proof.Laws

open Sys2Proof.Machine

section
variable {s : State} {c : Chip} {w : Word} {i : Nat} (hu : s.chip.usherRuns = true)

/-! ### A PARK that waits (R384) -/

theorem parkQueued_none {d : Chip} (h : (if c.tkFlag i 6 then c.waitingCmd (c.tkWord i) 4 else none) = none) : c.parkQueued i d = d := by
  simp only [Chip.parkQueued, h]

theorem parkQueued_waits {d : Chip} {m : HostCmd} (hq : c.tkFlag i 6 = true) (hm : c.waitingCmd (c.tkWord i) 4 = some m) :
    c.parkQueued i d = (c.cmdTaken m).parkFor i 7 0 (some m.ans) := by
  simp only [Chip.parkQueued, hq, hm, if_true]

/-! ### The running set (R377, R379) -/

section
variable {pipe limit j : Nat} (hlim : s.chip.runLimit = some (pipe, limit)) (hnext : s.chip.nextRunnable = some j)
include hu hlim hnext

theorem execRunningSetAdmit_joins {residue : Nat} (hroom : s.chip.running.length < limit) (hres : residue < pipe) :
    execRunningSetAdmit residue s = .next { s with chip :=
      ((s.chip.setState j 4 0).setAux j fun x => { x with residue := residue, ran := 0 }).settle } := by
  refine onUsher_eq _ hu ?_
  simp only [hlim, hnext]
  exact if_pos ⟨hroom, hres⟩

/-- A full running set with a ticket below the next RUNNABLE one marks the oldest of the lowest priority that has taken MINRUN rows. -/
theorem execPriorityPreemption_marks {k low : Nat} {rest : List Nat} (hfull : limit ≤ s.chip.running.length)
    (hbelow : (s.chip.running.any fun n => decide (s.chip.tkPrio n < s.chip.tkPrio j)) = true)
    (hlow : low = s.chip.running.foldl (fun n y => min n (s.chip.tkPrio y)) 7)
    (hold : s.chip.byAge (s.chip.running.filter fun n => s.chip.tkPrio n == low &&
      decide (low < s.chip.tkPrio j ∧ s.chip.rdF Reg.clkcfg 48 16 ≤ (s.chip.aux n).ran)) = k :: rest) :
    execPriorityPreemption s = .next { s with chip := ((s.chip.setAux k fun x => { x with preempt := true }).boundary k).settle } := by
  subst hlow
  refine onUsher_eq _ hu ?_
  simp only [hlim, hnext, hbelow, hold, not_lt.mpr hfull, Bool.not_true, Bool.false_eq_true, or_self, if_false]

end

/-! ### The moves of a live ticket

Each is stated for the module `c` in which the copies of the ticket's data have been mended. -/

section
variable (hi : s.chip.liveIdx w = some i) (hc : c = s.chip.mend i)
include hu hi hc

/-- An ADMITTED ticket that gets its root and the pages of its first position has a prompt to prefill unless it has one token (R375, R376). -/
theorem execTicketBound_binds {d d1 : Chip} {root : Nat} (hst : c.tkState i = 1)
    (hroot : (if c.tkRoot i ≠ 0 then some (c, c.tkRoot i) else c.newRoot (c.tkImage i) 0) = some (d, root))
    (hpos : (d.tkPut i 0x20 8 root).readyPos i 0 = some d1) :
    execTicketBound w s = .next { s with chip := (d1.setState i (if d1.tkNtok i = 1 then 3 else 2) 0).settle } := by
  subst hc
  refine onTicket_eq _ hu hi ?_
  simp only [if_neg (not_not.mpr hst), hroot, hpos]

/-- A prefilled, settled ticket with nothing in flight becomes RUNNABLE, unless a PARK of it waits. -/
theorem execPrefillDone_prefilled (hst : c.tkState i = 2) (hpos : c.npos i + 1 = c.tkNtok i) (hset : c.tkFlag i 4 = true) (hfl : c.inFlight w = false) :
    execPrefillDone w s = .next { s with chip := (c.parkQueued i (c.setState i 3 0)).settle } := by
  subst hc
  exact onTicket_eq _ hu hi (if_neg (by simp [hst, hpos, hset, hfl]))

/-- The module once the copies of a fork's pages have been made: the new ticket i parks, and the command `m` that asked for it completes. -/
def forkParked (c : Chip) (i : Nat) (m : HostCmd) : Chip :=
  let d := (c.forkPages (c.tkRoot i) ((c.worksOf (Work.is (.fork i))).flatMap fun k => k.items)).worksGone (Work.is (.fork i))
  ((d.setState i (if d.tkFlag i 3 && d.allDemoted i then 6 else 5) m.ans.seq).setAux i fun x => { x with fork := none }).doneTicket i m.ans 0 []

theorem execForkTablesCopied_parks {x : Word} {m : HostCmd} {c1 : Chip} (hfork : (c.aux i).fork = some (x, m)) (hst : c.tkState i = 8)
    (hw : c.worksEnd (Work.is (.fork i)) [] = some (c1, true)) :
    execForkTablesCopied w s = .next { s with chip := (forkParked c1 i m).settle } := by
  subst hc
  refine onTicket_eq _ hu hi ?_
  simp only [hfork, hst, hw, if_true]
  rfl

/-- The module with every lost line of ticket i's page tables written anew. -/
def tablesRewritten (c : Chip) (i : Nat) : Chip :=
  (c.tableLines (c.tkRoot i)).foldl (fun d e => if Chip.linePoisoned d e.1 then d.memWrite (64 * e.1) (d.memBytes (64 * e.1) 64) else d) c

theorem execRecoveryStart_recovers (hroot : c.tkRoot i ≠ 0) (hst7 : c.tkState i ≠ 7) (hst10 : c.tkState i ≠ 10) (hr : (c.rehangOf w).isSome = false)
    (hlost : (c.lostIndices i).isEmpty = false) :
    execRecoveryStart w s = .next { s with chip :=
      ((tablesRewritten c i).recoverStart i ((tablesRewritten c i).tkImage i) (c.lostIndices i)).settle } := by
  subst hc
  have hgo : ¬((s.chip.mend i).tkRoot i = 0 ∨ (s.chip.mend i).tkState i = 7 ∨ (s.chip.mend i).tkState i = 10 ∨
      ((s.chip.mend i).rehangOf w).isSome = true) := by simp [hroot, hst7, hst10, hr]
  refine onTicket_eq _ hu hi ?_
  simp only [if_neg hgo, hlost, Bool.false_eq_true, if_false]
  rfl

/-- The module in which ticket i is back in the state that it recovered for, with a NOTICE; a PARK that waits takes effect on a RUNNABLE one. -/
def recovered (c : Chip) (w : Word) (i : Nat) : Chip :=
  let d := (c.setStateWith i (c.tkRstate i) 0 (putRstate 0)).healthNote 1 3 w.toNat
  if c.tkRstate i = 3 then d.parkQueued i d else d

theorem execRecoveryDone_returns (hst : c.tkState i = 9) (hlost : (c.aux i).lost = []) (hfresh : (c.aux i).fresh = []) (hfl : c.inFlight w = false) :
    execRecoveryDone w s = .next { s with chip := (recovered c w i).settle } := by
  subst hc
  exact onTicket_eq _ hu hi (if_neg (by simp [hst, hlost, hfresh, hfl]))

theorem execTicketLost_retires (hst : c.tkState i ≠ 10) (hbad : c.tkUnreadable i = true) :
    execTicketLost w s = .next { s with chip := (((c.flushRunning i).postDone i 10 0 none).retire i []).settle } := by
  subst hc
  exact onTicket_eq _ hu hi (if_neg (by simp [hst, hbad]))

theorem execReleaseComplete_frees (hst : c.tkState i = 10) (hfl : c.inFlight w = false) :
    execReleaseComplete w s = .next { s with chip := (c.releaseDone i).settle } := by
  subst hc
  exact onTicket_eq _ hu hi (if_pos (by simp [hst, hfl]))

end

end

end Sys2Proof.Laws

namespace Sys2Proof.Proofs
open Sys2Proof.Machine Sys2Proof.Laws

/-- Settles O31: each move by its guard on the mended ticket, or on the running set. -/
theorem ticketsMove : Obligations.TicketsMove := by
  intro s w ti c cm hu hi
  refine ⟨?prefillPending, ?oneToken, ?runnable, ?parks, ?joins, ?preempted, fun x m c1 => execForkTablesCopied_parks hu hi rfl,
    execRecoveryStart_recovers hu hi rfl, execRecoveryDone_returns hu hi rfl, execTicketLost_retires hu hi rfl, execReleaseComplete_frees hu hi rfl⟩
  case prefillPending =>
    intro d d1 root hst hroot hpos hntok
    exact (execTicketBound_binds hu hi rfl hst hroot hpos).trans (by rw [if_neg hntok])
  case oneToken =>
    intro d d1 root hst hroot hpos hntok
    exact (execTicketBound_binds hu hi rfl hst hroot hpos).trans (by rw [if_pos hntok])
  case runnable =>
    intro hst hpos hset hfl hnone
    exact (execPrefillDone_prefilled hu hi rfl hst hpos hset hfl).trans (by rw [parkQueued_none hnone])
  case parks =>
    intro m hst hpos hset hfl hq hm
    exact (execPrefillDone_prefilled hu hi rfl hst hpos hset hfl).trans (by rw [parkQueued_waits hq hm])
  case joins =>
    intro residue pipe limit j hlim hnext
    exact execRunningSetAdmit_joins hu hlim hnext
  case preempted =>
    intro pipe limit j k low rest hlim hnext
    exact execPriorityPreemption_marks hu hlim hnext

end Sys2Proof.Proofs
end

section
/-! SUPPORT. The front of the queue (R566). -/
namespace Sys2Proof.Proofs
open Sys2Proof.Machine Sys2Proof.Laws

/-- Settles O1. -/
theorem stepRunsFrontCommand : Obligations.StepRunsFrontCommand := fun c rest s => step_cons { s with pending := c :: rest } c rest rfl

end Sys2Proof.Proofs
end

section
/-! SUPPORT. Doorbells, rings, interrupts, RUN and the PCIe link (R398, R400, R406 to R411, R427): what each command does where its condition holds. -/

namespace Sys2Proof.Laws

open Sys2Proof.Machine

section
variable {s : State} {c : Chip} {q : Fin 256}

/-! ### Doorbells (R407, R409) -/

/-- A doorbell with nothing to wait for takes effect. -/
theorem barArrive_goes {op : BarOp} {d : Chip} (hb : c.barBehind op = false) (hs : c.stopped = false) (ht : c.barTry op = (d, false)) :
    c.barArrive op = d := by
  simp only [Chip.barArrive, hb, hs, ht, Bool.false_and, Bool.or_self, Bool.false_eq_true, if_false]

theorem sqDoor_inside {k v : Nat} (he : c.bit (Reg.sqCfg k) 5 = true) (hv : v < c.sqSize k) :
    c.sqDoor k v = c.setSq k { c.sq k with tail := BitVec.ofNat 16 v } :=
  if_neg (by simp [he, hv])

/-- The module in which a CQ's head has moved to v: the ring stays full only where the entry at its tail is still the last. -/
def cqHeadMoved (c : Chip) (k v : Nat) : Chip :=
  let full := decide ((c.cqTail k + 1) % c.cqSize k = v)
  c.setCq k { c.cq k with head := BitVec.ofNat 16 v, fullAt := if full then (c.cq k).fullAt else 0, told := (c.cq k).told && full }

theorem cqDoor_inside {k v : Nat} (he : c.cqEnabled k = true) (hv : v < c.cqSize k) :
    c.cqDoor k v = (cqHeadMoved c k v).postKept k ((cqHeadMoved c k v).cq k).kept.length :=
  if_neg (by simp [he, hv])

theorem execSqTailDoorbell_moves {v : Word} (hl : s.chip.isSealed = true) (hs : s.chip.stopped = false) (hb : s.chip.barBehind (.sqTail q.val v) = false)
    (he : s.chip.bit (Reg.sqCfg q.val) 5 = true) (hv : v.toNat < s.chip.sqSize q.val) :
    execSqTailDoorbell q v s = .next { s with chip := s.chip.setSq q.val { s.chip.sq q.val with tail := BitVec.ofNat 16 v.toNat } } :=
  onChip_eq _ ((if_pos hl).trans (barArrive_goes hb hs (congrArg (·, false) (sqDoor_inside he hv))))

theorem execCqHeadDoorbell_moves {v : Word} (hl : s.chip.isSealed = true) (hs : s.chip.stopped = false) (hb : s.chip.barBehind (.cqHead q.val v) = false)
    (he : s.chip.cqEnabled q.val = true) (hv : v.toNat < s.chip.cqSize q.val) :
    execCqHeadDoorbell q v s = .next { s with chip :=
      (cqHeadMoved s.chip q.val v.toNat).postKept q.val ((cqHeadMoved s.chip q.val v.toNat).cq q.val).kept.length } :=
  onChip_eq _ ((if_pos hl).trans (barArrive_goes hb hs (congrArg (·, false) (cqDoor_inside he hv))))

/-! ### Rings (R406) -/

/-- A write of a register of a served block by the host has the effect that its operation is shown to have. -/
theorem onHostWrite_eq (f : Chip → Chip) {d : Chip} (hv : s.chip.Serving) (h : f s.chip = d) : s.onHostWrite f = .next { s with chip := d } := by
  obtain ⟨hsealed, hstop⟩ := hv
  rw [onHostWrite_served s f hsealed hstop, h]

/-- The module d in which the CFG of ring k, at off, has been written as nv and ENABLE has risen: BASE and size are latched, HEAD and TAIL are 0 and PHASE
is 1; a CQ posts what was kept for it (R410). -/
def ringLatched (d : Chip) (cq : Bool) (off k nv : Nat) : Chip :=
  if cq then
    ((d.wrF off 48 16 0).setCq k { CqState.reset with base := BitVec.ofNat 64 (d.rd (Reg.cqBase k)), log2n := field nv 0 5, kept := (d.cq k).kept }).postKept
      k (d.cq k).kept.length
  else (d.wr (Reg.sqStat k) 0).setSq k { SqState.reset with base := BitVec.ofNat 64 (d.rd (Reg.sqBase k)), log2n := field nv 0 5 }

/-- A write of a ring's CFG that raises ENABLE and names a size that the ring may have. -/
theorem execRingEnable_rises {cq : Bool} {cfg : DWord} {r : RegDef} {nv off : Nat} (hoff : off = if cq then Reg.cqCfg q.val else Reg.sqCfg q.val)
    (hv : s.chip.Serving) (hr : regAt off = some r) (hn : nv = regWrite off r.fields true (s.chip.rd off) cfg.toNat (2 ^ 64 - 1))
    (hset : bitOf cfg.toNat 5 = true) (hok : regPairOk off nv = true) (hold : bitOf (s.chip.rd off) 5 = false) (hnew : bitOf nv 5 = true) :
    execRingEnable cq q cfg s = .next { s with chip := ringLatched ((s.chip.unlatch off).wr off nv) cq off q.val nv } := by
  have hsealed := hv.1
  refine onHostWrite_eq _ hv ((if_pos hset).trans ?_)
  simp only [Chip.ringCfg, ringLatched, ← hoff, hr, hsealed, ← hn, hok, hold, hnew, Bool.not_true, Bool.not_false, Bool.and_self, Bool.false_eq_true, if_false]

/-! ### A ring that stays full, and interrupts (R410, R411) -/

theorem execCqFullNotice_tells (hu : s.chip.usherRuns = true) (hrun : s.chip.bit Reg.hifCtl 1 = true) (he : s.chip.cqEnabled q.val = true)
    (hfull : (s.chip.cq q.val).fullAt ≠ 0) (ht : (s.chip.cq q.val).told = false)
    (hold : (s.chip.cq q.val).fullAt.toNat - 1 + 100000000 ≤ s.chip.act.toNat) :
    execCqFullNotice q s = .next { s with chip := (s.chip.setCq q.val { s.chip.cq q.val with told := true }).notice 0x0701 1 q.val 0 } :=
  onUsher_eq _ hu (if_pos ⟨hrun, he, hfull, by simp [ht], hold⟩)

theorem msi_open {v : Nat} (h : c.msixOpen v = true) : c.msi v = { c with host := { c.host with interrupts := c.host.interrupts ++ [BitVec.ofNat 11 v] } } := if_pos h

theorem msi_masked {v : Nat} (h : c.msixOpen v = false) : c.msi v = { c with host := { c.host with pba := Store.put zeroNat c.host.pba v 1 } } := if_neg (by simp [h])

section
variable (hs : s.chip.stopped = false) (he : s.chip.cqEnabled q.val = true) (hi : s.chip.bit (Reg.cqCfg q.val) 6 = true)
include hs he hi

/-- An interrupt that a full batch of entries has made due is raised. -/
theorem execCqInterrupt_due (hd : (s.chip.cq q.val).idue ≠ 0) :
    execCqInterrupt q s = .next { s with chip :=
      (s.chip.setCq q.val { s.chip.cq q.val with idue := (s.chip.cq q.val).idue - 1 }).msi (s.chip.rdF (Reg.cqCfg q.val) 8 11) } := by
  refine onLive_eq _ hs ((if_neg (by simp [he, hi])).trans ?_)
  rw [if_pos hd]

/-- So is one for the entries that have come since, once CCNT of them have or CTIME is over. -/
theorem execCqInterrupt_gathered (hd : (s.chip.cq q.val).idue = 0) (hn : (s.chip.cq q.val).icount ≠ 0)
    (hc : s.chip.rdF (Reg.cqCfg q.val) 24 8 ≤ (s.chip.cq q.val).icount ∨
      (s.chip.cq q.val).ifirst.toNat - 1 + s.chip.rdF (Reg.cqCfg q.val) 32 16 * 1000 ≤ s.chip.now.toNat) :
    execCqInterrupt q s = .next { s with chip :=
      (s.chip.setCq q.val { s.chip.cq q.val with icount := 0, ifirst := 0 }).msi (s.chip.rdF (Reg.cqCfg q.val) 8 11) } := by
  refine onLive_eq _ hs ((if_neg (by simp [he, hi])).trans ?_)
  rw [if_neg (not_not.mpr hd), if_pos ⟨hn, hc⟩]

end

/-! ### The PCIe link (R398) -/

theorem execPcieLinkDegraded_tells {width : Fin 5} {rate : Fin 6} (hu : s.chip.usherRuns = true) (h : width.val ≠ 4 ∨ rate.val ≠ 5) :
    execPcieLinkDegraded width rate s =
      let w := listGet 1 [1, 2, 4, 8, 16] width.val
      let r := listGet 64 [(Config.halfRate 0).toNat, 5, 8, 16, 32, 64] rate.val
      .next { s with chip := ({ s.chip with host := { s.chip.host with pcie := (w, r) } } : Chip).notice 0x0704 1 0 (w + r * 256) } :=
  onUsher_eq _ hu (if_neg (by omega))

end

end Sys2Proof.Laws

namespace Sys2Proof.Proofs
open Sys2Proof.Machine Sys2Proof.Laws

/-- Settles O35: each command by its condition; an interrupt is sent or stands pending as its vector is open or masked. -/
theorem ringsAndDoorbellsRun : Obligations.RingsAndDoorbellsRun := by
  refine fun s => ⟨fun q v => execSqTailDoorbell_moves, fun q v => execCqHeadDoorbell_moves, ?sqEnable, ?cqEnable, fun q => execCqFullNotice_tells,
    ?sent, ?pending, fun run hv => onHostWrite_eq (fun c => (c.unlatch Reg.hifCtl).hifRun run) hv rfl,
    fun hv => onHostWrite_eq (fun c => (c.unlatch Reg.hifCtl).resync) hv rfl, fun e hl => onChip_eq _ (if_pos hl), ?degraded⟩
  case sqEnable =>
    intro q cfg r nv hv hr hn hset hok hold hnew
    exact execRingEnable_rises (cq := false) rfl hv hr hn hset hok hold hnew
  case cqEnable =>
    intro q cfg r nv hv hr hn hset hok hold hnew
    exact execRingEnable_rises (cq := true) rfl hv hr hn hset hok hold hnew
  case sent =>
    intro q d hs he hi hd hn hc hm hopen
    subst hm
    exact (execCqInterrupt_gathered hs he hi hd hn hc).trans (by rw [msi_open hopen])
  case pending =>
    intro q d hs he hi hd hm hopen
    subst hm
    exact (execCqInterrupt_due hs he hi hd).trans (by rw [msi_masked hopen])
  case degraded =>
    intro width rate w r hu h hw hr
    subst hw hr
    exact execPcieLinkDegraded_tells hu h

end Sys2Proof.Proofs
end

section
/-! SUPPORT. Scan access (R547 to R549, R580) and the module port over I3C (R578, R579): what each command does where its condition holds. -/

namespace Sys2Proof.Laws

open Sys2Proof.Machine

section
variable {s : State} {d e : Chip}

/-! ### JTAG (R548, R580) -/

/-- A JTAG instruction has the effect that its operation is shown to have, its code in the instruction register. -/
theorem onJtag_eq {ir : Byte} (f : Chip → Chip) (hr : s.chip.inReset = false) (ht : s.chip.sys.pins.trst = true) (h : f (s.chip.tap ir) = d) :
    s.onJtag ir f = .next { s with chip := d } := by
  rw [onJtag_runs s ir f hr ht, h]

section
variable (hr : s.chip.inReset = false) (ht : s.chip.sys.pins.trst = true)
include hr ht

theorem execJtagScansel_sets {v : Word} :
    execJtagScansel v s = .next { s with chip := { (s.chip.tap 0x22) with dbg := { (s.chip.tap 0x22).dbg with jtagSel := v &&& 0xFFFF } } } :=
  onJtag_eq _ hr ht rfl

theorem execJtagWstat_reads :
    execJtagWstat s = .next { s with chip :=
      { (s.chip.tap 0x26) with dbg := { (s.chip.tap 0x26).dbg with jtagOut := BitVec.ofNat 64 (s.chip.rd Reg.wstat) } } } :=
  onJtag_eq _ hr ht rfl

theorem execJtagScanoff_sets {v : DWord} (hv : v.toNat % 8 = 0) :
    execJtagScanoff v s = .next { s with chip := { (s.chip.tap 0x23) with dbg := { (s.chip.tap 0x23).dbg with jtagOff := BitVec.ofNat 48 v.toNat } } } :=
  onJtag_eq _ hr ht (if_pos hv)

theorem execJtagScanrd_reads {st v : Nat}
    (h : (s.chip.tap 0x24).scanRead (s.chip.tap 0x24).dbg.jtagSel.toNat (s.chip.tap 0x24).dbg.jtagOff.toNat 2 = (d, st, v)) :
    execJtagScanrd s = .next { s with chip :=
      ({ d with dbg := { d.dbg with jtagOut := BitVec.ofNat 64 v, jtagOff := d.dbg.jtagOff + 8 } } : Chip).scanSt st } := by
  refine onJtag_eq _ hr ht ?_
  simp only [h]

theorem execJtagScanwr_writes {v : DWord} {st : Nat}
    (h : (s.chip.tap 0x25).scanWrite (s.chip.tap 0x25).dbg.jtagSel.toNat (s.chip.tap 0x25).dbg.jtagOff.toNat 2 v.toNat = (d, st)) :
    execJtagScanwr v s = .next { s with chip := Chip.scanSt { d with dbg := { d.dbg with jtagOff := d.dbg.jtagOff + 8 } } st } := by
  refine onJtag_eq _ hr ht ?_
  simp only [h]

end

theorem execJtagWstat_held (hr : s.chip.inReset = false) (ht : s.chip.sys.pins.trst = false) :
    execJtagWstat s = .next { s with chip := s.chip.tapHeld } :=
  onJtag_held s 0x26 _ hr ht

/-! ### The scan window (R549) -/

section
variable {w : Fin 65536} {wide : Bool} (hr : s.chip.inReset = false)
include hr

section
variable (ha : w.val % (if wide then 8 else 4) = 0)
include ha

theorem execScanwinAccess_writes {v : DWord} {st : Nat}
    (h : s.chip.scanWrite (s.chip.rd Reg.scansel) (s.chip.rdF Reg.scanoff 0 48 + w.val) (if wide then 2 else 1) v.toNat = (d, st)) :
    execScanwinAccess w wide (some v) s = .next { s with chip := d.scanSt st } := by
  refine onChip_eq _ ?_
  simp only [hr, ha, Chip.scanWin, h, ne_eq, not_true_eq_false, Option.isSome_some, Bool.false_eq_true, if_true, if_false]

theorem execScanwinAccess_reads {st v : Nat}
    (h : s.chip.scanRead (s.chip.rd Reg.scansel) (s.chip.rdF Reg.scanoff 0 48 + w.val) (if wide then 2 else 1) = (d, st, v)) :
    execScanwinAccess w wide none s = .next { s with chip := Answered (d.scanSt st) v } := by
  refine onChip_eq _ ?_
  simp only [Answered, hr, ha, Chip.scanWin, h, ne_eq, not_true_eq_false, Option.isSome_none, Bool.false_eq_true, if_false]

end

/-- A read that is not naturally aligned answers nothing. -/
theorem execScanwinAccess_unaligned (ha : w.val % (if wide then 8 else 4) ≠ 0) :
    execScanwinAccess w wide none s = .next { s with chip := { s.chip with host := { s.chip.host with bar0Out := none } } } := by
  refine onChip_eq _ ?_
  simp only [hr, if_pos ha, Option.isSome_none, Bool.false_eq_true, if_false]

end

/-! ### The DMA copy (R549) -/

theorem execDmaCopy_starts (hr : s.chip.inReset = false) (hd : s.chip.dbg.scanDma = false) :
    execDmaCopy s = .next { s with chip := Chip.wrF { s.chip with dbg := { s.chip.dbg with scanDma := true } } Reg.dmactl 1 1 0 } :=
  onChip_eq _ (if_neg (by simp [hr, hd]))

theorem execDmaCopyDone_copies {st : Nat} (hb : s.chip.dbg.scanDma = true) (hr : s.chip.inReset = false)
    (hd : d = { s.chip with dbg := { s.chip.dbg with scanDma := false } })
    (h : d.scanCopy (d.rd Reg.scansel) (d.rd Reg.dmalen / 8) (d.rdF Reg.scanoff 0 48) (d.rd Reg.dmaaddr) = (e, st)) :
    execDmaCopyDone true s = .next { s with chip := (e.scanSt st).wrF Reg.dmactl 1 1 1 } := by
  refine onChip_eq _ ((if_neg (by simp [hb, hr])).trans ?_)
  rw [← hd]
  simp only [h, if_true]

/-! ### The module port (R578, R579) -/

theorem execI3cWrite_points {off : Word} (hr : s.chip.inReset = false) :
    execI3cWrite off none s = .next { s with chip := s.chip.onPins fun p => { p with pointer := off } } :=
  onChip_eq _ (if_neg (by simp [hr]))

theorem execI3cWrite_puts {off : Word} {wide : Bool} {v : DWord} (hr : s.chip.inReset = false) :
    execI3cWrite off (some (wide, v)) s = .next { s with chip := s.chip.i3cPut off.toNat v.toNat wide } :=
  onChip_eq _ (if_neg (by simp [hr]))

theorem execI3cRead_reads {r : RegDef} (hr : regAt s.chip.sys.pins.pointer.toNat = some r) (hi : i3cReads s.chip.sys.pins.pointer.toNat = true) :
    execI3cRead s = .next { s with chip := s.chip.onPins fun p => { p with
      readOut := some (BitVec.ofNat 64 (regRead r.fields (s.chip.plainValue s.chip.sys.pins.pointer.toNat)))
      pointer := p.pointer + BitVec.ofNat 32 (r.width / 8) } } := by
  refine onChip_eq _ ?_
  simp only [hr, hi, if_true]

end

end Sys2Proof.Laws

namespace Sys2Proof.Proofs
open Sys2Proof.Machine Sys2Proof.Laws

/-- Settles O47: each access on a module that is not in reset, JTAG's by the level of TRST_N. -/
theorem scanAndModulePortRun : Obligations.ScanAndModulePortRun := by
  intro s
  refine ⟨?scansel, ?scanoff, fun d st v hr ht => execJtagScanrd_reads hr ht, fun v d st hr ht => execJtagScanwr_writes hr ht, ?wstat, execJtagWstat_held,
    fun w wide v d st hr ha => execScanwinAccess_writes hr ha, fun w wide d st v hr ha => execScanwinAccess_reads hr ha, fun w wide => execScanwinAccess_unaligned,
    execDmaCopy_starts, fun d e st => execDmaCopyDone_copies, fun off => execI3cWrite_points,
    fun off wide v => execI3cWrite_puts, fun r _ => execI3cRead_reads, fun a => rfl, fun hd => onChip_eq _ (if_pos hd)⟩
  case scansel =>
    rintro v d hr ht rfl
    exact execJtagScansel_sets hr ht
  case scanoff =>
    rintro v d hr ht hv rfl
    exact execJtagScanoff_sets hr ht hv
  case wstat =>
    rintro d hr ht rfl
    exact execJtagWstat_reads hr ht

end Sys2Proof.Proofs
end

section
/-! SUPPORT. Blocks, lanes, training frames and flits of a link (R437 to R445, R453, R454, R456): what each command does where its condition holds. -/

namespace Sys2Proof.Laws

open Sys2Proof.Machine

section
variable {s : State} {c d : Chip} {l : Fin 5}

/-- A changed link is the change of what it was. -/
theorem link_onLink_same {k : Nat} {f : LinkState → LinkState} (h : Store.wf noLink c.lk.link = true) : (c.onLink k f).link k = f (c.link k) :=
  get_put_same h k _

/-! ### Blocks and lanes (R437 to R439, R441) -/

/-- The module once a block of decoded value v has brought its flits, `ks` being the symbols that were corrected. -/
def blockTaken (c : Chip) (k v : Nat) (good : Bool) (ks : List Nat) : Chip :=
  c.onLink k fun x => { x with
    corr := ks.foldl (fun m i => let n := symbolLane (c.rxLanes k) i; Store.put zeroNat m n (Store.get zeroNat m n + 1)) x.corr
    rxFlits := x.rxFlits ++ (List.range 10).map fun i => (BitVec.ofNat 2048 (field v (80 + 2048 * i) 2048), good) }

theorem blockIn_decoded {k b v : Nat} {good : Bool} {ks : List Nat} (h : blockDecode b = (v, good, ks)) :
    c.blockIn k b =
      if good = false then (blockTaken c k v good ks).bump (Reg.linkErr k) 16 16 1
      else if field v 64 16 = crc16 (lowBits v 64) then (blockTaken c k v good ks).framing k (v % 2 ^ 80)
      else blockTaken c k v good ks := by
  simp only [Chip.blockIn, h, ne_eq, ite_not, Bool.not_eq_true']
  rfl

theorem execFecBlockReceive_aligned {msg : BitVec 20560} {parity : BitVec 1200} (h : s.chip.linkUp l.val = true ∨ s.chip.linkSt l.val = 1) :
    execFecBlockReceive l msg parity true s =
      .next { s with chip := (s.chip.blockIn l.val (msg.toNat + parity.toNat * 2 ^ 20560)).blockTime l.val } := by
  refine onChip_eq _ (if_neg ?_)
  rcases h with h | h <;> simp [h]

theorem execSpareSwap_moves {lane : Nat} (hf : (s.chip.link l.val).fail = some lane) (h8 : lane ≠ 8) :
    execSpareSwap l s = .next { s with chip :=
      (s.chip.onLink l.val fun x => { x with fail := none, spare := some lane, quiet := true, swapLeft := 16 }).swapNoted l.val } := by
  refine onChip_eq _ ?_
  simp only [hf]

/-- An alignment block that brought the first lane alone, with its marker and its word. -/
theorem execAlignmentBlockReceive_first {t : Nat} {drift : Int} (hu : s.chip.linkUp l.val = true) (hs : (s.chip.link l.val).rxSpare ≠ some 0)
    (hb : bitOf (s.chip.rdF (Reg.linkStat l.val) 16 9) 0 = true) :
    execAlignmentBlockReceive l [⟨some t, laneWord 0, drift⟩] s = .next { s with chip :=
      (s.chip.onLink l.val fun x => LinkState.alignLane 0 0 drift { x with mism := Store.put zeroNat x.mism 0 0 }) } := by
  refine onChip_eq _ ?_
  simp [hu, hs, hb, listGet, Option.filter]

/-! ### Training frames (R442) -/

theorem execTrainingFrameReceive_applies {lane : Fin 9} {control status : Word} {crc : BitVec 16} {ready : Bool} (hst : s.chip.linkSt l.val = 1)
    (hcrc : crc.toNat = crc16 (lowBits (control.toNat + status.toNat * 2 ^ 32) 64)) :
    execTrainingFrameReceive l lane control status crc ready s = .next { s with chip :=
      (s.chip.onLink l.val fun x =>
        let y := x.control lane.val control.toNat
        LinkState.sendFrame (Config.prbsSeed l.val lane.val) lane.val
          { y with
            ready := Store.put noBool y.ready lane.val (bitOf status.toNat 8)
            status := Store.put zeroNat y.status lane.val (setField (Store.get zeroNat y.status lane.val) 8 1 (b2n ready))
            ask := Store.put zeroNat y.ask lane.val
              (nextAsk (Store.get zeroNat y.ask lane.val) status.toNat (Config.tapRequest s.chip.act l.val lane.val) ready) }) } :=
  onChip_eq _ (if_neg (by simp [hst, hcrc]))

/-! ### Flits (R443 to R445) -/

/-- The module once flit f of a link has been taken, with its credits; `fs` are the flits after it. -/
def flitTaken (c : Chip) (k : Nat) (f : BitVec 2048) (fs : List (BitVec 2048 × Bool)) : Chip :=
  c.onLink k fun x => { x with
    rxFlits := fs
    credit := (List.range 4).foldl (fun m i => Store.put zeroNat m i (Store.get zeroNat m i + field f.toNat (32 + 8 * i) 8)) x.credit }

/-- The module d in which flit f of a link has been accepted: it is the next in sequence, and its payload joins its transaction. -/
def flitAccepted (d : Chip) (k : Nat) (f : BitVec 2048) : Chip :=
  (((d.unshed k).onLink k fun x => { x with rxNext := x.rxNext + 1, rxNak := false, naked := false, rxAny := true, lastUse := d.act }).flitPayload k
    (f.toNat % 2 ^ 16) (leBytes (min 240 (field f.toNat 64 8)) (f.toNat / 2 ^ 96))).pump k

/-- A good flit in sequence, with neither an acknowledgement nor an idle or capability mark, for which its channel has buffer. -/
theorem execFlitReceive_accepts {f : BitVec 2048} {fs : List (BitVec 2048 × Bool)} (hw : Store.wf noLink s.chip.lk.link = true)
    (hu : s.chip.linkUp l.val = true) (hf : (s.chip.link l.val).rxFlits = (f, true) :: fs)
    (hcrc : field f.toNat 2016 32 = crc32 (leBytes 252 f.toNat)) (hcap : bitOf f.toNat 73 = false) (hidle : bitOf f.toNat 72 = false)
    (hack : bitOf f.toNat 29 = false) (hseq : field f.toNat 0 12 = (s.chip.link l.val).rxNext.toNat)
    (hbuf : Store.get zeroNat (s.chip.link l.val).held (field f.toNat 12 2) < vcBuffer (field f.toNat 12 2)) :
    execFlitReceive l s = .next { s with chip := flitAccepted (flitTaken s.chip l.val f fs) l.val f } := by
  have hlink := link_onLink_same (k := l.val) (f := fun x => { x with
    rxFlits := fs
    credit := (List.range 4).foldl (fun m i => Store.put zeroNat m i (Store.get zeroNat m i + field f.toNat (32 + 8 * i) 8)) x.credit }) hw
  refine onChip_eq _ ?_
  simp only [hf, hu, hcrc, hcap, hidle, hack, hlink, hseq, not_le.mpr hbuf, Bool.not_true, Bool.false_eq_true, decide_true, if_false, ne_eq,
    not_true_eq_false, or_self]
  rfl

theorem execNakReplay_replays (hs : s.chip.stopped = false) (hu : s.chip.linkUp l.val = true) (hn : (s.chip.link l.val).nakSeen = true) :
    execNakReplay l s = .next { s with chip := (s.chip.replay l.val).pump l.val } :=
  onLive_eq _ hs (if_pos (by simp [hu, hn]))

theorem execReplayTimeout_replays (hs : s.chip.stopped = false) (hu : s.chip.linkUp l.val = true) (hr : (s.chip.link l.val).replay.isEmpty = false)
    (ha : (s.chip.link l.val).lastAck.toNat + 4000 ≤ s.chip.act.toNat) :
    execReplayTimeout l s = .next { s with chip := (s.chip.replay l.val).pump l.val } :=
  onLive_eq _ hs (if_pos (by simp [hu, hr, ha]))

/-! ### Retraining, shedding and the end of a link (R439, R453, R456) -/

/-- The module c in which the fast retraining of link k has been counted and told, and stands at the lanes that are good. -/
def retrainedTo (c : Chip) (k good : Nat) : Chip :=
  ((((c.bump (Reg.linkErr k) 56 8 1).wrF (Reg.linkStat k) 4 1 0).linkState k 3).wrF (Reg.linkStat k) 16 9 good).notice 0x0502 (openSev 0x0502 k) k
    (openDetail 0x0502 k)

/-- The module e, which has sent its capability flits, with the link's lanes as new and what is to be replayed due. -/
def retrainedAnew (e : Chip) (k : Nat) : Chip :=
  e.onLink k fun x => { x with
    again := x.replay.length, swapLeft := 0, fast := 0, stalls := 0, lctl := none, fail := none, mism := [], quiet := false, nakSeen := false,
    lastAck := e.act, shed := false, spare := if x.fast = 1 then none else x.spare, rxSpare := if x.fast = 1 then none else x.rxSpare }

/-- After a second lane failure, a link retrains to the lanes that are good, of which it has enough. -/
theorem execFastRetrain_lanes {good : BitVec 9} {boot : Word} (hu : s.chip.linkUp l.val = true) (hf : (s.chip.link l.val).fast = 1)
    (hw : laneWidth good.toNat ≠ 0) (hd : d = retrainedTo s.chip l.val good.toNat)
    (hc : c = retrainedAnew (d.sendCaps l.val good.toNat (d.txLanes l.val)) l.val) :
    execFastRetrain l good boot true s = .next { s with chip :=
      (((c.wrF (Reg.linkPartner l.val) 0 32 boot.toNat).meet l.val (c.linkNode l.val) boot).pump l.val).settle } := by
  subst hc hd
  refine onChip_eq _ ((if_neg (by simp [hu, hf])).trans ((if_neg (by simp [hf, hw])).trans ?_))
  simp only [hf, if_true]
  rfl

theorem execLpidleShed_sheds (hst : s.chip.linkSt l.val = 2) (hfeat : s.chip.linkFeat l.val 2 = true) (hn : (s.chip.link l.val).flitCount = 0)
    (hidle : (s.chip.link l.val).lastUse.toNat + 100000 ≤ s.chip.act.toNat) :
    execLpidleShed l s = .next { s with chip := (s.chip.wrF (Reg.linkStat l.val) 0 3 3).onLink l.val fun x => { x with shed := true } } :=
  onChip_eq _ (if_pos ⟨hst, hfeat, hn, hidle⟩)

theorem execLinkDown_down {good : Fin 4} (hu : s.chip.linkUp l.val = true) : execLinkDown l good s = .next { s with chip := (s.chip.linkDown l.val).settle } :=
  onChip_eq _ (if_pos (by simp [hu]))

end

end Sys2Proof.Laws

namespace Sys2Proof.Proofs
open Sys2Proof.Machine Sys2Proof.Laws

/-- Settles O36: each command by its condition on the link. -/
theorem linkLanesAndFlitsRun : Obligations.LinkLanesAndFlitsRun := by
  intro s l
  refine ⟨?block, fun lane hu => onChip_eq _ (if_pos hu), fun lane => execSpareSwap_moves, fun t drift => execAlignmentBlockReceive_first,
    fun lane control status crc ready => execTrainingFrameReceive_applies, fun f fs => execFlitReceive_accepts, execNakReplay_replays,
    execReplayTimeout_replays, fun good boot hu hf hw => execFastRetrain_lanes hu hf hw rfl rfl, execLpidleShed_sheds, fun good => execLinkDown_down⟩
  case block =>
    intro msg parity v good ks hup hd
    exact (execFecBlockReceive_aligned hup).trans (by rw [blockIn_decoded hd]; rfl)

end Sys2Proof.Proofs
end

section
/-! SUPPORT. What the usher does about faults of galleries and clusters, lost weights and a tower that it must fence (R510 to R513): each answer by what
calls for it. -/

namespace Sys2Proof.Laws

open Sys2Proof.Machine

/-- Before a step restarts, the galleries of the plan that do not stand held are held. -/
theorem holdRestart_holds {c : Chip} {k : Nat} {drop f : Chip → Chip} (he : c.epochState = 1) (hk : c.planGals.contains k = true) (hf : c.fenced k = false)
    (hh : (c.planGals.any fun g => !(c.gal g).hold) = true) : c.holdRestart k drop f = c.planGals.foldl Chip.holdGal c := by
  have hgo : ¬(c.epochState ≠ 1 ∨ (!c.planGals.contains k) = true ∨ c.fenced k = true) := by simp [he, hf, List.elem_iff.mp hk]
  rw [Chip.holdRestart, if_neg hgo, if_pos hh]

section
variable {s : State} (hu : s.chip.usherRuns = true)
include hu

/-! ### Reports of galleries and clusters (R510) -/

section
variable {m : UsherMsg} (hm : (s.chip.reports.find? fun m => (faultAct m).isSome) = some m)
include hm

theorem execGalleryFault_fences {k : Nat} (ha : faultAct m = some (.fence k)) :
    execGalleryFault s = .next { s with chip := Chip.usherFence { s.chip with reports := s.chip.reports.erase m } k 5 } := by
  refine onUsher_eq _ hu ?_
  simp only [hm, ha]

/-- A cluster that runs no job is reset. -/
theorem execGalleryFault_resetsCluster {p v : Nat} (ha : faultAct m = some (.cluster p)) (hv : s.chip.vaultAt (p / 104) (p % 104) = some v)
    (hj : ((s.chip.cluster (vaultKey (p / 104) v)).chanters.any fun e => e.2.job.isSome) = false) :
    execGalleryFault s = .next { s with chip := Chip.clusterReset { s.chip with reports := s.chip.reports.erase m } (vaultKey (p / 104) v) } := by
  refine onUsher_eq _ hu ?_
  simp only [hm, ha, hv, hj, Bool.false_eq_true, if_false]

theorem execGalleryFault_holds {k : Nat} (ha : faultAct m = some (.again k) ∨ faultAct m = some (.stage k)) (he : s.chip.epochState = 1)
    (hk : s.chip.planGals.contains k = true) (hf : s.chip.fenced k = false) (hh : (s.chip.planGals.any fun g => !(s.chip.gal g).hold) = true) :
    execGalleryFault s = .next { s with chip := s.chip.planGals.foldl Chip.holdGal s.chip } := by
  refine onUsher_eq _ hu ?_
  rcases ha with ha | ha <;> simp only [hm, ha, holdRestart_holds he hk hf hh]

end

/-! ### Weights (R511) -/

/-- The module c in which 64 KiB of a weight section of model m, from o on, wait to be reloaded. -/
def reloadDue (c : Chip) (m sid o : Nat) : Chip := c.setModel m { c.model m with reload := (c.model m).reload ++ [(sid, o)] }

section
variable {m : Fin 8} {sid off o : Nat} (ho : o = off / 65536 * 65536) (hl : s.chip.loaded m.val = true)
  (hn : min 65536 (s.chip.sectLeft m.val sid o) ≠ 0)
  (hbad : ((s.chip.model m.val).weights.any fun w => w.1 == sid && s.chip.memPoisoned (w.2.2 + o) (min 65536 (s.chip.sectLeft m.val sid o))) = true)
  (hnew : (s.chip.model m.val).reload.contains (sid, o) = false)
include ho hl hn hbad hnew

/-- The partner of a link that is up is asked for it. -/
theorem execWeightUe_asks {l : Fin 5} (hup : s.chip.linkUp l.val = true) :
    execWeightUe m sid off (some l) s = .next { s with chip :=
      (let d := reloadDue s.chip m.val sid o
       ({ d with lk := { d.lk with asked := d.lk.asked ++ [((s.chip.partner l.val).1, m.val)] } } : Chip).sendMsg l.val 4 true
         (.ask (s.chip.partner l.val).1 m.val) (leBytes 4 (d.modelId m.val))) } := by
  subst ho
  refine onUsher_eq _ hu ?_
  simp only [hl, hn, hbad, hnew]
  exact if_pos hup

/-- Without one, the host is told. -/
theorem execWeightUe_tells :
    execWeightUe m sid off none s = .next { s with chip := (reloadDue s.chip m.val sid o).weightNotice m.val sid o } := by
  subst ho
  refine onUsher_eq _ hu ?_
  simp only [hl, hn, hbad, hnew]
  rfl

end

/-! ### A tower that is bad (R512, R513) -/

/-- The module c in which tower t has been fenced, with its NOTICE. -/
def towerDown (c : Chip) (t : Nat) : Chip :=
  (c.onUsh fun u => { u with tdown := u.tdown ++ [t] }).notice 0x0207 2 t (openDetail 0x0207 t)

/-- The module e with the tickets of selection sl that lost data in tower t in recovery. -/
def ticketsRecovering (e : Chip) (sl : Selection) (t : Nat) (answers : Bool) : Chip :=
  e.liveTickets.foldl (fun c i =>
    if c.tkRoot i = 0 ∨ c.tkState i = 7 ∨ c.tkState i = 10 ∨ c.tkModel i ≠ sl.midx then c
    else
      let idx := c.towerLost i t answers
      let c := c.setFlag i 4 false
      if idx.isEmpty then c else c.recoverStart i (c.model (c.tkModel i)).image idx) e

/-- Selection sl with decode plan n of the towers that remain, its prefill plan kept where that goes with it. -/
def selectionLeft (e : Chip) (sl : Selection) (n : Nat) : Selection :=
  { sl with dplan := n, pplan := if e.selectionOk { sl with dplan := n, pplan := sl.pplan, tplan := 0xFFFF } then sl.pplan else 0xFFFF, tplan := 0xFFFF }

section
variable {t : Fin 4} {answers : Bool} (ht : s.chip.hasTower t.val = true) (hd : s.chip.ush.tdown.contains t.val = false)
  (hb : s.chip.towerBad t.val = true)
include ht hd hb

omit hu in
theorem towerFence_due : ¬(!s.chip.hasTower t.val || s.chip.ush.tdown.contains t.val || !s.chip.towerBad t.val) = true := by
  rw [ht, hd, hb]
  decide

theorem execTowerFence_replans {sl : Selection} {n : Nat} {e : Chip} (h0 : t.val ≠ 0) (hsel : (towerDown s.chip t.val).ush.sel = some sl)
    (hp : (towerDown s.chip t.val).planLeft sl = some (n, e)) :
    execTowerFence t answers s = .next { s with chip :=
      (((ticketsRecovering e sl t.val answers).onUsh fun u => { u with sel := some (selectionLeft e sl n), want := 1 }).changeoverDue).settle } := by
  refine onUsher_eq _ hu ((if_neg (towerFence_due ht hd hb)).trans ((if_neg h0).trans ?_))
  simp only [towerDown] at hsel hp
  simp only [hsel, hp, ticketsRecovering, selectionLeft]

/-- With TOWER[0] every session ends. -/
theorem execTowerFence_first {d : Chip} (h0 : t.val = 0) (h : d = towerDown s.chip t.val) :
    execTowerFence t answers s = .next { s with chip :=
      (d.liveTickets.foldl (fun c i => if c.tkState i = 10 then c else ((c.flushRunning i).postDone i 10 0 none).retire i []) d).settle } := by
  subst h
  exact onUsher_eq _ hu ((if_neg (towerFence_due ht hd hb)).trans (if_pos h0))

end

end

end Sys2Proof.Laws

namespace Sys2Proof.Proofs
open Sys2Proof.Machine Sys2Proof.Laws

/-- Settles O42: each fault by what Table 17-7 orders, a weight range by its partner, a tower by whether it is TOWER[0]. -/
theorem faultsAreAnswered : Obligations.FaultsAreAnswered := by
  refine fun s => ⟨fun m k hu hm => execGalleryFault_fences hu hm, fun m p v hu hm => execGalleryFault_resetsCluster hu hm,
    fun m k hu hm => execGalleryFault_holds hu hm,
    ?asks, ?tells, ?replans, ?first⟩
  case asks =>
    intro m sid off l o hu ho hl hn hbad hnew
    exact execWeightUe_asks hu ho hl hn hbad hnew
  case tells =>
    intro m sid off o hu ho hl hn hbad hnew
    exact execWeightUe_tells hu ho hl hn hbad hnew
  case replans =>
    intro t answers sl n e hu ht hd hb h0 hsel hp
    exact execTowerFence_replans (answers := answers) hu ht hd hb h0 hsel hp
  case first =>
    intro answers d hu ht hd hb h
    exact execTowerFence_first (t := 0) (answers := answers) hu ht hd hb rfl h

end Sys2Proof.Proofs
end

section
/-! SUPPORT. Power delivery (R463 to R474): throttling, voltage steps, regulator cells, staging, current reports and cracks, each where its condition holds. -/

namespace Sys2Proof.Laws

open Sys2Proof.Machine

section
variable {s : State} {c : Chip} {g : GalId}

/-! ### Throttling and voltage steps (R463, R465) -/

/-- The module c with the mark of tower t's throttling. -/
def ilimMark (c : Chip) (t : Nat) (b : Bool) : Chip := c.onPower fun x => { x with ilimOn := Store.put noMark x.ilimOn t b }

theorem execIlimThrottle_above {t : Fin 4} {current : Nat} (ht : s.chip.hasTower t.val = true)
    (hc : s.chip.rdF Reg.ilim 0 16 * 100 < current * s.chip.part.towers) :
    execIlimThrottle t current s = .next { s with chip :=
      (ilimMark (s.chip.setVsets ((s.chip.poweredGals t.val).map fun k => (k, min (s.chip.rdF (domReg k) 0 4) (s.chip.rdF (domReg k) 8 4) - 1)))
        t.val true) } :=
  onChip_eq _ ((if_neg (by simp [ht])).trans (if_pos (by simp [hc])))

/-- A throttled tower whose current is below 95% of its share is throttled no longer. -/
theorem execIlimThrottle_below {t : Fin 4} {current : Nat} (ht : s.chip.hasTower t.val = true)
    (hon : Store.get noMark s.chip.sys.power.ilimOn t.val = true)
    (hc : current * s.chip.part.towers * 100 < s.chip.rdF Reg.ilim 0 16 * 100 * 95) :
    execIlimThrottle t current s = .next { s with chip :=
      ((ilimMark s.chip t.val false).notice 0x0306 (openSev 0x0306 t.val) t.val (openDetail 0x0306 t.val)) } := by
  have hshare : ¬s.chip.rdF Reg.ilim 0 16 * 100 < current * s.chip.part.towers := by omega
  exact onChip_eq _ ((if_neg (by simp [ht])).trans ((if_neg (by simp [hshare, hc])).trans (if_pos hon)))

/-- A VSET that does not rise, or may rise within ILIM, is set. -/
theorem execVsetChange_sets {v : Fin 16} (hu : s.chip.usherRuns = true) (ht : s.chip.hasTower g.tower.val = true)
    (h : v.val ≤ s.chip.rdF (domReg (galKey g)) 0 4 ∨ (s.chip.mayRaise (galKey g) = true ∧ (s.chip.setVsets [(galKey g, v.val)]).withinIlim = true)) :
    execVsetChange g v s = .next { s with chip := s.chip.setVsets [(galKey g, v.val)] } := by
  refine onUsher_eq _ hu (if_neg ?_)
  rcases h with h | ⟨hr, hw⟩
  · simp [ht, not_lt.mpr h]
  · simp [ht, hr, hw]

/-! ### Regulator cells (R467 to R469) -/

theorem execRegCellFail_first {cell : Fin 4} (ht : s.chip.hasTower g.tower.val = true) (hd : s.chip.domSt (galKey g) ≠ 0)
    (hf : s.chip.cellsFailed (galKey g) = 0) :
    execRegCellFail g cell s = .next { s with chip :=
      (((s.chip.wrF (domReg (galKey g)) (16 + cell.val) 1 1).domsRun [galKey g]).notice 0x0301 1 (g.tower.val * 128 + g.pos.val)
        (openDetail 0x0301 (galKey g))) } :=
  onChip_eq _ (if_neg (by simp [ht, hd, hf]))

theorem execSecondCellFail_loses {cell : Fin 4} (ht : s.chip.hasTower g.tower.val = true) (hd : s.chip.domSt (galKey g) ≠ 0)
    (hf : s.chip.cellsFailed (galKey g) = 1) (hb : s.chip.bit (domReg (galKey g)) (16 + cell.val) = false) :
    execSecondCellFail g cell s = .next { s with chip := (s.chip.wrF (domReg (galKey g)) (16 + cell.val) 1 1).domLost (galKey g) 2 } :=
  onChip_eq _ (if_neg (by simp [ht, hd, hf, hb]))

/-- The module c whose corridor of tower t has lost n cells and is capped to what the rest carry. -/
def corridorCapped (c : Chip) (t n : Nat) : Chip :=
  let cap := (corridorCap (48 - n)).getD 6
  let d := c.onPower fun x => { x with corrFail := Store.put zeroNat x.corrFail t n }
  (((d.wrF (corrReg t) 16 4 (min n 15)).wrF (corrReg t) 8 4 cap).wrF (corrReg t) 28 3 (if cap = 15 then 0 else 1)).domsRun
    ((List.range 104).map (t * 104 + ·))

theorem execCorridorCellFail_caps {t : Fin 4} {n : Nat} (ht : s.chip.hasTower t.val = true)
    (hn : n = Store.get zeroNat s.chip.sys.power.corrFail t.val + 1) (h48 : n ≤ 48) (hd : s.chip.rdF (corrReg t.val) 12 3 ≠ 0) :
    execCorridorCellFail t s = .next { s with chip := corridorCapped s.chip t.val n } := by
  subst hn
  exact onChip_eq _ (if_neg (by simp [ht, hd]; omega))

/-! ### Staging (R470, R471) -/

/-- The module c with domain k in staging since now. -/
def stagingFrom (c : Chip) (k : Nat) : Chip :=
  (c.setDomSt k 3).onPower fun x => { x with staging := Store.put zeroDWord x.staging k (c.now + 1), stageTold := Store.put noMark x.stageTold k false }

section
variable {trips : Byte} (hm : s.chip.mayStage (galKey g) = true)
include hm

theorem execDomainSwitchOn_begins {finished : Bool} (hd : s.chip.domSt (galKey g) = 0) :
    execDomainSwitchOn g trips finished s = .next { s with chip :=
      (let d := (stagingFrom s.chip (galKey g)).bump (domReg (galKey g)) 20 8 trips.toNat
       if finished then d.galOn (galKey g) else d) } := by
  refine onChip_eq _ ((if_neg (by simp [hm, hd])).trans ?_)
  simp only [hd, if_true]
  rfl

theorem execDomainSwitchOn_ends (hd : s.chip.domSt (galKey g) = 3) :
    execDomainSwitchOn g trips true s = .next { s with chip := (s.chip.bump (domReg (galKey g)) 20 8 trips.toNat).galOn (galKey g) } := by
  refine onChip_eq _ ((if_neg (by simp [hm, hd])).trans ?_)
  simp [hd]

end

theorem execStagingTimeout_tells (hd : s.chip.domSt (galKey g) = 3) (hs : (Store.get zeroDWord s.chip.sys.power.staging (galKey g)).toNat ≠ 0)
    (hdue : (Store.get zeroDWord s.chip.sys.power.staging (galKey g)).toNat - 1 + 1000000 ≤ s.chip.now.toNat)
    (ht : Store.get noMark s.chip.sys.power.stageTold (galKey g) = false) :
    execStagingTimeout g s = .next { s with chip :=
      ((s.chip.onPower fun y => { y with stageTold := Store.put noMark y.stageTold (galKey g) true }).notice 0x0305 0
        (g.tower.val * 128 + g.pos.val) (openDetail 0x0305 (galKey g))) } :=
  onChip_eq _ (if_neg (by simp [hd, hs, ht, not_lt.mpr hdue]))

/-! ### Current reports and cracks (R472 to R474) -/

/-- The module c once a sample of tower t's domains has been written, to its registers and to its ring where that has a base. -/
def sampled (c : Chip) (t : Nat) (recs : List (Half × Half × Half)) : Chip :=
  let n := c.rdF (Reg.iridx t) 0 32
  let bytes := recs.zipIdx.foldr (fun r l =>
    leBytes 2 r.1.1.toNat ++ leBytes 2 r.1.2.1.toNat ++ leBytes 2 r.1.2.2.toNat
      ++ leBytes 2 (c.rdF (Reg.dom t r.2) 4 4 + c.rdF (Reg.dom t r.2) 12 3 * 16) ++ l) []
  let d := recs.zipIdx.foldl (fun c r => Chip.wrF c (Reg.dom t r.2) 32 16 r.1.1.toNat) c
  let e := if d.rdF (Reg.irbase t) 0 40 = 0 then d else d.memWrite (d.rdF (Reg.irbase t) 0 40 + 1040 * (n % 1024)) bytes
  (e.wrF (Reg.iridx t) 0 32 (n + 1)).wrF (Reg.iridx t) 32 32 (field e.now.toNat 10 32)

theorem execCurrentSample_writes {t : Fin 4} {recs : List (Half × Half × Half)} (ht : s.chip.hasTower t.val = true) (hr : recs.length = 130) :
    execCurrentSample t recs s = .next { s with chip := sampled s.chip t.val recs } :=
  onChip_eq _ (if_neg (by simp [ht, hr]))

/-- The tenth sample in a row above 1.25 times the model drop, and not above 3 times the fused one, classes a good bank as degraded. -/
theorem execCrackAlarm_tenth {drop share : Word} {model : Nat} (ht : s.chip.hasTower g.tower.val = true) (hsh : 1000 ≤ share.toNat)
    (hm : model = share.toNat * 2 * s.chip.rdF (Reg.bank g.tower.val g.pos.val) 16 16) (hd : model * 5 < drop.toNat * 4000)
    (hf : drop.toNat * 1000 ≤ share.toNat * 2 * s.chip.rdF (Reg.bank g.tower.val g.pos.val) 0 16 * 3)
    (hn : (Store.get noCrack s.chip.sys.power.crack (galKey g)).1 = 9) (hc : s.chip.bankClass (galKey g) = 0) :
    execCrackAlarm g drop share s = .next { s with chip :=
      (let d := s.chip.onPower fun y => { y with crack := Store.put noCrack y.crack (galKey g) (10, 0) }
       (((d.wrF (Reg.bank g.tower.val g.pos.val) 32 2 1).domsRun [galKey g]).notice 0x0303 1 (g.tower.val * 128 + g.pos.val)
         (openDetail 0x0303 (galKey g))).measure (galKey g)) } := by
  subst hm
  refine onChip_eq _ ((if_neg (by simp [ht, hsh])).trans ?_)
  simp only [hd, if_true, hn, if_neg (not_lt.mpr hf)]
  have hclass : ∀ f, (s.chip.onPower f).bankClass (galKey g) = 0 := fun _ => hc
  simp [hclass]

/-- A recovery measurement of 100 ms that finds the bank in no worse a class keeps it. -/
theorem execRecoveryMeasurementDone_keepsClass {ohms ratio : Half} {seg : Fin 18}
    (hm : (Store.get zeroDWord s.chip.sys.power.measuring (galKey g)).toNat ≠ 0)
    (hdue : (Store.get zeroDWord s.chip.sys.power.measuring (galKey g)).toNat - 1 + 100000000 ≤ s.chip.now.toNat)
    (hc : bankClassOf (s.chip.rdF (Reg.bank g.tower.val g.pos.val) 0 16) ohms.toNat ratio.toNat ≤ s.chip.bankClass (galKey g))
    (h3 : s.chip.bankClass (galKey g) ≠ 3) :
    execRecoveryMeasurementDone g ohms ratio seg s = .next { s with chip :=
      (let d := s.chip.onPower fun y => { y with measuring := Store.put zeroDWord y.measuring (galKey g) 0 }
       let o := Reg.bank g.tower.val g.pos.val
       (((d.wrF o 16 16 ohms.toNat).wrF o 32 2 (s.chip.bankClass (galKey g))).wrF o 34 5 seg.val).domsRun [galKey g]) } := by
  refine onChip_eq _ ((if_neg (by simp [hm, not_lt.mpr hdue])).trans ?_)
  have hclass : ∀ f, (s.chip.onPower f).bankClass (galKey g) = s.chip.bankClass (galKey g) := fun _ => rfl
  have hbase : ∀ f, (s.chip.onPower f).rdF (Reg.bank g.tower.val g.pos.val) 0 16 = s.chip.rdF (Reg.bank g.tower.val g.pos.val) 0 16 := fun _ => rfl
  simp only [hclass, hbase, if_neg h3, max_eq_left hc]
  exact if_neg fun h => h.2 h.1

end

end Sys2Proof.Laws

namespace Sys2Proof.Proofs
open Sys2Proof.Machine Sys2Proof.Laws

/-- Settles O39: each command by its condition on the tower, the domain or the bank. -/
theorem powerDeliveryRuns : Obligations.PowerDeliveryRuns := by
  intro s g
  exact ⟨fun current => execIlimThrottle_above, fun current => execIlimThrottle_below, fun v hu ht hv => execVsetChange_sets hu ht (.inl hv),
    fun v hu ht hr hw => execVsetChange_sets hu ht (.inr ⟨hr, hw⟩), fun cell => execRegCellFail_first, fun cell => execSecondCellFail_loses,
    fun n => execCorridorCellFail_caps, fun trips => execDomainSwitchOn_ends, fun trips finished hm => execDomainSwitchOn_begins hm,
    execStagingTimeout_tells, fun recs => execCurrentSample_writes, fun drop share model => execCrackAlarm_tenth,
    fun ohms ratio seg => execRecoveryMeasurementDone_keepsClass⟩

end Sys2Proof.Proofs
end

section
/-! SUPPORT. Sensors, the thermal stop and the Bellows (R475 to R485): what each command does where its condition holds. -/

namespace Sys2Proof.Laws

open Sys2Proof.Machine

section
variable {s : State} {t : Fin 4}

/-! ### Sensors (R475 to R479) -/

/-- The module c in which a tower's readings have been taken: each in its register, the rows of Table 16-4 in force, and the ms's lowerings made. -/
def readingsTaken (c : Chip) (k : Nat) (ok : List (Fin 19 × Fin 104 × Fin 4096)) : Chip :=
  let d := ok.foldl (fun c r => Chip.wrF c (Reg.sensor k r.1.val r.2.1.val) 0 12 r.2.2.val) c
  let e := ok.foldl (fun c r => Chip.thermAct c k r.1.val r.2.1.val) d
  if e.stopped then e else e.thermLower k

/-- The module f in which the first reading at 105 C of a sensor that is not suspected has raised the alarm. -/
def readingAlarm (f : Chip) (k : Nat) (ok : List (Fin 19 × Fin 104 × Fin 4096)) : Chip :=
  match ok.find? fun r => decide (tcode 105 ≤ r.2.2.val) && !f.senSusp k r.1.val r.2.1.val with
  | some r => f.raiseAlarm k r.1.val r.2.1.val false r.2.2.val
  | none => f

theorem execSensorRead_takes {readings ok : List (Fin 19 × Fin 104 × Fin 4096)} (ht : s.chip.hasTower t.val = true)
    (hok : ok = readings.filter fun r => s.chip.hasDie r.1.val && decide (864 ≤ r.2.2.val ∧ r.2.2.val ≤ tcode 110)) (hne : ok ≠ []) :
    execSensorRead t readings s = .next { s with chip := readingAlarm (readingsTaken s.chip t.val ok) t.val ok } := by
  refine onChip_eq _ ((if_neg (by simp [ht])).trans ?_)
  simp only [← hok, List.isEmpty_eq_false_iff.mpr hne, Bool.false_eq_true, false_or]
  rfl

/-- A sensor that is not suspected trips at 105 C. -/
theorem execComparatorTrip_alarms {die : Fin 19} {p : Fin 104} (ht : s.chip.hasTower t.val = true) (hd : s.chip.hasDie die.val = true)
    (hs : s.chip.senSusp t.val die.val p.val = false) :
    execComparatorTrip t die p s = .next { s with chip := s.chip.raiseAlarm t.val die.val p.val false (tcode 105) } :=
  onChip_eq _ (if_neg (by simp [ht, hd, hs]))

theorem execLayerEstimate_present {p : Fin 104} {powers : List Nat} (ht : s.chip.hasTower t.val = true) :
    execLayerEstimate t p powers s = .next { s with chip :=
      (let layers := (List.range s.chip.part.layers).map (· + 1)
       let d := layers.foldl (fun d i =>
         match Chip.estimate s.chip t.val p.val i powers with
         | some e => (Chip.wrF d (Reg.sensor t.val i p.val) 12 12 e).checkSensor t.val i p.val
         | none => d) s.chip
       let e := layers.foldl (fun d i => Chip.thermAct d t.val i p.val) d
       match layers.find? fun i => decide (tcode 105 ≤ e.senEst t.val i p.val) with
       | some i => e.raiseAlarm t.val i p.val true (e.senEst t.val i p.val)
       | none => e) } :=
  onChip_eq _ ((if_neg (by simp [ht])).trans rfl)

/-! ### The thermal stop (R480) -/

theorem execThermalStop_acts (ha : s.chip.sys.power.alarm = true) (hs : s.chip.thermStopped = false) :
    execThermalStop s = .next { s with chip :=
      ((((List.range 4).filter fun t => s.chip.rdF (corrReg t) 12 3 != 0).foldl (fun c t => (Chip.wrF c (corrReg t) 12 3 1).wrF (corrReg t) 4 4 6)
        (s.chip.warmEnter.wrF Reg.thermStat 0 1 1)).alert 1) } :=
  onChip_eq _ (if_neg (by simp [ha, hs]))

/-! ### The Bellows (R481, R482) -/

/-- A whole write of GRANT over I3C, where SRC names it. -/
theorem grantWrite_i3c {c : Chip} (v : Word) (hsrc : c.rdF Reg.bellowsCtl 0 2 = 0) :
    c.grantWrite 0 v.toNat (2 ^ 32 - 1) = ((c.unlatch Reg.grant).wrF Reg.grant 0 32 v.toNat).onUsh fun u => { u with grantHold := true } := by
  have hmask : field (2 ^ 32 - 1) 0 32 = 2 ^ 32 - 1 := by decide
  have hv : v.toNat &&& (2 ^ 32 - 1) = v.toNat := by rw [Nat.and_two_pow_sub_one_eq_mod, Nat.mod_eq_of_lt v.isLt]
  have hgo : ¬(c.unlatch Reg.grant).rdF Reg.bellowsCtl 0 2 ≠ 0 := not_not.mpr hsrc
  simp only [Chip.grantWrite, if_neg hgo, hmask, hv, Nat.sub_self, Nat.and_zero, Nat.or_zero, beq_self_eq_true]

theorem execGrantWrite_i3c {uj : Word} (hsrc : s.chip.rdF Reg.bellowsCtl 0 2 = 0) :
    execGrantWrite true uj s = .next { s with chip :=
      (((s.chip.unlatch Reg.grant).wrF Reg.grant 0 32 uj.toNat).onUsh fun u => { u with grantHold := true }) } :=
  onChip_eq (fun c => c.grantWrite 0 uj.toNat (2 ^ 32 - 1)) (grantWrite_i3c uj hsrc)

theorem execGrantWrite_host {uj : Word} (hv : s.chip.Serving) :
    execGrantWrite false uj s = .next { s with chip := s.chip.grantWrite 1 uj.toNat (2 ^ 32 - 1) } := by
  obtain ⟨hsealed, hstop⟩ := hv
  exact onHostWrite_served s (fun c => c.grantWrite 1 uj.toNat (2 ^ 32 - 1)) hsealed hstop

section
variable (hl : s.chip.isSealed = true)
include hl

theorem execLedgerMeter_meters {uj : Nat} :
    execLedgerMeter uj s = .next { s with chip :=
      ((s.chip.ledgerAdd (-(uj : Int))).onUsh fun u => { u with metered := u.metered + uj, msDone := u.msDone + 1 }) } :=
  onChip_eq _ (if_neg (by simp [hl]))

/-- The module c with the window's measured energy in the ledger and every gallery's window charge at 0. -/
def windowTrued (c : Chip) (measured : List (GalId × Nat)) : Chip :=
  let d := measured.foldl (fun c e => Chip.trueUp c (galKey e.1) e.2) c
  d.gals.foldl (fun c e => Chip.onGal c e.1 fun g => { g with winCharge := 0 }) d

/-- How many windows in a row have now ended with a negative ledger. -/
def negativeRun (c : Chip) : Nat := if decide (c.ledger < 0) then satAdd 8 (c.rdF Reg.bellowsStat 20 8) 1 else 0

/-- The trued-up module c with its negative ledgers and the window counted, VSETs moved, and the tenth negative window in a row told. -/
def windowCounted (c : Chip) : Chip :=
  let d := (c.bump Reg.bellowsStat 0 16 (b2n (decide (c.ledger < 0)))).wrF Reg.bellowsStat 20 8 (negativeRun c)
  let e := (d.wrF Reg.bellowsStat 32 32 (d.rdF Reg.bellowsStat 32 32 + 1)).windowVsets
  if negativeRun c = 10 ∧ e.ush.grant ≠ 0xFFFFFFFF then (e.notice 0x0302 1 (openUnit 0x0302 0) (openDetail 0x0302 0)).alert 3 else e

theorem execBellowsWindowEnd_ends {measured : List (GalId × Nat)} {values : List (Fin 91 × DWord)} :
    execBellowsWindowEnd measured values s = .next { s with chip :=
      ((((windowCounted (windowTrued s.chip measured)).monitors (values.map fun e => (e.1.val, e.2.toNat))).onUsh fun u =>
        { u with rate := u.metered, firstWin := false }).windowStart) } :=
  onChip_eq _ ((if_neg (by simp [hl])).trans rfl)

end

end

end Sys2Proof.Laws

namespace Sys2Proof.Proofs
open Sys2Proof.Machine Sys2Proof.Laws

/-- Settles O40: each command by its condition; a whole write of GRANT leaves nothing of what stood there (`Sys2Proof.Laws.grantWrite_i3c`). -/
theorem thermalAndBellowsRun : Obligations.ThermalAndBellowsRun := by
  intro s t
  exact ⟨fun readings ok => execSensorRead_takes, fun die p => execComparatorTrip_alarms, fun p powers => execLayerEstimate_present,
    fun uj => execGrantWrite_i3c, fun uj => execGrantWrite_host, fun uj hl => execLedgerMeter_meters hl,
    fun measured values hl => execBellowsWindowEnd_ends hl, execThermalStop_acts⟩

end Sys2Proof.Proofs
end

section
/-! SUPPORT. Resets, reset inputs, the clock and the rails (R480, R532 to R540, R572 to R583): what each command does where it is let through. -/

namespace Sys2Proof.Laws

open Sys2Proof.Machine

section
variable {s : State} {c : Chip}

/-! ### Warm resets (R480, R534, R575) -/

/-- After the first seal, a warm reset of a module that stands neither in reset nor in a thermal stop goes on to the warm bring-up. -/
theorem warmReset_sealedOnce (hr : c.inReset = false) (hth : c.thermStopped = false) (he : c.sys.bring.everSealed = true) :
    c.warmReset = (c.warmEnter.wrF Reg.bringStatus 26 2 2).warmGo := by
  simp only [Chip.warmReset, hr, hth, he, Bool.or_self, Bool.not_true, Bool.false_eq_true, if_false]

/-- The module c with the level of WARMRST_N. -/
def warmPin (c : Chip) (held : Bool) : Chip := { c with sys := { c.sys with pins := { c.sys.pins with warmHeld := held } } }

theorem execWarmrstN_resets (hr : s.chip.inReset = false) (hth : s.chip.thermStopped = false) (he : s.chip.sys.bring.everSealed = true) :
    execWarmrstN s = .next { s with chip := ((warmPin s.chip true).warmEnter.wrF Reg.bringStatus 26 2 2).warmGo } :=
  onChip_eq _ ((if_neg (by simp [hr])).trans (warmReset_sealedOnce (c := warmPin s.chip true) hr hth he))

/-- The release of WARMRST_N lets the warm bring-up that waits begin. -/
theorem execResetInputRelease_warm (hw : s.chip.sys.pins.warmHeld = true) (he : s.chip.sys.bring.everSealed = true) (hl : s.chip.isSealed = false)
    (hth : s.chip.thermStopped = false) : execResetInputRelease false s = .next { s with chip := (warmPin s.chip false).warmGo } := by
  have hl' : (warmPin s.chip false).isSealed = false := hl
  have hth' : (warmPin s.chip false).thermStopped = false := hth
  refine onChip_eq _ ((if_neg Bool.false_ne_true).trans (if_pos ?_))
  change (s.chip.sys.pins.warmHeld && s.chip.sys.bring.everSealed && !(warmPin s.chip false).isSealed && !(warmPin s.chip false).thermStopped) = true
  rw [hw, he, hl', hth']
  rfl

/-- The module c as its thermal stop ends, the warm bring-up yet to begin. -/
def thermalOver (c : Chip) : Chip :=
  let d := (c.wrF Reg.thermStat 0 1 0).onPins fun p => { p with thermTrip := false }
  Chip.wrF { d with sys := { d.sys with bring := { d.sys.bring with hot := true } } } Reg.bringStatus 26 2 3

theorem thermResume_resumes (hth : c.thermStopped = true) (hr : c.inReset = false) (hot : c.tooHot = false) (he : c.sys.bring.everSealed = true) :
    c.thermResume = (thermalOver c).warmGo := by
  simp only [Chip.thermResume, hth, hr, hot, he, Bool.not_true, Bool.or_self, Bool.false_eq_true, if_false]
  rfl

/-! ### BRING.RESET (R532, R534, R535, R538) -/

section
variable (hr : c.inReset = false)
include hr

theorem bringReset_cold {k : Nat} : c.bringReset 1 k = c.coldReset := if_neg (by simp [hr])

theorem bringReset_warm {k : Nat} : c.bringReset 2 k = c.warmReset := if_neg (by simp [hr])

/-- The module c in which tower k's reset is due. -/
def towerDue (c : Chip) (k : Nat) : Chip :=
  { c with sys := { c.sys with ha := { c.sys.ha with
      towerDue := if c.sys.ha.towerDue.contains k then c.sys.ha.towerDue else c.sys.ha.towerDue ++ [k] } } }

/-- The reset of another tower than TOWER[0] is recorded, and asks for a changeover where none moves. -/
theorem bringReset_tower {k : Nat} (hl : c.isSealed = true) (ht : c.hasTower k = true) (h0 : k ≠ 0) :
    c.bringReset 3 k = if (towerDue c k).epochState = 3 then towerDue c k else (towerDue c k).onUsh fun u => { u with cause := true } := by
  refine (if_neg (by simp [hr])).trans ?_
  exact (if_neg (by simp [hl, ht])).trans (if_neg h0)

theorem bringReset_takeover {k : Nat} (hl : c.isSealed = true) :
    c.bringReset 4 k = { c with sys := { c.sys with ha := { c.sys.ha with takeover := true } } } :=
  (if_neg (by simp [hr])).trans (if_pos hl)

end

section
variable (hr : s.chip.inReset = false)
include hr

theorem execBringResetCold_keyed : execBringResetCold 0x5253 s = .next { s with chip := s.chip.coldReset } :=
  onChip_eq _ ((if_pos rfl).trans (bringReset_cold hr))

theorem execBringResetWarm_keyed : execBringResetWarm 0x5253 s = .next { s with chip := s.chip.warmReset } :=
  onChip_eq _ ((if_pos rfl).trans (bringReset_warm hr))

theorem execBringResetTower_keyed {t : Fin 4} (hl : s.chip.isSealed = true) (ht : s.chip.hasTower t.val = true) (h0 : t.val ≠ 0) :
    execBringResetTower 0x5253 t s = .next { s with chip :=
      (if (towerDue s.chip t.val).epochState = 3 then towerDue s.chip t.val else (towerDue s.chip t.val).onUsh fun u => { u with cause := true }) } :=
  onChip_eq _ ((if_pos rfl).trans (bringReset_tower hr hl ht h0))

theorem execBringResetTakeover_keyed (hl : s.chip.isSealed = true) :
    execBringResetTakeover 0x5253 s = .next { s with chip :=
      { s.chip with sys := { s.chip.sys with ha := { s.chip.sys.ha with takeover := true } } } } :=
  onChip_eq _ ((if_pos rfl).trans (bringReset_takeover hr hl))

end

/-! ### Rails (R582, R583) -/

section
variable {r : Fin 5}

/-- The module c with rail r's power-good up. -/
def railGood (c : Chip) (r : Nat) : Chip := c.onPins fun p => { p with pg := p.pg ||| 2 ^ r }

theorem execPowerGoodRise_notes (hen : bitOf s.chip.sys.pins.en r.val = true) (hst : s.chip.stepIs 2 1 = false) :
    execPowerGoodRise r s = .next { s with chip := railGood s.chip r.val } := by
  have hst' : (railGood s.chip r.val).stepIs 2 1 = false := hst
  refine onChip_eq _ ((if_neg (by simp [hen])).trans (if_neg ?_))
  change ¬((railGood s.chip r.val).stepIs 2 1 && _ && _ && _) = true
  rw [hst']
  simp

/-- In step 2 the rail that becomes good lets the next enable go out 200 us after. -/
theorem execPowerGoodRise_enables (hen : bitOf s.chip.sys.pins.en r.val = true) (hst : s.chip.stepIs 2 1 = true)
    (hlast : s.chip.sys.pins.en = 2 ^ (r.val + 1) - 1) (h4 : r.val ≠ 4) (hpg : bitOf s.chip.sys.pins.pg r.val = false) :
    execPowerGoodRise r s = .next { s with chip :=
      (let d := (railGood s.chip r.val).onPins fun p => { p with en := 2 ^ (r.val + 2) - 1 }
       { d with sys := { d.sys with bring := { d.sys.bring with enAt := d.now + 200000 } } }) } := by
  have hst' : (railGood s.chip r.val).stepIs 2 1 = true := hst
  refine onChip_eq _ ((if_neg (by simp [hen])).trans (if_pos ?_))
  change ((railGood s.chip r.val).stepIs 2 1 && s.chip.sys.pins.en == 2 ^ (r.val + 1) - 1 && r.val != 4 && !bitOf s.chip.sys.pins.pg r.val) = true
  rw [hst', hpg, bne_iff_ne.mpr h4, beq_iff_eq.mpr hlast]
  rfl

/-- A rail that fails after bring-up starts a cold reset. -/
theorem execPgFail_resets (hpg : bitOf s.chip.sys.pins.pg r.val = true) (hst : s.chip.stepIs 2 1 = false) :
    execPgFail (some r) s = .next { s with chip := (s.chip.onPins fun p => { p with pg := p.pg - 2 ^ r.val }).coldReset } := by
  have hst' : (s.chip.onPins fun p => { p with pg := p.pg - 2 ^ r.val }).stepIs 2 1 = false := hst
  refine onChip_eq _ ((if_neg (by simp [hpg])).trans (if_neg ?_))
  rw [hst']
  simp

end

/-- The time base starts at 0 as its PLL locks (R572). -/
theorem execPllLock_starts (h : s.chip.pllLocked = false) : execPllLock s = .next { s with chip := { s.chip with pllLocked := true, now := 0 } } :=
  onChip_eq _ (if_neg (by simp [h]))

/-! ### The warm seal (R531) -/

/-- The module c at step 7 of a warm bring-up: its stale lists scrubbed, its sessions recovered and a thermal stop told. -/
def warmSealed (c : Chip) : Chip :=
  let d := (c.staleScrub c.vaultKeys).recover
  if d.sys.bring.hot then (d.notice 0x0404 2 (openUnit 0x0404 0) (openDetail 0x0404 0)).onBring fun b => { b with hot := false } else d

theorem execWarmSeal_seals (hw : s.chip.bWarm = true) (hm : s.chip.stepMay 7 = true) (hk : (s.chip.stepBegin 7 []).keptOk = true) :
    execWarmSeal s = .next { s with chip := ((warmSealed (s.chip.stepBegin 7 [])).journalReset 1).stepWell } :=
  onChip_eq _ ((if_neg (by simp [hw, hm])).trans (if_neg (by simp [hk])))

end

end Sys2Proof.Laws

namespace Sys2Proof.Proofs
open Sys2Proof.Machine Sys2Proof.Laws

/-- Settles O44: each reset where its cause is let through; power-on and a cold reset are so always. -/
theorem resetsRun : Obligations.ResetsRun := by
  refine fun s => ⟨fun board => rfl, rfl, rfl, fun hr hth he => onChip_eq _ (warmReset_sealedOnce hr hth he), execWarmrstN_resets,
    execBringResetCold_keyed, execBringResetWarm_keyed, ?tower, execBringResetTakeover_keyed, rfl, execResetInputRelease_warm,
    fun hl => onChip_eq _ (if_pos hl), execPllLock_starts, fun r => execPowerGoodRise_notes, fun r => execPowerGoodRise_enables,
    fun r => execPgFail_resets, rfl, execWarmSeal_seals, fun hth hr hot he => onChip_eq _ (thermResume_resumes hth hr hot he)⟩
  case tower =>
    rintro t d hr hl ht h0 rfl
    exact execBringResetTower_keyed hr hl ht h0

end Sys2Proof.Proofs
end

section
/-! SUPPORT. The bring-up steps (R516 to R531): how a step starts and ends, and what step 6 does with its receivers. -/

namespace Sys2Proof.Laws

open Sys2Proof.Machine

section
variable {s : State}

/-! ### A step starts (R516 to R528) -/

/-- A step that may start starts with the failures that it will meet, and does its work where it meets none. -/
theorem onStep_begins {n : Nat} {fails : Chip → List StepFail} {work : Chip → Chip} {fs : List StepFail} (hm : s.chip.stepMay n = true)
    (hf : fs = fails s.chip) :
    s.onStep n fails work = .next { s with chip := if fs = [] then work (s.chip.stepBegin n []) else s.chip.stepBegin n fs } := by
  subst hf
  refine onChip_eq _ ((if_neg (by simp [hm])).trans ?_)
  cases fails s.chip <;> rfl

section
variable {fs : List StepFail}

theorem execBringStepFuses_begins {f g : Fuses} {high : Option (Fin 5)} {unread mismatch : List (Fin 4)} {measured : List (GalId × Half × Half × Fin 18)}
    (hm : s.chip.stepMay 1 = true) (hg : g = s.chip.fuses.getD f) (hf : fs = s.chip.fuseFails g high unread mismatch measured) :
    execBringStepFuses f high unread mismatch measured s = .next { s with chip :=
      (if fs = [] then (s.chip.stepBegin 1 []).fuseWork g ((s.chip.stepBegin 1 []).railHigh high) measured else s.chip.stepBegin 1 fs) } := by
  subst hg
  exact onStep_begins (fails := fun c => c.fuseFails (s.chip.fuses.getD f) high unread mismatch measured)
    (work := fun c => c.fuseWork (s.chip.fuses.getD f) (c.railHigh high) measured) hm hf

theorem execBringStepTrain_begins {lanes : List (LanePath × Fin 4608)} {uncal : List (Fin 4 × Fin 104)} {bridges : List (Fin 4)}
    {codes : List (Fin 4 × Fin 104 × Fin 16 × Byte)} {links : List (Fin 5)} (hm : s.chip.stepMay 3 = true)
    (hf : fs = s.chip.trainFails lanes uncal bridges) :
    execBringStepTrain lanes uncal bridges codes links s = .next { s with chip :=
      (if fs = [] then (s.chip.stepBegin 3 []).trainWork lanes bridges codes links else s.chip.stepBegin 3 fs) } :=
  onStep_begins hm hf

theorem execBringStepSelftest_begins {lines : List TestFault} {badCode : List (Fin 4 × Fin 104)} {rtabA rtabB : List Nat} (hm : s.chip.stepMay 4 = true)
    (hf : fs = s.chip.selftestFails lines badCode) :
    execBringStepSelftest lines badCode rtabA rtabB s = .next { s with chip :=
      (if fs = [] then (s.chip.stepBegin 4 []).selftestWork lines rtabA rtabB else s.chip.stepBegin 4 fs) } :=
  onStep_begins hm hf

end

/-- The module c in step 2 of a cold bring-up: the towers that it has and whose corridor is weak fail it, and EN_VBASE goes out. -/
def railsStarted (c : Chip) (weak : List (Fin 4)) : Chip :=
  let d := c.onBring fun b => { b with fails := (weak.filter fun t => c.hasTower t.val).map fun t => stepFail t.val 6 none none, enAt := c.now }
  d.onPins fun p => { p with en := 1, pg := 0 }

theorem execBringStepRails_cold {weak : List (Fin 4)} (hm : s.chip.stepMay 2 = true) (hw : (s.chip.stepBegin 2 []).bWarm = false) :
    execBringStepRails weak s = .next { s with chip := railsStarted (s.chip.stepBegin 2 []) weak } := by
  have hw' : ∀ f, ((s.chip.stepBegin 2 []).onBring f).bWarm = false := fun _ => hw
  refine (onStep_starts s 2 _ _ hm rfl).trans ?_
  simp only [hw', Bool.false_eq_true, if_false]
  rfl

theorem execBringStepImage_begins {flash : Option (List Byte × List Byte)} {layout : Layout} {chosen : List (Nat × DWord)} {fs : List StepFail}
    (hok : layout.ok s.chip.part = true) (hm : s.chip.stepMay 5 = true) (hf : fs = s.chip.imageFails flash) :
    execBringStepImage flash layout chosen s = .next { s with chip :=
      (if fs = [] then (s.chip.stepBegin 5 []).imageWork flash layout chosen else s.chip.stepBegin 5 fs) } :=
  (if_pos hok).trans (onStep_begins hm hf)

theorem execBringStepBroadcast_starts {late : List Receiver} {weak : List GalId} (hm : s.chip.stepMay 6 = true) :
    execBringStepBroadcast late weak true s = .next { s with chip := (s.chip.stepBegin 6 []).castWork late weak } :=
  onStep_starts s 6 _ _ hm rfl

/-- The module c in step 7: the cloakroom as new, and the journal from entry 1 on. -/
def sealStarted (c : Chip) : Chip :=
  let d := (c.cloakInit.critWrite 0x10 1).wrF Reg.jhead 0 48 1
  (d.critWrite 0x18 1).wrF Reg.jtail 0 48 1

theorem execBringStepSeal_cold (hm : s.chip.stepMay 7 = true) (hw : s.chip.bWarm = false) :
    execBringStepSeal s = .next { s with chip := sealStarted (s.chip.stepBegin 7 []) } :=
  onChip_eq _ (if_neg (by simp [hm, hw]))

theorem execBringStepInvalid_errs {n : Fin 8} (hn : s.chip.stepMay n.val = false ∨ s.chip.bWarm = true) (hr : s.chip.inReset = false)
    (hs : s.chip.stopped = false) : execBringStepInvalid n s = .next { s with chip := s.chip.wrF Reg.bringStatus 7 1 1 } := by
  refine onChip_eq _ ((if_neg ?_).trans (if_neg (by simp [hr, hs])))
  rcases hn with h | h <;> simp [h]

/-! ### A step ends (R516, R517) -/

theorem execBringStepDone_ends {fs : List StepFail} (hst : s.chip.bState = 1) (hr : s.chip.inReset = false) (hs : s.chip.stopped = false)
    (hf : s.chip.stepEnds = some fs) : execBringStepDone s = .next { s with chip := if fs = [] then s.chip.stepWell else s.chip.stepIll fs } := by
  refine onChip_eq _ ((if_neg (by simp [hst, hr, hs])).trans ?_)
  cases fs <;> simp only [hf, if_true, reduceCtorEq, if_false]

/-! ### The broadcast (R528 to R530) -/

section
variable (hb : s.chip.broadcasting = true)
include hb

/-- The bytes of chunk k of a section, by their place in it. -/
def chunkBytes (sect : List Byte) (k : Nat) : List (Nat × Byte) := (imB sect (4096 * k) 4096).zipIdx.map fun x => (4096 * k + x.2, x.1)

/-- A chunk of a receiver that is open lands where its section goes, and is marked as held. -/
theorem execChunkReceive_takes {who : Receiver} {k : Nat} (hopen : (s.chip.sys.bring.recv.any fun r => r.who == who && !r.closed && !r.fenced) = true)
    (hk : k < chunks (s.chip.sectFor who)) :
    execChunkReceive who k false false false [] s = .next { s with chip :=
      (let bytes := chunkBytes (s.chip.sectFor who) k
       (bytes.foldl (fun c x => Chip.sectPut c who x.1 x.2) s.chip).onRecv who fun r =>
         { r with data := bytes.foldl (fun m x => Memory.setByte m x.1 x.2) r.data, writeBad := r.writeBad, held := if r.held.contains k then r.held else r.held ++ [k] }) } := by
  refine onChip_eq _ ((if_neg (by rw [hb, hopen]; simp [hk])).trans ?_)
  simp only [Bool.or_false]
  rfl

section
variable {who : Receiver} {pass : Bool} {r : RecvState} (hr : (s.chip.sys.bring.recv.find? fun r => r.who == who && !r.closed && !r.fenced) = some r)
include hr

/-- A receiver that lacks a chunk stays open as it answers. -/
theorem execChunkEndReceive_lacks (hfull : ((List.range (chunks (s.chip.sectFor who))).all r.held.contains) = false) :
    execChunkEndReceive who pass s = .next { s with chip := s.chip.onRecv who fun r => { r with answered := true } } := by
  refine onChip_eq _ ?_
  simp only [hr, hb, hfull, Bool.not_true, Bool.false_and, Bool.false_eq_true, if_false]

/-- A receiver that is no gallery and has its whole section is closed. -/
theorem execChunkEndReceive_closes (hwho : ∀ k, who ≠ .gallery k) (hfull : ((List.range (chunks (s.chip.sectFor who))).all r.held.contains) = true)
    (hsha : (sha384 (Memory.bytes r.data 0 (s.chip.sectFor who).length) == sha384 (s.chip.sectFor who)) = true) :
    execChunkEndReceive who pass s = .next { s with chip :=
      (s.chip.onRecv who fun r => { r with answered := true, closed := true, okAt := s.chip.now + 1 }) } := by
  refine onChip_eq _ ?_
  simp only [hr, hb, hfull, hsha, Bool.not_true, Bool.and_self, Bool.false_eq_true, if_true, if_false]

end

/-- The module c in the next round, in which a receiver still open that gave no answer, or has every chunk, is asked for all. -/
def nextRound (c : Chip) : Chip :=
  c.onBring fun b => { b with
    round := b.round + 1
    endAt := c.now
    recv := b.recv.map fun r => if (r.closed || r.fenced) = true then r
      else { r with answered := false, asked := !r.answered || (List.range (chunks (c.sectFor r.who))).all r.held.contains } }

theorem execBroadcastRoundEnd_ends {open_ : List RecvState} (ho : open_ = s.chip.sys.bring.recv.filter fun r => !r.closed && !r.fenced) (hne : open_ ≠ [])
    (hend : (open_.all (·.answered) || decide (s.chip.sys.bring.endAt.toNat + 10000000 ≤ s.chip.now.toNat)) = true) :
    execBroadcastRoundEnd s = .next { s with chip := if s.chip.sys.bring.round < 3 then nextRound s.chip else open_.foldl Chip.recvFence s.chip } := by
  subst ho
  refine onChip_eq _ ((if_neg ?_).trans rfl)
  rw [hb, hend, List.isEmpty_eq_false_iff.mpr hne]
  decide

/-- A runtime without its pass word 5 ms after its digest matched is fenced. -/
theorem execRuntimeTestTimeout_fences {g : GalId} {r : RecvState}
    (hr : (s.chip.sys.bring.recv.find? fun r => r.who == .gallery (galKey g) && r.closed && !r.fenced) = some r) (hp : s.chip.hasPassed (galKey g) = false)
    (hdue : r.okAt.toNat - 1 + 5000000 ≤ s.chip.now.toNat) : execRuntimeTestTimeout g s = .next { s with chip := s.chip.recvFence r } := by
  refine onChip_eq _ ?_
  simp only [hr]
  exact if_neg (by simp [hb, hp, not_lt.mpr hdue])

end

end

end Sys2Proof.Laws

namespace Sys2Proof.Proofs
open Sys2Proof.Machine Sys2Proof.Laws

/-- Settles O43: each step as it may start or end, and step 6 by the receivers that are open. -/
theorem bringUpStepsRun : Obligations.BringUpStepsRun := by
  intro s
  refine ⟨fun f high unread mismatch measured g fs => execBringStepFuses_begins,
    fun weak hm _ hw => execBringStepRails_cold hm hw, fun lanes uncal bridges codes links fs => execBringStepTrain_begins,
    fun lines badCode rtabA rtabB fs => execBringStepSelftest_begins, fun flash layout chosen fs => execBringStepImage_begins,
    fun late weak => execBringStepBroadcast_starts, execBringStepSeal_cold, execBringStepDone_ends, fun f fs => execBringStepDone_ends,
    fun n => execBringStepInvalid_errs, fun who k hb => execChunkReceive_takes hb, fun who pass r hr hb => execChunkEndReceive_lacks hb hr, ?chanter,
    fun open_ hb => execBroadcastRoundEnd_ends hb, fun g r hr hb => execRuntimeTestTimeout_fences hb hr⟩
  case chanter =>
    intro k i pass r hr hb
    exact execChunkEndReceive_closes hb (pass := pass) hr nofun

end Sys2Proof.Proofs
end

section
/-! SUPPORT. The Whistle, watches and fatal errors (R541 to R546, R554 to R559): what each command does where its condition holds. -/

namespace Sys2Proof.Laws

open Sys2Proof.Machine

section
variable {s : State} {c : Chip}

/-! ### The Whistle is asked for (R541, R548, R575) -/

/-- A request on a module that runs, with no bring-up step, adds its bit to what is asked. -/
theorem askWhistle_stands {i : Nat} (hr : c.inReset = false) (hs : c.stopped = false) (hb : c.rdF Reg.bringStatus 3 2 ≠ 1) :
    c.askWhistle i = { c with dbg := { c.dbg with whistleReq := c.dbg.whistleReq ||| BitVec.ofNat 8 (2 ^ i) } } := by
  simp only [Chip.askWhistle, Chip.requestWhistle, hr, hs, if_neg hb, Bool.false_eq_true, if_false]

/-- One on a module that stands stopped adds its bit to CAUSE. -/
theorem askWhistle_stopped {i : Nat} (hr : c.inReset = false) (hs : c.stopped = true) :
    c.askWhistle i = c.wrF Reg.wstat 2 8 (c.rdF Reg.wstat 2 8 ||| 2 ^ i) := by
  simp only [Chip.askWhistle, Chip.requestWhistle, hr, hs, Bool.false_eq_true, if_false, if_true]

section
variable (hr : s.chip.inReset = false) (hs : s.chip.stopped = false) (hb : s.chip.rdF Reg.bringStatus 3 2 ≠ 1)
include hr hs hb

theorem execWhistleReq_asks :
    execWhistleReq s = .next { s with chip := { s.chip with dbg := { s.chip.dbg with whistleReq := s.chip.dbg.whistleReq ||| 1 } } } :=
  onChip_eq _ (askWhistle_stands hr hs hb)

theorem execWhistleN_asks :
    execWhistleN s = .next { s with chip := { s.chip with dbg := { s.chip.dbg with whistleReq := s.chip.dbg.whistleReq ||| 4 } } } :=
  onChip_eq _ (askWhistle_stands hr hs hb)

end

section
variable (hr : s.chip.inReset = false) (ht : s.chip.sys.pins.trst = true)
include hr ht

theorem execJtagWhistle_stopped (hs : s.chip.stopped = true) :
    execJtagWhistle s = .next { s with chip := (s.chip.tap 0x20).wrF Reg.wstat 2 8 ((s.chip.tap 0x20).rdF Reg.wstat 2 8 ||| 2) } :=
  (onJtag_runs s 0x20 _ hr ht).trans (by rw [askWhistle_stopped (c := s.chip.tap 0x20) hr hs]; rfl)

theorem execJtagWhistle_asks (hs : s.chip.stopped = false) (hb : s.chip.rdF Reg.bringStatus 3 2 ≠ 1) :
    execJtagWhistle s = .next { s with chip :=
      { (s.chip.tap 0x20) with dbg := { (s.chip.tap 0x20).dbg with whistleReq := s.chip.dbg.whistleReq ||| 2 } } } :=
  (onJtag_runs s 0x20 _ hr ht).trans (by rw [askWhistle_stands (c := s.chip.tap 0x20) hr hs hb]; rfl)

theorem execJtagResume_ends : execJtagResume s = .next { s with chip := Chip.whistleEnd (s.chip.tap 0x21) } := onJtag_runs s 0x21 _ hr ht

end

/-! ### The stop and its end (R542, R546) -/

theorem execWhistle_stops {mx : List MxStand} (hw : s.chip.dbg.whistleReq ≠ 0) (hs : s.chip.stopped = false) (hr : s.chip.inReset = false)
    (hth : s.chip.thermStopped = false) (hb : s.chip.rdF Reg.bringStatus 3 2 ≠ 1) :
    execWhistle mx s = .next { s with chip := s.chip.whistleStop s.chip.dbg.whistleReq.toNat mx } :=
  onChip_eq _ (if_neg (by simpa [hs, hr, hth, hb] using hw))

/-- The module d, its arrays running again after a stop for a cause, with the event of the resume and a hold that a watch kept released. -/
def resumed (d : Chip) (cause : Nat) : Chip :=
  let e := ((d.gals.filter fun e => e.2.mx.stopped && e.2.mx.cause == 2).foldl (fun c e => Chip.onGal c e.1 fun g => g.mxGo c.act) d).whistleEvent false cause
  if e.dbg.whistleHold then e.watchRelease else e

/-- A module that stands stopped, not for a fatal error, runs again: what rings kept is posted, and its links start. -/
theorem whistleEnd_runs (hs : c.stopped = true) (hf : c.bit Reg.wstat 6 = false) :
    c.whistleEnd =
      (let f := resumed (c.wrF Reg.wstat 0 1 0) (c.rdF Reg.wstat 2 8)
       let g := (List.range 256).foldl (fun c q => c.postKept q (c.cq q).kept.length) f
       ((List.range 5).foldl (fun c l => if c.part.hasLink l then Chip.pump c l else c) g).settle) :=
  if_neg (by simp [hs, hf])

/-! ### Tensor watches (R555, R556) -/

/-- The module d in which watch i has been served: its count goes down where its dump was written, the last one ends it, and one with WHISTLE asks for the
Whistle and keeps the hold. -/
def watchServed (d : Chip) (i : Nat) (ok : Bool) : Chip :=
  let e : Chip := { d with dbg := { d.dbg with watched := d.dbg.watched ++ [i] } }
  let f := if ok = false then e
    else
      let left := e.rdF (Reg.tw i 0) 32 16 - 1
      let c := e.wrF (Reg.tw i 0) 32 16 left
      if left = 0 then c.wrF (Reg.tw i 0) 0 1 0 else c
  if ok && f.bit (Reg.tw i 0) 5 then Chip.requestWhistle { f with dbg := { f.dbg with whistleHold := true } } 5 else f

section
variable {i : Fin 64} {n : Nat} (hu : s.chip.usherRuns = true) (hn : s.chip.stepOf (s.chip.watchGals i.val) = some n)
  (hfire : s.chip.watchFires i.val n = true) (hnew : s.chip.dbg.watched.contains i.val = false)
include hu hn hfire hnew

/-- A watch that fires holds its galleries first. -/
theorem execWatchCapture_holds (he : s.chip.epochState = 1) (hh : ((s.chip.watchGals i.val).all fun k => (s.chip.gal k).standsHeld) = false) :
    execWatchCapture i s = .next { s with chip := (s.chip.watchGals i.val).foldl Chip.holdGal s.chip } := by
  refine onUsher_eq _ hu ?_
  simp only [hn, hfire, hnew, he, hh, beq_self_eq_true, Bool.true_or, Bool.not_true, Bool.not_false, Bool.or_self, Bool.false_eq_true, if_false, if_true]

/-- Once they stand held, its data goes into the dump ring. -/
theorem execWatchCapture_dumps {d c1 : Chip} {data : List Byte} {ok : Bool} (he : s.chip.epochState = 1 ∨ s.chip.epochState = 2)
    (hh : ((s.chip.watchGals i.val).all fun k => (s.chip.gal k).standsHeld) = true) (hdata : s.chip.watchData i.val = (c1, data))
    (hdump : c1.dump i.val n data = (d, ok)) :
    execWatchCapture i s = .next { s with chip :=
      (let g := watchServed d i.val ok
       if g.epochState ≠ 1 || g.dbg.whistleHold || g.watchLeft n then g else g.watchRelease) } := by
  have hphase : (s.chip.epochState == 1 || s.chip.epochState == 2) = true := by simpa using he
  refine onUsher_eq _ hu ?_
  simp only [hn, hfire, hnew, hphase, hh, hdata, hdump, Bool.not_true, Bool.or_self, Bool.false_eq_true, if_false, watchServed, Bool.not_eq_true']

end

/-! ### Fatal errors and the annex (R558, R559) -/

/-- The module d, stopped, with the annex made or extended where it has a place. -/
def annexed (d : Chip) (source : Nat) (cause : List Byte) : Chip :=
  if d.rd Reg.anxbase = 0 then d else if d.bit Reg.anxctl 1 then d.annexMore cause else d.annexMake (source != 2) cause

theorem execFatalError_resets {code : Half} {t : Fin 4} {source : Fin 3} {unit : Word} {detail : DWord} (hu : s.chip.usherRuns = true) :
    execFatalError code t source unit detail s = .next { s with chip :=
      (let d := s.chip.whistleStop (s.chip.dbg.whistleReq.toNat ||| 0x10) []
       (annexed d source.val (causeRecord d.now code t.val source.val unit detail)).warmReset) } :=
  onUsher_eq _ hu rfl

theorem annexClear_clears (hr : c.inReset = false) (ha : c.bit Reg.anxctl 1 = true) :
    c.annexClear = (c.memWriteNum (c.rd Reg.anxbase + 6) 2 (setField (c.memNum (c.rd Reg.anxbase + 6) 2) 0 1 0)).wrF Reg.anxctl 1 1 0 :=
  if_neg (by simp [hr, ha])

/-! ### Range counters (R554) -/

theorem execRngctlClr_clears {g : GalId} (hr : s.chip.inReset = false) (hth : s.chip.thermStopped = false) (ht : s.chip.hasTower g.tower.val = true)
    (hs : s.chip.stopped = false) (hd : (s.chip.gal (galKey g)).dom = .up) (hf : s.chip.fenced (galKey g) = false) :
    execRngctlClr g s = .next { s with chip := (s.chip.scanRaise (galKey g)).onGal (galKey g) fun x => { x with rng := [] } } :=
  onChip_eq _ ((if_neg (by simp [hr, hth, ht])).trans ((if_neg (by simp [hs])).trans (if_neg (by simp [hd, hf]))))

end

end Sys2Proof.Laws

namespace Sys2Proof.Proofs
open Sys2Proof.Machine Sys2Proof.Laws

/-- Settles O46: each request, stop and resume where it is let through, a watch by whether its galleries stand held. -/
theorem whistleStopsAndResumes : Obligations.WhistleStopsAndResumes := by
  refine fun s => ⟨execWhistleReq_asks, execWhistleN_asks,
    execJtagWhistle_stopped, ?asks, fun mx => execWhistle_stops, fun hs hf => onChip_eq _ (whistleEnd_runs hs hf), execJtagResume_ends,
    fun i n => execWatchCapture_holds, fun i n d c1 data ok hu hn hf hw => execWatchCapture_dumps hu hn hf hw, fun code t source unit detail => execFatalError_resets,
    fun hr ha => onChip_eq _ (annexClear_clears hr ha), fun g => execRngctlClr_clears⟩
  case asks =>
    rintro d hr ht hs hb rfl
    exact execJtagWhistle_asks hr ht hs hb

end Sys2Proof.Proofs
end

section
/-! SUPPORT. The time base goes on through every operation that a warm reset, the Whistle and its resume go through, in the order of the
model's files: the count and the lock of its PLL stand as they were. An operation that answers a module and more leaves them in its part that
is a module, one that may answer nothing in whatever it answers. -/

namespace Sys2Proof.Laws

open Sys2Proof.Machine

/-- The module's time base stands at τ: its count, and whether its PLL is locked. -/
def ClockAt (τ : DWord × Bool) (c : Chip) : Prop := (c.now, c.pllLocked) = τ

namespace ClockAt

section
variable {τ : DWord × Bool}

/-! ### Choices, folds, and answers that hold more than a module -/

theorem memStep {c d : Chip} (h : ClockAt τ c) (hs : MemStep c d) : ClockAt τ d := by
  obtain ⟨⟨_, _, _, _, rfl⟩, _⟩ := hs
  exact h

/-- An update of other fields. -/
theorem mk {part now pllLocked free regs fuses latch gals flight rsigs flows reports dram mem chc opSeq hostMem host sys ush lk dbg} (h : (now, pllLocked) = τ) :
    ClockAt τ
      ⟨part, now, pllLocked, free, regs, fuses, latch, gals, flight, rsigs, flows, reports, dram, mem, chc, opSeq, hostMem, host, sys, ush, lk, dbg⟩ := h

theorem ite {p : Prop} [Decidable p] {a b : Chip} (ha : ClockAt τ a) (hb : ClockAt τ b) : ClockAt τ (if p then a else b) := by
  split <;> assumption

theorem of_fst {α : Type} {p : Chip × α} {c : Chip} {x : α} (h : ClockAt τ p.1) (e : p = (c, x)) : ClockAt τ c := by rw [e] at h; exact h

theorem foldl {α : Type} {f : Chip → α → Chip} {c : Chip} {l : List α} (h : ClockAt τ c) (hf : ∀ c x, ClockAt τ c → ClockAt τ (f c x)) : ClockAt τ (l.foldl f c) := by
  induction l generalizing c with
  | nil => exact h
  | cons x l ih => exact ih (hf c x h)

/-- A fold that may fail. -/
theorem foldl_opt {α : Type} {f : Option Chip → α → Option Chip} {o : Option Chip} {l : List α} (h : ∀ c ∈ o, ClockAt τ c)
    (hf : ∀ o x, (∀ c ∈ o, ClockAt τ c) → ∀ c ∈ f o x, ClockAt τ c) : ∀ c ∈ l.foldl f o, ClockAt τ c := by
  induction l generalizing o with
  | nil => exact h
  | cons x l ih => exact ih (hf o x h)

/-- The same, where the fold carries more than the module. -/
theorem foldl_opt_fst {α β : Type} {f : Option (Chip × β) → α → Option (Chip × β)} {o : Option (Chip × β)} {l : List α}
    (h : ∀ p ∈ o, ClockAt τ p.1) (hf : ∀ o x, (∀ p ∈ o, ClockAt τ p.1) → ∀ p ∈ f o x, ClockAt τ p.1) : ∀ p ∈ l.foldl f o, ClockAt τ p.1 := by
  induction l generalizing o with
  | nil => exact h
  | cons x l ih => exact ih (hf o x h)

theorem eventOnly {c d : Chip} (h : ClockAt τ c) (hs : EventOnly c d) : ClockAt τ d := by
  obtain ⟨_, _, rfl⟩ := hs
  exact h

theorem tried_ite {p : Prop} [Decidable p] {a b : Tried} (ha : ClockAt τ (triedChip a)) (hb : ClockAt τ (triedChip b)) :
    ClockAt τ (triedChip (if p then a else b)) := by
  split <;> assumption

theorem tried_done {c : Chip} (h : ClockAt τ c) : ClockAt τ (triedChip (.done c)) := h

theorem tried_wait {c : Chip} (h : ClockAt τ c) : ClockAt τ (triedChip (.wait c)) := h

section
variable {c : Chip} (h : ClockAt τ c)
include h

/-! ### Operations on the state -/

theorem wr {off v} : ClockAt τ (c.wr off v) := h.memStep (wr_memStep ..)

theorem wrF {off lo len v} : ClockAt τ (c.wrF off lo len v) := h.memStep (wrF_memStep ..)

theorem bump {off lo len n} : ClockAt τ (c.bump off lo len n) := h.memStep (bump_memStep ..)

theorem setGal {k g} : ClockAt τ (c.setGal k g) := .mk h

theorem onGal {k f} : ClockAt τ (c.onGal k f) := h.setGal

theorem requestWhistle {causeBit} : ClockAt τ (c.requestWhistle causeBit) := h.eventOnly (requestWhistle_eventOnly ..)

theorem event {t unit kind range data} : ClockAt τ (c.event t unit kind range data) := h.eventOnly (event_eventOnly ..)

theorem report {m} : ClockAt τ (c.report m) := .mk h

theorem ledgerAdd {d} : ClockAt τ (c.ledgerAdd d) := .ite h.wr h

theorem closeStep {n net} : ClockAt τ (c.closeStep n net) := .mk h

theorem stepCredit {k} : ClockAt τ (c.stepCredit k) := .ite h.setGal.closeStep.ledgerAdd h

theorem stepCharge {k n} : ClockAt τ (c.stepCharge k n) := h.setGal.ledgerAdd

/-! ### Galleries -/

theorem stepRetire {k n} : ClockAt τ (c.stepRetire k n) := h.stepCredit.onGal.stepCharge.event

theorem stepResume {k} : ClockAt τ (c.stepResume k) := by
  unfold Chip.stepResume
  extract_lets g
  split
  · exact .ite h.setGal.stepRetire h
  · exact h

theorem holdRelease {k} : ClockAt τ (c.holdRelease k) := h.onGal.stepResume

/-! ### The memory path -/

theorem setWay {k w} : ClockAt τ (c.setWay k w) := h.memStep (setWay_memStep ..)

theorem dramWrite {l d poison} : ClockAt τ (c.dramWrite l d poison) := h.memStep (dramWrite_memStep ..)

theorem vaultWrite {l d poison} : ClockAt τ (c.vaultWrite l d poison) := h.memStep (vaultWrite_memStep ..)

theorem poisonLine {l} : ClockAt τ (c.poisonLine l) := by
  unfold Chip.poisonLine
  split
  · exact h.setWay.dramWrite
  · exact h.dramWrite

theorem decodeRead {l src who} : ClockAt τ (c.decodeRead l src who).1 := h.memStep (decodeRead_memStep ..)

theorem slotsTake {vk n bottom} : ClockAt τ (c.slotsTake vk n bottom) := .mk h

theorem topTakes {vk} : ClockAt τ (c.topTakes vk) := .mk h

theorem vaultTurn {vk} : ClockAt τ (c.vaultTurn vk) := h.memStep (vaultTurn_memStep ..)

theorem vaultRun {p a} : ClockAt τ (c.vaultRun p a) := by
  induction a generalizing p c with
  | zero =>
    unfold Chip.vaultRun
    exact h
  | succ n ih =>
    unfold Chip.vaultRun
    split
    · exact ih h.vaultTurn
    · exact h

theorem flushQueued {p} : ClockAt τ (c.flushQueued p) := h.vaultRun

theorem memWrite {a bs} : ClockAt τ (c.memWrite a bs) := h.memStep (memWrite_memStep ..)

theorem memWriteNum {a n v} : ClockAt τ (c.memWriteNum a n v) := h.memWrite

theorem memFetch {a n} : ClockAt τ (c.memFetch a n).1 := h.memStep (memFetch_memStep ..)

theorem memTouch {a n} : ClockAt τ (c.memTouch a n) := h.memFetch

theorem copyMem {src dst n} : ClockAt τ (c.copyMem src dst n) := .foldl h.memFetch.memWrite fun _ _ hd => hd.poisonLine

theorem makeRoom {l} : ClockAt τ (c.makeRoom l) := .ite h h.vaultTurn

theorem cleanWay {k} : ClockAt τ (c.cleanWay k) := by
  unfold Chip.cleanWay
  split
  · exact .ite h.makeRoom.vaultWrite.setWay h
  · exact h

theorem addStale {sk e} : ClockAt τ (c.addStale sk e) := .ite (.mk h) (.mk h)

theorem rawToPoison {vk} : ClockAt τ (c.rawToPoison vk) := .foldl h fun _ _ hd => hd.dramWrite

theorem drainSlice {sk} : ClockAt τ (c.drainSlice sk) := .mk h.flushQueued

theorem dropSlice {sk} : ClockAt τ (c.dropSlice sk) := .mk (foldl h fun _ _ hd => hd.setWay)

theorem selfRefreshEnter {t v limit} : ClockAt τ (c.selfRefreshEnter t v limit) := by
  unfold Chip.selfRefreshEnter
  extract_lets sk c1 dirty n c2 lost c3 c4 c5 x1
  have h1 : ClockAt τ c4 := by
    unfold c4
    refine .foldl (foldl h.drainSlice fun _ _ hd => hd.cleanWay).flushQueued.wrF fun d x2 h2 => ?_
    split
    · exact h2.addStale
    · exact h2
  clear_value c4
  exact (mk h1.rawToPoison.topTakes.wrF).dropSlice

/-! ### The journal -/

theorem critWrite {off v} : ClockAt τ (c.critWrite off v) := .foldl h fun _ _ hd => hd.memWriteNum

theorem journal {kind ticket body} : ClockAt τ (c.journal kind ticket body) :=
  .ite (ite h.memWrite.critWrite.wrF.critWrite.wrF h.memWrite.critWrite.wrF) (.mk (ite h.memWrite.critWrite.wrF.critWrite.wrF h.memWrite.critWrite.wrF))

theorem setCq {q v} : ClockAt τ (c.setCq q v) := .mk h

theorem postNow {q m} : ClockAt τ (c.postNow q m) := (mk (ite h.journal h)).wrF.setCq

theorem post {q m} : ClockAt τ (c.post q m) := .ite (.ite h.journal h) (.ite h.setCq h.postNow)

theorem postKept {q a} : ClockAt τ (c.postKept q a) := by
  induction a generalizing c q with
  | zero =>
    unfold Chip.postKept
    exact h
  | succ n ih =>
    unfold Chip.postKept
    split
    · exact h
    · exact .ite (ih h.setCq.postNow) h

/-! ### Chanters -/

theorem setCluster {k x} : ClockAt τ (c.setCluster k x) := (mk h).wr

theorem setChanter {k i x} : ClockAt τ (c.setChanter k i x) := h.setCluster

theorem onChanter {k i f} : ClockAt τ (c.onChanter k i f) := h.setChanter

theorem release {r} : ClockAt τ (c.release r) := .foldl h fun _ _ hd => .mk hd

theorem jobEvent {k i start status id} : ClockAt τ (c.jobEvent k i start status id) := h.event

theorem workEnded {k id status} : ClockAt τ (c.workEnded k id status) := .mk h

theorem jobReport {k i r status result} : ClockAt τ (c.jobReport k i r status result) := h.workEnded.report.jobEvent

theorem jobEnd {k i status result} : ClockAt τ (c.jobEnd k i status result) := by
  unfold Chip.jobEnd
  split
  · exact h
  · extract_lets c1 c2
    exact (ite (.foldl h fun _ _ hd => hd.release) h).onChanter.jobReport

theorem abortJobs {k} : ClockAt τ (c.abortJobs k) :=
  .foldl (foldl h fun _ _ hd => hd.jobEnd).setCluster fun _ _ hd => hd.jobReport

theorem opIssue {k i line kind} : ClockAt τ (c.opIssue k i line kind) := by
  unfold Chip.opIssue
  extract_lets x ok st c1
  have h1 : ClockAt τ c1 := .mk h
  clear_value x ok st c1
  split
  · exact h1.setChanter
  · exact h1.setChanter
  · exact h1.setChanter

theorem opFill {k i a} : ClockAt τ (c.opFill k i a) := by
  induction a generalizing c k i with
  | zero =>
    unfold Chip.opFill
    exact h
  | succ n ih =>
    unfold Chip.opFill
    extract_lets c1 x
    have h1 : ClockAt τ c1 := h.onChanter
    clear_value c1
    split
    · exact h1
    · exact .ite (ih h1.setChanter.opIssue) h1

theorem copiesOn {k i} : ClockAt τ (c.copiesOn k i) := h.opFill

theorem countLines {vk n wr} : ClockAt τ (c.countLines vk n wr) := h.bump

theorem bottomRead {k vk l} : ClockAt τ (c.bottomRead k vk l).1 := h.decodeRead.countLines

theorem bottomWrite {vk l d} : ClockAt τ (c.bottomWrite vk l d) := h.dramWrite.countLines

theorem bottomDo_wr {vk k i o d} : ClockAt τ (Chip.bottomDo.wr vk c k i o d) := by
  unfold Chip.bottomDo.wr
  exact (mk h.bottomWrite).onChanter

theorem bottomDo {vk e} : ClockAt τ (c.bottomDo vk e) := by
  unfold Chip.bottomDo
  split
  extract_lets c1
  have h1 : ClockAt τ c1 := h.slotsTake
  clear_value c1
  split
  · exact h1.bottomRead.onChanter
  · exact .ite h1.bottomRead.onChanter.copiesOn (.ite h1.bottomRead.onChanter h1.bottomRead.onChanter.copiesOn)
  · exact h1.bottomDo_wr
  · exact h1.bottomDo_wr

theorem readArrive {k i} : ClockAt τ (c.readArrive k i) := by
  unfold Chip.readArrive
  extract_lets x1 here
  split
  · exact h
  · extract_lets qn put x2 x3
    exact h.setChanter.copiesOn

theorem opGiveUp {k i o} : ClockAt τ (c.opGiveUp k i o) := h.onChanter.copiesOn

theorem opsComplete {k i n} : ClockAt τ (c.opsComplete k i n) := by
  induction n generalizing c with
  | zero => exact h
  | succ n ih =>
    have e : c.opsComplete k i (n + 1) = match (c.chanter k i).ops.find? fun o => o.st == .queued || o.st == .retry with
      | some o =>
        if c.chWay k o.line then Chip.opsComplete (c.bottomDo (lineHome o.line) (k, i, o)) k i n
        else Chip.opsComplete (c.opGiveUp k i o) k i n
      | none =>
        if (c.chanter k i).ops.any fun o => (match o.st with | .arrived _ _ => true | .refused => true | _ => false)
        then Chip.opsComplete (c.readArrive k i) k i n else c := rfl
    rw [e]
    split
    · exact .ite (ih h.bottomDo) (ih h.opGiveUp)
    · exact .ite (ih h.readArrive) h

theorem jobCancel {k id} : ClockAt τ (c.jobCancel k id) := by
  unfold Chip.jobCancel
  extract_lets v
  split
  · exact h.setCluster.jobReport
  · split
    · exact h.onChanter.opsComplete.jobEnd
    · exact h

/-! ### The cloakroom -/

theorem onUsh {f} : ClockAt τ (c.onUsh f) := .mk h

theorem pick {n} : ClockAt τ (c.pick n).2 := .mk h

theorem setFrame {f u} : ClockAt τ (c.setFrame f u) := h.onUsh.wrF

theorem takeFrames {t k u} : ∀ d ∈ c.takeFrames t k u, ClockAt τ d.1 := by
  unfold Chip.takeFrames
  dsimp only
  split
  · exact forall_mem_none
  · exact forall_mem_some (.foldl h.pick fun _ _ hd => hd.setFrame)

theorem takeSlot {t cls} : ∀ d ∈ c.takeSlot t cls, ClockAt τ d.1 := by
  unfold Chip.takeSlot
  extract_lets part r
  have hr : ∀ d ∈ r, ClockAt τ d.1 := by
    unfold r
    split
    · exact h.takeFrames
    · exact forall_mem_some (h.pick (n := part.length))
  clear_value part r
  split
  · exact forall_mem_none
  · exact forall_mem_some (mk (hr _ rfl))

theorem slotInc {a} : ClockAt τ (c.slotInc a) := h.onUsh

theorem slotDrop {a} : ClockAt τ (c.slotDrop a) := .ite h.onUsh h.onUsh.setFrame

theorem slotDec {a} : ClockAt τ (c.slotDec a) := .ite h.onUsh h.slotDrop

theorem takeBlock {t n align} : ∀ d ∈ c.takeBlock t n align, ClockAt τ d.1 := by
  unfold Chip.takeBlock
  extract_lets fit r
  have hr : ∀ d ∈ r, ClockAt τ d.1 := by
    unfold r
    split
    · exact Option.forall_mem_map.mpr h.takeFrames
    · exact forall_mem_some (h.pick (n := fit.length))
  clear_value r
  exact Option.forall_mem_map.mpr fun d hd => (hr d hd).onUsh

theorem freeBlock {a} : ClockAt τ (c.freeBlock a) := by
  unfold Chip.freeBlock
  extract_lets n c1
  split
  · exact h
  · exact .foldl h.onUsh fun _ _ hd => .ite hd hd.setFrame

theorem tkPut {i off n v} : ClockAt τ (c.tkPut i off n v) := h.memWrite.memWrite

theorem setFlag {i b v} : ClockAt τ (c.setFlag i b v) := h.tkPut

theorem setAux {i f} : ClockAt τ (c.setAux i f) := h.onUsh

theorem tkCount {old new} : ClockAt τ (c.tkCount old new) := h.wrF.wrF

theorem setStateWith {i new seq put} : ClockAt τ (c.setStateWith i new seq put) := h.tkPut.tkCount.journal

theorem setState {i new seq} : ClockAt τ (c.setState i new seq) := h.setStateWith

theorem pickTowers : ClockAt τ c.pickTowers.2 := .mk h

theorem takeTwo {n align} : ∀ d ∈ c.takeTwo n align, ClockAt τ d.1 := by
  unfold Chip.takeTwo
  dsimp only
  split
  · exact forall_mem_none
  next e1 =>
    split
    · exact forall_mem_none
    next e2 => exact forall_mem_some ((h.pickTowers.takeBlock _ e1).takeBlock _ e2)

theorem logPut {i p v} : ∀ d ∈ c.logPut i p v, ClockAt τ d := by
  unfold Chip.logPut
  extract_lets r1
  have h1 : ∀ d ∈ r1, ClockAt τ d := by
    unfold r1
    split
    · exact forall_mem_some h
    · exact Option.forall_mem_map.mpr fun r2 e1 => .foldl (h.takeTwo _ e1) fun _ _ hd => hd.memWriteNum.memWriteNum
  clear_value r1
  exact Option.forall_mem_map.mpr fun r3 e2 => (h1 _ e2).memWriteNum.memWriteNum

theorem logAppend {i a} : ∀ d ∈ c.logAppend i a, ClockAt τ d := by
  induction a generalizing c i with
  | nil =>
    unfold Chip.logAppend
    exact forall_mem_some h
  | cons x l ih =>
    unfold Chip.logAppend
    split
    · exact forall_mem_none
    next e => exact ih (h.logPut _ e).tkPut

theorem newRootOf {layers npos heads} : ∀ d ∈ c.newRootOf layers npos heads, ClockAt τ d.1 := by
  unfold Chip.newRootOf
  split
  · exact forall_mem_none
  next d1 _ e1 =>
    have h1 : ClockAt τ d1 := h.takeBlock _ e1
    extract_lets c1
    have h2 : ClockAt τ c1 := h1.memWrite
    clear_value c1
    refine .foldl_opt_fst (forall_mem_some h2) fun o x h3 => ?_
    split
    · exact forall_mem_none
    next d2 _ =>
      have h4 : ClockAt τ d2 := h3 _ rfl
      extract_lets ht
      clear_value ht
      split
      · exact forall_mem_some h4
      · split
        · exact forall_mem_none
        next d3 _ e2 =>
          have h5 : ClockAt τ d3 := h4.takeBlock _ e2
          exact forall_mem_some h5.memWrite.memWriteNum

theorem newRoot {im npos} : ∀ d ∈ c.newRoot im npos, ClockAt τ d.1 := h.newRootOf

theorem needChunk {root t k} : ∀ d ∈ c.needChunk root t k, ClockAt τ d := by
  unfold Chip.needChunk
  split
  · exact fun | _, rfl => h
  · extract_lets n
    exact Option.forall_mem_map.mpr fun r e => (h.takeBlock _ e).memWrite.memWriteNum

theorem putEntry {a slot fmt} : ClockAt τ (c.putEntry a slot fmt) := h.memWriteNum

theorem takeStop {b} : ∀ d ∈ c.takeStop b, ClockAt τ d.1 := by
  rw [Chip.takeStop]
  split
  · exact forall_mem_some h.onUsh
  · split
    · exact forall_mem_none
    · exact forall_mem_some h.memWrite.memWrite.onUsh

theorem shareStop {n} : ClockAt τ (c.shareStop n) := .ite h h.onUsh

theorem mendTwin {a b n both} : ClockAt τ (c.mendTwin a b n both) := .foldl h.memTouch fun _ _ hd => .ite hd.memWrite (.ite hd.memWrite hd)

theorem mend {i} : ClockAt τ (c.mend i) :=
  .foldl (ite h.mendTwin h.mendTwin.mendTwin).mendTwin fun _ _ hd => hd.mendTwin

theorem takeIndex : ∀ d ∈ c.takeIndex, ClockAt τ d.1 := by
  unfold Chip.takeIndex
  split
  · exact forall_mem_some h.onUsh
  · split
    · exact forall_mem_none
    · exact forall_mem_some h.onUsh

/-! ### Links -/

theorem setLink {l x} : ClockAt τ (c.setLink l x) := .mk h

theorem onLink {l f} : ClockAt τ (c.onLink l f) := h.setLink

theorem unshed {l} : ClockAt τ (c.unshed l) := .ite h.wrF.onLink h

theorem pumpFlits {l} : ClockAt τ (c.pumpFlits l) := .ite h h.unshed.onLink

theorem pump {l} : ClockAt τ (c.pump l) := .ite h.onLink.pumpFlits h

theorem request {l t w} : ClockAt τ (c.request l t w) := h.onLink.pump

theorem sendMsg {l kind ush w data} : ClockAt τ (c.sendMsg l kind ush w data) := h.request

theorem getAll {node annex why n} : ClockAt τ (c.getAll node annex why n) := by
  unfold Chip.getAll
  refine .foldl h fun d x h1 => ?_
  split
  · exact h1
  · exact h1.request

theorem closeAnnex {node annex} : ClockAt τ (c.closeAnnex node annex) := by
  unfold Chip.closeAnnex
  split
  · exact h
  · exact h.sendMsg

theorem weightsDone {m} : ClockAt τ (c.weightsDone m) := .mk (foldl h fun _ _ hd => hd.closeAnnex)

theorem dropReqs {f} : ClockAt τ (c.dropReqs f) := .foldl h fun _ _ hd => .ite hd hd.onLink

/-! ### Works of the usher -/

theorem enqueueJob {k w7} : ClockAt τ (c.enqueueJob k w7) := .ite h.wrF h.setCluster

theorem sendWork {w} : ClockAt τ (c.sendWork w) := (ite h h.memWrite).setCluster.enqueueJob.onUsh

theorem sendWorks : ClockAt τ c.sendWorks := .foldl h fun _ _ hd => .ite hd hd.sendWork

theorem workCluster {t} : ClockAt τ (c.workCluster t).2 := .mk h

theorem addWorkAt {k kind why items} : ClockAt τ (c.addWorkAt k kind why items) := h.onUsh

theorem addWork {t kind why items} : ClockAt τ (c.addWork t kind why items) := h.workCluster.addWorkAt

theorem addCopies {why items} : ClockAt τ (c.addCopies why items) := .foldl h fun _ _ hd => .foldl hd fun _ _ hd => hd.addWork

theorem worksGone {p} : ClockAt τ (c.worksGone p) := h.onUsh

theorem worksDrop {p} : ClockAt τ (c.worksDrop p) := (foldl h fun _ _ hd => ite hd.jobCancel hd).worksGone

/-! ### Sessions -/

theorem postFor {ring ans type count ticket body} : ClockAt τ (c.postFor ring ans type count ticket body) := h.post

theorem postDone {i reason status ans} : ClockAt τ (c.postDone i reason status ans) := h.postFor

theorem postMove {i type ans body} : ClockAt τ (c.postMove i type ans body) := .ite h.postFor h.journal

theorem postTokens {i n} : ClockAt τ (c.postTokens i n) := h.postFor.setAux

theorem postGroups {i a} : ClockAt τ (c.postGroups i a) := by
  induction a generalizing c i with
  | zero =>
    unfold Chip.postGroups
    exact h
  | succ n ih =>
    unfold Chip.postGroups
    exact .ite (ih h.postTokens) h

theorem flushTokens {i} : ClockAt τ (c.flushTokens i) := .ite h.postGroups h.postGroups.postTokens

theorem parkFor {i reason idx ans} : ClockAt τ (c.parkFor i reason idx ans) :=
  .ite h.flushTokens.setStateWith.setAux.postFor h.flushTokens.setStateWith.setAux.postDone

theorem freeArea {a} : ClockAt τ (c.freeArea a) := by
  unfold Chip.freeArea
  split
  · exact .mk h
  · exact h

theorem unstage {i} : ClockAt τ (c.unstage i) := h.onUsh.setAux

theorem spillAbandon {i} : ClockAt τ (c.spillAbandon i) := by
  unfold Chip.spillAbandon
  extract_lets x c1 c2 c3 c4
  have h1 : ClockAt τ c2 := h.worksDrop.unstage.dropReqs
  have h2 : ClockAt τ c3 := by
    unfold c3
    split
    · exact h1.closeAnnex
    · exact h1
  have h3 : ClockAt τ c4 := by
    unfold c4
    split
    · exact h2.freeArea
    · exact h2
  clear_value c2 c3 c4
  exact h3.setFlag.setAux

theorem recallDrop {i} : ClockAt τ (c.recallDrop i) :=
  (mk (foldl h.worksDrop.unstage fun _ _ hd => hd.slotDec).dropReqs).setFlag.setAux

theorem demoteSettle {i} : ClockAt τ (c.demoteSettle i) := by
  unfold Chip.demoteSettle
  extract_lets refs ws c1
  have h1 : ClockAt τ c1 := by
    unfold c1
    refine .foldl h fun d1 x1 h2 => ?_
    refine .foldl h2 fun d2 x2 h3 => ?_
    split
    · exact h3.slotDec
    · extract_lets c2
      have h4 : ClockAt τ c2 := h3.slotDec
      clear_value c2
      split
      · exact h4.setAux
      · exact h4
  clear_value c1
  exact h1.worksGone

theorem forkPages {root items} : ClockAt τ (c.forkPages root items) := by
  unfold Chip.forkPages
  refine .foldl h fun d x h1 => ?_
  split
  · exact h1.putEntry
  · exact h1

theorem forkSettle {i} : ClockAt τ (c.forkSettle i) :=
  (foldl h.worksDrop fun _ _ hd => .foldl hd fun _ _ hd => hd.copyMem).forkPages

theorem forksSettle {i} : ClockAt τ (c.forksSettle i) := .foldl h fun _ _ hd => hd.forkSettle

theorem dropWork {i} : ClockAt τ (c.dropWork i) := by
  unfold Chip.dropWork
  extract_lets c1 c2 c3
  have h1 : ClockAt τ c1 := ite (foldl h fun _ _ hd => ite hd.jobCancel hd).demoteSettle h
  have h2 : ClockAt τ c2 := ite h1.spillAbandon h1
  clear_value c1 c2
  exact (ite h2.recallDrop h2).setFlag

theorem postError {a ticket code off} : ClockAt τ (c.postError a ticket code off) := h.postFor

theorem flushRunning {i} : ClockAt τ (c.flushRunning i) := .ite h.flushTokens h

theorem retire {i ans} : ClockAt τ (c.retire i ans) := h.dropWork.forksSettle.flushRunning.setAux.setState

theorem setPack {i k} : ClockAt τ (c.setPack i k) := h.setAux

theorem spillWindow {i k} : ClockAt τ (c.spillWindow i k) := h.addCopies.setPack.sendWorks

theorem spillStage {i mid} : ClockAt τ (c.spillStage i mid) := .ite h h.onUsh.spillWindow

theorem recallSlots {a} : ∀ d ∈ c.recallSlots a, ClockAt τ d.1 := by
  induction a generalizing c with
  | nil =>
    unfold Chip.recallSlots
    exact forall_mem_some h
  | cons x l ih =>
    unfold Chip.recallSlots
    split
    · exact forall_mem_none
    next d1 _ e1 =>
      have h1 : ClockAt τ d1 := h.takeSlot _ e1
      exact Option.forall_mem_map.mpr fun r e2 => ih h1 r e2

theorem recallBegin {i im} : ClockAt τ (c.recallBegin i im) := by
  unfold Chip.recallBegin
  extract_lets x img
  split
  · exact h.onUsh
  next d _ e =>
    extract_lets c1 sp
    have h1 : ClockAt τ c1 := (h.recallSlots _ e).setAux
    clear_value c1
    exact .ite h1.getAll h1

/-! ### Epochs -/

theorem setModel {m v} : ClockAt τ (c.setModel m v) := h.onUsh

theorem setEpoch {epoch state crec} : ClockAt τ (c.setEpoch epoch state crec) := h.critWrite.wrF.wrF.event.onUsh

theorem putMove {n kind obj src dst len} : ClockAt τ (c.putMove n kind obj src dst len) :=
  .foldl h.memWrite fun _ _ hd => hd.memWriteNum

theorem postFlip {n} : ClockAt τ (c.postFlip n) := by
  unfold Chip.postFlip
  extract_lets dst o plan m x
  split
  · split
    · exact h
    · exact h.tkPut
  · exact h.setModel
  · exact h.critWrite

theorem moveFlip {n} : ClockAt τ (c.moveFlip n) := (foldl h fun _ _ hd => hd.memWriteNum).postFlip

theorem addMap {t} : ClockAt τ (c.addMap t) := by
  unfold Chip.addMap
  split
  · exact h
  · exact .ite h h.memWriteNum.putMove.onUsh.memWriteNum

theorem putRecord : ClockAt τ c.putRecord := h.memWrite

theorem firstLoading : ClockAt τ c.firstLoading :=
  (foldl (foldl h.onUsh fun _ _ hd => hd.addMap).putRecord fun _ _ hd => hd.moveFlip).setEpoch

theorem changeoverDue : ClockAt τ c.changeoverDue := .ite (.ite h.onUsh.firstLoading h.onUsh) h.onUsh

theorem planRelease : ClockAt τ c.planRelease := .ite h (.foldl h fun _ _ hd => hd.holdRelease)

/-! ### The host interface -/

theorem mapCopy {e p} : ClockAt τ (c.mapCopy e p).1 := by
  unfold Chip.mapCopy
  split
  · exact h
  · split
    next e => exact (h.takeBlock _ e).memWrite
    · exact h

/-! ### Effects of host commands -/

theorem doneCommand {a status result} : ClockAt τ (c.doneCommand a status result) := h.postFor

theorem doneCapacity {a} : ClockAt τ (c.doneCapacity a) := h.postFor

theorem doneTicket {i a status result} : ClockAt τ (c.doneTicket i a status result) := h.postFor

theorem tkPutAll {i d} : ClockAt τ (c.tkPutAll i d) := h.tkPut.tkPut

theorem newLog : ∀ d ∈ c.newLog, ClockAt τ d.1 := by
  unfold Chip.newLog
  refine Option.forall_mem_map.mpr fun a ha => ?_
  generalize leBytes 512 0 = l
  exact (h.takeTwo a ha).memWrite.memWrite

theorem keepMap {i first n m} : ∀ d ∈ c.keepMap i first n m, ClockAt τ d := by
  unfold Chip.keepMap
  extract_lets join
  have hjoin : ∀ d x, ClockAt τ d → ClockAt τ (join d x) := fun _ _ hd => hd.setAux
  split
  · exact forall_mem_some h
  · split
    · exact forall_mem_some (hjoin _ _ h)
    · split
      next e => exact forall_mem_some (hjoin _ _ (of_fst h.mapCopy e))
      · exact forall_mem_none

theorem mapLeft {m} : ClockAt τ (c.mapLeft m) := by
  unfold Chip.mapLeft
  split
  · exact .ite h h.freeBlock
  · exact h

theorem admitTicket {m} : ∀ d ∈ c.admitTicket m, ClockAt τ d := by
  unfold Chip.admitTicket
  extract_lets e1 p toks sr
  have h1 : ∀ d ∈ sr, ClockAt τ d.1 := by
    unfold sr
    split
    · exact h.takeStop
    · exact forall_mem_some h
  clear_value e1 p toks sr
  split
  · exact forall_mem_none
  next d1 _ =>
    split
    · exact forall_mem_none
    next d2 _ e2 =>
      split
      · exact forall_mem_none
      next d3 _ _ e3 =>
        extract_lets d4 c1
        clear_value d4
        split
        · exact forall_mem_none
        next d5 e4 =>
          split
          · exact forall_mem_none
          next d6 e5 =>
            extract_lets c2 c3 c4
            have h2 : ClockAt τ c2 := (((((h1 _ rfl).takeIndex _ e2).newLog _ e3).tkPutAll.logAppend _ e4).keepMap _ e5).tkPut.setFlag.setAux
            have hd : ClockAt τ c3 := by
              unfold c3
              split
              next _ e6 => exact (h2.newRoot _ e6).tkPut
              · exact h2
            clear_value c2 c3
            exact forall_mem_some hd.doneTicket.setState

theorem feedTokens {i m} : ∀ d ∈ c.feedTokens i m, ClockAt τ d := by
  unfold Chip.feedTokens
  extract_lets first
  split
  · exact forall_mem_none
  next e1 => exact Option.forall_mem_map.mpr fun r e2 => ((h.logAppend _ e1).keepMap _ e2).setAux

theorem resume {i m} : ClockAt τ (c.resume i m) := h.tkPut.setStateWith.setAux

theorem spillStart {i tgt ans} : ClockAt τ (c.spillStart i tgt ans) := by
  unfold Chip.spillStart
  extract_lets c1 x c2 c3 c4
  have h1 : ClockAt τ c1 := h.setFlag
  have h2 : ClockAt τ c2 := by
    unfold c2
    split
    · exact .mk h1
    · exact h1
  have h3 : ClockAt τ c4 := h2.setAux.spillStage
  clear_value c1 c2 c4
  split
  · exact h3
  · split
    · exact h3.spillAbandon
    · exact h3.sendMsg

theorem recallStart {i ans} : ClockAt τ (c.recallStart i ans) := h.setFlag.setAux.recallBegin

theorem chunkRecall {i t k} : ClockAt τ (c.chunkRecall i t k) := by
  unfold Chip.chunkRecall
  extract_lets b node annex x1 c1 x2
  split
  · exact h
  · split
    · exact h
    · exact (mk h).request

theorem forkSlots {j src} : ∀ d ∈ c.forkSlots j src, ClockAt τ d := by
  unfold Chip.forkSlots
  refine .foldl_opt (forall_mem_some h) fun o x h1 => ?_
  split
  · exact forall_mem_none
  next d1 =>
    have h2 : ClockAt τ d1 := h1 _ rfl
    extract_lets s fmt
    split
    · exact forall_mem_some h2.slotInc
    · exact Option.forall_mem_map.mpr fun r e => (h2.takeSlot _ e).addWork

theorem forkTables {j src} : ∀ d ∈ c.forkTables j src, ClockAt τ d.1 := by
  unfold Chip.forkTables
  split
  · exact forall_mem_none
  next d1 _ e1 =>
    extract_lets c1 r1
    have h1 : ∀ d ∈ r1, ClockAt τ d := by
      unfold r1
      refine .foldl_opt (forall_mem_some (foldl (h.newRootOf _ e1) fun _ _ hd => hd.memWriteNum)) fun o x h2 => ?_
      split
      · exact forall_mem_none
      next d2 =>
        refine Option.forall_mem_map.mpr fun r2 e2 => ?_
        extract_lets a b
        exact .foldl ((h2 _ rfl).needChunk _ e2) fun _ _ hd => hd.addWork
    clear_value r1
    split
    · exact forall_mem_none
    · exact Option.forall_mem_map.mpr fun r3 e3 => ((h1 _ rfl).forkSlots _ e3).sendWorks

theorem forkMaps {i j} : ∀ d ∈ c.forkMaps i j, ClockAt τ d := by
  unfold Chip.forkMaps
  refine .foldl_opt (forall_mem_some h) fun o x h1 => ?_
  split
  · exact forall_mem_none
  · exact Option.forall_mem_map.mpr fun r e => ((h1 _ rfl).takeBlock _ e).copyMem.setAux

theorem fork {i m} : ∀ d ∈ c.fork i m, ClockAt τ d := by
  unfold Chip.fork
  split
  · exact forall_mem_none
  next d1 _ e1 =>
    split
    · exact forall_mem_none
    next d2 _ _ e2 =>
      extract_lets src d3 d4 d5 d6 toks c1
      split
      · exact forall_mem_none
      next d7 e3 =>
        split
        · exact forall_mem_none
        next d8 _ e4 =>
          split
          · exact forall_mem_none
          next d9 e5 =>
            extract_lets c2 c3
            have h1 : ClockAt τ c2 := ((((((h.takeIndex _ e1).newLog _ e2).tkPutAll).logAppend _ e3).forkTables _ e4).tkPut.forkMaps _ e5).shareStop
            clear_value c2
            exact forall_mem_some h1.setAux.setState

theorem query {i m} : ClockAt τ (c.query i m) := (mk h).doneTicket

theorem journalRead {m} : ClockAt τ (c.journalRead m) :=
  (mk (foldl h fun _ _ hd => hd.memTouch)).doneCommand

theorem negotiate {m} : ClockAt τ (c.negotiate m) := by
  unfold Chip.negotiate
  extract_lets e stands old live areas
  split
  · exact h.doneCommand
  · extract_lets feat c1 x c2
    exact .ite h.doneCommand (mk h.wrF.wrF.wr).doneCommand

theorem budgetSet {m} : ClockAt τ (c.budgetSet m) := .ite h.doneCommand h.wr.onUsh.doneCommand

theorem planSelect {m} : ∀ d ∈ c.planSelect m, ClockAt τ d := by
  unfold Chip.planSelect
  extract_lets s
  split
  · exact forall_mem_some h.doneCommand
  · split
    · exact forall_mem_none
    · split
      · exact forall_mem_some h.onUsh.changeoverDue
      · exact forall_mem_some h.onUsh

theorem placeRun {im t ss n} : ∀ d ∈ c.placeRun im t ss n, ClockAt τ d.1 := by
  unfold Chip.placeRun
  split
  · extract_lets rest total k
    split
    · exact fun | _, rfl => h
    · refine Option.forall_mem_map.mpr fun r e => ?_
      extract_lets base c1
      have h1 : ClockAt τ c1 := by
        unfold c1
        refine .foldl (h.takeFrames _ e) fun d1 x h2 => ?_
        split
        · exact h2.memWrite
        · exact h2
      clear_value c1
      exact h1

theorem placeIn {im t ss n} : ∀ d ∈ c.placeIn im t ss n, ClockAt τ d.1 := by
  rw [Chip.placeIn]
  cases hr : c.placeRun im t ss n with
  | some r => exact forall_mem_some (h.placeRun _ hr)
  | none =>
    extract_lets r
    have hr : ∀ p ∈ r, ClockAt τ p.1 := by
      refine .foldl_opt_fst (forall_mem_some h) fun o s ho => ?_
      rcases o with _ | ⟨d, f, l⟩
      · exact forall_mem_none
      · exact Option.forall_mem_map.mpr (ClockAt.placeRun (ho _ rfl))
    clear_value r
    rcases r with _ | ⟨d, f, l⟩
    · exact forall_mem_none
    · exact Option.forall_mem_map.mpr (ClockAt.placeRun (hr _ rfl))

theorem placeModel {midx im} : ∀ d ∈ c.placeModel midx im, ClockAt τ d := by
  unfold Chip.placeModel
  extract_lets places r1 x1
  have h1 : ∀ d ∈ r1, ClockAt τ d.1 := by
    unfold r1
    refine .foldl_opt_fst (forall_mem_some h) fun o x2 h2 => ?_
    split
    · exact forall_mem_none
    next d1 _ _ _ =>
      have h3 : ClockAt τ d1 := h2 _ rfl
      split
      · exact forall_mem_some h3
      · split
        · exact forall_mem_none
        next _ _ _ e1 => exact forall_mem_some (h3.placeIn _ e1)
  clear_value places r1 x1
  exact Option.forall_mem_map.mpr fun r2 e2 => (h1 _ e2).setModel

theorem putAdapters {midx p} : ClockAt τ (c.putAdapters midx p) :=
  .ite h (.foldl h fun _ _ hd => .foldl hd fun _ _ hd => hd.memWriteNum)

theorem adaptersNow {midx} : ClockAt τ (c.adaptersNow midx) := by
  unfold Chip.adaptersNow
  split
  · exact .ite h.putAdapters h
  · exact h

theorem placeAdapter {midx n im} : ∀ d ∈ c.placeAdapter midx n im, ClockAt τ d := by
  rw [Chip.placeAdapter]
  refine Option.forall_mem_map.mpr fun r hr => ClockAt.adaptersNow (ClockAt.setModel (?_ : ClockAt τ r.1))
  refine foldl_opt_fst (forall_mem_some h) (fun o t ho => ?_) r hr
  rcases o with _ | ⟨d, l⟩
  · exact forall_mem_none
  · have hd : ClockAt τ d := ho _ rfl
    dsimp only
    split
    · exact forall_mem_none
    next e => exact forall_mem_some (hd.placeIn _ e)

theorem dropAdapter {midx n} : ClockAt τ (c.dropAdapter midx n) :=
  (foldl h fun _ _ hd => .foldl hd fun _ _ hd => hd.setFrame).setModel.adaptersNow

theorem modelUnload {m} : ClockAt τ (c.modelUnload m) :=
  .ite h.doneCommand (.ite h.dropAdapter.doneCommand (foldl (foldl h fun _ _ hd => hd.dropAdapter) fun _ _ hd => hd.setFrame).setModel.doneCommand)

theorem reloadRanges {midx im} : ClockAt τ (c.reloadRanges midx im) := by
  unfold Chip.reloadRanges
  extract_lets s c1 x1
  have h1 : ClockAt τ c1 := by
    unfold c1
    refine .foldl h fun d x2 h2 => ?_
    split
    · exact h2
    · extract_lets bs
      exact .foldl h2 fun _ _ hd => hd.memWrite
  clear_value c1
  exact h1.setModel.weightsDone

theorem modelLoad {m} : ClockAt τ (c.modelLoad m) := by
  unfold Chip.modelLoad
  extract_lets midx n im res fail bad
  have hf_fail : ∀ y, ClockAt τ (fail y) := by
    intro y
    unfold fail
    exact h.doneCommand
  split
  · exact hf_fail _
  · split
    · exact hf_fail _
    · split
      · split
        · exact .ite (hf_fail _) (.ite (hf_fail _) h.reloadRanges.doneCommand)
        · split
          · exact hf_fail _
          · split
            · exact hf_fail _
            next e1 => exact .ite (h.placeModel _ e1).doneCommand (hf_fail _)
      · split
        · exact hf_fail _
        · split
          · exact hf_fail _
          · split
            · exact hf_fail _
            next e2 => exact (h.placeAdapter _ e2).doneCommand

theorem tryResume {i m} : ClockAt τ (triedChip (c.tryResume i m)) := by
  unfold Chip.tryResume
  extract_lets st rst go
  have hgo : ∀ c, ClockAt τ c → ClockAt τ (triedChip (go c)) := by
    intro c h
    refine tried_ite h.resume (tried_ite h.postError ?_)
    split
    next d e => exact (h.feedTokens d e).resume
    · exact h
  clear_value go
  exact tried_ite (tried_ite h (tried_ite (hgo _ h.spillAbandon) (hgo _ h))) (tried_ite (tried_ite h h.recallStart)
    (tried_ite h (tried_ite h.resume h.postError)))

theorem tryPark {i m} : ClockAt τ (triedChip (c.tryPark i m)) :=
  tried_ite (tried_done h.parkFor) (tried_ite (tried_ite h (tried_done h.parkFor)) (tried_ite (tried_done h.postDone)
    (tried_ite (tried_wait h.setFlag) (tried_done h.postError))))

theorem tryFork {i m} : ClockAt τ (triedChip (c.tryFork i m)) := by
  refine tried_ite h.postError (tried_ite h (tried_ite h.recallStart ?_))
  split
  next d e => exact h.fork d e
  · exact h.doneCapacity

theorem trySpill {i m} : ClockAt τ (triedChip (c.trySpill i m)) := by
  unfold Chip.trySpill
  extract_lets st sp
  refine tried_ite h (tried_ite (tried_done h.postMove) (tried_ite ?_ (tried_done h.postError)))
  split
  · exact tried_done h.postError
  · exact tried_ite (tried_done h.postError) (tried_done h.spillStart)
  · exact tried_done h.spillStart

theorem tryRecall {i m} : ClockAt τ (triedChip (c.tryRecall i m)) :=
  tried_ite h.postError (tried_ite h (tried_ite h.recallStart (ClockAt.postMove (h.foldl fun _ _ h => h.chunkRecall))))

theorem tryRelease {i m} : ClockAt τ (triedChip (c.tryRelease i m)) := by
  unfold Chip.tryRelease
  extract_lets st join c1
  have h1 : ClockAt τ c1 := by
    unfold c1
    split
    · exact h.memWriteNum
    · exact h
  exact tried_ite (tried_done h.postError) (tried_ite h (tried_ite (tried_done h.setAux)
    (tried_ite (tried_wait h1.flushTokens.setAux) (tried_done h1.retire))))

theorem tryCmd {m} : ClockAt τ (triedChip (c.tryCmd m)) := by
  unfold Chip.tryCmd
  extract_lets opc opened
  clear_value opc opened
  refine tried_ite ?_ ?_
  · split
    · exact tried_done h.postError
    next i _ =>
      extract_lets c1
      have h1 : ClockAt τ c1 := h.mend
      clear_value c1
      refine tried_ite (tried_ite h1 (tried_done h1.postError)) ?_
      split
      · exact tried_ite h1.tryResume h1
      · exact tried_ite h1.tryResume h1
      · exact tried_ite h1.tryPark h1
      · exact tried_ite h1 h1.tryFork
      · exact h1.tryRelease
      · exact tried_ite h1 h1.trySpill
      · exact tried_ite h1 h1.tryRecall
      · exact tried_done h1.query
  · split
    · refine tried_ite ?_ h
      split
      next d e => exact h.admitTicket d e
      · exact tried_done h.doneCapacity
    · exact tried_done (.ite h.modelUnload h.modelLoad)
    · split
      next d e => exact h.planSelect d e
      · exact h
    · exact tried_done h.budgetSet
    · exact tried_done h.negotiate
    · exact tried_done h.journalRead

theorem resumeEarly {m} : ClockAt τ (c.resumeEarly m).1 := by
  unfold Chip.resumeEarly
  extract_lets opc
  split
  · exact h
  · split
    · exact h
    · split
      · exact h
      · split
        · exact h.setFlag
        · split
          · exact h
          · split
            next e => exact (h.feedTokens _ e).setFlag
            · exact h.setFlag

theorem settleGo {blocked l} : ClockAt τ (c.settleGo blocked l).1 := by
  induction l generalizing c blocked with
  | nil => exact h
  | cons m l ih =>
    unfold Chip.settleGo
    extract_lets w opc m1
    split
    · split
      next d _ e => exact ih (.of_fst h.resumeEarly e)
    · have ht : ClockAt τ (triedChip (c.tryCmd m1)) := h.tryCmd
      split
      next d e =>
        rw [e] at ht
        exact ih (ClockAt.mapLeft ht)
      next d e =>
        rw [e] at ht
        split
        next d' _ e' => exact ih (.of_fst (ClockAt.resumeEarly ht) e')

theorem settle : ClockAt τ c.settle := .mk (mk h).settleGo

/-! ### Resets -/

theorem ringWrite {key e} : ClockAt τ (c.ringWrite key e) := .mk h.memWrite

theorem drainEvents : ClockAt τ c.drainEvents := .foldl (mk h) fun _ _ hd => .foldl hd fun _ _ hd => hd.ringWrite

theorem vaultsSleep {ks} : ClockAt τ (c.vaultsSleep ks) := .foldl h fun _ _ hd => .ite hd hd.selfRefreshEnter

theorem warmEnter : ClockAt τ c.warmEnter :=
  .mk (foldl (.mk h.drainEvents) fun _ _ hd => hd.abortJobs).vaultsSleep

theorem warmGo : ClockAt τ c.warmGo := .ite h h.wrF

/-- A warm reset before the first seal is a cold one. -/
theorem warmReset (he : c.sys.bring.everSealed = true) : ClockAt τ c.warmReset := by
  unfold Chip.warmReset
  rw [he]
  exact .ite h h.warmEnter.wrF.warmGo

theorem bringReset_warm {k} (he : c.sys.bring.everSealed = true) : ClockAt τ (c.bringReset 2 k) := .ite h (h.warmReset he)

theorem alert {cause} : ClockAt τ (c.alert cause) := .mk h

/-! ### Debug -/

theorem whistleEvent {stop cause} : ClockAt τ (c.whistleEvent stop cause) := .foldl h fun _ _ hd => hd.event

theorem whistleStop {cause mx} : ClockAt τ (c.whistleStop cause mx) := by
  unfold Chip.whistleStop
  extract_lets c1 c2 x1 c3 c4
  have h1 : ClockAt τ c2 := by
    unfold c2
    refine .foldl h fun d x2 h2 => ?_
    extract_lets m
    exact h2.onGal
  clear_value c2
  exact (mk h1).wrF.wrF.wrF.bump.whistleEvent

theorem onPins {f} : ClockAt τ (c.onPins f) := .mk h

theorem tap {ir} : ClockAt τ (c.tap ir) := .mk h

theorem tapHeld : ClockAt τ c.tapHeld := .mk h

theorem askWhistle {i} : ClockAt τ (c.askWhistle i) := .ite h h.requestWhistle

theorem watchRelease : ClockAt τ c.watchRelease := .ite (mk h).planRelease (mk h)

theorem whistleEnd : ClockAt τ c.whistleEnd :=
  (ite h (foldl (foldl (ite (foldl h.wrF fun _ _ hd => hd.onGal).whistleEvent.watchRelease
    (foldl h.wrF fun _ _ hd => hd.onGal).whistleEvent) fun _ _ hd => hd.postKept) fun _ _ hd => ite hd.pump hd).settle)

end

end

end ClockAt

section
variable {s : State}

/-- What a meaning answers, if it goes on, has the time base at τ. -/
def ClockNext (τ : DWord × Bool) (r : Host.Outcome State Fault Refusal) : Prop := ∀ t, r = .next t → ClockAt τ t.chip

theorem ClockNext.onChip {τ : DWord × Bool} {f : Chip → Chip} (hf : ClockAt τ (f s.chip)) : ClockNext τ (s.onChip f) := by
  rintro _ ⟨⟩
  exact hf

/-- The time base of the module as it stands. -/
def clock (s : State) : DWord × Bool := (s.chip.now, s.chip.pllLocked)

theorem clockAt_clock : ClockAt (clock s) s.chip := rfl

theorem ClockNext.onJtag {ir : Byte} {f : Chip → Chip} (hf : ∀ c, ClockAt (clock s) c → ClockAt (clock s) (f c)) :
    ClockNext (clock s) (s.onJtag ir f) :=
  .onChip (.ite clockAt_clock (.ite (hf _ clockAt_clock.tap) clockAt_clock.tapHeld))

theorem execWhistle_clock {mx : List MxStand} : ClockNext (clock s) (execWhistle mx s) := .onChip (.ite clockAt_clock clockAt_clock.whistleStop)

theorem execWhistleReq_clock : ClockNext (clock s) (execWhistleReq s) := .onChip clockAt_clock.askWhistle

theorem execWhistleN_clock : ClockNext (clock s) (execWhistleN s) := .onChip clockAt_clock.askWhistle

theorem execWhistleResume_clock : ClockNext (clock s) (execWhistleResume s) := .onChip clockAt_clock.whistleEnd

theorem execJtagWhistle_clock : ClockNext (clock s) (execJtagWhistle s) := .onJtag fun _ h => h.askWhistle

theorem execJtagResume_clock : ClockNext (clock s) (execJtagResume s) := .onJtag fun _ h => h.whistleEnd

theorem execThermalStop_clock : ClockNext (clock s) (execThermalStop s) :=
  .onChip (.ite clockAt_clock (ClockAt.foldl clockAt_clock.warmEnter.wrF fun _ _ hd => hd.wrF.wrF).alert)

theorem execResetInputRelease_clock {cold : Bool} : ClockNext (clock s) (execResetInputRelease cold s) :=
  .onChip (.ite (.mk rfl) (.ite (ClockAt.mk rfl).warmGo (.mk rfl)))

section
variable (he : s.chip.sys.bring.everSealed = true)
include he

theorem execWarmReset_clock : ClockNext (clock s) (execWarmReset s) := .onChip (clockAt_clock.warmReset he)

theorem execWarmrstN_clock : ClockNext (clock s) (execWarmrstN s) := .onChip (.ite clockAt_clock ((ClockAt.mk rfl).warmReset he))

theorem execBringResetWarm_clock {key : Half} : ClockNext (clock s) (execBringResetWarm key s) :=
  .onChip (.ite (clockAt_clock.bringReset_warm he) clockAt_clock)

theorem execThermalResume_clock : ClockNext (clock s) (execThermalResume s) := by
  refine .onChip ?_
  unfold Chip.thermResume
  rw [he]
  exact .ite clockAt_clock (ClockAt.mk clockAt_clock.wrF.onPins).wrF.warmGo

end

end

end Sys2Proof.Laws

namespace Sys2Proof.Proofs
open Sys2Proof.Machine Sys2Proof.Laws

/-- Settles O60: the cold resets start from the state after reset, and every other operation here leaves the time base where it stands. -/
theorem timeBaseSurvivesResets : Obligations.TimeBaseSurvivesResets := by
  have kept : ∀ {s t : State} {r : Host.Outcome State Fault Refusal}, ClockNext (clock s) r → r = .next t →
      t.chip.now = s.chip.now ∧ t.chip.pllLocked = s.chip.pllLocked := fun h e => Prod.mk.inj (h _ e)
  refine fun s t => ⟨?powerOn, ?cold, fun cold mx => ?running, fun he key => ?warm⟩
  case powerOn =>
    rintro board ⟨⟩
    rfl
  case cold =>
    rintro ⟨⟩
    rfl
  case running =>
    simp only [List.forall_mem_cons]
    exact ⟨kept execWhistle_clock, kept execThermalStop_clock, kept execResetInputRelease_clock, kept execWhistleReq_clock,
      kept execWhistleN_clock, kept execWhistleResume_clock, kept execJtagWhistle_clock, kept execJtagResume_clock, List.forall_mem_nil _⟩
  case warm =>
    simp only [List.forall_mem_cons]
    exact ⟨kept (execWarmReset_clock he), kept (execWarmrstN_clock he), kept (execBringResetWarm_clock he),
      kept (execThermalResume_clock he), List.forall_mem_nil _⟩

end Sys2Proof.Proofs
end
